-- ==== Sys2Proof/Word.lean ====
section
/-! DEFINITION. The word types of the model (00 R8, R9): a byte and the register width of BAR0. -/

namespace Sys2Proof

/-- A byte of any byte-addressed store. -/
abbrev Byte := BitVec 8

/-- A 32-bit register of BAR0 or of the indirect space (15 R366, R377). -/
abbrev W32 := BitVec 32

/-- A 64-bit counter or a digest word (15 R378). -/
abbrev W64 := BitVec 64

/-- A SHA3-256 digest (14 R347, 16 R386). -/
abbrev W256 := BitVec 256

end Sys2Proof
end

