-- ==== Sys2Proof/Syntax.lean ====
section
/-! DEFINITION. The commands the block takes: one constructor of Instr per row of spec/opcode_table.json, with the operands
that the outside supplies at that event (the table gives none: log entry 8), and the types of those operands. -/

namespace Sys2Proof

/-- The order codes (00 R1, coded as in sys.id, 15 R371). -/
inductive Order where
  | o96 | c96 | c80
  deriving DecidableEq, Repr, Inhabited

/-- Completion status codes (00 R6), with TIER_FAULT and the rest of that table. -/
inductive Status where
  | ok | okRecovered | skippedNonfinite | okRescaled
  | stateInvalid | resourceShort | contractVersion | boundExceeded
  | sparseCap | indexRange | formatInvalid | spillwayExhausted
  | stepAborted | timeout | peerLost
  | memoryUncorrectable | tierFault
  deriving DecidableEq, Repr, Inhabited

/-- Modes of a sampling hop (06 R143). -/
inductive SampMode where
  | uniform | weighted | temporalRecent | temporalWindow | full
  deriving DecidableEq, Repr, Inhabited

/-- One hop of a sampling specification (06 R143). -/
structure Hop where
  mode : SampMode
  fanout : Nat
  repl : Bool
  tbound : Bool
  window : Nat
  typeMask : BitVec 256
  deriving DecidableEq, Repr, Inhabited

/-- A sampling specification: its hops (06 R143). -/
structure SampSpec where
  hops : List Hop
  deriving DecidableEq, Repr, Inhabited

/-- A row-table declaration (07 R153). `fmt` is coded as FMT of 14 R348: 0 FP32, 1 BF16, 2 INT8, 4 BS8. -/
structure TableDecl where
  sharded : Bool
  rows : Nat
  followNode : Bool
  fmt : Nat
  width : Nat
  train : Bool
  gradBs8 : Bool
  eddy : Bool
  hotThresh : Nat
  migMax : Nat
  migArea : Nat
  shadow : Nat
  localMax : Nat
  moments : Nat
  deriving DecidableEq, Repr, Inhabited

/-- A kernel declaration (14 R345, 03 R65, R67): operand formats coded as FMT of 14 R348, whether it is a vector
reduction, its maximum K, its split-K part lengths if any, the tensors it names, and the calibrated evaluation tensor that its tiles form, if
any (03 R63). -/
structure KernelDecl where
  afmt : Nat
  bfmt : Nat
  vecRed : Bool
  headered : Bool
  pattern44 : Bool
  maxK : Nat
  parts : Option (List Nat)
  tensors : List Nat
  forms : Option Nat
  deriving DecidableEq, Repr, Inhabited

/-- A parallel group (01 R36): kind 0 data, 1 graph-partition, 2 layer-slice; its channel; its members' ranks; and for a layer-slice group,
layer by layer, the bytes of activations and partial products that each member sends each other one in Forward and in Backward (01 R12). -/
structure GroupDecl where
  kind : Nat
  vc : Nat
  members : List Nat
  forward : List Nat
  backward : List Nat
  deriving DecidableEq, Repr, Inhabited

/-- The reduction format of a weight-gradient tensor (09 R217) and the moments its optimizer keeps (14 R431). -/
structure GradDecl where
  tensor : Nat
  bs8 : Bool
  elems : Nat
  moments : Nat
  deriving DecidableEq, Repr, Inhabited

/-- A generator stream (12 R301). -/
structure StreamDecl where
  tag : Nat
  tensor : Nat
  deriving DecidableEq, Repr, Inhabited

/-- The declarations of the DECL and KERNELS sections (14 R345); their byte layout is not given (log entry 9). -/
structure Decl where
  kernels : List KernelDecl
  groups : List GroupDecl
  memHbm : Nat
  memDram : Nat
  memSram : Nat
  memFlash : Nat
  nodes : Nat
  partTable : Option (List Nat)
  compactUs : Nat
  graphBytes : Nat
  specs : List SampSpec
  tables : List TableDecl
  eddyQuota : Option (List Nat)
  grads : List GradDecl
  rxMax : Nat
  streams : List StreamDecl
  purposeTags : List Nat
  calibN : Nat
  ringLen : Nat
  ringMax : Nat
  ringDeclared : Bool
  capPoints : List (Nat × Nat)
  capBytes : Nat
  scoreTensor : Option Nat
  scoreBytes : Nat
  inputTables : List Nat
  attLayers : Nat
  attHeads : Nat
  maxTargets : Nat
  ledgerCap : Nat
  rounds : Nat
  evalBatch : Nat
  maxRowsUpd : Nat
  maxDelta : Nat
  planN : Nat
  planD : Nat
  mergeN : Nat
  mergeD : Nat
  mergeV : Nat
  tailBytes : Nat
  coldBytes : Nat
  mirrorImage : Nat
  deriving DecidableEq, Repr, Inhabited

/-- A range of device addresses. -/
structure Region where
  base : Nat
  len : Nat
  deriving DecidableEq, Repr, Inhabited

/-- Where the loader put a row table on this module (07 R155): directory, slots (first `rowsHere` for rows, the rest for
migration and shadow), masters and moments. -/
structure TabPlace where
  dir : Nat
  slots : Nat
  slotCount : Nat
  master : Nat
  moments : Nat
  deriving DecidableEq, Repr, Inhabited

/-- A weight slice (09 R213, R430): its number at the owner, its tensor, its element range, and at the owner the device
addresses of its two copies (01 R23), each a working copy and a master with the moments behind it, and of its reduced gradient. -/
structure SlicePlace where
  id : Nat
  owner : Nat
  tensor : Nat
  first : Nat
  count : Nat
  group : Nat
  work0 : Nat
  work1 : Nat
  master0 : Nat
  master1 : Nat
  result : Nat
  deriving DecidableEq, Repr, Inhabited

/-- A contiguous range of a tensor's logical rows on this module, as MAP_TENSOR reports it (13 R343). -/
structure RowPlace where
  tensor : Nat
  first : Nat
  rows : Nat
  rowBytes : Nat
  addr : Nat
  stride : Nat
  deriving DecidableEq, Repr, Inhabited

/-- The loader's placement on this module (01 R37), free for the loader to choose (log entry 9). `staging` is the base of Confluence's staging
region (09 R215), `sent` the area for the contributions that this module keeps (09 R215), `scoreGrad` the place of the score output's gradient (12 R317),
`partTable` that of the owner table of PART TABLE (06 R129), `partials` gives by kernel number the areas for the
partials of the kernels with split parts (03 R67), `undo` and `pending` the regions of module DRAM for the undo log and for the deltas that
this module holds pending (08 R203). -/
structure Placement where
  ledger : Nat
  attrs : Nat
  evalLedger : Nat
  evalAttrs : Nat
  graph : Region
  tabs : List TabPlace
  slices : List SlicePlace
  grads : List (Nat × Nat)
  score : Nat
  attention : Nat
  evInputs : Nat
  evGrads : Nat
  evVersions : Nat
  scoreGrad : Nat
  capture : Region
  tailrace : Region
  cold : Region
  mirror : List Nat
  mirrored : List Region
  carried : Region
  ring : Region
  ringDir : Nat
  localTabs : List (Nat × Nat)
  rows : List RowPlace
  staging : Nat
  sent : Region
  partTable : Nat
  partials : List (Nat × Region)
  undo : Region
  pending : Region
  receive : List Region
  deriving DecidableEq, Repr, Inhabited

/-- A distribution that INIT draws from, with its FP32 parameters (12 R303). -/
inductive InitDist where
  | uniform (lo hi : W32) | bernoulli (p : W32) | normalBm (mean std : W32) | normalTab (mean std : W32)
  deriving DecidableEq, Repr, Inhabited

/-- What INIT writes at a place: bytes, or elements drawn with purpose INIT for a tensor from a logical element on, stored in FP32, BF16 or XM48 as
FMT of 14 R348 (14 R350 step 4, 12 R298). -/
inductive InitData where
  | bytes (l : List Byte)
  | drawn (dist : InitDist) (tensor first n fmt : Nat)
  deriving DecidableEq, Repr, Inhabited

/-- One write of the INIT section's code. -/
structure InitWrite where
  addr : Nat
  data : InitData
  deriving DecidableEq, Repr, Inhabited

/-- What the INIT section's code writes (14 R350 step 4), in order (log entry 9: the spec gives the code no encoding). -/
abbrev InitWrites := List InitWrite

/-- A message of Yenos Link (10 R244): header fields and the bytes after the header. -/
structure Msg where
  typ : Nat
  opc : Nat
  resp : Bool
  last : Bool
  links : Nat
  vc : Nat
  src : Nat
  dst : Nat
  id : Nat
  body : List Byte
  deriving DecidableEq, Repr, Inhabited

/-- What the last part of a port's training finds (10 R237, R242, R254): the errors of each lane's test in 2 × 10^9 bits, the lanes that pass at the
far end, and the flits of credit per VC that the far end advertises. -/
structure LaneTest where
  errors : List Nat
  far : BitVec 24
  credits : List Nat
  deriving DecidableEq, Repr, Inhabited

/-- What JOIN traffic from a member of a formed machine tells (10 R258, 11 R288; the spec gives no layout): its ranks section, and the YL
version, firmware level, contract version and numerics level that a loaded program needs. -/
structure JoinInfo where
  ranks : List Nat
  need : Option (List Nat)
  deriving DecidableEq, Repr, Inhabited

/-- What the coordinator finds of a spare (11 R280; the exchange that tells it is not given): its position, whether it is HALTED, the
program it has loaded, its order code, its YL version, firmware level, contract version and numerics level, and the positions it reaches. -/
structure SpareState where
  pos : Nat
  halted : Bool
  hash : Option W256
  order : Order
  levels : List Nat
  reaches : List Nat
  deriving DecidableEq, Repr, Inhabited

/-- What a module that decides about a loss finds in the machine (11 R279, R280, R286; the exchange that tells it is not given): the spares,
SUBST_EN of the coordinator, the ranks that alone hold some part, and the ends (position, port), at members, of the links that were UP. -/
structure Survey where
  spares : List SpareState
  substEn : Bool
  sole : List Nat
  wasUp : List (Nat × Nat)
  deriving DecidableEq, Repr, Inhabited

/-- What a poll reads for one ring (13 R329): the doorbell record and, in order from slot CI, the 64-byte descriptors. -/
structure DoorbellRead where
  ring : Nat
  pi : Nat
  gen : Nat
  descs : List (List Byte)
  deriving DecidableEq, Repr, Inhabited

/-- Two raw reads of one HBM burst (36 symbols each) or one DRAM/SRAM word (10 each), check symbols first (08 R192, R193). -/
structure RawWords where
  addr : Nat
  first : List Byte
  second : List Byte
  deriving DecidableEq, Repr, Inhabited

/-- What follows an uncorrectable HBM read (08 R198): the raw words of the four further reads of the burst, and when its page is copied those of the
other bursts of it that show an error. -/
structure Retest where
  again : List RawWords
  copies : List RawWords
  deriving DecidableEq, Repr, Inhabited

/-- The raw reads of a burst or word, and what the reads show that follow an uncorrectable one (08 R198). -/
structure RawRead extends RawWords where
  tests : Retest
  deriving DecidableEq, Repr, Inhabited

/-- What a read served (08 R197, R433). -/
inductive ReadFor where
  | step | boundary | boundarySource (tag : Nat) | command (ring : Nat) | scrub (stepData : Bool)
  deriving DecidableEq, Repr, Inhabited

/-- A contribution's payload as an adder reads it out of staging, where that differs from what is staged there (09 R224). -/
structure AdderRead where
  src : Nat
  payload : List Byte
  deriving DecidableEq, Repr, Inhabited

/-- Flash blocks after the translation layer's work: all of the raw capacity, good, and replacement blocks (08 R208, R209). -/
structure FlashBlocks where
  raw : Nat
  good : Nat
  spare : Nat
  deriving DecidableEq, Repr, Inhabited

/-- What LOAD_PROGRAM gets of the loader: the placement on this module and, on a spare, the one of each rank it may take (11 R281; log entry 9). -/
structure Placing where
  place : Placement
  spares : List (Nat × Placement)
  deriving DecidableEq, Repr, Inhabited

/-- What COPY gets: its host buffer, and the flash blocks left if one failed as it was written (08 R208; log entry 124). -/
structure CopyIn where
  host : List Byte
  bad : Option FlashBlocks
  deriving DecidableEq, Repr, Inhabited

/-- What QUIESCE gets: its ring, and what the module finds in the machine (11 R290). -/
structure QuiesceIn where
  ring : Nat
  survey : Survey
  deriving DecidableEq, Repr, Inhabited

/-- A REMOTE_ACC message, and what an adder reads amiss as it sums (09 R224). -/
structure AccIn where
  msg : Msg
  reads : List AdderRead
  deriving DecidableEq, Repr, Inhabited

/-- A retention record that has been written: its step, and the flash blocks left if one failed (08 R208; log entry 124). -/
structure RecordDone where
  step : Nat
  bad : Option FlashBlocks
  deriving DecidableEq, Repr, Inhabited

/-- A FAILURE_REPORT message, and what the module that decides finds in the machine (11 R279, R280). -/
structure ReportIn where
  msg : Msg
  survey : Survey
  deriving DecidableEq, Repr, Inhabited

/-- A rank that has not answered its PROBE, and what the module that decides finds in the machine (11 R279, R280). -/
structure ProbeIn where
  rank : Nat
  survey : Survey
  deriving DecidableEq, Repr, Inhabited

/-- A flit as a port receives it, and for each of the Reed-Solomon codewords that carry its bits the places, 0 to 559, of the 10-bit symbols that
arrive wrong (10 R236; log entry 121). -/
structure RxFlit where
  bytes : List Byte
  wrong : List (List Nat)
  deriving DecidableEq, Repr, Inhabited

/-- A read of the patrol scrub, and whether the step in progress uses its data (08 R433). -/
structure ScrubRead where
  raw : RawRead
  stepData : Bool
  deriving DecidableEq, Repr, Inhabited

/-- A lost message's MSGID, and whether it was discarded under 10 R247 (10 R241). -/
structure LostId where
  id : Nat
  discarded : Bool
  deriving DecidableEq, Repr, Inhabited

/-- What JOIN traffic tells: the members and levels, if a member of a formed machine sends it, or that the spare there has left (log entry 35). -/
structure JoinWord where
  info : Option JoinInfo
  left : Bool
  deriving DecidableEq, Repr, Inhabited

/-- How the write of FW_PUSH ends (16 R402, R403): to the end, a sector that stays bad, or cut by power or PERST#. -/
inductive PushEnd where
  | done | sectorFails (sector : Nat) | cut (sectors : Nat)
  deriving DecidableEq, Repr, Inhabited

/-- What the source of DIAG reads of one lane (10 R265, R266; 13 R343). -/
structure LaneReading where
  errors : Nat
  bits : Nat
  eyeMv : Nat
  eyeUi : Nat
  deriving DecidableEq, Repr, Inhabited

/-- Units with descriptor queues that a task issues to (14 R357). -/
inductive UnitKind where
  | mc | braid | quarry | tailrace
  deriving DecidableEq, Repr, Inhabited

/-- Element-wise operations of the vector unit (02 R59) and conversions (02 R48). -/
inductive VOp where
  | add | sub | mul | fma | cmp | min | max | convert
  deriving DecidableEq, Repr, Inhabited

/-- Operands of an element-wise operation: formats coded as FMT of 14 R348 (conversions may name any, the rest FP32 or BF16),
element count, addresses, and for scaled targets the tensor, whose declaration gives the recipe (03 R62), and the scale plane. -/
structure VArgs where
  op : VOp
  ifmt : Nat
  ofmt : Nat
  n : Nat
  a : Nat
  b : Nat
  c : Nat
  dst : Nat
  tensor : Nat
  scalePlane : Nat
  deriving DecidableEq, Repr, Inhabited

/-- Operands common to the RNG operations (12 R303): purpose tag, tensor, first logical index, count, output. -/
structure RngArgs where
  tag : Nat
  tensor : Nat
  first : Nat
  n : Nat
  bf16 : Bool
  dst : Nat
  deriving DecidableEq, Repr, Inhabited

/-- Operands of SP_ENCODE (05 R106): element format as FMT of 14 R348, lines, K, dense source, requested format
(1 BITMAP, 2 RLE_BITMAP), CAP24, destination and its slot stride. -/
structure SpArgs where
  fmt : Nat
  lines : Nat
  k : Nat
  src : Nat
  srcStride : Nat
  form : Nat
  cap24 : Bool
  dst : Nat
  dstStride : Nat
  deriving DecidableEq, Repr, Inhabited

/-- Operands of MASK44 (05 R118): source format (0 FP32, 1 BF16, 8 XM48), K and N, source, declared element format as FMT of 14 R348,
outputs for W and, if requested, its transpose, each with its scale plane and the tensor that it forms, whose declaration gives the recipe or the
scale (03 R62), and whether the source is pruned. -/
structure MaskArgs where
  sfmt : Nat
  k : Nat
  n : Nat
  src : Nat
  srcStride : Nat
  fmt : Nat
  dst : Nat
  dstStride : Nat
  scales : Nat
  tensor : Nat
  dstT : Option Nat
  dstTStride : Nat
  scalesT : Nat
  tensorT : Nat
  prune : Bool
  deriving DecidableEq, Repr, Inhabited

/-- The commands, in the order of spec/opcode_table.json. `ring` names a host ring; `host` is the content of the host buffers
the descriptor names (empty for device buffers); `core` is a logical core and `slot` the task the work is for. -/
inductive Instr where
  | inputApplied (mv : Nat)
  | powerGood
  | inputTrip (mv : Nat)
  | powerLoss
  | railFault (rail : Nat) (mv : Nat)
  | refclkLinkLoss
  | pcieLinkDown
  | pcieLinkUp
  | perstAssert
  | perstDeassert (straps : BitVec 14)
  | firmwareStageDone (ok : Bool) (trained : Nat) (badLanes : List (Nat × List Nat)) (table : List (List Byte))
  | recoveryRestart
  | doorbellPoll (recs : List DoorbellRead) (consumed : Nat)
  | ringsCtlWrite (val : W32) (table : List (List Byte))
  | reloadEventRing
  | reloadRing (ring : Nat) (entry : List Byte)
  | fenceRelease (ring : Nat)
  | ctrSnap
  | ctrDataHiRead
  | counterPairRead
  | indDataRead
  | indDataWrite (val : W32)
  | indirectAccessTimeout (write : Bool)
  | cfgCheckWrite (val : W32)
  | registerWrite (off : BitVec 20) (be : BitVec 4) (val : W32) (table : List (List Byte))
  | bar0UnsupportedRequest (off : Nat) (len : Nat)
  | paritySweep (indirect : Bool) (addr : Nat)
  | join (ring : Nat)
  | joinTimeout
  | loadProgram (ring : Nat) (host : List Byte) (decl : Option Decl) (place : Placing) (inits : InitWrites)
  | loadVerdict (m : Msg)
  | mapTensor (ring : Nat)
  | step (ring : Nat) (host : List Byte)
  | eval (ring : Nat) (host : List Byte)
  | ingest (ring : Nat) (host : List Byte)
  | tableReplace (ring : Nat)
  | migrate (ring : Nat) (host : List Byte)
  | copy (ring : Nat) (x : CopyIn)
  | checkpoint (ring : Nat)
  | restoreContext (ring : Nat) (host : List Byte)
  | replayRoll (ring : Nat)
  | replayRollThrough (ring : Nat)
  | replayExec (ring : Nat) (host : List Byte)
  | evidenceExport (ring : Nat)
  | diagPrbsTest (ring : Nat)
  | diagTestEnd (port : Nat) (lanes : List LaneReading)
  | diagMarginRead (ring : Nat) (lanes : List LaneReading)
  | quiesce (x : QuiesceIn)
  | fwPush (ring : Nat) (host : List Byte) (fin : PushEnd)
  | attest (ring : Nat)
  | phaseEnd
  | hopBatchSend (hop : Nat)
  | sampleReq (m : Msg) (spec : Nat) (errs : List RawRead)
  | sampleReply (m : Msg)
  | lookupBatch (m : Msg)
  | lookupReply (m : Msg)
  | eddyRefreshRecord (m : Msg)
  | remoteAcc (x : AccIn)
  | confRerequest (m : Msg)
  | remoteWrite (m : Msg)
  | remoteRead (m : Msg)
  | remoteReadReply (m : Msg) (dst : Nat)
  | barrierStepStart (m : Msg)
  | barrierFinite (m : Msg)
  | barrierCommit (m : Msg)
  | barrierFloor (m : Msg)
  | barrierProgram (m : Msg)
  | barrierWindow (m : Msg)
  | boundaryWindow (relocations : Nat)
  | compactionBudgetExpired
  | migrateMapInstall (m : Msg)
  | mirrorStepDelta (m : Msg)
  | mirrorAck (m : Msg)
  | mirrorBoundaryCopy (m : Msg)
  | mirrorPullRequest (m : Msg)
  | mirrorPullReply (m : Msg)
  | retentionRecordWritten (x : RecordDone)
  | failureReport (x : ReportIn)
  | abort (m : Msg) (cls : Nat) (cause : Nat) (reporter : Nat)
  | abortFinal (m : Msg)
  | substitute (m : Msg)
  | fallback (m : Msg)
  | probe (m : Msg)
  | recoveryAck (m : Msg)
  | probeTimeout (x : ProbeIn)
  | watchdogExpiry
  | heartbeatTick
  | heartbeat (port : Nat) (m : Msg)
  | portSilenceTimeout (port : Nat)
  | allPortsDownTimeout
  | flitReceive (port : Nat) (flit : RxFlit)
  | laneDrop (port : Nat) (passing : BitVec 24)
  | retrainTimeout (port : Nat)
  | portRetryTick (port : Nat)
  | portTrainingCheck (port : Nat) (copies : List (List Byte))
  | portTrainingComplete (port : Nat) (r : LaneTest)
  | portTrainingTimeout (port : Nat)
  | temperatureMeasurement (half : List Nat)
  | powerCapTick (watts : Nat) (mv : Nat)
  | patrolScrub (r : ScrubRead) (passEnds : Bool)
  | uncorrectableRead (words : RawWords) (why : ReadFor) (tests : Retest)
  | flashControllerTimeout
  | flashGarbageCollection (freeBlocks : Nat) (f : FlashBlocks)
  | wearLevelling (peMax : Nat) (peAvg : Nat) (f : FlashBlocks)
  | readDisturbRefresh (reads : Nat) (f : FlashBlocks)
  | start (issuer : Option Nat) (core : Nat) (slot : Nat) (arg : W32)
  | end_ (core : Nat)
  | wait (core : Nat) (mask : BitVec 32) (all : Bool) (timer : Nat)
  | signal (issuer : Nat) (core : Nat) (slot : Nat) (flag : Nat)
  | yield (core : Nat)
  | issue (core : Nat) (unit : UnitKind) (addr : Nat) (kernel : Nat)
  | weirTimerExpiry (core : Nat) (slot : Nat)
  | matmul (core : Nat) (gang : Nat)
  | matmulPart (core : Nat) (gang : Nat)
  | sparseHeaderScan (core : Nat) (gang : Nat)
  | tileComplete (core : Nat) (gang : Nat)
  | braidPlan (cluster : Nat)
  | braidMerge (cluster : Nat)
  | braidDone (cluster : Nat)
  | gather (core : Nat) (errs : List RawRead)
  | scatterGrad (core : Nat)
  | roundClose (core : Nat)
  | quarryDone (core : Nat)
  | spill (core : Nat)
  | fill (core : Nat)
  | tailraceDone (core : Nat)
  | spEncode (core : Nat) (slot : Nat) (a : SpArgs)
  | mask44 (core : Nat) (slot : Nat) (a : MaskArgs)
  | rowbin (core : Nat) (slot : Nat) (counts : Nat) (m : Nat) (perm : Nat) (starts : Nat)
  | rowscatter (core : Nat) (slot : Nat) (src : Nat) (rowBytes : Nat) (m : Nat) (perm : Nat) (dst : Nat) (dstRows : Nat)
  | rngUniform (core : Nat) (slot : Nat) (r : RngArgs) (lo : W32) (hi : W32)
  | rngBernoulli (core : Nat) (slot : Nat) (r : RngArgs) (p : W32)
  | rngDropout (core : Nat) (slot : Nat) (r : RngArgs) (p : W32) (scale : W32) (x : Nat)
  | rngNormalBm (core : Nat) (slot : Nat) (r : RngArgs) (mean : W32) (std : W32)
  | rngNormalTab (core : Nat) (slot : Nat) (r : RngArgs) (mean : W32) (std : W32)
  | rngAdvance (core : Nat) (slot : Nat) (tag : Nat) (tensor : Nat) (amount : W32)
  | vectorElementwise (core : Nat) (slot : Nat) (v : VArgs)
  | vectorReduction (core : Nat) (slot : Nat) (kernel : Nat) (x : Nat) (y : Option Nat) (bf16In : Bool) (n : Nat) (bf16Out : Bool) (dst : Nat)
  | splitKCombine (core : Nat) (slot : Nat) (parts : List Nat) (n : Nat) (ofmt : Nat) (dst : Nat)
  | xm48Add (core : Nat) (slot : Nat) (d : Nat)
  | xm48Mul (core : Nat) (slot : Nat) (c : Nat)
  | xm48Load (core : Nat) (slot : Nat) (addr : Nat) (n : Nat)
  | xm48Store (core : Nat) (slot : Nat) (addr : Nat)
  | xm48Convert (core : Nat) (slot : Nat) (bf16 : Bool) (addr : Nat)
  | interfaceLockLoss (pc : Nat)
  | dramLinkTrainingLoss
  | smbusBridgeWrite (off : Nat) (data : List Byte)
  | eddyRefreshAck (m : Msg)
  | lostMessageReport (dst : Nat) (vc : Nat) (id : LostId)
  | joinTraffic (pos : Nat) (word : JoinWord)
  | rootPllLock (straps : BitVec 14)
  deriving DecidableEq, Repr

end Sys2Proof
end

