-- ==== Sys2Proof/Machine/State.lean ====
section
/-! DEFINITION. The state of one T9 module, as plain data: everything the spec gives the module to hold, the outputs it makes,
and the queue of waiting commands. -/

namespace Sys2Proof.Machine

open Sys2Proof

/-- A sparse map: keys strictly rising, no entry equal to the map's default. -/
abbrev NMap (α : Type) := List (Nat × α)

/-- A module never stops the model: every breach the spec names has an effect (a status code, an event, a halt, a shutdown). -/
inductive Fault where
  deriving DecidableEq, Repr

/-- Reasons a command has no meaning. -/
inductive Refusal where
  /-- Raised by an arm of exec whose command has no meaning yet. Safe: nothing is claimed of it. -/
  | notModelled (mnemonic : String)
  deriving DecidableEq, Repr

/-- A BAR0 or indirect register with RW bits: its value and its parity bit (15 R383). -/
structure RwReg where
  val : W32
  par : Bool
  deriving DecidableEq, Repr, Inhabited

/-- Even parity of a word: the exclusive OR of its bits (15 R383). -/
def evenParity (v : W32) : Bool := (List.range 32).foldl (fun p i => p != v.getLsbD i) false

/-- A register just written: its parity bit agrees (15 R383). -/
def RwReg.of (v : W32) : RwReg := { val := v, par := evenParity v }

/-- Module states (13 R340), in the order of their codes (15 R371). -/
inductive MState where
  | rom | recovery | ready | joined | loaded | running | quiesced | halted
  deriving DecidableEq, Repr, Inhabited

/-- Power stage, clocks, resets and the PCI Express link (17). -/
structure Pwr where
  applied : Bool
  vinMv : Nat
  pinW : Nat
  railsOn : Bool
  good : Bool
  tripped : Bool
  perst : Bool
  waitPll : Bool
  straps : BitVec 14
  pcieUp : Bool
  duty : Nat
  deriving DecidableEq, Repr

/-- An owner slot (16 R386): key hash and VALID byte. -/
structure OwnerSlot where
  hash : W256
  valid : Byte
  deriving DecidableEq, Repr, Inhabited

/-- The fuse banks (16 R386). `rollback` lists the rows written, first row first. -/
structure Fuses where
  vendorKey : W256
  idSeed : W256
  owners : List OwnerSlot
  rollback : List Nat
  order : Order
  gcEn : BitVec 96
  deriving DecidableEq, Repr

/-- The Graph Cores that a mask enables in cluster `k` (00 R428). -/
def clusterCount (m : BitVec 96) (k : Nat) : Nat := ((List.range 8).filter fun i => m.getLsbD (8 * k + i)).length

/-- A mask that a PX-T9-80C can have: eight clusters of seven enabled cores and four of six (00 R2). -/
def mask80Ok (m : BitVec 96) : Bool :=
  (List.range 12).all (fun k => clusterCount m k == 6 || clusterCount m k == 7) && ((List.range 12).filter fun k => clusterCount m k == 7).length == 8

/-- The enabled Graph Cores: all of them but on the PX-T9-80C (00 R1), whose fuses name 80 as 00 R2 says. A fused mask that no PX-T9-80C is
made with stands for the one whose last cores are disabled (log entry 1). -/
def Fuses.enabled (f : Fuses) : BitVec 96 :=
  match f.order with
  | .o96 | .c96 => BitVec.allOnes 96
  | .c80 => if mask80Ok f.gcEn then f.gcEn else 0x3F3F3F3F7F7F7F7F7F7F7F7F

/-- The running firmware image (16 R395). -/
structure FwInfo where
  version : Nat
  level : Nat
  svn : Nat
  yl : Nat
  contract : Nat
  hash : W256
  deriving DecidableEq, Repr, Inhabited

/-- The installation map (10 R251, R252): per position and port the expected neighbour; rank positions; spares; routes. -/
structure InstallMap where
  mapId : W256
  common : List Byte
  version : Nat
  size : Nat
  count : Nat
  created : Nat
  positions : List Nat
  ports : List (Nat × List (Option (Nat × Nat)))
  ranks : List Nat
  spares : List (Nat × List Nat)
  routes : NMap (BitVec 16)
  deriving DecidableEq, Repr, Inhabited

/-- A link preset (16 R390): class, taps, credits per VC. -/
structure Preset where
  cls : Nat
  taps : W32
  credits : List Nat
  deriving DecidableEq, Repr, Inhabited

/-- Module state and boot (13 R340, 15 R371, R374, 16 R391-R394). `fwRestart`: a restart is due after FW_PUSH in RECOVERY;
`retake`: the rings are to be taken up on reaching READY (16 R402); `keyed`: the identity key is derived (16 R404); `claimed`: the owner slot that the
ROM of this boot has written, while an assertion of PERST# may still be one that interrupted the write (16 R386, R393; log entry 141). -/
structure ModState where
  st : MState
  halt : Nat
  stage : Nat
  detail : Nat
  position : Nat
  fw : Option FwInfo
  fwRun : Option Nat
  map : Option InstallMap
  presets : List Preset
  cert : List Byte
  settingsHash : W256
  fwRestart : Bool
  retake : Bool
  keyed : Bool
  claimed : Option Nat
  deriving DecidableEq, Repr

/-- BAR0 registers that hold state of their own (15 R366-R385). -/
structure Regs where
  scratch : RwReg
  spBm : RwReg
  spRle : RwReg
  narrow : RwReg
  watchdog : RwReg
  recovery : RwReg
  ringsCtl : RwReg
  tableLo : RwReg
  tableHi : RwReg
  evBaseLo : RwReg
  evBaseHi : RwReg
  evRecLo : RwReg
  evRecHi : RwReg
  evCtl : RwReg
  pwrCap : RwReg
  scrub : RwReg
  parTest : Bool
  indAddr : W32
  indStatus : BitVec 3
  ctrIndex : BitVec 12
  snapSeq : W32
  cycles : W64
  resp : Option W64
  unsupported : Bool
  deriving DecidableEq, Repr

/-- The counters and their holding registers (15 R378-R381), by catalogue index. -/
structure Counters where
  live : NMap W64
  hold : NMap W64
  deriving DecidableEq, Repr

/-- Registers of the indirect space (15 R377), by lane 24 p + i, port, pseudo-channel or pseudo-channel and pin. -/
structure IndRegs where
  patCtl : NMap RwReg
  txeq : NMap RwReg
  err : NMap (BitVec 48)
  bits : NMap (BitVec 48)
  eye : NMap W32
  rxeq : NMap W32
  laneState : NMap W32
  ident : NMap (List Byte)
  spares : NMap W32
  mark : NMap W32
  pinCorr : NMap W32
  lpddrTrain : W32
  lpddrCorr : NMap W32
  flashGood : W32
  flashSpare : W32
  flashPeAvg : W32
  flashPeMax : W32
  deriving DecidableEq, Repr

/-- A ring context entry as taken up (13 R326). -/
structure RingCtx where
  descBase : Nat
  cplBase : Nat
  dbAddr : Nat
  log2 : Nat
  enable : Bool
  irqAll : Bool
  vector : Nat
  gen : Nat
  deriving DecidableEq, Repr, Inhabited

/-- A command ring (13 R326-R339): `ci` descriptors fetched, `queue` those not yet dequeued, `busy` the one in progress with
its INDEX, `again` the context entry that waits for that command before it is taken up. -/
structure Ring where
  running : Bool
  ctx : RingCtx
  ci : Nat
  queue : List (List Byte)
  busy : Option (Nat × List Byte)
  fenced : Bool
  waits : Bool
  again : Option (List Byte)
  go : Bool
  deriving DecidableEq, Repr, Inhabited

/-- The event ring as taken up (13 R337). -/
structure EvRing where
  valid : Bool
  base : Nat
  log2 : Nat
  vector : Nat
  written : Nat
  consumed : Nat
  deriving DecidableEq, Repr, Inhabited

/-- What the module writes towards the host (13 R335-R338): bytes at a host address, or an interrupt vector. -/
inductive HostWrite where
  | mem (addr : Nat) (data : List Byte)
  | irq (vector : Nat)
  deriving DecidableEq, Repr, Inhabited

/-- An entry posted and not yet visible (13 R336, R337): an event without its slot, or a completion with its address. -/
inductive HeldEntry where
  | event (code : Nat) (payload : List Byte)
  | completion (addr : Nat) (data : List Byte) (irq : Option Nat)
  deriving DecidableEq, Repr, Inhabited

/-- A write with an effect on the rings accepted in ROM, which takes effect once firmware runs (15 R370). -/
inductive Deferred where
  | ctl (table : List (List Byte))
  | event
  | ring (n : Nat) (entry : List Byte)
  | fence (n : Nat)
  deriving DecidableEq, Repr, Inhabited

/-- The host side (13). `excl` lists the exclusive commands fetched, oldest first, by ring and INDEX (13 R334). -/
structure HostSide where
  rings : NMap Ring
  ev : EvRing
  held : List HeldEntry
  out : List HostWrite
  excl : List (Nat × Nat)
  deferred : List Deferred
  deriving DecidableEq, Repr

/-- What the flash translation layer knows of its blocks (08 R208): good ones, replacements, average and largest program/erase count. -/
structure FlashStat where
  good : W32
  spare : W32
  peAvg : W32
  peMax : W32
  deriving DecidableEq, Repr

/-- Memory tiers (08). `blocks` is kept in flash by its translation layer, none before a first boot (log entry 142). Bands are coded as in 17 R419 and mem.tier_status.BAND with 4 for fatal. `retired` lists pseudo-channel, page and the spare
page that stands for it (08 R198), `worn` by pseudo-channel the marked pin that the next training replaces (08 R195). -/
structure Tiers where
  retired : List (Nat × Nat × Nat)
  worn : NMap Nat
  blocks : Option FlashStat
  ueWords : List Nat
  ueBursts : List Nat
  hbmFault : Bool
  dramFault : Bool
  sramFault : Bool
  flashFault : Bool
  trainFail : Bool
  flashRo : Bool
  unreadable : List Nat
  scrubPasses : BitVec 8
  tempHalf : List (Option Nat)
  band : List Nat
  deriving DecidableEq, Repr

/-- Membership of the machine (10 R250-R261, 13 R343). `joining`, at rank 0, is the position of a spare that it
welcomes. -/
structure Mach where
  rank : Option Nat
  ranks : List Nat
  floor : W32
  joinRing : Option Nat
  joinSeen : List Nat
  formed : Bool
  joining : Option Nat
  verdicts : List (Nat × W256 × Bool)
  deriving DecidableEq, Repr

/-- A tensor record (14 R348). -/
structure TensorRec where
  id : Nat
  kind : Nat
  fmt : Nat
  policy : Nat
  scale : Nat
  dims : List Nat
  deriving DecidableEq, Repr, Inhabited

/-- A task record (14 R356). -/
structure TaskRec where
  slot : Nat
  prio : Nat
  evalClass : Bool
  entry : Nat
  startOn : Nat
  deriving DecidableEq, Repr, Inhabited

/-- The loaded program (14 R345-R352); on a spare `spares` holds the placement of each rank it may take (11 R281). `shared`
is what the load wrote that every module holds alike (08 R199): the owner table and the constants of INIT. -/
structure Program where
  hash : W256
  contract : Nat
  t7 : Bool
  lcores : Nat
  needFw : Nat
  needYl : Nat
  needNum : Nat
  seed : W64
  first : Nat
  tensors : List TensorRec
  tasks : List (List TaskRec)
  decl : Decl
  place : Placement
  spares : List (Nat × Placement)
  shared : List (Nat × List Byte)
  deriving DecidableEq, Repr

/-- A load that waits for the sled's verdicts (14 R351). -/
structure LoadWait where
  ring : Nat
  prog : Program
  inits : InitWrites
  deriving DecidableEq, Repr

/-- Phases of a step on this module (01 R11, R12): waits at the start, finite and commit barriers stand between. -/
inductive Phase where
  | waitStart | sample | gather | forward | backward | reduce | finite | commit | mirror | prepared
  deriving DecidableEq, Repr, Inhabited

/-- A target record (06 R144). -/
structure Target where
  node : Nat
  t : Nat
  lti : Nat
  deriving DecidableEq, Repr, Inhabited

/-- The step in progress (01 R11-R28). `exec` marks REPLAY EXEC (12 R312); `source` is why its target list could not be read, if it could not; `prior` is the content fault of the attempt that the last ABORT
ended (01 R27). -/
structure StepRun where
  ring : Nat
  exec : Bool
  spec : Nat
  targets : List Target
  rawTargets : List Byte
  source : Option Status
  phase : Phase
  attempt : Nat
  replays : Nat
  hop : Nat
  fault : Option Status
  rescaled : Bool
  epoch : Nat
  record : Option Nat
  captures : List (Nat × Nat)
  prior : Option Status
  deriving DecidableEq, Repr

/-- An EVAL or EVIDENCE_EXPORT in progress (01 R33, 12 R315). `drawing` holds from the time it may draw until its draws are complete, and
`hop` is the hop it has reached; `asked` lists, by owner, the Ledger indices of the first children asked for and not yet answered; `offsets` are the stream offsets as of the pinned step (12 R301),
and `batches` counts the lookup batches it has sent. -/
structure EvalRun where
  ring : Nat
  tag : Nat
  evidence : Bool
  pinned : Nat
  spec : Nat
  targets : List Target
  epoch : Nat
  begun : Bool
  drawing : Bool
  hop : Nat
  asked : List (Nat × List Nat)
  attribution : Bool
  fault : Option Status
  rescaled : Bool
  offsets : List Nat
  batches : Nat
  deriving DecidableEq, Repr

/-- The hashing of the state of a step (12 R318): whether this rank's part has been asked for, whether its digest has been sent, the digests of the
ranks that have come, and the rows of this rank's home that other members hold and have sent back, by row key. -/
structure HashRun where
  step : Nat
  asked : Bool
  told : Bool
  digests : List (Nat × W256)
  rows : List (Nat × List Byte)
  deriving DecidableEq, Repr

/-- A boundary action (01 R29, R30): kind 1 INGEST, 2 MIGRATE, 3 TABLE_REPLACE (12 R309); `src` is where a TABLE_REPLACE takes its rows. `staged` lists the rows of a TABLE_REPLACE with
their shadow slots; `stalled`: it waits for free slots (07 R183); `waitAck`: it has been applied and has not completed. -/
structure Act where
  ring : Nat
  tag : Nat
  kind : Nat
  pin : Option Nat
  payload : List Byte
  table : Nat
  first : Nat
  count : Nat
  src : Nat
  staged : List (Nat × Nat)
  stalled : Bool
  waitAck : Bool
  info : Nat
  deriving DecidableEq, Repr, Inhabited

/-- A replica in Eddy (07 R170-R173), with the owner that sent it. -/
structure Replica where
  src : Nat
  bytes : List Byte
  version : Nat
  present : Bool
  deriving DecidableEq, Repr, Inhabited

/-- A STEP that has been dequeued while another is still running (13 R332): its ring, and its target list as read then. -/
structure WaitingStep where
  ring : Nat
  bytes : List Byte
  source : Option Status
  deriving DecidableEq, Repr, Inhabited

/-- Committed state, step state and boundary state (01, 03, 06, 07, 12). `waiting` are the STEPs dequeued behind the one in progress (13 R332); `modelHash` is the MODEL_HASH that serves
exports, `hashes` the ones being computed (12 R318), `lastHash` the latest one computed (16 R406). Row keys are table × 2^40 + row. `arrived` lists the rows that came
by migration in this window; `installed` the map entries (key, old owner, new owner) of migrations not known to be complete; `installWait`
the members that have not installed this module's; `owed` the old owners that await this module's confirmation; `reserving`: this module's MIGRATE at its turn that waits for room
at its destinations, `reserveWait` those that have not answered, `reserveBad`: one has none; `moveWait` the destinations that have not mirrored
its rows; `reserved` the rows (old owner, key) for which this module has kept room; `landed` those (key, old owner) that have come and `owedMoves` the old owners that
await word that they are mirrored (07 R178, R179); `windowShut`: a WINDOW
barrier holds back new boundary actions (01 R30); `windowAsked`: a WINDOW barrier has been asked for (12 R316); `windowReqs`: one has been for these steps, not yet ended here; `refreshed`: the
owners whose Eddy refresh at this boundary has ended (07 R168); `refreshWait`: those that a spare which has taken a rank has asked for one
(11 R281); `moves`: the old owners whose MIGRATE is being installed here, with how many records it moves (07 R179); `retPending`: the steps whose records are not complete in flash, with their ring slots (01 R25); `owedReplays`: the replays that the interrupted step of a rank
taken over has behind it (11 R291). -/
structure StepState where
  stepNo : Nat
  epoch : Nat
  committed : Option Nat
  completed : Option Nat
  lastAttempt : Option (Nat × Nat)
  wEpoch : Bool
  offsets : List Nat
  advances : List (Nat × Nat)
  calib : NMap (List Nat)
  calibNow : NMap Nat
  agreed : NMap Nat
  agreedNew : NMap Nat
  optSteps : NMap Nat
  win : NMap Nat
  winLog : List (List Nat)
  named : List (Nat × Nat)
  migMap : NMap Nat
  migSlots : NMap Nat
  localVer : NMap Nat
  shadow : NMap (List Nat)
  eddy : NMap Replica
  eddySent : NMap (List Byte)
  eddyAcks : List (Nat × Nat)
  refreshed : List Nat
  refreshWait : List Nat
  moves : List (Nat × Nat)
  undo : List (Nat × Byte)
  run : Option StepRun
  evals : List EvalRun
  acts : List Act
  applied : List Act
  arrived : List Nat
  installed : List (Nat × Nat × Nat)
  installWait : List Nat
  owed : List Nat
  reserving : Option Act
  reserveWait : List Nat
  reserveBad : Bool
  moveWait : List Nat
  reserved : List (Nat × Nat)
  landed : List (Nat × Nat)
  owedMoves : List Nat
  waiting : List WaitingStep
  windowOpen : Bool
  windowShut : Bool
  windowAsked : Bool
  windowReqs : List Nat
  budgetSpent : Bool
  compacted : Bool
  windowClosed : Option (Nat × Bool)
  modelHash : Option (Nat × W256)
  hashes : List HashRun
  lastHash : Option (Nat × W256)
  retHead : Nat
  retPending : List (Nat × Nat)
  owedReplays : Nat
  deriving DecidableEq, Repr

/-- A row that a gather waits for (07 R166): its owner, table, row, where it goes, where its VERSION goes, for an EVAL or a step. -/
structure Lookup where
  owner : Nat
  table : Nat
  row : Nat
  dst : Nat
  ver : Option Nat
  eval : Bool
  round : Nat
  countOnly : Bool
  asked : Bool
  deriving DecidableEq, Repr, Inhabited

/-- A gradient contribution held until Backward ends (07 R174). -/
structure Contribution where
  owner : Nat
  table : Nat
  row : Nat
  batch : Nat
  grad : List Byte
  deriving DecidableEq, Repr, Inhabited

/-- Exchanges of a step in progress (06 R149, 07 R164-R174, 01 R12). `parts` are the messages of sample and lookup batches that are not whole yet. `repliesLeft` are the (rank, round) whose
reply batch is still to come, `batchesIn` the (rank, round) whose lookup batch has been answered. `slices` counts, by channel and sender, the bytes of activations and partial
products received in the step. -/
structure Exchange where
  sampleLeft : List (Nat × Nat)
  sampleAsked : List (Nat × List Nat)
  rounds : List (Nat × Nat)
  roundsSent : List Nat
  lookups : List Lookup
  scatter : List Contribution
  slices : List (Nat × Nat × Nat)
  parts : List Msg
  repliesLeft : List (Nat × Nat)
  batchesIn : List (Nat × Nat)
  deriving DecidableEq, Repr

/-- A reduction segment as staged (09 R217). -/
structure Seg where
  step : Nat
  attempt : Nat
  kind : Nat
  fmt : Nat
  src : Nat
  id : Nat
  seg : Nat
  nseg : Nat
  cksum : Nat
  payload : List Byte
  raw : List Byte
  deriving DecidableEq, Repr, Inhabited

/-- Confluence (09). `failed` holds the copies that a re-request is to replace, `aggFailed` the (kind, id) whose checksums on addition have disagreed
once; `reduced` names (kind, id) already reduced; `rowSums` the reduced rows. -/
structure Conf where
  staged : List Seg
  failed : List Seg
  aggFailed : List (Nat × Nat)
  sent : List Msg
  retried : List (Nat × Nat × Nat)
  reduced : List (Nat × Nat)
  rowSums : List (Nat × Nat × List Byte)
  finite : Bool
  deriving DecidableEq, Repr

/-- Points of 01 R12 at which the watchdog can be armed, with the step-start barrier apart (09 R232). -/
inductive WaitPoint where
  | stepStart | sampleExchange | gatherExchange | layerSlice | programBarrier | reduction | finiteAnd | commitBarrier | window | load
  deriving DecidableEq, Repr, Inhabited

/-- Arrivals at a barrier of one kind (10 R264): the module's own and its children's, with whether it was passed up. -/
structure Barrier where
  own : Option (Nat × Nat × Nat)
  kids : List (Nat × Nat × Nat × Nat)
  up : Bool
  deriving DecidableEq, Repr, Inhabited

/-- A part held for a neighbour (11 R275-R277): its running checksum, the pending deltas and what they count, and the runs of the
boundary copy that is arriving. -/
structure MirPart where
  owner : Nat
  part : Nat
  complete : Bool
  sum : Nat
  pend : List (Nat × List Byte)
  last : Option Nat
  acked : Bool
  copy : List (Nat × List Byte)
  copyLast : Option Nat
  deriving DecidableEq, Repr, Inhabited

/-- Acknowledgement of one own part (11 R277). -/
structure MirAck where
  part : Nat
  sum : Nat
  bytes : Nat
  acked : Bool
  resent : Bool
  deriving DecidableEq, Repr, Inhabited

/-- A pull in progress on a spare (11 R281), or the repair of a failed location from its mirror (08 R199). -/
structure Pull where
  owner : Nat
  part : Nat
  holder : Nat
  again : Bool
  repair : Bool
  fin : Bool
  deriving DecidableEq, Repr, Inhabited

/-- Mirroring (11 R274-R281). `out` holds the runs last streamed, by image offset; `waiting` the commands (ring, INFO, STEP) that complete
once every holder has acknowledged them. -/
structure Mirror where
  held : List MirPart
  acks : List MirAck
  out : List (Nat × List Byte)
  waiting : List (Nat × Nat × Nat)
  pulls : List Pull
  deriving DecidableEq, Repr

/-- A failure report as received (11 R270). -/
structure Report where
  src : Nat
  step : Nat
  attempt : Nat
  cls : Nat
  cause : Nat
  status : Nat
  suspect : Nat
  port : Nat
  deriving DecidableEq, Repr, Inhabited

/-- Recovery: the coordinator's view and sys.recovery_status (11 R269-R293). `probing` holds ranks, and for a spare 2^16 + its position; `exposedAt` is
the rank whose spare has not yet said that it holds this module's part. -/
structure Recovery where
  lost : List Nat
  reports : List Report
  probing : List Nat
  acks : List Nat
  aborting : Option Nat
  fallback : Bool
  remirror : Bool
  exposed : Bool
  exposedAt : Option Nat
  noSpare : Bool
  subst : Bool
  replays : Nat
  deriving DecidableEq, Repr

/-- STATE of link.port_status (10). -/
inductive PortState where
  | absent | down | training | held | up | diag
  deriving DecidableEq, Repr, Inhabited

/-- A DATA flit to be sent or sent and not acknowledged, with the message that it is part of. -/
structure TxFlit where
  msg : Msg
  flit : List Byte
  deriving DecidableEq, Repr, Inhabited

/-- A port (10 R235-R266). Credits and assembly are per VC. `passed` are the lanes that have passed since the last training; `replay` holds the DATA
flits not acknowledged, oldest first, with their SEQ; `txq` the flits that wait for credit or room, `turn` the VC of the third level that is served
next, counted from VC2; `sinceIdle` the flits sent since the last IDLE flit; `nakSent`: a NAK waits for its replay; `rxSeq` the last SEQ received in
order and `txSeq` the next to send; `adv` the credits that this end has advertised, `owed` those it withholds; `identSent` the identity frame it has
sent; `lastBad` the one that CABLE_MISMATCH was last posted for. -/
structure Port where
  st : PortState
  reason : Nat
  active : BitVec 24
  width : Nat
  rate224 : Bool
  ylver : Nat
  checked : Bool
  passed : BitVec 24
  rxSeq : Nat
  txSeq : Nat
  replay : List (Nat × TxFlit)
  txq : List TxFlit
  turn : Nat
  sinceIdle : Nat
  nakSent : Bool
  tries : Nat
  retraining : Bool
  credits : List Nat
  adv : List Nat
  owed : NMap Nat
  identSent : List Byte
  asm : NMap (List Byte)
  nbrPos : Nat
  nbrState : Nat
  lastBad : Option (List Byte)
  diagRing : Option Nat
  deriving DecidableEq, Repr, Inhabited

/-- The record of MSGIDs accepted from one source on one VC (10 R245): H and the marked MSGIDs. -/
structure DupRec where
  high : Nat
  marks : List Nat
  deriving DecidableEq, Repr, Inhabited

/-- Yenos Link (10). Keys of `msgid` and `dup` are rank × 16 + VC. `sent` lists the messages this module originated, `wire` the flits
it transmitted by port, `inbox` the messages delivered by flits and not yet acted on, `unrouted` those of its own that found no port UP (10 R260),
`dropped` the batch messages discarded under 10 R247, with their batch headers. -/
structure Net where
  ports : NMap Port
  msgid : NMap Nat
  dup : NMap DupRec
  sent : List Msg
  unrouted : List Msg
  dropped : List Msg
  wire : List (Nat × List Byte)
  inbox : List Msg
  deriving DecidableEq, Repr

/-- Task states (14 R354). -/
inductive TaskSt where
  | idle | ready | running | waiting
  deriving DecidableEq, Repr, Inhabited

/-- A task slot of a Weir (14 R354-R359, 02 R58). -/
structure Task where
  st : TaskSt
  present : Bool
  prio : Nat
  evalClass : Bool
  entry : Nat
  startOn : Nat
  arg : W32
  flags : BitVec 32
  mask : BitVec 32
  all : Bool
  timer : Nat
  waitFlags : Bool
  returned : BitVec 32
  pend : Option W32
  nanOut : Bool
  infOut : Bool
  ovf : Bool
  sat : Bool
  deriving DecidableEq, Repr, Inhabited

/-- An operation held for want of a ready entry or of the pending-start latch (14 R357, R361), with the task that issued it, or a task
of this Weir that becomes READY when an entry is free. -/
inductive HeldOp where
  | flag (issuer : Nat × Nat) (slot : Nat) (flag : Nat)
  | start (issuer : Option (Nat × Nat)) (slot : Nat) (arg : W32)
  | resume (slot : Nat)
  deriving DecidableEq, Repr, Inhabited

/-- A descriptor copied into a unit's queue (04 R94, 05 R126). `level` is the issuing task's level at issue. -/
structure QDesc where
  unit : UnitKind
  core : Nat
  slot : Nat
  level : Nat
  gang : Nat
  kernel : Nat
  bytes : List Byte
  scanned : Bool
  paths : List (List Bool)
  chunks : List (Nat × Nat)
  eval : Bool
  deriving DecidableEq, Repr, Inhabited

/-- A descriptor started and not yet completed, with the ranges it reads and writes (04 R95). `done`: it has completed and its flag
write is held (14 R361). -/
structure Running where
  unit : UnitKind
  core : Nat
  slot : Nat
  flag : Nat
  gang : Nat
  reads : List Region
  writes : List Region
  eval : Bool
  done : Bool
  deriving DecidableEq, Repr, Inhabited

/-- A stationary operand held in a gang (04 R96). -/
structure Stationary where
  bAddr : Nat
  bStride : Nat
  bsAddr : Nat
  bsStride : Nat
  bfmt : Nat
  benc : Nat
  kbase : Nat
  k : Nat
  n : Nat
  deriving DecidableEq, Repr, Inhabited

/-- The cells of a gang: what their stationary operand was loaded from, its codes by column, and its scale bytes by column (04 R96). -/
structure Held where
  key : Stationary
  codes : List (List Nat)
  scales : List (List Nat)
  deriving DecidableEq, Repr, Inhabited

/-- The Weir of a logical core (14), with a descriptor that waits for a queue slot and the vector unit's XM48 operand. -/
structure Weir where
  tasks : List Task
  ready : List Nat
  running : Option Nat
  held : List HeldOp
  stalled : List QDesc
  xreg : List Nat
  deriving DecidableEq, Repr, Inhabited

/-- The Matrix Cluster of a logical core (04 R84, R96): its gang shape, what its gangs hold, and the descriptor whose reshape is due. -/
structure McState where
  shape : Nat
  stat : NMap Held
  due : Option QDesc
  deriving DecidableEq, Repr, Inhabited

/-- Graph Cores and the units they drive (04, 05, 07, 14). -/
structure Cores where
  weir : List Weir
  mc : List McState
  queue : List QDesc
  busy : List Running
  deriving DecidableEq, Repr

/-- The module's state. `free` counts the free values taken (the model's own); `pending` is the queue of commands. -/
structure State where
  pwr : Pwr
  fuse : Fuses
  nor : NMap Byte
  slotOpen : Bool
  sermem : NMap Byte
  ms : ModState
  regs : Regs
  ctr : Counters
  ind : IndRegs
  host : HostSide
  mem : List Host.Cell
  tier : Tiers
  mach : Mach
  prog : Option Program
  loadWait : Option LoadWait
  st : StepState
  ex : Exchange
  conf : Conf
  wd : Option WaitPoint
  bar : List Barrier
  mir : Mirror
  recov : Recovery
  net : Net
  gc : Cores
  free : Nat
  pending : List Instr
  deriving DecidableEq, Repr

/-- BAR0 registers at their reset values (15 R369, the tables of 05 R110, 07 R157, 08 R202, 09 R232, 11 R292, 13 R327, 15 R373). -/
def Regs.reset : Regs where
  scratch := .of 0
  spBm := .of 0x1005499A
  spRle := .of 0x0B840133
  narrow := .of 0x00100103
  watchdog := .of 0x00007530
  recovery := .of 0x80000A04
  ringsCtl := .of 0x00000004
  tableLo := .of 0
  tableHi := .of 0
  evBaseLo := .of 0
  evBaseHi := .of 0
  evRecLo := .of 0
  evRecHi := .of 0
  evCtl := .of 0x0040000A
  pwrCap := .of 0x00000708
  scrub := .of 0x80001800
  parTest := false
  indAddr := 0
  indStatus := 0
  ctrIndex := 0
  snapSeq := 0
  cycles := 0
  resp := none
  unsupported := false

/-- Counters cleared (15 R378). -/
def Counters.reset : Counters := { live := [], hold := [] }

/-- Indirect registers at their reset values (15 R377). -/
def IndRegs.reset : IndRegs where
  patCtl := []
  txeq := []
  err := []
  bits := []
  eye := []
  rxeq := []
  laneState := []
  ident := []
  spares := []
  mark := []
  pinCorr := []
  lpddrTrain := 0
  lpddrCorr := []
  flashGood := 0
  flashSpare := 0
  flashPeAvg := 0
  flashPeMax := 0

/-- No ring taken up (13 R326). -/
def HostSide.reset : HostSide where
  rings := []
  ev := { valid := false, base := 0, log2 := 0, vector := 0, written := 0, consumed := 0 }
  held := []
  out := []
  excl := []
  deferred := []

/-- Memory tiers after a reset (08 R201, R202): no sensor measured, every band 0. -/
def Tiers.reset : Tiers where
  retired := []
  worn := []
  blocks := none
  ueWords := []
  ueBursts := []
  hbmFault := false
  dramFault := false
  sramFault := false
  flashFault := false
  trainFail := false
  flashRo := false
  unreadable := []
  scrubPasses := 0
  tempHalf := List.replicate 14 none
  band := List.replicate 14 0

/-- Not a member (10 R250, 13 R343). -/
def Mach.reset : Mach where
  rank := none
  ranks := []
  floor := 0
  joinRing := none
  joinSeen := []
  formed := false
  joining := none
  verdicts := []

/-- No program, no step (01, 06, 07). -/
def StepState.reset : StepState where
  stepNo := 0
  epoch := 0
  committed := none
  completed := none
  lastAttempt := none
  wEpoch := false
  offsets := List.replicate 64 0
  advances := []
  calib := []
  calibNow := []
  agreed := []
  agreedNew := []
  optSteps := []
  win := []
  winLog := []
  named := []
  migMap := []
  migSlots := []
  localVer := []
  shadow := []
  eddy := []
  eddySent := []
  eddyAcks := []
  refreshed := []
  refreshWait := []
  moves := []
  undo := []
  run := none
  evals := []
  acts := []
  applied := []
  arrived := []
  installed := []
  installWait := []
  owed := []
  reserving := none
  reserveWait := []
  reserveBad := false
  moveWait := []
  reserved := []
  landed := []
  owedMoves := []
  waiting := []
  windowOpen := false
  windowShut := false
  windowAsked := false
  windowReqs := []
  budgetSpent := false
  compacted := false
  windowClosed := none
  modelHash := none
  hashes := []
  lastHash := none
  retHead := 0
  retPending := []
  owedReplays := 0

/-- No exchange in progress. -/
def Exchange.reset : Exchange where
  sampleLeft := []
  sampleAsked := []
  rounds := []
  roundsSent := []
  lookups := []
  scatter := []
  slices := []
  parts := []
  repliesLeft := []
  batchesIn := []

/-- Nothing staged (09 R215). -/
def Conf.reset : Conf where
  staged := []
  failed := []
  aggFailed := []
  sent := []
  retried := []
  reduced := []
  rowSums := []
  finite := true

/-- No arrivals, for the six kinds of 10 R264. -/
def Barrier.resetAll : List Barrier := List.replicate 6 { own := none, kids := [], up := false }

/-- No part held (11 R275). -/
def Mirror.reset : Mirror := { held := [], acks := [], out := [], waiting := [], pulls := [] }

/-- sys.recovery_status at reset (11 R293). -/
def Recovery.reset : Recovery where
  lost := []
  reports := []
  probing := []
  acks := []
  aborting := none
  fallback := false
  remirror := false
  exposed := false
  exposedAt := none
  noSpare := false
  subst := false
  replays := 0

/-- A port at reset (10, link.port_status): DOWN, or ABSENT. -/
def Port.reset (present : Bool) : Port where
  st := if present then .down else .absent
  reason := 0
  active := 0
  width := 0
  rate224 := false
  ylver := 0
  checked := false
  passed := 0
  rxSeq := 0
  txSeq := 0
  replay := []
  txq := []
  turn := 0
  sinceIdle := 0
  nakSent := false
  tries := 0
  retraining := false
  credits := []
  adv := []
  owed := []
  identSent := []
  asm := []
  nbrPos := 0
  nbrState := 0xFF
  lastBad := none
  diagRing := none

/-- Ports 12-17 are absent but on the PX-T9-96O (10 R235). -/
def portPresent (o : Order) (p : Nat) : Bool := p < 12 || (o == .o96 && p < 18)

/-- Yenos Link at reset. -/
def Net.reset (o : Order) : Net where
  ports := (List.range 18).map fun p => (p, Port.reset (portPresent o p))
  msgid := []
  dup := []
  sent := []
  unrouted := []
  dropped := []
  wire := []
  inbox := []

/-- A task slot that is IDLE and not in the task table. -/
def Task.idle : Task where
  st := .idle
  present := false
  prio := 0
  evalClass := false
  entry := 0
  startOn := 0xFF
  arg := 0
  flags := 0
  mask := 0
  all := false
  timer := 0
  waitFlags := false
  returned := 0
  pend := none
  nanOut := false
  infOut := false
  ovf := false
  sat := false

/-- No program's cores. -/
def Cores.reset : Cores := { weir := [], mc := [], queue := [], busy := [] }

/-- The power stage before 56 V is applied (17 R410; log entries 1 and 2). -/
def Pwr.reset : Pwr where
  applied := false
  vinMv := 0
  pinW := 0
  railsOn := false
  good := false
  tripped := false
  perst := true
  waitPll := false
  straps := 0x3FFF
  pcieUp := false
  duty := 16

/-- Fuses of an unowned PX-T9-96O (16 R386; log entry 1). -/
def Fuses.reset : Fuses where
  vendorKey := 0
  idSeed := 0
  owners := List.replicate 4 { hash := 0, valid := 0 }
  rollback := []
  order := .o96
  gcEn := BitVec.allOnes 96

/-- Module state at reset (13 R340, 15 R371, R374). -/
def ModState.reset : ModState where
  st := .rom
  halt := 0
  stage := 0
  detail := 0
  position := 0
  fw := none
  fwRun := none
  map := none
  presets := []
  cert := []
  settingsHash := 0
  fwRestart := false
  retake := false
  keyed := false
  claimed := none

/-- The module right after reset with nothing commanded: unpowered, its manufacture-time stores as log entry 1 says. -/
def State.reset : State where
  pwr := .reset
  fuse := .reset
  nor := []
  slotOpen := false
  sermem := []
  ms := .reset
  regs := .reset
  ctr := .reset
  ind := .reset
  host := .reset
  mem := []
  tier := .reset
  mach := .reset
  prog := none
  loadWait := none
  st := .reset
  ex := .reset
  conf := .reset
  wd := none
  bar := Barrier.resetAll
  mir := .reset
  recov := .reset
  net := .reset .o96
  gc := .reset
  free := 0
  pending := []

end Sys2Proof.Machine
end

