-- ==== Sys2Proof/Config.lean ====
section
/-! DEFINITION. What the spec names without defining it: the standard algorithms of other documents, the values it leaves open,
and the byte layouts it does not give. None has a body, so nothing proved of the model rests on one of their values. -/

namespace Sys2Proof.Config

open Sys2Proof Sys2Proof.Machine

/-- SHA3-256 of FIPS 202, named by 12 R318, 14 R347, 16 R386 and others (log entry 11). -/
opaque sha3 : List Byte → W256

/-- ML-DSA-44 verification of FIPS 204 (16 R389): public key, context string, message, signature (log entry 11). -/
opaque mldsaVerify : List Byte → List Byte → List Byte → List Byte → Bool

/-- ML-DSA-44 signing with the private key derived from a seed (12 R320, 16 R404, R407), in the deterministic variant with a
random input of 32 zero bytes: seed, context string, message (log entry 11). -/
opaque mldsaSign : W256 → List Byte → List Byte → List Byte

/-- The public key that ML-DSA-44 key generation derives from a seed (16 R404; log entry 11). -/
opaque mldsaPublic : W256 → List Byte

/-- The vendor's own check of a TRIMS record over the record and the serial number (16 R389; log entry 11). -/
opaque trimsSigned : List Byte → Nat → W256 → Bool

/-- A vendor signature verified under the vendor key that hashes to the fused value (16 R391 check 5, R405): key hash, context
string, message, signature (log entry 11). -/
opaque vendorSigned : W256 → List Byte → List Byte → List Byte → Bool

/-- The installation map that an INSTALL_MAP payload holds (10 R251, R252), none when it is malformed (log entry 10). -/
opaque readMap : List Byte → Option InstallMap

/-- The word that a vector comparison writes for an order: 0 less, 1 equal, 2 greater, 3 unordered; 02 R59 gives the order and not its
encoding (log entry 32). -/
opaque cmpCode : Nat → W32

/-- The scale byte of a calibrated tensor that a step converts before any step has been recorded, by program hash, step number and tensor; 03 R63
states one for EVAL alone (log entry 33). -/
opaque uncalibratedScale : W256 → Nat → Nat → Byte

/-- Value number `n` of a width that the spec leaves open (log entry 7). -/
opaque free (w : Nat) : Nat → BitVec w

end Sys2Proof.Config
end

