-- ==== Sys2Proof/Machine/Ops.lean ====
section
/-! DEFINITION. The named operations that every meaning is built from: bit fields, little-endian bytes, sparse maps, device
memory, counters, and the conditions under which the module runs at all. -/

namespace Sys2Proof

/-- Status codes (00 R6). -/
def Status.code : Status → Nat
  | .ok => 0x00
  | .okRecovered => 0x01
  | .skippedNonfinite => 0x02
  | .okRescaled => 0x03
  | .stateInvalid => 0x10
  | .resourceShort => 0x11
  | .contractVersion => 0x12
  | .boundExceeded => 0x13
  | .sparseCap => 0x20
  | .indexRange => 0x21
  | .formatInvalid => 0x22
  | .spillwayExhausted => 0x23
  | .stepAborted => 0x30
  | .timeout => 0x31
  | .peerLost => 0x32
  | .memoryUncorrectable => 0x40
  | .tierFault => 0x41

/-- Enabled Graph Cores of an order code (00 R1). -/
def Order.coreCount : Order → Nat
  | .o96 | .c96 => 96
  | .c80 => 80

/-- Order codes (15 R371). -/
def Order.code : Order → Nat
  | .o96 => 0
  | .c96 => 1
  | .c80 => 2

end Sys2Proof

namespace Sys2Proof.Machine

open Sys2Proof

/-! ### Bits and bytes (00 R8, R9) -/

/-- Bits [lo + n - 1 : lo] of a number (00 R8). -/
def bits (v lo n : Nat) : Nat := v / 2 ^ lo % 2 ^ n

/-- The number that little-endian bytes hold (00 R9). -/
def leNat : List Byte → Nat
  | [] => 0
  | b :: t => b.toNat + 256 * leNat t

/-- The `n` little-endian bytes of a number (00 R9). -/
def leBytes : Nat → Nat → List Byte
  | 0, _ => []
  | n + 1, v => BitVec.ofNat 8 v :: leBytes n (v / 256)

/-- The field of `n` bytes at offset `off`. -/
def field (b : List Byte) (off n : Nat) : Nat := leNat ((b.drop off).take n)

/-- Bytes `off` to `off + n - 1`. -/
def slice (b : List Byte) (off n : Nat) : List Byte := (b.drop off).take n

/-- Every byte of a range is 0. -/
def allZero (b : List Byte) (off n : Nat) : Bool := (slice b off n).all (· == 0)

/-- `n` zero bytes. -/
def zeros (n : Nat) : List Byte := List.replicate n 0

/-- Bytes cut or padded with zeros to exactly `n`. -/
def fit (n : Nat) (b : List Byte) : List Byte := (b ++ zeros n).take n

/-- A digest as its 32 bytes (15 R374). -/
def digestBytes (d : W256) : List Byte := leBytes 32 d.toNat

/-- The digest that 32 bytes hold. -/
def digestOf (b : List Byte) : W256 := BitVec.ofNat 256 (leNat (b.take 32))

/-- Two's-complement reading of an `n`-bit number. -/
def signed (n v : Nat) : Int := if v % 2 ^ n < 2 ^ (n - 1) then (v % 2 ^ n : Nat) else (v % 2 ^ n : Nat) - (2 ^ n : Int)

/-- Division rounded up. -/
def ceilDiv (a b : Nat) : Nat := (a + b - 1) / b

/-- The smallest multiple of `b` that is not below `a`. -/
def roundUp (a b : Nat) : Nat := ceilDiv a b * b

/-- Element `i` of a list, or a default beyond its end. -/
def nth {α : Type} (d : α) (l : List α) (i : Nat) : α := l.getD i d

/-- A list with element `i` changed, and unchanged beyond its end. -/
def setNth {α : Type} : List α → Nat → α → List α
  | [], _, _ => []
  | _ :: t, 0, x => x :: t
  | h :: t, i + 1, x => h :: setNth t i x

/-- A list with element `i` mapped by `f`, and unchanged beyond its end. -/
def modNth {α : Type} : List α → Nat → (α → α) → List α
  | [], _, _ => []
  | h :: t, 0, f => f h :: t
  | h :: t, i + 1, f => h :: modNth t i f

/-- The two's-complement code of an integer in `n` bits. -/
def intCode (n : Nat) (v : Int) : Nat := (v % (2 ^ n : Int)).toNat

/-! ### Sparse maps -/

/-- The entry of a key, or the default. -/
def NMap.get {α : Type} (d : α) : NMap α → Nat → α
  | [], _ => d
  | (k, v) :: t, a => if k = a then v else NMap.get d t a

/-- A map without a key. -/
def NMap.erase {α : Type} (m : NMap α) (a : Nat) : NMap α := m.filter fun e => e.1 != a

/-- A map with an entry put in its place by key. -/
def NMap.insert {α : Type} : NMap α → Nat → α → NMap α
  | [], a, x => [(a, x)]
  | (k, v) :: t, a, x => if a < k then (a, x) :: (k, v) :: t else (k, v) :: NMap.insert t a x

/-- A map with a key set; setting the default leaves the key out. -/
def NMap.set {α : Type} [DecidableEq α] (d : α) (m : NMap α) (a : Nat) (x : α) : NMap α :=
  if x = d then m.erase a else (m.erase a).insert a x

/-- A map with a key present whatever its value (for maps whose keys themselves are the information). -/
def NMap.put {α : Type} (m : NMap α) (a : Nat) (x : α) : NMap α := (m.erase a).insert a x

/-- The entry of a key, if present. -/
def NMap.find {α : Type} (m : NMap α) (a : Nat) : Option α := (m.find? fun e => e.1 == a).map (·.2)

/-- The canonical form: keys strictly rising and no entry equal to the default. -/
abbrev NMap.wf {α : Type} [DecidableEq α] (d : α) (m : NMap α) : Prop :=
  m.Pairwise (fun a b => a.1 < b.1) ∧ ∀ e ∈ m, e.2 ≠ d

/-! ### Byte stores -/

/-- One byte of a store whose unlisted addresses read `d`. -/
abbrev byteAt (d : Byte) (m : NMap Byte) (a : Nat) : Byte := m.get d a

/-- `n` bytes from an address on. -/
def bytesAt (d : Byte) (m : NMap Byte) (a : Nat) : Nat → List Byte
  | 0 => []
  | n + 1 => byteAt d m a :: bytesAt d m (a + 1) n

/-- Bytes stored from an address on. -/
def storeBytes (d : Byte) (m : NMap Byte) (a : Nat) : List Byte → NMap Byte
  | [] => m
  | b :: t => storeBytes d (m.set d a b) (a + 1) t

/-- Device memory's canonical form; an unlisted byte reads 0 (log entry 5). -/
abbrev Memory.wf (m : List Host.Cell) : Prop := NMap.wf (0 : Byte) m

/-- A byte of device memory (08 R186). -/
abbrev State.byte (s : State) (a : Nat) : Byte := byteAt 0 s.mem a

/-- Bytes of device memory. -/
abbrev State.read (s : State) (a n : Nat) : List Byte := bytesAt 0 s.mem a n

/-- A little-endian number in device memory. -/
abbrev State.readNat (s : State) (a n : Nat) : Nat := leNat (s.read a n)

/-- The bytes of the step's mutable committed regions, whose old values Commit keeps until the commit point (01 R23). -/
def inUndo (u : List (Nat × Byte)) (a : Nat) : Bool := u.any fun e => e.1 == a

/-- Bytes stored to device memory. -/
def State.write (s : State) (a : Nat) (b : List Byte) : State := { s with mem := storeBytes 0 s.mem a b }

/-- Bytes stored during Commit: the old value of each byte is kept, once, until the commit point (01 R23). -/
def State.writeUndo (s : State) (a : Nat) : List Byte → State
  | [] => s
  | b :: t =>
    let u := if inUndo s.st.undo a then s.st.undo else (a, s.byte a) :: s.st.undo
    State.writeUndo { s with mem := NMap.set 0 s.mem a b, st := { s.st with undo := u } } (a + 1) t

/-- A byte of the serial configuration memory; erased bytes read 0xFF (16 R387). -/
abbrev State.norRead (s : State) (a n : Nat) : List Byte := bytesAt 0xFF s.nor a n

/-! ### Address ranges -/

/-- Two ranges of addresses have a byte in common. -/
def overlaps (a b : Region) : Bool := a.len != 0 && b.len != 0 && decide (a.base < b.base + b.len) && decide (b.base < a.base + a.len)

/-- A range of `n` bytes from `a` lies within a region. -/
def within (r : Region) (a n : Nat) : Bool := decide (r.base ≤ a) && decide (a + n ≤ r.base + r.len)

/-! ### Conditions -/

/-- The module is powered and not held in reset. -/
def State.on (s : State) : Bool := s.pwr.good && !s.pwr.perst

/-- Firmware or the boot ROM takes commands: powered, out of reset, and neither ROM nor HALTED (13 R340). -/
def State.live (s : State) : Bool := s.on && s.ms.st != .rom && s.ms.st != .halted

/-- The module is a member that runs (10 R250): JOINED, LOADED or RUNNING. -/
def State.member (s : State) : Bool := s.on && (s.ms.st == .joined || s.ms.st == .loaded || s.ms.st == .running)

/-- BAR0 answers: powered, out of reset and the PCI Express link up (15 R370). -/
def State.bar0Up (s : State) : Bool := s.on && s.pwr.pcieUp

/-- Apply `f` if a condition holds; otherwise nothing happens. -/
def State.when (s : State) (c : Bool) (f : State → State) : State := if c then f s else s

/-- The logical rank held, with 0 for none. -/
def State.rank (s : State) : Nat := s.mach.rank.getD 0

/-- The machine's number of logical ranks. -/
def State.ranks (s : State) : Nat := s.mach.ranks.length

/-- The loaded program is T7-exact (03 R76). -/
def State.t7 (s : State) : Bool := s.prog.elim false (·.t7)

/-! ### Free values (log entry 7) -/

/-- The next free value of a width, and the state with it taken. -/
def State.takeFree (s : State) (w : Nat) : BitVec w × State := (Config.free w s.free, { s with free := s.free + 1 })

/-! ### Counters (15 R378, R381) -/

/-- A counter's present value. -/
abbrev State.counter (s : State) (i : Nat) : W64 := s.ctr.live.get 0 i

/-- A counter set (the gauges FLASH_SPARE_BLOCKS and FLASH_PE_AVERAGE, 15 R378). -/
def State.setCounter (s : State) (i : Nat) (v : W64) : State := { s with ctr := { s.ctr with live := s.ctr.live.set 0 i v } }

/-- `n` events counted; counters wrap modulo 2^64 (15 R378). -/
def State.count (s : State) (i n : Nat) : State := s.setCounter i (s.counter i + BitVec.ofNat 64 n)

/-- Index of CORE_CYCLES. -/
def cCoreCycles : Nat := 0x000
/-- Index of COMPACT_RUNS. -/
def cCompactRuns : Nat := 0x001
/-- Index of INGEST_RECORDS. -/
def cIngestRecords : Nat := 0x002
/-- Index of INGEST_RELOCATE. -/
def cIngestRelocate : Nat := 0x003
/-- Index of INGEST_DELETE_MISS. -/
def cIngestDeleteMiss : Nat := 0x004
/-- Index of EDDY_REFRESH_ROWS. -/
def cEddyRefreshRows : Nat := 0x005
/-- Index of EDDY_DROPS. -/
def cEddyDrops : Nat := 0x006
/-- Index of MIGRATE_ROWS. -/
def cMigrateRows : Nat := 0x007
/-- Index of TABLE_REPLACE_ROWS. -/
def cTableReplaceRows : Nat := 0x008
/-- Index of HBM_PINS_MARKED. -/
def cHbmPinsMarked : Nat := 0x009
/-- Index of HBM_MARK_DENIED. -/
def cHbmMarkDenied : Nat := 0x00A
/-- Index of DRAM_CORRECTED. -/
def cDramCorrected : Nat := 0x00B
/-- Index of DRAM_UNCORRECTABLE. -/
def cDramUncorrectable : Nat := 0x00C
/-- Index of SRAM_CORRECTED. -/
def cSramCorrected : Nat := 0x00D
/-- Index of SRAM_UNCORRECTABLE. -/
def cSramUncorrectable : Nat := 0x00E
/-- Index of FLASH_UNREADABLE. -/
def cFlashUnreadable : Nat := 0x00F
/-- Index of FLASH_SPARE_BLOCKS, a gauge. -/
def cFlashSpare : Nat := 0x010
/-- Index of FLASH_PE_AVERAGE, a gauge. -/
def cFlashPe : Nat := 0x011
/-- Index of CONF_CONTRIB. -/
def cConfContrib : Nat := 0x01A
/-- Index of CONF_ADDS. -/
def cConfAdds : Nat := 0x01B
/-- Index of CONF_CKSUM_FAIL. -/
def cConfCksumFail : Nat := 0x01D
/-- Index of CONF_AGG_FAIL. -/
def cConfAggFail : Nat := 0x01E
/-- Index of CONF_REREQUEST. -/
def cConfRerequest : Nat := 0x01F
/-- Index of CONF_RESCALE. -/
def cConfRescale : Nat := 0x020
/-- Index of CONF_STALE_DISCARD. -/
def cConfStale : Nat := 0x022
/-- Index of COLL_WATCHDOG_EXPIRED. -/
def cWatchdog : Nat := 0x023
/-- Index of YL_DUP_DISCARD. -/
def cDup : Nat := 0x024
/-- Index of YL_ROUTE_DISCARD. -/
def cRouteDiscard : Nat := 0x025
/-- Index of RECOVERY_ABORTS. -/
def cAborts : Nat := 0x026
/-- Index of STEP_REPLAYS. -/
def cReplays : Nat := 0x027
/-- Index of SUBSTITUTIONS. -/
def cSubstitutions : Nat := 0x028
/-- Index of FALLBACKS. -/
def cFallbacks : Nat := 0x029
/-- Index of MIRROR_DELTA_BYTES. -/
def cMirrorBytes : Nat := 0x02A
/-- Index of MIRROR_RESENDS. -/
def cMirrorResends : Nat := 0x02B
/-- Index of PULL_BYTES. -/
def cPullBytes : Nat := 0x02C
/-- Index of REPLAY_MISMATCH. -/
def cReplayMismatch : Nat := 0x02D
/-- Index of TAILRACE_SPILL_BYTES. -/
def cSpillBytes : Nat := 0x02E
/-- Index of TAILRACE_FILL_BYTES. -/
def cFillBytes : Nat := 0x02F
/-- Index of counter `k` of port `p`: 0 YL_REPLAYS, 1 YL_RETRAINS, 2 YL_FLITS_LOST. -/
def cPort (p k : Nat) : Nat := 0x030 + 3 * p + k
/-- Index of counter `k` of a cluster: 0 HW_DRAWS, 1 HW_REMOTE_REQ, 2 HW_REMOTE_ANS, 3 HW_EMPTY_SLOTS, 4 HW_COUNT_PATH,
5 HW_WEIGHTED_SLOW, 6 HW_FULL_TRUNC, 7 BRAID_BUSY_CYCLES, 8 BRAID_KEYS, 9 BRAID_ADDS. -/
def cCluster (c k : Nat) : Nat := 0x070 + 10 * c + k
/-- Index of counter `k` of a Quarry engine: 0 QUARRY_ROWS_LOCAL, 1 _EDDY, 2 _REMOTE, 3 QUARRY_LOOKUP_ANS, 4 QUARRY_GRAD_CONTRIB. -/
def cQuarry (q k : Nat) : Nat := 0x0F0 + 5 * q + k
/-- Index of NARROW_ACCESSES of an HBM controller. -/
def cNarrow (h : Nat) : Nat := 0x170 + h
/-- Index of counter `k` of a physical Graph Core, in the order of 15 R381. -/
def cCore (c k : Nat) : Nat := 0x180 + 24 * c + k
/-- Index of counter `k` of a pseudo-channel: 0 HBM_REREAD, 1 HBM_CORRECTED, 2 HBM_UNCORRECTABLE, 3 HBM_UE_TRANSIENT,
4 HBM_PAGES_RETIRED. -/
def cPc (p k : Nat) : Nat := 0xA80 + 5 * p + k

/-- State codes (15 R371). -/
def MState.code : MState → Nat
  | .rom => 0
  | .recovery => 1
  | .ready => 2
  | .joined => 3
  | .loaded => 4
  | .running => 5
  | .quiesced => 6
  | .halted => 7

/-- The enabled physical Graph Cores in ascending number (00 R428). -/
def State.cores (s : State) : List Nat := (List.range 96).filter fun c => s.fuse.enabled.getLsbD c

/-- A cluster's enabled cores in ascending physical number (00 R428). -/
def State.clusterEnabled (s : State) (c : Nat) : List Nat := s.cores.filter fun p => p / 8 == c

end Sys2Proof.Machine
end

