-- ==== Sys2Proof/Machine/Flags.lean ====
section
/-! DEFINITION. The arithmetic flags (02 R58), what raises each and how a task keeps and counts them. -/

namespace Sys2Proof.Machine

open Sys2Proof

/-- Flags that an arithmetic operation raises (02 R58). -/
structure AFlags where
  nanOut : Bool := false
  infOut : Bool := false
  ovf : Bool := false
  sat : Bool := false
  deriving DecidableEq, Repr, Inhabited

/-- Flags of two operations together. -/
def AFlags.or (a b : AFlags) : AFlags where
  nanOut := a.nanOut || b.nanOut
  infOut := a.infOut || b.infOut
  ovf := a.ovf || b.ovf
  sat := a.sat || b.sat

/-- Flags of many operations together. -/
def AFlags.all (l : List AFlags) : AFlags := l.foldl AFlags.or {}

/-- The index of core counter `k` raised by one if `now` sets a flag that `was` did not (02 R58: once per task). -/
def State.countFlag (s : State) (phys k : Nat) (was now : Bool) : State := if now && !was then s.count (cCore phys k) 1 else s

/-- The Weir of a logical core. -/
abbrev State.weir (s : State) (core : Nat) : Weir := s.gc.weir.getD core default

/-- A task slot of a Weir. -/
def Weir.task (w : Weir) (slot : Nat) : Task := w.tasks.getD slot Task.idle

/-- A Weir changed. -/
def State.setWeir (s : State) (core : Nat) (w : Weir) : State := { s with gc := { s.gc with weir := setNth s.gc.weir core w } }

/-- A task slot changed. -/
def State.setTask (s : State) (core slot : Nat) (t : Task) : State :=
  let w := s.weir core
  s.setWeir core { w with tasks := setNth w.tasks slot t }

/-- First pass of 14 R352: logical core l goes to the (l / 12)-th enabled core of cluster l mod 12, if there is one. -/
def State.firstPass (s : State) (l : Nat) : Option Nat := (s.clusterEnabled (l % 12))[l / 12]?

/-- Second pass of 14 R352: each logical core left unassigned takes the lowest enabled core not yet assigned. -/
def fillCores : List (Option Nat) → List Nat → List Nat
  | [], _ => []
  | some p :: t, free => p :: fillCores t free
  | none :: t, free =>
    match free with
    | [] => 0 :: fillCores t []
    | p :: rest => p :: fillCores t rest

/-- The physical cores of logical cores 0 to `lcores` - 1 (14 R352). -/
def State.coreMap (s : State) (lcores : Nat) : List Nat :=
  let first := (List.range lcores).map s.firstPass
  fillCores first (s.cores.filter fun p => !first.contains (some p))

/-- The physical Graph Core of a logical core under the loaded program. -/
def State.physical (s : State) (core : Nat) : Nat := nth 0 (s.coreMap (s.prog.elim 0 (·.lcores))) core

/-- The level at which a task runs (14 R355). -/
def Task.level (t : Task) : Nat := if t.evalClass then t.prio else t.prio + 4

/-- A task as it is when its class's work has been dropped: IDLE, with nothing pending and no flag set. -/
def Task.cleared (t : Task) : Task := { Task.idle with
  present := t.present
  prio := t.prio
  evalClass := t.evalClass
  entry := t.entry
  startOn := t.startOn }

/-- A held operation whose target or issuer is a task that `keep` refuses is dropped. -/
def HeldOp.kept (keep : Nat → Nat → Bool) (core : Nat) : HeldOp → Bool
  | .flag i slot _ => keep core slot && keep i.1 i.2
  | .start i slot _ => keep core slot && (i.elim true fun i => keep i.1 i.2)
  | .resume slot => keep core slot

/-- The task that a dropped operation held, when that task itself is kept: it becomes READY again (14 R361). -/
def HeldOp.freed (keep : Nat → Nat → Bool) (core : Nat) : HeldOp → Option (Nat × Nat)
  | .flag i slot _ => if !keep core slot && keep i.1 i.2 then some i else none
  | .start i slot _ => i.filter fun i => !keep core slot && keep i.1 i.2
  | .resume _ => none

/-- The tasks of one class, EVAL or STEP, stopped, with every descriptor they issued, one whose reshape is due included (14 R362, 11 R272); a task of
the other class that was held for one of them goes on. -/
def State.clearWork (s : State) (eval : Bool) : State :=
  let keep := fun core slot => ((s.weir core).task slot).evalClass != eval
  let freed := (List.range s.gc.weir.length).flatMap fun c => (s.weir c).held.filterMap (HeldOp.freed keep c)
  let one := fun (c : Nat) (w : Weir) => { w with
    tasks := w.tasks.map fun t => if t.evalClass = eval then t.cleared else t
    ready := w.ready.filter (keep c)
    running := w.running.filter (keep c)
    held := w.held.filter (HeldOp.kept keep c) ++ (freed.filter (·.1 == c)).map (.resume ·.2)
    stalled := w.stalled.filter fun d => d.eval != eval }
  { s with gc := { s.gc with
    weir := (List.range s.gc.weir.length).map fun c => one c (s.weir c)
    mc := s.gc.mc.map fun m => { m with due := m.due.filter fun q => q.eval != eval }
    queue := s.gc.queue.filter fun d => d.eval != eval
    busy := s.gc.busy.filter fun r => r.eval != eval } }

/-- Flags raised for a task: sticky, and counted once per task on its physical core (02 R58). -/
def State.raise (s : State) (core slot : Nat) (f : AFlags) : State :=
  let t := (s.weir core).task slot
  let p := s.physical core
  let s := s.countFlag p 13 t.nanOut f.nanOut
  let s := s.countFlag p 14 t.infOut f.infOut
  let s := s.countFlag p 15 t.ovf f.ovf
  let s := s.countFlag p 16 t.sat f.sat
  s.setTask core slot { t with
    nanOut := t.nanOut || f.nanOut
    infOut := t.infOut || f.infOut
    ovf := t.ovf || f.ovf
    sat := t.sat || f.sat }

/-- Flags of work that no task issues (02 R58): counted on the core that carries logical core 0. -/
def State.raiseConf (s : State) (f : AFlags) : State :=
  let p := s.physical 0
  let s := s.countFlag p 13 false f.nanOut
  let s := s.countFlag p 14 false f.infOut
  let s := s.countFlag p 15 false f.ovf
  s.countFlag p 16 false f.sat

end Sys2Proof.Machine
end

