-- ==== Sys2Proof/Machine/Formats.lean ====
section
/-! DEFINITION. Number formats, exact values and the one rounding (02 R41-R49, 00 R10). -/

namespace Sys2Proof.Machine

open Sys2Proof

/-! ### Encodings (02 R41) -/

/-- A floating-point format: exponent bits, fraction bits, bias. -/
structure Fmt where
  ebits : Nat
  fbits : Nat
  bias : Nat
  deriving DecidableEq, Repr

/-- FP32. -/
def fp32 : Fmt := { ebits := 8, fbits := 23, bias := 127 }
/-- BF16. -/
def bf16 : Fmt := { ebits := 8, fbits := 7, bias := 127 }
/-- XM48. -/
def xm48 : Fmt := { ebits := 8, fbits := 39, bias := 127 }
/-- A48. -/
def a48 : Fmt := { ebits := 10, fbits := 37, bias := 511 }

/-- The all-ones exponent. -/
def Fmt.emax (f : Fmt) : Nat := 2 ^ f.ebits - 1
/-- The sign bit's weight. -/
def Fmt.signBit (f : Fmt) : Nat := 2 ^ (f.ebits + f.fbits)
/-- An infinity. -/
def Fmt.inf (f : Fmt) (neg : Bool) : Nat := (if neg then f.signBit else 0) + f.emax * 2 ^ f.fbits
/-- The canonical quiet NaN (02 R43). -/
def Fmt.nan (f : Fmt) : Nat := f.emax * 2 ^ f.fbits + 2 ^ (f.fbits - 1)
/-- A zero. -/
def Fmt.zero (f : Fmt) (neg : Bool) : Nat := if neg then f.signBit else 0

/-- A floating value: (−1)^neg × m × 2^e when finite. -/
inductive FVal where
  | nan
  | inf (neg : Bool)
  | fin (neg : Bool) (m : Nat) (e : Int)
  deriving DecidableEq, Repr, Inhabited

/-- The value of a code (02 R41-R43). -/
def Fmt.decode (f : Fmt) (c : Nat) : FVal :=
  let neg := c / f.signBit % 2 == 1
  let e := c / 2 ^ f.fbits % 2 ^ f.ebits
  let m := c % 2 ^ f.fbits
  if e = f.emax then (if m = 0 then .inf neg else .nan)
  else if e = 0 then .fin neg m (1 - (f.bias : Int) - f.fbits)
  else .fin neg (2 ^ f.fbits + m) ((e : Int) - f.bias - f.fbits)

/-! ### Exact values and rounding (00 R10) -/

/-- An exact dyadic value m × 2^e. -/
structure Dy where
  m : Int
  e : Int
  deriving DecidableEq, Repr, Inhabited

/-- Zero. -/
def Dy.zero : Dy := { m := 0, e := 0 }

/-- Exact sum. -/
def Dy.add (a b : Dy) : Dy :=
  if a.m = 0 then b
  else if b.m = 0 then a
  else if a.e ≤ b.e then { m := a.m + b.m * 2 ^ (b.e - a.e).toNat, e := a.e }
  else { m := a.m * 2 ^ (a.e - b.e).toNat + b.m, e := b.e }

/-- Exact product. -/
def Dy.mul (a b : Dy) : Dy := { m := a.m * b.m, e := a.e + b.e }

/-- The exact value of a finite floating value; 0 for the others. -/
def FVal.dy : FVal → Dy
  | .fin neg m e => { m := if neg then -(m : Int) else m, e := e }
  | _ => Dy.zero

/-- n / 2^d rounded to nearest, ties to even. -/
def rneShift (n d : Nat) : Nat :=
  let q := n / 2 ^ d
  let r := n % 2 ^ d
  if 2 * r > 2 ^ d ∨ (2 * r = 2 ^ d ∧ q % 2 = 1) then q + 1 else q

/-- n / d rounded to nearest, ties to even. -/
def rneDiv (n d : Nat) : Nat :=
  let q := n / d
  let r := n % d
  if 2 * r > d ∨ (2 * r = d ∧ q % 2 = 1) then q + 1 else q

/-- Magnitude m × 2^e in units of 2^q, rounded. -/
def inUnits (m : Nat) (e q : Int) : Nat := if q ≤ e then m * 2 ^ (e - q).toNat else rneShift m (q - e).toNat

/-- The position of the leading bit of m × 2^e, m not 0. -/
def leadingBit (m : Nat) (e : Int) : Int := (Nat.log2 m : Int) + e

/-- The code of ± m × 2^e rounded once into a format, and whether a finite value became infinite (02 R48). A zero keeps its sign. -/
def Fmt.round (f : Fmt) (neg : Bool) (m : Nat) (e : Int) : Nat × Bool :=
  if m = 0 then (f.zero neg, false)
  else
    let emin : Int := 1 - (f.bias : Int)
    let top := max (leadingBit m e) emin
    let k := inUnits m e (top - f.fbits)
    let code := (top - emin).toNat * 2 ^ f.fbits + k
    if f.emax * 2 ^ f.fbits ≤ code then (f.inf neg, true) else (f.zero neg + code, false)

/-- An exact value rounded into a format; exactly zero gives +0. -/
def Fmt.roundDy (f : Fmt) (x : Dy) : Nat × Bool := f.round (decide (x.m < 0)) x.m.natAbs x.e

/-- A floating value converted to a format (02 R48) with the flags of 02 R58. -/
def Fmt.ofVal (f : Fmt) : FVal → Nat × AFlags
  | .nan => (f.nan, { nanOut := true })
  | .inf neg => (f.inf neg, { infOut := true })
  | .fin neg m e =>
    let r := f.round neg m e
    (r.1, { ovf := r.2 })

/-- The outputs of 02 R51: a zero result is +0. -/
def plusZero (f : Fmt) (c : Nat) : Nat := if c = f.signBit then 0 else c

/-! ### Formats by code (14 R348, 04 R92) -/

/-- The floating format of a code: 0 FP32, 1 BF16, 6 A48, 8 XM48. -/
def floatFmt (c : Nat) : Option Fmt :=
  match c with
  | 0 => some fp32
  | 1 => some bf16
  | 6 => some a48
  | 8 => some xm48
  | _ => none

/-- Bits of one element by code: 2 INT8, 3 INT4, 4 BS8, 5 BS4, 7 INT32 and the floating formats. -/
def fmtBits (c : Nat) : Nat :=
  match c with
  | 0 => 32
  | 1 => 16
  | 2 => 8
  | 3 => 4
  | 4 => 8
  | 5 => 4
  | 6 => 48
  | 7 => 32
  | 8 => 48
  | _ => 0

/-- Bytes that `n` packed elements take (02 R44, R45). -/
def fmtBytes (c n : Nat) : Nat := ceilDiv (n * fmtBits c) 8

/-- Largest magnitude code of an integer or block-scaled element: negative and positive limits (02 R45, R46). -/
def intRange (c : Nat) : Int × Int :=
  match c with
  | 2 => (-128, 127)
  | 3 => (-8, 7)
  | 4 => (-127, 127)
  | 5 => (-7, 7)
  | _ => (-(2 ^ 31 : Int), 2 ^ 31 - 1)

/-- A format is block-scaled. -/
def isBs (c : Nat) : Bool := c == 4 || c == 5
/-- A format is INT8 or INT4. -/
def isInt (c : Nat) : Bool := c == 2 || c == 3

/-- Element `i` of a packed row, as a raw code (02 R45). -/
def elemCode (fmt : Nat) (row : List Byte) (i : Nat) : Nat :=
  if fmtBits fmt = 4 then bits (field row (i / 2) 1) (4 * (i % 2)) 4
  else field row (i * (fmtBits fmt / 8)) (fmtBits fmt / 8)

/-- The first `n` elements of a packed row, as raw codes. -/
def elemCodes (fmt : Nat) (row : List Byte) (n : Nat) : List Nat := (List.range n).map (elemCode fmt row)

/-- The integer of an INT8, INT4, BS8, BS4 or INT32 code. -/
def elemInt (fmt c : Nat) : Int := signed (fmtBits fmt) c

/-- Codes that no BS8 or BS4 element has (02 R46). -/
def elemInvalid (fmt c : Nat) : Bool := (fmt == 4 && c == 0x80) || (fmt == 5 && c == 0x8)

/-- Four-bit codes packed two to a byte. -/
def packNibbles : List Nat → List Byte
  | [] => []
  | [a] => [BitVec.ofNat 8 a]
  | a :: b :: t => BitVec.ofNat 8 (a + 16 * b) :: packNibbles t

/-- Raw codes packed as a row (02 R44, R45). -/
def packCodes (fmt : Nat) (cs : List Nat) : List Byte :=
  if fmtBits fmt = 4 then packNibbles cs else cs.flatMap (leBytes (fmtBits fmt / 8))

/-! ### Conversion into integer and block-scaled formats (02 R48, R49, 03 R61, R62) -/

/-- A finite value divided by 2^s and rounded to an integer, ties to even. -/
def scaledInt (v : FVal) (s : Int) : Int :=
  match v with
  | .fin neg m e => let k : Int := inUnits m e s; if neg then -k else k
  | _ => 0

/-- A NaN or an infinity has no encoding in these formats (02 R49). -/
def FVal.finite : FVal → Bool
  | .fin _ _ _ => true
  | _ => false

/-- An integer saturated to a range, and whether that changed it. -/
def saturate (r : Int × Int) (v : Int) : Int × Bool := if v < r.1 then (r.1, true) else if r.2 < v then (r.2, true) else (v, false)

/-- A value's magnitude divided by 2^s and rounded: what 03 R61 compares with its limit. -/
def scaledMag (v : FVal) (s : Int) : Nat := (scaledInt v s).natAbs

/-- The scale byte of 03 R61 for a set of values and a limit: the smallest for which every value's rounded magnitude is within the
limit, at most 0xFE. Counted up from 0 with `fuel` bytes left. -/
def scaleFrom (vs : List FVal) (limit : Nat) : Nat → Nat → Nat
  | 0, e => min e 0xFE
  | fuel + 1, e => if vs.all (fun v => decide (scaledMag v ((e : Int) - 127) ≤ limit)) then e else scaleFrom vs limit fuel (e + 1)

/-- The scale byte of a set (03 R61). -/
def scaleByte (vs : List FVal) (limit : Nat) : Nat := scaleFrom vs limit 0xFE 0

/-- The limit of a recipe (03 R62): `kind` 2 is a gradient, any other kind a weight, activation, feature or row. -/
def recipeLimit (fmt : Nat) (gradient : Bool) : Nat :=
  if fmtBits fmt = 4 then (if gradient then 3 else 7) else if gradient then 63 else 127

/-- Values converted with one scale byte: codes and whether any saturated (02 R48). -/
def quantize (fmt e : Nat) (vs : List FVal) : List Nat × Bool :=
  let r := vs.map fun v => saturate (intRange fmt) (scaledInt v ((e : Int) - 127))
  (r.map fun x => intCode (fmtBits fmt) x.1, r.any (·.2))

/-- A list cut into pieces of `n`, with fuel for its length. -/
def chunksOf {α : Type} (n : Nat) : Nat → List α → List (List α)
  | 0, _ => []
  | fuel + 1, l => if l.isEmpty then [] else l.take n :: chunksOf n fuel (l.drop n)

/-- A list cut into pieces of `n`, the last one shorter. -/
def groupsOf {α : Type} (n : Nat) (l : List α) : List (List α) := chunksOf n l.length l

/-- A row converted block by block under a recipe: codes, scale bytes, and whether any value saturated (03 R61, R62). -/
def quantizeBlocks (fmt limit : Nat) (vs : List FVal) : List Nat × List Nat × Bool :=
  let bs := (groupsOf 32 vs).map fun b => (scaleByte b limit, quantize fmt (scaleByte b limit) b)
  (bs.flatMap fun b => b.2.1, bs.map (·.1), bs.any fun b => b.2.2)

end Sys2Proof.Machine
end

