-- ==== Sys2Proof/Machine/Arith.lean ====
section
/-! DEFINITION. Dot products (02 R50-R57, 03 R77), the split-K tree (03 R68), and element-wise arithmetic (02 R59, 03 R73). -/

namespace Sys2Proof.Machine

open Sys2Proof

/-! ### Special values of products (02 R53) -/

/-- Which special cases occurred among products. -/
structure Specials where
  nan : Bool := false
  pos : Bool := false
  neg : Bool := false
  deriving DecidableEq, Repr, Inhabited

/-- Both sets of cases. -/
def Specials.or (a b : Specials) : Specials := { nan := a.nan || b.nan, pos := a.pos || b.pos, neg := a.neg || b.neg }

/-- One product: its special case, or its exact non-zero value. -/
def product (x y : FVal) : Specials × Option Dy :=
  match x, y with
  | .nan, _ => ({ nan := true }, none)
  | _, .nan => ({ nan := true }, none)
  | .inf a, .inf b => (if a != b then { neg := true } else { pos := true }, none)
  | .inf a, .fin b m _ => (if m = 0 then { nan := true } else if a != b then { neg := true } else { pos := true }, none)
  | .fin a m _, .inf b => (if m = 0 then { nan := true } else if a != b then { neg := true } else { pos := true }, none)
  | .fin _ m _, .fin _ n _ => ({}, if m = 0 ∨ n = 0 then none else some (x.dy.mul y.dy))

/-- The exact value truncated in magnitude to a multiple of 2^q. -/
def truncTo (q : Int) (x : Dy) : Dy :=
  if q ≤ x.e then x
  else
    let k : Int := (x.m.natAbs / 2 ^ (q - x.e).toNat : Nat)
    { m := if x.m < 0 then -k else k, e := q }

/-- A group's products aligned to the largest leading bit, truncated to `window` bits below it and summed (02 R50 step 4). -/
def alignedSum (window : Nat) (ps : List Dy) : Dy :=
  match ps with
  | [] => Dy.zero
  | p :: t =>
    let top := t.foldl (fun e x => max e (leadingBit x.m.natAbs x.e)) (leadingBit p.m.natAbs p.e)
    (p :: t).foldl (fun s x => s.add (truncTo (top - window) x)) Dy.zero

/-- The special cases and the aligned sum of a group of pairs. -/
def groupSum (window : Nat) (ps : List (FVal × FVal)) : Specials × Dy :=
  let r := ps.map fun p => product p.1 p.2
  (r.foldl (fun s x => s.or x.1) {}, alignedSum window (r.filterMap (·.2)))

/-- The A48 code of a result: special cases first, otherwise the accumulator (02 R53). -/
def specialOr (f : Fmt) (sp : Specials) (acc : Nat) : Nat :=
  if sp.nan || (sp.pos && sp.neg) then f.nan else if sp.pos then f.inf false else if sp.neg then f.inf true else acc

/-- An exact value rounded into A48, exactly zero being +0 (02 R50 step 5). -/
def roundA48 (x : Dy) : Nat := (a48.roundDy x).1

/-- The flags of a whole dot product before its output conversion (02 R58). -/
def specialFlags (sp : Specials) : AFlags :=
  let n := sp.nan || (sp.pos && sp.neg)
  { nanOut := n, infOut := !n && (sp.pos || sp.neg) }

/-- The grouped dot product (02 R50): the A48 code and its flags. -/
def dotFloat (ps : List (FVal × FVal)) : Nat × AFlags :=
  let gs := (groupsOf 32 ps).map (groupSum 64)
  let sp := gs.foldl (fun s g => s.or g.1) {}
  let acc := gs.foldl (fun c g => roundA48 ((a48.decode c).dy.add g.2)) 0
  (specialOr a48 sp acc, specialFlags sp)

/-! ### IEEE arithmetic in a format (02 R59, 03 R73, R77) -/

/-- Flags of a result: NaN from anything, an infinity from an infinite operand, or one from finite operands (02 R58). -/
def resultFlags (f : Fmt) (code : Nat) (infIn : Bool) : AFlags :=
  match f.decode code with
  | .nan => { nanOut := true }
  | .inf _ => if infIn then { infOut := true } else { ovf := true }
  | .fin _ _ _ => {}

/-- A value is infinite. -/
def FVal.isInf : FVal → Bool
  | .inf _ => true
  | _ => false

/-- Exact addition rounded once into a format; signed zeros as in IEEE 754 (02 R59). -/
def Fmt.addVals (f : Fmt) (x y : FVal) : Nat × AFlags :=
  let c := match x, y with
    | .nan, _ => f.nan
    | _, .nan => f.nan
    | .inf a, .inf b => if a = b then f.inf a else f.nan
    | .inf a, .fin _ _ _ => f.inf a
    | .fin _ _ _, .inf b => f.inf b
    | .fin a m _, .fin b n _ =>
      if m = 0 ∧ n = 0 then f.zero (a && b) else (f.roundDy (x.dy.add y.dy)).1
  (c, resultFlags f c (x.isInf || y.isInf))

/-- The negation of a value. -/
def FVal.neg : FVal → FVal
  | .nan => .nan
  | .inf a => .inf !a
  | .fin a m e => .fin (!a) m e

/-- Exact multiplication rounded once into a format (02 R59). -/
def Fmt.mulVals (f : Fmt) (x y : FVal) : Nat × AFlags :=
  let c := match x, y with
    | .nan, _ => f.nan
    | _, .nan => f.nan
    | .inf a, .inf b => f.inf (a != b)
    | .inf a, .fin b m _ => if m = 0 then f.nan else f.inf (a != b)
    | .fin a m _, .inf b => if m = 0 then f.nan else f.inf (a != b)
    | .fin a m ex, .fin b n ey => (f.round (a != b) (m * n) (ex + ey)).1
  (c, resultFlags f c (x.isInf || y.isInf))

/-- Fused multiply-add with one rounding (02 R59). -/
def Fmt.fmaVals (f : Fmt) (x y z : FVal) : Nat × AFlags :=
  let c := match (product x y).1 with
    | { nan := true, .. } => f.nan
    | { pos := true, .. } => (f.addVals (.inf false) z).1
    | { neg := true, .. } => (f.addVals (.inf true) z).1
    | _ =>
      match x, y, z with
      | .fin a m ex, .fin b n ey, .fin g k _ =>
        if m = 0 ∨ n = 0 then (if k = 0 then f.zero ((a != b) && g) else (f.roundDy z.dy).1)
        else if k = 0 then (f.round (a != b) (m * n) (ex + ey)).1
        else (f.roundDy ((x.dy.mul y.dy).add z.dy)).1
      | _, _, _ => (f.ofVal z).1
  (c, resultFlags f c (x.isInf || y.isInf || z.isInf))

/-- The order of two values other than NaN: x < y. -/
def FVal.lt (x y : FVal) : Bool :=
  match x, y with
  | .nan, _ => false
  | _, .nan => false
  | .inf a, .inf b => a && !b
  | .inf a, .fin _ _ _ => a
  | .fin _ _ _, .inf b => !b
  | .fin _ _ _, .fin _ _ _ => decide ((x.dy.add { m := -y.dy.m, e := y.dy.e }).m < 0)

/-- Minimum of IEEE 754-2019: NaN if either is, and −0 below +0 (02 R59). -/
def FVal.min (x y : FVal) : FVal :=
  match x, y with
  | .nan, _ => .nan
  | _, .nan => .nan
  | .fin a 0 e, .fin b 0 _ => .fin (a || b) 0 e
  | _, _ => if y.lt x then y else x

/-- Maximum of IEEE 754-2019. -/
def FVal.max (x y : FVal) : FVal :=
  match x, y with
  | .nan, _ => .nan
  | _, .nan => .nan
  | .fin a 0 e, .fin b 0 _ => .fin (a && b) 0 e
  | _, _ => if x.lt y then y else x

/-- The order that a comparison finds: less, equal (−0 equals +0), greater, or unordered (02 R59). -/
inductive Cmp where
  | less | equal | greater | unordered
  deriving DecidableEq, Repr

/-- Comparison (02 R59). -/
def FVal.cmp (x y : FVal) : Cmp :=
  match x, y with
  | .nan, _ => .unordered
  | _, .nan => .unordered
  | _, _ => if x.lt y then .less else if y.lt x then .greater else .equal

/-! ### T7-exact dot product (03 R77) -/

/-- A group's value in T7-exact mode as a floating value. -/
def t7Group (ps : List (FVal × FVal)) : FVal :=
  let g := groupSum 40 ps
  if g.1.nan || (g.1.pos && g.1.neg) then .nan
  else if g.1.pos then .inf false
  else if g.1.neg then .inf true
  else .fin (decide (g.2.m < 0)) g.2.m.natAbs g.2.e

/-- A group added to the FP32 accumulator: a zero sum is +0 (03 R77 steps 5, 6). -/
def t7Add (acc : Nat) (g : FVal) : Nat × AFlags :=
  let r := fp32.addVals (fp32.decode acc) g
  (plusZero fp32 r.1, r.2)

/-- Flags of a whole reduction (02 R53, R58): NAN_OUT and INF_OUT by its result, INF_OUT only when an input was infinite, OVF when
an addition took finite values to an infinity. -/
def reductionFlags (f : Fmt) (code : Nat) (infIn ovf : Bool) : AFlags :=
  match f.decode code with
  | .nan => { nanOut := true, ovf := ovf }
  | .inf _ => { infOut := infIn, ovf := ovf }
  | .fin _ _ _ => { ovf := ovf }

/-- A reduction's flags with those of its output conversion, which is part of it (02 R53): the conversion of an infinity adds no
INF_OUT of its own. -/
def AFlags.converted (r o : AFlags) : AFlags := { r.or o with infOut := r.infOut }

/-- The T7-exact dot product: the FP32 code and its flags. -/
def dotT7 (ps : List (FVal × FVal)) : Nat × AFlags :=
  let r := (groupsOf 16 ps).foldl (fun (a : Nat × Bool) g =>
    let r := t7Add a.1 (t7Group g)
    (r.1, a.2 || r.2.ovf)) (0, false)
  (r.1, reductionFlags fp32 r.1 (ps.any fun p => p.1.isInf || p.2.isInf) r.2)

/-! ### Integer and block-scaled dot products (02 R56, R57) -/

/-- An integer dot product: its sum and whether any group left the INT32 range (02 R56). -/
def dotInt (ps : List (Int × Int)) : Int × Bool :=
  (groupsOf 32 ps).foldl (fun a g =>
    let s := g.foldl (fun t p => t + p.1 * p.2) a.1
    (s, a.2 || decide (s < -(2 ^ 31 : Int)) || decide (2 ^ 31 - 1 < s))) (0, false)

/-- A block-scaled dot product: `scales` gives sa + sb for each group (02 R57). -/
def dotBs (ps : List (Int × Int)) (scales : List Nat) : Nat :=
  let gs := (groupsOf 32 ps).zip scales
  gs.foldl (fun c g =>
    let n := g.1.foldl (fun t p => t + p.1 * p.2) (0 : Int)
    roundA48 ((a48.decode c).dy.add { m := n, e := (g.2 : Int) - 254 })) 0

/-- Repeat k streams round_half_even(a / 2^k) (03 R71). -/
def halved (k : Nat) (a : Int) : Int :=
  let q : Int := rneShift a.natAbs k
  if a < 0 then -q else q

/-! ### Split-K (03 R68, R78) -/

/-- add_a48 of 03 R68. -/
def addA48 (x y : Nat) : Nat :=
  match a48.decode x, a48.decode y with
  | .nan, _ => a48.nan
  | _, .nan => a48.nan
  | .inf a, .inf b => if a = b then x else a48.nan
  | .inf _, .fin _ _ _ => x
  | .fin _ _ _, .inf _ => y
  | .fin a m e, .fin b n g => roundA48 ((FVal.fin a m e).dy.add (FVal.fin b n g).dy)

/-- One level of the tree: neighbours added, a last unpaired item passed up. -/
def treeLevel {α : Type} (add : α → α → α) : List α → List α
  | [] => []
  | [x] => [x]
  | x :: y :: t => add x y :: treeLevel add t

/-- The fixed pairwise tree (03 R68) with what no item gives, and fuel for its levels. -/
def pairwiseTree {α : Type} (add : α → α → α) (d : α) : Nat → List α → α
  | 0, l => l.headD d
  | fuel + 1, l => if l.length ≤ 1 then l.headD d else pairwiseTree add d fuel (treeLevel add l)

/-- FP32 addition with a zero sum of +0, as split-K partials and Braid add in T7-exact mode (03 R78, 02 R51). -/
def addT7 (x y : Nat) : Nat := (t7Add x (fp32.decode y)).1

/-- The format of accumulators: A48, or FP32 in T7-exact mode. -/
def accFmt (t7 : Bool) : Fmt := if t7 then fp32 else a48

/-- One addition of accumulators, each with whether an addition below it overflowed. -/
def addAcc (t7 : Bool) (x y : Nat × Bool) : Nat × Bool :=
  let c := if t7 then addT7 x.1 y.1 else addA48 x.1 y.1
  let inf := fun n => ((accFmt t7).decode n).isInf
  (c, x.2 || y.2 || (inf c && !inf x.1 && !inf y.1))

/-- Split-K partials combined, A48 codes natively and FP32 codes in T7-exact mode, and whether an addition overflowed. -/
def combineParts (t7 : Bool) (parts : List Nat) : Nat × Bool :=
  pairwiseTree (addAcc t7) (0, false) parts.length (parts.map fun p => (p, false))

/-- An accumulator's code converted to FP32 or BF16 as an output of 02 R51: zero is +0. Codes are A48, or FP32 in T7-exact mode. -/
def outputFloat (t7 : Bool) (f : Fmt) (acc : Nat) : Nat × AFlags :=
  let r := f.ofVal ((accFmt t7).decode acc)
  (plusZero f r.1, r.2)

/-- A vector reduction (02 R60): the products of two vectors, or the elements themselves against 1. -/
def reduceVals (t7 : Bool) (ps : List (FVal × FVal)) : Nat × AFlags := if t7 then dotT7 ps else dotFloat ps

end Sys2Proof.Machine
end

