-- ==== Sys2Proof/Machine/Crc.lean ====
section
/-! DEFINITION. The CRC-32C of flits, identity frames and the serial memory header, and the 64-bit sum of 09 R222. -/

namespace Sys2Proof.Machine

open Sys2Proof

/-- One bit of the CRC-32C register, polynomial 0x1EDC6F41 taken bit-reflected (10 R239; log entry 17). -/
def crcBit (r : BitVec 32) : BitVec 32 := if r.getLsbD 0 then (r >>> 1) ^^^ 0x82F63B78#32 else r >>> 1

/-- One byte into the CRC-32C register. -/
def crcByte (r : BitVec 32) (b : Byte) : BitVec 32 := crcBit (crcBit (crcBit (crcBit (crcBit (crcBit (crcBit (crcBit (r ^^^ b.setWidth 32))))))))

/-- CRC-32C of bytes: register started and ended with all ones inverted (log entry 17). -/
def crc32c (b : List Byte) : Nat := (b.foldl crcByte 0xFFFFFFFF#32 ^^^ 0xFFFFFFFF#32).toNat

/-- The CRC in the last four bytes of `n` bytes agrees (10 R239, R255, 16 R388). -/
def crcOk (b : List Byte) (n : Nat) : Bool := crc32c (b.take (n - 4)) == field b (n - 4) 4

/-- The modulus 2^61 − 1 of contribution and mirror checksums (09 R222). -/
def sumMod : Nat := 2 ^ 61 - 1

/-- The sum of the 64-bit words of a payload, modulo 2^61 − 1; a last short word counts as padded with zeros (09 R222). -/
def sumFrom (acc : Nat) : Nat → List Byte → Nat
  | 0, _ => acc
  | _ + 1, [] => acc
  | fuel + 1, b => sumFrom ((acc + leNat (b.take 8)) % sumMod) fuel (b.drop 8)

/-- The checksum of 09 R222. -/
def checksum (b : List Byte) : Nat := sumFrom 0 (b.length / 8 + 1) b

end Sys2Proof.Machine
end

