-- ==== Sys2Proof/Machine/Rings.lean ====
section
/-! DEFINITION. The host side (13): event and completion entries and the order in which they become visible, ring take-up,
the descriptor checks that every command shares, module states, and halting. -/

namespace Sys2Proof.Machine

open Sys2Proof

/-! ### Events and completions becoming visible (13 R335-R338) -/

/-- Byte 31 of an entry: PHASE in bit 7, 1 on even passes through the ring (13 R335, R337). -/
def phaseByte (index log2 : Nat) : Byte := if index / 2 ^ log2 % 2 = 0 then 0x80 else 0x00

/-- An event entry of 32 bytes (13 R338). -/
def eventEntry (code seq log2 : Nat) (payload : List Byte) : List Byte :=
  leBytes 2 code ++ zeros 2 ++ leBytes 4 seq ++ fit 23 payload ++ [phaseByte seq log2]

/-- The event ring has a free slot (13 R337). -/
def EvRing.room (e : EvRing) : Bool := e.valid && decide ((e.written + 2 ^ 32 - e.consumed % 2 ^ 32) % 2 ^ 32 < 2 ^ e.log2)

/-- Held entries written in order until one has no room; completions behind a held event wait with it (13 R336, R337). -/
def HostSide.emit (h : HostSide) : List HeldEntry → HostSide
  | [] => { h with held := [] }
  | .event code p :: t =>
    if h.ev.room then
      HostSide.emit { h with
        out := h.out ++ [.mem (h.ev.base + 32 * (h.ev.written % 2 ^ h.ev.log2)) (eventEntry code h.ev.written h.ev.log2 p),
          .irq h.ev.vector],
        ev := { h.ev with written := h.ev.written + 1 } } t
    else { h with held := .event code p :: t }
  | .completion a d q :: t =>
    HostSide.emit { h with out := h.out ++ (.mem a d :: q.toList.map HostWrite.irq) } t

/-- Held entries are written while the host link is up (13 R324, R337). -/
def State.flush (s : State) : State := if s.bar0Up then { s with host := s.host.emit s.host.held } else s

/-- Post an event (13 R338): payload bytes from byte 8 on. -/
def State.post (s : State) (code : Nat) (payload : List Byte) : State :=
  State.flush { s with host := { s.host with held := s.host.held ++ [.event code payload] } }

/-- As many events are held as the management processor holds: a source that posts another waits, recovery among them; the final event of a
module that halts or shuts down does not (13 R337; log entry 27). -/
def State.holdFull (s : State) : Bool :=
  decide (4096 ≤ (s.host.held.filter fun e => match e with
    | .event _ _ => true
    | .completion _ _ _ => false).length)

/-- Event codes (13 R338). -/
def evLinkDegraded : Nat := 0x0001
/-- CABLE_MISMATCH. -/
def evCableMismatch : Nat := 0x0002
/-- RECOVERY. -/
def evRecovery : Nat := 0x0003
/-- SUBSTITUTED. -/
def evSubstituted : Nat := 0x0004
/-- THERMAL. -/
def evThermal : Nat := 0x0005
/-- CFG_PARITY. -/
def evCfgParity : Nat := 0x0006
/-- FW_VERSION_FLOOR. -/
def evFloor : Nat := 0x0007
/-- STATE. -/
def evState : Nat := 0x0008
/-- RING_FENCED. -/
def evRingFenced : Nat := 0x0009
/-- RING_CONFIG. -/
def evRingConfig : Nat := 0x000A

/-- The transitions of 13 R340 but those of resets, which put a module into ROM from any state. -/
def MState.enters (a b : MState) : Bool :=
  match a, b with
  | .rom, .ready | .rom, .recovery | .recovery, .rom | .ready, .joined | .joined, .loaded | .loaded, .running | .running, .loaded => true
  | .ready, .quiesced | .joined, .quiesced | .loaded, .quiesced => true
  | a, .halted => a != .halted
  | _, _ => false

/-- Enter a module state from one that 13 R340 lets it follow, posting STATE (13 R338; log entry 15). -/
def State.enter (s : State) (m : MState) : State :=
  if s.ms.st.enters m = false then s
  else State.post { s with ms := { s.ms with st := m } } evState (leBytes 1 s.ms.st.code ++ leBytes 1 m.code)

/-! ### Rings -/

/-- A ring that is stopped. -/
def Ring.stopped : Ring where
  running := false
  ctx := { descBase := 0, cplBase := 0, dbAddr := 0, log2 := 4, enable := false, irqAll := false, vector := 0, gen := 0 }
  ci := 0
  queue := []
  busy := none
  fenced := false
  waits := false
  again := none
  go := false

/-- A ring's state. -/
abbrev State.ring (s : State) (n : Nat) : Ring := s.host.rings.get Ring.stopped n

/-- A ring's state set. -/
def State.setRing (s : State) (n : Nat) (r : Ring) : State :=
  { s with host := { s.host with rings := s.host.rings.set Ring.stopped n r } }

/-- The ring context table's address (13 R327). -/
def Regs.tableBase (r : Regs) : Nat := r.tableLo.val.toNat + 2 ^ 32 * r.tableHi.val.toNat

/-- The rings of the context table: NRINGS, at most 64 (13 R327). -/
def Regs.nrings (r : Regs) : Nat := min (bits r.ringsCtl.val.toNat 16 8) 64

/-- A ring context entry's fields (13 R326). -/
def ringFields (e : List Byte) : RingCtx where
  descBase := field e 0 8
  cplBase := field e 8 8
  dbAddr := field e 16 8
  log2 := field e 24 1
  enable := bits (field e 25 1) 0 1 == 1
  irqAll := bits (field e 25 1) 1 1 == 1
  vector := field e 26 2
  gen := field e 28 4

/-- The entry keeps the layout of 13 R326. -/
def ringEntryOk (tableBase : Nat) (e : List Byte) : Bool :=
  let c := ringFields e
  tableBase % 64 == 0 && e.length == 64 && c.descBase % 4096 == 0 && c.cplBase % 4096 == 0 && c.dbAddr % 8 == 0 &&
  decide (4 ≤ c.log2) && decide (c.log2 ≤ 16) && bits (field e 25 1) 2 6 == 0 && decide (c.vector ≤ 65) && allZero e 32 32

/-- A context entry acts: the ring starts afresh, stays stopped when the entry is not enabled, or is refused with RING_CONFIG (13 R326, R328). Rising
ENABLE takes up enabled entries, RING_GO (`go`) the entry it names, whose layout is then judged whether it is enabled or not. -/
def State.loadRing (s : State) (n : Nat) (go : Bool) (e : List Byte) : State :=
  let c := ringFields e
  if n < s.regs.nrings ∧ (go || c.enable) = true then
    if ringEntryOk s.regs.tableBase e then
      s.setRing n (if c.enable then { Ring.stopped with running := true, ctx := c, queue := [] } else Ring.stopped)
    else (s.setRing n Ring.stopped).post evRingConfig (leBytes 1 n ++ leBytes 1 1)
  else s.setRing n Ring.stopped

/-- A ring is taken up: undequeued descriptors are discarded, and the entry acts once the dequeued command has completed (13 R328). -/
def State.takeRing (s : State) (n : Nat) (go : Bool) (e : List Byte) : State :=
  let r := s.ring n
  let kept := s.host.excl.filter fun x => x.1 != n || (match r.busy with | some b => b.1 == x.2 | none => false)
  let s := { s with host := { s.host with excl := kept } }
  match r.busy with
  | some _ => s.setRing n { r with running := false, queue := [], again := some e, go := go }
  | none => s.loadRing n go e

/-- The event ring registers form a valid ring (13 R337). -/
def Regs.evValid (r : Regs) : Bool :=
  r.evBaseLo.val.toNat % 4096 == 0 && r.evRecLo.val.toNat % 8 == 0 &&
  decide (6 ≤ bits r.evCtl.val.toNat 0 5) && decide (bits r.evCtl.val.toNat 0 5 ≤ 16) && decide (bits r.evCtl.val.toNat 16 7 ≤ 65)

/-- The event ring is taken up; an invalid one holds its own RING_CONFIG (13 R337). -/
def State.takeEvents (s : State) : State :=
  let r := s.regs
  let ev : EvRing := {
    valid := r.evValid
    base := r.evBaseLo.val.toNat + 2 ^ 32 * r.evBaseHi.val.toNat
    log2 := bits r.evCtl.val.toNat 0 5
    vector := bits r.evCtl.val.toNat 16 7
    written := 0
    consumed := 0 }
  let s := { s with host := { s.host with ev := ev } }
  if r.evValid then s.flush else s.post evRingConfig (leBytes 1 0xFF ++ leBytes 1 1)

/-- Every ring and the event ring taken up, as when rings.ctl.ENABLE rises (13 R328, R337); `table` holds the context entries. -/
def State.takeAll (s : State) (table : List (List Byte)) : State :=
  (List.range 64).foldl (fun s n => s.takeRing n false (nth (zeros 64) table n)) s.takeEvents

/-! ### Opcodes (13 R342) -/

/-- Commands of the RUNNING set other than boundary actions (13 R340). -/
def runningOp (op : Nat) : Bool := [0x04, 0x05, 0x0A, 0x0B, 0x0C, 0x0D].contains op

/-- INGEST, TABLE_REPLACE and MIGRATE. -/
def boundaryOp (op : Nat) : Bool := [0x06, 0x07, 0x08].contains op

/-- The exclusive commands (13 R334). -/
def exclusiveOp (op : Nat) : Bool := [0x01, 0x02, 0x0A, 0x0B, 0x0C, 0x0F, 0x10].contains op

/-- The opcode of a descriptor. -/
def descOp (d : List Byte) : Nat := field d 0 1

/-- A boundary action of this ring has been applied or is being applied, and has not completed (13 R334, R340). -/
def State.applying (s : State) (ring : Nat) : Bool := (s.st.applied.any fun a => a.ring == ring && a.waitAck) ||
  s.st.reserving.any fun a => a.ring == ring

/-- A ring has a command of the RUNNING set in progress (13 R340). -/
def State.ringRuns (s : State) (n : Nat) (r : Ring) : Bool :=
  match r.busy with
  | none => false
  | some b => !r.waits && (runningOp (descOp b.2) || (boundaryOp (descOp b.2) && s.applying n))

/-- A command of the RUNNING set is in progress. -/
def State.anyRuns (s : State) : Bool := s.host.rings.any fun e => s.ringRuns e.1 e.2

/-- RUNNING is left once no command of its set is in progress (13 R340). -/
def State.settle (s : State) : State := if s.ms.st = .running ∧ s.anyRuns = false then s.enter .loaded else s

/-- LOADED becomes RUNNING when a command of the set starts (13 R340). -/
def State.startRunning (s : State) : State := if s.ms.st = .loaded then s.enter .running else s

/-! ### Completions -/

/-- A completion's figures (13 R335). -/
structure Cpl where
  status : Status
  info : Nat := 0
  step : Nat := 0
  replays : Nat := 0
  skipped : Bool := false
  rescaled : Bool := false
  mismatch : Bool := false
  detector : Bool := false
  deriving DecidableEq, Repr, Inhabited

/-- A status of class 0x0 (00 R6). -/
def succeeds (x : Status) : Bool := x.code / 16 == 0

/-- FENCE is set in a descriptor (13 R331). -/
def descFence (d : List Byte) : Bool := bits (field d 1 1) 0 1 == 1

/-- IRQ is set in a descriptor. -/
def descIrq (d : List Byte) : Bool := bits (field d 1 1) 1 1 == 1

/-- PIN is set in a descriptor. -/
def descPin (d : List Byte) : Bool := bits (field d 1 1) 2 1 == 1

/-- STEPNO of a descriptor. -/
def descStepno (d : List Byte) : Nat := field d 4 4

/-- TAG of a descriptor. -/
def descTag (d : List Byte) : Nat := field d 8 8

/-- The flag bits of bytes 26-27 (13 R335). -/
def Cpl.flags (c : Cpl) (fenced : Bool) : Nat :=
  c.skipped.toNat + 2 * c.rescaled.toNat + 4 * c.mismatch.toNat + 8 * fenced.toNat + 16 * c.detector.toNat

/-- A completion entry of 32 bytes (13 R335). -/
def completionEntry (c : Cpl) (ring index log2 : Nat) (d : List Byte) (fenced : Bool) : List Byte :=
  slice d 8 8 ++ leBytes 8 c.info ++ leBytes 4 c.step ++ leBytes 4 index ++ leBytes 1 c.status.code ++ leBytes 1 c.replays ++
  leBytes 2 (c.flags fenced) ++ leBytes 2 ring ++ leBytes 1 (descOp d) ++ [phaseByte index log2]

/-- The command in progress on a ring completes: its entry is posted, a fence stops the ring (13 R335, R339), a context that waited
is taken up (13 R328), and RUNNING is left if nothing else runs (13 R340). -/
def State.complete (s : State) (n : Nat) (c : Cpl) : State :=
  let r := s.ring n
  match r.busy with
  | none => s
  | some (index, d) =>
    let fence := descFence d && !succeeds c.status
    let q := if descIrq d || r.ctx.irqAll then some r.ctx.vector else none
    let e := HeldEntry.completion (r.ctx.cplBase + 32 * (index % 2 ^ r.ctx.log2)) (completionEntry c n index r.ctx.log2 d fence) q
    let s := s.setRing n { r with busy := none, waits := false, fenced := r.fenced || fence }
    let s := State.flush { s with host := { s.host with held := s.host.held ++ [e], excl := s.host.excl.filter (· != (n, index)) } }
    let s := if fence then s.post evRingFenced (leBytes 1 n ++ zeros 3 ++ leBytes 4 index ++ leBytes 1 c.status.code) else s
    let s := match r.again with
      | some e => s.loadRing n r.go e
      | none => s
    s.settle

/-! ### Halting (13 R340, 16 R394) -/

/-- REPLAY EXEC (13 R342). -/
def isExec (d : List Byte) : Bool := descOp d == 0x0C && field d 16 1 == 1

/-- STEP and INFO of a completion that ends the command in progress on a ring before its time (13 R335, R343): the pinned step, and the graph epoch, of
an EVAL; the step that a boundary action which has been applied precedes; the step that EXEC runs; the context's step number. -/
def State.cutShort (s : State) (n : Nat) (d : List Byte) : Nat × Nat :=
  let e := s.st.evals.find? fun e => e.ring == n
  let op := descOp d
  if (s.ring n).waits then (0, 0)
  else if op = 0x05 then (e.elim 0 (·.pinned), e.elim 0 (·.epoch))
  else if op = 0x0D then (e.elim 0 (·.pinned), 0)
  else if isExec d then (s.st.stepNo, 1)
  else if op = 0x0A ∨ op = 0x0B ∨ (boundaryOp op = true ∧ s.applying n = true) then (s.st.stepNo, 0)
  else (0, 0)

/-- Every non-STEP command in progress completes with a status, an exclusive one that waits too; a STEP posts nothing (01 R21, 13 R334, R340). -/
def State.failAll (s : State) (x : Status) : State :=
  (s.host.rings.map (·.1)).foldl (fun s n =>
    match (s.ring n).busy with
    | some b =>
      if descOp b.2 = 0x04 then s
      else
        let f := s.cutShort n b.2
        s.complete n { status := x, info := f.2, step := f.1 }
    | none => s) s

/-- The state the module enters is HALTED with a reason, and boot.progress shows the run-time CAUSE (15 R371, 16 R394): what is in progress
completes (13 R340), and STATE is posted. A module that halts in RECOVERY keeps its DETAIL (log entry 16). Nothing happens in ROM or HALTED. -/
def State.halt (s : State) (reason cause : Nat) : State :=
  if s.on ∧ s.ms.st ≠ .rom ∧ s.ms.st ≠ .halted then
    let d := if s.ms.st = .recovery then s.ms.detail else 0x0B * 2 ^ 16 + cause
    let t : State := { s with ms := { s.ms with st := .halted, halt := reason, stage := 0xF0, detail := d } }
    (t.failAll (if reason = 2 then .tierFault else .peerLost)).post evState (leBytes 1 s.ms.st.code ++ leBytes 1 MState.halted.code)
  else s

/-- A configuration parity failure found (15 R383): `space` 0 for BAR0, 1 for the indirect space. -/
def State.parityHalt (s : State) (offset space : Nat) : State :=
  if s.live then (s.post evCfgParity (leBytes 4 offset ++ leBytes 1 space)).halt 0x1 0x30 else s

/-- A register's stored parity agrees with its value (15 R383). -/
def RwReg.ok (r : RwReg) : Bool := r.par == evenParity r.val

/-- Registers of BAR0 that a unit reads to act on (15 R383): the first whose parity disagrees halts the module, which then does not act. -/
def State.reading (s : State) (l : List (Nat × RwReg)) (f : State → State) : State :=
  match if s.live then l.find? fun x => !x.2.ok else none with
  | some x => s.parityHalt x.1 0
  | none => f s

/-- The registers that taking up a ring reads (13 R326, R327). -/
def Regs.tableRegs (r : Regs) : List (Nat × RwReg) := [(0x01000, r.ringsCtl), (0x01004, r.tableLo), (0x01008, r.tableHi)]

/-- The registers that taking up the event ring reads (13 R337). -/
def Regs.evRegs (r : Regs) : List (Nat × RwReg) :=
  [(0x0100C, r.evBaseLo), (0x01010, r.evBaseHi), (0x01014, r.evRecLo), (0x01018, r.evRecHi), (0x0101C, r.evCtl)]

/-- Every ring and the event ring taken up, once the registers that this reads are found in order (15 R383). -/
def State.takeUp (s : State) (table : List (List Byte)) : State := s.reading (s.regs.tableRegs ++ s.regs.evRegs) fun s => s.takeAll table

/-- The memory tiers of 08 R211 with their run-time CAUSE codes (16 R394). -/
inductive Tier where
  | hbm | dram | sram | flash
  deriving DecidableEq, Repr

/-- A tier fails outright (08 R211): its bit of mem.tier_status is set and the module halts. -/
def State.tierFault (s : State) (t : Tier) : State :=
  if s.live then
    match t with
    | .hbm => { s with tier := { s.tier with hbmFault := true } }.halt 0x2 0x31
    | .dram => { s with tier := { s.tier with dramFault := true } }.halt 0x2 0x32
    | .sram => { s with tier := { s.tier with sramFault := true } }.halt 0x2 0x33
    | .flash => { s with tier := { s.tier with flashFault := true } }.halt 0x2 0x34
  else s

/-! ### Dequeuing a command (13 R331-R334, R340, R341) -/

/-- SPACE of a buffer address (13 R325). -/
def bufSpace (a : Nat) : Nat := a / 2 ^ 62

/-- SPACE 0 or 1, and bits [61:48] zero for device memory (13 R325). -/
def bufOk (a : Nat) : Bool := bufSpace a == 1 || (bufSpace a == 0 && bits a 48 14 == 0)

/-- The bytes of a descriptor that a command's fields do not use are 0 (13 R342). -/
def unusedZero (d : List Byte) (used : List (Nat × Nat)) : Bool :=
  ((List.range 48).map (· + 16)).all fun i => used.any (fun u => decide (u.1 ≤ i) && decide (i < u.1 + u.2)) || field d i 1 == 0

/-- The commands that use PIN: STEP, the boundary actions and CHECKPOINT (13 R343). -/
def pinOp (op : Nat) : Bool := [0x04, 0x06, 0x07, 0x08, 0x0A].contains op

/-- Target record fields that are coded (06 R144) are judged by the command's own checks, not here. The field checks of check 1 of
13 R333 by opcode: reserved bytes, coded fields and buffer SPACEs (13 R342). -/
def fieldsOk (d : List Byte) : Bool :=
  let b := fun off => bufOk (field d off 8)
  match descOp d with
  | 0x01 => unusedZero d [(16, 4)]
  | 0x02 => unusedZero d [(16, 8), (24, 8), (32, 8), (40, 4), (48, 16)] && b 16 && decide (field d 40 4 < 0xFFFFFFFF)
  | 0x03 => unusedZero d [(16, 2), (24, 8), (32, 4)] && b 24
  | 0x04 => unusedZero d [(16, 8), (24, 4), (28, 1)] && b 16 && bits (field d 28 1) 4 4 == 0
  | 0x05 => unusedZero d [(16, 8), (24, 4), (28, 1), (32, 8), (40, 4)] && b 16 && b 32 && bits (field d 28 1) 4 4 == 0
  | 0x06 => unusedZero d [(16, 8), (24, 4)] && b 16 && decide (1 ≤ field d 24 4) && decide (field d 24 4 ≤ 16777216)
  | 0x07 => unusedZero d [(16, 1), (24, 5), (32, 4), (40, 8)] && b 40
  | 0x08 => unusedZero d [(16, 8), (24, 4)] && b 16 && decide (1 ≤ field d 24 4) && decide (field d 24 4 ≤ 65536)
  | 0x09 => unusedZero d [(16, 24)] && b 16 && b 24
  | 0x0A => unusedZero d [(16, 16)] && b 16
  | 0x0B => unusedZero d [(16, 16)] && b 16
  | 0x0C => unusedZero d [(16, 48)] && b 24 && b 40 && b 48 && decide (field d 16 1 ≤ 2) && decide (field d 17 1 ≤ 1) &&
      decide (field d 18 2 ≤ 1024) && (field d 16 1 == 1 || field d 18 2 == 0) &&
      (field d 17 1 == 1 || (field d 24 8 == 0 && field d 32 8 == 0))
  | 0x0D => unusedZero d [(16, 17), (40, 8), (48, 4)] && b 40 && bits (field d 32 1) 4 4 == 0
  | 0x0E => unusedZero d [(16, 3), (20, 4), (24, 8), (32, 4)] && b 24 && decide (1 ≤ field d 16 1) && decide (field d 16 1 ≤ 2) &&
      decide (field d 17 1 ≤ 17) &&
      (if field d 16 1 = 1 then decide (field d 18 1 ≤ 3) && decide (1 ≤ field d 20 4) && decide (field d 20 4 ≤ 60000)
       else field d 18 1 == 0 && field d 20 4 == 0) && decide (768 ≤ field d 32 4)
  | 0x0F => unusedZero d []
  | 0x10 => unusedZero d [(16, 16)] && b 16
  | 0x11 => unusedZero d [(16, 32), (48, 8), (56, 4)] && b 48
  | _ => false

/-- Check 1 of 13 R333. -/
def descOk (d : List Byte) : Bool :=
  bits (field d 1 1) 3 5 == 0 && field d 2 2 == 0 && (descPin d || descStepno d == 0) && (!descPin d || pinOp (descOp d)) && fieldsOk d

/-- What 13 R341 says of a command in a state: accepted, STATE_INVALID, or (W) to be judged once the wait ends. ROM and HALTED are
not asked. -/
inductive Legality where
  | accept | invalid | wait
  deriving DecidableEq, Repr

/-- The table of 13 R341, row by row. -/
def legal (op : Nat) (m : MState) : Legality :=
  let working := [MState.loaded, MState.running].contains m
  let up := [MState.ready, MState.joined, MState.loaded].contains m
  match op with
  | 0x01 => if m = .ready then .accept else .invalid
  | 0x02 => if m = .running then .wait else if m = .joined ∨ m = .loaded then .accept else .invalid
  | 0x03 | 0x04 | 0x05 | 0x06 | 0x07 | 0x08 | 0x0D => if working then .accept else .invalid
  | 0x09 | 0x0E => if up || m = .running then .accept else .invalid
  | 0x0A | 0x0B | 0x0C => if m = .running then .wait else if m = .loaded then .accept else .invalid
  | 0x0F => if m = .running then .wait else if up then .accept else .invalid
  | 0x10 => if m = .running then .wait else .accept
  | 0x11 => if up || m = .running || m = .quiesced then .accept else .invalid
  | _ => .invalid

/-- Commands that a spare without a rank refuses (13 R341). -/
def rankOp (op : Nat) : Bool := [0x04, 0x06, 0x07, 0x08, 0x0A, 0x0B, 0x0C].contains op

/-- A ring can give up a descriptor: it is running, not fenced and idle, and no other ring's exclusive command was fetched before
(13 R332, R334, R339). -/
def State.canDequeue (s : State) (n : Nat) : Bool :=
  let r := s.ring n
  s.live && r.running && !r.fenced && r.busy.isNone &&
  (match s.host.excl with
   | [] => true
   | x :: _ => x.1 == n)

/-- No other command is in progress on the module, pending boundary actions apart (13 R334). -/
def State.othersIdle (s : State) (n : Nat) : Bool :=
  s.host.rings.all fun e => e.1 == n ||
    (match e.2.busy with
     | none => true
     | some b => boundaryOp (descOp b.2) && !s.applying e.1)

/-- The head descriptor of a ring becomes its command in progress; its INDEX is its place since the generation began (13 R335). -/
def State.dequeue (s : State) (n : Nat) : State :=
  let r := s.ring n
  match r.queue with
  | [] => s
  | d :: t => s.setRing n { r with queue := t, busy := some (r.ci - r.queue.length, d) }

/-- A command may be judged by check 2 of 13 R333: an exclusive one only while no other is in progress, and in a state that the wait leaves (13
R334, R341). -/
def State.mayJudge (s : State) (n op : Nat) : Bool := (!exclusiveOp op || s.othersIdle n) && legal op s.ms.st != .wait

/-- Check 2 of 13 R333 on the command in progress of a ring, and then the command's own checks and effect (13 R341). -/
def State.judge (s : State) (n op : Nat) (run : State → List Byte → State) (d : List Byte) : State :=
  if legal op s.ms.st = .invalid then s.complete n { status := .stateInvalid }
  else if rankOp op && s.mach.rank.isNone then s.complete n { status := .stateInvalid }
  else if (op == 0x04 || op == 0x05) && s.recov.fallback then s.complete n { status := .peerLost }
  else run s d

/-- The checks of 13 R333 and R341 that every command shares, then the command's own. `op` and `also` say whether the head of the
ring, or the exclusive command that waits on it, is the command of this row; if it is not, or cannot be dequeued now, nothing happens. An exclusive
command that passes check 1 is dequeued, and waits for the others before check 2 (13 R334). -/
def State.command (s : State) (n op : Nat) (also : List Byte → Bool) (run : State → List Byte → State) : State :=
  let r := s.ring n
  match r.busy, r.queue with
  | some b, _ =>
    if r.waits && s.live && descOp b.2 == op && also b.2 && s.mayJudge n op then (s.setRing n { r with waits := false }).judge n op run b.2 else s
  | none, [] => s
  | none, d :: _ =>
    if s.canDequeue n && descOp d == op && also d then
      let s := s.dequeue n
      if !descOk d then s.complete n { status := .formatInvalid }
      else if s.mayJudge n op then s.judge n op run d
      else s.setRing n { s.ring n with waits := true }
    else s

/-- A descriptor for which the table of commands has no row: an OPCODE, REPLAY MODE or DIAG TEST outside 13 R342. -/
def rowless (d : List Byte) : Bool :=
  let op := descOp d
  op == 0 || decide (0x11 < op) || (op == 0x0C && decide (2 < field d 16 1)) || (op == 0x0E && !(field d 16 1 == 1 || field d 16 1 == 2))

/-- Such descriptors at the head of a ring's queue are dequeued and complete with FORMAT_INVALID by check 1 of 13 R333. -/
def State.rejectRing (s : State) (n : Nat) : Nat → State
  | 0 => s
  | fuel + 1 =>
    match (s.ring n).queue with
    | [] => s
    | d :: _ =>
      if rowless d && s.canDequeue n then
        ((s.dequeue n).complete n { status := .formatInvalid }).rejectRing n fuel
      else s

/-- The same on every ring, in ascending number (13 R332). -/
def State.rejectAll (s : State) : State :=
  (List.range 64).foldl (fun s n => s.rejectRing n (s.ring n).queue.length) s

end Sys2Proof.Machine
end

