-- ==== Sys2Proof/Machine/Power.lean ====
section
/-! DEFINITION. Input power, rails, resets, the PCI Express link, temperatures and the power cap (17). -/

namespace Sys2Proof.Machine

open Sys2Proof

/-! ### Resets and shutdown (17 R418, R421) -/

/-- Flash begins here in the device address space (08 R186). -/
def flashBase : Nat := 0x200000000000

/-- The ROM's write of an owner slot cut short (16 R386, R393; log entry 141): it may have been complete; otherwise the slot has no VALID byte, and of
the hash the bits that were written by then. -/
def State.cutClaim (s : State) : State :=
  match s.ms.claimed with
  | none => s
  | some i =>
    let f := s.takeFree 257
    if f.1.getLsbD 256 then f.2
    else
      let o : OwnerSlot := nth default f.2.fuse.owners i
      { f.2 with fuse := { f.2.fuse with owners := setNth f.2.fuse.owners i { hash := o.hash &&& f.1.setWidth 256, valid := 0 } } }

/-- Everything except the power stage at its reset value: flash, the serial memory, the fuses, the list of retired pages, the
unreadable flash pages, what the flash translation layer knows of its blocks and the pins that training is to replace are kept (08 R195, R200, R207, 17 R418); what was already sent, written to the host or queued stays as it is. -/
def State.moduleReset (s : State) : State :=
  let s := s.cutClaim
  { State.reset with
    pwr := { s.pwr with waitPll := false, pcieUp := false, vinMv := 0, pinW := 0 }
    fuse := s.fuse
    nor := s.nor
    slotOpen := s.slotOpen
    sermem := s.sermem
    mem := s.mem.filter fun c => decide (flashBase ≤ c.1)
    tier := { Tiers.reset with retired := s.tier.retired, unreadable := s.tier.unreadable, worn := s.tier.worn, blocks := s.tier.blocks }
    host := { HostSide.reset with out := s.host.out }
    net := { Net.reset s.fuse.order with sent := s.net.sent, wire := s.net.wire }
    free := s.free
    pending := s.pending }

/-- The rails are removed: nothing runs until power good comes again (17 R418, R421). `tripped` keeps the module off. -/
def State.powerOff (s : State) (applied tripped : Bool) : State :=
  let r := s.moduleReset
  { r with pwr := { r.pwr with applied := applied, duty := 16, railsOn := false, good := false, tripped := tripped } }

/-- A protective shutdown (17 R421): the module stays off until its input falls below 40 V and is then reapplied. -/
def State.shutdown (s : State) : State := if s.pwr.railsOn then s.powerOff s.pwr.applied true else s

/-- INPUT_APPLIED (17 R410, R411): with the input above 53 V the inrush stage charges and the rails come up in order, unless the
module has shut down and its input has not been below 40 V since. -/
def inputApplied (mv : Nat) (s : State) : State :=
  if 53000 < mv ∧ mv ≤ 60000 ∧ s.pwr.tripped = false ∧ s.pwr.railsOn = false then
    { s with pwr := { s.pwr with applied := true, railsOn := true } }
  else s

/-- POWER_GOOD (17 R410, R418): power-on reset, of the power controller's duty too, which a module reset keeps with the power stage (log entry 140). With PERST# already deasserted it counts as the deassertion, and the module waits
for its root PLL. -/
def powerGood (s : State) : State :=
  if s.pwr.railsOn ∧ s.pwr.good = false then
    let r := s.moduleReset
    { r with pwr := { r.pwr with good := true, waitPll := !s.pwr.perst, duty := 16 } }
  else s

/-- INPUT_TRIP (17 R409, R410, R421): below 51 V or above 60 V. During inrush a fall only opens the switch again. -/
def inputTrip (mv : Nat) (s : State) : State :=
  if 51000 ≤ mv ∧ mv ≤ 60000 then s
  else if s.pwr.railsOn = false then { s with pwr := { s.pwr with tripped := s.pwr.tripped && decide (40000 ≤ mv) } }
  else if s.pwr.good = false ∧ mv < 51000 then s.powerOff false false
  else s.powerOff s.pwr.applied (decide (40000 ≤ mv))

/-- POWER_LOSS (13 R323, 17 R421): the input is removed and falls below 40 V. -/
def powerLoss (s : State) : State := s.powerOff false false

/-- Nominal rail voltages in mV (17 R411), rails 0 to 15. -/
def railNominal : List Nat := [750, 850, 750, 750, 900, 900, 1100, 400, 1800, 1050, 500, 2500, 1200, 1800, 3300, 1200]

/-- Rail 15 is absent on the PX-T9-96C and PX-T9-80C (17 R411). -/
def State.railPresent (s : State) (rail : Nat) : Bool := decide (rail < 15) || (rail == 15 && s.fuse.order == .o96)

/-- RAIL_FAULT (17 R411, R421): a rail outside 5 % of nominal while the module runs. -/
def railFault (rail mv : Nat) (s : State) : State :=
  let n := nth 0 railNominal rail
  if s.pwr.good ∧ s.railPresent rail ∧ (100 * mv < 95 * n ∨ 105 * n < 100 * mv) then s.shutdown else s

/-- REFCLK_LINK_LOSS (17 R417): the root PLL loses lock and the module shuts down. -/
def refclkLinkLoss (s : State) : State := if s.pwr.good then s.shutdown else s

/-- PCIE_LINK_DOWN (13 R324, 17 R418): the host link only; entries are held from here on. -/
def pcieLinkDown (s : State) : State := { s with pwr := { s.pwr with pcieUp := false } }

/-- PCIE_LINK_UP (13 R324): held entries are written in order. -/
def pcieLinkUp (s : State) : State :=
  if s.on then State.flush { s with pwr := { s.pwr with pcieUp := true } } else s

/-- PERST_ASSERT (17 R418): a module reset while powered. -/
def perstAssert (s : State) : State :=
  let s := { s with pwr := { s.pwr with perst := true } }
  if s.pwr.good then s.moduleReset else s

/-! ### Temperature (08 R201, 17 R419) -/

/-- Bands of a sensor as (code, lower edge in 0.5 °C) in rising order (08 R201, 17 R419). -/
def bandEdges (sensor : Nat) : List (Nat × Nat) :=
  if sensor < 8 then [(1, 170), (2, 190), (3, 210), (4, 220)]
  else match sensor with
    | 8 => [(1, 190), (3, 210), (4, 230)]
    | 9 => [(1, 190), (4, 230)]
    | 10 => [(1, 190), (4, 230)]
    | 11 => [(1, 170), (3, 190), (4, 210)]
    | 12 => [(1, 140), (3, 160), (4, 180)]
    | 13 => [(1, 200), (3, 220), (4, 250)]
    | _ => []

/-- The band after a measurement: the highest whose edge is reached, or that the sensor was in or above and has not fallen 2 °C
below the edge of. -/
def nextBand (sensor old half : Nat) : Nat :=
  (bandEdges sensor).foldl (fun b e => if e.2 ≤ half ∨ (e.1 ≤ old ∧ e.2 < half + 4) then e.1 else b) 0

/-- A measurement in 0.5 °C as whole °C, ties to even (15 R373). -/
def wholeDegrees (half : Nat) : Nat := if half % 4 = 3 then half / 2 + 1 else half / 2

/-- One sensor's measurement: its reading and band, and a THERMAL event when the band changes (17 R419). While the hold of events is full the
change waits, but for one to the level that halts or shuts down (13 R337; log entry 27). -/
def State.measure (s : State) (sensor half : Nat) : State :=
  let old := nth 0 s.tier.band sensor
  let next := nextBand sensor old half
  let new := if s.holdFull && next != 4 then old else next
  let s := { s with tier := { s.tier with tempHalf := setNth s.tier.tempHalf sensor (some half), band := setNth s.tier.band sensor new } }
  if new = old then s
  else s.post evThermal (leBytes 1 sensor ++ leBytes 1 old ++ leBytes 1 new ++ leBytes 1 (wholeDegrees half))

/-- All sensors measured, in ascending number (17 R420). -/
def State.measureAll (s : State) (half : List Nat) : State :=
  (List.range 14).foldl (fun s i => s.measure i (nth 0 half i)) s

/-- TEMPERATURE_MEASUREMENT (08 R201, 17 R419-R421): a sensor of 8 to 13 at its shutdown level shuts the module down; an HBM stack
at 110 °C halts it, but not in ROM (13 R340). -/
def temperatureMeasurement (half : List Nat) (s : State) : State :=
  if s.on then
    let m := s.measureAll half
    if (List.range 6).any (fun i => nth 0 m.tier.band (i + 8) == 4) then m.shutdown
    else if (List.range 8).any (fun i => nth 0 m.tier.band i == 4) then m.halt 0x3 0x35
    else m
  else s

/-! ### Power cap (17 R413) -/

/-- The cap in force (15 R373, 17 R413, R419). -/
def State.capInForce (s : State) : Nat :=
  let c := max 900 (min 1800 (bits s.regs.pwrCap.val.toNat 0 16))
  if nth 0 s.tier.band 13 = 3 then min c 1200 else c

/-- POWER_CAP_TICK (17 R413): PIN_W and VIN_MV refreshed, the duty moved by one sixteenth within 4 to 16. The controller reads
pwr.cap to act on it, so a parity mismatch is found here (15 R383). -/
def powerCapTick (watts mv : Nat) (s : State) : State :=
  if s.on then
    let s := { s with pwr := { s.pwr with pinW := watts % 2 ^ 16, vinMv := mv % 2 ^ 16 } }
    if s.live ∧ s.regs.pwrCap.ok = false then s.parityHalt 0x04014 0
    else
      let cap := s.capInForce
      let d := s.pwr.duty
      let d' := if cap < watts then max 4 (d - 1) else if watts + 50 < cap then min 16 (d + 1) else d
      { s with pwr := { s.pwr with duty := d' } }
  else s

/-- The issue duty of Matrix Clusters and vector units, in sixteenths (17 R419, R420). It changes timing only. -/
def State.issueDuty (s : State) : Nat := if nth 0 s.tier.band 8 = 3 then min s.pwr.duty 8 else s.pwr.duty

/-! ### Meanings -/

/-- INPUT_APPLIED. -/
def execInputApplied (mv : Nat) (s : State) : Host.Outcome State Fault Refusal := .next (inputApplied mv s)
/-- POWER_GOOD. -/
def execPowerGood (s : State) : Host.Outcome State Fault Refusal := .next (powerGood s)
/-- INPUT_TRIP. -/
def execInputTrip (mv : Nat) (s : State) : Host.Outcome State Fault Refusal := .next (inputTrip mv s)
/-- POWER_LOSS. -/
def execPowerLoss (s : State) : Host.Outcome State Fault Refusal := .next (powerLoss s)
/-- RAIL_FAULT. -/
def execRailFault (rail mv : Nat) (s : State) : Host.Outcome State Fault Refusal := .next (railFault rail mv s)
/-- REFCLK_LINK_LOSS. -/
def execRefclkLinkLoss (s : State) : Host.Outcome State Fault Refusal := .next (refclkLinkLoss s)
/-- PCIE_LINK_DOWN. -/
def execPcieLinkDown (s : State) : Host.Outcome State Fault Refusal := .next (pcieLinkDown s)
/-- PCIE_LINK_UP. -/
def execPcieLinkUp (s : State) : Host.Outcome State Fault Refusal := .next (pcieLinkUp s)
/-- PERST_ASSERT. -/
def execPerstAssert (s : State) : Host.Outcome State Fault Refusal := .next (perstAssert s)
/-- TEMPERATURE_MEASUREMENT. -/
def execTemperatureMeasurement (half : List Nat) (s : State) : Host.Outcome State Fault Refusal := .next (temperatureMeasurement half s)
/-- POWER_CAP_TICK. -/
def execPowerCapTick (watts mv : Nat) (s : State) : Host.Outcome State Fault Refusal := .next (powerCapTick watts mv s)

end Sys2Proof.Machine
end

