-- ==== Sys2Proof/Machine/Boot.lean ====
section
/-! DEFINITION. Boot, owner claim, firmware stages, FW_PUSH and ATTEST (16), with the map checks of 10 R253. -/

namespace Sys2Proof.Machine

open Sys2Proof

/-! ### The serial configuration memory (16 R387-R390) -/

/-- ASCII bytes of a context string. -/
def ascii (s : String) : List Byte := s.toList.map fun c => BitVec.ofNat 8 c.toNat

/-- A directory entry (16 R388). -/
structure DirEntry where
  typ : Nat
  off : Nat
  len : Nat
  deriving DecidableEq, Repr

/-- The header bytes. -/
def State.norHeader (s : State) : List Byte := s.norRead 0 1044

/-- The directory entries in use. -/
def State.directory (s : State) : List DirEntry :=
  let h := s.norHeader
  (List.range (field h 6 2)).map fun i =>
    { typ := field h (16 + 16 * i) 2, off := field h (20 + 16 * i) 4, len := field h (24 + 16 * i) 4 }

/-- Check 1 of 16 R391. -/
def State.headerOk (s : State) : Bool :=
  let h := s.norHeader
  let d := s.directory
  field h 0 4 == 0x4D535850 && field h 4 2 == 1 && decide (1 ≤ field h 6 2) && decide (field h 6 2 ≤ 64) && crcOk h 1044 &&
  d.all (fun e => decide (0x10000 ≤ e.off) && decide (e.off + e.len ≤ 0x1000000)) &&
  decide (d.Pairwise fun a b => overlaps { base := a.off, len := a.len } { base := b.off, len := b.len } = false)

/-- How often a type appears. -/
def typeCount (d : List DirEntry) (t : Nat) : Nat := (d.filter fun e => e.typ == t).length

/-- Check 2 of 16 R391: required types exactly once, OWNER_TRANSFER at most once, no other type (16 R389). -/
def typesOk (d : List DirEntry) : Bool :=
  [1, 3, 4, 5, 6].all (fun t => typeCount d t == 1) && decide (typeCount d 2 ≤ 1) && d.all fun e => decide (1 ≤ e.typ) && decide (e.typ ≤ 6)

/-- A settings block: header fields, payload, the signed bytes and the signature (16 R389). -/
structure Block where
  typ : Nat
  format : Nat
  serial : Nat
  signer : W256
  reserved : Bool
  payload : List Byte
  covered : List Byte
  sig : List Byte
  whole : List Byte
  deriving DecidableEq, Repr

/-- A block's length: header, payload padded to 16 bytes, and the signature unless it is OWNER_KEY. -/
def blockLen (typ payloadLen : Nat) : Nat := 64 + roundUp payloadLen 16 + (if typ = 1 then 0 else 2420)

/-- The block that a directory entry names, none when it does not fit its entry. -/
def State.block (s : State) (e : DirEntry) : Option Block :=
  let h := s.norRead e.off 64
  let n := field h 4 4
  if blockLen e.typ n ≤ e.len then
    let w := s.norRead e.off (blockLen e.typ n)
    let c := 64 + roundUp n 16
    some {
      typ := field h 0 2
      format := field h 2 2
      serial := field h 8 8
      signer := digestOf (slice h 16 32)
      reserved := allZero h 48 16
      payload := slice w 64 n
      covered := w.take c
      sig := w.drop c
      whole := w }
  else none

/-- The block of a type, if its entry is there and it fits. -/
def State.blockOf (s : State) (t : Nat) : Option Block := (s.directory.find? fun e => e.typ == t).bind s.block

/-- The payload of a type, empty if there is none. -/
def State.payloadOf (s : State) (t : Nat) : List Byte := (s.blockOf t).elim [] (·.payload)

/-- The serial number of the identity certificate (16 R389, R405). -/
def State.serialNumber (s : State) : Nat := field (s.payloadOf 6) 4 8

/-! ### Owner (16 R386, R398) -/

/-- The number of the current owner slot, if any: the highest whose VALID byte reads 0xA5. -/
def Fuses.currentSlot (f : Fuses) : Option Nat :=
  ((List.range 4).filter fun i => (nth default f.owners i).valid == 0xA5).getLast?

/-- The current owner key hash. -/
def Fuses.owner (f : Fuses) : Option W256 := f.currentSlot.map fun i => (nth default f.owners i).hash

/-- The next slot above those that hold anything (16 R386: a slot with hash bits but no VALID counts as unwritten, and a later claim
writes the next slot). -/
def Fuses.freeSlot (f : Fuses) : Nat :=
  (((List.range 4).filter fun i => (nth default f.owners i).valid == 0xA5 || (nth default f.owners i).hash != 0).getLast?).elim 0 (· + 1)

/-- An owner key hash written to a slot, then its VALID byte. -/
def State.claim (s : State) (slot : Nat) (h : W256) : State :=
  { s with
    fuse := { s.fuse with owners := setNth s.fuse.owners slot { hash := h, valid := 0xA5 } }
    ms := { s.ms with claimed := some slot } }

/-- Check 3 of 16 R391: the state after it, none when it fails (16 R398). -/
def State.checkOwner (s : State) : Option State :=
  let key := s.payloadOf 1
  let h := Config.sha3 key
  match s.blockOf 1, typeCount s.directory 2, s.blockOf 2 with
  | none, _, _ => none
  | some _, 0, _ =>
    match s.fuse.owner with
    | none => if s.fuse.freeSlot < 4 then some (s.claim s.fuse.freeSlot h) else none
    | some o => if o = h then some s else none
  | some _, _ + 1, none => none
  | some _, _ + 1, some t =>
    match s.fuse.owner with
    | none => none
    | some o =>
      let new := digestOf (t.payload.drop 1312)
      if new = o ∧ new = h then some s
      else if Config.sha3 (t.payload.take 1312) = o ∧ Config.mldsaVerify (t.payload.take 1312) (ascii "T9ST") t.covered t.sig = true ∧
          t.serial = s.serialNumber ∧ new = h ∧ s.fuse.freeSlot < 4 then
        some (s.claim s.fuse.freeSlot h)
      else none

/-- Check 4 for one block that the current owner has signed (16 R391). -/
def State.signedOk (s : State) (t : Nat) (zeroAllowed : Bool) : Bool :=
  match s.blockOf t, s.fuse.owner with
  | some b, some o =>
    b.typ == t && b.format == 1 && b.reserved && b.signer == o && (b.serial == s.serialNumber || (zeroAllowed && b.serial == 0)) &&
    Config.mldsaVerify (s.payloadOf 1) (ascii "T9ST") b.covered b.sig
  | _, _ => false

/-- Check 4 for an OWNER_TRANSFER block, where there is one: what check 3 has not judged (log entry 18). -/
def State.transferOk (s : State) : Bool := (s.blockOf 2).all fun b => b.typ == 2 && b.format == 1 && b.reserved

/-- Check 5 of 16 R391: the vendor signatures and serials of TRIMS and IDENTITY_CERT. -/
def State.vendorOk (s : State) : Bool :=
  let cert := s.payloadOf 6
  Config.trimsSigned (s.payloadOf 4) s.serialNumber s.fuse.vendorKey && cert.length == 3796 && field cert 0 2 == 1 &&
  digestOf (slice cert 16 32) == s.fuse.vendorKey && allZero cert 48 16 &&
  Config.vendorSigned s.fuse.vendorKey (ascii "T9ID") (cert.take 1376) (cert.drop 1376)

/-- The preset records of a LINK_PRESETS payload (16 R390). -/
def presetsOf (p : List Byte) : List Preset :=
  (List.range 3).map fun i =>
    let r := slice p (32 * i) 32
    { cls := field r 0 1
      taps := BitVec.ofNat 32 (field r 1 1 * 2 ^ 24 + field r 2 1 * 2 ^ 16 + field r 3 1 * 2 ^ 8 + field r 4 1)
      credits := (List.range 12).map fun v => field r (8 + 2 * v) 2 }

/-- Check 7 of 16 R391: one record for each class, reserved bytes 0, at most 8,192 credits in each (16 R389, R390). -/
def presetsOk (p : List Byte) : Bool :=
  p.length == 96 && (List.range 3).all (fun i => allZero p (32 * i + 5) 3) &&
  [0, 1, 2].all (fun c => (presetsOf p).any fun r => r.cls == c) && (presetsOf p).all fun r => decide (r.credits.sum ≤ 8192)

/-! ### The installation map (10 R250-R253) -/

/-- Ports of an order code (10 R235). -/
def portCount (o : Order) : Nat := if o = .o96 then 18 else 12

/-- What the map expects at a port of a position. -/
def InstallMap.neighbour (m : InstallMap) (pos port : Nat) : Option (Nat × Nat) :=
  (m.ports.find? fun e => e.1 == pos).bind fun e => nth none e.2 port

/-- The route entry toward a position; an entry not listed is unreachable (10 R252). -/
def InstallMap.route (m : InstallMap) (pos : Nat) : Nat := (m.routes.get 0x27FF pos).toNat

/-- One route entry names only ports of the order code, and its PLINKS and ALINKS are 1 to 6 (10 R252, R253). -/
def routeOk (n e : Nat) : Bool :=
  (bits e 0 5 == 31 || decide (bits e 0 5 < n)) && (bits e 5 5 == 31 || decide (bits e 5 5 < n)) &&
  decide (1 ≤ bits e 10 3) && decide (bits e 10 3 ≤ 6) && decide (1 ≤ bits e 13 3) && decide (bits e 13 3 ≤ 6)

/-- The map checks of 10 R253 for a module of an order code at a position. -/
def InstallMap.ok (m : InstallMap) (o : Order) (pos : Nat) : Bool :=
  let n := portCount o
  (m.ports.all fun e => e.1 != pos || (e.2.length == 18 && (e.2.drop n).all (·.isNone))) &&
  (!m.positions.contains pos || m.ports.any fun e => e.1 == pos) &&
  (m.ports.all fun e => (List.range e.2.length).all fun a =>
    match nth none e.2 a with
    | none => true
    | some (y, b) => m.neighbour y b == some (e.1, a)) &&
  m.routes.all (fun r => routeOk n r.2.toNat) &&
  m.ranks.all (fun p => m.positions.contains p && decide (p % 8 ≤ 3)) && decide m.ranks.Nodup

/-! ### The firmware image (16 R395, R396) -/

/-- The rollback counter (16 R399). -/
def Fuses.counter (f : Fuses) : Nat := f.rollback.getLast?.getD 0

/-- Bytes of an image beyond its body: header, key, signature (16 R395). -/
def imageFixed : Nat := 256 + 1312 + 2420

/-- The image slot (16 R387). -/
def slotBase : Nat := 0x1000000
/-- Bytes of the image slot, 120 MiB. -/
def slotLen : Nat := 120 * 2 ^ 20

/-- The first CAUSE of 16 R394 that an image read through `get off len` shows, none when it passes 16 R396. -/
def imageCause (f : Fuses) (get : Nat → Nat → List Byte) : Option Nat :=
  let h := get 0 256
  let key := get 256 1312
  if field h 0 4 ≠ 0x57465850 ∨ field h 4 2 ≠ 1 then some 0x10
  else if slotLen < imageFixed + field h 16 8 then some 0x15
  else if Config.sha3 key ≠ f.vendorKey then some 0x11
  else if Config.mldsaVerify key (ascii "T9FW") h (get 1568 2420) = false then some 0x12
  else if Config.sha3 (get imageFixed (field h 16 8)) ≠ digestOf (slice h 24 32) then some 0x13
  else if field h 6 2 < f.counter then some 0x14
  else none

/-- The same for the image slot, which is invalid while a write of it has not come to its end (16 R403): a body that reads as whole then counts as one
that does not hash. -/
def slotCause (f : Fuses) (isOpen : Bool) (get : Nat → Nat → List Byte) : Option Nat :=
  match imageCause f get with
  | some c => some c
  | none => if isOpen then some 0x13 else none

/-- What the module reports of an image that runs (16 R395, R396). -/
def imageInfo (get : Nat → Nat → List Byte) : FwInfo :=
  let h := get 0 256
  { version := field h 8 4
    level := field h 12 2
    svn := field h 6 2
    yl := field h 14 1
    contract := field h 15 1
    hash := Config.sha3 (get 0 (imageFixed + field h 16 8)) }

/-! ### Power-up (16 R391-R394) -/

/-- HALTED at a boot check: every port stays quiet (16 R391). -/
def State.bootHalt (s : State) (reason stage cause : Nat) : State :=
  { s with ms := { s.ms with halt := reason, stage := 0xF0, detail := stage * 2 ^ 16 + cause, claimed := none } }.enter .halted

/-- Leaving ROM: the writes accepted there take effect (15 R370). -/
def State.applyDeferred (s : State) : State :=
  s.host.deferred.foldl (fun s d =>
    match d with
    | .ctl t => s.reading [(0x01000, s.regs.ringsCtl)] fun s => if s.regs.ringsCtl.val.getLsbD 31 then s.takeUp t else s
    | .event => s.reading s.regs.evRegs State.takeEvents
    | .ring n e => s.reading s.regs.tableRegs fun s => s.takeRing n true e
    | .fence n => s.setRing n { s.ring n with fenced := false }) { s with host := { s.host with deferred := [] } }

/-- The ROM's work, from straps latched to a started image, RECOVERY or HALTED (16 R391). Stages 0x02 to 0x06 pass within it (log entry 141); the
identity key is derived as stage 0x03 begins (16 R404). -/
def State.bootRom (s : State) : State :=
  let s := { s with sermem := s.nor, ms := { s.ms with stage := 0x02, detail := 0 } }
  if s.headerOk = false then s.bootHalt 0x5 0x02 0x0001
  else
  let s := { s with ms := { s.ms with keyed := true } }
  if typesOk s.directory = false then s.bootHalt 0x5 0x03 0x0002
  else match s.checkOwner with
  | none => s.bootHalt 0x5 0x03 0x0003
  | some s =>
    if (s.signedOk 3 true && s.signedOk 4 false && s.signedOk 5 true && s.signedOk 6 false && s.transferOk) = false then s.bootHalt 0x5 0x03 0x0004
    else if s.vendorOk = false then s.bootHalt 0x5 0x03 0x0005
    else if slice (s.payloadOf 6) 64 1312 ≠ Config.mldsaPublic s.fuse.idSeed then s.bootHalt 0x5 0x03 0x0006
    else if presetsOk (s.payloadOf 5) = false then s.bootHalt 0x5 0x03 0x0009
    else match Config.readMap (s.payloadOf 3) with
    | none => s.bootHalt 0x5 0x04 0x0007
    | some m =>
      if m.ok s.fuse.order s.ms.position = false then s.bootHalt 0x5 0x04 0x0007
      else if 4 < s.ms.position % 8 ∨ s.ms.position ∉ m.positions then s.bootHalt 0x4 0x04 0x0008
      else
        let settings := (s.directory.filterMap s.block).flatMap (·.whole)
        let presets := presetsOf (s.payloadOf 5)
        let lanes := (List.range (24 * portCount s.fuse.order)).filterMap fun l =>
          (presets.find? fun p => p.cls == (if l / 24 < 4 then 0 else if l / 24 < 12 then 1 else 2)).map fun p => (l, RwReg.of p.taps)
        let s := { s with
          ms := { s.ms with map := some { m with mapId := Config.sha3 m.common }, presets := presets, cert := s.payloadOf 6, settingsHash := Config.sha3 settings }
          ind := { s.ind with txeq := lanes } }
        let get := fun off n => s.norRead (slotBase + off) n
        match slotCause s.fuse s.slotOpen get with
        | some c =>
          State.applyDeferred ({ s with ms := { s.ms with stage := 0xE0, detail := 0x05 * 2 ^ 16 + c, claimed := none } }.enter .recovery)
        | none => { s with ms := { s.ms with stage := 0x07, detail := 0, fw := some (imageInfo get), fwRun := some 0x07 } }

/-- Straps latched (10 R250) and the boot ROM started. -/
def State.bootFrom (s : State) (straps : BitVec 14) : State :=
  State.bootRom { s with
    pwr := { s.pwr with straps := straps, waitPll := false }
    ms := { s.ms with st := .rom, position := straps.toNat, stage := 0x01, detail := 0 } }

/-- PERST_DEASSERT (10 R250, 16 R391). -/
def perstDeassert (straps : BitVec 14) (s : State) : State :=
  if s.pwr.perst then
    let s := { s with pwr := { s.pwr with perst := false, straps := straps } }
    if s.pwr.good then s.bootFrom straps else s
  else s

/-- ROOT_PLL_LOCK (17 R418): a module whose PERST# was already deasserted at power good latches its straps and starts at ROM. -/
def rootPllLock (straps : BitVec 14) (s : State) : State :=
  if s.on && s.pwr.waitPll then s.bootFrom straps else s

/-- The spare lanes of a pseudo-channel (15 R377 hbmphy.spares): its failing lanes, at most two, are bypassed onto spare lanes 0 and 1.
Lanes 36 and 37 are the spares themselves (08 R191). -/
def spareLanes (bad : List Nat) : Nat :=
  let pins := bad.filter (· < 36)
  let free := [36, 37].filter fun l => !bad.contains l
  let at0 := if free.contains 36 then pins.head?.getD 0x3F else 0x3F
  let at1 := if free.contains 37 then (if free.contains 36 then (pins.drop 1).head?.getD 0x3F else pins.head?.getD 0x3F) else 0x3F
  at1 * 2 ^ 8 + at0

/-- The lanes of a pseudo-channel that training bypasses: the failing ones, and the lane of a pin marked before, if a spare lane remains for it
(08 R191, R195). -/
def withWorn (bad : List Nat) (pin : Option Nat) : List Nat :=
  match pin with
  | none => bad
  | some p => if bad.contains p || decide (2 ≤ bad.length) then bad else bad ++ [p]

/-- The spare lanes of every pseudo-channel as training assigns them. -/
def assignSpares (badLanes : List (Nat × List Nat)) (worn : NMap Nat) : NMap W32 :=
  (List.range 256).foldl (fun m pc => m.set 0x3F3F pc (BitVec.ofNat 32 (spareLanes (withWorn (NMap.get [] badLanes pc) (worn.find pc))))) []

/-- The translation layer loads its map: the flash registers and gauges take their present values (15 R377, R378), which are free when no boot has
read them before (log entry 142). -/
def State.loadBlocks (s : State) : State :=
  let v : FlashStat × State := match s.tier.blocks with
    | some b => (b, s)
    | none =>
      let f := s.takeFree 128
      ({ good := f.1.extractLsb' 0 32, spare := f.1.extractLsb' 32 32, peAvg := f.1.extractLsb' 64 32, peMax := f.1.extractLsb' 96 32 }, f.2)
  let t := { v.2 with
    ind := { v.2.ind with
      flashGood := v.1.good
      flashSpare := v.1.spare
      flashPeAvg := v.1.peAvg
      flashPeMax := v.1.peMax }
    tier := { v.2.tier with blocks := some v.1 } }
  (t.setCounter cFlashSpare (v.1.spare.setWidth 64)).setCounter cFlashPe (v.1.peAvg.setWidth 64)

/-- The ports that the map describes start to train (10 R254, 16 R392). -/
def State.startPorts (s : State) : State :=
  { s with net := { s.net with ports := s.net.ports.map fun e =>
    (e.1, if (s.ms.map.bind fun m => m.neighbour s.ms.position e.1).isSome ∧ e.2.st ≠ .absent then { e.2 with st := .training } else e.2) } }

/-- FIRMWARE_STAGE_DONE (16 R392): DRAM, FLASH, HBM, LINKS in order. `trained` is the units trained, `badLanes` the failing lanes of
pseudo-channels at stage HBM, `table` the ring context table in host memory when the rings are taken up on reaching READY. Ports train from the entry of LINKS on. -/
def firmwareStageDone (ok : Bool) (trained : Nat) (badLanes : List (Nat × List Nat)) (table : List (List Byte)) (s : State) : State :=
  if s.on ∧ s.ms.st = .rom then
    match s.ms.fwRun with
    | some 0x07 =>
      if ok then
        { s with ms := { s.ms with stage := 0x08, detail := 0, fwRun := some 0x08, claimed := none }
                 ind := { s.ind with lpddrTrain := BitVec.ofNat 32 (2 ^ 31 + trained % 2 ^ 8) } }
      else { s with tier := { s.tier with dramFault := true } }.bootHalt 0x2 0x07 0x0021
    | some 0x08 =>
      if ok then State.loadBlocks { s with ms := { s.ms with stage := 0x09, detail := 0, fwRun := some 0x09 } }
      else { s with tier := { s.tier with flashFault := true } }.bootHalt 0x2 0x08 0x0022
    | some 0x09 =>
      if ok ∧ badLanes.all (fun b => decide (b.2.length ≤ 2)) then
        State.startPorts { s with
                 ms := { s.ms with stage := 0x0A, detail := 0, fwRun := some 0x0A }
                 ind := { s.ind with spares := assignSpares badLanes s.tier.worn }
                 tier := { s.tier with worn := [] } }
      else { s with tier := { s.tier with trainFail := true } }.bootHalt 0x6 0x09 0x0020
    | some 0x0A =>
      let again := s.ms.retake
      let svn := s.ms.fw.elim 0 (·.svn)
      let rows := if s.fuse.counter < svn ∧ s.fuse.rollback.length < 24 then s.fuse.rollback ++ [svn] else s.fuse.rollback
      let s := { s with
        fuse := { s.fuse with rollback := rows }
        ms := { s.ms with stage := 0x0B, fwRun := none, retake := false } }
      let s := State.applyDeferred (s.enter .ready)
      if again then s.reading [(0x01000, s.regs.ringsCtl)] fun s => if s.regs.ringsCtl.val.getLsbD 31 then s.takeUp table else s else s
    | _ => s
  else s

/-- RECOVERY_RESTART (16 R402, 17 R418): the boot ROM runs again; BAR0 values and the PCI Express link are kept, and the rings will be
taken up afresh on reaching READY. -/
def recoveryRestart (s : State) : State :=
  if s.on ∧ s.ms.st = .recovery ∧ s.ms.fwRestart then
    let s := s.enter .rom
    State.bootRom { s with ms := { s.ms with fwRestart := false, retake := true, stage := 0x01, detail := 0 } }
  else s

/-- SMBUS_BRIDGE_WRITE (16 R387): the sled writes the header and the settings area while PERST# is asserted. -/
def smbusBridgeWrite (off : Nat) (data : List Byte) (s : State) : State :=
  if s.pwr.good ∧ s.pwr.perst ∧ off + data.length ≤ slotBase then { s with nor := storeBytes 0xFF s.nor off data } else s

/-! ### Meanings -/

/-- PERST_DEASSERT. -/
def execPerstDeassert (straps : BitVec 14) (s : State) : Host.Outcome State Fault Refusal := .next (perstDeassert straps s)
/-- ROOT_PLL_LOCK. -/
def execRootPllLock (straps : BitVec 14) (s : State) : Host.Outcome State Fault Refusal := .next (rootPllLock straps s)
/-- FIRMWARE_STAGE_DONE. -/
def execFirmwareStageDone (ok : Bool) (trained : Nat) (badLanes : List (Nat × List Nat)) (table : List (List Byte)) (s : State) : Host.Outcome State Fault Refusal :=
  .next (firmwareStageDone ok trained badLanes table s)
/-- RECOVERY_RESTART. -/
def execRecoveryRestart (s : State) : Host.Outcome State Fault Refusal := .next (recoveryRestart s)
/-- SMBUS_BRIDGE_WRITE. -/
def execSmbusBridgeWrite (off : Nat) (data : List Byte) (s : State) : Host.Outcome State Fault Refusal := .next (smbusBridgeWrite off data s)

end Sys2Proof.Machine
end

