-- ==== Sys2Proof/Machine/Registers.lean ====
section
/-! DEFINITION. BAR0, the indirect space, the counter read-out and configuration parity (15), with ring set-up and polling (13). -/

namespace Sys2Proof.Machine

open Sys2Proof

/-! ### Reading registers -/

/-- A 64-bit value as the data of an 8-byte read, or the low half of a 4-byte one (15 R368). -/
def State.answer (s : State) (v : Nat) : State := { s with regs := { s.regs with resp := some (BitVec.ofNat 64 v), unsupported := false } }

/-- A 32-bit register of a digest: register `n` holds bytes 4n to 4n + 3 (15 R374). -/
def digestWord (d : W256) (n : Nat) : Nat := bits d.toNat (32 * n) 32

/-- STATE codes of link.port_status (10). -/
def PortState.code : PortState → Nat
  | .absent => 0
  | .down => 1
  | .training => 2
  | .held => 3
  | .up => 4
  | .diag => 5

/-- A port's state; a number beyond the ports is absent. -/
abbrev State.port (s : State) (p : Nat) : Port := s.net.ports.get (Port.reset false) p

/-- A port's state set. -/
def State.setPort (s : State) (p : Nat) (x : Port) : State := { s with net := { s.net with ports := s.net.ports.put p x } }

/-- link.port_status (10, "Link registers"). -/
def portStatus (p : Port) : Nat :=
  p.st.code * 2 ^ 28 + (if p.st = .held then p.reason else 0) * 2 ^ 24 +
  (if p.st = .up then p.width * 2 ^ 19 + p.rate224.toNat * 2 ^ 18 + p.ylver * 2 ^ 10 else 0)

/-- A temperature field: 0 until the sensor's first measurement (15 R373). -/
def State.tempField (s : State) (i : Nat) : Nat := (nth none s.tier.tempHalf i).elim 0 wholeDegrees

/-- Four temperature fields, the lowest sensor in the low byte. -/
def State.tempWord (s : State) (i : Nat) : Nat :=
  s.tempField i + 2 ^ 8 * s.tempField (i + 1) + 2 ^ 16 * s.tempField (i + 2) + 2 ^ 24 * s.tempField (i + 3)

/-- The hottest HBM stack: the lowest numbered of the hottest measured (08 R202). -/
def State.hotStack (s : State) : Nat :=
  (List.range 8).foldl (fun b i => if (nth none s.tier.tempHalf b).getD 0 < (nth none s.tier.tempHalf i).getD 0 then i else b) 0

/-- mem.tier_status (08 R202). -/
def State.tierStatus (s : State) : Nat :=
  let h := s.hotStack
  let marked := (s.ind.mark.filter fun e => e.2.getLsbD 31).length
  s.tempField h * 2 ^ 24 + h * 2 ^ 21 + min 3 (nth 0 s.tier.band h) * 2 ^ 16 + min 255 marked * 2 ^ 8 +
  s.tier.flashRo.toNat * 2 ^ 5 + s.tier.sramFault.toNat * 2 ^ 4 + s.tier.flashFault.toNat * 2 ^ 3 + s.tier.dramFault.toNat * 2 ^ 2 +
  s.tier.hbmFault.toNat * 2 + s.tier.trainFail.toNat

/-- The rank a module takes to be the coordinator: the lowest that no report names as lost (11 R269). -/
def State.coord (s : State) : Nat := ((List.range s.ranks).find? fun r => !s.recov.lost.contains r).getD 0

/-- sys.recovery_status (11 R293). -/
def State.recoveryStatus (s : State) : Nat :=
  s.coord * 2 ^ 19 + s.recov.replays % 256 * 2 ^ 8 + s.recov.fallback.toNat * 2 ^ 4 + s.recov.remirror.toNat * 2 ^ 3 +
  s.recov.exposed.toNat * 2 ^ 2 + s.recov.noSpare.toNat * 2 + s.recov.subst.toNat

/-- DETAIL of boot.progress: in LINKS and READY bit p says that port p is UP (16 R394). -/
def State.bootDetail (s : State) : Nat :=
  if s.ms.stage = 0x0A ∨ s.ms.stage = 0x0B then
    (List.range 18).foldl (fun v p => if (s.port p).st = .up then v + 2 ^ p else v) 0
  else s.ms.detail

/-- Fenced rings, 32 from ring `lo` on (13 R327). -/
def State.fencedWord (s : State) (lo : Nat) : Nat :=
  (List.range 32).foldl (fun v i => if (s.ring (lo + i)).fenced then v + 2 ^ i else v) 0

/-- Catalogue indices in use (15 R381). -/
def catalogued (i : Nat) : Bool :=
  decide (i ≤ 0x065) || (decide (0x070 ≤ i) && decide (i ≤ 0x0E7)) || (decide (0x0F0 ≤ i) && decide (i ≤ 0x167)) ||
  (decide (0x170 ≤ i) && decide (i ≤ 0x177)) || (decide (0x180 ≤ i) && decide (i ≤ 0xF7F))

/-- A holding register; indices not in the catalogue and those of disabled Graph Cores read as 0 (15 R380). -/
def State.holding (s : State) (i : Nat) : W64 :=
  if catalogued i = false then 0
  else if 0x180 ≤ i ∧ i ≤ 0xA7F ∧ s.fuse.enabled.getLsbD ((i - 0x180) / 24) = false then 0
  else s.ctr.hold.get 0 i

/-- The value a 4-byte read of a canonical BAR0 offset returns; a location not listed reads 0 (15 R369). ind.data is read by its own
command. -/
def State.regValue (s : State) (off : Nat) : Nat :=
  let on := fun (r : RwReg) => r.val.toNat
  if off < 0x01000 then
    match off with
    | 0x00000 => 0x74090100 + s.fuse.order.code * 2 ^ 4
    | 0x00004 => s.ms.st.code * 2 ^ 28 + (if s.ms.st = .halted then s.ms.halt else 0) * 2 ^ 24 + s.cores.length * 2 ^ 14 + s.ms.position
    | 0x00008 => (s.ms.fw.elim 0 fun f => f.level * 2 ^ 16 + f.yl * 2 ^ 8 + f.contract % 16 * 2 ^ 4 + 9)
    | 0x0000C => bits s.fuse.enabled.toNat 0 32
    | 0x00010 => bits s.fuse.enabled.toNat 32 32
    | 0x00014 => bits s.fuse.enabled.toNat 64 32
    | 0x00018 => bits s.regs.cycles.toNat 0 32
    | 0x0001C => bits s.regs.cycles.toNat 32 32
    | 0x00020 => on s.regs.scratch
    | 0x00180 => on s.regs.spBm
    | 0x00184 => on s.regs.spRle
    | 0x00188 => on s.regs.narrow
    | 0x0018C => on s.regs.watchdog
    | 0x00190 => on s.regs.recovery
    | 0x00194 => s.recoveryStatus
    | _ => 0
  else if off < 0x02000 then
    match off with
    | 0x01000 => on s.regs.ringsCtl
    | 0x01004 => on s.regs.tableLo
    | 0x01008 => on s.regs.tableHi
    | 0x0100C => on s.regs.evBaseLo
    | 0x01010 => on s.regs.evBaseHi
    | 0x01014 => on s.regs.evRecLo
    | 0x01018 => on s.regs.evRecHi
    | 0x0101C => on s.regs.evCtl
    | 0x01028 => s.fencedWord 0
    | 0x0102C => s.fencedWord 32
    | _ => 0
  else if off < 0x03000 then
    match off with
    | 0x02000 => s.regs.indAddr.toNat
    | 0x02008 => s.regs.indStatus.toNat
    | _ => 0
  else if off < 0x04000 then
    match off with
    | 0x03004 => s.regs.snapSeq.toNat
    | 0x03008 => s.regs.ctrIndex.toNat
    | 0x0300C => bits (s.holding s.regs.ctrIndex.toNat).toNat 0 32
    | 0x03010 => bits (s.holding s.regs.ctrIndex.toNat).toNat 32 32
    | _ => 0
  else if off < 0x05000 then
    match off with
    | 0x04000 => s.pwr.vinMv * 2 ^ 16 + s.pwr.pinW
    | 0x04004 => s.tempWord 0
    | 0x04008 => s.tempWord 4
    | 0x0400C => s.tempWord 8
    | 0x04010 => s.tempField 12 + 2 ^ 8 * s.tempField 13
    | 0x04014 => on s.regs.pwrCap
    | _ => 0
  else if off < 0x06000 then
    if off = 0x05000 then s.ms.stage * 2 ^ 24 + s.bootDetail
    else if off = 0x05004 then (if s.ms.st = .rom ∨ s.ms.st = .recovery then 0 else s.ms.fw.elim 0 (·.version))
    else if off = 0x05008 then s.fuse.counter
    else if 0x05020 ≤ off ∧ off < 0x05040 then s.ms.map.elim 0 fun m => digestWord m.mapId ((off - 0x05020) / 4)
    else if 0x05040 ≤ off ∧ off < 0x05060 then
      (if s.ms.keyed = false then 0 else digestWord (Config.sha3 (Config.mldsaPublic s.fuse.idSeed)) ((off - 0x05040) / 4))
    else if 0x05060 ≤ off ∧ off < 0x05080 then digestWord s.fuse.vendorKey ((off - 0x05060) / 4)
    else 0
  else if off < 0x07000 then
    if off < 0x06048 then portStatus (s.port ((off - 0x06000) / 4))
    else if 0x06080 ≤ off ∧ off < 0x060C8 then (if (s.port ((off - 0x06080) / 4)).st = .up then (s.port ((off - 0x06080) / 4)).active.toNat else 0)
    else if off = 0x06100 then s.mach.floor.toNat
    else 0
  else
    match off with
    | 0x07000 => s.tierStatus
    | 0x07010 => on s.regs.scrub + s.tier.scrubPasses.toNat
    | _ => 0

/-- The canonical offset of a BAR0 offset (15 R367). -/
def canonical (off : BitVec 20) : BitVec 20 := off &&& 0x071FC#20

/-! ### Writing registers -/

/-- The RW bits of a register by canonical offset, none for a location without them (15 and the tables it names). -/
def rwMask (off : Nat) : Option W32 :=
  match off with
  | 0x00020 => some 0xFFFFFFFF#32
  | 0x00180 => some 0xFFFFFFFF#32
  | 0x00184 => some 0xFFFFFFFF#32
  | 0x00188 => some 0x00FFFFFF#32
  | 0x0018C => some 0x00FFFFFF#32
  | 0x00190 => some 0x8000FFFF#32
  | 0x01000 => some 0x80FF00FF#32
  | 0x01004 => some 0xFFFFFFFF#32
  | 0x01008 => some 0xFFFFFFFF#32
  | 0x0100C => some 0xFFFFFFFF#32
  | 0x01010 => some 0xFFFFFFFF#32
  | 0x01014 => some 0xFFFFFFFF#32
  | 0x01018 => some 0xFFFFFFFF#32
  | 0x0101C => some 0x007F001F#32
  | 0x04014 => some 0x0000FFFF#32
  | 0x07010 => some 0x8000FF00#32
  | _ => none

/-- The stored register at a canonical offset that carries parity (15 R383). -/
def Regs.at (r : Regs) (off : Nat) : Option RwReg :=
  match off with
  | 0x00020 => some r.scratch
  | 0x00180 => some r.spBm
  | 0x00184 => some r.spRle
  | 0x00188 => some r.narrow
  | 0x0018C => some r.watchdog
  | 0x00190 => some r.recovery
  | 0x01000 => some r.ringsCtl
  | 0x01004 => some r.tableLo
  | 0x01008 => some r.tableHi
  | 0x0100C => some r.evBaseLo
  | 0x01010 => some r.evBaseHi
  | 0x01014 => some r.evRecLo
  | 0x01018 => some r.evRecHi
  | 0x0101C => some r.evCtl
  | 0x04014 => some r.pwrCap
  | 0x07010 => some r.scrub
  | _ => none

/-- A stored register replaced. -/
def Regs.put (r : Regs) (off : Nat) (v : RwReg) : Regs :=
  match off with
  | 0x00020 => { r with scratch := v }
  | 0x00180 => { r with spBm := v }
  | 0x00184 => { r with spRle := v }
  | 0x00188 => { r with narrow := v }
  | 0x0018C => { r with watchdog := v }
  | 0x00190 => { r with recovery := v }
  | 0x01000 => { r with ringsCtl := v }
  | 0x01004 => { r with tableLo := v }
  | 0x01008 => { r with tableHi := v }
  | 0x0100C => { r with evBaseLo := v }
  | 0x01010 => { r with evBaseHi := v }
  | 0x01014 => { r with evRecLo := v }
  | 0x01018 => { r with evRecHi := v }
  | 0x0101C => { r with evCtl := v }
  | 0x04014 => { r with pwrCap := v }
  | 0x07010 => { r with scrub := v }
  | _ => r

/-- A write of a register's RW bits with its parity; dropped in HALTED (15 R370, R383). A write to sys.scratch after PAR_TEST stores
inverted parity (15 R384). -/
def State.writeRw (s : State) (off : Nat) (val : W32) : State :=
  match rwMask off with
  | none => s
  | some m =>
    if s.ms.st = .halted then s
    else
      let r := RwReg.of (val &&& m)
      if off = 0x00020 ∧ s.regs.parTest then { s with regs := { s.regs.put off { r with par := !r.par } with parTest := false } }
      else { s with regs := s.regs.put off r }

/-- A write with an effect on the rings: at once, or once firmware runs when the module is in ROM (15 R370). -/
def State.orDefer (s : State) (d : Deferred) (f : State → State) : State :=
  if s.ms.st = .rom then { s with host := { s.host with deferred := s.host.deferred ++ [d] } } else f s

/-- A write to rings.ctl (13 R327, R328): when ENABLE becomes 1 every ring is taken up afresh. -/
def State.writeRingsCtl (s : State) (val : W32) (table : List (List Byte)) : State :=
  if s.ms.st = .halted then s
  else
    let rose := val.getLsbD 31 && !s.regs.ringsCtl.val.getLsbD 31
    let s := s.writeRw 0x01000 val
    if rose then s.orDefer (.ctl table) fun s => s.takeUp table else s

/-- EVENT of rings.reload (13 R327, R337). -/
def State.reloadEvents (s : State) : State := s.orDefer .event fun s => s.reading s.regs.evRegs State.takeEvents

/-- RING_GO of rings.reload (13 R327, R328). -/
def State.reloadRing (s : State) (n : Nat) (entry : List Byte) : State :=
  s.orDefer (.ring n entry) fun s => s.reading s.regs.tableRegs fun s => s.takeRing n true entry

/-- GO of rings.fence_clr (13 R327, R339). -/
def State.releaseFence (s : State) (n : Nat) : State :=
  s.orDefer (.fence n) fun s => s.setRing n { s.ring n with fenced := false }

/-- A write to rings.reload; EVENT acts before RING_GO (log entry 19). `entry` is the named ring's context entry in host memory. -/
def State.writeReload (s : State) (val : W32) (entry : List Byte) : State :=
  let s := if val.getLsbD 31 then s.reloadEvents else s
  if val.getLsbD 30 then s.reloadRing (bits val.toNat 0 6) entry else s

/-- A snapshot (15 R380): every counter copied to its holding register, SEQ one higher. -/
def State.snapshot (s : State) : State :=
  { s with ctr := { s.ctr with hold := s.ctr.live }, regs := { s.regs with snapSeq := s.regs.snapSeq + 1 } }

/-- A write to sys.cfg_check: PAR_TEST, in READY only (15 R384). -/
def State.writeCfgCheck (s : State) (val : W32) : State :=
  if val.getLsbD 0 && s.ms.st == .ready then { s with regs := { s.regs with parTest := true } } else s

/-! ### The indirect space (15 R375-R377) -/

/-- The address is inside a window of 15 R377 that this module has. -/
def State.indMapped (s : State) (a : Nat) : Bool :=
  decide (a < portCount s.fuse.order * 0x100000) || (decide (0x02000000 ≤ a) && decide (a < 0x03000000)) ||
  (decide (0x03000000 ≤ a) && decide (a < 0x03010000)) || (decide (0x04000000 ≤ a) && decide (a < 0x04010000)) ||
  (decide (0x05000000 ≤ a) && decide (a < 0x05010000)) || (decide (0x10000000 ≤ a) && decide (a < 0x20000000))

/-- The lane of a port address, numbered 24 p + i, and the offset within it. -/
def laneOf (a : Nat) : Option (Nat × Nat) :=
  let p := a / 0x100000
  let o := a % 0x100000
  if 0x10000 ≤ o ∧ o < 0x10000 + 24 * 0x1000 then some (24 * p + (o - 0x10000) / 0x1000, (o - 0x10000) % 0x1000) else none

/-- A value between two bounds that the spec leaves to a measurement (log entry 20). -/
def State.measured (s : State) (lo hi : Nat) : Nat × State :=
  let f := s.takeFree 32
  (lo + f.1.toNat % (hi - lo + 1), f.2)

/-- A lane's checker goes on while CHK_EN is set (15 R377): a read finds its counts advanced by errors and bits that the spec leaves to the line
(log entry 20). -/
def State.checkerRuns (s : State) (l : Nat) : State :=
  if (s.ind.patCtl.get (RwReg.of 0) l).val.getLsbD 30 then
    let b := s.takeFree 48
    let e := b.2.takeFree 48
    { e.2 with ind := { e.2.ind with
      bits := e.2.ind.bits.set 0 l (e.2.ind.bits.get 0 l + b.1)
      err := e.2.ind.err.set 0 l (e.2.ind.err.get 0 l + BitVec.ofNat 48 (e.1.toNat % (b.1.toNat + 1))) } }
  else s

/-- lane.state: LOCK as found, IN_USE while the lane carries its port (15 R377). -/
def State.laneStateOf (s : State) (l : Nat) : Nat :=
  let v := (s.ind.laneState.get 0 l).toNat
  if (s.port (l / 24)).st = .up then v else v % 2

/-- The value of an indirect register; one that is not listed reads 0 (15 R369, R377). Rail voltages and currents are measurements:
within 5 % of nominal (17 R411), and any current. -/
def State.indValue (s : State) (a : Nat) : Nat × State :=
  if a < 0x01200000 then
    match laneOf a with
    | some (l, 0x000) => ((s.ind.patCtl.get (RwReg.of 0) l).val.toNat, s)
    | some (l, 0x008) => (bits ((s.checkerRuns l).ind.err.get 0 l).toNat 0 32, s.checkerRuns l)
    | some (l, 0x00C) => (bits ((s.checkerRuns l).ind.err.get 0 l).toNat 32 16, s.checkerRuns l)
    | some (l, 0x010) => (bits ((s.checkerRuns l).ind.bits.get 0 l).toNat 0 32, s.checkerRuns l)
    | some (l, 0x014) => (bits ((s.checkerRuns l).ind.bits.get 0 l).toNat 32 16, s.checkerRuns l)
    | some (l, 0x018) => ((s.ind.eye.get 0 l).toNat, s)
    | some (l, 0x020) => ((s.ind.txeq.get (RwReg.of 0) l).val.toNat, s)
    | some (l, 0x024) => ((s.ind.rxeq.get 0 l).toNat, s)
    | some (l, 0x028) => (s.laneStateOf l, s)
    | some _ => (0, s)
    | none =>
      if a % 0x100000 < 0x40 then (leNat (slice (s.ind.ident.get [] (a / 0x100000)) (a % 0x100000) 4), s) else (0, s)
  else if 0x02000000 ≤ a ∧ a < 0x03000000 then
    let c := (a - 0x02000000) / 0x10000
    let o := a % 0x10000
    if o = 0 then ((s.ind.spares.get 0x3F3F c).toNat, s)
    else if o = 4 then ((s.ind.mark.get 0 c).toNat, s)
    else if 0x100 ≤ o ∧ o < 0x100 + 4 * 36 then ((s.ind.pinCorr.get 0 (36 * c + (o - 0x100) / 4)).toNat, s)
    else (0, s)
  else if 0x03000000 ≤ a ∧ a < 0x03010000 then
    let o := a % 0x10000
    if o = 0 then (s.ind.lpddrTrain.toNat, s)
    else if 0x100 ≤ o ∧ o < 0x100 + 4 * 32 then ((s.ind.lpddrCorr.get 0 ((o - 0x100) / 4)).toNat, s)
    else (0, s)
  else if 0x04000000 ≤ a ∧ a < 0x04010000 then
    match a % 0x10000 with
    | 0x0 => (s.ind.flashGood.toNat, s)
    | 0x4 => (s.ind.flashSpare.toNat, s)
    | 0x8 => (s.ind.flashPeAvg.toNat, s)
    | 0xC => (s.ind.flashPeMax.toNat, s)
    | _ => (0, s)
  else if 0x05000000 ≤ a ∧ a < 0x05010000 then
    let o := a % 0x10000
    if 0x100 ≤ o ∧ o < 0x180 ∧ s.railPresent ((o - 0x100) / 8) then
      if o % 8 = 0 then
        let n := nth 0 railNominal ((o - 0x100) / 8)
        s.measured (ceilDiv (95 * n) 100) (105 * n / 100)
      else if o % 8 = 4 then s.measured 0 (2 ^ 32 - 1)
      else (0, s)
    else (0, s)
  else if 0x10000000 ≤ a ∧ a < 0x20000000 then (leNat (bytesAt 0xFF s.sermem (a - 0x10000000) 4), s)
  else (0, s)

/-- ADDR advances by 4 modulo 2^32 whatever the outcome (15 R375, R376). -/
def State.indAdvance (s : State) : State := { s with regs := { s.regs with indAddr := s.regs.indAddr + 4 } }

/-- A bit of ind.status set. -/
def State.indFlag (s : State) (b : BitVec 3) : State := { s with regs := { s.regs with indStatus := s.regs.indStatus ||| b } }

/-- A read of ind.data. -/
def State.indRead (s : State) : State :=
  let a := s.regs.indAddr.toNat
  if s.indMapped a then
    let v := s.indValue a
    (v.2.answer v.1).indAdvance
  else ((s.indFlag 2).answer 0).indAdvance

/-- The effect of an indirect write on lane.pat_ctl and lane.txeq; other registers ignore it (15 R369, R377). -/
def State.indStore (s : State) (a : Nat) (val : W32) : State :=
  match (if a < 0x01200000 then laneOf a else none) with
  | some (l, 0x000) =>
    let v := val &&& 0xF0000000#32
    let rose := v.getLsbD 30 && !(s.ind.patCtl.get (RwReg.of 0) l).val.getLsbD 30
    { s with ind := { s.ind with
      patCtl := s.ind.patCtl.set (RwReg.of 0) l (RwReg.of v)
      err := if rose then s.ind.err.set 0 l 0 else s.ind.err
      bits := if rose then s.ind.bits.set 0 l 0 else s.ind.bits } }
  | some (l, 0x020) => { s with ind := { s.ind with txeq := s.ind.txeq.set (RwReg.of 0) l (RwReg.of val) } }
  | _ => s

/-- The checker whose control register a host write reaches has run until then. -/
def State.checkerAt (s : State) (a : Nat) : State :=
  match (if a < 0x01200000 then laneOf a else none) with
  | some (l, 0x000) => s.checkerRuns l
  | _ => s

/-- A write of ind.data: effective in READY only; otherwise LOCKED. An unmapped address sets UNMAPPED (15 R376; log entry 21). -/
def State.indWrite (s : State) (val : W32) : State :=
  let a := s.regs.indAddr.toNat
  let t := if s.ms.st = .ready then (if s.indMapped a then (s.checkerAt a).indStore a val else s) else s.indFlag 4
  let t := if s.indMapped a then t else t.indFlag 2
  t.indAdvance

/-! ### BAR0 writes as one operation (15 R367-R370) -/

/-- A write of one 4-byte register at a canonical offset, with every side effect it has. `table` holds the ring context entries that
host memory holds, for a take-up. -/
def State.writeReg (s : State) (off : Nat) (val : W32) (table : List (List Byte)) : State :=
  match off with
  | 0x00024 => s.writeCfgCheck val
  | 0x01000 => s.writeRingsCtl val table
  | 0x01020 => s.writeReload val (nth (zeros 64) table (bits val.toNat 0 6))
  | 0x01024 => if val.getLsbD 31 then s.releaseFence (bits val.toNat 0 6) else s
  | 0x02000 => { s with regs := { s.regs with indAddr := val &&& 0xFFFFFFFC#32 } }
  | 0x02004 => s.indWrite val
  | 0x02008 => { s with regs := { s.regs with indStatus := s.regs.indStatus &&& ~~~(val.setWidth 3) } }
  | 0x03000 => if val.getLsbD 0 then s.snapshot else s
  | 0x03008 => { s with regs := { s.regs with ctrIndex := val.setWidth 12 } }
  | _ => s.writeRw off val

/-! ### Polling (13 R329, R332, R337) -/

/-- One doorbell record read (13 R329). Descriptors are fetched as far as the record announces and `descs` gives them. -/
def State.pollRing (s : State) (x : DoorbellRead) : State :=
  let r := s.ring x.ring
  if r.running ∧ x.gen = r.ctx.gen then
    let n := (x.pi + 2 ^ 32 - r.ci % 2 ^ 32) % 2 ^ 32
    if 2 ^ r.ctx.log2 < n then
      if s.holdFull then s else (s.setRing x.ring { r with running := false }).post evRingConfig (leBytes 1 x.ring ++ leBytes 1 2)
    else if r.fenced then s
    else
      let got := x.descs.take n
      let excl := (List.range got.length).filterMap fun i =>
        if exclusiveOp (descOp (nth [] got i)) then some (x.ring, r.ci + i) else none
      let s := s.setRing x.ring { r with ci := r.ci + got.length, queue := r.queue ++ got }
      { s with host := { s.host with excl := s.host.excl ++ excl } }
  else s

/-- DOORBELL_POLL (13 R324, R329, R332, R337, R340): with ENABLE set the records are read, rings in ascending number, except in ROM and
HALTED; the event consumer record is read whatever ENABLE is. -/
def doorbellPoll (recs : List DoorbellRead) (consumed : Nat) (s : State) : State :=
  if s.bar0Up && s.ms.st != .rom then
    let s := State.flush { s with host := { s.host with ev := { s.host.ev with consumed := consumed } } }
    if s.live then
      s.reading [(0x01000, s.regs.ringsCtl)] fun s =>
        let s := if s.regs.ringsCtl.val.getLsbD 31 then recs.foldl State.pollRing s else s
        s.rejectAll
    else s
  else s

/-! ### Meanings -/

/-- DOORBELL_POLL. -/
def execDoorbellPoll (recs : List DoorbellRead) (consumed : Nat) (s : State) : Host.Outcome State Fault Refusal := .next (doorbellPoll recs consumed s)
/-- RINGS_CTL_WRITE (13 R328). -/
def execRingsCtlWrite (val : W32) (table : List (List Byte)) (s : State) : Host.Outcome State Fault Refusal :=
  .next (s.when s.bar0Up fun s => s.writeRingsCtl val table)
/-- RELOAD_EVENT_RING (13 R337). -/
def execReloadEventRing (s : State) : Host.Outcome State Fault Refusal := .next (s.when s.bar0Up State.reloadEvents)
/-- RELOAD_RING (13 R328). -/
def execReloadRing (ring : Nat) (entry : List Byte) (s : State) : Host.Outcome State Fault Refusal :=
  .next (s.when s.bar0Up fun s => s.reloadRing ring entry)
/-- FENCE_RELEASE (13 R339). -/
def execFenceRelease (ring : Nat) (s : State) : Host.Outcome State Fault Refusal := .next (s.when s.bar0Up fun s => s.releaseFence ring)
/-- CTR_SNAP (15 R380). -/
def execCtrSnap (s : State) : Host.Outcome State Fault Refusal := .next (s.when s.bar0Up State.snapshot)
/-- CTR_DATA_HI_READ (15 R379): INDEX advances modulo 4,096. -/
def execCtrDataHiRead (s : State) : Host.Outcome State Fault Refusal :=
  .next (s.when s.bar0Up fun s =>
    let t := s.answer (s.regValue 0x03010)
    { t with regs := { t.regs with ctrIndex := t.regs.ctrIndex + 1 } })
/-- COUNTER_PAIR_READ (15 R385): both halves from one holding register, then INDEX advances once. -/
def execCounterPairRead (s : State) : Host.Outcome State Fault Refusal :=
  .next (s.when s.bar0Up fun s =>
    let t := s.answer (s.holding s.regs.ctrIndex.toNat).toNat
    { t with regs := { t.regs with ctrIndex := t.regs.ctrIndex + 1 } })
/-- IND_DATA_READ (15 R375, R376). -/
def execIndDataRead (s : State) : Host.Outcome State Fault Refusal := .next (s.when s.bar0Up State.indRead)
/-- IND_DATA_WRITE (15 R375, R376). -/
def execIndDataWrite (val : W32) (s : State) : Host.Outcome State Fault Refusal := .next (s.when s.bar0Up fun s => s.indWrite val)
/-- INDIRECT_ACCESS_TIMEOUT (15 R376): no answer within 2 µs; a read gives 0, a write is dropped, TIMEOUT is set. -/
def execIndirectAccessTimeout (write : Bool) (s : State) : Host.Outcome State Fault Refusal :=
  .next (s.when s.bar0Up fun s =>
    let t := s.indFlag 1
    (if write then t else t.answer 0).indAdvance)
/-- CFG_CHECK_WRITE (15 R384). -/
def execCfgCheckWrite (val : W32) (s : State) : Host.Outcome State Fault Refusal := .next (s.when s.bar0Up fun s => s.writeCfgCheck val)
/-- REGISTER_WRITE (15 R367-R370): a 4-byte write with a byte enable clear is dropped. -/
def execRegisterWrite (off : BitVec 20) (be : BitVec 4) (val : W32) (table : List (List Byte)) (s : State) : Host.Outcome State Fault Refusal :=
  .next (s.when (s.bar0Up && be == 15 && off.toNat % 4 == 0) fun s => s.writeReg (canonical off).toNat val table)
/-- BAR0_UNSUPPORTED_REQUEST (15 R368): longer than 8 bytes or not aligned; no effect but the completion status. The 8-byte read at
0x0_300C is COUNTER_PAIR_READ (15 R385; log entry 22). -/
def execBar0UnsupportedRequest (off len : Nat) (s : State) : Host.Outcome State Fault Refusal :=
  .next (s.when (s.bar0Up && (decide (8 < len) || (len == 4 && off % 4 != 0) || (len == 8 && off % 8 != 0))) fun s =>
    { s with regs := { s.regs with resp := none, unsupported := true } })
/-- PARITY_SWEEP (15 R383): the sweep visits one covered register; a mismatch halts the module. -/
def execParitySweep (indirect : Bool) (addr : Nat) (s : State) : Host.Outcome State Fault Refusal :=
  .next (if indirect then
      let r := match laneOf addr with
        | some (l, 0x000) => s.ind.patCtl.get (RwReg.of 0) l
        | some (l, 0x020) => s.ind.txeq.get (RwReg.of 0) l
        | _ => RwReg.of 0
      if r.ok then s else s.parityHalt addr 1
    else
      match s.regs.at addr with
      | some r => if r.ok then s else s.parityHalt addr 0
      | none => s)

end Sys2Proof.Machine
end

