-- ==== Sys2Proof/Machine/Link.lean ====
section
/-! DEFINITION. Yenos Link as a transport (10 R239-R249, R260): messages, flits, credits, routes and MSGIDs. -/

namespace Sys2Proof.Machine

open Sys2Proof

/-! ### Messages (10 R244) -/

/-- A message as bytes: the 16-byte header, then the body. -/
def msgBytes (m : Msg) : List Byte :=
  leBytes 1 (m.opc * 16 + m.typ) ++ leBytes 1 (m.links * 4 + m.last.toNat * 2 + m.resp.toNat) ++ leBytes 2 m.dst ++ leBytes 2 m.src ++
  zeros 2 ++ leBytes 4 m.body.length ++ leBytes 4 m.id ++ m.body

/-- The message that bytes on a VC hold, none when they are shorter than their LEN says (10 R241, R244). -/
def msgOf (vc : Nat) (b : List Byte) : Option Msg :=
  let n := field b 8 4
  if 16 ≤ b.length ∧ b.length = 16 + n then
    some {
      typ := bits (field b 0 1) 0 4
      opc := bits (field b 0 1) 4 4
      resp := bits (field b 1 1) 0 1 == 1
      last := bits (field b 1 1) 1 1 == 1
      links := bits (field b 1 1) 2 3
      vc := vc
      src := field b 4 2
      dst := field b 2 2
      id := field b 12 4
      body := b.drop 16 }
  else none

/-- The reserved bits of a header are 0; SRC and DST name a rank or, as `spare`, a module without one. -/
def headerReservedOk (spare : Nat) (b : List Byte) : Bool :=
  bits (field b 1 1) 5 3 == 0 && field b 6 2 == 0 &&
  [field b 2 2, field b 4 2].all fun r => decide (r < 8192) || r == spare

/-- The VCs and OPCs a message type allows (10 R246, with 09 R223, 11 R270-R271, 14 R351 and 07 R172 for the OPCs; those of log entries 24, 35 and 46
are the model's). -/
def msgAllowed (m : Msg) : Bool :=
  let group := decide (2 ≤ m.vc) && decide (m.vc ≤ 9)
  match m.typ with
  | 1 => (m.vc == 0 && decide (m.opc ≤ 6) && m.opc != 1) || ((group || m.vc == 11) && m.opc == 0)
  | 2 => (m.vc == 0 && decide (m.opc ≤ 1)) || ((group || m.vc == 11) && m.opc == 0)
  | 3 => (group || m.vc == 10) && m.opc == 0
  | 4 => m.vc == 10 && m.opc == 0
  | 5 => m.vc == 10 && decide (m.opc ≤ 2)
  | 6 => m.vc == 0 && decide (m.opc ≤ 5) && m.body.length == 16 && field m.body 5 3 == 0
  | 7 => m.vc == 0 && m.opc == 0 && m.body.length == 16 && field m.body 3 1 == 0 && field m.body 12 4 == 0
  | 8 => m.vc == 1 && decide (m.opc ≤ 4)
  | _ => false

/-! ### Flits (10 R239, R240, R242) -/

/-- A flit: VC, FTYPE, flags, SEQ, ACK, credit return, message bytes, CRC. -/
def mkFlit (vc ftype flags seq ack cvc ccount : Nat) (payload : List Byte) : List Byte :=
  let b := leBytes 1 (vc * 16 + ftype) ++ leBytes 1 flags ++ leBytes 2 seq ++ leBytes 2 ack ++ leBytes 1 (cvc * 16) ++ leBytes 1 ccount ++
    leBytes 2 payload.length ++ zeros 2 ++ fit 240 payload
  b ++ leBytes 4 (crc32c b)

/-- The payloads of the flits of a message: pieces of 240 bytes. -/
def pieces : Nat → List Byte → List (List Byte)
  | 0, _ => []
  | fuel + 1, b => if b.length ≤ 240 then [b] else b.take 240 :: pieces fuel (b.drop 240)

/-- The DATA flits of a message, their SEQ and ACK still open. -/
def flitsOf (m : Msg) : List TxFlit :=
  let p := pieces 300 (msgBytes m)
  (List.range p.length).map fun i => {
    msg := m
    flit := mkFlit m.vc 1 ((if i = 0 then 1 else 0) + (if i + 1 = p.length then 2 else 0)) 0 0 0 0 (nth [] p i) }

/-- The first flit of its message. -/
def TxFlit.som (f : TxFlit) : Bool := bits (field f.flit 1 1) 0 1 == 1
/-- The last flit of its message. -/
def TxFlit.eom (f : TxFlit) : Bool := bits (field f.flit 1 1) 1 1 == 1

/-- A DATA flit with its SEQ and ACK. -/
def stampFlit (f : List Byte) (seq ack : Nat) : List Byte :=
  mkFlit (bits (field f 0 1) 4 4) 1 (field f 1 1) seq ack 0 0 (slice f 12 (field f 8 2))

/-- The VC of a flit. -/
def flitVc (f : List Byte) : Nat := bits (field f 0 1) 4 4

/-- The port's receiver state as an ACK. -/
def Port.ack (p : Port) : Nat := p.rxSeq

/-- A flit of a VC waits and the VC has a credit (10 R242). -/
def Port.mayGrant (p : Port) (vc : Nat) : Bool := decide (0 < nth 0 p.credits vc) && p.txq.any fun f => f.msg.vc == vc

/-- The VC that takes the next flit slot (10 R249): VC0, VC1, then VC2 to VC10 in round robin by messages, then VC11. -/
def Port.grant (p : Port) : Option Nat :=
  ([0, 1] ++ (List.range 9).map (fun i => 2 + (p.turn + i) % 9) ++ [11]).find? p.mayGrant

/-- The turn of the third level after a flit: the next VC's once a message has ended, the same one's until then. -/
def Port.nextTurn (p : Port) (f : TxFlit) : Nat :=
  if 2 ≤ f.msg.vc ∧ f.msg.vc ≤ 10 then (if f.eom then (f.msg.vc - 1) % 9 else f.msg.vc - 2) else p.turn

/-- Flits that wait are sent while the replay buffer has room and a VC that has some has a credit (10 R240, R242, R249). -/
def Port.pump (p : Port) (sent : List (List Byte)) : Nat → Port × List (List Byte)
  | 0 => (p, sent)
  | fuel + 1 =>
    if 4096 ≤ p.replay.length then (p, sent)
    else
      match p.grant.bind fun vc => p.txq.find? fun f => f.msg.vc == vc with
      | none => (p, sent)
      | some f =>
        let g := stampFlit f.flit p.txSeq p.ack
        Port.pump { p with
          txq := p.txq.erase f
          turn := p.nextTurn f
          replay := p.replay ++ [(p.txSeq, { f with flit := g })]
          txSeq := (p.txSeq + 1) % 65536
          credits := setNth p.credits f.msg.vc (nth 0 p.credits f.msg.vc - 1) } (sent ++ [g]) fuel

/-- An IDLE flit (10 R239). -/
def Port.idleFlit (p : Port) : List Byte := mkFlit 0 0 0 0 p.ack 0 0 []

/-- One flit put on the wire of a port, after an IDLE flit where 4,095 others have gone since the last (10 R243). -/
def State.putFlit (s : State) (p : Nat) (f : List Byte) : State :=
  let x := s.port p
  let due := decide (4095 ≤ x.sinceIdle)
  let s := s.setPort p { x with sinceIdle := if due then 1 else x.sinceIdle + 1 }
  { s with net := { s.net with wire := s.net.wire ++ (if due then [(p, x.idleFlit)] else []) ++ [(p, f)] } }

/-- A transmitter of the port's lanes in use sends its pattern in place of flits, by a host write (15 R377 GEN_EN). -/
def State.generates (s : State) (p : Nat) : Bool :=
  (s.port p).diagRing.isNone && (List.range 24).any fun i =>
    (s.port p).active.getLsbD i && (s.ind.patCtl.get (RwReg.of 0) (24 * p + i)).val.getLsbD 31

/-- Flits put on the wire of a port, unless its lanes send a pattern in their place. -/
def State.onWire (s : State) (p : Nat) (fs : List (List Byte)) : State := if s.generates p then s else fs.foldl (fun s f => s.putFlit p f) s

/-- A port that has nothing more to send sends IDLE flits (10 R243); one stands for the run of them (log entry 121). -/
def State.idlePort (s : State) (p : Nat) : State :=
  let x := s.port p
  let t := s.setPort p { x with sinceIdle := 0 }
  if s.generates p then s else { t with net := { t.net with wire := t.net.wire ++ [(p, x.idleFlit)] } }

/-- A port's waiting flits sent as far as they may be. -/
def State.pumpPort (s : State) (p : Nat) : State :=
  let x := s.port p
  if x.st = .up then
    let r := x.pump [] (x.txq.length + 1)
    ((s.setPort p r.1).onWire p r.2).idlePort p
  else s

/-- A CTRL flit: ACK, NAK and returned credit (10 R239); what could be sent before it has been, so IDLE follows (10 R243). -/
def State.sendCtrl (s : State) (p : Nat) (nak : Bool) (cvc ccount : Nat) : State :=
  (s.onWire p [mkFlit 0 2 (if nak then 4 else 0) 0 (s.port p).ack cvc ccount []]).idlePort p

/-! ### Receive regions (10 R248) -/

/-- Bytes of a VC that have arrived and are not acted on yet. -/
def State.receivedBytes (s : State) (vc : Nat) : Nat :=
  ((s.net.inbox.filter fun m => m.vc == vc).map fun m => m.body.length).sum + (s.net.ports.map fun e => (e.2.asm.get [] vc).length).sum

/-- The receive region of a VC has room: VC0, VC1 and VC11 go to firmware memory, which the spec gives no size, the others to the regions placed at load
(log entry 121). -/
def State.receiveRoom (s : State) (vc : Nat) : Bool :=
  match s.prog with
  | none => true
  | some p => decide (vc < 2) || decide (10 < vc) || decide (s.receivedBytes vc < (nth default p.place.receive (vc - 2)).len)

/-- The credit of a flit that has been received: returned, or withheld while the receive region is full. -/
def State.returnCredit (s : State) (p vc : Nat) : State :=
  if s.receiveRoom vc then s.sendCtrl p false vc 1
  else
    let x := s.port p
    s.setPort p { x with owed := x.owed.set 0 vc (x.owed.get 0 vc + 1) }

/-- Credits withheld on a VC are returned once its receive region has room again. -/
def State.releaseCredits (s : State) (vc : Nat) : State :=
  if (s.net.ports.any fun e => e.2.owed.get 0 vc != 0) && s.receiveRoom vc then
    (List.range 18).foldl (fun s p =>
      let x := s.port p
      let n := x.owed.get 0 vc
      if n = 0 then s
      else (s.setPort p { x with owed := x.owed.set 0 vc (n - min 255 n) }).sendCtrl p false vc (min 255 n)) s
  else s

/-! ### Routes (10 R252, R260) -/

/-- The SRC and DST that stand for a spare, which holds no rank: beyond every rank of the machine (log entry 35). -/
def State.spareRank (s : State) : Nat := if max s.ranks (s.ms.map.elim 0 fun m => m.ranks.length) < 8192 then 0x1FFF else 0x2000

/-- The position of this module's sled that holds no rank: the map's spare, or one whose rank has moved there (11 R288). -/
def State.sparePosition (s : State) : Option Nat :=
  s.ms.map.bind fun m => (m.spares.find? fun e => e.1 / 8 == s.ms.position / 8).bind fun e => (e.1 :: e.2).find? fun p => !s.mach.ranks.contains p

/-- The positions of a sled under the map's spares section, the spare's first. -/
def State.sledPositions (s : State) (pos : Nat) : List Nat :=
  s.ms.map.elim [] fun m => (m.spares.find? fun e => e.1 / 8 == pos / 8).elim [] fun e => e.1 :: e.2

/-- The joined module of a sled that holds no rank. -/
def State.sledSpare (s : State) (pos : Nat) : Option Nat :=
  (s.sledPositions pos).find? fun p => !s.mach.ranks.contains p && s.mach.joinSeen.contains p

/-- The position of a logical rank in the working copy of the ranks section; for a spare, of the one that rank 0 welcomes or else of the
sled's. -/
def State.positionOf (s : State) (rank : Nat) : Option Nat :=
  if rank = s.spareRank then (if s.mach.joining.isSome then s.mach.joining else s.sparePosition) else s.mach.ranks[rank]?

/-- A port that routes may use: UP, and not taken out of service for DIAG (10 R260, R265). -/
def Port.usable (p : Port) : Bool := p.st == .up && p.diagRing.isNone

/-- The port toward a rank: the primary while it is UP, otherwise the alternate, none if neither is; an entry without a primary is not reachable
(10 R252). -/
def State.routePort (s : State) (rank : Nat) : Option Nat :=
  match s.positionOf rank, s.ms.map with
  | some pos, some m =>
    let e := m.route pos
    if bits e 0 5 = 31 then none
    else if (s.port (bits e 0 5)).usable then some (bits e 0 5)
    else if (s.port (bits e 5 5)).usable then some (bits e 5 5)
    else none
  | _, _ => none

/-- A message with its type, OPC, VC, destination and body, to be sent. -/
def mkMsg (typ opc vc dst : Nat) (body : List Byte) (resp last : Bool := false) : Msg where
  typ := typ
  opc := opc
  resp := resp
  last := last
  links := 0
  vc := vc
  src := 0
  dst := dst
  id := 0
  body := body

/-- A message takes its SRC and the next MSGID toward its destination on its VC (10 R244, R245), and is recorded as sent. -/
def State.number (s : State) (m : Msg) : Msg × State :=
  let k := m.dst * 16 + m.vc
  let n := s.net.msgid.get 0 k
  let m := { m with
    src := s.mach.rank.getD s.spareRank
    id := n
    links := 0 }
  (m, { s with net := { s.net with
    msgid := s.net.msgid.set 0 k ((n + 1) % 2 ^ 32)
    sent := s.net.sent ++ [m] } })

/-- A message handed to a port. -/
def State.toPort (s : State) (p : Nat) (m : Msg) : State :=
  let x := s.port p
  (s.setPort p { x with txq := x.txq ++ flitsOf m }).pumpPort p

/-- A message of this module that finds no port UP is discarded and counted (10 R260); it is kept to be sent again (10 R241). -/
def State.holdUnrouted (s : State) (m : Msg) : State :=
  State.count { s with net := { s.net with unrouted := s.net.unrouted ++ [m] } } cRouteDiscard 1

/-- A message handed to the port toward its destination, or kept. -/
def State.carry (s : State) (m : Msg) : State :=
  match s.routePort m.dst with
  | some p => s.toPort p m
  | none => s.holdUnrouted m

/-- A message to the module's own rank goes straight to its inbox. -/
def State.deliverOwn (s : State) (m : Msg) : State := { s with net := { s.net with inbox := s.net.inbox ++ [m] } }

/-! ### Failure reports (11 R269, R270) -/

/-- The three lowest ranks not known to be lost (11 R269). -/
def State.reportTo (s : State) : List Nat := ((List.range s.ranks).filter fun r => !s.recov.lost.contains r).take 3

/-- ATTEMPT of the step in progress, 0 without one. -/
def State.attempt (s : State) : Nat := s.st.run.elim 0 (·.attempt)

/-- The 40 bytes of a failure report toward a rank (11 R270): its global address, then the report. -/
def State.reportBody (s : State) (cls cause status suspect port last rank : Nat) : List Byte :=
  leBytes 8 (rank * 2 ^ 48) ++ leBytes 4 s.st.stepNo ++ leBytes 1 s.attempt ++ leBytes 1 cls ++ leBytes 1 cause ++ leBytes 1 status ++
  leBytes 2 suspect ++ leBytes 1 port ++ leBytes 1 last ++ zeros 4 ++ leBytes 8 s.regs.cycles.toNat ++ zeros 8

/-- A failure report sent: a WRITE on VC0 with OPC 2 (11 R270). A module that is no member carries none (10 R260). -/
def State.report (s : State) (cls cause status suspect port last : Nat) : State :=
  if s.member then
    s.reportTo.foldl (fun s r =>
      let x := s.number (mkMsg 1 2 0 r (s.reportBody cls cause status suspect port last r))
      if s.mach.rank = some r then x.2.deliverOwn x.1 else x.2.carry x.1) s
  else s

/-- A message of the step in progress (10 R241): batches without the EVAL bit, contributions and their re-requests, step deltas, step
barriers, and group traffic. -/
def State.stepTraffic (s : State) (m : Msg) : Bool :=
  s.st.run.isSome &&
  (match m.typ with
   | 1 => decide (2 ≤ m.vc) && decide (m.vc ≤ 9)
   | 2 => (decide (2 ≤ m.vc) && decide (m.vc ≤ 9)) || (m.vc == 0 && m.opc == 1)
   | 3 => true
   | 4 => bits (field m.body 6 1) 0 1 == 0
   | 5 => m.opc == 0 && bits (field m.body 6 1) 0 1 == 0
   | 6 => m.opc == 0 || m.opc == 1 || m.opc == 2 || m.opc == 4
   | 8 => m.opc == 0
   | _ => false)

/-! ### Sending (10 R241, R260) -/

/-- A message of this module handed to the port toward its destination. One of the step in progress that finds no port UP is lost: a step-transient
failure (10 R241). -/
def State.transmit (s : State) (m : Msg) : State :=
  if (s.routePort m.dst).isNone && s.stepTraffic m then (s.count cRouteDiscard 1).report 1 0x02 0 s.ms.position 0xFF 0xFF
  else s.carry m

/-- A message sent by this module. A module that is not live sends nothing (10 R260, R262). -/
def State.send (s : State) (m : Msg) : State :=
  if s.live then
    let r : Msg × State := s.number m
    if s.mach.rank = some m.dst then r.2.deliverOwn r.1 else r.2.transmit r.1
  else s

/-- A message sent to the module that now stands for a rank, this module's own among them. -/
def State.sendAway (s : State) (m : Msg) : State :=
  if s.live then
    let r : Msg × State := s.number m
    r.2.transmit r.1
  else s

/-- The same message sent to several ranks. -/
def State.sendAll (s : State) (ranks : List Nat) (m : Nat → Msg) : State := ranks.foldl (fun s r => s.send (m r)) s

/-- The other members, by rank. -/
def State.others (s : State) : List Nat := (List.range s.ranks).filter fun r => some r != s.mach.rank

/-- A message acted on leaves the inbox (log entry 23), and the receive region of its VC has room for others. -/
def State.took (s : State) (m : Msg) : State :=
  State.releaseCredits { s with net := { s.net with inbox := s.net.inbox.erase m } } m.vc

/-! ### MSGIDs (10 R245) -/

/-- The record of a source and VC as it is after JOIN. -/
def DupRec.fresh : DupRec := { high := 0xFFFFFFFF, marks := [] }

/-- The record after a MSGID, and whether the message is accepted. -/
def DupRec.accept (r : DupRec) (id : Nat) : Bool × DupRec :=
  let d := (id + 2 ^ 32 - r.high) % 2 ^ 32
  let back := (r.high + 2 ^ 32 - id) % 2 ^ 32
  if 1 ≤ d ∧ d < 2 ^ 31 then
    (true, { high := id, marks := id :: r.marks.filter fun x => decide ((id + 2 ^ 32 - x) % 2 ^ 32 < 65536) })
  else if back < 65536 ∧ r.marks.contains id = false then (true, { r with marks := id :: r.marks })
  else (false, r)

/-- This module is the source of a message. -/
def State.isSource (s : State) (m : Msg) : Bool := m.src == s.mach.rank.getD s.spareRank

/-- The report of a lost message to its source on VC0: source, destination, VC and MSGID, and whether it was discarded under 10 R247 (10 R241; log
entry 24 gives its form). -/
def lossReport (m : Msg) (discarded : Bool) : Msg :=
  mkMsg 1 6 0 m.src (leBytes 2 m.src ++ leBytes 2 m.dst ++ leBytes 4 m.vc ++ leBytes 4 m.id ++ leBytes 4 discarded.toNat)

/-- A batch message that is discarded because its STEP or ATTEMPT is another than the attempt in progress is lost (10 R241, R247): it counts as never
accepted, so that it can come again, and its source is told (log entry 121). -/
def State.discarded (s : State) (m : Msg) : State :=
  if s.isSource m then s
  else State.send { s with net := { s.net with dropped := s.net.dropped ++ [{ m with body := m.body.take 16 }] } } (lossReport m true)

/-- A message has the SRC, VC and MSGID of one that was discarded under 10 R247. -/
def State.comesAgain (s : State) (m : Msg) : Bool := s.net.dropped.any fun x => x.src == m.src && x.vc == m.vc && x.id == m.id

/-- A message of this module sent again on the route now in force, with its MSGID while fewer than 32,768 later messages have been
sent on its DST and VC, otherwise with a new one (10 R241, R245). One sent before its destination rank was substituted always takes a new one: its
MSGID has been struck out. -/
def State.resend (s : State) (m : Msg) : State :=
  let n := s.net.msgid.get 0 (m.dst * 16 + m.vc)
  let later := (n + 2 ^ 32 - m.id % 2 ^ 32) % 2 ^ 32
  if m.id < 2 ^ 32 ∧ later ≤ 32768 ∧ later ≠ 0 then s.transmit m else s.send m

/-- The messages that found no port UP are sent again (10 R241). -/
def State.retryUnrouted (s : State) : State := s.net.unrouted.foldl State.resend { s with net := { s.net with unrouted := [] } }

/-- EVAL of a batch header (10 R247). -/
def batchEval (b : List Byte) : Bool := bits (field b 6 1) 0 1 == 1

/-- The step batch belongs to the attempt in progress (10 R247). -/
def State.batchCurrent (s : State) (b : List Byte) : Bool :=
  batchEval b || (s.st.run.isSome && field b 0 4 == s.st.stepNo && field b 4 1 == s.attempt)

/-- A MSGID is one that has been accepted, or the one before the first of all. -/
def DupRec.seen (r : DupRec) (id : Nat) : Bool :=
  let back := (r.high + 2 ^ 32 - id) % 2 ^ 32
  r.marks.contains id || (decide (65536 ≤ back) && decide (back < 2 ^ 31)) || (id == 2 ^ 32 - 1 && r.marks.all fun x => decide (x < 2 ^ 31))

end Sys2Proof.Machine
end

