-- ==== Sys2Proof/Machine/AddressMap.lean ====
section
/-! DEFINITION. The device address map and who may access what (08 R186-R190), with buffers of commands (13 R325). -/

namespace Sys2Proof.Machine

open Sys2Proof

/-- What a device address belongs to (08 R186). -/
inductive Place where
  | hbm | pool | dramFw | dram | sram (core : Nat) | eddy | staging | flash | nowhere
  deriving DecidableEq, Repr

/-- HBM's end and the start of its spare-page pool (08 R190). -/
def poolBase : Nat := 0xFFFC000000
/-- The start of module DRAM. -/
def dramBase : Nat := 0x10000000000
/-- The end of the firmware region of module DRAM (08 R203). -/
def dramFwEnd : Nat := 0x10C00000000
/-- The start of core-local SRAM. -/
def sramBase : Nat := 0x40000000000
/-- The start of Eddy. -/
def eddyBase : Nat := 0x48000000000
/-- The start of Staging SRAM. -/
def stagingBase : Nat := 0x49000000000

/-- The place of one address; only enabled cores' windows are populated. -/
def State.placeOf (s : State) (a : Nat) : Place :=
  if a < poolBase then .hbm
  else if a < dramBase then .pool
  else if a < dramFwEnd then .dramFw
  else if a < 0x20000000000 then .dram
  else if sramBase ≤ a ∧ a < sramBase + 96 * 0x1000000 then
    (if (a - sramBase) % 0x1000000 < 0x600000 ∧ s.fuse.enabled.getLsbD ((a - sramBase) / 0x1000000) then .sram ((a - sramBase) / 0x1000000)
     else .nowhere)
  else if eddyBase ≤ a ∧ a < eddyBase + 0x8000000 then .eddy
  else if stagingBase ≤ a ∧ a < stagingBase + 0x4000000 then .staging
  else if flashBase ≤ a ∧ a < 0x380000000000 then .flash
  else .nowhere

/-- The place of a whole range: that of both its ends when they are one place. Places are contiguous. An empty range has the place of
its address. -/
def State.placeOfRange (s : State) (a n : Nat) : Place :=
  if s.placeOf a = s.placeOf (a + (n - 1)) then s.placeOf a else .nowhere

/-- The loaded program's graph-store region, which only the T9 itself writes (06 R133, 08 R187). -/
def State.graphRegion (s : State) : Region := s.prog.elim { base := 0, len := 0 } fun p => p.place.graph

/-- A range that DMA engines may read (08 R187). -/
def State.dmaReads (s : State) (a n : Nat) : Bool :=
  match s.placeOfRange a n with
  | .hbm | .dram | .sram _ | .eddy | .staging => true
  | .flash => a % 4096 == 0 && n % 4096 == 0
  | _ => false

/-- A range that DMA engines may write; Staging SRAM is not among what they write. -/
def State.dmaWrites (s : State) (a n : Nat) : Bool :=
  match s.placeOfRange a n with
  | .hbm => !overlaps { base := a, len := n } s.graphRegion
  | .dram | .sram _ => true
  | _ => false

/-- A range that units of the module read or write in HBM or in a given core's local SRAM (08 R187). -/
def State.coreReads (s : State) (core a n : Nat) : Bool :=
  match s.placeOfRange a n with
  | .hbm => true
  | .sram c => c == core
  | _ => false

/-- The same for writes. -/
def State.coreWrites (s : State) (core a n : Nat) : Bool :=
  match s.placeOfRange a n with
  | .hbm => !overlaps { base := a, len := n } s.graphRegion
  | .sram c => c == core
  | _ => false

/-- A global address: member rank and device address (08 R188). -/
def globalRank (g : Nat) : Nat := bits g 48 13
/-- Bits [63:61] are zero and the rank is a member's. -/
def State.globalOk (s : State) (g : Nat) : Bool := g / 2 ^ 61 == 0 && decide (globalRank g < s.ranks)

/-- A range that a remote read may name (08 R188). -/
def State.remoteReads (s : State) (a n : Nat) : Bool :=
  match s.placeOfRange a n with
  | .hbm | .dram | .sram _ | .staging => true
  | _ => false

/-- A range that a remote write may name. -/
def State.remoteWrites (s : State) (a n : Nat) : Bool :=
  match s.placeOfRange a n with
  | .hbm => !overlaps { base := a, len := n } s.graphRegion
  | .dram | .sram _ | .staging => true
  | _ => false

/-- The pseudo-channel of an HBM address (08 R189). -/
def pseudoChannel (a : Nat) : Nat := (bits a 8 8) ^^^ (bits a 16 8)

/-- The HBM controller (stack) of a pseudo-channel. -/
def stackOf (pc : Nat) : Nat := pc % 8

/-! ### Buffers of commands (13 R325) -/

/-- The device address of a SPACE 0 buffer. -/
def bufDa (a : Nat) : Nat := bits a 0 48

/-- The flash pages that a range touches. -/
def pagesOf (a n : Nat) : Nat × Nat := (a / 4096, (a + n + 4095) / 4096)

/-- A range touches a flash page reported as unreadable (08 R207). -/
def State.unreadable (s : State) (a n : Nat) : Bool :=
  s.tier.unreadable.any fun p => decide ((pagesOf a n).1 ≤ p) && decide (p < (pagesOf a n).2)

/-- The bytes a command reads from a buffer: `host` is what host memory holds there; a device buffer is read by DMA (log entry 25).
INDEX_RANGE when the access breaks 08 R187, MEMORY_UNCORRECTABLE when it meets a flash page that cannot be read (08 R197, R207). -/
def State.readBuffer (s : State) (a n : Nat) (host : List Byte) : Except Status (List Byte) :=
  if bufSpace a = 1 then .ok (fit n host)
  else if n = 0 then .ok []
  else if !s.dmaReads (bufDa a) n then .error .indexRange
  else if s.unreadable (bufDa a) n then .error .memoryUncorrectable
  else .ok (s.read (bufDa a) n)

/-- A buffer may take `n` bytes of a command's result (08 R187). -/
def State.bufferTakes (s : State) (a n : Nat) : Bool := bufSpace a == 1 || n == 0 || s.dmaWrites (bufDa a) n

/-- A command's result put into its buffer. -/
def State.putBuffer (s : State) (a : Nat) (b : List Byte) : State :=
  if bufSpace a = 1 then { s with host := { s.host with out := s.host.out ++ [.mem (bits a 0 62) b] } } else s.write (bufDa a) b

/-- A command's result written to a buffer; none when the access breaks 08 R187. -/
def State.writeBuffer (s : State) (a : Nat) (b : List Byte) : Option State :=
  if s.bufferTakes a b.length then some (s.putBuffer a b) else none

end Sys2Proof.Machine
end

