-- ==== Sys2Proof/Machine/Barrier.lean ====
section
/-! DEFINITION. Barriers (10 R264) and the arrival of a module that is PREPARED (01 R19, R25, R35). -/

namespace Sys2Proof.Machine

open Sys2Proof

/-- The barrier kinds by OPC (10 R264). -/
def bStepStart : Nat := 0
/-- FINITE. -/
def bFinite : Nat := 1
/-- COMMIT. -/
def bCommit : Nat := 2
/-- FLOOR. -/
def bFloor : Nat := 3
/-- PROGRAM. -/
def bProgram : Nat := 4
/-- WINDOW. -/
def bWindow : Nat := 5

/-- The parent of a rank above 0 in the tree. -/
def barrierParent (r : Nat) : Nat := (r - 1) / 16

/-- The children of a rank among `n` ranks. -/
def barrierChildren (n r : Nat) : List Nat := ((List.range 16).map fun i => 16 * r + 1 + i).filter (· < n)

/-- The smaller of two numbers in each of four 16-bit fields. -/
def minFields (a b : Nat) : Nat :=
  ([0, 16, 32, 48].map fun i => min (bits a i 16) (bits b i 16) * 2 ^ i).sum

/-- Two values combined under a kind. -/
def combineValue (kind a b : Nat) : Nat :=
  match kind with
  | 0 | 5 => if bits a 0 1 = 1 ∨ bits b 0 1 = 1 then 1 else 0
  | 1 => if bits a 0 1 = 1 ∧ bits b 0 1 = 1 then 1 else 0
  | 3 => minFields a b
  | _ => 0

/-- The 16 bytes of a BARRIER payload. -/
def barrierBody (step attempt value : Nat) : List Byte := leBytes 4 step ++ leBytes 1 attempt ++ zeros 3 ++ leBytes 8 value

/-- A barrier of a kind. -/
abbrev State.barrier (s : State) (kind : Nat) : Barrier := s.bar.getD kind default

/-- A barrier of one of the six kinds set. -/
def State.setBarrier (s : State) (kind : Nat) (b : Barrier) : State :=
  { s with bar := (List.range 6).map fun k => if k = kind then b else s.barrier k }

/-- A barrier with nothing arrived. -/
def Barrier.none_ : Barrier := { own := none, kids := [], up := false }

/-- This module's four levels as the VALUE of a FLOOR barrier (10 R257, R264). -/
def State.levels (s : State) : Nat :=
  s.ms.fw.elim 0 fun f => f.yl * 2 ^ 48 + f.level * 2 ^ 32 + f.contract * 2 ^ 16 + 9

/-- The rank that gathers the FLOOR arrival of a sled's spare: the lowest that the sled holds (log entry 35). -/
def State.floorGate (s : State) : Nat :=
  ((List.range s.ranks).find? fun r => nth 0 s.mach.ranks r / 8 == s.ms.position / 8).getD 0

/-- The sled's spare is a member or joins: its JOIN has been seen, and a link toward it, where the map has one, is UP with a HEARTBEAT that
shows it neither QUIESCED nor HALTED. -/
def State.spareStands (s : State) : Bool :=
  (s.sledSpare s.ms.position).elim false fun pos =>
    let l := s.ms.map.elim [] fun m => (m.ports.find? fun e => e.1 == s.ms.position).elim [] (·.2)
    let toward := (List.range 18).filter fun p => (nth none l p).elim false fun e => e.1 == pos
    toward.isEmpty || toward.any fun p => (s.port p).st == .up && decide ((s.port p).nbrState < 6)

/-- This module gathers its sled's spare. -/
def State.gathersSpare (s : State) : Bool := s.mach.rank == some s.floorGate && s.spareStands

/-- Those below this module in the tree: its children, and at a FLOOR barrier the spare that it gathers. -/
def State.below (s : State) (kind : Nat) : List Nat :=
  if s.mach.rank.isNone then []
  else barrierChildren s.ranks s.rank ++ (if kind = bFloor ∧ s.gathersSpare then [s.spareRank] else [])

/-- Once the module and everything below it have arrived with one step number and ATTEMPT, the combined value goes to the parent, or at
the root the release starts (10 R264). A release is a reply (RESP); the root's goes to itself first (log entry 36). -/
def State.gatherBarrier (s : State) (kind : Nat) : State :=
  let b := s.barrier kind
  match b.own with
  | none => s
  | some (st, at_, v) =>
    let kids := b.kids.filter fun k => k.2.1 == st && k.2.2.1 == at_
    if !b.up && (s.below kind).all (fun r => kids.any fun k => k.1 == r) then
      let v := kids.foldl (fun v k => combineValue kind v k.2.2.2) v
      let s := s.setBarrier kind { b with up := true }
      if s.mach.rank = some 0 then s.send (mkMsg 6 kind 0 0 (barrierBody st at_ v) (resp := true))
      else s.send (mkMsg 6 kind 0 (if s.mach.rank.isNone then s.floorGate else barrierParent s.rank) (barrierBody st at_ v))
    else s

/-- The module arrives at a barrier. -/
def State.arrive (s : State) (kind step attempt value : Nat) : State :=
  State.gatherBarrier (s.setBarrier kind { s.barrier kind with
    own := some (step, attempt, value)
    up := false }) kind

/-- The members form the feature floor again (10 R257). -/
def State.formFloor (s : State) : State := s.arrive bFloor 0 0 s.levels

/-- JOIN traffic that tells a rank that the module at a position, a spare, has left or is lost: a WRITE on VC0 with OPC 4 as a reply (log entry 35). -/
def leaveNotice (pos r : Nat) : Msg := mkMsg 1 4 0 r (leBytes 8 (r * 2 ^ 48) ++ leBytes 2 pos ++ zeros 6) (resp := true)

/-- A module that held no rank is no member any more: its sled has no spare, and the members form the feature floor again (10 R257, 11 R293). -/
def State.spareGone (s : State) (pos : Nat) : State :=
  State.formFloor { s with
    mach := { s.mach with joinSeen := s.mach.joinSeen.filter (· != pos) }
    recov := { s.recov with noSpare := s.recov.noSpare || pos / 8 == s.ms.position / 8 } }

/-- A message passed on to the spare of this module's sled, which no rank names: every active module of the sled does so (log entry 35). -/
def State.tellSpare (s : State) (m : Msg) : State :=
  if s.mach.rank.isSome && s.spareStands then s.send { m with dst := s.spareRank } else s

/-- A child's arrival. -/
def State.kidArrives (s : State) (kind src : Nat) (body : List Byte) : State :=
  let b := s.barrier kind
  State.gatherBarrier (s.setBarrier kind { b with
    kids := (b.kids.filter fun k => k.1 != src) ++ [(src, field body 0 4, field body 4 1, field body 8 8)] }) kind

/-- A release passes down the tree and ends the wait, if the module waits at this step number and ATTEMPT; the combined value. -/
def State.release (s : State) (kind : Nat) (body : List Byte) : Option (Nat × State) :=
  let b := s.barrier kind
  match b.own with
  | none => none
  | some (st, at_, _) =>
    if field body 0 4 = st ∧ field body 4 1 = at_ ∧ b.up = true then
      let t := s.setBarrier kind { Barrier.none_ with kids := b.kids.filter fun k => !(k.2.1 == st && k.2.2.1 == at_) }
      let t : State := { t with mach := { t.mach with joining := if kind = bFloor then none else t.mach.joining } }
      some (field body 8 8, t.sendAll (s.below kind) fun r => mkMsg 6 kind 0 r body (resp := true))
    else none

/-- A BARRIER message of a kind: an arrival from below is combined; a release that ends this module's wait answers with the combined
value. -/
def State.barrierIn (s : State) (kind : Nat) (m : Msg) : Option Nat × State :=
  if s.on && (s.member || s.ms.st == .ready) && m.typ == 6 && m.opc == kind then
    let s := s.took m
    if m.resp then
      match s.release kind m.body with
      | some r => (some r.1, r.2)
      | none => (none, s)
    else (none, s.kidArrives kind m.src m.body)
  else (none, s)

/-- A module whose deltas are all acknowledged reports PREPARED by arriving at the commit barrier, once the record of the step before
is complete in flash (01 R25), no EVAL is pinned to a step on this module (01 R35) and this rank's part of a MODEL_HASH is hashed (12 R318). -/
def State.tryPrepared (s : State) : State :=
  match s.st.run with
  | none => s
  | some r =>
    if r.phase = .mirror && s.mir.acks.all (·.acked) && s.st.retPending.isEmpty && s.st.evals.isEmpty &&
        s.st.hashes.all (fun h => !h.asked || h.told) then
      State.arrive { s with
        st := { s.st with run := some { r with phase := .prepared } }
        wd := some .commitBarrier } bCommit s.st.stepNo r.attempt 0
    else s

end Sys2Proof.Machine
end

