-- ==== Sys2Proof/Machine/Dist.lean ====
section
/-! DEFINITION. The counter-based generator (12 R294-R296) and the correctly rounded functions of its distributions (12 R434, R304,
R305), by integer arithmetic in units of 2^-192, far below the distance of any result from a rounding boundary. -/

namespace Sys2Proof.Machine

open Sys2Proof

/-! ### The generator (12 R295) -/

/-- Left rotation of a 32-bit word. -/
def rotl (x : W32) (n : Nat) : W32 := (x <<< n) ||| (x >>> (32 - n))

/-- Rotations of c1 by round. -/
def rRot : List Nat := [13, 15, 26, 6, 17, 29, 16, 24, 13, 15, 26, 6]
/-- Rotations of c3 by round. -/
def sRot : List Nat := [16, 24, 13, 15, 26, 6, 17, 29, 16, 24, 13, 15]

/-- The four counter words. -/
structure GenState where
  c0 : W32
  c1 : W32
  c2 : W32
  c3 : W32
  deriving DecidableEq, Repr

/-- One round. -/
def genRound (k0 k1 : W32) (g : GenState) (i : Nat) : GenState :=
  let c0 := g.c0 + g.c1
  let c1 := rotl g.c1 (nth 0 rRot i) ^^^ c0
  let c2 := g.c2 + g.c3
  let c3 := rotl g.c3 (nth 0 sRot i) ^^^ c2
  let n := BitVec.ofNat 32 (i + 1)
  if i % 2 = 1 then { c0 := c0 ^^^ (k0 + n), c1 := c3, c2 := c2 ^^^ (k1 + n), c3 := c1 }
  else { c0 := c0, c1 := c3, c2 := c2, c3 := c1 }

/-- The output of twelve rounds. -/
def generate (c0 c1 c2 c3 k0 k1 : W32) : GenState :=
  (List.range 12).foldl (genRound k0 k1) { c0 := c0, c1 := c1, c2 := c2, c3 := c3 }

/-- The output for a logical index, c2, a purpose tag and a tensor or specification under a seed (12 R294). -/
def generateAt (seed : W64) (index c2 tag tensor : Nat) : GenState :=
  generate (BitVec.ofNat 32 index) (BitVec.ofNat 32 (index / 2 ^ 32)) (BitVec.ofNat 32 c2) (BitVec.ofNat 32 (tag * 2 ^ 16 + tensor))
    (BitVec.ofNat 32 seed.toNat) (BitVec.ofNat 32 (seed.toNat / 2 ^ 32))

/-- G as a number (12 R296). -/
def GenState.value (g : GenState) : Nat := g.c0.toNat + 2 ^ 32 * g.c1.toNat + 2 ^ 64 * g.c2.toNat + 2 ^ 96 * g.c3.toNat

/-! ### Fixed point -/

/-- Fraction bits. -/
def fixBits : Nat := 192
/-- One. -/
def fixOne : Nat := 2 ^ fixBits
/-- A product. -/
def fixMul (a b : Nat) : Nat := a * b / fixOne

/-- Σ over i of term × z^i / (2 i + 1), with alternating signs when `alt`: `fuel` terms from number `i` on. -/
def oddSeries (alt : Bool) (z : Nat) : Nat → Nat → Nat → Int → Int
  | 0, _, _, acc => acc
  | fuel + 1, i, term, acc =>
    let t : Int := (term / (2 * i + 1) : Nat)
    oddSeries alt z fuel (i + 1) (fixMul term z) (if alt && i % 2 == 1 then acc - t else acc + t)

/-- atan(1 / q). -/
def atanInv (q : Nat) : Int := oddSeries true (fixOne / (q * q)) 60 0 (fixOne / q) 0

/-- π. -/
def fixPi : Nat := (16 * atanInv 5 - 4 * atanInv 239).toNat

/-- ln((1 + z) / (1 - z)) for a small z. -/
def lnRatio (z : Nat) : Nat := 2 * (oddSeries false (fixMul z z) 70 0 z 0).toNat

/-- ln 2. -/
def fixLn2 : Nat := lnRatio (fixOne / 3)

/-- ln k of a positive integer: its power of two and a ratio between 1 and 2. -/
def lnNat (k : Nat) : Nat :=
  let e := Nat.log2 k
  e * fixLn2 + lnRatio ((k - 2 ^ e) * fixOne / (k + 2 ^ e))

/-- ln_rn(k × 2^-24) for k from 1 to 2^24, as an FP32 code (12 R434). -/
def lnRn (k : Nat) : Nat :=
  let v := 24 * fixLn2 - lnNat k
  (fp32.round (v != 0) v (-192)).1

/-- The integer square root, bit by bit from bit `n - 1`. -/
def isqrtFrom (v : Nat) : Nat → Nat → Nat
  | 0, r => r
  | n + 1, r => let t := r + 2 ^ n; isqrtFrom v n (if t * t ≤ v then t else r)

/-- The integer square root of a number below 2^(2n). -/
def isqrt (n v : Nat) : Nat := isqrtFrom v n 0

/-- sqrt_rn of a non-negative FP32 value m × 2^e, as an FP32 code. The root carries more bits than any result and a last bit that says
whether it is inexact. -/
def sqrtRn (m : Nat) (e : Int) : Nat :=
  let odd := e % 2 != 0
  let m := (if odd then 2 * m else m) * 2 ^ 80
  let e := (if odd then e - 1 else e) - 80
  let r := isqrt 60 m
  (fp32.round false (2 * r + (if r * r = m then 0 else 1)) (e / 2 - 1)).1

/-- Σ of the Taylor terms of cos or sin: each term is the one before × θ² / ((n + 1) (n + 2)), signs alternating. -/
def taylor (x2 : Nat) : Nat → Nat → Nat → Bool → Int → Int
  | 0, _, _, _, acc => acc
  | fuel + 1, n, term, neg, acc =>
    taylor x2 fuel (n + 2) (fixMul term x2 / ((n + 1) * (n + 2))) (!neg) (if neg then acc - term else acc + term)

/-- cos θ of a fixed-point θ up to 1. -/
def fixCos (x : Nat) : Nat := (taylor (fixMul x x) 60 0 fixOne false 0).toNat
/-- sin θ. -/
def fixSin (x : Nat) : Nat := (taylor (fixMul x x) 60 1 x false 0).toNat

/-- cospi_rn(n × 2^-23) for n below 2^24, as an FP32 code: folded into a quarter turn, then cos or sin of at most π/4. -/
def cospiRn (n : Nat) : Nat :=
  let n := if 2 ^ 23 < n then 2 ^ 24 - n else n
  let neg := decide (2 ^ 22 < n)
  let n := if neg then 2 ^ 23 - n else n
  let v := if n ≤ 2 ^ 21 then fixCos (fixPi * n / 2 ^ 23) else fixSin (fixPi * (2 ^ 22 - n) / 2 ^ 23)
  (fp32.round (neg && v != 0) v (-192)).1

/-! ### The half-normal quantile (12 R305) -/

/-- ∫ from 0 to x of exp(-t²/2) dt, as a series in fixed point: terms x (-x²/2)^n / (n! (2n + 1)). -/
def gaussSeries (x2 : Nat) : Nat → Nat → Nat → Int → Int
  | 0, _, _, acc => acc
  | fuel + 1, n, term, acc =>
    let t : Int := (term / (2 * n + 1) : Nat)
    gaussSeries x2 fuel (n + 1) (fixMul term x2 / (2 * (n + 1))) (if n % 2 == 1 then acc - t else acc + t)

/-- The integral from 0 to m × 2^e. -/
def gaussIntegral (m : Nat) (e : Int) : Int :=
  let x := inUnits m e (-192)
  gaussSeries (fixMul x x) 150 0 x 0

/-- The square root of 2π. -/
def sqrtTwoPi : Nat := isqrt 200 (2 * fixPi * fixOne)

/-- A non-negative FP32 code's value as (m, e). -/
def codeParts (c : Nat) : Nat × Int :=
  match fp32.decode c with
  | .fin _ m e => (m, e)
  | _ => (0, 0)

/-- The largest FP32 code, bit by bit from bit `n - 1`, whose integral does not exceed a target. -/
def quantileFrom (target : Int) : Nat → Nat → Nat
  | 0, c => c
  | n + 1, c =>
    let t := c + 2 ^ n
    let p := codeParts t
    quantileFrom target n (if t ≤ 0x41000000 ∧ gaussIntegral p.1 p.2 ≤ target then t else c)

/-- The FP32 code nearest to the quantile whose half-normal probability is a / b: the code below it, or the next when the quantile lies
above the midpoint. -/
def halfNormal (a b : Nat) : Nat :=
  let target : Int := (a * sqrtTwoPi / b : Nat)
  let c := quantileFrom target 31 0
  let p := codeParts c
  if gaussIntegral (2 * p.1 + 1) (p.2 - 1) < target then c + 1 else c

/-- Knot j of NORMAL_TAB. -/
def knot (j : Nat) : Nat := if j = 0 then 0 else if j < 1024 then halfNormal j 2048 else halfNormal (2 ^ 31 - 1) (2 ^ 32)

/-! ### Values from G (12 R303-R305) -/

/-- A zero that is never −0. -/
def noNegZero (c : Nat) : Nat := if c = fp32.signBit then 0 else c

/-- NORMAL_BM's z. -/
def normalBmZ (g : GenState) : Nat :=
  let a := lnRn (g.c0.toNat / 256 + 1)
  let p := codeParts (a % fp32.signBit)
  let r := sqrtRn p.1 (p.2 + 1)
  let c := cospiRn (g.c1.toNat / 256)
  noNegZero (fp32.mulVals (fp32.decode r) (fp32.decode c)).1

/-- NORMAL_TAB's z. -/
def normalTabZ (g : GenState) : Nat :=
  let v := g.c0.toNat % 2 ^ 31
  let j := v / 2 ^ 21
  let q := fp32.decode (knot j)
  let d := (fp32.addVals (fp32.decode (knot (j + 1))) q.neg).1
  let z := (fp32.fmaVals (.fin false (v % 2 ^ 21) (-21)) (fp32.decode d) q).1
  if g.c0.getLsbD 31 ∧ z ≠ 0 then z + fp32.signBit else z

/-- A standard value scaled: fma(z, std, mean). -/
def scaleNormal (z std mean : Nat) : Nat × AFlags := fp32.fmaVals (fp32.decode z) (fp32.decode std) (fp32.decode mean)

/-- UNIFORM: fma(u, hi − lo, lo). -/
def uniformValue (g : GenState) (lo hi : Nat) : Nat × AFlags :=
  let d := fp32.addVals (fp32.decode hi) (fp32.decode lo).neg
  let r := fp32.fmaVals (.fin false (g.c0.toNat / 256) (-24)) (fp32.decode d.1) (fp32.decode lo)
  (r.1, d.2.or r.2)

/-- P of BERNOULLI: p × 2^32 rounded. -/
def keepThreshold (p : Nat) : Nat := (scaledInt (fp32.decode p) (-32)).toNat

/-- A parameter p is a number from 0 to 1. -/
def probabilityOk (p : Nat) : Bool :=
  match fp32.decode p with
  | .fin neg m e => m == 0 || (!neg && !((FVal.fin false 1 0).lt (.fin neg m e)))
  | _ => false

end Sys2Proof.Machine
end

