-- ==== Sys2Proof/Machine/Graph.lean ====
section
/-! DEFINITION. The graph store (06 R128-R141, R148): owners, runs, edge sequence numbers, INGEST and compaction. The node table, the runs
and the alias tables lie in device memory in the region that the loader placed. -/

namespace Sys2Proof.Machine

open Sys2Proof

/-! ### Owners (06 R128, R129) -/

/-- The id that marks an empty draw or names no row. -/
def noId : Nat := 0xFFFFFFFFFF

/-- The rank that BLOCK gives item `i` of `n` items over `r` ranks. -/
def blockOwner (n r i : Nat) : Nat :=
  let q := n / r
  let m := n % r
  if i < m * (q + 1) then i / (q + 1) else m + (i - m * (q + 1)) / q

/-- The first item of a rank under BLOCK. -/
def blockFirst (n r k : Nat) : Nat := k * (n / r) + min k (n % r)

/-- The owner of a node. -/
def nodeOwner (d : Decl) (ranks node : Nat) : Nat :=
  match d.partTable with
  | some t => nth 0 t node
  | none => blockOwner d.nodes ranks node

/-- The local index of a node at its owner: its place among the ids its owner holds. -/
def nodeIndex (d : Decl) (ranks node : Nat) : Nat :=
  match d.partTable with
  | some t => ((t.take node).filter fun o => o == nth 0 t node).length
  | none => node - blockFirst d.nodes ranks (nodeOwner d ranks node)

/-- The nodes that a rank owns, ascending. -/
def ownedNodes (d : Decl) (ranks rank : Nat) : List Nat := (List.range d.nodes).filter fun n => nodeOwner d ranks n == rank

/-! ### Edge records and runs (06 R130-R134) -/

/-- An edge record. -/
structure Edge where
  nbr : Nat
  ts : Nat
  etype : Nat
  weight : Nat
  flags : Nat
  deriving DecidableEq, Repr, Inhabited

/-- The edge record that 16 bytes hold. -/
def edgeOf (b : List Byte) : Edge where
  nbr := field b 0 5
  ts := field b 5 6
  etype := field b 11 1
  weight := field b 12 2
  flags := field b 14 2

/-- The 16 bytes of an edge record. -/
def edgeBytes (e : Edge) : List Byte := leBytes 5 e.nbr ++ leBytes 6 e.ts ++ leBytes 1 e.etype ++ leBytes 2 e.weight ++ leBytes 2 e.flags

/-- DEAD, set by a tombstone. -/
def Edge.dead (e : Edge) : Bool := e.flags.testBit 15

/-- A node-table entry. -/
structure RunEntry where
  addr : Nat
  len : Nat
  cap : Nat
  live : Nat
  alias_ : Nat
  deriving DecidableEq, Repr, Inhabited

/-- The entry that 32 bytes hold. -/
def runEntryOf (b : List Byte) : RunEntry where
  addr := field b 0 6
  len := field b 8 4
  cap := field b 12 4
  live := field b 16 4
  alias_ := field b 20 6

/-- The 32 bytes of an entry. -/
def runEntryBytes (r : RunEntry) : List Byte :=
  leBytes 6 r.addr ++ zeros 2 ++ leBytes 4 r.len ++ leBytes 4 r.cap ++ leBytes 4 r.live ++ leBytes 6 r.alias_ ++ zeros 6

/-- The loaded declarations, or none. -/
def State.decl (s : State) : Option Decl := s.prog.map (·.decl)

/-- The address of an owned node's entry. -/
def State.entryAddr (s : State) (node : Nat) : Nat := s.graphRegion.base + 32 * (s.decl.elim 0 fun d => nodeIndex d s.ranks node)

/-- The entry of an owned node. -/
def State.entry (s : State) (node : Nat) : RunEntry := runEntryOf (s.read (s.entryAddr node) 32)

/-- An entry written. -/
def State.setEntry (s : State) (node : Nat) (r : RunEntry) : State := s.write (s.entryAddr node) (runEntryBytes r)

/-- The records of a run, live and dead. -/
def State.runRecords (s : State) (r : RunEntry) : List Edge := (List.range r.len).map fun i => edgeOf (s.read (r.addr + 16 * i) 16)

/-- The records of a run stored from its first position. -/
def State.putRecords (s : State) (r : RunEntry) (es : List Edge) : State := s.write r.addr (es.flatMap edgeBytes)

/-- The live records of a run in run order. -/
def liveRecords (es : List Edge) : List Edge := es.filter fun e => !e.dead

/-- Live records with their ESEQ: the ordinal among the live records with the same TS (06 R132). -/
def withEseq (live : List Edge) : List (Edge × Nat) :=
  (List.range live.length).map fun i =>
    let e := nth default live i
    (e, ((live.take i).filter fun x => x.ts == e.ts).length)

/-! ### Space in the region (06 R133) -/

/-- The ranges of the region in use: the node table, and every run and alias table of an owned node. -/
def State.graphUsed (s : State) (d : Decl) : List Region :=
  let nodes := ownedNodes d s.ranks s.rank
  { base := s.graphRegion.base, len := 32 * nodes.length } :: nodes.flatMap fun n =>
    let r := s.entry n
    [{ base := r.addr, len := 16 * r.cap }, { base := r.alias_, len := if r.alias_ = 0 then 0 else 8 * r.live }]

/-- The first address of the region at which `len` bytes fit, on a multiple of `align` (log entry 12: first fit). -/
def State.graphFit (s : State) (d : Decl) (len align : Nat) : Option Nat :=
  let used := (s.graphUsed d).filter fun r => r.len != 0
  let starts := s.graphRegion.base :: used.map fun r => r.base + r.len
  ((starts.map fun a => roundUp a align).filter fun a =>
    within s.graphRegion a len && used.all fun r => !overlaps r { base := a, len := len }).foldl
      (fun b a => match b with
        | none => some a
        | some x => some (min x a)) none

/-- CAP of a run with this many live records (06 R134). -/
def capFor (live : Nat) : Nat := roundUp (live + max 16 (ceilDiv live 4)) 16

/-- A run allocated or relocated for an owned node: its live records are copied to new space, and then its old space is freed (06 R134). None when the
region has no room for the copy. -/
def State.relocate (s : State) (d : Decl) (node : Nat) : Option State :=
  let r := s.entry node
  let live := liveRecords (s.runRecords r)
  let cap := capFor live.length
  (s.graphFit d (16 * cap) 256).map fun a =>
    let e : RunEntry := { r with
      addr := a
      len := live.length
      cap := cap }
    (s.setEntry node e).putRecords e live

/-- A run qualifies for compaction (06 R134). -/
def qualifies (r : RunEntry) : Bool := r.cap != 0 && (r.len == r.cap || decide (ceilDiv r.len 4 ≤ r.len - r.live))

/-- Background compaction: up to `n` relocations of qualifying runs in ascending node id, each counted (06 R135). A run that finds no room is left
for another boundary. -/
def State.compact (s : State) (d : Decl) : List Nat → Nat → State × List Nat
  | [], _ => (s, [])
  | _ :: _, 0 => (s, [])
  | x :: t, n + 1 =>
    match (if qualifies (s.entry x) then s.relocate d x else none) with
    | none => s.compact d t (n + 1)
    | some u =>
      let r := (u.count cCompactRuns 1).compact d t n
      (r.1, x :: r.2)

/-! ### Alias tables (06 R148) -/

/-- Positive finite weights in units of one common power of two; others 0. -/
def aliasWeights (es : List Edge) : List Nat :=
  let vs := es.map fun e => bf16.decode e.weight
  vs.map fun v =>
    match v with
    | .fin false m e => inUnits m e (-140)
    | _ => 0

/-- The pairing of small and large columns: numerators over `tot`, with fuel for every column. Answers (column, threshold, alias). -/
def aliasPairs (tot : Nat) : Nat → List (Nat × Nat) → List (Nat × Nat) → List (Nat × Nat × Nat)
  | 0, _, _ => []
  | fuel + 1, small, large =>
    match small, large with
    | (i, a) :: st, (l, b) :: lt =>
      let b' := b - (tot - a)
      (i, a, l) :: (if b' < tot then aliasPairs tot fuel (st ++ [(l, b')]) lt else aliasPairs tot fuel st ((l, b') :: lt))
    | _, _ => []

/-- The alias table of a run's live records: (THR, ALIAS) by live rank. -/
def buildAlias (es : List Edge) : List (Nat × Nat) :=
  let w := aliasWeights es
  let n := w.length
  let tot := w.sum
  if tot = 0 then (List.range n).map fun i => (0, i)
  else
    let q := (List.range n).map fun i => (i, n * nth 0 w i)
    let ps := aliasPairs tot (2 * n) (q.filter fun x => decide (x.2 < tot)) (q.filter fun x => decide (tot ≤ x.2))
    (List.range n).map fun i =>
      match ps.find? fun x => x.1 == i with
      | some x => (min (rneDiv (x.2.1 * 2 ^ 32) tot) (2 ^ 32 - 1), x.2.2)
      | none => (0, i)

/-- Alias tables exist only for programs that declare WEIGHTED in some specification (06 R143). -/
def hasWeighted (d : Decl) : Bool := d.specs.any fun sp => sp.hops.any fun h => h.mode == .weighted

/-- The alias table of an owned node rebuilt; none when the region has no room. -/
def State.rebuildAlias (s : State) (d : Decl) (node : Nat) : Option State :=
  let r := s.entry node
  let live := liveRecords (s.runRecords r)
  let t := s.setEntry node { r with alias_ := 0 }
  if !hasWeighted d || live.isEmpty then some t
  else
    (t.graphFit d (8 * live.length) 8).map fun a =>
      (t.setEntry node { r with alias_ := a }).write a ((buildAlias live).flatMap fun x => leBytes 4 x.1 ++ leBytes 4 x.2)

/-! ### INGEST (06 R136-R139) -/

/-- An INGEST record. -/
structure IngestRec where
  src : Nat
  op : Nat
  edge : Edge
  resv : Nat
  deriving DecidableEq, Repr, Inhabited

/-- The records of a batch. -/
def ingestRecords (b : List Byte) : List IngestRec :=
  (groupsOf 32 b).map fun x => {
    src := field x 0 5
    op := field x 5 1
    edge := edgeOf (slice x 8 16)
    resv := field x 6 2 + field x 24 8 }

/-- Checks 1 and 2 of 06 R137 over the whole batch. -/
def State.ingestCheck (s : State) (d : Decl) (rs : List IngestRec) : Option Status :=
  if rs.any fun r => !((r.op == 1 || r.op == 2) && r.resv == 0 && (r.op == 2 || (!r.edge.dead && r.edge.nbr != noId))) then some .formatInvalid
  else if rs.any fun r => !(decide (r.src < d.nodes) && decide (r.edge.nbr < d.nodes) && nodeOwner d s.ranks r.src == s.rank) then some .indexRange
  else none

/-- A record put directly after every record whose TS is at most its own (06 R138). -/
def insertEdge (e : Edge) (es : List Edge) : List Edge := (es.filter fun x => decide (x.ts ≤ e.ts)) ++ [e] ++ es.filter fun x => decide (e.ts < x.ts)

/-- DEAD set on the oldest live record with the same NBR, TS and ETYPE; none when there is none. -/
def deleteEdge (e : Edge) : List Edge → Option (List Edge)
  | [] => none
  | x :: t =>
    if !x.dead && x.nbr == e.nbr && x.ts == e.ts && x.etype == e.etype then some ({ x with flags := x.flags + 2 ^ 15 } :: t)
    else (deleteEdge e t).map (x :: ·)

/-- An INSERT: the run is allocated or, when it is full, relocated first; none when there is no room. -/
def State.insertOne (s : State) (d : Decl) (r : IngestRec) : Option State :=
  let e := s.entry r.src
  let room : Option State :=
    if e.cap = 0 then s.relocate d r.src
    else if e.len = e.cap then (s.relocate d r.src).map fun t => t.count cIngestRelocate 1
    else some s
  room.map fun t =>
    let e := t.entry r.src
    let e' : RunEntry := { e with
      len := e.len + 1
      live := e.live + 1 }
    State.count (State.setEntry (t.putRecords e (insertEdge r.edge (t.runRecords e))) r.src e') cIngestRecords 1

/-- A DELETE. -/
def State.deleteOne (s : State) (r : IngestRec) : State :=
  let e := s.entry r.src
  match deleteEdge r.edge (s.runRecords e) with
  | some es => State.count (State.setEntry (s.putRecords e es) r.src { e with live := e.live - 1 }) cIngestRecords 1
  | none => s.count cIngestDeleteMiss 1

/-- The records of a batch applied in order; none when there is no room. -/
def State.ingestAll (s : State) (d : Decl) : List IngestRec → Option State
  | [] => some s
  | r :: t => (if r.op = 1 then s.insertOne d r else some (s.deleteOne r)).bind fun s => s.ingestAll d t

/-- No node has more than 524,288 live records sharing one TS (06 R137). -/
def State.tsOk (s : State) (node : Nat) : Bool :=
  let live := liveRecords (s.runRecords (s.entry node))
  live.all fun e => decide ((live.filter fun x => x.ts == e.ts).length ≤ 524288)

/-- A list without repeats, first places kept. -/
def distinct {α : Type} [BEq α] (l : List α) : List α := (l.foldl (fun a x => if a.contains x then a else x :: a) []).reverse

/-- Alias tables of several nodes rebuilt. -/
def State.rebuildAll (s : State) (d : Decl) : List Nat → Option State
  | [] => some s
  | n :: t => (s.rebuildAlias d n).bind fun s => s.rebuildAll d t

/-- The ranges of a node that its mirror follows: entry, run and alias table. -/
def State.nodeRegions (s : State) (node : Nat) : List Region :=
  let r := s.entry node
  { base := s.entryAddr node, len := 32 } ::
    (span2 r.addr (16 * r.len) ++ (if r.alias_ = 0 then [] else span2 r.alias_ (8 * r.live)))
where
  /-- A range unless it is empty. -/
  span2 (a n : Nat) : List Region := if n = 0 then [] else [{ base := a, len := n }]

/-- INGEST at its turn: refused with a code and without effect, or applied, with the ranges that changed. The graph epoch rises whenever
it applies (06 R139). -/
def State.applyIngest (s : State) (batch : List Byte) : Except Status (State × List Region) :=
  match s.decl with
  | none => .error .stateInvalid
  | some d =>
    let rs := ingestRecords batch
    match s.ingestCheck d rs with
    | some x => .error x
    | none =>
      match s.ingestAll d rs with
      | none => .error .resourceShort
      | some t =>
        let nodes := (distinct (rs.map (·.src))).filter fun n => t.entry n != s.entry n || t.runRecords (t.entry n) != s.runRecords (s.entry n)
        if !nodes.all t.tsOk then .error .resourceShort
        else
          match t.rebuildAll d nodes with
          | none => .error .resourceShort
          | some u => .ok ({ u with st := { u.st with epoch := (u.st.epoch + 1) % 2 ^ 64 } }, nodes.flatMap u.nodeRegions)

/-! ### What a draw may see (06 R141-R143) -/

/-- The eligible records of a hop for a time bound, with their ESEQ, in run order: each has TS below the bound (06 R141, R142). -/
def eligible (h : Hop) (tb : Nat) (live : List Edge) : List (Edge × Nat) :=
  (withEseq live).filter fun x =>
    decide (x.1.ts < tb) && h.typeMask.getLsbD x.1.etype && (h.mode != .temporalWindow || decide (tb - h.window ≤ x.1.ts))

/-- A child of a draw: the record taken with its ESEQ, or none for an empty slot. -/
structure Child where
  took : Option (Edge × Nat)
  trunc : Bool := false
  slow : Bool := false
  deriving DecidableEq, Repr, Inhabited

/-- An empty child. -/
def Child.empty : Child := { took := none }

/-- Generator output of a slot and an attempt (06 R147). -/
abbrev DrawGen := Nat → Nat → GenState

/-- U of a counter. -/
def GenState.u (g : GenState) : Nat := g.c0.toNat + 2 ^ 32 * g.c1.toNat

/-- pick(m): an index below m. -/
def GenState.pick (g : GenState) (m : Nat) : Nat := g.u * m / 2 ^ 64

/-- A number put into its place of a rising list. -/
def insertRank (x : Nat) : List Nat → List Nat
  | [] => [x]
  | a :: t => if a < x then a :: insertRank x t else x :: a :: t

/-- Floyd's selection of f ranks of n, driven by the children's own counters (06 R147). -/
def choose (gen : DrawGen) (slot0 n f : Nat) : List Nat :=
  ((List.range f).foldl (fun (c : List Nat) i =>
    let j := n - f + i
    let r := (gen (slot0 + i) 0).pick (j + 1)
    insertRank (if c.contains r then j else r) c) [])

/-- A record has a positive finite weight. -/
def Edge.weighs (e : Edge) : Bool :=
  match bf16.decode e.weight with
  | .fin false m _ => m != 0
  | _ => false

/-- The fall-back of WEIGHTED: the first record whose running sum of weights exceeds U × W / 2^64. -/
def weightedFall (u : Nat) (es : List (Edge × Nat)) : Option (Edge × Nat) :=
  let ws := aliasWeights (es.map (·.1))
  let total := ws.sum
  ((List.range es.length).find? fun i => decide (u * total < ((ws.take (i + 1)).sum) * 2 ^ 64)).bind fun i => es[i]?

/-- One WEIGHTED child: up to 32 attempts on the alias table, then the exact fall-back. -/
def weightedChild (gen : DrawGen) (slot : Nat) (table : List (Nat × Nat)) (live : List (Edge × Nat)) (es : List (Edge × Nat)) :
    Nat → Nat → Child
  | 0, _ =>
    match weightedFall (gen slot 32).u es with
    | some x => { took := some x, slow := true }
    | none => { took := none, slow := true }
  | fuel + 1, a =>
    let g := gen slot a
    let c := g.pick table.length
    let t := nth (0, 0) table c
    let r := if t.2 = c ∨ g.c2.toNat < t.1 then c else t.2
    match live[r]? with
    | some x => if es.contains x && x.1.weighs then { took := some x } else weightedChild gen slot table live es fuel (a + 1)
    | none => weightedChild gen slot table live es fuel (a + 1)

/-- Children filled from the first, the rest empty. -/
def fillChildren (f : Nat) (l : List Child) : List Child := (l ++ List.replicate f Child.empty).take f

/-- The children of a parent under its hop's rule (06 R147). -/
def drawChildren (h : Hop) (tb slot0 : Nat) (gen : DrawGen) (table : List (Nat × Nat)) (live : List Edge) : List Child :=
  let es := eligible h tb live
  let n := es.length
  let f := h.fanout
  let take := fun (l : List (Edge × Nat)) => fillChildren f (l.map fun x => { took := some x })
  match h.mode with
  | .uniform | .temporalWindow =>
    if h.repl then
      if n = 0 then fillChildren f [] else fillChildren f ((List.range f).map fun j => { took := es[(gen (slot0 + j) 0).pick n]? })
    else if n ≤ f then take es
    else fillChildren f ((choose gen slot0 n f).map fun r => { took := es[r]? })
  | .weighted =>
    if n = 0 then fillChildren f []
    else fillChildren f ((List.range f).map fun j => weightedChild gen (slot0 + j) table (withEseq live) es 32 0)
  | .temporalRecent => take ((es.drop (n - min n f)).reverse)
  | .full => if n ≤ f then take es else fillChildren f ((es.drop (n - f)).map fun x => { took := some x, trunc := true })

/-- The parent is ranked by counting (06 R152): its run holds dead records, or its mask excludes a type within the bound. -/
def countPath (h : Hop) (tb : Nat) (es : List Edge) : Bool :=
  es.any (·.dead) || es.any fun e => decide (e.ts < tb) && !h.typeMask.getLsbD e.etype

/-- The alias table of an owned node as stored. -/
def State.aliasTable (s : State) (r : RunEntry) : List (Nat × Nat) :=
  (List.range r.live).map fun i => (s.readNat (r.alias_ + 8 * i) 4, s.readNat (r.alias_ + 8 * i + 4) 4)

/-! ### Ledger entries (06 R145, R146) -/

/-- F_h: slots of hop h, h from 1. -/
def hopSlots (fs : List Nat) (h : Nat) : Nat := (fs.take h).foldl (· * ·) 1

/-- base_h: the first slot of hop h; base_0 is 0. -/
def hopBase (fs : List Nat) (h : Nat) : Nat := ((List.range h).map (hopSlots fs)).sum

/-- S: the slots of a target besides itself. -/
def slotCount (fs : List Nat) : Nat := ((List.range fs.length).map fun i => hopSlots fs (i + 1)).sum

/-- The number of step records kept: 4,096 unless the program declares it (12 R307). -/
def ringRecords (d : Decl) : Nat := if d.ringDeclared then d.ringLen else 4096

/-- Bytes kept for one record: the largest declared, in units of 64 KiB. -/
def recSize (d : Decl) : Nat := roundUp d.ringMax 65536

/-- The owner table of PART TABLE as bytes: a 16-bit rank for each node (06 R129). -/
def ownerTable (d : Decl) : List Byte := (d.partTable.getD []).flatMap (leBytes 2)

/-- A declared sampling specification. -/
def State.spec (s : State) (i : Nat) : Option SampSpec := s.decl.bind fun d => d.specs[i]?

/-- Fan-outs of a specification. -/
def fanouts (sp : SampSpec) : List Nat := sp.hops.map (·.fanout)

/-- Child j of the parent in slot p of hop h − 1. -/
def childSlot (fs : List Nat) (h p j : Nat) : Nat := hopBase fs h + (p - hopBase fs (h - 1)) * nth 0 fs (h - 1) + j

/-- A Ledger entry of 16 bytes for a child of hop h (from 1) and a parent slot. -/
def ledgerEntry (h parent : Nat) (c : Child) : List Byte :=
  let x := c.took.getD ({ nbr := noId, ts := 0, etype := 0, weight := 0, flags := 0 }, 0)
  leBytes 5 x.1.nbr ++ leBytes 6 x.1.ts ++ leBytes 5 ((h - 1) * 2 ^ 38 + parent * 2 ^ 19 + x.2)

/-- The attribute record of 8 bytes. -/
def attrRecord (c : Child) : List Byte :=
  match c.took with
  | none => leBytes 2 0x0100 ++ zeros 6
  | some x => leBytes 1 x.1.etype ++ leBytes 1 (2 * c.trunc.toNat + 4 * c.slow.toNat) ++ leBytes 2 x.1.weight ++
      leBytes 2 (x.1.flags % 2 ^ 15) ++ zeros 2

end Sys2Proof.Machine
end

