-- ==== Sys2Proof/Machine/ReadyList.lean ====
section
/-! DEFINITION. The ready list of a Weir (14 R354-R361): task states, dispatch, flags, waits, starts, and what is held until there is room. -/

namespace Sys2Proof.Machine

open Sys2Proof

/-! ### Dispatch (14 R355, R361) -/

/-- Entries of the ready list (14 R361). -/
def readySize : Nat := 32

/-- The ready list has an entry free. -/
def Weir.room (w : Weir) : Bool := decide (w.ready.length < readySize)

/-- The READY task of the highest level, earliest within its level (14 R355). -/
def Weir.best (w : Weir) : Option Nat :=
  w.ready.foldl (fun b x =>
    match b with
    | none => some x
    | some y => if (w.task y).level < (w.task x).level then some x else some y) none

/-- The control sequencer, when it is free, runs the best READY task (14 R355). -/
def State.dispatch (s : State) (core : Nat) : State :=
  let w := s.weir core
  match w.running, w.best with
  | none, some x =>
    State.count (s.setWeir core { w with
      ready := w.ready.erase x
      running := some x
      tasks := modNth w.tasks x fun t => { t with st := .running } }) (cCore (s.physical core) 19) 1
  | _, _ => s

/-- A task becomes READY, last of the list. -/
def Weir.makeReady (w : Weir) (slot : Nat) : Weir := { w with
  ready := w.ready ++ [slot]
  tasks := modNth w.tasks slot fun t => { t with st := .ready } }

/-! ### Flags and waits (14 R357-R359) -/

/-- A wait is satisfied by a set of flags: all of its mask, or any of it. -/
def Task.satisfied (t : Task) (flags : BitVec 32) : Bool :=
  if t.all then flags &&& t.mask == t.mask else flags &&& t.mask != 0

/-- The task waits for flags and these satisfy it. -/
def Task.wakes (t : Task) (flags : BitVec 32) : Bool := t.st == .waiting && t.waitFlags && t.satisfied flags

/-- A satisfied wait returns the flags of its mask that are set and clears them (14 R357). -/
def Task.taken (t : Task) (flags : BitVec 32) : Task := { t with
  flags := flags &&& ~~~t.mask
  returned := flags &&& t.mask
  waitFlags := false
  timer := 0 }

/-- One flag of a task is set; none when the task it wakes finds the ready list full (14 R358, R361). A flag set again stays set, and
the merge is counted. -/
def State.trySetFlag (s : State) (core slot flag : Nat) : Option State :=
  let w := s.weir core
  let t := w.task slot
  let f := t.flags ||| BitVec.ofNat 32 (2 ^ flag)
  if t.flags.getLsbD flag then some (s.count (cCore (s.physical core) 21) 1)
  else if t.wakes f then
    if w.room then some (s.setWeir core (Weir.makeReady { w with tasks := setNth w.tasks slot (t.taken f) } slot)) else none
  else some (s.setTask core slot { t with flags := f })

/-- A START makes an IDLE task READY with its argument and its arithmetic flags cleared, or is latched as a pending start; none when it
must be held (14 R357, R361). A slot that the task table leaves out has no task to start. -/
def State.tryStart (s : State) (core slot : Nat) (arg : W32) : Option State :=
  let w := s.weir core
  let t := w.task slot
  if !t.present then some s
  else if t.st == .idle then
    let t := { t with
      arg := arg
      nanOut := false
      infOut := false
      ovf := false
      sat := false }
    if w.room then some (s.setWeir core (Weir.makeReady { w with tasks := setNth w.tasks slot t } slot)) else none
  else if t.pend.isNone then some (s.setTask core slot { t with pend := some arg })
  else none

/-- The task that waits on a held operation becomes READY once it is done. -/
def State.resume (s : State) (issuer : Option (Nat × Nat)) : State :=
  match issuer with
  | none => s
  | some (c, k) => let w := s.weir c; s.setWeir c { w with held := w.held ++ [.resume k] }

/-- A held operation tried again. -/
def State.tryHeld (s : State) (core : Nat) : HeldOp → Option State
  | .flag i slot f => (s.trySetFlag core slot f).map (·.resume (some i))
  | .start i slot arg => (s.tryStart core slot arg).map (·.resume i)
  | .resume slot => let w := s.weir core; if w.room then some (s.setWeir core (w.makeReady slot)) else none

/-- The held operations of a Weir tried in order; those that must still wait keep their order. -/
def State.heldPass (s : State) (core : Nat) : State :=
  let w := s.weir core
  w.held.foldl (fun s h =>
    match s.tryHeld core h with
    | some t => t
    | none => let w := s.weir core; s.setWeir core { w with held := w.held ++ [h] }) (s.setWeir core { w with held := [] })

/-- Two completions are signals from one unit to one task. -/
def Running.sameSignal (a b : Running) : Bool := a.unit == b.unit && a.core == b.core && a.slot == b.slot

/-- A completion of the same unit for the same task is held and came before (14 R358: signals from one source to one task arrive in the order
they were sent). Held completions stand behind every other descriptor in progress, in the order in which they completed. -/
def State.behindHeld (s : State) (r : Running) : Bool :=
  (if r.done then s.gc.busy.takeWhile (· != r) else s.gc.busy).any fun x => x.done && x.sameSignal r

/-- A unit's completion writes its flag and leaves the unit, or holds it (14 R358, R361). -/
def State.land (s : State) (r : Running) : State :=
  match if s.behindHeld r then none else s.trySetFlag r.core r.slot r.flag with
  | some t => { t with gc := { t.gc with busy := t.gc.busy.erase r } }
  | none => if r.done then s else { s with gc := { s.gc with busy := s.gc.busy.erase r ++ [{ r with done := true }] } }

/-- The held flag writes of unit completions on a core tried again. -/
def State.landPass (s : State) (core : Nat) : State := (s.gc.busy.filter fun r => r.core == core && r.done).foldl State.land s

/-- One Weir takes its best task and then whatever has been held. -/
def State.weirPass (s : State) (core : Nat) : State := (((s.dispatch core).landPass core).heldPass core).dispatch core

/-- Every Weir, as often as held operations can free one another. -/
def State.settlePasses (s : State) : Nat → State
  | 0 => s
  | n + 1 => State.settlePasses ((List.range s.gc.weir.length).foldl State.weirPass s) n

/-- Every Weir brought to rest: no sequencer is free while a task is READY, and nothing is held that can be done. -/
def State.settleWeirs (s : State) : State :=
  s.settlePasses (2 + 2 * (s.gc.weir.foldl (fun n w => n + w.held.length) 0))

/-! ### Places in unit queues (04 R94, 05 R126) -/

/-- Two descriptors share a queue: the same core's, and for a Matrix Cluster the same gang's. -/
def QDesc.sameQueue (a b : QDesc) : Bool := a.unit == b.unit && a.core == b.core && (a.unit != .mc || a.gang == b.gang)

/-- The queue that a descriptor goes to has a place: four per gang, eight per core for the others. -/
def State.queueRoom (s : State) (d : QDesc) : Bool :=
  decide ((s.gc.queue.filter d.sameQueue).length < (if d.unit = .mc then 4 else 8))

/-- A descriptor queued. -/
def State.enqueue (s : State) (d : QDesc) : State := { s with gc := { s.gc with queue := s.gc.queue ++ [d] } }

/-- A task whose descriptor waited for a place enters it once there is one, and becomes READY again. DESIGN CHOICE (log entry 119): of several tasks
that wait for one queue the one held longest enters first, whatever its level. -/
def State.enqueueStalled (s : State) (core : Nat) : State :=
  let w := s.weir core
  State.settleWeirs (w.stalled.foldl (fun s d =>
    if s.queueRoom d then
      let w := s.weir core
      State.enqueue (s.setWeir core { w with
        stalled := w.stalled.erase d
        held := w.held ++ [.resume d.slot] }) d
    else s) s)

/-- The tasks of one class, EVAL or STEP, stopped (14 R362, 11 R272): a place in a queue that this frees is taken by a descriptor that waited for it, and a
sequencer that it frees runs the best READY task at once (14 R355). -/
def State.dropWork (s : State) (eval : Bool) : State :=
  State.settleWeirs ((List.range s.gc.weir.length).foldl State.enqueueStalled (s.clearWork eval))

/-! ### The task on a core -/

/-- The module runs a program that has this logical core. -/
def State.hasCore (s : State) (core : Nat) : Bool := s.member && s.prog.isSome && decide (core < s.gc.weir.length)

/-- The task that runs on a core. -/
def State.runningTask (s : State) (core : Nat) : Option Nat := if s.hasCore core then (s.weir core).running else none

/-- A task of a core is running there (a vector-unit or Weir operation is its own). -/
def State.runs (s : State) (core slot : Nat) : Bool := s.runningTask core == some slot

/-- The running task leaves the sequencer in a state, changed by `f`. -/
def State.leave (s : State) (core slot : Nat) (st : TaskSt) (f : Task → Task) : State :=
  let w := s.weir core
  s.setWeir core { w with
    running := none
    tasks := modNth w.tasks slot fun t => { f t with st := st } }

/-- An operation that the running task must wait for is held at a Weir, and the task waits (14 R361). -/
def State.hold (s : State) (issuer : Nat × Nat) (core : Nat) (h : HeldOp) : State :=
  let s := s.leave issuer.1 issuer.2 .waiting id
  let w := s.weir core
  s.setWeir core { w with held := w.held ++ [h] }

/-! ### START (14 R357, R362) -/

/-- START by the running task of a core, or by the management processor (14 R362). -/
def weirStart (issuer : Option Nat) (core slot : Nat) (arg : W32) (s : State) : State :=
  if !s.hasCore core then s
  else
    match s.tryStart core slot arg with
    | some t => if issuer.isNone || (issuer.bind s.runningTask).isSome then t.settleWeirs else s
    | none =>
      match issuer with
      | none =>
        let w := s.weir core
        State.settleWeirs (State.count (s.setWeir core { w with held := w.held ++ [.start none slot arg] }) (cCore (s.physical core) 22) 1)
      | some c =>
        match s.runningTask c with
        | some k => State.settleWeirs (State.count (s.hold (c, k) core (.start (some (c, k)) slot arg)) (cCore (s.physical core) 22) 1)
        | none => s

/-- The management processor STARTs, on every logical core, each task whose START_ON is `code`, whatever its class, in ascending slot order. -/
def State.startTasks (s : State) (code : Nat) (arg : W32) : State :=
  (List.range s.gc.weir.length).foldl (fun s core =>
    (List.range 64).foldl (fun s slot =>
      let t := (s.weir core).task slot
      if t.present && t.startOn == code then weirStart none core slot arg s else s) s) s

end Sys2Proof.Machine
end

