-- ==== Sys2Proof/Machine/Faults.lean ====
section
/-! DEFINITION. Failure reports and content faults (11 R267-R270, 01 R26-R28), and how they end an EVAL. -/

namespace Sys2Proof.Machine

open Sys2Proof

/-- A step-transient failure of the step in progress, reported by this module (11 R267). -/
def State.transient (s : State) (cause : Nat) : State :=
  if s.st.run.isSome then s.report 1 cause 0 s.ms.position 0xFF 0xFF else s

/-- A content fault detected in the step (01 R26, R28): the first is kept as this module's own code and reported. -/
def State.stepFault (s : State) (x : Status) : State :=
  match s.st.run with
  | none => s
  | some r =>
    if r.fault.isSome then s
    else State.report { s with st := { s.st with run := some { r with fault := some x } } } 3 0x07 x.code s.ms.position 0xFF 0xFF

/-- INFO of an EVAL that ends: the graph epoch; of an export that has written nothing 0 (13 R343). -/
def EvalRun.info (e : EvalRun) : Nat := if e.evidence then 0 else e.epoch

/-- An export that waits for its boundary window to close (12 R316). -/
def EvalRun.waits (e : EvalRun) : Bool := e.evidence && !e.drawing && e.hop == 0

/-- The attention area filled with 0x7FC0_0000 for each of the export's S slots, which stays in those whose edge a layer does not use (12 R319). -/
def State.blankAttention (s : State) (p : Program) (e : EvalRun) : State :=
  s.write p.place.attention
    ((List.replicate (p.decl.attLayers * p.decl.attHeads * (s.spec e.spec).elim 0 fun sp => slotCount (fanouts sp)) 0x7FC00000).flatMap (leBytes 4))

/-- The cores take up the EVAL or export that comes first and does not wait: its START_ON tasks of each EVAL start with the pinned step number (14
R356, R362). -/
def State.startEval (s : State) : State :=
  match s.st.evals, s.prog with
  | e :: es, some p =>
    if e.waits || e.begun then s
    else
      let s := if e.evidence then s.blankAttention p e else s
      State.startTasks { s with st := { s.st with evals := { e with begun := true } :: es } } 6 (BitVec.ofNat 32 e.pinned)
  | _, _ => s

/-- EVALs in progress in a new order: an export that waits for its window stands behind all that do not, which need not wait for it (12 R316). The
cores take up the first. -/
def State.orderEvals (s : State) (l : List EvalRun) : State :=
  State.startEval { s with st := { s.st with evals := l.filter (!·.waits) ++ l.filter (·.waits) } }

/-- The EVAL or EVIDENCE_EXPORT of a ring ends with a completion (13 R343): it no longer pins its step, and the
work it had on the cores is dropped. A commit that waited for it may go on (01 R35). -/
def State.endEval (s : State) (ring : Nat) (c : Cpl) : State :=
  let s := if (s.st.evals.head?.map (·.ring)) = some ring then s.dropWork true else s
  let s := { s with st := { s.st with evals := s.st.evals.filter fun e => e.ring != ring } }
  ((s.complete ring c).startEval).tryPrepared

/-- A content fault of evaluation work ends the EVAL that is running on the cores (13 R343). -/
def State.evalFault (s : State) (x : Status) : State :=
  match s.st.evals with
  | [] => s
  | e :: _ => s.endEval e.ring { status := x, info := e.info, step := e.pinned }

/-- A content fault of work of either kind. -/
def State.workFault (s : State) (eval : Bool) (x : Status) : State := if eval then s.evalFault x else s.stepFault x

/-- The step or EVAL has work in progress that can still run: no content fault has ended it. -/
def State.workLive (s : State) (eval : Bool) : Bool :=
  if eval then !s.st.evals.isEmpty else (s.st.run.elim false fun r => r.fault.isNone)

/-- A block or tile was rescaled (01 R26): the work's outcome carries RESCALED. -/
def State.markRescaled (s : State) (eval : Bool) : State :=
  if eval then
    match s.st.evals with
    | [] => s
    | e :: t => { s with st := { s.st with evals := { e with rescaled := true } :: t } }
  else { s with st := { s.st with run := s.st.run.map fun r => { r with rescaled := true } } }

/-! ### Flash blocks (08 R208, R209) -/

/-- The translation layer keeps what the flash registers show. -/
def State.keepBlocks (s : State) : State :=
  { s with tier := { s.tier with blocks := some {
    good := s.ind.flashGood
    spare := s.ind.flashSpare
    peAvg := s.ind.flashPeAvg
    peMax := s.ind.flashPeMax } } }

/-- Good and replacement blocks as the translation layer leaves them, in the registers and the gauge; below 1 % of raw capacity flash
becomes read-only, which is a tier fault. -/
def State.flashBlocks (s : State) (f : FlashBlocks) : State :=
  let s := (State.setCounter { s with ind := { s.ind with
    flashGood := BitVec.ofNat 32 f.good
    flashSpare := BitVec.ofNat 32 f.spare } } cFlashSpare (BitVec.ofNat 64 f.spare)).keepBlocks
  if f.spare * 100 < f.raw then State.tierFault { s with tier := { s.tier with flashRo := true } } .flash else s

/-- Bad-block management after a program or an erase that failed: the block is retired and its data rewritten elsewhere, which shows only in the
counts of blocks (08 R208). -/
def State.badBlocks (s : State) (bad : Option FlashBlocks) : State := bad.elim s s.flashBlocks

end Sys2Proof.Machine
end

