-- ==== Sys2Proof/Machine/Weir.lean ====
section
/-! DEFINITION. The Weir scheduler (14 R354-R362): task states, the ready list, flags, waits, held operations, and the queues of
descriptors that tasks issue to the units (04 R94, 05 R126, 07 R162, 14 R365). -/

namespace Sys2Proof.Machine

open Sys2Proof

/-! ### The operations (14 R357) -/

/-- END: IDLE, or started again at once by a pending start, before the sequencer takes another task and before any START held behind it; a full ready
list holds that start (14 R361). -/
def weirEnd (core : Nat) (s : State) : State :=
  match s.runningTask core with
  | none => s
  | some slot =>
    let t := (s.weir core).task slot
    let s := s.leave core slot .idle fun t => { t with pend := none }
    match t.pend with
    | none => s.settleWeirs
    | some arg =>
      let w := s.weir core
      ((s.tryStart core slot arg).getD (s.setWeir core { w with held := .start none slot arg :: w.held })).settleWeirs

/-- WAIT: a satisfied wait returns at once; otherwise the task waits. The timer of an EVAL-class task is ignored (14 R360). -/
def weirWait (core : Nat) (mask : BitVec 32) (all : Bool) (timer : Nat) (s : State) : State :=
  match s.runningTask core with
  | none => s
  | some slot =>
    let t := (s.weir core).task slot
    let t := { t with
      mask := mask
      all := all }
    if t.satisfied t.flags then s.setTask core slot (t.taken t.flags)
    else
      State.settleWeirs (s.leave core slot .waiting fun _ => { t with
        waitFlags := true
        timer := if t.evalClass then 0 else timer })

/-- SIGNAL by the running task of `issuer`. -/
def weirSignal (issuer core slot flag : Nat) (s : State) : State :=
  match s.runningTask issuer with
  | none => s
  | some k =>
    if !s.hasCore core then s
    else
      match s.trySetFlag core slot flag with
      | some t => t.settleWeirs
      | none => State.settleWeirs (s.hold (issuer, k) core (.flag (issuer, k) slot flag))

/-- YIELD: READY again, behind the tasks of its level. -/
def weirYield (core : Nat) (s : State) : State :=
  match s.runningTask core with
  | none => s
  | some slot =>
    if (s.weir core).room then
      let s := s.leave core slot .ready id
      State.settleWeirs (s.setWeir core ((s.weir core).makeReady slot))
    else State.settleWeirs (s.hold (core, slot) core (.resume slot))

/-- The timer of a WAIT expires in a STEP-class task: a step-transient failure with CAUSE 0x04, and nothing returns to the task
(14 R360). -/
def weirTimerExpiry (core slot : Nat) (s : State) : State :=
  let t := (s.weir core).task slot
  if s.hasCore core && t.st == .waiting && t.waitFlags && t.timer != 0 && !t.evalClass then
    (s.count (cCore (s.physical core) 23) 1).transient 0x04
  else s

/-! ### Unit queues (04 R94, 05 R126, 07 R162, 14 R365) -/

/-- Descriptor bytes of a unit (04 R92, 05 R121, 07 R160, 14 R365). -/
def unitDescBytes : UnitKind → Nat
  | .mc => 128
  | .braid => 64
  | .quarry => 64
  | .tailrace => 32

/-- Issue by the running task of a core: the descriptor is copied from the core's own local SRAM and queued; a full queue holds the
task. An address outside that SRAM ends the work with INDEX_RANGE (08 R187). -/
def weirIssue (core : Nat) (unit : UnitKind) (addr kernel : Nat) (s : State) : State :=
  match s.runningTask core with
  | none => s
  | some slot =>
    let t := (s.weir core).task slot
    let n := unitDescBytes unit
    if s.placeOfRange addr n = .sram (s.physical core) then
      let b := s.read addr n
      let d : QDesc := {
        unit := unit
        core := core
        slot := slot
        level := t.level
        gang := if unit = .mc then bits (field b 0 8) 7 4 else 0
        kernel := kernel
        bytes := b
        scanned := false
        paths := []
        chunks := []
        eval := t.evalClass }
      if s.queueRoom d then s.enqueue d
      else
        let s := s.leave core slot .waiting id
        let w := s.weir core
        State.settleWeirs (s.setWeir core { w with stalled := w.stalled ++ [d] })
    else s.workFault t.evalClass .indexRange

/-- The descriptor that a unit takes next among those that `p` allows: highest level, earliest issued within a level (04 R94). -/
def State.nextDesc (s : State) (p : QDesc → Bool) : Option QDesc :=
  (s.gc.queue.filter p).foldl (fun b d =>
    match b with
    | none => some d
    | some x => if x.level < d.level then some d else some x) none

/-- A descriptor leaves its queue. -/
def State.unqueue (s : State) (d : QDesc) : State :=
  State.enqueueStalled { s with gc := { s.gc with queue := s.gc.queue.erase d } } d.core

/-- A descriptor whose checks fail leaves its queue, and the work it is for ends with the code (04 R93, 05 R122, 07 R161). -/
def State.failDesc (s : State) (d : QDesc) (x : Status) : State := (s.unqueue d).workFault d.eval x

/-- The ranges that a descriptor reads and those that it writes. -/
abbrev Ranges := List Region × List Region

/-- A later descriptor keeps clear of an earlier one: its output range overlaps none of the earlier one's ranges, and its ranges none of the
earlier one's output ranges (04 R95, 05 R126). -/
def apart (earlier later : Ranges) : Bool :=
  (later.1 ++ later.2).all (fun a => earlier.2.all fun b => !overlaps a b) && later.2.all fun a => earlier.1.all fun b => !overlaps a b

/-- The queued descriptors among those that `p` picks that were accepted before one: a queue holds them in that order. -/
def State.acceptedBefore (s : State) (p : QDesc → Bool) (q : QDesc) : List QDesc := (s.gc.queue.takeWhile (· != q)).filter p

/-- A queued descriptor is clear of the uncompleted descriptors of its unit that were accepted before it, started or still queued: `busy` picks the
started ones and `p` the queued ones it is ordered against, `ranges` gives a queued one's ranges (04 R95, 05 R126, 07 R162, 14 R365). A started one that
was accepted later was clear of this one, so it need not be told apart. -/
def State.queuedClear (s : State) (busy : Running → Bool) (p : QDesc → Bool) (ranges : QDesc → Ranges) (q : QDesc) : Bool :=
  (s.gc.busy.filter busy).all (fun r => apart (r.reads, r.writes) (ranges q)) &&
  (s.acceptedBefore p q).all fun e => apart (ranges e) (ranges q)

/-- A unit holds a completion's flag and starts nothing further (14 R361). -/
def State.unitHolds (s : State) (p : Running → Bool) : Bool := s.gc.busy.any fun r => p r && r.done

/-- A descriptor is started: it leaves its queue and is in progress until its completion. -/
def State.startDesc (s : State) (d : QDesc) (flag : Nat) (reads writes : List Region) : State :=
  State.unqueue { s with gc := { s.gc with busy := s.gc.busy ++ [{
    unit := d.unit
    core := d.core
    slot := d.slot
    flag := flag
    gang := d.gang
    reads := reads
    writes := writes
    eval := d.eval
    done := false }] } } d

/-- The oldest descriptor in progress that `p` picks completes: its flag is set (14 R357). -/
def State.finishDesc (s : State) (p : Running → Bool) : State :=
  match s.gc.busy.find? fun r => p r && !r.done && s.hasCore r.core with
  | none => s
  | some r => (s.land r).settleWeirs

/-! ### Phases driven by tasks (14 R362) -/

/-- A class has ended on every logical core: its tasks are IDLE with no pending start, nothing they issued is queued or running, and
nothing of theirs is held (14 R362). -/
def State.classIdle (s : State) (eval : Bool) : Bool :=
  (List.range s.gc.weir.length).all (fun core =>
    let w := s.weir core
    w.tasks.all (fun t => t.evalClass != eval || (t.st == .idle && t.pend.isNone)) &&
    w.held.all (fun h => match h with
      | .start _ slot _ => (w.task slot).evalClass != eval
      | _ => true)) &&
  s.gc.queue.all (fun d => d.eval != eval) && s.gc.busy.all fun r => r.eval != eval

/-! ### The rows -/

/-- START (14 R357). -/
def execStart (issuer : Option Nat) (core slot : Nat) (arg : W32) (s : State) : Host.Outcome State Fault Refusal :=
  .next (weirStart issuer core slot arg s)

/-- END (14 R357). -/
def execEnd (core : Nat) (s : State) : Host.Outcome State Fault Refusal := .next (weirEnd core s)

/-- WAIT (14 R357, R359). -/
def execWait (core : Nat) (mask : BitVec 32) (all : Bool) (timer : Nat) (s : State) : Host.Outcome State Fault Refusal :=
  .next (weirWait core mask all timer s)

/-- SIGNAL (14 R357, R358). -/
def execSignal (issuer core slot flag : Nat) (s : State) : Host.Outcome State Fault Refusal := .next (weirSignal issuer core slot flag s)

/-- YIELD (14 R357). -/
def execYield (core : Nat) (s : State) : Host.Outcome State Fault Refusal := .next (weirYield core s)

/-- ISSUE (14 R357, 04 R94). -/
def execIssue (core : Nat) (unit : UnitKind) (addr kernel : Nat) (s : State) : Host.Outcome State Fault Refusal :=
  .next (weirIssue core unit addr kernel s)

/-- WEIR_TIMER_EXPIRY (14 R360). -/
def execWeirTimerExpiry (core slot : Nat) (s : State) : Host.Outcome State Fault Refusal := .next (weirTimerExpiry core slot s)

end Sys2Proof.Machine
end

