-- ==== Sys2Proof/Machine/Operands.lean ====
section
/-! DEFINITION. Tile descriptors and their checks (04 R83, R92, R93), and the operands they name: dense rows, sparse tiles (05
R103-R105, R116, R117) and scale planes. -/

namespace Sys2Proof.Machine

open Sys2Proof

/-! ### Tile descriptors (04 R92) -/

/-- A tile descriptor. Formats are FMT codes of 14 R348. -/
structure TileDesc where
  op : Nat
  shape : Nat
  gang : Nat
  afmt : Nat
  bfmt : Nat
  ofmt : Nat
  aenc : Nat
  benc : Nat
  act : Nat
  smode : Nat
  bias : Bool
  okind : Nat
  stats : Bool
  keepB : Bool
  flag : Nat
  sexp : Nat
  oscale : Nat
  m : Nat
  n : Nat
  k : Nat
  kbase : Nat
  aAddr : Nat
  aStride : Nat
  bAddr : Nat
  bStride : Nat
  oAddr : Nat
  oStride : Nat
  asAddr : Nat
  asStride : Nat
  bsAddr : Nat
  bsStride : Nat
  osAddr : Nat
  osStride : Nat
  scale : Nat
  biasAddr : Nat
  p0 : Nat
  p1 : Nat
  hdrAddr : Nat
  deriving DecidableEq, Repr, Inhabited

/-- The fields of 128 descriptor bytes. AFMT and BFMT codes 0 to 4 are FMT codes 1 to 5. -/
def tileDesc (b : List Byte) : TileDesc :=
  let w := field b 0 8
  {
    op := bits w 0 4
    shape := bits w 4 3
    gang := bits w 7 4
    afmt := bits w 11 4 + 1
    bfmt := bits w 15 4 + 1
    ofmt := bits w 19 4
    aenc := bits w 23 2
    benc := bits w 25 2
    act := bits w 27 3
    smode := bits w 30 2
    bias := bits w 32 1 == 1
    okind := bits w 33 2
    stats := bits w 35 1 == 1
    keepB := bits w 36 1 == 1
    flag := bits w 37 5
    sexp := bits w 48 8
    oscale := bits w 56 8
    m := field b 0x08 4
    n := field b 0x0C 2
    k := field b 0x10 4
    kbase := field b 0x14 4
    aAddr := field b 0x18 6
    aStride := field b 0x20 4
    bAddr := field b 0x28 6
    bStride := field b 0x24 4
    oAddr := field b 0x30 6
    oStride := field b 0x38 4
    asAddr := field b 0x40 6
    asStride := field b 0x46 2
    bsAddr := field b 0x48 6
    bsStride := field b 0x4E 2
    osAddr := field b 0x50 6
    osStride := field b 0x56 2
    scale := field b 0x58 8
    biasAddr := field b 0x60 6
    p0 := field b 0x68 4
    p1 := field b 0x6C 4
    hdrAddr := field b 0x70 6
  }

/-- The reserved bits of a tile descriptor are 0. -/
def tileReservedOk (b : List Byte) : Bool :=
  bits (field b 0 8) 42 6 == 0 && field b 0x0E 2 == 0 && field b 0x1E 2 == 0 && field b 0x2E 2 == 0 && field b 0x36 2 == 0 &&
  field b 0x3C 4 == 0 && field b 0x66 2 == 0 && field b 0x76 2 == 0 && field b 0x78 8 == 0

/-- Gang rows of a shape (04 R83). -/
def gangRows (shape : Nat) : Nat := nth 0 [32, 64, 128, 128, 32] shape
/-- Gang columns of a shape. -/
def gangCols (shape : Nat) : Nat := nth 0 [32, 64, 128, 32, 128] shape
/-- Accumulator depth D of a shape. -/
def accDepth (shape : Nat) : Nat := 256 * (gangRows shape / 32)
/-- Gangs at once in a shape. -/
def gangCount (shape : Nat) : Nat := nth 0 [16, 4, 1, 4, 4] shape

/-- The tile's operands are integers. -/
def TileDesc.integer (d : TileDesc) : Bool := isInt d.afmt
/-- The tile is one split-K part. -/
def TileDesc.part (d : TileDesc) : Bool := d.op == 2
/-- The output is an accumulator with a tile header: INT32, A48 and every MATMUL_PART (04 R99). -/
def TileDesc.raw (d : TileDesc) : Bool := d.ofmt == 7 || d.ofmt == 6 || d.part
/-- The signed initial scale exponent. -/
def TileDesc.exponent (d : TileDesc) : Int := signed 8 d.sexp
/-- Cell packing p of 04 R85. -/
def TileDesc.packing (d : TileDesc) : Nat := if d.afmt = 1 then 1 else if fmtBits d.afmt = 4 ∧ fmtBits d.bfmt = 4 then 4 else 2

/-- P0 ≤ P1 in the order of minimum and maximum, neither of them NaN (04 R98). -/
def clampOk (p0 p1 : Nat) : Bool :=
  let a := fp32.decode p0
  let b := fp32.decode p1
  a != .nan && b != .nan && a.max b == b

/-- Check 1 of 04 R93. DESIGN CHOICE (log entry 91): 05 R103 names no code for a headered stride that is not a multiple of 16; it fails this check. -/
def TileDesc.coded (d : TileDesc) (b : List Byte) : Bool :=
  tileReservedOk b && (d.op == 1 || d.op == 2) && decide (d.shape ≤ 4) && decide (d.afmt ≤ 5) && decide (d.bfmt ≤ 5) && decide (d.ofmt ≤ 7) &&
  decide (d.aenc ≤ 1) && decide (d.benc ≤ 1) && decide (d.act ≤ 3) && decide (d.smode ≤ 2) && decide (d.okind ≤ 2) &&
  decide (1 ≤ d.m) && decide (d.m ≤ 16777216) && decide (1 ≤ d.n) &&
  (if isInt d.ofmt then decide (d.oscale ≤ 0xFE) else d.oscale == 0) &&
  (isBs d.ofmt || (d.okind == 0 && d.osAddr == 0 && d.osStride == 0)) &&
  (isBs d.afmt || (d.asAddr == 0 && d.asStride == 0)) && (isBs d.bfmt || (d.bsAddr == 0 && d.bsStride == 0)) &&
  (d.bias || d.biasAddr == 0) && (d.raw || d.stats || d.hdrAddr == 0) &&
  (match d.smode with
   | 0 => d.scale == 0
   | 1 => decide (d.scale < 2 ^ 32)
   | _ => decide (d.scale < 2 ^ 48)) &&
  (match d.act with
   | 2 => d.p1 == 0
   | 3 => clampOk d.p0 d.p1
   | _ => d.p0 == 0 && d.p1 == 0) &&
  (d.aenc == 0 || d.aStride % 16 == 0) && (d.benc == 0 || d.bStride % 16 == 0)

/-- The operand pairs of 02 R39. -/
def pairOk (a b : Nat) : Bool := (a == 1 && b == 1) || (isInt a && isInt b) || (isBs a && isBs b)

/-- Check 2 of 04 R93. -/
def TileDesc.pairs (d : TileDesc) (t7 : Bool) : Bool :=
  pairOk d.afmt d.bfmt && (d.ofmt != 7 || d.integer) && (d.ofmt != 6 || (d.part && !d.integer)) &&
  (!d.part || (!d.integer && (d.ofmt == 6 || (t7 && d.ofmt == 0))))

/-- Check 3 of 04 R93. -/
def TileDesc.plain (d : TileDesc) : Bool := !d.raw || (d.act == 0 && d.smode == 0 && !d.bias && !d.stats)

/-- Check 4 of 04 R93. -/
def TileDesc.fits (d : TileDesc) : Bool :=
  decide (d.gang < gangCount d.shape) && decide (d.n ≤ gangCols d.shape) && d.kbase % 32 == 0 &&
  (if d.integer then decide (d.exponent ≤ 124) else d.sexp == 0)

/-- Check 5 of 04 R93. -/
def TileDesc.t7Ok (d : TileDesc) (t7 : Bool) : Bool :=
  !t7 || ([d.afmt, d.bfmt, d.ofmt].all (fun f => !isBs f && f != 3) && (!d.part || d.ofmt == 0))

/-- The first K index and the length of each part (03 R67). -/
def partStarts : Nat → List Nat → List (Nat × Nat)
  | _, [] => []
  | a, n :: t => (a, n) :: partStarts (a + n) t

/-- Check 6 of 04 R93, with 03 R66. A kernel that is not declared allows no K. -/
def TileDesc.kOk (d : TileDesc) (kernel : Option KernelDecl) : Bool :=
  match kernel with
  | none => d.kbase == 0 && d.k == 0
  | some q =>
    decide (d.k ≤ 1048576) &&
    (if d.part then (partStarts 0 (q.parts.getD [])).any fun x => x.1 == d.kbase && decide (d.k ≤ x.2)
     else d.kbase == 0 && decide (d.k ≤ q.maxK))

/-- The byte range of rows at a stride (04 R93). -/
def rowsRegion (addr rows stride rowBytes : Nat) : List Region :=
  if rows = 0 then [] else [{ base := addr, len := (rows - 1) * stride + rowBytes }]

/-- The range of an operand of `lines` lines: its rows when dense, its tile-rows when headered (05 R103). -/
def headeredRegion (addr lines stride : Nat) : List Region := rowsRegion addr (ceilDiv lines 32) stride stride

/-- What a tile reads. With K = 0 it reads no operand (04 R89). -/
def TileDesc.reads (d : TileDesc) : List Region :=
  (if d.k = 0 then []
   else
    (if d.aenc = 1 then headeredRegion d.aAddr d.m d.aStride else rowsRegion d.aAddr d.m d.aStride (fmtBytes d.afmt d.k)) ++
    (if d.benc = 1 then headeredRegion d.bAddr d.n d.bStride else rowsRegion d.bAddr d.k d.bStride (fmtBytes d.bfmt d.n)) ++
    (if isBs d.afmt then rowsRegion d.asAddr d.m d.asStride (ceilDiv d.k 32) else []) ++
    (if isBs d.bfmt then rowsRegion d.bsAddr (ceilDiv d.k 32) d.bsStride d.n else [])) ++
  (if d.smode = 2 then [{ base := d.scale, len := 4 * d.n }] else []) ++ (if d.bias then [{ base := d.biasAddr, len := 4 * d.n }] else [])

/-- What a tile writes. -/
def TileDesc.writes (d : TileDesc) : List Region :=
  rowsRegion d.oAddr d.m d.oStride (fmtBytes d.ofmt d.n) ++
  (if isBs d.ofmt then rowsRegion d.osAddr d.m d.osStride (ceilDiv d.n 32) else []) ++
  (if d.raw then [{ base := d.hdrAddr, len := 8 }] else []) ++ (if d.stats then [{ base := d.hdrAddr + 8, len := 8 }] else [])

/-- A range lies in a core's populated local SRAM. -/
def State.inSram (s : State) (phys : Nat) (r : Region) : Bool := s.placeOfRange r.base r.len == .sram phys

/-- The checks of 04 R93, in order: the first that fails. -/
def State.tileCheck (s : State) (d : TileDesc) (q : QDesc) : Option Status :=
  let t7 := s.prog.elim false (·.t7)
  if !(d.coded q.bytes && d.pairs t7 && d.plain && d.fits && d.t7Ok t7) then some .formatInvalid
  else if !d.kOk (s.prog.bind fun p => p.decl.kernels[q.kernel]?) then some .indexRange
  else if !(d.reads ++ d.writes).all (s.inSram (s.physical q.core)) then some .indexRange
  else none

/-! ### Sparse tiles (05 R103-R105) -/

/-- The pairs of columns of 05 R117. -/
def pairs44 : List (Nat × Nat) := [(0, 1), (0, 2), (0, 3), (1, 2), (1, 3), (2, 3)]

/-- A choice of pair per row uses each column twice (05 R116). -/
def pattern44Ok (p : List Nat) : Bool :=
  let cols := p.flatMap fun i => [(nth (0, 0) pairs44 i).1, (nth (0, 0) pairs44 i).2]
  (List.range 4).all fun j => cols.count j == 2

/-- The 90 patterns, as pair numbers of rows 0 to 3, in the order of their codes (05 R117). -/
def patterns44 : List (List Nat) :=
  (List.range 6).flatMap fun a => (List.range 6).flatMap fun b => (List.range 6).flatMap fun c =>
    ((List.range 6).map fun d => [a, b, c, d]).filter pattern44Ok

/-- The header of a sparse tile (05 R104). -/
structure SpHeader where
  fmt : Nat
  ewid : Nat
  resv : Nat
  cap24 : Bool
  lines : Nat
  kspan : Nat
  nnz : Nat
  bytes : Nat
  deriving DecidableEq, Repr, Inhabited

/-- The header that 16 bytes hold. -/
def spHeader (b : List Byte) : SpHeader where
  fmt := bits (field b 0 1) 0 4
  ewid := bits (field b 0 1) 4 4
  resv := bits (field b 1 1) 1 7 + field b 6 2
  cap24 := bits (field b 1 1) 0 1 == 1
  lines := field b 2 2
  kspan := field b 4 2
  nnz := field b 8 4
  bytes := field b 12 4

/-- Set bits of a 32-bit word. -/
def popCount (w : Nat) : Nat := ((List.range 32).filter fun i => w.testBit i).length

/-- `n` 32-bit words at an offset. -/
def wordsAt (b : List Byte) (off n : Nat) : List Nat := (List.range n).map fun i => field b (off + 4 * i) 4

/-- Lists of consecutive pieces of given lengths. -/
def cutBy {α : Type} : List Nat → List α → List (List α)
  | [], _ => []
  | n :: t, l => l.take n :: cutBy t (l.drop n)

/-- NS of each line: the directory of an RLE_BITMAP tile. -/
def rleDir (h : SpHeader) (b : List Byte) : List Nat := (List.range h.lines).map fun l => field b (16 + l) 1

/-- Where the bitmap words of an RLE_BITMAP tile begin. -/
def rleWordsAt (h : SpHeader) (total : Nat) : Nat := 16 + roundUp (h.lines + total) 4

/-- The run bytes of an RLE_BITMAP tile, by line. -/
def rleRuns (h : SpHeader) (b : List Byte) : List (List Nat) :=
  let ns := rleDir h b
  cutBy ns ((List.range ns.sum).map fun i => field b (16 + h.lines + i) 1)

/-- The bitmap words of an RLE_BITMAP tile, by line. -/
def rleWords (h : SpHeader) (b : List Byte) : List (List Nat) :=
  let ns := rleDir h b
  cutBy ns (wordsAt b (rleWordsAt h ns.sum) ns.sum)

/-- One line of an RLE_BITMAP tile as a word per strip. -/
def rleLine (kspan : Nat) (runs words : List Nat) : List Nat :=
  (((runs.zip words).flatMap fun (x : Nat × Nat) => List.replicate x.1 0 ++ [x.2]) ++ List.replicate kspan 0).take kspan

/-- The bitmap words of a BITMAP or RLE_BITMAP tile: a word per strip, by line (05 R105). -/
def tileWords (h : SpHeader) (b : List Byte) : List (List Nat) :=
  if h.fmt = 2 then ((rleRuns h b).zip (rleWords h b)).map fun x => rleLine h.kspan x.1 x.2
  else cutBy (List.replicate h.lines h.kspan) (wordsAt b 16 (h.lines * h.kspan))

/-- Where the stored values of a BITMAP or RLE_BITMAP tile begin. -/
def valuesAt (h : SpHeader) (b : List Byte) : Nat :=
  if h.fmt = 2 then rleWordsAt h (rleDir h b).sum + 4 * (rleDir h b).sum else 16 + 4 * h.lines * h.kspan

/-- BYTES that 05 R105 gives, before padding. -/
def tileBytes (h : SpHeader) (b : List Byte) (w : Nat) : Nat :=
  match h.fmt with
  | 0 => 16 + 4 * h.lines * h.kspan * w
  | 3 => 16 + 2 * h.lines * h.kspan * (1 + w)
  | _ => valuesAt h b + ceilDiv (h.nnz * w) 8

/-- The 32 elements of a strip: stored values from number `start` on where its word has bits, 0 elsewhere. -/
def stripCodes (fmt : Nat) (vals : List Byte) (start w : Nat) : List Nat × Nat :=
  let r := (List.range 32).foldl (fun (a : List Nat × Nat) i =>
    if w.testBit i then (elemCode fmt vals a.2 :: a.1, a.2 + 1) else (0 :: a.1, a.2)) ([], start)
  (r.1.reverse, r.2)

/-- The elements of a line of strips, and the number of the next stored value. -/
def lineCodes (fmt : Nat) (vals : List Byte) (start : Nat) (ws : List Nat) : List Nat × Nat :=
  ws.foldl (fun a w =>
    let r := stripCodes fmt vals a.2 w
    (a.1 ++ r.1, r.2)) ([], start)

/-- The value of a PATTERN44 record at a row and a column of its block; 0 where nothing is stored (05 R116). -/
def record44 (fmt : Nat) (rec44 : List Byte) (row col : Nat) : Nat :=
  let p := nth (0, 0) pairs44 (nth 0 (nth [] patterns44 (field rec44 0 1)) row)
  if col = p.1 then elemCode fmt (rec44.drop 1) (2 * row)
  else if col = p.2 then elemCode fmt (rec44.drop 1) (2 * row + 1)
  else 0

/-- The elements of a line of a PATTERN44 tile. -/
def line44 (fmt : Nat) (h : SpHeader) (b : List Byte) (line : Nat) : List Nat :=
  (List.range (8 * h.kspan)).flatMap fun blk =>
    let r := slice b (16 + (line / 4 * 8 * h.kspan + blk) * (1 + fmtBits fmt)) (1 + fmtBits fmt)
    (List.range 4).map fun row => record44 fmt r row (line % 4)

/-- The lines of a tile, each of KSPAN × 32 elements (05 R105). -/
def tileLines (fmt : Nat) (h : SpHeader) (b : List Byte) : List (List Nat) :=
  match h.fmt with
  | 0 => (List.range h.lines).map fun l => (List.range (32 * h.kspan)).map fun i => elemCode fmt (b.drop 16) (l * 32 * h.kspan + i)
  | 3 => (List.range h.lines).map (line44 fmt h b)
  | _ => ((tileWords h b).foldl (fun (a : List (List Nat) × Nat) ws =>
      let r := lineCodes fmt (b.drop (valuesAt h b)) a.2 ws
      (a.1 ++ [r.1], r.2)) ([], 0)).1

/-- Tiles of a tile-row from an address on: each begins at the 16-byte boundary after the one before (05 R103). DEDUCED (log entry 91): the boundary
is counted from the start of the tile-row, which need not itself be a multiple of 16. -/
def State.rowTiles (s : State) (addr : Nat) : Nat → List (SpHeader × List Byte)
  | 0 => []
  | n + 1 =>
    let h := spHeader (s.read addr 16)
    (h, s.read addr h.bytes) :: s.rowTiles (addr + roundUp h.bytes 16) n

/-- The lines of a headered operand, each cut to its K elements. -/
def State.headeredLines (s : State) (fmt addr stride lines k : Nat) : List (List Nat) :=
  ((List.range (ceilDiv lines 32)).flatMap fun j =>
    let ts := (s.rowTiles (addr + j * stride) (ceilDiv k 1024)).map fun t => tileLines fmt t.1 t.2
    (List.range (min 32 (lines - 32 * j))).map fun l => (ts.flatMap fun t => nth [] t l).take k)

/-! ### Operands as lists of raw codes -/

/-- Rows of packed elements at a stride. -/
def State.rowCodes (s : State) (fmt addr stride rows n : Nat) : List (List Nat) :=
  (List.range rows).map fun i => elemCodes fmt (s.read (addr + i * stride) (fmtBytes fmt n)) n

/-- The streamed operand: M lines of K elements. -/
def State.tileA (s : State) (d : TileDesc) : List (List Nat) :=
  if d.aenc = 1 then s.headeredLines d.afmt d.aAddr d.aStride d.m d.k else s.rowCodes d.afmt d.aAddr d.aStride d.m d.k

/-- The stationary operand: N columns of K elements. -/
def State.tileB (s : State) (d : TileDesc) : List (List Nat) :=
  if d.benc = 1 then s.headeredLines d.bfmt d.bAddr d.bStride d.n d.k
  else
    let rows := s.rowCodes d.bfmt d.bAddr d.bStride d.k d.n
    (List.range d.n).map fun c => rows.map fun r => nth 0 r c

/-- Scale bytes of A by row and block (04 R92). -/
def State.scalesA (s : State) (d : TileDesc) : List (List Nat) :=
  (List.range d.m).map fun i => (List.range (ceilDiv d.k 32)).map fun g => s.readNat (d.asAddr + i * d.asStride + g) 1

/-- Scale bytes of B by column and block. -/
def State.scalesB (s : State) (d : TileDesc) : List (List Nat) :=
  (List.range d.n).map fun c => (List.range (ceilDiv d.k 32)).map fun g => s.readNat (d.bsAddr + g * d.bsStride + c) 1

/-- Some element or scale byte that a block-scaled operand decodes is invalid (02 R46, R47). -/
def invalidCodes (fmt : Nat) (codes scales : List (List Nat)) : Bool :=
  isBs fmt && (codes.any (·.any (elemInvalid fmt)) || scales.any (·.any (· == 0xFF)))

/-! ### Declared tensors and calibration (03 R62, R63) -/

/-- The declared record of a logical tensor. -/
def State.tensorRec (s : State) (tensor : Nat) : Option TensorRec := s.prog.bind fun p => p.tensors.find? fun t => t.id == tensor

/-- The declared kind of a tensor (14 R348); 5, a floating tensor with no recipe, when it is not declared. -/
def State.tensorKind (s : State) (tensor : Nat) : Nat := (s.tensorRec tensor).elim 5 (·.kind)

/-- The tensor is declared as an INT8 or INT4 evaluation tensor. -/
def State.evalTensor (s : State) (tensor : Nat) : Bool := s.tensorKind tensor == 3

/-- The declared evaluation tensors. -/
def State.evalTensors (s : State) : List Nat := s.prog.elim [] fun p => (p.tensors.filter fun t => t.kind == 3).map (·.id)

/-- The recorded magnitudes of a calibrated tensor, newest first (03 R63). -/
def State.calibration (s : State) (tensor : Nat) : List Nat :=
  (s.st.calib.get [] tensor).take (s.prog.elim 128 (·.decl.calibN))

/-- The scale byte of a calibrated tensor: what 03 R61 gives for the largest recorded magnitude. -/
def State.calibratedScale (s : State) (tensor fmt : Nat) : Nat :=
  scaleByte [a48.decode ((s.calibration tensor).foldl max 0)] (if fmt = 3 then 7 else 127)

/-- The scale byte of an INT8 or INT4 tensor (03 R62): calibrated for an evaluation tensor, otherwise the declared one. With no recorded step the spec
states no calibrated scale, and it is free (log entry 33): an EVAL that needs one is refused at dequeue, so that this is a step's case. -/
def State.intScale (s : State) (tensor fmt : Nat) : Nat :=
  if s.evalTensor tensor then
    if s.calibration tensor = [] then (Config.uncalibratedScale (s.prog.elim 0 (·.hash)) s.st.stepNo tensor).toNat % 0xFF
    else s.calibratedScale tensor fmt
  else (s.tensorRec tensor).elim 0 (·.scale)

/-- A step's Forward records the largest magnitude of an evaluation tensor before its conversion (03 R63). -/
def State.recordMagnitude (s : State) (eval : Bool) (tensor m : Nat) : State :=
  if !eval && (s.st.run.elim false fun r => r.phase == .forward) then
    { s with st := { s.st with calibNow := s.st.calibNow.put tensor (max m (s.st.calibNow.get 0 tensor)) } }
  else s

end Sys2Proof.Machine
end

