-- ==== Sys2Proof/Machine/Sparse.lean ====
section
/-! DEFINITION. The header scan of sparse operands (05 R107-R110), the spans of a headered stationary operand and the lines and chunks
that are skipped (05 R111-R113). -/

namespace Sys2Proof.Machine

open Sys2Proof

/-! ### Scan checks (05 R108) -/

/-- EWID of an element format (05 R104). -/
def ewidOf (fmt : Nat) : Nat := if fmtBits fmt = 16 then 0 else if fmtBits fmt = 8 then 1 else 2

/-- Set bits at or beyond K index `k` of a line of strips. -/
def bitsBeyond (k : Nat) (ws : List Nat) : Bool :=
  (List.range ws.length).any fun i => (List.range 32).any fun j => decide (k ≤ 32 * i + j) && (nth 0 ws i).testBit j

/-- A word has an aligned group of four with three or four bits set. -/
def overCap (w : Nat) : Bool := (List.range 8).any fun g => decide (2 < popCount (bits w (4 * g) 4))

/-- The code bytes of a PATTERN44 tile. -/
def codes44 (h : SpHeader) (b : List Byte) (fmt : Nat) : List Nat :=
  (List.range (2 * h.lines * h.kspan)).map fun i => field b (16 + i * (1 + fmtBits fmt)) 1

/-- The checks of 05 R108 on one tile: `isB`, its element format, the lines of its tile-row, its strips, the K indices left from its
start, and the bytes left in its slot. -/
def scanTile (isB : Bool) (fmt lines kspan kleft slotLeft : Nat) (h : SpHeader) (b : List Byte) : Option Status :=
  let w := fmtBits fmt
  let wantLines := if h.fmt = 3 then roundUp lines 4 else lines
  let words := if h.fmt = 1 ∨ h.fmt = 2 then tileWords h b else []
  let stored := words.flatten
  if h.fmt > 3 ∨ h.ewid > 2 ∨ h.resv ≠ 0 then some .formatInvalid
  else if h.ewid ≠ ewidOf fmt ∨ h.lines ≠ wantLines ∨ h.kspan ≠ kspan then some .formatInvalid
  else if (h.fmt = 3 ∧ isB = false) ∨ (h.cap24 = true ∧ (h.fmt ≠ 1 ∨ isB = false)) then some .formatInvalid
  else if (h.fmt = 2 ∧ ((rleWords h b).flatten).any (· == 0)) ∨
      ((h.fmt = 1 ∨ h.fmt = 2) ∧
        h.nnz ≠ (if h.fmt = 2 then ((rleWords h b).flatten.map popCount).sum else (stored.map popCount).sum)) ∨
      (h.fmt = 3 ∧ h.nnz ≠ 16 * h.lines * h.kspan) ∨ h.bytes ≠ roundUp (tileBytes h b w) 16 then some .formatInvalid
  else if slotLeft < h.bytes then some .indexRange
  else if (h.fmt = 2 ∧ ((rleRuns h b).zip (rleDir h b)).any fun x => decide (kspan < x.1.sum + x.2)) ∨ words.any (bitsBeyond kleft) then
    some .indexRange
  else if h.fmt = 3 ∧ (codes44 h b fmt).any (fun c => decide (90 ≤ c)) then some .formatInvalid
  else if h.cap24 = true ∧ stored.any overCap then some .sparseCap
  else none

/-- The tiles of a tile-row in ascending K: the first failing check. No tile that passes is longer than
131,072 bytes. -/
def State.scanRow (s : State) (isB : Bool) (fmt lines slotEnd : Nat) : Nat → Nat → Nat → Option Status
  | 0, _, _ => none
  | n + 1, addr, kleft =>
    let h := spHeader (s.read addr 16)
    let b := s.read addr (min h.bytes 131072)
    match scanTile isB fmt lines (min 32 (ceilDiv kleft 32)) kleft (slotEnd - addr) h b with
    | some x => some x
    | none => s.scanRow isB fmt lines slotEnd n (addr + h.bytes) (kleft - 1024)

/-- An operand scanned tile-row by tile-row. -/
def State.scanOperand (s : State) (isB : Bool) (fmt addr stride lines k : Nat) : Option Status :=
  (List.range (ceilDiv lines 32)).findSome? fun j =>
    s.scanRow isB fmt (min 32 (lines - 32 * j)) (addr + (j + 1) * stride) (ceilDiv k 1024) (addr + j * stride) k

/-- The scan of a descriptor: B before A (05 R108). With K = 0 there is no tile. -/
def State.scanTiles (s : State) (d : TileDesc) : Option Status :=
  match (if d.benc = 1 then s.scanOperand true d.bfmt d.bAddr d.bStride d.n d.k else none) with
  | some x => some x
  | none => if d.aenc = 1 then s.scanOperand false d.afmt d.aAddr d.aStride d.m d.k else none

/-! ### The path of a streamed tile (05 R109, R110) -/

/-- The threshold of a format and an element width. -/
def Regs.sparseThresh (r : Regs) (fmt ewid : Nat) : Nat := bits (if fmt = 2 then r.spRle else r.spBm).val.toNat (10 * ewid) 10

/-- MODE of the threshold register of a format. -/
def Regs.sparseMode (r : Regs) (fmt : Nat) : Nat := bits (if fmt = 2 then r.spRle else r.spBm).val.toNat 30 2

/-- A tile of A takes the sparse path (05 R109). -/
def Regs.sparsePath (r : Regs) (h : SpHeader) : Bool :=
  if h.fmt = 1 ∨ h.fmt = 2 then
    match r.sparseMode h.fmt with
    | 1 => false
    | 2 => true
    | _ => decide (h.nnz * 1024 < r.sparseThresh h.fmt h.ewid * (h.lines * h.kspan * 32))
  else false

/-- The tiles of a headered operand, tile-row by tile-row. -/
def State.operandTiles (s : State) (addr stride lines k : Nat) : List (List (SpHeader × List Byte)) :=
  (List.range (ceilDiv lines 32)).map fun j => s.rowTiles (addr + j * stride) (ceilDiv k 1024)

/-- By tile-row and tile of A, whether it takes the sparse path: decided at the scan and kept with the descriptor (05 R109). -/
def State.scanPaths (s : State) (d : TileDesc) : List (List Bool) :=
  if d.aenc = 1 then (s.operandTiles d.aAddr d.aStride d.m d.k).map fun r => r.map fun t => s.regs.sparsePath t.1 else []

/-! ### Spans of the stationary operand (05 R112) -/

/-- Stored values per column per 32 cell rows (05 R112). -/
def sparseCapacity (fmt ewid : Nat) : Nat := if fmt = 2 then nth 0 [12, 20, 29] ewid else nth 0 [16, 26, 40] ewid

/-- The most strips, at most `n`, from strip `s0` of a tile on that keep every column within a capacity; at least one. -/
def fitStrips (words : List (List Nat)) (s0 capacity : Nat) : Nat → Nat
  | 0 => 1
  | n + 1 =>
    if words.all fun l => decide ((((l.drop s0).take (n + 1)).map popCount).sum ≤ capacity) then n + 1
    else fitStrips words s0 capacity n

/-- The span in K indices that one tile of B allows from strip `s0` of it on. -/
def tileSpan (rows p s0 : Nat) (t : SpHeader × List Byte) : Nat :=
  let h := t.1
  if h.fmt = 0 then rows * p
  else if h.fmt = 3 ∨ h.cap24 = true then 2 * rows * p
  else 32 * fitStrips (tileWords h t.2) s0 (rows / 32 * sparseCapacity h.fmt h.ewid) (min (4 * rows * p / 32) (h.kspan - s0))

/-- The chunks of a pass as (first K index from KBASE, span), with fuel for the strips of K. -/
def chunkList (spanAt : Nat → Nat) (k : Nat) : Nat → Nat → List (Nat × Nat)
  | 0, _ => []
  | fuel + 1, k0 => if k ≤ k0 then [] else (k0, spanAt k0) :: chunkList spanAt k fuel (k0 + max 32 (spanAt k0))

/-- The smallest of a list, or a default. -/
def minOf (d : Nat) (l : List Nat) : Nat := l.foldl min d

/-- The chunks of a headered B, from the bitmaps as the scan finds them (05 R112). -/
def State.scanChunks (s : State) (d : TileDesc) : List (Nat × Nat) :=
  let rows := gangRows d.shape
  let p := d.packing
  if d.benc = 1 then
    let tiles := s.operandTiles d.bAddr d.bStride d.n d.k
    let spanAt := fun k0 => minOf (4 * rows * p) (tiles.map fun r => tileSpan rows p (k0 % 1024 / 32) (nth default r (k0 / 1024)))
    chunkList spanAt d.k (ceilDiv d.k 32) 0
  else []

/-- The chunks of a queued tile: rows × p indices each for a dense B (04 R85), otherwise those computed at its scan (05 R112). -/
def QDesc.tileChunks (q : QDesc) (d : TileDesc) : List (Nat × Nat) :=
  if d.benc = 1 then q.chunks else chunkList (fun _ => gangRows d.shape * d.packing) d.k (ceilDiv d.k 32) 0

/-! ### Skipped lines and chunks (05 R111) -/

/-- For a line of A: by strip, whether it makes the line stream: a stored strip, or any strip of a tile on the dense path. -/
def State.streamStrips (s : State) (d : TileDesc) (paths : List (List Bool)) : List (List Bool) :=
  ((List.range (ceilDiv d.m 32)).flatMap fun j =>
    let ts := s.rowTiles (d.aAddr + j * d.aStride) (ceilDiv d.k 1024)
    (List.range (min 32 (d.m - 32 * j))).map fun l => (ts.zip (nth [] paths j)).flatMap fun x =>
      if x.2 then (nth [] (tileWords x.1.1 x.1.2) l).map (· != 0) else List.replicate x.1.1.kspan true)

/-- Lines and chunks that a tile skips: counted over each M block and each chunk. -/
def State.skips (s : State) (d : TileDesc) (paths : List (List Bool)) (chunks : List (Nat × Nat)) : Nat × Nat :=
  if d.aenc = 1 then
    let lines := s.streamStrips d paths
    let blocks := if chunks.length ≤ 1 then [lines] else groupsOf (accDepth d.shape) lines
    blocks.foldl (fun (a : Nat × Nat) (blk : List (List Bool)) =>
      chunks.foldl (fun (a : Nat × Nat) (c : Nat × Nat) =>
        let skipped := (blk.filter fun (l : List Bool) => !((l.drop (c.1 / 32)).take (c.2 / 32)).any id).length
        (a.1 + skipped, a.2 + (if skipped = blk.length then 1 else 0))) a) (0, 0)
  else (0, 0)

/-- Whether a tile loads its stationary operand at all: not when every chunk of every M block is skipped, or there is none (04 R86,
05 R111). -/
def State.loads (s : State) (d : TileDesc) (paths : List (List Bool)) (chunks : List (Nat × Nat)) : Bool :=
  let n := chunks.length
  decide ((s.skips d paths chunks).2 < n * (if n ≤ 1 then 1 else ceilDiv d.m (accDepth d.shape)))

/-! ### SPARSE_HEADER_SCAN (05 R107, R108) -/

/-- The descriptor names a headered operand. -/
def TileDesc.headered (d : TileDesc) : Bool := d.aenc == 1 || d.benc == 1

/-- The oldest queued descriptor of a Matrix Cluster that has headers to scan, whatever its gang, is checked and scanned if it is of the gang named
(05 R107: descriptors are scanned in the order of their acceptance). The threshold registers are checked as they are used (15 R383). -/
def sparseHeaderScan (core gang : Nat) (s : State) : State :=
  match s.gc.queue.find? fun q => q.unit == .mc && q.core == core && !q.scanned && (tileDesc q.bytes).headered with
  | none => s
  | some q =>
    let d := tileDesc q.bytes
    if !(q.gang == gang && s.hasCore core && s.workLive q.eval) then s
    else
      match s.tileCheck d q with
      | some x => s.failDesc q x
      | none =>
        s.reading [(0x00180, s.regs.spBm), (0x00184, s.regs.spRle)] fun s =>
          match s.scanTiles d with
          | some x => s.failDesc q x
          | none =>
            let paths := s.scanPaths d
            let scanned := { q with
              scanned := true
              paths := paths
              chunks := s.scanChunks d }
            State.count { s with gc := { s.gc with queue := s.gc.queue.replace q scanned } } (cCore (s.physical core) 7) (paths.flatten.count true)

/-- SPARSE_HEADER_SCAN (05 R108). -/
def execSparseHeaderScan (core gang : Nat) (s : State) : Host.Outcome State Fault Refusal := .next (sparseHeaderScan core gang s)

end Sys2Proof.Machine
end

