-- ==== Sys2Proof/Machine/VectorUnit.lean ====
section
/-! DEFINITION. The vector unit (02 R59, R60; 03 R63, R68, R73, R74): element-wise operations, conversions, reductions, split-K
combines and XM48 arithmetic. -/

namespace Sys2Proof.Machine

open Sys2Proof

/-! ### What every vector operation shares -/

/-- `n` bytes from an address, as a range. -/
def span (a n : Nat) : List Region := if n = 0 then [] else [{ base := a, len := n }]

/-- A vector operation of the task that runs on a core: its ranges are judged first (08 R187), then it acts. -/
def State.vector (s : State) (core slot : Nat) (reads writes : List Region) (act : State → Task → State) : State :=
  let t := (s.weir core).task slot
  if !(s.runs core slot && s.workLive t.evalClass) then s
  else
    let p := s.physical core
    if reads.all (fun r => s.coreReads p r.base r.len) && writes.all (fun r => s.coreWrites p r.base r.len) then act s t
    else s.workFault t.evalClass .indexRange

/-- The regions of trained tables that Commit protects by the undo log: slots, masters and moments of each (01 R23, 14 R431). -/
def State.trainedRegions (s : State) : List Region :=
  match s.prog with
  | none => []
  | some p =>
    (p.place.tabs.zip p.decl.tables).flatMap fun x =>
      let rows := x.1.slotCount
      if x.2.train then
        [{ base := x.1.slots, len := rows * roundUp (2 * x.2.width) 32 },
         { base := x.1.master, len := rows * (if p.t7 then 4 else 6) * x.2.width },
         { base := x.1.moments, len := rows * 4 * x.2.moments * x.2.width }]
      else []

/-- The step is in its Commit phase. -/
def State.committing (s : State) : Bool := s.st.run.elim false fun r => r.phase == .commit

/-- Bytes stored by a unit: in Commit, the old bytes of trained rows are kept until the commit point (01 R23). -/
def State.putBytes (s : State) (a : Nat) (b : List Byte) : State :=
  if s.committing && s.trainedRegions.any (fun r => overlaps r { base := a, len := b.length }) then s.writeUndo a b else s.write a b

/-- Elements of a packed array as raw codes. -/
def State.codesAt (s : State) (fmt a n : Nat) : List Nat := elemCodes fmt (s.read a (fmtBytes fmt n)) n

/-! ### Element-wise operations (02 R59) -/

/-- One element of an operation other than conversion, on the FP32 values of its inputs. -/
def elementOp (op : VOp) (x y z : FVal) : Nat × AFlags :=
  match op with
  | .add => fp32.addVals x y
  | .sub => fp32.addVals x y.neg
  | .mul => fp32.mulVals x y
  | .fma => fp32.fmaVals x y z
  | .min => let c := (fp32.ofVal (x.min y)).1; (c, resultFlags fp32 c true)
  | .max => let c := (fp32.ofVal (x.max y)).1; (c, resultFlags fp32 c true)
  | .cmp =>
    ((Config.cmpCode (match x.cmp y with
      | .less => 0
      | .equal => 1
      | .greater => 2
      | .unordered => 3)).toNat, {})
  | .convert => ((fp32.ofVal x).1, {})

/-- The FP32 result of an element in the output format. A comparison's word is not a number and is written as it stands. The conversion to BF16
is an operation of its own under 02 R58, so the infinity that finite inputs overflowed to sets INF_OUT in it beside OVF (log entry 111). -/
def elementOut (op : VOp) (ofmt : Nat) (r : Nat × AFlags) : Nat × AFlags :=
  if op = .cmp ∨ ofmt = 0 then r
  else
    let c := bf16.ofVal (fp32.decode r.1)
    (c.1, r.2.or c.2)

/-- How many source operands an operation takes. -/
def opArity : VOp → Nat
  | .convert => 1
  | .fma => 3
  | _ => 2

/-- Bytes of an output element. -/
def vecOutBytes (v : VArgs) : Nat := if v.op = .cmp then 4 * v.n else fmtBytes v.ofmt v.n

/-- Source ranges of an element-wise operation. -/
def vecReads (v : VArgs) : List Region :=
  let n := fmtBytes v.ifmt v.n
  span v.a n ++ (if 2 ≤ opArity v.op then span v.b n else []) ++ (if opArity v.op = 3 then span v.c n else [])

/-- Target ranges. -/
def vecWrites (v : VArgs) : List Region := span v.dst (vecOutBytes v) ++ (if isBs v.ofmt then span v.scalePlane (ceilDiv v.n 32) else [])

/-- Arithmetic on vectors of FP32 or BF16. -/
def State.arithmetic (s : State) (core slot : Nat) (v : VArgs) : State :=
  let f := (floatFmt v.ifmt).getD fp32
  let a := (s.codesAt v.ifmt v.a v.n).map f.decode
  let b := (s.codesAt v.ifmt v.b v.n).map f.decode
  let c := if opArity v.op = 3 then (s.codesAt v.ifmt v.c v.n).map f.decode else a
  let r := ((a.zip b).zip c).map fun x => elementOut v.op v.ofmt (elementOp v.op x.1.1 x.1.2 x.2)
  let out := if v.op = .cmp then r.flatMap fun x => leBytes 4 x.1 else packCodes v.ofmt (r.map (·.1))
  (s.putBytes v.dst out).raise core slot (AFlags.all (r.map (·.2)))

/-! ### Conversions (02 R48, 03 R61-R63) -/

/-- The conversions of 02 R48 that the vector unit offers: of XM48 it converts to FP32 and BF16 and nothing else (03 R73). -/
def converts (i o : Nat) : Bool :=
  match i with
  | 0 => [1, 2, 3, 4, 5, 6].contains o
  | 1 => [0, 2, 3, 4, 5, 6].contains o
  | 6 => [0, 1, 2, 3, 4, 5].contains o
  | 7 | 8 => [0, 1].contains o
  | _ => false

/-- The values of a source. -/
def State.sourceVals (s : State) (v : VArgs) : List FVal :=
  let cs := s.codesAt v.ifmt v.a v.n
  match floatFmt v.ifmt with
  | some f => cs.map f.decode
  | none => cs.map fun c => let i := elemInt v.ifmt c; .fin (decide (i < 0)) i.natAbs 0

/-- The largest magnitude among finite values, as an A48 code. -/
def maxMagnitude (vs : List FVal) : Nat := vs.foldl (fun m v => if v.finite then max m ((a48.ofVal v).1 % a48.signBit) else m) 0

/-- A conversion with one scale byte for the whole tensor. -/
def State.convertWhole (s : State) (core slot : Nat) (v : VArgs) (scale : Nat) (vs : List FVal) : State :=
  let q := quantize v.ofmt scale vs
  (s.putBytes v.dst (packCodes v.ofmt q.1)).raise core slot { sat := q.2 }

/-- A conversion into INT8 or INT4 with the scale of its tensor (03 R62, R63). -/
def State.convertInt (s : State) (core slot : Nat) (eval : Bool) (v : VArgs) (vs : List FVal) : State :=
  let s := if s.evalTensor v.tensor then s.recordMagnitude eval v.tensor (maxMagnitude vs) else s
  s.convertWhole core slot v (s.intScale v.tensor v.ofmt) vs

/-- A conversion into BS8 or BS4, with a scale byte per block of 32 by the recipe of the tensor's kind (03 R62). -/
def State.convertBlocks (s : State) (core slot : Nat) (v : VArgs) (vs : List FVal) : State :=
  let q := quantizeBlocks v.ofmt (recipeLimit v.ofmt (s.tensorKind v.tensor == 2)) vs
  let s := s.putBytes v.dst (packCodes v.ofmt q.1)
  (s.putBytes v.scalePlane (q.2.1.map (BitVec.ofNat 8))).raise core slot { sat := q.2.2 }

/-- A conversion (02 R48). A non-finite value has no encoding in a scaled format (02 R49). -/
def State.convert (s : State) (core slot : Nat) (eval : Bool) (v : VArgs) : State :=
  let vs := s.sourceVals v
  match floatFmt v.ofmt with
  | some f =>
    let r := vs.map f.ofVal
    (s.putBytes v.dst (packCodes v.ofmt (r.map (·.1)))).raise core slot (AFlags.all (r.map (·.2)))
  | none =>
    if !vs.all FVal.finite then s.workFault eval .formatInvalid
    else if isBs v.ofmt then s.convertBlocks core slot v vs
    else s.convertInt core slot eval v vs

/-- The operands of an element-wise operation name a form that the spec gives it: a scaled target is a declared tensor, of a kind that 03 R62
gives a recipe or a valid scale byte. -/
def State.vecCoded (s : State) (v : VArgs) : Bool :=
  if v.op = .convert then
    converts v.ifmt v.ofmt && (!isInt v.ofmt || (s.tensorRec v.tensor).elim false fun t => decide (t.scale ≤ 0xFE)) &&
    (!isBs v.ofmt || (s.tensorRec v.tensor).elim false fun t => decide (t.kind ≤ 2))
  else (v.ifmt == 0 || v.ifmt == 1) && (v.ofmt == 0 || v.ofmt == 1)

/-- VECTOR_ELEMENTWISE. -/
def vectorElementwise (core slot : Nat) (v : VArgs) (s : State) : State :=
  let t := (s.weir core).task slot
  if !(s.runs core slot && s.workLive t.evalClass) then s
  else if !(s.vecCoded v) then s.workFault t.evalClass .formatInvalid
  else
    s.vector core slot (vecReads v) (vecWrites v) fun s t =>
      if v.op = .convert then s.convert core slot t.evalClass v else s.arithmetic core slot v

/-! ### Reductions (02 R60) and split-K (03 R67, R68) -/

/-- The partials of a reduction, one for the whole or one per declared part, with their flags. -/
def partialsOf (t7 : Bool) (parts : Option (List Nat)) (ps : List (FVal × FVal)) : List (Nat × AFlags) :=
  (cutBy (parts.getD [ps.length]) ps).map (reduceVals t7)

/-- Partials combined in part order, with the flags of the whole reduction. -/
def combineAll (t7 : Bool) (rs : List (Nat × AFlags)) : Nat × AFlags :=
  let c := combineParts t7 (rs.map (·.1))
  (c.1, reductionFlags (accFmt t7) c.1 (rs.any (·.2.infOut)) (c.2 || rs.any (·.2.ovf)))

/-- Where a logical core puts the partials of a reduction kernel that declares parts: its share of the area that the loader placed for the
kernel (03 R67, 01 R37; log entry 114). -/
def State.partialArea (s : State) (core kernel parts : Nat) : Nat :=
  let base := s.prog.elim 0 fun p => ((p.place.partials.find? fun e => e.1 == kernel).map (·.2.base)).getD 0
  base + core * (parts * if s.t7 then 4 else 6)

/-- The partials of a kernel with parts written to its area; a kernel without parts has none. -/
def State.keepPartials (s : State) (core kernel : Nat) (parts : Option (List Nat)) (rs : List (Nat × AFlags)) : State :=
  match parts with
  | none => s
  | some l => s.write (s.partialArea core kernel l.length) (packCodes (if s.t7 then 0 else 6) (rs.map (·.1)))

/-- The largest K that a reduction kernel declares (03 R65-R67). -/
def kernelLimit (q : KernelDecl) : Nat := q.parts.elim q.maxK List.sum

/-- VECTOR_REDUCTION: a dot product of two vectors, or a plain sum, under R50 (02 R60). With declared parts each part's partial goes to the
kernel's area, and the partials are combined by the tree of 03 R68. -/
def vectorReduction (core slot kernel x : Nat) (y : Option Nat) (bf16In : Bool) (n : Nat) (bf16Out : Bool) (dst : Nat) (s : State) : State :=
  let t := (s.weir core).task slot
  let ifmt := if bf16In then 1 else 0
  let ofmt := if bf16Out then 1 else 0
  let k := s.prog.bind fun p => p.decl.kernels[kernel]?
  if !(s.runs core slot && s.workLive t.evalClass) then s
  else if !(k.elim false fun q => q.vecRed && decide (n ≤ kernelLimit q)) then s.workFault t.evalClass .indexRange
  else
    s.vector core slot (span x (fmtBytes ifmt n) ++ (y.elim [] fun y => span y (fmtBytes ifmt n))) (span dst (fmtBytes ofmt 1)) fun s _ =>
      let f := if bf16In then bf16 else fp32
      let xs := (s.codesAt ifmt x n).map f.decode
      let ys := match y with
        | some y => (s.codesAt ifmt y n).map f.decode
        | none => xs.map fun _ => .fin false 1 0
      let parts := k.bind (·.parts)
      let rs := partialsOf s.t7 parts (xs.zip ys)
      let r := combineAll s.t7 rs
      let o := outputFloat s.t7 (if bf16Out then bf16 else fp32) r.1
      ((s.keepPartials core kernel parts rs).putBytes dst (packCodes ofmt [o.1])).raise core slot (r.2.converted o.2)

/-- One element of a split-K combine with its flags: an infinity that no partial had is an overflow (02 R58). -/
def combineElem (t7 : Bool) (f : Fmt) (parts : List Nat) : Nat × AFlags :=
  let g := accFmt t7
  let c := combineParts t7 parts
  let o := outputFloat t7 f c.1
  (o.1, (reductionFlags g c.1 (parts.any fun p => (g.decode p).isInf) c.2).converted o.2)

/-- SPLIT_K_COMBINE: partial arrays by part number, each of `n` codes (03 R68). -/
def splitKCombine (core slot : Nat) (parts : List Nat) (n ofmt dst : Nat) (s : State) : State :=
  let t := (s.weir core).task slot
  let t7 := s.prog.elim false (·.t7)
  let ifmt := if t7 then 0 else 6
  if !(s.runs core slot && s.workLive t.evalClass) then s
  else if !(ofmt == 0 || ofmt == 1 || (ofmt == 6 && !t7)) then s.workFault t.evalClass .formatInvalid
  else
    s.vector core slot (parts.flatMap fun p => span p (fmtBytes ifmt n)) (span dst (fmtBytes ofmt n)) fun s _ =>
      let rows := parts.map fun p => s.codesAt ifmt p n
      let r := (List.range n).map fun i => combineElem t7 ((floatFmt ofmt).getD fp32) (rows.map fun row => nth 0 row i)
      (s.putBytes dst (packCodes ofmt (r.map (·.1)))).raise core slot (AFlags.all (r.map (·.2)))

/-! ### XM48 (03 R73, R74) -/

/-- The XM48 values that a core's vector unit holds between its operations on them: one vector for the core, which all its tasks share (log entry
115: 03 R73 does not say where loaded values stand). -/
def State.setXreg (s : State) (core : Nat) (x : List Nat) : State := s.setWeir core { s.weir core with xreg := x }

/-- The held values combined with FP32 values in memory, one each, and rounded once into XM48. -/
def State.xm48Op (s : State) (core slot a : Nat) (f : FVal → FVal → Nat × AFlags) : State :=
  let x := (s.weir core).xreg
  s.vector core slot (span a (4 * x.length)) [] fun s _ =>
    let r := (x.zip (s.codesAt 0 a x.length)).map fun e => f (xm48.decode e.1) (fp32.decode e.2)
    (s.setXreg core (r.map (·.1))).raise core slot (AFlags.all (r.map (·.2)))

/-- XM48_ADD: w + d. -/
def xm48Add (core slot d : Nat) (s : State) : State := s.xm48Op core slot d xm48.addVals

/-- XM48_MUL: w × c. -/
def xm48Mul (core slot c : Nat) (s : State) : State := s.xm48Op core slot c xm48.mulVals

/-- XM48_LOAD: values at a six-byte stride (02 R44). -/
def xm48Load (core slot addr n : Nat) (s : State) : State :=
  s.vector core slot (span addr (6 * n)) [] fun s _ => s.setXreg core (s.codesAt 8 addr n)

/-- XM48_STORE. -/
def xm48Store (core slot addr : Nat) (s : State) : State :=
  let x := (s.weir core).xreg
  s.vector core slot [] (span addr (6 * x.length)) fun s _ => s.putBytes addr (packCodes 8 x)

/-- XM48_CONVERT: to FP32 or BF16 by one rounding (03 R74). -/
def xm48Convert (core slot : Nat) (toBf16 : Bool) (addr : Nat) (s : State) : State :=
  let x := (s.weir core).xreg
  let o := if toBf16 then 1 else 0
  s.vector core slot [] (span addr (fmtBytes o x.length)) fun s _ =>
    let r := x.map fun c => (if toBf16 then bf16 else fp32).ofVal (xm48.decode c)
    (s.putBytes addr (packCodes o (r.map (·.1)))).raise core slot (AFlags.all (r.map (·.2)))

/-! ### The rows -/

/-- VECTOR_ELEMENTWISE (02 R59). -/
def execVectorElementwise (core slot : Nat) (v : VArgs) (s : State) : Host.Outcome State Fault Refusal := .next (vectorElementwise core slot v s)

/-- VECTOR_REDUCTION (02 R60). -/
def execVectorReduction (core slot kernel x : Nat) (y : Option Nat) (bf16In : Bool) (n : Nat) (bf16Out : Bool) (dst : Nat) (s : State) :
    Host.Outcome State Fault Refusal :=
  .next (vectorReduction core slot kernel x y bf16In n bf16Out dst s)

/-- SPLIT_K_COMBINE (03 R68). -/
def execSplitKCombine (core slot : Nat) (parts : List Nat) (n ofmt dst : Nat) (s : State) : Host.Outcome State Fault Refusal :=
  .next (splitKCombine core slot parts n ofmt dst s)

/-- XM48_ADD (03 R73). -/
def execXm48Add (core slot d : Nat) (s : State) : Host.Outcome State Fault Refusal := .next (xm48Add core slot d s)

/-- XM48_MUL (03 R73). -/
def execXm48Mul (core slot c : Nat) (s : State) : Host.Outcome State Fault Refusal := .next (xm48Mul core slot c s)

/-- XM48_LOAD (03 R73). -/
def execXm48Load (core slot addr n : Nat) (s : State) : Host.Outcome State Fault Refusal := .next (xm48Load core slot addr n s)

/-- XM48_STORE (03 R73). -/
def execXm48Store (core slot addr : Nat) (s : State) : Host.Outcome State Fault Refusal := .next (xm48Store core slot addr s)

/-- XM48_CONVERT (03 R74). -/
def execXm48Convert (core slot : Nat) (bf16 : Bool) (addr : Nat) (s : State) : Host.Outcome State Fault Refusal :=
  .next (xm48Convert core slot bf16 addr s)

end Sys2Proof.Machine
end

