-- ==== Sys2Proof/Machine/Binning.lean ====
section
/-! DEFINITION. The encoder of sparse tiles (05 R106), transposable 2:4 masks (05 R116-R118), row binning and scattering (05 R119,
R120). -/

namespace Sys2Proof.Machine

open Sys2Proof

/-! ### SP_ENCODE (05 R106) -/

/-- An element code is a zero of either sign. -/
def zeroCode (fmt c : Nat) : Bool := c == 0 || (fmt == 1 && c == 0x8000)

/-- The bitmap word of a strip: a bit per element that is not zero. -/
def stripWord (fmt : Nat) (strip : List Nat) : Nat :=
  ((List.range strip.length).map fun i => if zeroCode fmt (nth 0 strip i) then 0 else 2 ^ i).sum

/-- A line cut into strips of 32, the last one filled with zeros. -/
def lineStrips (line : List Nat) : List (List Nat) := (groupsOf 32 line).map fun g => (g ++ List.replicate 32 0).take 32

/-- The sixteen header bytes of 05 R104. -/
def spHeaderBytes (fmt ewid : Nat) (cap : Bool) (lines kspan nnz bytes : Nat) : List Byte :=
  leBytes 1 (16 * ewid + fmt) ++ leBytes 1 cap.toNat ++ leBytes 2 lines ++ leBytes 2 kspan ++ zeros 2 ++ leBytes 4 nnz ++ leBytes 4 bytes

/-- Runs of all-zero strips before each stored strip of a line. -/
def runBytes : Nat → List Nat → List Nat
  | _, [] => []
  | n, w :: t => if w = 0 then runBytes (n + 1) t else n :: runBytes 0 t

/-- The payload of BITMAP or RLE_BITMAP up to its stored values (05 R105). -/
def indexBytes (form : Nat) (words : List (List Nat)) : List Byte :=
  if form = 1 then words.flatten.flatMap (leBytes 4)
  else
    let dir := words.map fun l => (l.filter (· != 0)).length
    let runs := words.flatMap (runBytes 0)
    fit (roundUp (dir.length + dir.sum) 4) ((dir ++ runs).map (BitVec.ofNat 8)) ++ (words.flatten.filter (· != 0)).flatMap (leBytes 4)

/-- One tile from its lines of elements: its bytes, and whether it breaks a requested cap. A zero of either sign is +0 in a DENSE tile too, since −0 is
never stored. -/
def encodeTile (fmt form : Nat) (cap : Bool) (lines : List (List Nat)) : List Byte × Bool :=
  let w := fmtBits fmt
  let strips := (lines.map fun l => l.map fun c => if zeroCode fmt c then 0 else c).map lineStrips
  let kspan := (nth [] strips 0).length
  let words := strips.map fun l => l.map (stripWord fmt)
  let stored := (lines.flatten.filter fun c => !zeroCode fmt c)
  let dense := 16 + 4 * lines.length * kspan * w
  let body := indexBytes form words ++ packCodes fmt stored
  let broken := cap && words.flatten.any overCap
  if 16 + body.length < dense then
    let n := roundUp (16 + body.length) 16
    (fit n (spHeaderBytes form (ewidOf fmt) (cap && !broken) lines.length kspan stored.length n ++ body), broken)
  else
    let n := roundUp dense 16
    (fit n (spHeaderBytes 0 (ewidOf fmt) false lines.length kspan stored.length n ++ packCodes fmt strips.flatten.flatten), broken)

/-- The pieces of 1,024 K indices of a tile-row. -/
def tilePieces (lines : List (List Nat)) : List (List (List Nat)) :=
  (List.range (ceilDiv (nth [] lines 0).length 1024)).map fun i => lines.map fun l => (l.drop (1024 * i)).take 1024

/-- The tile-rows of an operand: 32 lines each. -/
def tileRows (lines : List (List Nat)) : List (List (List Nat)) := groupsOf 32 lines

/-- SP_ENCODE. DESIGN CHOICE (log entry 119), where 05 R106 says nothing: its dense source is lines of K elements at a stride, so a K × N operand of 04 R92
is not a source; an undefined format or form, RLE_BITMAP with CAP24, and a slot stride that is not a multiple of 16 give FORMAT_INVALID; a tile-row that
does not fit its slot gives INDEX_RANGE. -/
def spEncode (core slot : Nat) (a : SpArgs) (s : State) : State :=
  let t := (s.weir core).task slot
  let ok := decide (1 ≤ a.fmt) && decide (a.fmt ≤ 5) && (a.form == 1 || (a.form == 2 && !a.cap24)) && a.dstStride % 16 == 0
  if !(s.runs core slot && s.workLive t.evalClass) then s
  else if !ok then s.workFault t.evalClass .formatInvalid
  else
    s.vector core slot (rowsRegion a.src a.lines a.srcStride (fmtBytes a.fmt a.k)) (headeredRegion a.dst a.lines a.dstStride) fun s t =>
      let rows := (tileRows (s.rowCodes a.fmt a.src a.srcStride a.lines a.k)).map fun r => (tilePieces r).map (encodeTile a.fmt a.form a.cap24)
      let bytes := rows.map fun r => r.flatMap (·.1)
      if bytes.any fun b => decide (a.dstStride < b.length) then s.workFault t.evalClass .indexRange
      else
        let s := (List.range bytes.length).foldl (fun s j => s.putBytes (a.dst + j * a.dstStride) (nth [] bytes j)) s
        s.count (cCore (s.physical core) 17) (rows.flatten.filter (·.2)).length

/-! ### MASK44 (05 R116-R118) -/

/-- The eight (row, column) places of a pattern in the order of R116. -/
def places44 (p : List Nat) : List (Nat × Nat) :=
  (List.range 4).flatMap fun r =>
    let c := nth (0, 0) pairs44 (nth 0 p r)
    [(r, c.1), (r, c.2)]

/-- The sum of magnitudes of a pattern over a block, exact; none is infinite (05 R118). -/
def patternSum (block : List (List FVal)) (p : List Nat) : Option Dy :=
  let vs := (places44 p).map fun x => nth (FVal.fin false 0 0) (nth [] block x.1) x.2
  if vs.all FVal.finite then some (vs.foldl (fun a v => a.add { m := v.dy.m.natAbs, e := v.dy.e }) Dy.zero) else none

/-- A sum is larger than another. -/
def sumAbove (a b : Option Dy) : Bool :=
  match a, b with
  | none, some _ => true
  | some x, some y => decide (0 < (x.add { m := -y.m, e := y.e }).m)
  | _, none => false

/-- The pattern of a block: the largest sum, and among equal sums the lowest code (05 R118). -/
def mask44Code (block : List (List FVal)) : Nat :=
  ((List.range patterns44.length).foldl (fun (b : Nat × Option (Option Dy)) c =>
    let x := patternSum block (nth [] patterns44 c)
    match b.2 with
    | none => (c, some x)
    | some y => if sumAbove x y then (c, some x) else b) (0, none)).1

/-- The code of the transposed pattern. -/
def transpose44 (c : Nat) : Nat :=
  let cells := places44 (nth [] patterns44 c)
  ((List.range patterns44.length).find? fun q => (places44 (nth [] patterns44 q)).all fun x => cells.contains (x.2, x.1)).getD 0

/-- Values by line and K index with the codes of their blocks: what a PATTERN44 operand holds. -/
structure Masked where
  lines : List (List FVal)
  codes : List (List Nat)
  deriving Repr, Inhabited

/-- The value that a masked operand stores at a line and K index, 0 where it is not selected. -/
def Masked.kept (m : Masked) (line k : Nat) : FVal :=
  let c := nth 0 (nth [] m.codes (line / 4)) (k / 4)
  if (places44 (nth [] patterns44 c)).contains (k % 4, line % 4) then nth (.fin false 0 0) (nth [] m.lines line) k else .fin false 0 0

/-- The values that a masked operand stores, by line and K index. -/
def Masked.vals (m : Masked) : List (List FVal) :=
  (List.range m.lines.length).map fun l => (List.range (nth [] m.lines l).length).map (m.kept l)

/-- The element codes and scale bytes of a masked operand by line (05 R118): for BS8 and BS4 a scale per block of 32, with unselected positions as zero, to
the limit `gradient` chooses; for INT8 and INT4 one scale for the tensor (03 R62); none when a selected value has no encoding (02 R49). -/
def Masked.convert (m : Masked) (fmt scale : Nat) (gradient : Bool) : Option (List (List Nat) × List (List Nat) × AFlags) :=
  let vs := m.vals
  if fmt = 1 then
    let r := vs.map fun l => l.map bf16.ofVal
    some (r.map fun l => l.map (·.1), [], AFlags.all (r.flatten.map (·.2)))
  else if !vs.all (fun l => l.all FVal.finite) then none
  else if isBs fmt then
    let r := vs.map (quantizeBlocks fmt (recipeLimit fmt gradient))
    some (r.map (·.1), r.map (·.2.1), { sat := r.any (·.2.2) })
  else
    let r := vs.map (quantize fmt scale)
    some (r.map (·.1), [], { sat := r.any (·.2) })

/-- The record of a block: its code, then its eight values (05 R116). -/
def recordBytes (fmt code : Nat) (elem : Nat → Nat → Nat) : List Byte :=
  leBytes 1 code ++ packCodes fmt ((places44 (nth [] patterns44 code)).map fun x => elem x.1 x.2)

/-- One PATTERN44 tile: lines `l0` on, K indices `k0` on. Blocks beyond the operand hold zeros under code 0. -/
def tile44 (fmt : Nat) (codes : List (List Nat)) (elems : List (List Nat)) (l0 lines k0 kspan : Nat) : List Byte :=
  let n := 16 + 2 * lines * kspan * (1 + fmtBits fmt)
  let body := (List.range (lines / 4)).flatMap fun g => (List.range (8 * kspan)).flatMap fun b =>
    recordBytes fmt (nth 0 (nth [] codes (l0 / 4 + g)) (k0 / 4 + b)) fun r c => nth 0 (nth [] elems (l0 + 4 * g + c)) (k0 + 4 * b + r)
  fit (roundUp n 16) (spHeaderBytes 3 (ewidOf fmt) false lines kspan (16 * lines * kspan) (roundUp n 16) ++ body)

/-- The tile-rows of a PATTERN44 operand as bytes. -/
def rows44 (fmt : Nat) (codes elems : List (List Nat)) : List (List Byte) :=
  let k := (nth [] elems 0).length
  (List.range (ceilDiv elems.length 32)).map fun j => (List.range (ceilDiv k 1024)).flatMap fun i =>
    tile44 fmt codes elems (32 * j) (min 32 (elems.length - 32 * j)) (1024 * i) (min 32 (ceilDiv (k - 1024 * i) 32))

/-- The scale plane of B: a row of one byte per line for each block of 32 K (04 R92), rows packed (log entry 34). -/
def scalePlaneB (scales : List (List Nat)) : List Byte :=
  (List.range (nth [] scales 0).length).flatMap fun g => scales.map fun l => BitVec.ofNat 8 (nth 0 l g)

/-- Transposed rows and columns. -/
def flipped {α : Type} (d : α) (n : Nat) (l : List (List α)) : List (List α) := (List.range n).map fun i => l.map fun r => nth d r i

/-- One output of MASK44: tile-rows and, for block-scaled elements, the scale plane. -/
def State.put44 (s : State) (fmt dst stride scales : Nat) (codes : List (List Nat)) (r : List (List Nat) × List (List Nat) × AFlags) : State :=
  let rows := rows44 fmt codes r.1
  let s := (List.range rows.length).foldl (fun s j => s.putBytes (dst + j * stride) (nth [] rows j)) s
  if isBs fmt then s.putBytes scales (scalePlaneB r.2.1) else s

/-- Bytes of the longest tile-row of a PATTERN44 operand with this many lines and K. -/
def rowBytes44 (fmt lines k : Nat) : Nat :=
  ((List.range (ceilDiv k 1024)).map fun i => roundUp (16 + 2 * min 32 lines * min 32 (ceilDiv (k - 1024 * i) 32) * (1 + fmtBits fmt)) 16).sum

/-- Target ranges of MASK44. -/
def maskWrites (a : MaskArgs) : List Region :=
  headeredRegion a.dst a.n a.dstStride ++ (if isBs a.fmt then span a.scales (a.n * ceilDiv a.k 32) else []) ++
  (a.dstT.elim [] fun t => headeredRegion t a.k a.dstTStride ++ (if isBs a.fmt then span a.scalesT (a.k * ceilDiv a.n 32) else [])) ++
  (if a.prune then rowsRegion a.src a.k a.srcStride (fmtBytes a.sfmt a.n) else [])

/-- The operands of MASK44 name a form the spec gives it. DESIGN CHOICE (log entry 127), as for SP_ENCODE: 05 R118 names no code for K or N not a multiple
of 4, an undefined format or a slot stride not a multiple of 16; each gives FORMAT_INVALID. -/
def maskCoded (a : MaskArgs) : Bool :=
  (a.sfmt == 0 || a.sfmt == 1 || a.sfmt == 8) && decide (1 ≤ a.fmt) && decide (a.fmt ≤ 5) && a.k % 4 == 0 && a.n % 4 == 0 &&
  a.dstStride % 16 == 0 && a.dstTStride % 16 == 0

/-- Each tile-row fits its slot; DESIGN CHOICE (log entry 127): INDEX_RANGE otherwise. -/
def maskFits (a : MaskArgs) : Bool :=
  decide (rowBytes44 a.fmt a.n a.k ≤ a.dstStride) && (a.dstT.isNone || decide (rowBytes44 a.fmt a.k a.n ≤ a.dstTStride))

/-- The source with the unselected positions of its blocks set to +0 (05 R118 step 4). -/
def State.pruned (s : State) (a : MaskArgs) (codes : List (List Nat)) : State :=
  let w := fmtBits a.sfmt / 8
  (List.range a.k).foldl (fun s k => (List.range a.n).foldl (fun s n =>
    if (places44 (nth [] patterns44 (nth 0 (nth [] codes (n / 4)) (k / 4)))).contains (k % 4, n % 4) then s
    else s.putBytes (a.src + k * a.srcStride + n * w) (zeros w)) s) s

/-- The conversion of one output of MASK44 by the declaration of the tensor that it forms (03 R62). -/
def State.convertMasked (s : State) (fmt tensor : Nat) (m : Masked) : Option (List (List Nat) × List (List Nat) × AFlags) :=
  m.convert fmt (s.intScale tensor fmt) (s.tensorKind tensor == 2)

/-- An evaluation tensor that MASK44 forms in a step's Forward takes its magnitude into the record (03 R63). -/
def State.recordMasked (s : State) (eval : Bool) (fmt tensor : Nat) (m : Masked) : State :=
  if isInt fmt && s.evalTensor tensor then s.recordMagnitude eval tensor (maxMagnitude m.vals.flatten) else s

/-- MASK44. -/
def mask44 (core slot : Nat) (a : MaskArgs) (s : State) : State :=
  let t := (s.weir core).task slot
  if !(s.runs core slot && s.workLive t.evalClass) then s
  else if !maskCoded a then s.workFault t.evalClass .formatInvalid
  else if !maskFits a then s.workFault t.evalClass .indexRange
  else
    s.vector core slot (rowsRegion a.src a.k a.srcStride (fmtBytes a.sfmt a.n)) (maskWrites a) fun s t =>
      let f := (floatFmt a.sfmt).getD fp32
      let rows := (s.rowCodes a.sfmt a.src a.srcStride a.k a.n).map fun r => r.map f.decode
      let lines := flipped (.fin false 0 0) a.n rows
      let codes := (List.range (a.n / 4)).map fun g => (List.range (a.k / 4)).map fun b =>
        mask44Code ((List.range 4).map fun r => ((nth [] rows (4 * b + r)).drop (4 * g)).take 4)
      let codesT := (flipped 0 (a.k / 4) codes).map fun l => l.map transpose44
      let w : Masked := { lines := lines, codes := codes }
      let wT : Masked := { lines := rows, codes := codesT }
      match s.convertMasked a.fmt a.tensor w, (if a.dstT.isSome then s.convertMasked a.fmt a.tensorT wT else some ([], [], {})) with
      | some r, some rt =>
        let s := s.recordMasked t.evalClass a.fmt a.tensor w
        let s := if a.dstT.isSome then s.recordMasked t.evalClass a.fmt a.tensorT wT else s
        let s := s.put44 a.fmt a.dst a.dstStride a.scales codes r
        let s := a.dstT.elim s fun d => s.put44 a.fmt d a.dstTStride a.scalesT codesT rt
        let s := if a.prune then s.pruned a codes else s
        s.raise core slot (r.2.2.or rt.2.2)
      | _, _ => s.workFault t.evalClass .formatInvalid

/-! ### ROWBIN and ROWSCATTER (05 R119, R120) -/

/-- The bin of a count: 0, or its bit length. -/
def binOf (c : Nat) : Nat := if c = 0 then 0 else Nat.log2 c + 1

/-- Rows in descending bin order and, within a bin, in ascending index. -/
def binPerm (counts : List Nat) : List Nat :=
  (List.range 33).reverse.flatMap fun b => (List.range counts.length).filter fun i => binOf (nth 0 counts i) == b

/-- The first place of bins 32 down to 0, then M. -/
def binStarts (counts : List Nat) : List Nat :=
  ((List.range 33).reverse.map fun b => (counts.filter fun c => decide (b < binOf c)).length) ++ [counts.length]

/-- ROWBIN. An M above its limit is an index beyond the operand. -/
def rowbin (core slot counts m perm starts : Nat) (s : State) : State :=
  let t := (s.weir core).task slot
  if !(s.runs core slot && s.workLive t.evalClass) then s
  else if 16777216 < m then s.workFault t.evalClass .indexRange
  else
    s.vector core slot (span counts (4 * m)) (span perm (4 * m) ++ span starts 136) fun s _ =>
      let cs := (List.range m).map fun i => s.readNat (counts + 4 * i) 4
      (s.putBytes perm ((binPerm cs).flatMap (leBytes 4))).putBytes starts ((binStarts cs).flatMap (leBytes 4))

/-- ROWSCATTER: every entry is checked before any row is written. -/
def rowscatter (core slot src rowBytes m perm dst dstRows : Nat) (s : State) : State :=
  s.vector core slot (span src (m * rowBytes) ++ span perm (4 * m)) (span dst (dstRows * rowBytes)) fun s t =>
    let ps := (List.range m).map fun i => s.readNat (perm + 4 * i) 4
    if ps.any fun p => decide (dstRows ≤ p) then s.workFault t.evalClass .indexRange
    else (List.range m).foldl (fun s i => s.putBytes (dst + nth 0 ps i * rowBytes) (s.read (src + i * rowBytes) rowBytes)) s

/-! ### The rows -/

/-- SP_ENCODE (05 R106). -/
def execSpEncode (core slot : Nat) (a : SpArgs) (s : State) : Host.Outcome State Fault Refusal := .next (spEncode core slot a s)

/-- MASK44 (05 R118). -/
def execMask44 (core slot : Nat) (a : MaskArgs) (s : State) : Host.Outcome State Fault Refusal := .next (mask44 core slot a s)

/-- ROWBIN (05 R119). -/
def execRowbin (core slot counts m perm starts : Nat) (s : State) : Host.Outcome State Fault Refusal :=
  .next (rowbin core slot counts m perm starts s)

/-- ROWSCATTER (05 R120). -/
def execRowscatter (core slot src rowBytes m perm dst dstRows : Nat) (s : State) : Host.Outcome State Fault Refusal :=
  .next (rowscatter core slot src rowBytes m perm dst dstRows s)

end Sys2Proof.Machine
end

