-- ==== Sys2Proof/Machine/Braid.lean ====
section
/-! DEFINITION. Braid (05 R121-R126): plans of addition from keys, and merges along them in a fixed tree. -/

namespace Sys2Proof.Machine

open Sys2Proof

/-- A Braid descriptor (05 R121). -/
structure BraidDesc where
  op : Nat
  ifmt : Nat
  ofmt : Nat
  flag : Nat
  n : Nat
  d : Nat
  v : Nat
  src : Nat
  dest : Nat
  plan : Nat
  out : Nat
  partStride : Nat
  outStride : Nat
  deriving DecidableEq, Repr, Inhabited

/-- The fields of 64 descriptor bytes. -/
def braidDesc (b : List Byte) : BraidDesc :=
  let w := field b 0 8
  {
    op := bits w 0 4
    ifmt := bits w 4 4
    ofmt := bits w 8 4
    flag := bits w 12 5
    n := field b 0x08 4
    d := field b 0x0C 4
    v := field b 0x10 2
    src := field b 0x18 6
    dest := field b 0x20 6
    plan := field b 0x28 6
    out := field b 0x30 6
    partStride := field b 0x38 4
    outStride := field b 0x3C 4
  }

/-- FP32, BF16 or A48. -/
def braidFmt (c : Nat) : Bool := c == 0 || c == 1 || c == 6

/-- Check 1 of 05 R122. A non-zero V of a BRAID_PLAN is an unused field. -/
def BraidDesc.coded (d : BraidDesc) (b : List Byte) : Bool :=
  bits (field b 0 8) 17 47 == 0 && field b 0x12 6 == 0 && field b 0x1E 2 == 0 && field b 0x26 2 == 0 && field b 0x2E 2 == 0 &&
  field b 0x36 2 == 0 &&
  (match d.op with
   | 1 => d.ifmt == 0 && d.ofmt == 0 && d.v == 0 && d.out == 0 && d.partStride == 0 && d.outStride == 0
   | 2 => braidFmt d.ifmt && braidFmt d.ofmt && d.dest == 0
   | _ => false)

/-- A count within its range and its declared maximum, which is 0 when the operation is not used (05 R122, 14 R345). -/
def withinMax (v lo hi declared : Nat) : Bool := declared != 0 && decide (lo ≤ v) && decide (v ≤ hi) && decide (v ≤ declared)

/-- Check 3 of 05 R122. -/
def BraidDesc.sized (d : BraidDesc) (q : Decl) : Bool :=
  if d.op = 1 then withinMax d.n 0 67108864 q.planN && withinMax d.d 1 67108864 q.planD
  else withinMax d.n 0 67108864 q.mergeN && withinMax d.d 1 67108864 q.mergeD && withinMax d.v 1 4096 q.mergeV

/-- What a descriptor reads. -/
def BraidDesc.reads (d : BraidDesc) : List Region :=
  if d.op = 1 then rowsRegion d.src d.n 16 16 ++ [{ base := d.dest, len := 8 * d.d }]
  else rowsRegion d.src d.n d.partStride (fmtBytes d.ifmt d.v) ++ [{ base := d.plan, len := 4 * (d.d + 1 + d.n) }]

/-- What it writes. -/
def BraidDesc.writes (d : BraidDesc) : List Region :=
  if d.op = 1 then [{ base := d.plan, len := 4 * (d.d + 1 + d.n) }] else rowsRegion d.out d.d d.outStride (fmtBytes d.ofmt d.v)

/-- A range in the SRAM of a core of the cluster, in HBM or in Staging SRAM (05 R121). -/
def State.braidPlace (s : State) (cluster : Nat) (r : Region) : Bool :=
  match s.placeOfRange r.base r.len with
  | .hbm | .staging => true
  | .sram c => c / 8 == cluster
  | _ => false

/-- The same for a range that is written, which the graph-store region may not be part of (08 R187). -/
def State.braidTarget (s : State) (cluster : Nat) (r : Region) : Bool := s.braidPlace cluster r && !overlaps r s.graphRegion

/-- The checks of 05 R122, in order: the first that fails. -/
def State.braidCheck (s : State) (cluster : Nat) (d : BraidDesc) (b : List Byte) : Option Status :=
  if !d.coded b then some .formatInvalid
  else if s.prog.elim false (·.t7) && (d.ifmt == 6 || d.ofmt == 6) then some .formatInvalid
  else if !(s.prog.elim false fun p => d.sized p.decl) then some .indexRange
  else if !(d.reads.all (s.braidPlace cluster) && d.writes.all (s.braidTarget cluster)) then some .indexRange
  else none

/-! ### BRAID_PLAN (05 R123) -/

/-- A key with its place in the key array. -/
structure BraidKey where
  node : Nat
  sub : Nat
  seq : Nat
  resv : Nat
  idx : Nat
  deriving DecidableEq, Repr, Inhabited

/-- The keys of a descriptor. -/
def State.braidKeys (s : State) (d : BraidDesc) : List BraidKey :=
  (List.range d.n).map fun i =>
    let b := s.read (d.src + 16 * i) 16
    {
      node := field b 0 5
      sub := field b 5 2
      seq := field b 8 4
      resv := field b 7 1 + field b 12 4
      idx := i
    }

/-- The destination table: node ids and reserved bytes. -/
def State.braidTable (s : State) (d : BraidDesc) : List (Nat × Nat) :=
  (List.range d.d).map fun i => (s.readNat (d.dest + 8 * i) 5, s.readNat (d.dest + 8 * i + 5) 3)

/-- Strictly ascending. -/
def strictlyRising : List Nat → Bool
  | a :: b :: t => decide (a < b) && strictlyRising (b :: t)
  | _ => true

/-- Order by destination, then SEQ, then SUB. -/
def BraidKey.before (a b : BraidKey) : Bool :=
  decide (a.node < b.node) || (a.node == b.node && (decide (a.seq < b.seq) || (a.seq == b.seq && decide (a.sub ≤ b.sub))))

/-- Two keys equal in destination, SEQ and SUB, as neighbours of a sorted list. -/
def sameNeighbours : List BraidKey → Bool
  | a :: b :: t => (a.node == b.node && a.seq == b.seq && a.sub == b.sub) || sameNeighbours (b :: t)
  | _ => false

/-- A key put into its place of a sorted list, after its equals. -/
def insertKey (k : BraidKey) : List BraidKey → List BraidKey
  | [] => [k]
  | a :: t => if a.before k then a :: insertKey k t else k :: a :: t

/-- Keys sorted. -/
def sortKeys (l : List BraidKey) : List BraidKey := l.foldl (fun a k => insertKey k a) []

/-- The content checks of 05 R123, in order: the first that fails. -/
def planFault (table : List (Nat × Nat)) (keys sorted : List BraidKey) : Option Status :=
  if !strictlyRising (table.map (·.1)) then some .formatInvalid
  else if table.any (·.2 != 0) || keys.any (·.resv != 0) then some .formatInvalid
  else if !keys.all (fun k => table.any fun t => t.1 == k.node) then some .indexRange
  else if sameNeighbours sorted then some .formatInvalid
  else none

/-- The plan: D + 1 start offsets, then the partial indices in sorted order. -/
def planWords (table : List (Nat × Nat)) (sorted : List BraidKey) : List Nat :=
  (table.map fun t => (sorted.filter fun k => decide (k.node < t.1)).length) ++ [sorted.length] ++ sorted.map (·.idx)

/-! ### BRAID_MERGE (05 R124, R125) -/

/-- A lone partial as the adder would leave it: canonical NaN, and +0 for a zero. -/
def canonPart (f : Fmt) (c : Nat) : Nat :=
  match f.decode c with
  | .nan => f.nan
  | .fin _ 0 _ => 0
  | _ => c

/-- The fixed tree of 05 R124, and whether an addition in it overflowed: the left subtree takes the larger half. -/
def mergeTree (t7 : Bool) : Nat → List Nat → Nat × Bool
  | 0, _ => (0, false)
  | fuel + 1, l =>
    match l with
    | [] => (0, false)
    | [x] => (canonPart (accFmt t7) x, false)
    | l => addAcc t7 (mergeTree t7 fuel (l.take ((l.length + 1) / 2))) (mergeTree t7 fuel (l.drop ((l.length + 1) / 2)))

/-- A plan's D + 1 start offsets and N indices. -/
def State.planAt (s : State) (d : BraidDesc) : List Nat × List Nat :=
  ((List.range (d.d + 1)).map fun i => s.readNat (d.plan + 4 * i) 4, (List.range d.n).map fun i => s.readNat (d.plan + 4 * (d.d + 1 + i)) 4)

/-- A list does not decrease. -/
def notFalling : List Nat → Bool
  | a :: b :: t => decide (a ≤ b) && notFalling (b :: t)
  | _ => true

/-- The plan keeps the checks of 05 R124. -/
def planOk (d : BraidDesc) (p : List Nat × List Nat) : Bool :=
  notFalling p.1 && p.1.head? == some 0 && p.1.getLast? == some d.n && p.2.all fun i => decide (i < d.n)

/-- One output row of a merge with its flags: element by element over the entry's partials in plan order. -/
def State.mergeRow (s : State) (d : BraidDesc) (t7 : Bool) (parts : List Nat) : List Byte × AFlags :=
  let f := accFmt t7
  let inF := (floatFmt d.ifmt).getD fp32
  let outF := (floatFmt d.ofmt).getD fp32
  let rows := parts.map fun i => elemCodes d.ifmt (s.read (d.src + i * d.partStride) (fmtBytes d.ifmt d.v)) d.v
  let r := (List.range d.v).map fun e =>
    let xs := rows.map fun row => (f.ofVal (inF.decode (nth 0 row e))).1
    let m := mergeTree t7 (rows.length + 1) xs
    let o := outputFloat t7 outF m.1
    (o.1, (reductionFlags f m.1 (xs.any fun x => (f.decode x).isInf) m.2).converted o.2)
  (packCodes d.ofmt (r.map (·.1)), AFlags.all (r.map (·.2)))

/-- The rows of a merge: address, bytes and flags. -/
def State.mergeRows (s : State) (d : BraidDesc) (t7 : Bool) (p : List Nat × List Nat) : List (Nat × List Byte × AFlags) :=
  (List.range d.d).map fun i =>
    (d.out + i * d.outStride, s.mergeRow d t7 (slicePlan p.2 (nth 0 p.1 i) (nth 0 p.1 (i + 1))))
where
  /-- Indices from one start offset to the next. -/
  slicePlan (l : List Nat) (a b : Nat) : List Nat := (l.drop a).take (b - a)

/-- Element additions of a merge. -/
def mergeAdds (d : BraidDesc) (p : List Nat × List Nat) : Nat :=
  ((List.range d.d).map fun i => (nth 0 p.1 (i + 1) - nth 0 p.1 i - 1) * d.v).sum

/-! ### The unit (05 R126) -/

/-- The cluster of a logical core. -/
def State.clusterOf (s : State) (core : Nat) : Nat := s.physical core / 8

/-- Braid descriptors in progress on a cluster. -/
def State.braidBusy (s : State) (cluster : Nat) : List Running := s.gc.busy.filter fun r => r.unit == .braid && s.clusterOf r.core == cluster

/-- A queued descriptor is clear of the uncompleted Braid descriptors of the module, whatever their clusters, accepted before it (05 R126). -/
def State.braidClear (s : State) (q : QDesc) : Bool :=
  s.queuedClear (fun r => r.unit == .braid) (fun e => e.unit == .braid) (fun e => ((braidDesc e.bytes).reads, (braidDesc e.bytes).writes)) q

/-- BRAID_PLAN run: checked, sorted, written. -/
def State.runPlan (s : State) (cluster : Nat) (q : QDesc) (d : BraidDesc) : State :=
  let table := s.braidTable d
  let keys := s.braidKeys d
  let sorted := sortKeys keys
  match planFault table keys sorted with
  | some x => s.failDesc q x
  | none =>
    let s := (s.write d.plan ((planWords table sorted).flatMap (leBytes 4))).count (cCluster cluster 8) d.n
    s.startDesc q d.flag d.reads d.writes

/-- BRAID_MERGE run: the plan checked, then every row written. -/
def State.runMerge (s : State) (cluster : Nat) (q : QDesc) (d : BraidDesc) : State :=
  let p := s.planAt d
  if planOk d p then
    let rows := s.mergeRows d (s.prog.elim false (·.t7)) p
    let s := rows.foldl (fun s r => s.write r.1 r.2.1) s
    let s := (s.count (cCluster cluster 9) (mergeAdds d p)).raise q.core q.slot (AFlags.all (rows.map (·.2.2)))
    s.startDesc q d.flag d.reads d.writes
  else s.failDesc q .indexRange

/-- The next Braid descriptor of a cluster that no earlier one holds back, if it is of the kind `merge` says: checked and run (log entry 119). -/
def State.braid (s : State) (cluster : Nat) (merge : Bool) : State :=
  match s.nextDesc fun q => q.unit == .braid && s.clusterOf q.core == cluster && s.braidClear q with
  | none => s
  | some q =>
    let d := braidDesc q.bytes
    if !(s.hasCore q.core && s.workLive q.eval && (d.op == 2) == merge) then s
    else
      match s.braidCheck cluster d q.bytes with
      | some x => s.failDesc q x
      | none =>
        if (s.braidBusy cluster).all (fun r => !r.done) then
          (if merge then s.runMerge cluster q d else s.runPlan cluster q d)
        else s

/-- BRAID_DONE: the oldest descriptor in progress on a cluster completes and sets its flag. -/
def braidDone (cluster : Nat) (s : State) : State := s.finishDesc fun r => r.unit == .braid && s.clusterOf r.core == cluster

/-- BRAID_PLAN (05 R123). -/
def execBraidPlan (cluster : Nat) (s : State) : Host.Outcome State Fault Refusal := .next (s.braid cluster false)

/-- BRAID_MERGE (05 R124). -/
def execBraidMerge (cluster : Nat) (s : State) : Host.Outcome State Fault Refusal := .next (s.braid cluster true)

/-- BRAID_DONE (05 R126). -/
def execBraidDone (cluster : Nat) (s : State) : Host.Outcome State Fault Refusal := .next (braidDone cluster s)

end Sys2Proof.Machine
end

