-- ==== Sys2Proof/Machine/Ecc.lean ====
section
/-! DEFINITION. The memory codes (08 R192-R196): Reed-Solomon over GF(2^8), re-reads, corrections and pin marking. -/

namespace Sys2Proof.Machine

open Sys2Proof

/-! ### The field (08 R192) -/

/-- Multiplication by the root of x^8 + x^4 + x^3 + x^2 + 1. -/
def gfDouble (a : Byte) : Byte := if a.getLsbD 7 then (a <<< 1) ^^^ 0x1D#8 else a <<< 1

/-- Product in GF(2^8), over the bits of the second factor from bit `k - 1` down. -/
def gfMulFrom (a b : Byte) : Nat → Byte → Byte
  | 0, acc => acc
  | k + 1, acc => gfMulFrom a b k (gfDouble acc ^^^ (if b.getLsbD k then a else 0))

/-- Product in GF(2^8). -/
def gfMul (a b : Byte) : Byte := gfMulFrom a b 8 0

/-- Powers of the root. -/
def gfPow : Nat → Byte
  | 0 => 1
  | k + 1 => gfDouble (gfPow k)

/-- The inverse: the 254th power. -/
def gfInv (a : Byte) : Byte :=
  let p2 := gfMul a a
  let p4 := gfMul p2 p2
  let p8 := gfMul p4 p4
  let p16 := gfMul p8 p8
  let p32 := gfMul p16 p16
  let p64 := gfMul p32 p32
  let p128 := gfMul p64 p64
  gfMul p128 (gfMul p64 (gfMul p32 (gfMul p16 (gfMul p8 (gfMul p4 p2)))))

/-! ### Syndromes and correction -/

/-- The value of a word's polynomial at a point: symbol i is the coefficient of x^i (Horner from the top). -/
def gfEval (x : Byte) : List Byte → Byte
  | [] => 0
  | c :: t => c ^^^ gfMul x (gfEval x t)

/-- The first `r` syndromes: values at the powers 0 to r - 1 of the root. -/
def syndromes (r : Nat) (w : List Byte) : List Byte := (List.range r).map fun j => gfEval (gfPow j) w

/-- The syndromes of errors given as (place, value). -/
def errorSyndromes (r : Nat) (es : List (Nat × Byte)) : List Byte :=
  (List.range r).map fun j => es.foldl (fun v e => v ^^^ gfMul e.2 (gfPow (j * e.1 % 255))) 0

/-- The one error at a place that gives the first syndrome. -/
def oneError (s0 : Byte) (i : Nat) : List (Nat × Byte) := [(i, s0)]

/-- The two errors at two places that give the first two syndromes. -/
def twoErrors (s0 s1 : Byte) (i j : Nat) : List (Nat × Byte) :=
  let xi := gfPow i
  let xj := gfPow j
  let ei := gfMul (s1 ^^^ gfMul s0 xj) (gfInv (xi ^^^ xj))
  [(i, ei), (j, s0 ^^^ ei)]

/-- Every error at one place of `n`, and if `two` every error at two places; at two places one is the marked one when there is one. -/
def candidates (n : Nat) (two : Bool) (marked : Option Nat) (s0 s1 : Byte) : List (List (Nat × Byte)) :=
  let ones := (List.range n).map (oneError s0)
  let pairs := (List.range n).flatMap fun i => ((List.range i).filter fun j => marked.isNone || marked == some i || marked == some j).map fun j =>
    twoErrors s0 s1 i j
  if two then ones ++ pairs else ones

/-- The errors that non-zero syndromes match: at most two symbols (at most one besides the marked pin), for RS(36,32); at most one,
for RS(10,8) (08 R193, R195, R196). -/
def matchErrors (n r : Nat) (marked : Option Nat) (syn : List Byte) : Option (List (Nat × Byte)) :=
  (candidates n (r == 4) marked (nth 0 syn 0) (nth 0 syn 1)).find? fun es => errorSyndromes r es == syn && es.all fun e => e.2 != 0

/-- A word with errors taken out. -/
def correctWord (w : List Byte) (es : List (Nat × Byte)) : List Byte := es.foldl (fun w e => modNth w e.1 (· ^^^ e.2)) w

/-- How a read comes out (08 R193). -/
inductive ReadResult where
  | clean (data : List Byte)
  | erased (data : List Byte)
  | reread (data : List Byte)
  | corrected (data : List Byte) (places : List Nat)
  | uncorrectable
  deriving DecidableEq, Repr

/-- A word is clean, or only its marked symbol is wrong, which mode B takes as an erasure (08 R193 step 1, R195). -/
def acceptWord (r : Nat) (marked : Option Nat) (w : List Byte) : Option (List Byte × Bool) :=
  let s := syndromes r w
  if s.all (· == 0) then some (w.drop r, false)
  else match marked with
  | none => none
  | some p => if errorSyndromes r (oneError (nth 0 s 0) p) = s then some ((correctWord w (oneError (nth 0 s 0) p)).drop r, true) else none

/-- Decoding of a first and, if it is needed, a second read (08 R193, R195, R196). -/
def decodeRead (n r : Nat) (marked : Option Nat) (a b : List Byte) : ReadResult :=
  match acceptWord r marked a with
  | some (d, e) => if e then .erased d else .clean d
  | none =>
    match acceptWord r marked b with
    | some (d, _) => .reread d
    | none =>
      if syndromes r a = syndromes r b then
        match matchErrors n r marked (syndromes r b) with
        | some es => .corrected ((correctWord b es).drop r) (es.map (·.1))
        | none => .uncorrectable
      else .uncorrectable

/-- The check symbols of data bytes: the remainder of data × x^r by the generator, found as what makes every syndrome zero. -/
def remainderStep (gen : List Byte) (rem : List Byte) (d : Byte) : List Byte :=
  let top := nth 0 rem (gen.length - 1) ^^^ d
  (List.range gen.length).map fun i => (if i = 0 then 0 else nth 0 rem (i - 1)) ^^^ gfMul top (nth 0 gen i)

/-- Coefficients x^0 to x^(r-1) of the monic generator with roots at the powers 0 to r - 1 (08 R192, R196). -/
def generatorPoly (r : Nat) : List Byte :=
  ((List.range r).foldl (fun g k =>
    (List.range (g.length + 1)).map fun i => (if i = 0 then 0 else nth 0 g (i - 1)) ^^^ gfMul (gfPow k) (nth 0 g i)) [(1 : Byte)]).take r

/-- A codeword: check symbols, then data (08 R192, R196). -/
def encodeWord (r : Nat) (data : List Byte) : List Byte :=
  data.reverse.foldl (remainderStep (generatorPoly r)) (List.replicate r 0) ++ data

/-! ### Reads of the module's memories -/

/-- The marked pin of a pseudo-channel (08 R195, hbmphy.mark). -/
def State.markedPin (s : State) (pc : Nat) : Option Nat :=
  let m := s.ind.mark.get 0 pc
  if m.getLsbD 31 then some (bits m.toNat 0 6) else none

/-- The pin that carries the symbol at a place: data pins 0 to 31, then check pins (08 R192). -/
def pinOfPlace (k : Nat) : Nat := if k < 4 then 32 + k else k - 4
/-- The place of the symbol that a pin carries. -/
def placeOfPin (p : Nat) : Nat := if p < 32 then p + 4 else p - 32

/-- One corrected symbol counted on its pin; a pin that reaches 4,096 is marked, or denied when one is marked already. The next interface training
replaces a marked pin (08 R195). -/
def State.countPin (s : State) (pc pin : Nat) : State :=
  let k := 36 * pc + pin
  let n := s.ind.pinCorr.get 0 k + 1
  let s := { s with ind := { s.ind with pinCorr := s.ind.pinCorr.set 0 k n } }
  if n = 4096 then
    if (s.ind.mark.get 0 pc).getLsbD 31 then s.count cHbmMarkDenied 1
    else
      State.count { s with
        ind := { s.ind with mark := s.ind.mark.set 0 pc (BitVec.ofNat 32 (2 ^ 31 + pin)) }
        tier := { s.tier with worn := s.tier.worn.put pc pin } } cHbmPinsMarked 1
  else s

/-- An HBM burst read (08 R193): the counts it makes and the corrected data written back. False when it is uncorrectable. -/
def State.readBurst (s : State) (r : RawWords) : Bool × State :=
  let pc := pseudoChannel r.addr
  match decodeRead 36 4 ((s.markedPin pc).map placeOfPin) r.first r.second with
  | .clean _ => (true, s)
  | .erased _ => (true, s)
  | .reread _ => (true, s.count (cPc pc 0) 1)
  | .corrected d places =>
    let s := (s.count (cPc pc 1) 1).write (r.addr / 32 * 32) d
    (true, places.foldl (fun s k => if s.markedPin pc = some (pinOfPlace k) then s else s.countPin pc (pinOfPlace k)) s)
  | .uncorrectable => (false, s)

/-- The LPDDR channel of a module DRAM address, which the spec leaves open (log entry 31): a free number below 32. -/
def State.dramChannel (s : State) : Nat × State :=
  let f := s.takeFree 5
  (f.1.toNat, f.2)

/-- A word of module DRAM or on-die SRAM read (08 R196). -/
def State.readWord (s : State) (r : RawWords) : Bool × State :=
  match decodeRead 10 2 none r.first r.second with
  | .corrected d _ =>
    match s.placeOf r.addr with
    | .dram | .dramFw =>
      let c := s.dramChannel
      let t := c.2
      let t := { t with ind := { t.ind with lpddrCorr := t.ind.lpddrCorr.set 0 c.1 (t.ind.lpddrCorr.get 0 c.1 + 1) } }
      (true, (t.count cDramCorrected 1).write (r.addr / 8 * 8) d)
    | _ => (true, (s.count cSramCorrected 1).write (r.addr / 8 * 8) d)
  | .uncorrectable => (false, s)
  | _ => (true, s)

/-- A raw read of whichever memory its address names. -/
def State.rawRead (s : State) (r : RawWords) : Bool × State :=
  match s.placeOf r.addr with
  | .hbm | .pool => s.readBurst r
  | _ => s.readWord r

end Sys2Proof.Machine
end

