-- ==== Sys2Proof/Machine/Tables.lean ====
section
/-! DEFINITION. Row tables (07 R153-R155, R168-R171): owners, directories, slots and where a row's state lies, access counts, and what
Eddy holds. -/

namespace Sys2Proof.Machine

open Sys2Proof

/-! ### Declarations (07 R153-R155) -/

/-- A declared table. -/
def State.table (s : State) (t : Nat) : Option TableDecl := s.decl.bind fun d => d.tables[t]?

/-- The loader's places for a table. -/
def State.tabPlace (s : State) (t : Nat) : TabPlace :=
  (s.prog.bind fun p => p.place.tabs[t]?).getD { dir := 0, slots := 0, slotCount := 0, master := 0, moments := 0 }

/-- Bytes of a row: elements, then the scale bytes of a BS8 row. -/
def tabRowBytes (t : TableDecl) : Nat := fmtBytes t.fmt t.width + (if t.fmt = 4 then ceilDiv t.width 32 else 0)

/-- Bytes of a slot: the row's bytes rounded up to a multiple of 32. -/
def tabSlotLen (t : TableDecl) : Nat := roundUp (tabRowBytes t) 32

/-- Bytes of a gradient row in GFMT. -/
def tabGradBytes (t : TableDecl) : Nat := if t.gradBs8 then t.width + ceilDiv t.width 32 else 4 * t.width

/-- The key of a row: table × 2^40 + row. -/
def rowKey (t r : Nat) : Nat := t * 2 ^ 40 + r
/-- The table of a key. -/
def keyTable (k : Nat) : Nat := k / 2 ^ 40
/-- The row of a key. -/
def keyRow (k : Nat) : Nat := k % 2 ^ 40

/-- The home owner of a row under PART. -/
def homeOwner (d : Decl) (ranks : Nat) (t : TableDecl) (row : Nat) : Nat :=
  if t.followNode then nodeOwner d ranks row else blockOwner t.rows ranks row

/-- A row's place among its home owner's rows. -/
def homeIndex (d : Decl) (ranks : Nat) (t : TableDecl) (row : Nat) : Nat :=
  if t.followNode then nodeIndex d ranks row else row - blockFirst t.rows ranks (homeOwner d ranks t row)

/-- The rows of which a rank is the home owner, ascending. -/
def homeRows (d : Decl) (ranks rank : Nat) (t : TableDecl) : List Nat :=
  (List.range t.rows).filter fun r => homeOwner d ranks t r == rank

/-- The owner of a row of a SHARDED table: what the migration map names, otherwise the home owner (07 R154). -/
def State.rowOwner (s : State) (t row : Nat) : Nat :=
  match s.st.migMap.find (rowKey t row), s.decl, s.table t with
  | some r, _, _ => r
  | none, some d, some td => homeOwner d s.ranks td row
  | _, _, _ => 0

/-- This module owns a row. -/
def State.owns (s : State) (t row : Nat) : Bool := s.mach.rank == some (s.rowOwner t row)

/-- The directory entry of a row held here: by its home index, or after those in the place it took on arrival. -/
def State.dirIndex (s : State) (t row : Nat) : Nat :=
  match s.decl, s.table t with
  | some d, some td =>
    if homeOwner d s.ranks td row = s.rank then homeIndex d s.ranks td row
    else (homeRows d s.ranks s.rank td).length + s.st.migSlots.get 0 (rowKey t row)
  | _, _ => 0

/-- The address of a row's directory entry: the slot's address in bits [47:0], VERSION in bits [63:48] (07 R155). -/
def State.dirAddr (s : State) (t row : Nat) : Nat := (s.tabPlace t).dir + 8 * s.dirIndex t row

/-- The slot of a row. -/
def State.slotOf (s : State) (t row : Nat) : Nat := s.readNat (s.dirAddr t row) 6

/-- The VERSION of an owned row. -/
def State.versionOf (s : State) (t row : Nat) : Nat := s.readNat (s.dirAddr t row + 6) 2

/-- A directory entry stored as one 64-bit word. -/
def State.setDir (s : State) (t row slot version : Nat) : State := s.write (s.dirAddr t row) (leBytes 6 slot ++ leBytes 2 version)

/-- Bytes of a master element. -/
def State.masterBytes (s : State) : Nat := if s.t7 then 4 else 6

/-- The range of an owned row's master. -/
def State.masterOf (s : State) (t row : Nat) : Region :=
  let n := s.masterBytes * (s.table t).elim 0 (·.width)
  { base := (s.tabPlace t).master + n * s.dirIndex t row, len := n }

/-- The range of an owned row's moments. -/
def State.momentsOf (s : State) (t row : Nat) : Region :=
  let n := 4 * (s.table t).elim 0 (fun d => d.moments * d.width)
  { base := (s.tabPlace t).moments + n * s.dirIndex t row, len := n }

/-- Where a row of a LOCAL table lies. -/
def State.localSlot (s : State) (t row : Nat) : Nat :=
  let base := (s.prog.bind fun p => p.place.localTabs.find? fun e => e.1 == t).elim 0 (·.2)
  base + (s.table t).elim 0 (fun d => tabSlotLen d) * row

/-- The rows of a table that this module owns now, ascending. -/
def State.ownedRows (s : State) (t : Nat) : List Nat :=
  match s.table t with
  | some td => if td.sharded then (List.range td.rows).filter fun r => s.owns t r else []
  | none => []

/-- The addresses of a table's shadow slots: behind those of its home rows and its migration area. -/
def State.shadowSlots (s : State) (t : Nat) : List Nat :=
  match s.decl, s.table t with
  | some d, some td =>
    let n := (homeRows d s.ranks s.rank td).length + td.migArea
    (List.range td.shadow).map fun i => (s.tabPlace t).slots + tabSlotLen td * (n + i)
  | _, _ => []

/-! ### Committed values (07 R167) -/

/-- A byte as it was before the Commit in progress touched it. -/
def State.committedByte (s : State) (a : Nat) : Byte := (s.st.undo.find? fun e => e.1 == a).elim (s.byte a) (·.2)

/-- Bytes as committed: the undo log's copies where Commit has overwritten them. -/
def State.readCommitted (s : State) (a n : Nat) : List Byte := (List.range n).map fun i => s.committedByte (a + i)

/-- The bytes and VERSION of a row of this module, as committed. -/
def State.rowValue (s : State) (t row : Nat) : List Byte × Nat :=
  match s.table t with
  | none => ([], 0)
  | some td =>
    if td.sharded then (s.readCommitted (s.slotOf t row) (tabRowBytes td), s.versionOf t row)
    else (s.read (s.localSlot t row) (tabRowBytes td), s.st.localVer.get 0 t)

/-! ### The rows of a tensor (12 R313, 13 R343) -/

/-- The SHARDED table in whose row slots a placed range begins, if any. -/
def State.tableAt (s : State) (a : Nat) : Option Nat :=
  (List.range (s.decl.elim 0 (·.tables.length))).find? fun t => (s.table t).elim false fun td =>
    td.sharded && decide ((s.tabPlace t).slots ≤ a) && decide (a < (s.tabPlace t).slots + tabSlotLen td * (s.tabPlace t).slotCount)

/-- One more row, ascending: it lengthens the last range where it follows on it, and otherwise starts one. -/
def addRow (td : TableDecl) (tensor : Nat) (l : List RowPlace) (row addr : Nat) : List RowPlace :=
  let one : RowPlace := { tensor := tensor, first := row, rows := 1, rowBytes := tabRowBytes td, addr := addr, stride := tabSlotLen td }
  match l.getLast? with
  | some x => if x.first + x.rows = row ∧ x.addr + x.rows * x.stride = addr then l.dropLast ++ [{ x with rows := x.rows + 1 }] else l ++ [one]
  | none => [one]

/-- The rows of a table that this module holds now, as contiguous ranges, with the slots in which they stand. -/
def State.heldRows (s : State) (tensor t : Nat) : List RowPlace :=
  (s.table t).elim [] fun td =>
    ((List.range td.rows).filter (s.owns t)).foldl (fun l row => addRow td tensor l row (s.slotOf t row)) []

/-- The ranges of a tensor's rows on this module. They are the loader's, but for a tensor in a SHARDED table's slots, whose rows move with MIGRATE and
TABLE_REPLACE: those are where the directory has them. DEDUCED (log entry 139). -/
def State.rangesOf (s : State) (tensor : Nat) : List RowPlace :=
  let l := s.prog.elim [] fun p => p.place.rows.filter fun x => x.tensor == tensor
  (l.filter fun x => (s.tableAt x.addr).isNone) ++ (l.filterMap fun x => s.tableAt x.addr).eraseDups.flatMap (s.heldRows tensor)

/-! ### Access counts (07 R169) -/

/-- The log of one step added and the one 64 steps back taken away, at the end of a completed step; the naming pairs are then cleared. -/
def State.countNames (s : State) : State :=
  let now := s.st.named.map (·.1)
  let log := now :: s.st.winLog
  let old := (log.drop 64).headD []
  let add := now.foldl (fun m k => NMap.set 0 m k (NMap.get 0 m k + 1)) s.st.win
  let win := old.foldl (fun m k => NMap.set 0 m k (NMap.get 0 m k - 1)) add
  { s with st := { s.st with
    win := win
    winLog := log.take 64
    named := [] } }

/-- A member names a row of an EDDY table in a step: counted once per step. -/
def State.nameRow (s : State) (t row requester : Nat) : State :=
  if (s.table t).elim false (·.eddy) && !s.st.named.contains (rowKey t row, requester) then
    { s with st := { s.st with named := (rowKey t row, requester) :: s.st.named } }
  else s

/-! ### Eddy (07 R168, R170, R171) -/

/-- Bytes that a replica costs its owner's quota. -/
def replicaCost (t : TableDecl) : Nat := tabSlotLen t + 16

/-- The quota of this module in bytes. DESIGN CHOICE (log entry 133): an equal division of Eddy that leaves a rest is rounded down to whole bytes. -/
def State.eddyQuota (s : State) : Nat :=
  match s.decl with
  | none => 0
  | some d => (d.eddyQuota.elim ((2 ^ 27 / s.ranks)) fun q => 1024 * nth 0 q s.rank)

/-- A key with its count put in descending count, then ascending key. -/
def insertHot (x : Nat × Nat) : List (Nat × Nat) → List (Nat × Nat)
  | [] => [x]
  | y :: t => if y.2 > x.2 ∨ (y.2 = x.2 ∧ y.1 < x.1) then y :: insertHot x t else x :: y :: t

/-- Rows taken in order until the quota is filled: the first that does not fit ends the selection (log entry 37). -/
def State.fillQuota (s : State) : Nat → List (Nat × Nat) → List Nat
  | _, [] => []
  | left, (k, _) :: t =>
    let c := (s.table (keyTable k)).elim 0 replicaCost
    if c ≤ left then k :: s.fillQuota (left - c) t else []

/-- The rows that this module selects for replication. -/
def State.hotRows (s : State) : List Nat :=
  let hot := s.st.win.filter fun e =>
    s.owns (keyTable e.1) (keyRow e.1) && (s.table (keyTable e.1)).elim false fun t => t.eddy && decide (t.hotThresh < e.2)
  s.fillQuota s.eddyQuota (hot.foldl (fun l x => insertHot x l) [])

/-- A replica's value as sent: VERSION, then the row. -/
def State.replicaValue (s : State) (k : Nat) : List Byte :=
  let v := s.rowValue (keyTable k) (keyRow k)
  leBytes 2 v.2 ++ v.1

/-- The step before the one to run next (01 R33, 12 R316). -/
def State.lastStep (s : State) : Nat := (s.st.stepNo + 2 ^ 32 - 1) % 2 ^ 32

/-- Eddy may serve: always for a step; for an EVAL from the end of the refresh after its pinned step, when every other member's has ended here
or the next step has begun (07 R168; log entry 38). -/
def State.eddyServes (s : State) (eval : Bool) (pinned : Nat) : Bool :=
  !eval || (s.st.completed.getD s.lastStep == pinned &&
    (s.others.all (fun o => s.st.refreshed.contains o) || s.st.run.elim false fun r => r.phase != .waitStart))

/-- The step that the EVAL on the cores is pinned to. -/
def State.pinned (s : State) : Nat := (s.st.evals.head?).elim 0 (·.pinned)

/-- IN_BYTES. -/
def inBytes (ts : List TableDecl) : Nat := (ts.map tabRowBytes).sum

/-- NIN. -/
def inElems (ts : List TableDecl) : Nat := (ts.map (·.width)).sum

end Sys2Proof.Machine
end

