-- ==== Sys2Proof/Machine/Quarry.lean ====
section
/-! DEFINITION. Quarry (07 R156-R168, R174, R180): descriptors, gathers, lookup batches and their replies, scatters and gather rounds. -/

namespace Sys2Proof.Machine

open Sys2Proof

/-! ### Batches (10 R247) -/

/-- The batch header. -/
def batchHeader (step attempt index : Nat) (eval : Bool) (tag : Nat) : List Byte :=
  leBytes 4 step ++ leBytes 1 attempt ++ leBytes 1 index ++ leBytes 1 eval.toNat ++ zeros 1 ++ leBytes 8 tag

/-- A batch of records as messages toward one rank, each with the header, the last marked LAST. `per` is how many records fit. -/
def batchMsgs (typ opc dst per : Nat) (header : List Byte) (records : List (List Byte)) (resp : Bool) (last : Bool := true) : List Msg :=
  let parts := if records = [] then [[]] else groupsOf (max per 1) records
  (List.range parts.length).map fun i =>
    mkMsg typ opc 10 dst (header ++ (nth [] parts i).flatten) resp (last && i + 1 == parts.length)

/-- Messages sent in order. -/
def State.sendMsgs (s : State) (ms : List Msg) : State := ms.foldl State.send s

/-- The reserved bits of a batch header are 0. -/
def batchHeaderOk (b : List Byte) : Bool := decide (16 ≤ b.length) && bits (field b 6 1) 1 7 == 0 && field b 7 1 == 0

/-- Two messages carry the same batch header from the same source. -/
def sameBatch (a b : Msg) : Bool := a.src == b.src && a.typ == b.typ && a.opc == b.opc && a.resp == b.resp && a.body.take 16 == b.body.take 16

/-- The MSGID before another. -/
def prevId (id : Nat) : Nat := (id + 2 ^ 32 - 1) % 2 ^ 32

/-- The messages of a batch before one at MSGID `id`, found backwards among those at hand: the batch starts after a message that is known not to be
of it. None while that message may still come (log entry 70). -/
def State.batchBack (s : State) (m : Msg) (l : List Msg) : Nat → Nat → List Msg → Option (List Msg)
  | 0, _, _ => none
  | fuel + 1, id, acc =>
    match l.find? fun x => x.id == id with
    | some x => if x.last then some acc else s.batchBack m l fuel (prevId id) (x :: acc)
    | none =>
      if (s.net.dup.get DupRec.fresh (m.src * 16 + m.vc)).seen id && !((s.net.inbox ++ s.net.dropped).any fun x => sameBatch x m && x.id == id) then some acc else none

/-- A message of a batch (10 R247): the whole batch in the order of its MSGIDs when this completes it, whatever order its messages came in (10
R245), otherwise it waits for the others. -/
def State.batchIn (s : State) (m : Msg) : Option (List Msg) × State :=
  let parts := s.ex.parts ++ [m]
  let l := parts.filter (sameBatch m)
  match (l.filter (·.last)).findSome? fun x => (s.batchBack x l (l.length + 1) (prevId x.id) []).map (· ++ [x]) with
  | some b => (some b, { s with ex := { s.ex with parts := parts.filter fun x => !b.contains x } })
  | none => (none, { s with ex := { s.ex with parts := parts } })

/-- The record bytes of a whole batch. -/
def batchBytes (b : List Msg) : List Byte := b.flatMap fun m => m.body.drop 16

/-- A spare whose pull is not complete holds requests (11 R283). -/
def State.pulling (s : State) : Bool := s.mir.pulls.any fun p => p.owner == s.rank && !p.fin

/-! ### Descriptors (07 R160, R161) -/

/-- A Quarry descriptor. -/
structure QuarryDesc where
  op : Nat
  tbl : Nat
  round : Nat
  flag : Nat
  n : Nat
  batchBase : Nat
  list : Nat
  data : Nat
  lstride : Nat
  dstride : Nat
  ver : Nat
  deriving DecidableEq, Repr, Inhabited

/-- The fields of 64 descriptor bytes. -/
def quarryDesc (b : List Byte) : QuarryDesc where
  op := bits (field b 0 8) 0 4
  tbl := bits (field b 0 8) 4 8
  round := bits (field b 0 8) 12 3
  flag := bits (field b 0 8) 15 5
  n := field b 0x08 4
  batchBase := field b 0x0C 4
  list := field b 0x10 6
  data := field b 0x18 6
  dstride := field b 0x20 4
  lstride := field b 0x24 4
  ver := field b 0x28 6

/-- Check 1: codes, reserved and unused fields, declared table and round, strides. DESIGN CHOICE (log entry 131): of SCATTER_GRAD, whose ROUND nothing
uses, the model asks what it asks of the others, a round that the program declares, and not 0. -/
def State.quarryCoded (s : State) (d : QuarryDesc) (b : List Byte) : Bool :=
  let fixed := bits (field b 0 8) 20 44 == 0 && field b 0x16 2 == 0 && field b 0x1E 2 == 0 && field b 0x2E 2 == 0 && allZero b 0x30 16
  let round := decide (d.round < s.decl.elim 0 (·.rounds))
  fixed && round &&
  (if d.op = 3 then d.tbl == 0 && allZero b 8 40
   else
    match s.table d.tbl with
    | none => false
    | some t =>
      let row := if d.op = 1 then tabRowBytes t else tabGradBytes t
      (d.op == 1 || d.op == 2) && (d.op == 2 || d.batchBase == 0) && (d.op == 1 || d.ver == 0) && decide (d.n ≤ 16777216) &&
      d.lstride % 8 == 0 && decide (8 ≤ d.lstride) && d.dstride % 32 == 0 && decide (row ≤ d.dstride))

/-- The row ids of a descriptor's list: bytes 0-4 of each entry. -/
def State.quarryIds (s : State) (d : QuarryDesc) : List Nat := (List.range d.n).map fun i => s.readNat (d.list + i * d.lstride) 5

/-- Bytes of a data row of a descriptor. -/
def State.quarryRow (s : State) (d : QuarryDesc) : Nat := (s.table d.tbl).elim 0 fun t => if d.op = 1 then tabRowBytes t else tabGradBytes t

/-- `n` pieces of `len` bytes at a stride, as one range. -/
def strided (a n stride len : Nat) : List Region := if n = 0 then [] else span a ((n - 1) * stride + len)

/-- What a descriptor reads. -/
def State.quarryReads (s : State) (d : QuarryDesc) : List Region :=
  if d.op = 3 then [] else strided d.list d.n d.lstride 5 ++ (if d.op = 2 then strided d.data d.n d.dstride (s.quarryRow d) else [])

/-- What it writes. -/
def State.quarryWrites (s : State) (d : QuarryDesc) : List Region :=
  if d.op = 1 then strided d.data d.n d.dstride (s.quarryRow d) ++ (if d.ver = 0 then [] else span d.ver (2 * d.n)) else []

/-- The checks of 07 R161, in order: the first that fails. -/
def State.quarryCheck (s : State) (q : QDesc) (d : QuarryDesc) : Option Status :=
  let phys := s.physical q.core
  if !s.quarryCoded d q.bytes then some .formatInvalid
  else if d.op == 2 && !(s.table d.tbl).elim false (·.train) then some .formatInvalid
  else if d.op != 3 && (s.quarryIds d).any (fun r => r != noId && decide ((s.table d.tbl).elim 0 (·.rows) ≤ r)) then some .indexRange
  else if d.op == 2 && decide (2 ^ 32 < d.batchBase + d.n) then some .indexRange
  else if !((s.quarryReads d).all (fun r => s.coreReads phys r.base r.len) && (s.quarryWrites d).all (fun r => s.coreWrites phys r.base r.len)) then
    some .indexRange
  else none

/-- Quarry descriptors in progress. -/
def State.quarryBusy (s : State) : List Running := s.gc.busy.filter fun r => r.unit == .quarry

/-- The engine that counts an access: the first beside the controller of an address (07 R159; log entry 39, DESIGN CHOICE). -/
def quarryEngine (a : Nat) : Nat := 3 * stackOf (pseudoChannel a)

/-- The 32-byte blocks that a range touches, by address. -/
def blocksOf (a n : Nat) : List Nat := if n = 0 then [] else (List.range ((a % 32 + n + 31) / 32)).map fun i => a / 32 * 32 + 32 * i

/-- The blocks of a row on the narrow path: those outside the whole aligned 256-byte lines that the row covers, which go by line accesses (07 R156,
R159). DESIGN CHOICE (log entry 129): R159 says so of reads, and lines that Quarry writes whole are taken the same way. -/
def narrowBlocks (a n : Nat) : List Nat := (blocksOf a n).filter fun x => !(decide (a ≤ x / 256 * 256) && decide (x / 256 * 256 + 256 ≤ a + n))

/-- The narrow accesses of bytes in HBM that Quarry reads or writes, each at the controller that holds its address (07 R159, 08 R189). -/
def State.countNarrow (s : State) (a n : Nat) : State :=
  if s.placeOfRange a n == .hbm then (narrowBlocks a n).foldl (fun s x => s.count (cNarrow (stackOf (pseudoChannel x))) 1) s else s

/-- The narrow accesses of a Headwater sampler to a parent's node-table entry, and of its search of the parent's run and alias table, whose number at
each controller that holds a part of them is open and taken as a free value (06 R152, 07 R156, 15 R381; log entry 129). -/
def State.countSearch (s : State) (entry : Nat) (searched : List Region) : State :=
  let s := s.count (cNarrow (stackOf (pseudoChannel entry))) 1
  let held := fun h => searched.any fun r => (blocksOf r.base r.len).any fun x => stackOf (pseudoChannel x) == h
  ((List.range 8).filter held).foldl (fun s h =>
    let f := s.takeFree 32
    f.2.count (cNarrow h) f.1.toNat) s

/-- A row of this module read for a reader. -/
def State.countLocal (s : State) (k slot n : Nat) : State := (s.count (cQuarry (quarryEngine slot) k) 1).countNarrow slot n

/-! ### Gathers (07 R163) -/

/-- A row and its VERSION delivered to a destination. -/
def State.deliver (s : State) (dst : Nat) (ver : Option Nat) (row : List Byte) (version : Nat) : State :=
  let s := (s.write dst row).countNarrow dst row.length
  match ver with
  | some a => (s.write a (leBytes 2 version)).countNarrow a 2
  | none => s

/-- One list entry of a GATHER. -/
def State.gatherOne (s : State) (eval : Bool) (d : QuarryDesc) (t : TableDecl) (i id : Nat) : State :=
  let dst := d.data + i * d.dstride
  let ver := if d.ver = 0 then none else some (d.ver + 2 * i)
  if id = noId then s.deliver dst ver (zeros (tabRowBytes t)) 0
  else if !t.sharded || s.owns d.tbl id then
    let v := s.rowValue d.tbl id
    let slot := if t.sharded then s.slotOf d.tbl id else s.localSlot d.tbl id
    State.countLocal (s.deliver dst ver v.1 v.2) 0 slot (tabRowBytes t)
  else
    let k := rowKey d.tbl id
    let r := s.st.eddy.find k
    let l : Lookup := {
      owner := s.rowOwner d.tbl id
      table := d.tbl
      row := id
      dst := dst
      ver := ver
      eval := eval
      round := d.round
      countOnly := false
      asked := false }
    match r with
    | some x =>
      if x.present && s.eddyServes eval s.pinned then
        let s := State.count (s.deliver dst ver (fit (tabRowBytes t) x.bytes) x.version) (cQuarry (quarryEngine dst) 1) 1
        if eval then s else { s with ex := { s.ex with lookups := s.ex.lookups ++ [{ l with countOnly := true }] } }
      else { s with ex := { s.ex with lookups := s.ex.lookups ++ [l] } }
    | none => { s with ex := { s.ex with lookups := s.ex.lookups ++ [l] } }

/-- The distinct rows, in order of first naming, that lookups picked by `p` ask of an owner. -/
def State.askedKeys (s : State) (owner : Nat) (p : Lookup → Bool) : List (Nat × Bool) :=
  let l := s.ex.lookups.filter fun x => x.owner == owner && p x
  distinct (l.map fun x => (rowKey x.table x.row, x.countOnly))

/-- A request record (07 R165). -/
def lookupRecord (k : Nat) (countOnly : Bool) : List Byte :=
  leBytes 5 (keyRow k) ++ leBytes 1 (keyTable k) ++ leBytes 1 countOnly.toNat ++ zeros 1

/-- Requests that fit in one message (10 R244, R247). -/
def lookupsPer : Nat := (65536 - 16) / 8

/-- The gather exchange has ended here: this module's batch of every round has gone, each has its reply and every row asked for is in, and every other
member's batch of every round has been answered (01 R12, 07 R164). -/
def State.gathered (s : State) : Bool :=
  (List.range (s.decl.elim 0 (·.rounds))).all (fun r => s.ex.roundsSent.contains r && s.others.all fun o => s.ex.batchesIn.contains (o, r)) &&
  s.ex.repliesLeft.isEmpty && s.ex.lookups.all (·.eval)

/-- The wait of Gather ends with the exchange (09 R232). -/
def State.tryGathered (s : State) : State :=
  if s.wd = some .gatherExchange ∧ s.gathered = true then { s with wd := none } else s

/-- The batch of a gather round sent to every other member: exactly one to each, empty ones too (07 R164). DESIGN CHOICE (log entry 39): a row asked of
another member, which no HBM address of this module names, is counted by the engine of address 0. -/
def State.sendRound (s : State) (r : Nat) : State :=
  let h := batchHeader s.st.stepNo s.attempt r false 0
  let t := s.others.foldl (fun t o =>
    let keys := t.askedKeys o fun x => !x.eval && x.round == r && !x.asked
    let t := keys.foldl (fun t k => if k.2 then t else t.count (cQuarry (quarryEngine 0) 2) 1) t
    t.sendMsgs (batchMsgs 5 0 o lookupsPer h (keys.map fun k => lookupRecord k.1 k.2) false)) s
  let left := (t.ex.lookups.filter fun x => !(x.countOnly && !x.eval && x.round == r)).map fun x =>
    if !x.eval && x.round == r then { x with asked := true } else x
  State.tryGathered { t with ex := { t.ex with
    lookups := left
    roundsSent := r :: t.ex.roundsSent
    repliesLeft := t.ex.repliesLeft ++ s.others.map fun o => (o, r) } }

/-- The tag of the EVAL on the cores. -/
def State.evalTag (s : State) : Nat := (s.st.evals.head?).elim 0 (·.tag)

/-- The EVAL on the cores counts one more lookup batch. -/
def State.countBatch (s : State) : State :=
  match s.st.evals with
  | [] => s
  | e :: es => { s with st := { s.st with evals := { e with batches := e.batches + 1 } :: es } }

/-- An EVAL's open requests sent to the owners that have any (07 R164). An EVAL has no rounds: byte 5 of the header numbers its batches, so that a
reply names the requests it answers (log entry 70). -/
def State.askEval (s : State) : State :=
  let n := (s.st.evals.head?.elim 0 (·.batches)) % 256
  let h := batchHeader s.pinned 0 n true s.evalTag
  let owners := distinct ((s.ex.lookups.filter fun x => x.eval && !x.asked).map (·.owner))
  if owners = [] then s
  else
    let t := owners.foldl (fun t o =>
      let keys := t.askedKeys o fun x => x.eval && !x.asked
      State.sendMsgs (t.count (cQuarry (quarryEngine 0) 2) keys.length) (batchMsgs 5 0 o lookupsPer h (keys.map fun k => lookupRecord k.1 false) false)) s
    let ask := fun (x : Lookup) => if x.eval && !x.asked then { x with
      asked := true
      round := n } else x
    State.countBatch { t with ex := { t.ex with lookups := t.ex.lookups.map ask } }

/-- A GATHER's rows, once its checks have passed. -/
def State.runGather (s : State) (eval : Bool) (d : QuarryDesc) : State :=
  match s.table d.tbl with
  | none => s
  | some t =>
    let ids := s.quarryIds d
    let u := (List.range ids.length).foldl (fun s i => s.gatherOne eval d t i (nth 0 ids i)) s
    if eval then u.askEval else u

/-- A SCATTER_GRAD's gradient rows, tagged with their batch indices and held; an EVAL sends no contribution (12 R317). -/
def State.runScatter (s : State) (eval : Bool) (d : QuarryDesc) : State :=
  if eval then s
  else
    let ids := s.quarryIds d
    let n := s.quarryRow d
    let cs := (List.range ids.length).filterMap fun i =>
      let id := nth 0 ids i
      if id = noId then none
      else some {
        owner := s.rowOwner d.tbl id
        table := d.tbl
        row := id
        batch := d.batchBase + i
        grad := s.read (d.data + i * d.dstride) n : Contribution }
    let s := (List.range ids.length).foldl (fun s i => if nth 0 ids i = noId then s else s.countNarrow (d.data + i * d.dstride) n) s
    { s with ex := { s.ex with scatter := s.ex.scatter ++ cs } }

/-- A core closes a round for the step; when every core has, its batches are sent. An EVAL takes no part (07 R164). -/
def State.closeRound (s : State) (eval : Bool) (core round : Nat) : State :=
  if eval || s.ex.rounds.contains (round, core) then s
  else
    let s := { s with ex := { s.ex with rounds := (round, core) :: s.ex.rounds } }
    if (List.range s.gc.weir.length).all (fun c => s.ex.rounds.contains (round, c)) && !s.ex.roundsSent.contains round then s.sendRound round else s

/-- A GATHER of the round that a ROUND_CLOSE closes still stands before it in its core's queue (07 R164). -/
def State.gatherBefore (s : State) (q : QDesc) : Bool :=
  (quarryDesc q.bytes).op == 3 && !(s.acceptedBefore (fun e => e.unit == .quarry && e.core == q.core && e.eval == q.eval &&
    (quarryDesc e.bytes).op == 1 && (quarryDesc e.bytes).round == (quarryDesc q.bytes).round) q).isEmpty

/-- The EVAL on the cores has not drawn its last hop. DESIGN CHOICE (log entry 130): its Quarry descriptors, which name what the draws bring, stand
until then. -/
def State.drawsFirst (s : State) (q : QDesc) : Bool := q.eval && (s.st.evals.head?).elim false (·.drawing)

/-- A queued descriptor is clear of the uncompleted Quarry descriptors of the module accepted before it (07 R162), and a ROUND_CLOSE of the GATHERs
of its round. -/
def State.quarryClear (s : State) (q : QDesc) : Bool :=
  !s.gatherBefore q && !s.drawsFirst q && s.queuedClear (fun r => r.unit == .quarry) (fun e => e.unit == .quarry)
    (fun e => (s.quarryReads (quarryDesc e.bytes), s.quarryWrites (quarryDesc e.bytes))) q

/-- The next Quarry descriptor of the module that no earlier one holds back, if it is of this core and of the operation `op`. `reads` are the raw
reads that it makes, judged for a step or an EVAL: false when the data of one is lost, and with it the work. -/
def State.quarry (s : State) (core op : Nat) (reads : State → Bool → Bool × State) : State :=
  match s.nextDesc fun q => q.unit == .quarry && s.quarryClear q with
  | none => s
  | some q =>
    let d := quarryDesc q.bytes
    let mine := if op = 3 then d.op == 3 else if op = 2 then d.op == 2 else d.op != 2 && d.op != 3
    if !(q.core == core && s.hasCore core && s.workLive q.eval && mine) then s
    else
      match s.quarryCheck q d with
      | some x => s.failDesc q x
      | none =>
        let rd := s.quarryReads d
        let wr := s.quarryWrites d
        if s.quarryBusy.all (fun r => !r.done) then
          match reads s q.eval with
          | (false, s) => s
          | (true, s) =>
            let t :=
              if d.op = 1 then s.runGather q.eval d
              else if d.op = 2 then s.runScatter q.eval d
              else s.closeRound q.eval core d.round
            t.startDesc q d.flag rd wr
        else s

/-- A gather still waits for a row that goes into its range. -/
def State.gatherWaits (s : State) (r : Running) : Bool :=
  s.ex.lookups.any fun l => !l.countOnly && l.eval == r.eval && r.writes.any fun w => within w l.dst 1

/-- QUARRY_DONE: the oldest descriptor in progress of a core whose rows have all arrived completes and sets its flag. -/
def quarryDone (core : Nat) (s : State) : State :=
  s.finishDesc fun r => r.unit == .quarry && r.core == core && !s.gatherWaits r

/-! ### Owners' side (07 R165-R167, R180) -/

/-- The layout of a request record holds: COUNT_ONLY alone in byte 6, byte 7 zero, a declared SHARDED table and one of its rows. DESIGN CHOICE (log
entry 134): a record that names a table the program does not declare SHARDED, or a row at or beyond ROWS, breaks the layout and is not a row that is
owned elsewhere, so it ends the step even from an EVAL's batch. -/
def State.requestOk (s : State) (r : List Byte) : Bool :=
  r.length == 8 && bits (field r 6 1) 1 7 == 0 && field r 7 1 == 0 &&
  (s.table (field r 5 1)).elim false fun t => t.sharded && decide (field r 0 5 < t.rows)

/-- The reply to one request. -/
def State.answerRow (s : State) (r : List Byte) : List Byte :=
  let row := field r 0 5
  let t := field r 5 1
  if s.owns t row then
    let v := s.rowValue t row
    leBytes 2 v.2 ++ zeros 6 ++ fit (roundUp v.1.length 8) v.1
  else zeros 2 ++ leBytes 1 1 ++ zeros 5

/-- Replies packed into messages of at most 65,520 bytes. -/
def packReplies : List (List Byte) → List (List Byte)
  | [] => [[]]
  | r :: t =>
    match packReplies t with
    | [] => [r]
    | x :: rest => if x = [] then r :: rest else if r.length + x.length ≤ 65520 then (r ++ x) :: rest else r :: x :: rest

/-- A whole lookup batch answered: COUNT_ONLY records are counted, the others answered in request order by one reply batch. -/
def State.answerLookups (s : State) (m : Msg) (recs : List (List Byte)) : State :=
  let s := if batchEval m.body then s else recs.foldl (fun s r => s.nameRow (field r 5 1) (field r 0 5) m.src) s
  let want := recs.filter fun r => field r 6 1 == 0
  let s := want.foldl (fun s r =>
    if s.owns (field r 5 1) (field r 0 5) then
      s.countLocal 3 (s.slotOf (field r 5 1) (field r 0 5)) ((s.table (field r 5 1)).elim 0 tabRowBytes)
    else s) s
  let parts := packReplies (want.map s.answerRow)
  let s := if batchEval m.body then s else { s with ex := { s.ex with batchesIn := s.ex.batchesIn ++ [(m.src, field m.body 5 1)] } }
  State.tryGathered <| s.sendMsgs ((List.range parts.length).map fun i => mkMsg 5 0 10 m.src (m.body.take 16 ++ nth [] parts i) true (i + 1 == parts.length))

/-- A message of a lookup batch at the owner (07 R166). One that breaks the layout, or a step's request for a row not owned here, ends the step with
FORMAT_INVALID. The batch is answered when it is whole. -/
def lookupBatch (m : Msg) (s : State) : State :=
  if !(s.member && s.prog.isSome && m.typ == 5 && m.opc == 0 && !m.resp) || s.pulling then s
  else
    let s := s.took m
    let recs := groupsOf 8 (m.body.drop 16)
    if !s.batchCurrent m.body then s.discarded m
    else if !(batchHeaderOk m.body && recs.all s.requestOk) then s.stepFault .formatInvalid
    else if !batchEval m.body && recs.any (fun r => !s.owns (field r 5 1) (field r 0 5)) then s.stepFault .formatInvalid
    else
      match s.batchIn m with
      | (none, t) => t
      | (some b, t) => t.answerLookups m (groupsOf 8 (batchBytes b))

/-! ### Requester's side -/

/-- Reply records taken in order for the keys asked: each fills every destination that named its row, or, when MOVED, is asked again of the
new owner. -/
def State.fillReplies (s : State) (eval : Bool) (src round : Nat) : List Nat → List Byte → State
  | [], _ => s
  | k :: keys, b =>
    if b.length < 8 then s
    else
      let here := fun (x : Lookup) => x.owner == src && x.eval == eval && x.round == round && x.asked && !x.countOnly && rowKey x.table x.row == k
      if bits (field b 2 1) 0 1 = 1 then
        let owner := s.rowOwner (keyTable k) (keyRow k)
        let again := fun (x : Lookup) => if here x then { x with
          owner := owner
          asked := false } else x
        State.fillReplies { s with ex := { s.ex with lookups := s.ex.lookups.map again } } eval src round keys (b.drop 8)
      else
        let n := (s.table (keyTable k)).elim 0 tabRowBytes
        let t := (s.ex.lookups.filter here).foldl (fun s x => s.deliver x.dst x.ver (slice b 8 n) (field b 0 2)) s
        State.fillReplies { t with ex := { t.ex with lookups := t.ex.lookups.filter fun x => !(here x) } } eval src round keys (b.drop (8 + roundUp n 8))

/-- A message of a reply batch at the requester (07 R165, R166, R180): when the batch is whole, its records go where its requests say. -/
def lookupReply (m : Msg) (s : State) : State :=
  if !(s.member && s.prog.isSome && m.typ == 5 && m.opc == 0 && m.resp) then s
  else
    let s := s.took m
    let eval := batchEval m.body
    let round := field m.body 5 1
    if !s.batchCurrent m.body then s.discarded m
    else if eval && !(field m.body 8 8 == s.evalTag && field m.body 0 4 == s.pinned) then s
    else
      match s.batchIn m with
      | (none, t) => t
      | (some b, t) =>
        let keys := (t.askedKeys m.src fun x => x.eval == eval && x.asked && !x.countOnly && x.round == round).map (·.1)
        let u := t.fillReplies eval m.src round keys (batchBytes b)
        if eval then u.askEval
        else State.tryGathered { u with ex := { u.ex with repliesLeft := u.ex.repliesLeft.filter (· != (m.src, round)) } }

/-- SCATTER_GRAD (07 R174). -/
def execScatterGrad (core : Nat) (s : State) : Host.Outcome State Fault Refusal := .next (s.quarry core 2 fun s _ => (true, s))
/-- ROUND_CLOSE (07 R164). -/
def execRoundClose (core : Nat) (s : State) : Host.Outcome State Fault Refusal := .next (s.quarry core 3 fun s _ => (true, s))
/-- QUARRY_DONE (07 R162). -/
def execQuarryDone (core : Nat) (s : State) : Host.Outcome State Fault Refusal := .next (quarryDone core s)
/-- LOOKUP_BATCH (07 R166). -/
def execLookupBatch (m : Msg) (s : State) : Host.Outcome State Fault Refusal := .next (lookupBatch m s)
/-- LOOKUP_REPLY (07 R165). -/
def execLookupReply (m : Msg) (s : State) : Host.Outcome State Fault Refusal := .next (lookupReply m s)

end Sys2Proof.Machine
end

