-- ==== Sys2Proof/Machine/Confluence.lean ====
section
/-! DEFINITION. Confluence (09): contributions sent and re-sent, segments checked and staged, sums in rank order, block rescale and the
finite flag. -/

namespace Sys2Proof.Machine

open Sys2Proof

/-! ### What is reduced (09 R213, R430) -/

/-- KIND of a slice contribution. -/
def kSlice : Nat := 1
/-- KIND of a row contribution. -/
def kRows : Nat := 2

/-- The slices of the program, as placed. -/
def State.slices (s : State) : List SlicePlace := s.prog.elim [] (·.place.slices)

/-- A slice owned by this module, by its number. -/
def State.ownSlice (s : State) (id : Nat) : Option SlicePlace := s.slices.find? fun x => x.id == id && s.mach.rank == some x.owner

/-- The data group that reduces a slice, as placed. -/
def State.sliceGroup (s : State) (x : SlicePlace) : Option GroupDecl :=
  (s.decl.bind fun d => d.groups[x.group]?).filter fun g => g.kind == 0

/-- The contributors of a slice: its data group's members; without a data group the owner alone. -/
def State.sliceMembers (s : State) (x : SlicePlace) : List Nat := (s.sliceGroup x).elim [x.owner] (·.members)

/-- The reduction declaration of a weight-gradient tensor. -/
def State.gradDecl (s : State) (tensor : Nat) : Option GradDecl := s.decl.bind fun d => d.grads.find? fun g => g.tensor == tensor

/-- A slice reduces in BS8. -/
def State.sliceBs8 (s : State) (x : SlicePlace) : Bool := (s.gradDecl x.tensor).elim false (·.bs8)

/-- The numbers of the trained tables. -/
def State.trainedTables (s : State) : List Nat :=
  s.decl.elim [] fun d => (List.range d.tables.length).filter fun t => (s.table t).elim false (·.train)

/-- The loader's gradient area of a tensor, or under 2^16 + table of a trained table's reduced rows. -/
def State.gradArea (s : State) (k : Nat) : Option Nat := s.prog.bind fun p => (p.place.grads.find? fun e => e.1 == k).map (·.2)

/-! ### Segments (09 R217) -/

/-- The 32-byte header of a segment. -/
def segHeader (step attempt kind : Nat) (bs8 : Bool) (src id seg nseg len cksum : Nat) : List Byte :=
  leBytes 4 step ++ leBytes 1 attempt ++ leBytes 1 (kind + 16 * bs8.toNat) ++ leBytes 2 src ++ leBytes 4 id ++ leBytes 4 seg ++ leBytes 4 nseg ++
  leBytes 4 len ++ leBytes 8 cksum

/-- A segment as received. -/
def segOf (b : List Byte) : Seg where
  step := field b 0 4
  attempt := field b 4 1
  kind := bits (field b 5 1) 0 4
  fmt := bits (field b 5 1) 4 4
  src := bits (field b 6 2) 0 13
  id := field b 8 4
  seg := field b 12 4
  nseg := field b 16 4
  cksum := field b 24 8
  payload := b.drop 32
  raw := b

/-- A payload cut into the segments of one contribution, as messages. -/
def contributionMsgs (vc dst step attempt kind : Nat) (bs8 : Bool) (src id per : Nat) (payload : List Byte) : List Msg :=
  let parts := if payload = [] then [[]] else groupsOf (max per 8) payload
  let sum := checksum payload
  (List.range parts.length).map fun i =>
    let p := nth [] parts i
    mkMsg 3 0 vc dst (segHeader step attempt kind bs8 src id i parts.length p.length sum ++ p)

/-! ### Contributions sent after Backward (09 R213, 07 R174) -/

/-- One block record of a BS8 contribution. -/
def blockRecord (codes : List Nat) (scale : Nat) : List Byte := fit 32 (codes.map (BitVec.ofNat 8)) ++ leBytes 1 scale ++ zeros 7

/-- A slice's payload from the FP32 gradients that Backward left; none when a gradient that is encoded to BS8 is not finite (09 R230). -/
def State.slicePayload (s : State) (x : SlicePlace) : Option (List Byte) :=
  let raw := s.read ((s.gradArea x.tensor).getD 0 + 4 * x.first) (4 * x.count)
  if s.sliceBs8 x then
    let vs := (elemCodes 0 raw x.count).map fp32.decode
    if vs.all (·.finite) then
      let q := quantizeBlocks 4 63 vs
      let blocks := groupsOf 32 q.1
      some ((List.range blocks.length).flatMap fun i => blockRecord (nth [] blocks i) (nth 0 q.2.1 i))
    else none
  else some (raw ++ (if x.count % 2 = 1 then zeros 4 else []))

/-- A gradient contribution record, padded to a multiple of 8 (07 R174). -/
def gradRecord (c : Contribution) : List Byte :=
  let b := leBytes 5 c.row ++ leBytes 1 c.table ++ zeros 2 ++ leBytes 4 c.batch ++ zeros 4 ++ c.grad
  fit (roundUp b.length 8) b

/-- A contribution put in its place by batch index, behind those with the same index. -/
def insertBatch (c : Contribution) : List Contribution → List Contribution
  | [] => [c]
  | x :: t => if x.batch ≤ c.batch then x :: insertBatch c t else c :: x :: t

/-- The owners of a table: the ranks that own a row of it (07 R154). -/
def State.tableOwners (s : State) (t : Nat) : List Nat :=
  (List.range s.ranks).filter fun o => (List.range ((s.table t).elim 0 (·.rows))).any fun r => s.rowOwner t r == o

/-- The messages of every contribution of this module: one for each slice of its data groups and, for each trained table, one to every
owner. None when a gradient cannot be encoded. -/
def State.contributions (s : State) : Option (List Msg) :=
  let step := s.st.stepNo
  let att := s.attempt
  let sl := s.slices.filter fun x => (s.sliceMembers x).contains s.rank
  let one := fun (x : SlicePlace) => (s.slicePayload x).map fun p =>
    contributionMsgs ((s.sliceGroup x).elim 2 (·.vc)) x.owner step att kSlice (s.sliceBs8 x) s.rank x.id (if s.sliceBs8 x then 16360 else 16384) p
  let rows := s.trainedTables.flatMap fun t =>
    let td := (s.table t)
    let rec_ := roundUp (16 + td.elim 0 tabGradBytes) 8
    (s.tableOwners t).flatMap fun o =>
      let cs := (s.ex.scatter.filter fun c => c.table == t && c.owner == o).foldl (fun l c => insertBatch c l) []
      contributionMsgs 10 o step att kRows (td.elim false (·.gradBs8)) s.rank t (16384 / rec_ * rec_) (cs.flatMap gradRecord)
  let all := sl.map one
  if all.all (·.isSome) then some (all.flatMap (·.getD []) ++ rows) else none

/-- The contributions that this module sent kept in HBM (09 R215), in the area that the loader placed for them (log entry 128). -/
def State.keepSent (s : State) : State :=
  s.prog.elim s fun p => s.write p.place.sent.base ((s.conf.sent.flatMap (·.body)).take p.place.sent.len)

/-- Every contribution sent and kept (09 R215). DESIGN CHOICE (log entry 39): gradient rows for other members, which no HBM address of this module names,
are counted by the engine of address 0. -/
def State.sendContributions (s : State) : State :=
  match s.contributions with
  | none => s.stepFault .formatInvalid
  | some ms =>
    let others := (s.ex.scatter.filter fun c => c.owner != s.rank).length
    let s := s.count (cQuarry (quarryEngine 0) 4) others
    State.sendMsgs (State.keepSent { s with conf := { s.conf with sent := ms } }) ms

/-- CONF_REREQUEST: every segment of the contribution named is sent again from the kept copy (09 R223). The layout of a re-request is that of
the first 12 bytes of a segment header without SEG and NSEG (log entry 42). -/
def confRerequest (m : Msg) (s : State) : State :=
  if !(s.member && m.typ == 2 && m.opc == 1 && m.vc == 0) then s
  else
    let s := s.took m
    let x := segOf m.body
    if s.st.run.isSome && x.step == s.st.stepNo && x.attempt == s.attempt && x.src == s.rank then
      s.sendMsgs (s.conf.sent.filter fun c =>
        let y := segOf c.body
        c.dst == m.src && y.kind == x.kind && y.id == x.id)
    else s

/-! ### Sums (09 R219, R220, R225-R228) -/

/-- One element's contributions, FP32 codes in the order of addition: the FP32 sum. -/
def reduceFp32 (t7 : Bool) (xs : List Nat) : Nat × AFlags :=
  let acc := xs.foldl (fun a x => addAcc t7 a ((if t7 then x else (a48.ofVal (fp32.decode x)).1), false)) (0, false)
  let o := outputFloat t7 fp32 acc.1
  (o.1, (reductionFlags (accFmt t7) acc.1 (xs.any fun x => (fp32.decode x).isInf) acc.2).converted o.2)

/-- The signed 24-bit lane holds a value. -/
def laneFits (v : Int) : Bool := decide (-(2 ^ 23 : Int) ≤ v) && decide (v ≤ 2 ^ 23 - 1)

/-- An integer divided by 2^k, rounded half to even. -/
def rneInt (n : Int) (k : Nat) : Int := if n < 0 then -(rneShift n.natAbs k : Int) else (rneShift n.natAbs k : Int)

/-- A code aligned to a scale. -/
def alignCode (n : Int) (ec e : Nat) : Int := if e ≤ ec then n * 2 ^ (ec - e) else rneInt n (e - ec)

/-- A contribution added to lane sums at a scale; none when a value leaves the lane. -/
def laneAdd (sums : List Int) (c : List Int × Nat) (e : Nat) : Option (List Int) :=
  let al := c.1.map fun n => alignCode n c.2 e
  let t := (sums.zip al).map fun x => x.1 + x.2
  if al.all laneFits && t.all laneFits then some t else none

/-- Contributions summed from +0 at a scale. -/
def sumAt (cs : List (List Int × Nat)) (e : Nat) : Option (List Int) :=
  cs.foldl (fun a c => a.bind fun t => laneAdd t c e) (some (List.replicate 32 0))

/-- The least raise at which the contributions can be summed again. -/
def raiseScale (cs : List (List Int × Nat)) : Nat → Nat → Option (List Int × Nat)
  | 0, _ => none
  | fuel + 1, e =>
    match sumAt cs (e + 1) with
    | some t => some (t, e + 1)
    | none => raiseScale cs fuel (e + 1)

/-- A block's progress: lane sums, scale, total raise and number of raises. -/
structure BlockSum where
  sums : List Int
  scale : Nat
  raised : Nat
  raises : Nat
  deriving DecidableEq, Repr, Inhabited

/-- The next contribution added, those before it at hand. -/
def BlockSum.add (b : BlockSum) (before : List (List Int × Nat)) (c : List Int × Nat) : BlockSum :=
  match laneAdd b.sums c b.scale with
  | some t => { b with sums := t }
  | none =>
    match raiseScale (before ++ [c]) 255 b.scale with
    | some (t, e) => { sums := t, scale := e, raised := b.raised + (e - b.scale), raises := b.raises + 1 }
    | none => b

/-- Contributions added in turn. -/
def BlockSum.addAll (b : BlockSum) (before : List (List Int × Nat)) : List (List Int × Nat) → BlockSum
  | [] => b
  | c :: t => (b.add before c).addAll (before ++ [c]) t

/-- The largest magnitude of a list. -/
def maxAbs (l : List Int) : Nat := l.foldl (fun m x => max m x.natAbs) 0

/-- Normalisation (09 R228). -/
def normalizeBlock : Nat → List Int → Nat → List Int × Nat
  | 0, s, e => (s, e)
  | fuel + 1, s, e =>
    if 0 < e ∧ maxAbs s ≠ 0 ∧ 2 * maxAbs s ≤ 2 ^ 22 then normalizeBlock fuel (s.map (· * 2)) (e - 1) else (s, e)

/-- A reduced block. -/
structure BlockResult where
  sums : List Int
  scale : Nat
  raised : Nat
  start : Nat
  raises : Nat
  deriving DecidableEq, Repr, Inhabited

/-- A block's contributions, in the order of addition, reduced from an agreed scale. -/
def reduceBlock (cs : List (List Int × Nat)) (agreed : Option Nat) : BlockResult :=
  let e := agreed.getD ((cs.head?).elim 0 (·.2))
  let b := BlockSum.addAll { sums := List.replicate 32 0, scale := e, raised := 0, raises := 0 } [] cs
  let n := normalizeBlock 255 b.sums b.scale
  { sums := n.1, scale := n.2, raised := b.raised, start := e, raises := b.raises }

/-- Lane values as INT32. -/
def laneBytes (l : List Int) : List Byte := l.flatMap fun v => leBytes 4 (intCode 32 v)

/-- The 8-byte header of a block's result (09 R230). -/
def blockHeader (b : BlockResult) : List Byte := leBytes 1 b.scale ++ leBytes 1 b.raised ++ leBytes 1 b.start ++ zeros 5

/-- The 136 bytes of a block's result (09 R230). -/
def blockBytes (b : BlockResult) : List Byte := laneBytes b.sums ++ blockHeader b

/-- A block's result stored at an address: the lanes of its `n` elements and its header. Positions beyond a tensor's last element are never written
(09 R430). -/
def State.putBlock (s : State) (a n : Nat) (b : BlockResult) : State := (s.write a (laneBytes (b.sums.take n))).write (a + 128) (blockHeader b)

/-- Each of a block's first `n` results is finite in FP32; positions beyond a tensor's last element are no results (09 R430). -/
def blockFinite (b : BlockResult) (n : Nat) : Bool :=
  (b.sums.take n).all fun v => ((fp32.decode (fp32.round (decide (v < 0)) v.natAbs ((b.scale : Int) - 127)).1)).finite

/-! ### Contributions held -/

/-- The staged segments of one contribution. -/
def State.segsOf (s : State) (kind id src : Nat) : List Seg := s.conf.staged.filter fun x => x.kind == kind && x.id == id && x.src == src

/-- Every segment that one of the staged ones counts is in: the last is in, though a segment may carry another NSEG (09 R223). -/
def State.contributionIn (s : State) (kind id src : Nat) : Bool :=
  let l := s.segsOf kind id src
  l.any fun h => (List.range h.nseg).all fun i => l.any fun x => x.seg == i

/-- A contribution's payload in segment order. -/
def State.payloadFrom (s : State) (kind id src : Nat) : List Byte :=
  let l := s.segsOf kind id src
  (List.range l.length).flatMap fun i => ((l.find? fun x => x.seg == i).map (·.payload)).getD []

/-- The contributors that an owned slice or table needs, ascending. DESIGN CHOICE (log entry 136): the embedding group, whose members contribute to every
table (09 R213), is every rank, and not only those that own rows of one. -/
def State.contributors (s : State) (kind id : Nat) : List Nat :=
  if kind = kSlice then
    (List.range s.ranks).filter fun r => ((s.ownSlice id).elim [] s.sliceMembers).contains r
  else List.range s.ranks

/-- The codes and scale of a block record. -/
def blockOf40 (b : List Byte) : List Int × Nat := ((b.take 32).map fun x => signed 8 x.toNat, field b 32 1)

/-- A BS8 block with a scale byte of 0xFF or an element of −128. -/
def blockInvalid (c : List Int × Nat) : Bool := c.2 == 0xFF || c.1.any (· == -128)

/-- A row record of a table. -/
structure RowRec where
  row : Nat
  batch : Nat
  grad : List Byte
  ok : Bool
  deriving DecidableEq, Repr, Inhabited

/-- A record put in its place by batch index, behind those with the same index. -/
def insertRec (c : RowRec) : List RowRec → List RowRec
  | [] => [c]
  | x :: t => if x.batch ≤ c.batch then x :: insertRec c t else c :: x :: t

/-- Records in ascending batch index, the order in which they are added (09 R218). -/
def byBatch (l : List RowRec) : List RowRec := l.foldl (fun a r => insertRec r a) []

/-- The row records of a payload. -/
def rowRecs (table gradBytes : Nat) (b : List Byte) : List RowRec :=
  (groupsOf (roundUp (16 + gradBytes) 8) b).map fun r => {
    row := field r 0 5
    batch := field r 8 4
    grad := slice r 16 gradBytes
    ok := r.length == roundUp (16 + gradBytes) 8 && field r 5 1 == table && field r 6 2 == 0 && field r 12 4 == 0 }

/-- The blocks of a BS8 gradient row: its elements in groups of 32 with the scale bytes that follow them. -/
def rowBlocks (width : Nat) (g : List Byte) : List (List Int × Nat) :=
  let els := groupsOf 32 (g.take width)
  (List.range els.length).map fun i => (((nth [] els i).map fun x => signed 8 x.toNat) ++ List.replicate (32 - (nth [] els i).length) 0, field g (width + i) 1)

/-- A list of pairs holds one pair twice. -/
def repeats : List (Nat × Nat) → Bool
  | [] => false
  | a :: t => t.contains a || repeats t

/-- What is wrong with a contribution that has passed its checksum, if anything (09 R226, R231; 07 R177). -/
def State.contributionFault (s : State) (kind id src : Nat) : Option Status :=
  let p := s.payloadFrom kind id src
  if kind = kSlice then
    match s.ownSlice id with
    | none => some .formatInvalid
    | some x =>
      let n := if s.sliceBs8 x then 40 * ceilDiv x.count 32 else 4 * roundUp x.count 2
      if p.length ≠ n then some .formatInvalid
      else if s.sliceBs8 x && (groupsOf 40 p).any (fun b => blockInvalid (blockOf40 b)) then some .formatInvalid
      else none
  else
    match s.table id with
    | none => some .formatInvalid
    | some t =>
      let rs := rowRecs id (tabGradBytes t) p
      if rs.any fun r => !(r.ok && decide (r.row < t.rows) && s.owns id r.row) then some .formatInvalid
      else if repeats (rs.map fun r => (r.row, r.batch)) then some .formatInvalid
      else if t.gradBs8 && rs.any (fun r => (rowBlocks t.width r.grad).any blockInvalid) then some .formatInvalid
      else none

/-! ### Reducing (09 R216, R218) -/

/-- The key of a slice block's agreed scale, by its place in the tensor. -/
def sliceScaleKey (tensor block : Nat) : Nat := 2 ^ 64 + tensor * 2 ^ 36 + block
/-- The key of a row block's agreed scale. -/
def rowScaleKey (key block : Nat) : Nat := key * 128 + block

/-- Blocks raised are counted, and the step carries RESCALED (09 R227, R230). The block has `n` elements of the slice or row. -/
def State.noteBlock (s : State) (key n : Nat) (b : BlockResult) : State :=
  let s := { s with
    st := { s.st with agreedNew := s.st.agreedNew.put key b.scale }
    conf := { s.conf with finite := s.conf.finite && blockFinite b n } }
  if b.raises = 0 then s else (s.count cConfRescale b.raises).markRescaled false

/-- FP32 results: one that is not finite clears the flag of 01 R18. -/
def State.noteSums (s : State) (rs : List (Nat × AFlags)) : State :=
  { s with conf := { s.conf with finite := s.conf.finite && rs.all fun r => (fp32.decode r.1).finite } }

/-- What an adder reads of contributions: by contributor in ascending rank, its payload out of staging. -/
abbrev Payloads := List (Nat × List Byte)

/-- An owned slice reduced from its contributions and its result written; its flags are counted once (02 R58). -/
def State.reduceSlice (s : State) (x : SlicePlace) (from_ : Payloads) : State :=
  let ps := from_.map (·.2)
  let s := (s.count cConfContrib ps.length).count cConfAdds (ps.length * x.count)
  if s.sliceBs8 x then
    (List.range (ceilDiv x.count 32)).foldl (fun s i =>
      let key := sliceScaleKey x.tensor (x.first / 32 + i)
      let b := reduceBlock (ps.map fun p => blockOf40 (slice p (40 * i) 40)) (s.st.agreed.find key)
      (s.putBlock (x.result + 136 * i) (x.count - 32 * i) b).noteBlock key (x.count - 32 * i) b) s
  else
    let rs := (List.range x.count).map fun i => reduceFp32 s.t7 (ps.map fun p => field p (4 * i) 4)
    ((s.write x.result (rs.flatMap fun r => leBytes 4 r.1)).noteSums rs).raiseConf (AFlags.all (rs.map (·.2)))

/-- Bytes of a reduced row. -/
def rowSumBytes (t : TableDecl) : Nat := if t.gradBs8 then 136 * ceilDiv t.width 32 else 4 * t.width

/-- A reduced row written to the gradient area that the loader placed, if any, and kept. -/
def State.putRowSum (s : State) (id row : Nat) (t : TableDecl) (b : List Byte) : State :=
  let s := { s with conf := { s.conf with rowSums := s.conf.rowSums ++ [(id, row, b)] } }
  match s.gradArea (2 ^ 16 + id) with
  | some a => s.write (a + rowSumBytes t * s.dirIndex id row) b
  | none => s

/-- One row's contributions in the order of addition reduced, with the flags it raises; a BS8 row beyond the limit of 09 R229 ends the step with
INDEX_RANGE. -/
def State.reduceRow (s : State) (id row : Nat) (t : TableDecl) (gs : List (List Byte)) : State × AFlags :=
  if t.gradBs8 then
    if 65536 < gs.length then (s.stepFault .indexRange, {})
    else
      let n := ceilDiv t.width 32
      let all := gs.map (rowBlocks t.width)
      let bs := (List.range n).map fun i => reduceBlock (all.map fun g => nth ([], 0) g i) (s.st.agreed.find (rowScaleKey (rowKey id row) i))
      let s := s.putRowSum id row t (bs.flatMap blockBytes)
      ((List.range n).foldl (fun s i => s.noteBlock (rowScaleKey (rowKey id row) i) (t.width - 32 * i) (nth default bs i)) s, {})
  else
    let rs := (List.range t.width).map fun i => reduceFp32 s.t7 (gs.map fun g => field g (4 * i) 4)
    ((s.putRowSum id row t (rs.flatMap fun r => leBytes 4 r.1)).noteSums rs, AFlags.all (rs.map (·.2)))

/-- Every row of a trained table that received a contribution reduced, in ascending row: contributors ascending, then batch indices. The flags are
counted once for the table (02 R58). -/
def State.reduceTable (s : State) (id : Nat) (from_ : Payloads) : State :=
  match s.table id with
  | none => s
  | some t =>
    let rs := from_.flatMap fun p => byBatch (rowRecs id (tabGradBytes t) p.2)
    let s := (s.count cConfContrib from_.length).count cConfAdds (rs.length * t.width)
    let r := ((s.ownedRows id).filter fun r => rs.any fun x => x.row == r).foldl (fun (a : State × AFlags) r =>
      let u := a.1.reduceRow id r t ((rs.filter fun x => x.row == r).map (·.grad))
      (u.1, a.2.or u.2)) (s, {})
    r.1.raiseConf r.2

/-- The CKSUM that a contribution's segments carry. -/
def State.carriedSum (s : State) (kind id src : Nat) : Nat := ((s.segsOf kind id src).head?).elim 0 (·.cksum)

/-- The payloads that the adder reads for a slice or table: as staged, but for what `reads` says of a contributor. -/
def State.adderReads (s : State) (kind id : Nat) (reads : List AdderRead) : Payloads :=
  (s.contributors kind id).map fun r => (r, ((reads.find? fun x => x.src == r).map (·.payload)).getD (s.payloadFrom kind id r))

/-- The checksums recomputed on addition agree in sum with those carried (09 R224). -/
def State.aggregateOk (s : State) (kind id : Nat) (from_ : Payloads) : Bool :=
  (from_.map fun p => checksum p.2).sum % sumMod == (from_.map fun p => s.carriedSum kind id p.1).sum % sumMod

/-- A re-request of a contribution (09 R223): its copy stays staged until the re-sent one replaces it (09 R215), and a second failure of its check is a
step-transient failure. -/
def State.rerequest (s : State) (kind id src : Nat) : State :=
  let mine := fun (x : Seg) => x.kind == kind && x.id == id && x.src == src
  let conf := { s.conf with
    staged := s.conf.staged.filter fun x => !mine x
    failed := s.conf.failed ++ s.conf.staged.filter mine
    retried := (kind, id, src) :: s.conf.retried }
  let body := leBytes 4 s.st.stepNo ++ leBytes 1 s.attempt ++ leBytes 1 kind ++ leBytes 2 src ++ leBytes 4 id ++ zeros 4
  State.send (State.count { s with conf := conf } cConfRerequest 1) (mkMsg 2 1 0 src body)

/-- The sums on addition disagree (09 R224): each contribution that disagrees is re-requested, once for a slice or table; the slice or table is summed
again when the copies are in. No contribution that disagrees, or a second disagreement, is a step-transient failure. -/
def State.aggregateFailed (s : State) (kind id : Nat) (from_ : Payloads) : State :=
  let s := s.count cConfAggFail 1
  let bad := from_.filter fun p => checksum p.2 != s.carriedSum kind id p.1
  if s.conf.aggFailed.contains (kind, id) || bad.isEmpty then s.transient 0x03
  else bad.foldl (fun s p => s.rerequest kind id p.1) { s with conf := { s.conf with aggFailed := (kind, id) :: s.conf.aggFailed } }

/-- A slice or table is reduced once every contribution that it requires is in (09 R213), if its checksums agree on addition (09 R224). -/
def State.tryReduce (s : State) (kind id : Nat) (reads : List AdderRead) : State :=
  if !s.conf.reduced.contains (kind, id) && (s.contributors kind id).all (fun r => s.contributionIn kind id r) then
    let from_ := s.adderReads kind id reads
    if s.aggregateOk kind id from_ then
      let t := { s with conf := { s.conf with reduced := (kind, id) :: s.conf.reduced } }
      if kind = kSlice then (match s.ownSlice id with | some x => t.reduceSlice x from_ | none => t) else t.reduceTable id from_
    else s.aggregateFailed kind id from_
  else s

/-- Every slice and row that this module owns is reduced. -/
def State.reducedAll (s : State) : Bool :=
  ((s.slices.filter fun x => s.mach.rank == some x.owner).all fun x => s.conf.reduced.contains (kSlice, x.id)) &&
  s.trainedTables.all fun t => (s.ownedRows t).isEmpty || s.conf.reduced.contains (kRows, t)

/-- The wait of Reduce ends when all is reduced (09 R232). Once every task that Reduce started has ended too (14 R362), the module arrives at the finite
AND with its flag (01 R18). -/
def State.reduceCheck (s : State) : State :=
  match s.st.run with
  | none => s
  | some r =>
    if r.phase = .reduce ∧ r.fault = none ∧ s.reducedAll = true then
      if s.classIdle false then
        State.arrive { s with
          st := { s.st with run := some { r with phase := .finite } }
          wd := some .finiteAnd } bFinite s.st.stepNo r.attempt s.conf.finite.toNat
      else { s with wd := if s.wd = some .reduction then none else s.wd }
    else s

/-! ### Arrival of a segment (09 R221, R223, R231) -/

/-- Payload bytes staged at one time, those of copies not yet replaced among them (09 R215). -/
def State.stagedBytes (s : State) : Nat := ((s.conf.staged ++ s.conf.failed).map fun x => x.payload.length).sum

/-- Two segments hold the same place of the same contribution. -/
def Seg.samePlace (a b : Seg) : Bool := a.kind == b.kind && a.id == b.id && a.src == b.src && a.seg == b.seg

/-- A segment takes the place of the failed copy's segment with the same number, if there is one (09 R215, R223). -/
def State.replaced (s : State) (x : Seg) : State := { s with conf := { s.conf with failed := s.conf.failed.filter fun y => !y.samePlace x } }

/-- A contribution that is whole and right leaves nothing of its failed copy. -/
def State.settled (s : State) (kind id src : Nat) : State :=
  { s with conf := { s.conf with failed := s.conf.failed.filter fun y => !(y.kind == kind && y.id == id && y.src == src) } }

/-- The codes, layout, group, owner and format that 09 R217 and R231 ask of a segment. DESIGN CHOICE (log entry 137): R231 lists no outcome for SEG at or
beyond NSEG, NSEG 0 or a LEN that breaks R217; they are taken with its other breaches of the layout, FORMAT_INVALID. -/
def State.segmentOk (s : State) (x : Seg) : Bool :=
  let n := field x.raw 20 4
  (x.kind == kSlice || x.kind == kRows) && decide (x.fmt ≤ 1) && bits (field x.raw 6 2) 13 3 == 0 && decide (1 ≤ x.nseg) && decide (x.seg < x.nseg) &&
  decide (32 ≤ x.raw.length) && n == x.payload.length && n % 8 == 0 && decide (n ≤ 16384) && (n != 0 || x.nseg == 1) &&
  (if x.kind = kSlice then
    (s.ownSlice x.id).elim false fun l => x.fmt == (s.sliceBs8 l).toNat && (s.sliceMembers l).contains x.src
   else
    decide (x.id < 256) && (s.table x.id).elim false (fun t => t.train && x.fmt == t.gradBs8.toNat) && decide (x.src < s.ranks))

/-- The arrival check of a whole contribution: its checksum, and one CKSUM and NSEG in every segment (09 R223). -/
def State.arrivalOk (s : State) (kind id src : Nat) : Bool :=
  let l := s.segsOf kind id src
  (l.head?).elim false fun h => l.all (fun x => x.cksum == h.cksum && x.nseg == h.nseg) && checksum (s.payloadFrom kind id src) == h.cksum

/-- A contribution that fails its arrival check is re-requested once, and a second failure is a step-transient failure. -/
def State.reject (s : State) (kind id src : Nat) : State :=
  let s := s.count cConfCksumFail 1
  if s.conf.retried.contains (kind, id, src) then s.transient 0x03 else s.rerequest kind id src

/-- The staging region in HBM holds the payloads staged at one time (09 R215). DESIGN CHOICE (log entry 128): one after another in the order in which they
are kept, since the rule gives the region no layout. -/
def State.keepStaged (s : State) : State :=
  s.prog.elim s fun p => s.write p.place.staging ((s.conf.staged ++ s.conf.failed).flatMap (·.payload))

/-- A segment staged; when its contribution is whole it is checked, and what it completes is reduced. -/
def State.stage (s : State) (x : Seg) (reads : List AdderRead) : State :=
  let s := s.replaced x
  if s.decl.elim 0 (·.rxMax) < s.stagedBytes + x.payload.length then s.stepFault .indexRange
  else
    let t := State.keepStaged { s with conf := { s.conf with staged := s.conf.staged ++ [x] } }
    if t.contributionIn x.kind x.id x.src then
      if t.arrivalOk x.kind x.id x.src then
        match t.contributionFault x.kind x.id x.src with
        | some c => t.stepFault c
        | none => ((t.settled x.kind x.id x.src).tryReduce x.kind x.id reads).reduceCheck
      else t.reject x.kind x.id x.src
    else t

/-- REMOTE_ACC: a reduction segment arrives (09 R217-R231). A further segment of a contribution that has passed its check is a second contribution.
`reads` is what the adder reads otherwise than staged, if the segment completes a slice or table. -/
def remoteAcc (m : Msg) (reads : List AdderRead) (s : State) : State :=
  if !(s.member && s.prog.isSome && m.typ == 3) then s
  else
    let s := s.took m
    let x := segOf m.body
    if !(s.st.run.isSome && x.step == s.st.stepNo && x.attempt == s.attempt) then s.count cConfStale 1
    else if s.st.run.elim false fun r => r.fault.isSome then s
    else if !s.segmentOk x then s.stepFault .formatInvalid
    else
      match (s.segsOf x.kind x.id x.src).find? fun y => y.seg == x.seg with
      | some y => if y.raw = x.raw then s.count cConfStale 1 else s.stepFault .formatInvalid
      | none => if s.contributionIn x.kind x.id x.src then s.stepFault .formatInvalid else s.stage x reads

/-- REMOTE_ACC (09 R218). -/
def execRemoteAcc (x : AccIn) (s : State) : Host.Outcome State Fault Refusal := .next (remoteAcc x.msg x.reads s)
/-- CONF_REREQUEST (09 R223). -/
def execConfRerequest (m : Msg) (s : State) : Host.Outcome State Fault Refusal := .next (confRerequest m s)

end Sys2Proof.Machine
end

