-- ==== Sys2Proof/Machine/Committed.lean ====
section
/-! DEFINITION. The committed values that the state keeps by name: how a commit or a skipped step changes them (01 R16, R22, 03 R63, 07 R169,
R176, 12 R301), and the bytes that stand for them in a rank's image (11 R274; log entry 47). -/

namespace Sys2Proof.Machine

open Sys2Proof

/-! ### What a step changes -/

/-- The key of a tensor's optimizer step count. -/
def tensorStepKey (tensor : Nat) : Nat := 2 ^ 60 + tensor

/-- Stream offsets with the advances of a step taken (12 R301). -/
def advanceOffsets (offsets : List Nat) (adv : List (Nat × Nat)) : List Nat :=
  adv.foldl (fun l a => modNth l a.1 fun x => (x + a.2) % 2 ^ 64) offsets

/-- The magnitudes of a committed step put in front of those of the last N committed steps, for every evaluation tensor: 0 for one of which the
step formed no finite value (03 R63). -/
def recordCalib (n : Nat) (tensors : List Nat) (calib : NMap (List Nat)) (now : NMap Nat) : NMap (List Nat) :=
  tensors.foldl (fun m t => m.put t ((now.get 0 t :: m.get [] t).take n)) calib

/-- Optimizer step counts raised for a list of keys. -/
def raiseSteps (m : NMap Nat) (keys : List Nat) : NMap Nat := keys.foldl (fun m k => m.set 0 k (m.get 0 k + 1)) m

/-- Committed values as the commit point leaves them. -/
def State.committedValues (s : State) : State :=
  let rows := s.conf.rowSums.map fun r => rowKey r.1 r.2.1
  let tensors := distinct ((s.slices.filter fun x => s.mach.rank == some x.owner).map fun x => tensorStepKey x.tensor)
  State.countNames { s with st := { s.st with
    stepNo := (s.st.stepNo + 1) % 2 ^ 32
    offsets := advanceOffsets s.st.offsets s.st.advances
    advances := []
    calib := recordCalib (s.decl.elim 128 (·.calibN)) s.evalTensors s.st.calib s.st.calibNow
    calibNow := []
    agreed := s.st.agreedNew.foldl (fun m e => m.put e.1 e.2) s.st.agreed
    agreedNew := []
    optSteps := raiseSteps s.st.optSteps (rows ++ tensors) } }

/-- Committed values after SKIPPED_NONFINITE: the step number and the stream offsets advance and the step's names are counted; nothing
else is taken from the step (01 R22). -/
def State.skippedValues (s : State) : State :=
  State.countNames { s with st := { s.st with
    stepNo := (s.st.stepNo + 1) % 2 ^ 32
    offsets := advanceOffsets s.st.offsets s.st.advances
    advances := []
    calibNow := []
    agreedNew := [] } }

/-! ### Their bytes in the image -/

/-- A map as numbers: its length, then key and value of each entry. -/
def numsOfMap (m : NMap Nat) : List Nat := m.length :: m.flatMap fun e => [e.1, e.2]

/-- Lists with a key each as numbers. -/
def numsOfLists (m : NMap (List Nat)) : List Nat := m.length :: m.flatMap fun e => e.1 :: e.2.length :: e.2

/-- The committed values as numbers. -/
def State.carried (s : State) : List Nat :=
  [s.st.stepNo, s.st.epoch, s.prog.elim 0 (·.seed.toNat)] ++ s.st.offsets ++ numsOfLists s.st.calib ++ numsOfMap s.st.agreed ++ numsOfMap s.st.optSteps ++
  numsOfMap s.st.win ++ numsOfLists ((List.range s.st.winLog.length).map fun i => (i, nth [] s.st.winLog i)) ++ numsOfMap s.st.localVer ++
  numsOfMap s.st.migSlots ++ numsOfLists s.st.shadow

/-- Entries read from numbers. -/
def takePairs : Nat → List Nat → NMap Nat × List Nat
  | n + 1, k :: v :: t =>
    let r := takePairs n t
    ((k, v) :: r.1, r.2)
  | _, l => ([], l)

/-- A map read from numbers, and what follows it. -/
def mapOfNums : List Nat → NMap Nat × List Nat
  | [] => ([], [])
  | n :: t => takePairs n t

/-- Keyed lists read from numbers. -/
def takeLists : Nat → List Nat → NMap (List Nat) × List Nat
  | n + 1, k :: len :: t =>
    let r := takeLists n (t.drop len)
    ((k, t.take len) :: r.1, r.2)
  | _, l => ([], l)

/-- Keyed lists read from numbers, and what follows them. -/
def listsOfNums : List Nat → NMap (List Nat) × List Nat
  | [] => ([], [])
  | n :: t => takeLists n t

/-- Committed values taken from numbers. -/
def State.takeCarried (s : State) (l : List Nat) : State :=
  let calib := listsOfNums (l.drop 67)
  let agreed := mapOfNums calib.2
  let opt := mapOfNums agreed.2
  let win := mapOfNums opt.2
  let log := listsOfNums win.2
  let ver := mapOfNums log.2
  let slots := mapOfNums ver.2
  let shadow := listsOfNums slots.2
  { s with
    prog := s.prog.map fun p => { p with seed := BitVec.ofNat 64 (nth 0 l 2) }
    st := { s.st with
    stepNo := nth 0 l 0
    epoch := nth 0 l 1
    offsets := (l.drop 3).take 64
    calib := calib.1
    agreed := agreed.1
    optSteps := opt.1
    win := win.1
    winLog := log.1.map (·.2)
    localVer := ver.1
    migSlots := slots.1
    shadow := shadow.1 } }

/-- The region that the loader placed for them, the last of the image. -/
def State.tailRegion (s : State) : Region := s.prog.elim { base := 0, len := 0 } fun p => p.place.carried

/-- The bytes of the committed values: 16 bytes a number, filled up to the region. -/
def State.carriedBytes (s : State) : List Byte := fit s.tailRegion.len (s.carried.flatMap (leBytes 16))

/-- The region brought up to date with the committed values. -/
def State.storeCarried (s : State) : State := s.write s.tailRegion.base s.carriedBytes

/-- The committed values read back from the region, where it holds any. -/
def State.loadCarried (s : State) : State :=
  if s.tailRegion.len = 0 then s else s.takeCarried ((groupsOf 16 (s.read s.tailRegion.base s.tailRegion.len)).map leNat)

/-! ### Rows that leave (07 R179, R180, 11 R289) -/

/-- The home owner of a row. -/
def State.home (s : State) (t row : Nat) : Nat :=
  match s.decl, s.table t with
  | some d, some td => homeOwner d s.ranks td row
  | _, _ => 0

/-- A migration map with a row's owner installed: none for its home owner. -/
def State.mapWith (s : State) (m : NMap Nat) (k dst : Nat) : NMap Nat :=
  if s.home (keyTable k) (keyRow k) = dst then m.erase k else m.put k dst

/-- The agreed scales of a row's blocks forgotten: they are absent from now on (09 R225). -/
def State.dropScales (s : State) (k : Nat) : State :=
  let n := (s.table (keyTable k)).elim 0 fun t => ceilDiv t.width 32
  { s with st := { s.st with agreed := s.st.agreed.filter fun e => !(List.range n).any fun i => rowScaleKey k i == e.1 } }

/-- A row forgotten by its old owner, or by a module where it had arrived. -/
def State.forgetRow (s : State) (k : Nat) : State :=
  State.dropScales { s with st := { s.st with
    migSlots := s.st.migSlots.erase k
    win := s.st.win.erase k
    winLog := s.st.winLog.map fun l => l.filter (· != k)
    optSteps := s.st.optSteps.erase k
    eddySent := s.st.eddySent.erase k } } k

end Sys2Proof.Machine
end

