-- ==== Sys2Proof/Machine/Sampler.lean ====
section
/-! DEFINITION. The Headwater sampler (06 R142-R152, R429): target lists, the Ledger, draws, and sample requests answered for other owners. -/

namespace Sys2Proof.Machine

open Sys2Proof

/-! ### Targets (06 R144) -/

/-- The target records of a list. -/
def targetsOf (b : List Byte) : List Target :=
  (groupsOf 16 b).map fun x => {
    node := field x 0 5
    t := field x 5 6
    lti := field x 11 4 }

/-- What is wrong with a target list and specification, if anything: the specification is judged first, since S depends on it (log
entry 40). -/
def State.targetFault (s : State) (spec : Nat) (targets : List Target) : Option Status :=
  match s.decl, s.spec spec with
  | some d, some sp =>
    if targets.any (fun t => decide (d.nodes ≤ t.node)) || decide (d.maxTargets < targets.length) ||
        decide (d.ledgerCap < targets.length * slotCount (fanouts sp)) then some .indexRange
    else none
  | _, _ => some .formatInvalid

/-! ### Where entries lie -/

/-- Where the Ledger and the attribute array lie: an EVAL has areas of its own (log entry 14). -/
def State.ledgerPlace (s : State) (eval : Bool) : Nat × Nat :=
  s.prog.elim (0, 0) fun p => if eval then (p.place.evalLedger, p.place.evalAttrs) else (p.place.ledger, p.place.attrs)

/-- An entry and its attribute record. -/
def State.ledgerAt (s : State) (eval : Bool) (i : Nat) : List Byte :=
  s.read ((s.ledgerPlace eval).1 + 16 * i) 16 ++ s.read ((s.ledgerPlace eval).2 + 8 * i) 8

/-- Entries and attribute records written from an index on: 24 bytes for each. -/
def State.putLedger (s : State) (eval : Bool) (i : Nat) : List (List Byte) → State
  | [] => s
  | x :: t =>
    let p := s.ledgerPlace eval
    State.putLedger ((s.write (p.1 + 16 * i) (x.take 16)).write (p.2 + 8 * i) (x.drop 16)) eval (i + 1) t

/-- The 24 bytes of a child of hop h. -/
def childRecord (h parent : Nat) (c : Child) : List Byte := ledgerEntry h parent c ++ attrRecord c

/-- The children of a parent are written at their indices; empty slots are counted in the cluster of the target (06 R429). -/
def State.putChildren (s : State) (eval : Bool) (fs : List Nat) (i h parent : Nat) (cs : List (List Byte)) : State :=
  let empty := (cs.filter fun c => field c 0 5 == noId).length
  let s := if empty = 0 then s else s.count (cCluster (i % 12) 3) empty
  s.putLedger eval (i * slotCount fs + childSlot fs h parent 0 - 1) cs

/-! ### Draws (06 R147) -/

/-- The generator of a target's draws: c0 the LTI, c1 the slot and attempt, c2 the step, the purpose and the specification. -/
def State.drawGen (s : State) (lti c2 spec : Nat) (eval : Bool) : DrawGen := fun slot attempt =>
  generateAt (s.prog.elim 0 (·.seed)) (lti + 2 ^ 32 * (slot + 2 ^ 25 * attempt)) c2 (if eval then 2 else 1) spec

/-- The children of an owned parent, and the counts of its work in its cluster (06 R429). -/
def State.drawParent (s : State) (d : Decl) (hop : Hop) (node tb slot0 lti c2 spec : Nat) (eval : Bool) : List Child × State :=
  let e := s.entry node
  let all := s.runRecords e
  let cs := drawChildren hop tb slot0 (s.drawGen lti c2 spec eval) (s.aliasTable e) (liveRecords all)
  let c := nodeIndex d s.ranks node % 12
  let s := s.count (cCluster c 0) (cs.filter fun x => x.took.isSome).length
  let s := if countPath hop tb all then s.count (cCluster c 4) 1 else s
  let s := s.count (cCluster c 5) (cs.filter fun x => x.slow).length
  let s := if cs.any (·.trunc) then s.count (cCluster c 6) 1 else s
  let table := if hop.mode == .weighted && e.alias_ != 0 then [{ base := e.alias_, len := 8 * e.live : Region }] else []
  (cs, s.countSearch (s.entryAddr node) ({ base := e.addr, len := 16 * e.len } :: table))

/-- A sample request record (06 R149). -/
def requestRecord (node tb parent lti : Nat) : List Byte := leBytes 5 node ++ leBytes 6 tb ++ leBytes 3 parent ++ leBytes 4 lti ++ zeros 2

/-- A request collected for an owner, with the index of its first child. -/
structure Ask where
  owner : Nat
  index : Nat
  record : List Byte
  deriving DecidableEq, Repr, Inhabited

/-- Who samples: the step or the EVAL on the cores. -/
structure Sampling where
  eval : Bool
  spec : Nat
  c2 : Nat
  deriving DecidableEq, Repr, Inhabited

/-- One parent of hop h of target i: children of an empty slot are empty, an owned parent is drawn at once, and any other is asked of its
owner. -/
def State.sampleParent (s : State) (d : Decl) (sp : SampSpec) (w : Sampling) (t : Target) (i h parent : Nat) : State × List Ask :=
  let fs := fanouts sp
  let hop := nth default sp.hops (h - 1)
  let up := if parent = 0 then leBytes 5 t.node ++ leBytes 6 t.t else s.ledgerAt w.eval (i * slotCount fs + parent - 1)
  let node := field up 0 5
  let tb := if hop.tbound && h != 1 then field up 5 6 else t.t
  let slot0 := childSlot fs h parent 0
  if node = noId then (s.putChildren w.eval fs i h parent (List.replicate hop.fanout (childRecord h parent Child.empty)), [])
  else if s.mach.rank = some (nodeOwner d s.ranks node) then
    let r := s.drawParent d hop node tb slot0 t.lti w.c2 w.spec w.eval
    (r.2.putChildren w.eval fs i h parent (r.1.map (childRecord h parent)), [])
  else
    (s.count (cCluster (i % 12) 1) 1,
      [{ owner := nodeOwner d s.ranks node, index := i * slotCount fs + slot0 - 1, record := requestRecord node tb parent t.lti }])

/-- Every parent of hop h, targets in list order and slots ascending. -/
def State.sampleHop (s : State) (d : Decl) (sp : SampSpec) (w : Sampling) (targets : List Target) (h : Nat) : State × List Ask :=
  let fs := fanouts sp
  let parents := if h = 1 then [0] else (List.range (hopSlots fs (h - 1))).map (· + hopBase fs (h - 1))
  (List.range targets.length).foldl (fun (a : State × List Ask) i =>
    parents.foldl (fun (a : State × List Ask) p =>
      let r := a.1.sampleParent d sp w (nth default targets i) i h p
      (r.1, a.2 ++ r.2)) a) (s, [])

/-- Requests that fit in one message. -/
def requestsPer : Nat := (65536 - 16) / 20

/-- The indices asked of an owner. -/
def askIndices (asks : List Ask) (o : Nat) : List Nat := (asks.filter fun a => a.owner == o).map (·.index)

/-- The step's last hop is complete on this module. -/
def State.sampled (s : State) : Bool :=
  match s.st.run with
  | none => false
  | some r => r.phase == .sample && s.ex.sampleLeft.isEmpty && (s.spec r.spec).elim false fun sp => r.hop == sp.hops.length

/-- The wait of Sample ends with the last hop (09 R232). -/
def State.trySampled (s : State) : State :=
  if s.wd = some .sampleExchange ∧ s.sampled = true then { s with wd := none } else s

/-- A hop of the step: its draws, and one batch to every other member, empty ones too (06 R149). -/
def State.stepHop (s : State) (r : StepRun) (d : Decl) (sp : SampSpec) (h : Nat) : State :=
  let x : State × List Ask := s.sampleHop d sp { eval := false, spec := r.spec, c2 := s.st.stepNo } r.targets h
  let t : State := x.1
  let head := batchHeader t.st.stepNo r.attempt h false 0
  let t : State := { t with
    st := { t.st with run := t.st.run.map fun r => { r with hop := h } }
    ex := { t.ex with
      sampleLeft := t.others.map fun o => (o, h)
      sampleAsked := t.others.map fun o => (o, askIndices x.2 o) } }
  State.trySampled <| t.others.foldl (fun t o =>
    t.sendMsgs (batchMsgs 4 0 o requestsPer head ((x.2.filter fun a => a.owner == o).map (·.record)) false)) t

/-- A hop of the EVAL on the cores: its draws, and one batch to every other member, empty ones too (06 R149). -/
def State.evalHop (s : State) (e : EvalRun) (d : Decl) (sp : SampSpec) (h : Nat) : State :=
  let x : State × List Ask := s.sampleHop d sp { eval := true, spec := e.spec, c2 := e.pinned } e.targets h
  let t : State := x.1
  let head := batchHeader e.pinned 0 h true e.tag
  let t : State := match t.st.evals with
    | [] => t
    | e :: es =>
      let e := { e with
        hop := h
        epoch := if h = 1 then t.st.epoch else e.epoch
        asked := t.others.map fun o => (o, askIndices x.2 o) }
      { t with st := { t.st with evals := e :: es } }
  t.others.foldl (fun t o =>
    t.sendMsgs (batchMsgs 4 0 o requestsPer head ((x.2.filter fun a => a.owner == o).map (·.record)) false)) t

/-- The module stands at a step boundary: no step, or one that has not arrived at its first start barrier. -/
def State.atBoundary (s : State) : Bool := s.st.run.elim true fun r => r.phase == .waitStart && r.replays == 0 && (s.barrier bStepStart).own.isNone

/-- A boundary action is due at the boundary the module stands at (01 R30); one that waits for shadow slots is not (07 R183). -/
def State.dueAct (s : State) (a : Act) : Bool := !a.stalled && a.pin.elim true fun p => decide (p ≤ s.st.stepNo)

/-- A graph-changing action is pending at the boundary the module stands at, so no EVAL starts drawing (06 R140). -/
def State.graphPending (s : State) : Bool := s.atBoundary && (s.st.windowOpen || s.st.acts.any fun a => a.kind == 1 && s.dueAct a)

/-- The next hop of the EVAL on the cores, if it is `hop`. -/
def State.evalNext (s : State) (d : Decl) (hop : Nat) : State :=
  match s.st.evals with
  | [] => s
  | e :: _ =>
    if e.drawing && e.hop + 1 == hop && e.asked.isEmpty && !(hop == 1 && s.graphPending) then
      match s.spec e.spec with
      | some sp => if hop ≤ sp.hops.length then s.evalHop e d sp hop else s
      | none => s
    else s

/-- HOP_BATCH_SEND: the next hop of the step while it samples, otherwise of the EVAL on the cores while it draws (06 R149). -/
def hopBatchSend (hop : Nat) (s : State) : State :=
  if !(s.member && s.prog.isSome) || hop == 0 then s
  else
    match s.decl, s.st.run with
    | some d, some r =>
      if r.phase = .sample ∧ r.fault = none ∧ r.hop + 1 = hop ∧ s.ex.sampleLeft = [] then
        match s.spec r.spec with
        | some sp => if hop ≤ sp.hops.length then s.stepHop r d sp hop else s
        | none => s
      else s.evalNext d hop
    | some d, none => s.evalNext d hop
    | none, _ => s

/-! ### Owners' side (06 R150, R151) -/

/-- A request record keeps its layout and names a node owned here. -/
def State.sampleOk (s : State) (d : Decl) (r : List Byte) : Bool :=
  r.length == 20 && bits (field r 11 3) 19 5 == 0 && field r 18 2 == 0 && decide (field r 0 5 < d.nodes) &&
  s.mach.rank == some (nodeOwner d s.ranks (field r 0 5))

/-- The children of one request as records of 24 bytes, drawn in turn. -/
def State.answerSample (s : State) (d : Decl) (sp : SampSpec) (spec h c2 : Nat) (eval : Bool) (r : List Byte) : List Byte × State :=
  let fs := fanouts sp
  let parent := field r 11 3
  let x := s.drawParent d (nth default sp.hops (h - 1)) (field r 0 5) (field r 5 6) (childSlot fs h parent 0) (field r 14 4) c2 spec eval
  (x.1.flatMap (childRecord h parent), x.2.count (cCluster (nodeIndex d x.2.ranks (field r 0 5) % 12) 2) 1)

/-- A whole sample-request batch answered by one reply batch, in the order of its requests (06 R150). -/
def State.answerSamples (s : State) (d : Decl) (sp : SampSpec) (spec : Nat) (m : Msg) (recs : List (List Byte)) : State :=
  let x := recs.foldl (fun (a : List (List Byte) × State) r =>
    let y := a.2.answerSample d sp spec (field m.body 5 1) (field m.body 0 4) (batchEval m.body) r
    (a.1 ++ [y.1], y.2)) ([], s)
  let parts := packReplies x.1
  x.2.sendMsgs ((List.range parts.length).map fun i => mkMsg 4 0 10 m.src (m.body.take 16 ++ nth [] parts i) true (i + 1 == parts.length))

/-- A message of a sample-request batch at its owner; the batch is drawn from the committed graph when it is whole. `spec` is the specification
that the requester's step or EVAL names, which the batch does not carry (log entry 41); `reads` are the raw reads that the draws make. -/
def sampleReq (m : Msg) (spec : Nat) (reads : State → Bool → Bool × State) (s : State) : State :=
  if !(s.member && m.typ == 4 && !m.resp) || s.pulling then s
  else
    match s.decl, s.spec spec with
    | some d, some sp =>
      let s := s.took m
      let b := m.body
      if !s.batchCurrent b then s.discarded m
      else if !(batchHeaderOk b && decide (1 ≤ field b 5 1) && decide (field b 5 1 ≤ sp.hops.length) && (groupsOf 20 (b.drop 16)).all (s.sampleOk d)) then
        s.stepFault .formatInvalid
      else
        match s.batchIn m with
        | (none, t) => t
        | (some l, t) =>
          match reads t (batchEval b) with
          | (false, u) => u
          | (true, u) => u.answerSamples d sp spec m (groupsOf 20 (batchBytes l))
    | _, _ => s

/-! ### Requester's side -/

/-- Reply groups taken in order for the indices asked; those not yet answered are left. -/
def State.fillSamples (s : State) (eval : Bool) (fs : List Nat) (f : Nat) : List Nat → List Byte → List Nat × State
  | [], _ => ([], s)
  | i :: t, b =>
    if b.length < 24 * f then (i :: t, s)
    else
      let cs := groupsOf 24 (b.take (24 * f))
      let empty := (cs.filter fun c => field c 0 5 == noId).length
      let u := if empty = 0 then s else s.count (cCluster (i / max 1 (slotCount fs) % 12) 3) empty
      State.fillSamples (u.putLedger eval i cs) eval fs f t (b.drop (24 * f))

/-- What an owner still has to answer after a batch of its replies. -/
def askedAfter (l : List (Nat × List Nat)) (src : Nat) (left : List Nat) : List (Nat × List Nat) :=
  l.map fun e => if e.1 = src then (src, left) else e

/-- The indices asked of an owner and not yet answered. -/
def askedOf (l : List (Nat × List Nat)) (src : Nat) : List Nat := ((l.find? fun x => x.1 == src).map (·.2)).getD []

/-- A whole reply batch to the EVAL on the cores. An owner has answered when every index asked of it is written. -/
def State.evalSamples (s : State) (fs : List Nat) (m : Msg) (b : List Byte) : State :=
  match s.st.evals with
  | [] => s
  | e :: _ =>
    let r := s.fillSamples true fs (nth 0 fs (field m.body 5 1 - 1)) (askedOf e.asked m.src) b
    match r.2.st.evals with
    | [] => r.2
    | e :: es => { r.2 with st := { r.2.st with evals := { e with
        asked := (askedAfter e.asked m.src r.1).filter fun x => !(x.1 == m.src && x.2.isEmpty) } :: es } }

/-- A whole reply batch to the step. -/
def State.stepSamples (s : State) (fs : List Nat) (m : Msg) (b : List Byte) : State :=
  let r := s.fillSamples false fs (nth 0 fs (field m.body 5 1 - 1)) (askedOf s.ex.sampleAsked m.src) b
  State.trySampled { r.2 with ex := { r.2.ex with
    sampleAsked := askedAfter r.2.ex.sampleAsked m.src r.1
    sampleLeft := r.2.ex.sampleLeft.filter fun x => !(x.1 == m.src && r.1.isEmpty) } }

/-- The requester still waits for a reply with this header: the fan-outs of its specification. -/
def State.replyWanted (s : State) (b : List Byte) : Option (List Nat) :=
  if batchEval b then
    s.st.evals.head?.bind fun e => if e.drawing && e.hop == field b 5 1 && field b 0 4 == e.pinned && field b 8 8 == e.tag then (s.spec e.spec).map fanouts else none
  else s.st.run.bind fun x => if s.batchCurrent b && x.phase == .sample && x.hop == field b 5 1 then (s.spec x.spec).map fanouts else none

/-- A message of a sample reply at its requester: when the batch is whole, its records are written at the Ledger indices of its requests (06
R150). -/
def sampleReply (m : Msg) (s : State) : State :=
  if !(s.member && s.prog.isSome && m.typ == 4 && m.resp) then s
  else
    let s := s.took m
    match s.replyWanted m.body with
    | none => if s.batchCurrent m.body then s else s.discarded m
    | some fs =>
      match s.batchIn m with
      | (none, t) => t
      | (some l, t) => if batchEval m.body then t.evalSamples fs m (batchBytes l) else t.stepSamples fs m (batchBytes l)

/-- The EVAL on the cores has drawn every hop. -/
def State.evalSampled (s : State) : Bool :=
  match s.st.evals with
  | [] => false
  | e :: _ => e.drawing && e.asked.isEmpty && (s.spec e.spec).elim false fun sp => e.hop == sp.hops.length

/-- HOP_BATCH_SEND (06 R149). -/
def execHopBatchSend (hop : Nat) (s : State) : Host.Outcome State Fault Refusal := .next (hopBatchSend hop s)
/-- SAMPLE_REPLY (06 R150). -/
def execSampleReply (m : Msg) (s : State) : Host.Outcome State Fault Refusal := .next (sampleReply m s)

end Sys2Proof.Machine
end

