-- ==== Sys2Proof/Machine/Mirror.lean ====
section
/-! DEFINITION. Mirroring (11 R274-R278, R281): a rank's image and its parts, deltas and boundary copies with their acknowledgements, and
pulls; and a module's arrival at the step-start barrier (01 R12). -/

namespace Sys2Proof.Machine

open Sys2Proof

/-! ### Holders (11 R275) -/

/-- The rank that the installation map puts at a position. -/
def State.rankAt (s : State) (pos : Nat) : Option Nat := s.ms.map.bind fun m => (List.range m.ranks.length).find? fun r => nth 0 m.ranks r == pos

/-- The position that the installation map gives a rank; a spare that takes the rank stands in its place. -/
def State.homePosition (s : State) (rank : Nat) : Nat := s.ms.map.elim 0 fun m => nth 0 m.ranks rank

/-- The holders of a rank: those at the other active slots of its sled, in ascending slot. -/
def State.holders (s : State) (rank : Nat) : List Nat :=
  let p := s.homePosition rank
  ((List.range 4).filter (· != p % 8)).filterMap fun slot => s.rankAt (p / 8 * 8 + slot)

/-! ### The image (11 R275) -/

/-- Bytes of a unit. -/
def unitBytes : Nat := 65536

/-- A mirrored region at the copy that an epoch pointer names (01 R23). -/
def epochRegion (slices : List SlicePlace) (epoch : Bool) (r : Region) : Region :=
  if !epoch then r
  else
    match slices.find? fun x => x.work0 == r.base || x.master0 == r.base with
    | some x => { r with base := if x.work0 = r.base then x.work1 else x.master1 }
    | none => r

/-- The mirrored regions in placement order, at the copies of an epoch, then that of the committed values kept by name. -/
def State.imageRegions (s : State) (epoch : Bool) : List Region :=
  match s.prog with
  | none => []
  | some p => p.place.mirrored.map (epochRegion (p.place.slices.filter fun x => s.mach.rank == some x.owner) epoch) ++ [p.place.carried]

/-- Bytes of a list of regions. -/
def totalBytes (rs : List Region) : Nat := (rs.map (·.len)).sum

/-- The address of an image offset. -/
def imageAddr : List Region → Nat → Option Nat
  | [], _ => none
  | r :: t, o => if o < r.len then some (r.base + o) else imageAddr t (o - r.len)

/-- Bytes of the image; beyond its end they are 0. -/
def State.imageBytes (s : State) (rs : List Region) (o n : Nat) : List Byte :=
  (List.range n).map fun i => (imageAddr rs (o + i)).elim 0 fun a => s.byte a

/-- Bytes stored into the image, those beyond its end left out. -/
def State.putImage (s : State) (rs : List Region) (o : Nat) (b : List Byte) : State :=
  (List.range b.length).foldl (fun s i =>
    match imageAddr rs (o + i) with
    | some a => s.write a [nth 0 b i]
    | none => s) s

/-- The part and the offset in it of an image offset. -/
def partOf (o : Nat) : Nat × Nat := (o / unitBytes % 3, o / unitBytes / 3 * unitBytes + o % unitBytes)

/-- The image offset of an offset in a part. -/
def imageOffset (part q : Nat) : Nat := (3 * (q / unitBytes) + part) * unitBytes + q % unitBytes

/-- Bytes of a part of an image of `n` bytes. -/
def partLen (n part : Nat) : Nat :=
  ((List.range (ceilDiv n unitBytes)).filter fun u => u % 3 == part).foldl (fun t u => t + min unitBytes (n - u * unitBytes)) 0

/-- A range of addresses as ranges of the image. -/
def imageSpans : List Region → Nat → Region → List (Nat × Nat)
  | [], _, _ => []
  | r :: t, at_, x =>
    let lo := max r.base x.base
    let hi := min (r.base + r.len) (x.base + x.len)
    (if lo < hi then [(at_ + (lo - r.base), hi - lo)] else []) ++ imageSpans t (at_ + r.len) x

/-- A number put into a rising list once. -/
def insertOnce (x : Nat) : List Nat → List Nat
  | [] => [x]
  | a :: t => if x < a then x :: a :: t else if x = a then a :: t else a :: insertOnce x t

/-- The 8-byte words that ranges of the image touch, rising. -/
def spanWords (l : List (Nat × Nat)) : List Nat :=
  l.foldl (fun ws x => (List.range ((x.1 % 8 + x.2 + 7) / 8)).foldl (fun ws i => insertOnce (x.1 / 8 + i) ws) ws) []

/-- Rising words joined into runs (first word, words) that do not pass a boundary of 32 KiB. -/
def joinWords : List Nat → List (Nat × Nat)
  | [] => []
  | w :: t =>
    match joinWords t with
    | (a, n) :: rest => if w + 1 = a ∧ a % 4096 ≠ 0 then (w, n + 1) :: rest else (w, 1) :: (a, n) :: rest
    | [] => [(w, 1)]

/-- The runs of the image that ranges of addresses touch, with their bytes. -/
def State.runsOf (s : State) (rs touched : List Region) : List (Nat × List Byte) :=
  (joinWords (spanWords (touched.flatMap (imageSpans rs 0)))).map fun x => (8 * x.1, s.imageBytes rs (8 * x.1) (8 * x.2))

/-! ### Streaming (11 R276, R277) -/

/-- The mirror header. -/
def mirrorHeader (step attempt part owner off : Nat) : List Byte :=
  leBytes 4 step ++ leBytes 1 attempt ++ leBytes 1 part ++ leBytes 2 owner ++ leBytes 8 off

/-- The runs that belong to a part. -/
def runsIn (part : Nat) (runs : List (Nat × List Byte)) : List (Nat × List Byte) :=
  (runs.filter fun x => (partOf x.1).1 == part).map fun x => ((partOf x.1).2, x.2)

/-- Bytes of runs. -/
def runBytesTotal (runs : List (Nat × List Byte)) : Nat := (runs.map fun x => x.2.length).sum

/-- The checksum of runs: sums do not depend on order (11 R276). -/
def runSum (runs : List (Nat × List Byte)) : Nat := (runs.map fun x => checksum x.2).sum % sumMod

/-- The messages of one part toward its holder: its runs, then LAST with their bytes. -/
def partMsgs (opc step attempt part owner holder : Nat) (runs : List (Nat × List Byte)) : List Msg :=
  (runs.map fun x => mkMsg 8 opc 1 holder (mirrorHeader step attempt part owner x.1 ++ x.2)) ++
  [mkMsg 8 opc 1 holder (mirrorHeader step attempt part owner (runBytesTotal runs)) (last := true)]

/-- A part of the runs last streamed sent to its holder. -/
def State.sendPart (s : State) (opc part : Nat) : State :=
  match (s.holders s.rank)[part]? with
  | none => s
  | some h =>
    let runs := runsIn part s.mir.out
    let s := s.count cMirrorBytes (runBytesTotal runs)
    (partMsgs opc s.st.stepNo s.attempt part s.rank h runs).foldl State.send s

/-- Runs streamed to every holder, each of which is to acknowledge. -/
def State.stream (s : State) (opc : Nat) (runs : List (Nat × List Byte)) : State :=
  let parts := (List.range 3).filter (· < (s.holders s.rank).length)
  let acks := parts.map fun p => {
    part := p
    sum := runSum (runsIn p runs)
    bytes := runBytesTotal (runsIn p runs)
    acked := false
    resent := false : MirAck }
  let t : State := { s with mir := { s.mir with
    out := runs
    acks := acks } }
  parts.foldl (fun t p => t.sendPart opc p) t

/-- Every holder has acknowledged what was last streamed. -/
def State.allAcked (s : State) : Bool := s.mir.acks.all (·.acked)

/-! ### The step-start barrier (01 R12) -/

/-- The module arrives at the step-start barrier: it holds the STEP, its boundary window is over, and after a substitution its pull and its
Eddy refresh are complete (11 R281 step 7). Bit 0 says whether it applied a boundary action in the window (12 R316). -/
def State.arriveStart (s : State) : State :=
  match s.st.run with
  | none => s
  | some r =>
    if r.phase == .waitStart && (s.barrier bStepStart).own != some (s.st.stepNo, r.attempt, (!s.st.applied.isEmpty).toNat) &&
        !s.st.windowOpen && s.st.eddyAcks.isEmpty && s.allAcked && s.st.applied.all (fun a => !a.waitAck) &&
        (r.replays != 0 || s.st.acts.all fun a => !s.dueAct a) && s.mir.pulls.all (·.fin) && s.st.refreshWait.isEmpty then
      State.arrive { s with wd := some .stepStart } bStepStart s.st.stepNo r.attempt (!s.st.applied.isEmpty).toNat
    else s

/-- The module's boundary window is over for now: nothing due, and nothing waits for an acknowledgement. -/
def State.boundaryQuiet (s : State) : Bool :=
  s.atBoundary && !s.st.windowOpen && s.st.acts.all (fun a => !s.dueAct a) && s.allAcked && s.st.applied.all (fun a => !a.waitAck) && s.st.eddyAcks.isEmpty

/-- A module asked for a WINDOW barrier arrives at it once its boundary is quiet; bit 0 says whether it applied an action (12 R316). -/
def State.tryWindow (s : State) : State :=
  if s.st.windowAsked && !s.st.windowShut && s.boundaryQuiet then
    State.arrive { s with
      st := { s.st with windowShut := true }
      wd := if s.wd.isNone then some .window else s.wd } bWindow s.lastStep 0 (!s.st.applied.isEmpty).toNat
  else s

/-- What a boundary that has become quiet lets go on: the step-start barrier and the WINDOW barrier. -/
def State.tryBegin (s : State) : State := s.arriveStart.tryWindow

/-! ### Commands that wait for acknowledgements (11 R278) -/

/-- A MIGRATE of this module still waits for destinations to mirror its rows or for members to install its map entries (07 R179). -/
def State.migrating (s : State) : Bool := !s.st.moveWait.isEmpty || !s.st.installWait.isEmpty

/-- A migration record: row, destination, table. -/
structure MigRec where
  row : Nat
  dst : Nat
  rsv : Nat
  table : Nat
  deriving DecidableEq, Repr, Inhabited

/-- The records of a list. -/
def migRecs (b : List Byte) : List MigRec :=
  (groupsOf 8 b).map fun x => {
    row := field x 0 5
    dst := bits (field x 5 2) 0 13
    rsv := bits (field x 5 2) 13 3
    table := field x 7 1 }

/-- The 8 bytes of a migration record. -/
def migBytes (r : MigRec) : List Byte := leBytes 5 r.row ++ leBytes 2 r.dst ++ leBytes 1 r.table

/-- A map-install message on VC0: the rank's global address, a kind (0 map entries, 2 the migrations complete, 3 how many records the
MIGRATE moves, 4 rows that ask for room, 6 a MIGRATE undone; in a reply 1 the entries are installed, 5 there is room or not, 7 the rows are mirrored),
then what the kind says (log entry 43). -/
def mapMsg (o kind : Nat) (b : List Byte) (last : Bool := false) : Msg := mkMsg 1 5 0 o (leBytes 8 (o * 2 ^ 48) ++ leBytes 8 kind ++ b) (last := last)

/-- Map-install messages of a kind that carry migration records. -/
def mapMsgs (o kind : Nat) (rs : List MigRec) : List Msg := (groupsOf 8000 rs).map fun l => mapMsg o kind (l.flatMap migBytes)

/-- Map-install messages also reach the spare of this module's sled, which installs map changes as a member (11 R274). -/
def State.tellSpareAll (s : State) (ms : List Msg) : State := ms.foldl State.tellSpare s

/-- The rows of a list that leave this module. -/
def State.moving (s : State) (payload : List Byte) : List MigRec := (migRecs payload).filter fun r => some r.dst != s.mach.rank

/-- A map entry installed. A replica of the row that its old owner had sent is dropped: the new owner sends its own (07 R172; log entry 46). -/
def State.installEntry (s : State) (r : MigRec) : State :=
  let k := rowKey r.table r.row
  let old := (s.st.eddy.find k).elim false fun x => x.src != r.dst
  let t := { s with st := { s.st with
    migMap := s.mapWith s.st.migMap k r.dst
    eddy := if old then s.st.eddy.erase k else s.st.eddy } }
  if old then t.count cEddyDrops 1 else t

/-- The old owner's own part of a MIGRATE: its map entries installed and the rows forgotten (07 R180). -/
def State.leaveRows (s : State) (rs : List MigRec) : State :=
  rs.foldl (fun s r => (s.installEntry r).forgetRow (rowKey r.table r.row)) s

/-- The last MIGRATE of a ring is complete: this module lets its rows go, and every member hears of it. -/
def State.tellMoved (s : State) (ring : Nat) : State :=
  let rs := (s.st.applied.reverse.find? fun a => a.ring == ring && a.kind == 2).elim [] fun a => s.moving a.payload
  let s := (s.leaveRows rs).count cMigrateRows rs.length
  State.tellSpareAll (s.others.foldl (fun s o => (mapMsgs o 2 rs).foldl State.send s) s) (mapMsgs s.spareRank 2 rs)

/-- A command whose copies the holders have acknowledged completes: a loaded program makes the module LOADED, and of a MIGRATE every member
hears that it is complete, by its records (log entry 43). -/
def State.finishWaiting (s : State) (x : Nat × Nat × Nat) : State :=
  let op := ((s.ring x.1).busy).elim 0 fun b => descOp b.2
  let s := if op = 0x02 then s.enter .loaded else s
  let s := if op = 0x08 then s.tellMoved x.1 else s
  s.complete x.1 { status := .ok, info := x.2.1, step := x.2.2 }

/-- What waited for the holders completes, in order, and old owners hear that their rows and map entries are installed, the Eddy refresh of
those rows included. -/
def State.finishCopies (s : State) : State :=
  if s.allAcked then
    let w := s.mir.waiting
    let o := if s.st.eddyAcks.isEmpty then s.st.owed else []
    let m := s.st.owedMoves
    let s : State := { s with
      mir := { s.mir with waiting := [] }
      st := { s.st with
        owedMoves := []
        applied := s.st.applied.map fun (a : Act) => { a with waitAck := a.waitAck && a.kind == 2 && s.migrating }
        owed := if s.st.eddyAcks.isEmpty then [] else s.st.owed } }
    let s := s.sendAll m fun r => { mapMsg r 7 [] with resp := true }
    let s := s.sendAll o fun r => { mapMsg r 1 [] with resp := true }
    let s := w.foldl State.finishWaiting s
    s.tryBegin
  else s

/-- Regions of the image streamed as boundary copies (MIRROR OPC 3), with the region of the committed values holding the bytes `carried`; commands that
wait for them are listed. -/
def State.copyWith (s : State) (carried : List Byte) (touched : List Region) (waiting : List (Nat × Nat × Nat)) : State :=
  let s := State.write { s with mir := { s.mir with waiting := s.mir.waiting ++ waiting } } s.tailRegion.base carried
  (s.stream 3 (s.runsOf (s.imageRegions s.st.wEpoch) (touched ++ [s.tailRegion]))).finishCopies

/-- The same with the committed values as they stand; without a region only what waits is listed. -/
def State.copyBoundary (s : State) (touched : List Region) (waiting : List (Nat × Nat × Nat)) : State :=
  if touched = [] then State.finishCopies { s with mir := { s.mir with waiting := s.mir.waiting ++ waiting } }
  else s.copyWith s.carriedBytes touched waiting

/-! ### Holders' side -/

/-- The base of the mirror region that this module keeps for a rank. -/
def State.mirrorBase (s : State) (owner : Nat) : Nat :=
  let l := s.holders s.rank
  (((List.range l.length).find? fun j => nth 0 l j == owner).bind fun j => s.prog.bind fun p => p.place.mirror[j]?).getD 0

/-- The part of a rank that this module holds: its place among that rank's holders. -/
def State.partHeld (s : State) (owner : Nat) : Option Nat :=
  let l := s.holders owner
  (List.range l.length).find? fun j => nth 0 l j == s.rank

/-- Bytes of a part of an image of `n` bytes that a holder keeps. -/
def State.heldLen (s : State) (part : Nat) : Nat := partLen (s.decl.elim 0 (·.mirrorImage)) part

/-- The state kept for a held part. Before anything is written to it, its running checksum is that of what the mirror region holds. -/
def State.heldPart (s : State) (owner : Nat) : MirPart :=
  (s.mir.held.find? fun x => x.owner == owner).getD {
    owner := owner
    part := (s.partHeld owner).getD 0
    complete := false
    sum := checksum (s.read (s.mirrorBase owner) (s.heldLen ((s.partHeld owner).getD 0)))
    pend := []
    last := none
    acked := false
    copy := []
    copyLast := none }

/-- The mirror regions as a load, or a spare that takes a rank, finds them: nothing of an earlier image is left in them, so that the checksum of a part is
that of what its owner has sent (11 R276). -/
def State.clearMirrors (s : State) : State :=
  (s.holders s.rank).foldl (fun s o => s.write (s.mirrorBase o) (zeros (s.heldLen ((s.partHeld o).getD 0)))) s

/-- A held part set. -/
def State.setHeld (s : State) (x : MirPart) : State :=
  { s with mir := { s.mir with held := (s.mir.held.filter fun y => y.owner != x.owner) ++ [x] } }

/-- Runs applied to a held part, with its running checksum. -/
def State.applyRuns (s : State) (x : MirPart) : List (Nat × List Byte) → MirPart × State
  | [] => (x, s)
  | (off, b) :: t =>
    let a := s.mirrorBase x.owner + off
    let sum := (x.sum + sumMod - checksum (s.read a b.length) + checksum b) % sumMod
    State.applyRuns (s.write a b) { x with sum := sum } t

/-- The acknowledgement of what a holder received. -/
def ackMsg (step attempt part owner : Nat) (runs : List (Nat × List Byte)) : Msg :=
  mkMsg 8 1 1 owner (mirrorHeader step attempt part owner (runSum runs) ++ leBytes 8 (runBytesTotal runs))

/-- A holder acknowledges a part's deltas once LAST and every byte are in and its base is complete (11 R277). -/
def State.tryAck (s : State) (owner : Nat) : State :=
  let x := s.heldPart owner
  if x.complete && !x.acked && x.last == some (runBytesTotal x.pend) then
    (s.setHeld { x with acked := true }).send (ackMsg s.st.stepNo s.attempt x.part owner x.pend)
  else s

/-- The layout of a MIRROR message and that this module holds the part it names. -/
def State.mirrorOk (s : State) (opc : Nat) (m : Msg) : Bool :=
  s.member && s.prog.isSome && m.typ == 8 && m.opc == opc && m.vc == 1

/-- MIRROR_STEP_DELTA: a run is kept pending; a part sent again starts from nothing (11 R277). -/
def mirrorStepDelta (m : Msg) (s : State) : State :=
  if !s.mirrorOk 0 m then s
  else
    let s := s.took m
    let owner := field m.body 6 2
    if !(s.st.run.isSome && field m.body 0 4 == s.st.stepNo && field m.body 4 1 == s.attempt && s.partHeld owner == some (field m.body 5 1)) then s
    else
      let x := s.heldPart owner
      let x := if x.acked then { x with
        pend := []
        last := none
        acked := false } else x
      let off := field m.body 8 8
      let x := if m.last then { x with last := some off } else { x with pend := x.pend ++ [(off, m.body.drop 16)] }
      (s.setHeld x).tryAck owner

/-- Pending deltas of every held part applied, at the commit point (01 R20). -/
def State.applyPending (s : State) : State :=
  s.mir.held.foldl (fun s x =>
    let r := s.applyRuns x x.pend
    r.2.setHeld { r.1 with
      pend := []
      last := none
      acked := false }) s

/-- Pending deltas of every held part discarded, at an abort. -/
def State.dropPending (s : State) : State :=
  { s with mir := { s.mir with held := s.mir.held.map fun x => { x with
    pend := []
    last := none
    acked := false } } }

/-- A holder acknowledges a boundary copy once LAST and every byte are in and its base is complete (11 R276, R278, R281 step 6). -/
def State.ackCopy (s : State) (owner step attempt : Nat) : State :=
  let x := s.heldPart owner
  if x.complete && x.copyLast == some (runBytesTotal x.copy) then
    State.send (s.setHeld { x with
      copy := []
      copyLast := none }) (ackMsg step attempt x.part owner x.copy)
  else s

/-- MIRROR_BOUNDARY_COPY: applied on arrival, and acknowledged once it is whole; one on a base that is not complete yet is acknowledged
when the base is. One that comes while this module's own load waits belongs to the new program, and waits too. -/
def mirrorBoundaryCopy (m : Msg) (s : State) : State :=
  if !s.mirrorOk 3 m || s.loadWait.isSome then s
  else
    let s := s.took m
    let owner := field m.body 6 2
    if s.partHeld owner ≠ some (field m.body 5 1) then s
    else
      let x := s.heldPart owner
      let off := field m.body 8 8
      let r : MirPart × State := if m.last then ({ x with copyLast := some off }, s)
        else
          let r := s.applyRuns x [(off, m.body.drop 16)]
          ({ r.1 with copy := x.copy ++ [(off, m.body.drop 16)] }, r.2)
      let x : MirPart := r.1
      (r.2.setHeld { x with complete := x.complete || (x.copyLast == some (runBytesTotal x.copy) && !s.recov.remirror) }).ackCopy owner
        (field m.body 0 4) (field m.body 4 1)

/-- The spare that has taken a holder's rank withholds acknowledgements until it holds this module's part whole; with the first of them the module is
exposed no longer (11 R281 step 6). -/
def State.covered (s : State) (m : Msg) : State :=
  if s.recov.exposedAt = some m.src ∧ field m.body 6 2 = s.rank then { s with recov := { s.recov with
    exposed := false
    exposedAt := none } }
  else s

/-- MIRROR_ACK: a matching checksum counts; a mismatch sends the part again, and a second one is a step-transient failure (11 R277). The
last acknowledgement lets a commit go on, or completes what waited for the copies. -/
def mirrorAck (m : Msg) (s : State) : State :=
  if !s.mirrorOk 1 m || m.resp then s
  else
    let s := (s.took m).covered m
    let part := field m.body 5 1
    match s.mir.acks.find? fun a => a.part == part && !a.acked with
    | none => s
    | some a =>
      let step := s.st.run.elim false fun r => r.phase == .mirror
      if field m.body 6 2 ≠ s.rank ∨ (s.holders s.rank)[part]? ≠ some m.src then s
      else if field m.body 8 8 = a.sum ∧ field m.body 16 8 = a.bytes then
        let s : State := { s with mir := { s.mir with acks := s.mir.acks.map fun (y : MirAck) => if y.part = part then { y with acked := true } else y } }
        if step then s.tryPrepared else s.finishCopies
      else if step && a.resent then s.transient 0x06
      else
        let s : State := { s with mir := { s.mir with acks := s.mir.acks.map fun (y : MirAck) => if y.part = part then { y with resent := true } else y } }
        (s.count cMirrorResends 1).sendPart (if step then 0 else 3) part

/-! ### Pulls (11 R281) -/

/-- Bytes in one reply of a pull. -/
def pullPiece : Nat := 32768

/-- The OPC 2 replies that carry a range of a held part to a rank, then LAST with the part's checksum. -/
def State.heldMsgs (s : State) (dst owner off len : Nat) : List Msg :=
  let x := s.heldPart owner
  let base := s.mirrorBase owner
  ((List.range (ceilDiv len pullPiece)).map fun i =>
    let o := off + i * pullPiece
    mkMsg 8 2 1 dst (mirrorHeader s.st.stepNo s.attempt x.part owner o ++ s.read (base + o) (min pullPiece (off + len - o))) (resp := true)) ++
  [mkMsg 8 2 1 dst (mirrorHeader s.st.stepNo s.attempt x.part owner x.sum) (resp := true) (last := true)]

/-- A range of a held part sent. -/
def State.sendHeld (s : State) (dst owner off len : Nat) : State := (s.heldMsgs dst owner off len).foldl State.send s

/-- The longest range that a repair asks for: one HBM burst (08 R199). A substitution pulls a whole part. -/
def repairLen : Nat := 32

/-- MIRROR_PULL_REQUEST: the holder answers with the part's data. What a repair asks for is not counted as pulled (11 R293). -/
def mirrorPullRequest (m : Msg) (s : State) : State :=
  if !s.mirrorOk 2 m || m.resp then s
  else
    let s := s.took m
    let owner := field m.body 6 2
    if s.partHeld owner = some (field m.body 5 1) ∧ (s.heldPart owner).complete = true then
      let n := field m.body 16 8
      (if n ≤ repairLen then s else s.count cPullBytes n).sendHeld m.src owner (field m.body 8 8) n
    else s

/-- A pull of one part of this rank's image asked of its holder. -/
def State.askPull (s : State) (part holder : Nat) : State :=
  let n := partLen (totalBytes (s.imageRegions s.st.wEpoch)) part
  s.send (mkMsg 8 2 1 holder (mirrorHeader s.st.stepNo s.attempt part s.rank 0 ++ leBytes 8 n))

/-- The checksum of a part of this rank's own image. -/
def State.partSum (s : State) (part : Nat) : Nat :=
  let rs := s.imageRegions s.st.wEpoch
  let n := partLen (totalBytes rs) part
  ((List.range (ceilDiv n pullPiece)).map fun i =>
    checksum (s.imageBytes rs (imageOffset part (i * pullPiece)) (min pullPiece (n - i * pullPiece)))).sum % sumMod

/-- The second copy of every owned slice made from the pulled one (11 R281 step 5). -/
def State.copySlices (s : State) : State :=
  let rs := s.imageRegions s.st.wEpoch
  let other := s.imageRegions (!s.st.wEpoch)
  (rs.zip other).foldl (fun s x => if x.1.base = x.2.base then s else s.write x.2.base (s.read x.1.base x.1.len)) s

/-- Rows that a broken migration had left in the pulled image dropped: those in the migration area that the map gives to another rank
(11 R289). -/
def State.dropStrays (s : State) : State :=
  (s.st.migSlots.filter fun e => !s.owns (keyTable e.1) (keyRow e.1)).foldl (fun s e => s.forgetRow e.1) s

/-- A spare whose pull is complete asks every other member for an Eddy refresh (11 R281 step 5; log entry 46). The replicas of its own rows stand
at the others when a step is to be replayed, as its counts select them; at a boundary its refresh is still due. -/
def State.joinReplicas (s : State) : State :=
  let s := s.sendAll s.others fun o => mkMsg 5 1 10 o (leBytes 4 s.st.stepNo ++ [0, 2] ++ zeros 10) (last := true)
  { s with st := { s.st with
    refreshWait := s.others
    windowOpen := s.st.owedReplays == 0
    eddySent := if s.st.owedReplays = 0 then [] else s.hotRows.map fun k => (k, s.replicaValue k) } }

/-- A pull record changed. -/
def State.setPull (s : State) (x : Pull) : State :=
  { s with mir := { s.mir with pulls := s.mir.pulls.map fun y => if y.owner = x.owner ∧ y.part = x.part then x else y } }

/-- LAST of a pulled part of this rank: its checksum is compared, and a part that disagrees is pulled once more; a second disagreement is
reported (11 R281 step 4, R286). -/
def State.endPull (s : State) (x : Pull) (sum : Nat) : State :=
  if s.partSum x.part = sum then
    let s : State := s.setPull { x with fin := true }
    if s.mir.pulls.all (·.fin) then
      s.loadCarried.dropStrays.copySlices.joinReplicas.tryBegin
    else s
  else if x.again then s.report 2 0x03 0 s.ms.position 0xFF 0xFF
  else (s.setPull { x with again := true }).askPull x.part x.holder

/-- LAST of a part that another module hands over to this spare (11 R281 step 6): the base is complete, and withheld acknowledgements go. -/
def State.endHandover (s : State) (owner : Nat) : State :=
  let s := s.setHeld { s.heldPart owner with complete := true }
  let all := (s.holders s.rank).all fun o => (s.heldPart o).complete
  State.ackCopy (State.tryAck { s with recov := { s.recov with remirror := s.recov.remirror && !all } } owner) owner s.st.stepNo s.attempt

/-- MIRROR_PULL_REPLY: data of this rank's own part, or of a part handed over to a spare (11 R281). -/
def mirrorPullReply (m : Msg) (s : State) : State :=
  if !s.mirrorOk 2 m || !m.resp then s
  else
    let s := s.took m
    let owner := field m.body 6 2
    let part := field m.body 5 1
    let off := field m.body 8 8
    let data := m.body.drop 16
    if s.mach.rank = some owner then
      match s.mir.pulls.find? fun x => x.owner == owner && x.part == part && !x.fin with
      | none => s
      | some x =>
        if m.last && x.repair then
          State.tryBegin { s with mir := { s.mir with pulls := s.mir.pulls.erase x } }
        else if m.last then s.endPull x off
        else
          let t := s.putImage (s.imageRegions s.st.wEpoch) (imageOffset part off) data
          if x.repair then t else t.count cPullBytes data.length
    else if s.partHeld owner = some part then
      if m.last then s.endHandover owner
      else
        let r := s.applyRuns (s.heldPart owner) [(off, data)]
        (r.2.setHeld r.1).count cPullBytes data.length
    else s

/-- MIRROR_STEP_DELTA (11 R277). -/
def execMirrorStepDelta (m : Msg) (s : State) : Host.Outcome State Fault Refusal := .next (mirrorStepDelta m s)
/-- MIRROR_ACK (11 R277). -/
def execMirrorAck (m : Msg) (s : State) : Host.Outcome State Fault Refusal := .next (mirrorAck m s)
/-- MIRROR_BOUNDARY_COPY (11 R276). -/
def execMirrorBoundaryCopy (m : Msg) (s : State) : Host.Outcome State Fault Refusal := .next (mirrorBoundaryCopy m s)
/-- MIRROR_PULL_REQUEST (11 R281). -/
def execMirrorPullRequest (m : Msg) (s : State) : Host.Outcome State Fault Refusal := .next (mirrorPullRequest m s)
/-- MIRROR_PULL_REPLY (11 R281). -/
def execMirrorPullReply (m : Msg) (s : State) : Host.Outcome State Fault Refusal := .next (mirrorPullReply m s)

end Sys2Proof.Machine
end

