-- ==== Sys2Proof/Machine/Join.lean ====
section
/-! DEFINITION. Joining (13 R343, 10 R257, R258, 11 R288): JOIN, JOIN traffic, the FLOOR barrier and JOIN's timeout. The spec gives JOIN
traffic no layout (log entry 35). -/

namespace Sys2Proof.Machine

open Sys2Proof

/-- The four fields of a FLOOR value: YL version, firmware level, contract, numerics. -/
def floorFields (v : Nat) : List Nat := [bits v 48 16, bits v 32 16, bits v 16 16, bits v 0 16]

/-- A FLOOR value in the layout of link.floor (10, "Link registers"). -/
def floorWord (v : Nat) : W32 := BitVec.ofNat 32 (bits v 32 16 * 2 ^ 16 + bits v 48 8 * 2 ^ 8 + bits v 16 4 * 2 ^ 4 + bits v 0 4)

/-- JOIN traffic toward a rank: a WRITE on VC0 with OPC 4 that carries the sender's position. -/
def joinNotice (pos r : Nat) : Msg := mkMsg 1 4 0 r (leBytes 8 (r * 2 ^ 48) ++ leBytes 2 pos ++ zeros 6)

/-- What rank 0 of a formed machine answers: the ranks section, and the needs of the loaded program. -/
def State.welcome (s : State) (r : Nat) : Msg :=
  let need := s.prog.elim [] fun p => [p.needYl, p.needFw, p.contract, p.needNum]
  mkMsg 1 4 0 r (leBytes 8 (r * 2 ^ 48) ++ leBytes 2 s.ms.position ++ leBytes 2 s.ranks ++ leBytes 4 need.length ++
    need.flatMap (leBytes 2) ++ s.mach.ranks.flatMap (leBytes 2))

/-- The rank that the ranks section gives this module's position. -/
def State.ownRank (s : State) : Option Nat := (List.range s.ranks).find? fun r => nth 0 s.mach.ranks r == s.ms.position

/-- Every ranked position has issued JOIN. -/
def State.allJoined (s : State) : Bool := s.mach.ranks.all fun p => s.mach.joinSeen.contains p

/-- A module with a JOIN in progress arrives at the FLOOR barrier once the machine forms, or at once when it has formed. -/
def State.tryForm (s : State) : State :=
  if s.mach.joinRing.isSome && (s.mach.formed || s.allJoined) && (s.barrier bFloor).own.isNone then s.arrive bFloor 0 0 s.levels else s

/-- JOIN: the module takes the rank that the ranks section gives its position, or none as a spare; its message state starts afresh
(10 R245), and its JOIN is made known. -/
def join (ring : Nat) (s : State) : State :=
  s.command ring 0x01 (fun _ => true) fun s _ =>
    let ranks := if s.mach.ranks = [] then s.ms.map.elim [] (·.ranks) else s.mach.ranks
    let s : State := { s with
      mach := { s.mach with
        ranks := ranks
        joinRing := some ring
        joinSeen := insertOnce s.ms.position s.mach.joinSeen }
      net := { s.net with
        msgid := []
        dup := []
        dropped := [] } }
    let s : State := { s with mach := { s.mach with rank := s.ownRank } }
    (s.sendAll s.others (joinNotice s.ms.position)).tryForm

/-- A JOIN that ends without success: the module holds no rank and is as if it had not issued it. -/
def State.dropJoin (s : State) (x : Status) : State :=
  match s.mach.joinRing with
  | none => s
  | some ring =>
    let s := s.setBarrier bFloor Barrier.none_
    State.complete { s with mach := { s.mach with
      rank := none
      joinRing := none
      formed := false
      joinSeen := s.mach.joinSeen.filter (· != s.ms.position) } } ring { status := x }

/-- JOIN_TIMEOUT (13 R343): JOIN completes with TIMEOUT and the module stays READY. -/
def joinTimeout (s : State) : State := if s.live && s.ms.st == .ready then s.dropJoin .timeout else s

/-- This module's levels reach a program's needs in every field (10 R258). -/
def State.meets (s : State) (need : List Nat) : Bool := (need.zip (floorFields s.levels)).all fun x => decide (x.1 ≤ x.2)

/-- What a formed machine tells a module that joins: its ranks section, which gives the module its part, and the needs of the loaded
program, which can refuse it. -/
def State.learn (s : State) (i : JoinInfo) : State :=
  let s : State := { s with mach := { s.mach with
    ranks := i.ranks
    formed := true } }
  let s : State := { s with mach := { s.mach with rank := if s.mach.joinRing.isSome then s.ownRank else s.mach.rank } }
  if s.mach.joinRing.isSome && !(i.need.elim true s.meets) then s.dropJoin .contractVersion else s

/-- A member of a formed machine meets a module that joins: the message state kept for it starts afresh, rank 0 answers, and the member
arrives at a FLOOR barrier. One module joins at a time; traffic of another waits to be repeated (log entry 35). -/
def State.welcome1 (s : State) (pos : Nat) : State :=
  if (s.barrier bFloor).own.isSome || s.ms.position == pos then s
  else
    let r := ((List.range s.ranks).find? fun r => nth 0 s.mach.ranks r == pos).getD s.spareRank
    let s : State := { s with
      mach := { s.mach with joining := if r = s.spareRank ∧ s.mach.rank = some 0 then some pos else none }
      net := { s.net with
        msgid := s.net.msgid.filter fun e => e.1 / 16 != r
        dup := s.net.dup.filter fun e => e.1 / 16 != r
        dropped := s.net.dropped.filter fun m => m.src != r } }
    let s := if s.mach.rank = some 0 then s.send (s.welcome r) else s
    s.arrive bFloor 0 0 s.levels

/-- JOIN_TRAFFIC: JOIN traffic from the module at a position; from a member of a formed machine it carries `info`; `left` tells members that the
spare there has left. -/
def joinTraffic (pos : Nat) (info : Option JoinInfo) (left : Bool) (s : State) : State :=
  if !((s.member || (s.live && s.ms.st == .ready)) && s.ms.map.isSome) then s
  else
    let s : State := { s with net := { s.net with
      inbox := s.net.inbox.filter fun m => !(m.typ == 1 && m.opc == 4 && field m.body 8 2 == pos && m.resp == left) } }
    let s : State := if left then s else { s with mach := { s.mach with joinSeen := insertOnce pos s.mach.joinSeen } }
    if left then (if s.member && !s.mach.ranks.contains pos then s.spareGone pos else s)
    else if s.member then (if s.mach.formed then s.welcome1 pos else s) else (info.elim s s.learn).tryForm

/-- INFO of JOIN (13 R343). -/
def State.joinInfo (s : State) : Nat := s.rank + 2 ^ 16 * s.mach.rank.isNone.toNat + 2 ^ 32 * s.ms.position

/-- BARRIER_FLOOR (10 R257): the floor is set, FW_VERSION_FLOOR is posted when it changes, and a JOIN in progress completes. A floor that changes
waits while the hold of events is full (13 R337; log entry 27). -/
def barrierFloor (m : Msg) (s : State) : State :=
  match s.barrierIn bFloor m with
  | (none, t) => t
  | (some v, t) =>
    let w := floorWord v
    let old := t.mach.floor
    if w ≠ old ∧ s.holdFull = true then s
    else
    let t : State := { t with mach := { t.mach with
      floor := w
      formed := true } }
    let t := if w = old then t else t.post evFloor (leBytes 4 w.toNat ++ leBytes 4 old.toNat)
    match t.mach.joinRing with
    | none => t
    | some ring =>
      let t : State := { t with mach := { t.mach with
        joinRing := none } }
      (t.complete ring { status := .ok, info := t.joinInfo }).enter .joined

/-- JOIN (13 R343). -/
def execJoin (ring : Nat) (s : State) : Host.Outcome State Fault Refusal := .next (join ring s)
/-- JOIN_TIMEOUT (13 R343). -/
def execJoinTimeout (s : State) : Host.Outcome State Fault Refusal := .next (joinTimeout s)
/-- JOIN_TRAFFIC (13 R343). -/
def execJoinTraffic (pos : Nat) (word : JoinWord) (s : State) : Host.Outcome State Fault Refusal :=
  .next (joinTraffic pos word.info word.left s)
/-- BARRIER_FLOOR (10 R257). -/
def execBarrierFloor (m : Msg) (s : State) : Host.Outcome State Fault Refusal := .next (barrierFloor m s)

end Sys2Proof.Machine
end

