-- ==== Sys2Proof/Machine/Rng.lean ====
section
/-! DEFINITION. The vector-unit operation RNG and RNG_ADVANCE (12 R298-R305). -/

namespace Sys2Proof.Machine

open Sys2Proof

/-- The step of the work that draws: the step number, or the pinned step of an EVAL; INIT draws name the first step (12 R298). -/
def State.drawStep (s : State) (eval : Bool) (tag : Nat) : Nat :=
  if eval then s.st.evals.head?.elim 0 (·.pinned)
  else if tag = 0x0005 then s.prog.elim 0 (·.first)
  else s.st.stepNo

/-- The tag that a draw is made with: EVAL_RANDOM in place of tags 0x0003 to 0x0005 for an EVAL (12 R298). -/
def drawTag (eval : Bool) (tag : Nat) : Nat := if eval && decide (3 ≤ tag) && decide (tag ≤ 5) then 6 else tag

/-- Tags that a program may draw with (12 R298). -/
def tagOk (tag : Nat) : Bool := (decide (3 ≤ tag) && decide (tag ≤ 6)) || (decide (0x100 ≤ tag) && decide (tag ≤ 0xFFFF))

/-- The number of a declared stream (12 R301). -/
def State.streamOf (s : State) (tag tensor : Nat) : Option Nat :=
  (s.prog.elim [] (·.decl.streams)).findIdx? fun x => x.tag == tag && x.tensor == tensor

/-- The offsets that a draw uses: the committed ones, for an EVAL as of its pinned step (12 R301). -/
def State.drawOffsets (s : State) (eval : Bool) : List Nat := if eval then s.st.evals.head?.elim [] (·.offsets) else s.st.offsets

/-- The offset of a stream, 0 without one. -/
def State.streamOffset (s : State) (eval : Bool) (tag tensor : Nat) : Nat := (s.streamOf tag tensor).elim 0 fun i => nth 0 (s.drawOffsets eval) i

/-- G of element `i` of an RNG operation. -/
def State.drawAt (s : State) (eval : Bool) (r : RngArgs) (i : Nat) : GenState :=
  generateAt (s.prog.elim 0 (·.seed)) ((r.first + i + s.streamOffset eval r.tag r.tensor) % 2 ^ 64) (s.drawStep eval r.tag) (drawTag eval r.tag) r.tensor

/-- An FP32 value as an output element (12, Distributions). DEDUCED (log entry 111): the conversion to BF16 is an operation of its own for the flags of
02 R58. -/
def rngOut (toBf16 : Bool) (x : Nat × AFlags) : Nat × AFlags :=
  if toBf16 then
    let c := bf16.ofVal (fp32.decode x.1)
    (c.1, x.2.or c.2)
  else x

/-- An RNG operation: its parameters are judged, then each element takes one counter (12 R300, R303). -/
def State.rng (s : State) (core slot : Nat) (r : RngArgs) (ok : Bool) (reads : List Region) (value : State → Nat → GenState → Nat × AFlags) :
    State :=
  let t := (s.weir core).task slot
  let fmt := if r.bf16 then 1 else 0
  if !(s.runs core slot && s.workLive t.evalClass) then s
  else if !(ok && tagOk r.tag) then s.workFault t.evalClass .formatInvalid
  else
    s.vector core slot reads (span r.dst (fmtBytes fmt r.n)) fun s t =>
      let xs := (List.range r.n).map fun i => rngOut r.bf16 (value s i (s.drawAt t.evalClass r i))
      State.count ((s.putBytes r.dst (packCodes fmt (xs.map (·.1)))).raise core slot (AFlags.all (xs.map (·.2)))) (cCore (s.physical core) 18) r.n

/-- A parameter is a number. -/
def numberOk (p : W32) : Bool := fp32.decode p.toNat != .nan

/-- RNG_UNIFORM. -/
def rngUniform (core slot : Nat) (r : RngArgs) (lo hi : W32) (s : State) : State :=
  s.rng core slot r (numberOk lo && numberOk hi) [] fun _ _ g => uniformValue g lo.toNat hi.toNat

/-- RNG_BERNOULLI. -/
def rngBernoulli (core slot : Nat) (r : RngArgs) (p : W32) (s : State) : State :=
  s.rng core slot r (probabilityOk p.toNat) [] fun _ _ g => (if g.c0.toNat < keepThreshold p.toNat then 0x3F800000 else 0, {})

/-- RNG_DROPOUT: a dropped element is +0 whatever it was. -/
def rngDropout (core slot : Nat) (r : RngArgs) (p scale : W32) (x : Nat) (s : State) : State :=
  let fmt := if r.bf16 then 1 else 0
  let f := if r.bf16 then bf16 else fp32
  s.rng core slot r (probabilityOk p.toNat && numberOk scale) (span x (fmtBytes fmt r.n)) fun s i g =>
    if g.c0.toNat < keepThreshold p.toNat then
      fp32.mulVals (f.decode (s.readNat (x + i * (fmtBits fmt / 8)) (fmtBits fmt / 8))) (fp32.decode scale.toNat)
    else (0, {})

/-- RNG_NORMAL_BM. -/
def rngNormalBm (core slot : Nat) (r : RngArgs) (mean std : W32) (s : State) : State :=
  s.rng core slot r (numberOk mean && numberOk std) [] fun _ _ g => scaleNormal (normalBmZ g) std.toNat mean.toNat

/-- RNG_NORMAL_TAB. -/
def rngNormalTab (core slot : Nat) (r : RngArgs) (mean std : W32) (s : State) : State :=
  s.rng core slot r (numberOk mean && numberOk std) [] fun _ _ g => scaleNormal (normalTabZ g) std.toNat mean.toNat

/-- RNG_ADVANCE: kept with the attempt until the commit point; without effect in an EVAL, or where no stream is declared (12 R301). -/
def rngAdvance (core slot tag tensor : Nat) (amount : W32) (s : State) : State :=
  let t := (s.weir core).task slot
  if s.runs core slot && s.workLive t.evalClass && !t.evalClass then
    match s.streamOf tag tensor with
    | some i => { s with st := { s.st with advances := s.st.advances ++ [(i, amount.toNat)] } }
    | none => s
  else s

/-- RNG_UNIFORM (12 R303). -/
def execRngUniform (core slot : Nat) (r : RngArgs) (lo hi : W32) (s : State) : Host.Outcome State Fault Refusal :=
  .next (rngUniform core slot r lo hi s)

/-- RNG_BERNOULLI (12 R303). -/
def execRngBernoulli (core slot : Nat) (r : RngArgs) (p : W32) (s : State) : Host.Outcome State Fault Refusal :=
  .next (rngBernoulli core slot r p s)

/-- RNG_DROPOUT (12 R303). -/
def execRngDropout (core slot : Nat) (r : RngArgs) (p scale : W32) (x : Nat) (s : State) : Host.Outcome State Fault Refusal :=
  .next (rngDropout core slot r p scale x s)

/-- RNG_NORMAL_BM (12 R304). -/
def execRngNormalBm (core slot : Nat) (r : RngArgs) (mean std : W32) (s : State) : Host.Outcome State Fault Refusal :=
  .next (rngNormalBm core slot r mean std s)

/-- RNG_NORMAL_TAB (12 R305). -/
def execRngNormalTab (core slot : Nat) (r : RngArgs) (mean std : W32) (s : State) : Host.Outcome State Fault Refusal :=
  .next (rngNormalTab core slot r mean std s)

/-- RNG_ADVANCE (12 R301). -/
def execRngAdvance (core slot tag tensor : Nat) (amount : W32) (s : State) : Host.Outcome State Fault Refusal :=
  .next (rngAdvance core slot tag tensor amount s)

end Sys2Proof.Machine
end

