-- ==== Sys2Proof/Machine/LoadChecks.lean ====
section
/-! DEFINITION. Checks 1 to 4 of LOAD_PROGRAM (14 R345-R349, R356, R431; 03 R65, R67, R79; 01 R36; 06 R128, R143, R145; 07 R153, R164, R170;
12 R298, R301, R307). The declarations of the DECL and KERNELS sections, whose layout the spec does not give, are an operand (log entry 9). -/

namespace Sys2Proof.Machine

open Sys2Proof

/-! ### The image (14 R347, R348, R356) -/

/-- A directory entry of an image. -/
structure ImgSection where
  typ : Nat
  lcore : Nat
  rsv : Nat
  off : Nat
  len : Nat
  deriving DecidableEq, Repr, Inhabited

/-- The directory of an image. -/
def imgSections (b : List Byte) : List ImgSection :=
  (List.range (field b 14 2)).map fun i =>
    let e := slice b (64 + 16 * i) 16
    {
      typ := field e 0 2
      lcore := field e 2 2
      rsv := field e 4 4
      off := field e 8 4
      len := field e 12 4 }

/-- The header follows R347; CONTRACT is left to check 2. -/
def imgHeaderOk (b : List Byte) : Bool :=
  decide (64 ≤ b.length) && field b 0 4 == 0x4F4E5856 && field b 4 2 == 1 && bits (field b 7 1) 1 7 == 0 &&
  field b 11 1 == (if bits (field b 7 1) 0 1 = 1 then 7 else 9) && decide (1 ≤ field b 12 2) && decide (field b 12 2 ≤ 96) &&
  decide (1 ≤ field b 14 2) && decide (field b 14 2 ≤ 1024) && field b 16 8 == b.length && allZero b 24 40 &&
  decide (64 + 16 * field b 14 2 ≤ b.length)

/-- A section's own bytes. -/
def imgBytes (b : List Byte) (x : ImgSection) : List Byte := slice b x.off x.len

/-- The section of a type and logical core. -/
def imgSection (b : List Byte) (typ lcore : Nat) : ImgSection :=
  ((imgSections b).find? fun x => x.typ == typ && x.lcore == lcore).getD default

/-- One entry follows R347. -/
def imgEntryOk (b : List Byte) (x : ImgSection) : Bool :=
  decide (1 ≤ x.typ) && decide (x.typ ≤ 6) && x.rsv == 0 && x.off % 16 == 0 && decide (64 + 16 * field b 14 2 ≤ x.off) &&
  decide (x.off + x.len ≤ b.length) && (if x.typ = 4 ∨ x.typ = 5 then decide (x.lcore < field b 12 2) else x.lcore == 0xFFFF)

/-- The directory follows R347: its entries, no two of which overlap, and exactly the sections required. -/
def imgDirOk (b : List Byte) : Bool :=
  let l := imgSections b
  let one := fun t c => (l.filter fun x => x.typ == t && x.lcore == c).length == 1
  l.all (imgEntryOk b) && decide (l.Pairwise fun x y => overlaps { base := x.off, len := x.len } { base := y.off, len := y.len } = false) &&
  [1, 2, 3, 6].all (fun t => one t 0xFFFF) && (List.range (field b 12 2)).all fun c => one 4 c && one 5 c

/-- The tensor record in 32 bytes. -/
def tensorOf (r : List Byte) : TensorRec where
  id := field r 0 2
  kind := field r 2 1
  fmt := field r 3 1
  policy := field r 5 1
  scale := field r 6 1
  dims := (List.range (field r 4 1)).map fun i => field r (8 + 4 * i) 4

/-- A tensor's format is of the class that its kind names: INT8 or INT4, another integer, another floating (log entry 122). -/
def kindFormatOk (kind fmt : Nat) : Bool :=
  match kind with
  | 3 => fmt == 2 || fmt == 3
  | 4 => fmt == 2 || fmt == 3 || fmt == 7
  | 5 => !(fmt == 2 || fmt == 3 || fmt == 7)
  | _ => true

/-- POLICY 0 is the policy of what is no activation, as a weight or a gradient is not (14 R348). -/
def kindPolicyOk (kind policy : Nat) : Bool := !(kind == 0 || kind == 2) || policy == 0

/-- A tensor record follows R348. -/
def tensorOk (r : List Byte) : Bool :=
  let n := field r 4 1
  decide (field r 2 1 ≤ 5) && decide (field r 3 1 ≤ 8) && kindFormatOk (field r 2 1) (field r 3 1) && kindPolicyOk (field r 2 1) (field r 5 1) &&
  decide (1 ≤ n) && decide (n ≤ 4) && decide (field r 5 1 ≤ 4) &&
  (field r 6 1 == 0 || field r 2 1 == 4) && field r 7 1 == 0 && allZero r 24 8 &&
  ((List.range 4).all fun i => decide (i < n) || field r (8 + 4 * i) 4 == 1)

/-- The records of the TENSORS section. -/
def tensorRows (b : List Byte) : List (List Byte) := groupsOf 32 (imgBytes b (imgSection b 2 0xFFFF))

/-- The TENSORS section follows R348: whole records in ascending id. -/
def tensorsOk (b : List Byte) : Bool :=
  (imgSection b 2 0xFFFF).len % 32 == 0 && (tensorRows b).all tensorOk &&
  decide (((tensorRows b).map fun r => field r 0 2).Pairwise (· < ·))

/-- The task record in 16 bytes. -/
def taskOf (r : List Byte) : TaskRec where
  slot := field r 0 1
  prio := field r 1 1
  evalClass := field r 2 1 == 1
  entry := field r 4 4
  startOn := field r 8 1

/-- A task record follows R356. -/
def taskRecOk (code : Nat) (r : List Byte) : Bool :=
  decide (field r 0 1 ≤ 63) && decide (field r 1 1 ≤ 3) && decide (field r 2 1 ≤ 1) && field r 3 1 == 0 && allZero r 9 7 &&
  (decide (field r 8 1 ≤ 7) || field r 8 1 == 0xFF) && decide (field r 4 4 < max 1 code)

/-- The records of a logical core's TASKS section. -/
def taskRows (b : List Byte) (core : Nat) : List (List Byte) := groupsOf 16 (imgBytes b (imgSection b 4 core))

/-- A TASKS section follows R356, but for a count above 64 and the repeats it brings, which check 3 judges. -/
def tasksOk (b : List Byte) (core : Nat) : Bool :=
  let rs := taskRows b core
  (imgSection b 4 core).len % 16 == 0 && rs.all (taskRecOk (imgSection b 5 core).len) &&
  (decide (64 < rs.length) || decide ((rs.map fun r => field r 0 1).Nodup))

/-- A kernel names an operand pair of 02 R39, or for a vector reduction FP32 or BF16 (02 R40, R60). -/
def kernelOk (k : KernelDecl) : Bool := if k.vecRed then decide (k.afmt ≤ 1) && decide (k.bfmt ≤ 1) else pairOk k.afmt k.bfmt

/-- Check 1. -/
def loadFormatOk (b : List Byte) (d : Decl) : Bool :=
  imgHeaderOk b && imgDirOk b && tensorsOk b && (List.range (field b 12 2)).all (tasksOk b) && d.kernels.all kernelOk &&
  (let ids := (tensorRows b).map fun r => field r 0 2
   d.kernels.all (fun k => k.tensors.all ids.contains && k.forms.elim true ids.contains) && d.capPoints.all (fun c => ids.contains c.1) && d.grads.all fun g => ids.contains g.tensor)

/-! ### Versions (14 R346, 03 R79, 10 R257) -/

/-- A hop's mode came with version 2. -/
def hopVersion (h : Hop) : Nat := if h.mode = .uniform ∨ h.mode = .full then 1 else 2

/-- The version that brought a kernel's declarations. -/
def kernelVersion (k : KernelDecl) : Nat :=
  if k.afmt = 3 ∨ k.bfmt = 3 ∨ isBs k.afmt = true ∨ isBs k.bfmt = true ∨ k.pattern44 = true then 3
  else if k.headered = true ∨ k.parts.isSome = true then 2 else 1

/-- The version that brought a table's declarations. -/
def tableVersion (t : TableDecl) : Nat :=
  if t.fmt = 4 ∨ (t.train = true ∧ t.gradBs8 = true) ∨ t.shadow ≠ 0 then 3 else if t.migMax ≠ 0 ∨ t.migArea ≠ 0 then 2 else 1

/-- The version that brought a tensor's format, kind or policy. -/
def tensorVersion (t : TensorRec) : Nat :=
  if t.fmt = 3 ∨ t.fmt = 4 ∨ t.fmt = 5 ∨ t.fmt = 8 ∨ t.kind = 3 then 3 else if t.policy = 4 then 2 else 1

/-- The contract version that a program's declarations need. -/
def contractNeeded (d : Decl) (ts : List TensorRec) : Nat :=
  let others := [
    if d.groups.all (fun g => g.kind == 0) then 1 else 2,
    if d.planN + d.planD + d.mergeN + d.mergeD + d.mergeV = 0 then 1 else 2,
    if d.ringDeclared || !d.capPoints.isEmpty then 2 else 1,
    if d.grads.any (·.bs8) || d.eddyQuota.isSome || d.scoreTensor.isSome || !d.inputTables.isEmpty then 3 else 1]
  (others ++ (d.specs.flatMap (·.hops)).map hopVersion ++ d.kernels.map kernelVersion ++ d.tables.map tableVersion ++ ts.map tensorVersion).foldl max 1

/-- Items that a T7-exact program may not declare (03 R79). -/
def t7Items (d : Decl) (ts : List TensorRec) : Bool :=
  ts.any (fun t => t.fmt == 3 || t.fmt == 4 || t.fmt == 5 || t.fmt == 8) || d.kernels.any (fun k => !k.vecRed && (k.afmt == 3 || k.bfmt == 3 || isBs k.afmt)) ||
  d.grads.any (·.bs8) || d.tables.any fun t => t.fmt == 4 || (t.train && t.gradBs8)

/-- The needs of an image in the order of FLOOR: YL version, firmware level, contract, numerics. -/
def imgNeeds (b : List Byte) : List Nat := [field b 10 1, field b 8 2, field b 6 1, field b 11 1]

/-- The machine's floor in the same order. -/
def State.floorLevels (s : State) : List Nat :=
  let f := s.mach.floor.toNat
  [bits f 8 8, bits f 16 16, bits f 4 4, bits f 0 4]

/-- Check 2. -/
def State.loadVersionOk (s : State) (b : List Byte) (d : Decl) : Bool :=
  let c := field b 6 1
  let ts := (tensorRows b).map tensorOf
  decide (1 ≤ c) && decide (c ≤ 3) && decide (contractNeeded d ts ≤ c) && ((imgNeeds b).zip s.floorLevels).all (fun x => decide (x.1 ≤ x.2)) &&
  !(bits (field b 7 1) 0 1 == 1 && t7Items d ts)

/-! ### Resources (14 R431 and the limits that check 3 names) -/

/-- A hop is in the ranges of 06 R143. -/
def hopOk (first : Bool) (h : Hop) : Bool :=
  decide (1 ≤ h.fanout) && decide (h.fanout ≤ 64) && (h.mode != .weighted || h.repl) && !(first && h.tbound) && decide (h.window < 2 ^ 48)

/-- Slots per target of a specification (06 R145). -/
def specSlots (sp : SampSpec) : Nat :=
  (sp.hops.foldl (fun (a : Nat × Nat) h => (a.1 * h.fanout, a.2 + a.1 * h.fanout)) (1, 0)).2

/-- A specification is in the ranges of 06 R143 and R145. -/
def specOk (d : Decl) (sp : SampSpec) : Bool :=
  decide (1 ≤ sp.hops.length) && decide (sp.hops.length ≤ 4) && (sp.hops.take 1).all (hopOk true) && (sp.hops.drop 1).all (hopOk false) &&
  decide (specSlots sp ≤ 2 ^ 25) && decide (d.maxTargets * specSlots sp ≤ 2 ^ 32)

/-- A table is in the ranges of 07 R153. DESIGN CHOICE (log entry 132): against LOCAL_MAX a LOCAL table counts its slots of whole 32-byte blocks, and not
its rows' own bytes. -/
def tableOk (d : Decl) (t : TableDecl) : Bool :=
  decide (1 ≤ t.rows) && decide (t.rows < 2 ^ 40) && (t.fmt == 0 || t.fmt == 1 || t.fmt == 2 || t.fmt == 4) && decide (1 ≤ t.width) &&
  decide (tabRowBytes t ≤ 4096) && (!t.train || (t.sharded && t.fmt == 1)) && (!t.eddy || t.sharded) &&
  (!(t.sharded && t.followNode) || t.rows == d.nodes) && decide (1 ≤ t.hotThresh) && decide (t.hotThresh < 2 ^ 32) &&
  decide (t.migMax ≤ 1048576) && decide (t.migArea ≤ 1048576) && decide (t.shadow ≤ 2 ^ 24) &&
  (t.sharded || (decide (t.localMax ≤ 64 * 2 ^ 20) && decide (tabSlotLen t * t.rows ≤ t.localMax)))

/-- A purpose tag that is not reserved (12 R298). -/
def purposeTagOk (t : Nat) : Bool := (decide (1 ≤ t) && decide (t ≤ 6)) || (decide (0x100 ≤ t) && decide (t ≤ 0xFFFF))

/-- A tag that a stream may be declared on (12 R301). -/
def streamTagOk (t : Nat) : Bool := (decide (3 ≤ t) && decide (t ≤ 5)) || (decide (0x100 ≤ t) && decide (t ≤ 0xFFFF))

/-- The declared counts and ranges that check 3 names. -/
def limitsOk (d : Decl) : Bool :=
  decide (d.groups.length ≤ 8) && d.groups.all (fun g => decide (2 ≤ g.vc) && decide (g.vc ≤ 9)) && decide ((d.groups.map (·.vc)).Nodup) &&
  decide (d.nodes ≤ 0xFFFFFFFFFF) && d.partTable.elim true (fun t => t.length == d.nodes) && decide (d.specs.length ≤ 16) && d.specs.all (specOk d) &&
  decide (d.tables.length ≤ 256) && d.tables.all (tableOk d) && decide (1 ≤ d.rounds) && decide (d.rounds ≤ 8) &&
  d.eddyQuota.elim true (fun q => decide (q.sum ≤ 131072)) && decide (d.streams.length ≤ 64) && d.streams.all (fun x => streamTagOk x.tag) &&
  d.purposeTags.all purposeTagOk && decide (16 ≤ ringRecords d) && decide (ringRecords d ≤ 65536) && decide (d.capPoints.length ≤ 1024) &&
  decide (d.inputTables.length ≤ 4) && decide (1 ≤ d.calibN) && decide (d.calibN ≤ 1024) &&
  d.kernels.all fun k => k.vecRed || !isInt k.afmt || decide (k.maxK ≤ 1048576)

/-- Bytes of an element of master, working copy and moments (14 R431). -/
def elemCharge (t7 : Bool) (moments : Nat) : Nat := (if t7 then 4 else 6) + 2 + 4 * moments

/-- Bytes of HBM that a table takes on a module with `n` owned rows. -/
def tableCharge (t7 : Bool) (n : Nat) (t : TableDecl) : Nat :=
  if t.sharded then
    (n + t.migArea + t.shadow) * (tabSlotLen t + 8 + (if t.train then ((if t7 then 4 else 6) + 4 * t.moments) * t.width else 0))
  else t.localMax

/-- How many rows of a table a rank owns at load; a spare owns none. -/
def State.homeCount (s : State) (d : Decl) (rank : Option Nat) (t : TableDecl) : Nat :=
  match rank with
  | none => 0
  | some r => (homeRows d s.ranks r t).length

/-- The placed rows of the activations of a policy (14 R363). -/
def policyRows (ts : List TensorRec) (p : Placement) (policy : Nat) : List RowPlace :=
  p.rows.filter fun x => ts.any fun t => t.id == x.tensor && t.policy == policy

/-- Bytes of placed rows. -/
def placedBytes (l : List RowPlace) : Nat := (l.map fun x => x.stride * x.rows).sum

/-- The range of placed rows. -/
def rowRegion (x : RowPlace) : Region := { base := x.addr, len := x.stride * x.rows }

/-- The areas for partials of the split kernels of a kind: vector reductions, whose areas lie in HBM, or matrix kernels (03 R67; log entry 114). -/
def partialRegions (d : Decl) (p : Placement) (vec : Bool) : List Region :=
  (p.partials.filter fun e => (d.kernels[e.1]?).any (·.vecRed == vec)).map (·.2)

/-- The core whose SRAM window holds a range (08 R186). -/
def windowOf (r : Region) : Option Nat :=
  let c := r.base / 0x1000000
  if 0x40000 ≤ c ∧ c < 0x40000 + 96 ∧ r.base % 0x1000000 + r.len ≤ 6 * 2 ^ 20 then some (c - 0x40000) else none

/-- Placed rows agree with their tensor's shape, and lie in the tier of its policy (14 R348, R363): a logical core's SRAM, HBM, the Tailrace area. -/
def rowPlaced (p : Placement) (t : TensorRec) (x : RowPlace) : Bool :=
  decide (x.first + x.rows ≤ t.dims.dropLast.foldl (· * ·) 1) && x.rowBytes == fmtBytes t.fmt (t.dims.getLastD 1) && decide (x.rowBytes ≤ x.stride) &&
  (match t.policy with
   | 1 => (windowOf (rowRegion x)).isSome
   | 2 => decide (x.addr + x.stride * x.rows ≤ poolBase)
   | 4 => within p.tailrace x.addr (x.stride * x.rows)
   | _ => true)

/-- Activations are placed as their policies say: one that is kept or spilled has rows, each in its tier, those of each core's SRAM with the areas for
partials there within what the program declares, and the spilled ones within the Tailrace area. -/
def policiesFit (d : Decl) (ts : List TensorRec) (p : Placement) : Bool :=
  ts.all (fun t => !(t.policy == 1 || t.policy == 2 || t.policy == 4) ||
    (p.rows.any (fun x => x.tensor == t.id) && (p.rows.filter fun x => x.tensor == t.id).all (rowPlaced p t))) &&
  (List.range 96).all (fun c =>
    decide (((((policyRows ts p 1).map rowRegion ++ partialRegions d p false).filter fun r => windowOf r == some c).map (·.len)).sum ≤ d.memSram)) &&
  decide (placedBytes (policyRows ts p 4) ≤ d.tailBytes)

/-- Bytes of a summed gradient row, by the table's number (09 R230). -/
def gradAreaLen (d : Decl) (p : Placement) (k : Nat) : Nat :=
  if k < 2 ^ 16 then ((d.grads.find? fun g => g.tensor == k).elim 0 fun g => 4 * g.elems)
  else (d.tables[k - 2 ^ 16]?).elim 0 fun t => rowSumBytes t * (p.tabs[k - 2 ^ 16]?).elim 0 (·.slotCount)

/-- The regions that the loader placed for a table. -/
def tabRegions (t7 : Bool) (t : TableDecl) (x : TabPlace) : List Region := [
  { base := x.dir, len := 8 * x.slotCount },
  { base := x.slots, len := tabSlotLen t * x.slotCount },
  { base := x.master, len := (if t.train then (if t7 then 4 else 6) * t.width else 0) * x.slotCount },
  { base := x.moments, len := (if t.train then 4 * t.moments * t.width else 0) * x.slotCount }]

/-- The two copies that the loader placed of a slice (01 R23). -/
def sliceRegions (d : Decl) (t7 : Bool) (x : SlicePlace) : List Region :=
  let m := ((if t7 then 4 else 6) + 4 * ((d.grads.find? fun g => g.tensor == x.tensor).elim 0 (·.moments))) * x.count
  [{ base := x.work0, len := 2 * x.count }, { base := x.work1, len := 2 * x.count }, { base := x.master0, len := m },
    { base := x.master1, len := m }]

/-- The area of a slice's reduced gradient: FP32 elements, or 136 bytes for each BS8 block (09 R230). -/
def resultRegion (d : Decl) (x : SlicePlace) : Region :=
  { base := x.result, len := if (d.grads.find? fun g => g.tensor == x.tensor).elim false (·.bs8) then 136 * ceilDiv x.count 32 else 4 * x.count }

/-- Slots of the largest sampling specification, 0 for the target among them not counted (06 R145). -/
def maxSlots (d : Decl) : Nat := (d.specs.map specSlots).foldl max 0

/-- The regions of HBM with a line of their own in the table of 14 R431; `mine` picks the slices that the module owns. -/
def mainRegions (d : Decl) (p : Placement) (t7 : Bool) (mine : SlicePlace → Bool) : List Region :=
  [{ base := p.ledger, len := 16 * d.ledgerCap }, { base := p.attrs, len := 8 * d.ledgerCap }, p.graph, { base := p.staging, len := d.rxMax }] ++
  ((p.slices.filter mine).flatMap (sliceRegions d t7)) ++ ((d.tables.zip p.tabs).flatMap fun t => if t.1.sharded then tabRegions t7 t.1 t.2 else []) ++
  (p.localTabs.map fun e => { base := e.2, len := (d.tables[e.1]?).elim 0 (·.localMax) })

/-- Every other region of HBM (01 R37, 14 R431), at the size that the declaration gives: the areas of EVALs and exports, the owner table, results and
gradients, what is carried by name, kept contributions, receive areas, partials and kept activations. -/
def otherRegions (d : Decl) (ts : List TensorRec) (p : Placement) (mine : SlicePlace → Bool) : List Region :=
  let n := maxSlots d
  let ins := d.inputTables.filterMap fun i => d.tables[i]?
  let ev := fun k => if d.inputTables = [] then 0 else k
  [{ base := p.evalLedger, len := 16 * d.ledgerCap }, { base := p.evalAttrs, len := 8 * d.ledgerCap }, { base := p.score, len := d.scoreBytes * d.maxTargets },
    { base := p.scoreGrad, len := ev 4 }, { base := p.attention, len := 4 * d.attLayers * d.attHeads * n }, { base := p.evInputs, len := ev (inBytes ins * (n + 1)) },
    { base := p.evGrads, len := ev (4 * inElems ins * (n + 1)) }, { base := p.evVersions, len := ev (8 * (n + 1)) }, p.carried, p.sent,
    { base := p.partTable, len := d.partTable.elim 0 fun t => 2 * t.length }] ++
  ((p.slices.filter mine).map (resultRegion d)) ++ (p.grads.map fun g => { base := g.2, len := gradAreaLen d p g.1 }) ++ p.receive ++
  partialRegions d p true ++ (policyRows ts p 2).map rowRegion

/-- The regions that the loader places in HBM. -/
def hbmRegions (d : Decl) (ts : List TensorRec) (p : Placement) (t7 : Bool) (mine : SlicePlace → Bool) : List Region :=
  mainRegions d p t7 mine ++ otherRegions d ts p mine

/-- Bytes of HBM charged to a rank (14 R363, R431). -/
def State.hbmCharge (s : State) (d : Decl) (ts : List TensorRec) (p : Placement) (t7 : Bool) (rank : Option Nat) : Nat :=
  let mine := fun (x : SlicePlace) => rank == some x.owner
  ((p.slices.filter mine).map fun x => 2 * elemCharge t7 (((d.grads.find? fun g => g.tensor == x.tensor).map (·.moments)).getD 0) * x.count).sum +
  (d.tables.map fun t => tableCharge t7 (s.homeCount d rank t) t).sum + d.graphBytes + 24 * d.ledgerCap + d.rxMax +
  ((otherRegions d ts p mine).map (·.len)).sum

/-- A region of module DRAM, on 1 GiB boundaries (08 R203). -/
def gib (n : Nat) : Nat := roundUp n (2 ^ 30)

/-- Bytes of trained row state that the undo log keeps for one row (08 R203). -/
def undoRow (d : Decl) (t7 : Bool) : Nat :=
  ((d.tables.filter (·.train)).map fun t => tabSlotLen t + 8 + ((if t7 then 4 else 6) + 4 * t.moments) * t.width).foldl max 0

/-- Bytes of one part of a neighbour's image as the mirror region holds it (11 R275): a third, to whole units
of its stripes. -/
def partBytes (d : Decl) : Nat := if d.mirrorImage = 0 then 0 else ceilDiv d.mirrorImage 3 + 65536

/-- Bytes of module DRAM charged: mirror, pending deltas, undo log, Tailrace area, cold data, capture region. -/
def dramCharge (d : Decl) (t7 : Bool) : Nat :=
  gib (3 * partBytes d) + gib d.maxDelta + gib (d.maxRowsUpd * undoRow d t7) + gib d.tailBytes + gib d.coldBytes + gib d.capBytes

/-- Bytes of the retention ring, and of its directory in whole units of flash (12 R307, 08 R206). -/
def ringBytes (d : Decl) : Nat := ringRecords d * recSize d
/-- Bytes of the directory. -/
def ringDirBytes (d : Decl) : Nat := roundUp (32 * ringRecords d) 65536

/-- Bytes of flash charged (12 R307). -/
def flashCharge (d : Decl) : Nat := ringBytes d + ringDirBytes d

/-- The ring and its directory lie apart in the user window of flash, in whole 64 KiB units at the declared sizes (08 R206, 12 R307). -/
def ringPlaced (d : Decl) (p : Placement) : Bool :=
  let dir : Region := { base := p.ringDir, len := ringDirBytes d }
  let flash : Region := { base := flashBase, len := 24 * 2 ^ 40 }
  p.ring.len == ringBytes d && p.ring.base % 65536 == 0 && p.ringDir % 65536 == 0 && within flash p.ring.base p.ring.len && within flash dir.base dir.len &&
  !overlaps p.ring dir

/-- The per-tier totals fit. -/
def State.tiersFit (s : State) (d : Decl) (ts : List TensorRec) (p : Placement) (t7 : Bool) (rank : Option Nat) : Bool :=
  decide (s.hbmCharge d ts p t7 rank ≤ d.memHbm) && policiesFit d ts p && decide (d.memHbm ≤ 2 ^ 40 - 2 ^ 26) &&
  decide (dramCharge d t7 ≤ d.memDram) && decide (d.memDram + 48 * 2 ^ 30 ≤ 2 ^ 40) && decide (d.memSram ≤ 6 * 2 ^ 20) &&
  decide (flashCharge d ≤ d.memFlash) && decide (d.memFlash ≤ 24 * 2 ^ 40) && decide (d.mirrorImage ≤ 10 ^ 12)

/-- Staging SRAM that Braid's declared maxima take, of its 64 MiB (05 R122, 08 R186, 14 R345): a key and an index for each draw of a plan and a
count for each of its owners, the same for a merge, and a sum for each merged value (log entry 117). -/
def braidShare (d : Decl) : Nat :=
  max (if d.planN = 0 then 0 else 4 * (d.planD + 1 + d.planN)) (if d.mergeN = 0 then 0 else 4 * (d.mergeD + 1 + d.mergeN) + 6 * d.mergeV)

/-- The mirror region: the parts that this module holds lie in it one after another. -/
def mirrorRegion (d : Decl) (p : Placement) : Region := { base := p.mirror.headD 0, len := p.mirror.length * partBytes d }

/-- The parts of the mirror region follow one another. -/
def mirrorPlaced (d : Decl) (p : Placement) : Bool :=
  p.mirror == (List.range p.mirror.length).map fun i => (mirrorRegion d p).base + i * partBytes d

/-- The regions of module DRAM in the order of 08 R203, the capture region after them (12 R313). -/
def dramRegions (d : Decl) (p : Placement) : List Region := [mirrorRegion d p, p.pending, p.undo, p.tailrace, p.cold, p.capture]

/-- Regions that hold something lie from `a` on in order, each on a 1 GiB boundary, within module DRAM (08 R203). -/
def dramOrdered : Nat → List Region → Bool
  | a, [] => decide (a ≤ 0x20000000000)
  | a, r :: t => if r.len = 0 then dramOrdered a t else decide (a ≤ r.base) && r.base % 2 ^ 30 == 0 && dramOrdered (r.base + r.len) t

/-- What a rank's share of the graph and of the owner table takes can be held: every owner is a rank, and the node table of the owned nodes
lies in the graph-store region (06 R129, R133). -/
def State.graphFits (s : State) (d : Decl) (rank : Option Nat) : Bool :=
  d.partTable.elim true (fun t => t.all fun r => decide (r < s.ranks)) &&
  rank.elim true fun r => decide (32 * (ownedNodes d s.ranks r).length ≤ d.graphBytes)

/-- No two regions overlap. -/
def disjoint : List Region → Bool
  | [] => true
  | r :: t => t.all (fun x => !overlaps r x) && disjoint t

/-- The state that a rank mirrors (11 R274): the graph store, SHARDED and LOCAL tables, the first copy of owned slices, and cold data. -/
def mirrorNeeds (d : Decl) (p : Placement) (t7 : Bool) (mine : SlicePlace → Bool) : List Region :=
  [p.graph, p.cold] ++ ((d.tables.zip p.tabs).flatMap fun t => if t.1.sharded then tabRegions t7 t.1 t.2 else []) ++
  (p.localTabs.map fun e => { base := e.2, len := (d.tables[e.1]?).elim 0 (·.localMax) }) ++ (p.slices.filter mine).flatMap fun x => (sliceRegions d t7 x).filter fun r =>
    r.base == x.work0 || r.base == x.master0

/-- The mirrored regions are the state that 11 R274 lists, owned slices as regions of their own. -/
def mirrorCovers (d : Decl) (p : Placement) (t7 : Bool) (mine : SlicePlace → Bool) : Bool :=
  (mirrorNeeds d p t7 mine).all (fun r => r.len == 0 || p.mirrored.any fun m => within m r.base r.len) &&
  (p.slices.filter mine).all fun x => p.mirrored.any (fun m => m.base == x.work0) && p.mirrored.any fun m => m.base == x.master0

/-- The slices of a tensor that reduces in BS8 follow one another from element 0 to its end, each but the last a whole number of blocks (09 R430). -/
def sliceCut (g : GradDecl) (l : List SlicePlace) : Bool :=
  !g.bs8 || (l.all (fun x => x.first % 32 == 0 && (x.count % 32 == 0 || x.first + x.count == g.elems)) && (l.map (·.count)).sum == g.elems &&
    l.all fun x => x.first == 0 || l.any fun y => y.first + y.count == x.first)

/-- The slices of every gradient tensor are cut as 09 R430 says, and reduced by a data group that their owner is a member of (09 R213). -/
def slicesPlaced (d : Decl) (p : Placement) : Bool :=
  d.grads.all (fun g => sliceCut g (p.slices.filter fun x => x.tensor == g.tensor)) &&
  p.slices.all fun x => (d.groups[x.group]?).elim true fun g => g.kind == 0 && g.members.contains x.owner

/-- A row table has a slot for each row that the rank owns at load, each of MIGAREA and each of SHADOW, on 32-byte boundaries (07 R155). -/
def State.tablesPlaced (s : State) (d : Decl) (p : Placement) (rank : Option Nat) : Bool :=
  p.tabs.length == d.tables.length &&
  (d.tables.zip p.tabs).all fun x => x.2.slots % 32 == 0 && (!x.1.sharded || rank.isNone || x.2.slotCount == s.homeCount d rank x.1 + x.1.migArea + x.1.shadow)

/-- An area serves a split kernel: that of a vector reduction holds a partial of each part for every logical core; that of a matrix kernel, whose tiles
write in core-local SRAM (04 R92), lies in a core's window. -/
def partialServes (k : KernelDecl) (t7 : Bool) (lcores : Nat) (r : Region) : Bool :=
  if k.vecRed then r.len == k.parts.elim 0 List.length * (if t7 then 4 else 6) * lcores else decide (0 < r.len) && (windowOf r).isSome

/-- Each kernel that declares parts has an area for its partials, and every area that is placed serves its kernel (03 R67). -/
def partialsPlaced (d : Decl) (p : Placement) (t7 : Bool) (lcores : Nat) : Bool :=
  (List.range d.kernels.length).all (fun i => (d.kernels[i]?).elim true fun k => k.parts.isNone || p.partials.any fun e => e.1 == i) &&
  p.partials.all fun e => (d.kernels[e.1]?).any fun k => k.parts.isSome && partialServes k t7 lcores e.2

/-- A rank's placement keeps to the declaration and to the tiers: regions of HBM apart and below the spare-page pool (08 R190), those of module DRAM as 08
R203 orders them, the ring in flash, and the mirrored image as 11 R274 lists it and no larger than declared. -/
def State.placeOk (s : State) (d : Decl) (ts : List TensorRec) (p : Placement) (t7 : Bool) (lcores : Nat) (rank : Option Nat) : Bool :=
  let mine := fun (x : SlicePlace) => rank == some x.owner
  let regions := hbmRegions d ts p t7 mine
  decide ((p.mirrored.map (·.len)).sum + p.carried.len ≤ d.mirrorImage) && p.graph.len == d.graphBytes && p.capture.len == d.capBytes &&
  p.tailrace.len == d.tailBytes && p.cold.len == d.coldBytes && p.pending.len == d.maxDelta && p.undo.len == d.maxRowsUpd * undoRow d t7 &&
  p.receive.length == 9 && s.tablesPlaced d p rank && mirrorPlaced d p && dramOrdered dramFwEnd (dramRegions d p) &&
  regions.all (fun r => r.len == 0 || decide (r.base + r.len ≤ poolBase)) && disjoint regions && disjoint (partialRegions d p false) && slicesPlaced d p && partialsPlaced d p t7 lcores && ringPlaced d p &&
  (rank.isNone || mirrorCovers d p t7 mine)

/-- What a rank holds fits its placement: on a spare this is judged for each rank that it may take too (11 R281). -/
def State.rankFits (s : State) (d : Decl) (ts : List TensorRec) (t7 : Bool) (lcores : Nat) (rank : Option Nat) (p : Placement) : Bool :=
  s.graphFits d rank && s.tiersFit d ts p t7 rank && s.placeOk d ts p t7 lcores rank

/-- Check 3. -/
def State.loadFits (s : State) (b : List Byte) (d : Decl) (p : Placement) (spares : List (Nat × Placement)) : Bool :=
  let t7 := bits (field b 7 1) 0 1 == 1
  let n := field b 12 2
  let ts := (tensorRows b).map tensorOf
  decide (n ≤ s.cores.length) && (List.range n).all (fun c => decide ((taskRows b c).length ≤ 64)) && limitsOk d && decide (braidShare d ≤ 64 * 2 ^ 20) &&
  s.rankFits d ts t7 n s.mach.rank p && spares.all fun x => s.rankFits d ts t7 n (some x.1) x.2

/-! ### Bounds (03 R65, R67) -/

/-- Every part but the last ends on a multiple of 32, and each holds at most 1,048,576 indices, but at least one: a part with none covers no range
of indices (log entry 118). -/
def partsOk (l : List Nat) : Bool :=
  decide (2 ≤ l.length) && decide (l.length ≤ 4096) && decide (l.sum ≤ 2 ^ 32) && l.all (fun n => decide (1 ≤ n) && decide (n ≤ 1048576)) &&
  l.dropLast.all fun n => n % 32 == 0

/-- A kernel meets R65 and R67. The parts of a split kernel cover its declared maximum K exactly (log entry 118). -/
def kernelBound (k : KernelDecl) : Bool :=
  match k.parts with
  | none => (!k.vecRed && isInt k.afmt) || decide (k.maxK ≤ 1048576)
  | some l => (k.vecRed || !isInt k.afmt) && partsOk l && l.sum == k.maxK

/-! ### What INIT writes (14 R350 step 4) -/

/-- Bytes of what INIT writes at a place. -/
def initLen : InitData → Nat
  | .bytes l => l.length
  | .drawn _ _ _ n fmt => fmtBytes fmt n

/-- A distribution of 12 R303 on G: the FP32 value. -/
def distValue : InitDist → GenState → Nat
  | .uniform lo hi, g => (uniformValue g lo.toNat hi.toNat).1
  | .bernoulli p, g => if g.c0.toNat < keepThreshold p.toNat then 0x3F800000 else 0
  | .normalBm mean std, g => (scaleNormal (normalBmZ g) std.toNat mean.toNat).1
  | .normalTab mean std, g => (scaleNormal (normalTabZ g) std.toNat mean.toNat).1

/-- The bytes that INIT writes at a place: a draw has purpose INIT, c2 the first step and stream offsets of 0 (12 R298, 14 R350). -/
def initValue (seed : W64) (step : Nat) : InitData → List Byte
  | .bytes l => l
  | .drawn dist tensor first n fmt =>
    packCodes fmt ((List.range n).map fun i =>
      let x := distValue dist (generateAt seed ((first + i) % 2 ^ 64) step 5 tensor)
      if fmt = 0 then x else (((floatFmt fmt).getD fp32).ofVal (fp32.decode x)).1)

/-- INIT's writes as bytes at device addresses. -/
def initBytes (seed : W64) (step : Nat) (l : InitWrites) : List (Nat × List Byte) := l.map fun w => (w.addr, initValue seed step w.data)

/-- The address up to which ranges fill everything from `a` on. -/
def filledTo (l : List Region) (a : Nat) : Nat → Nat
  | 0 => a
  | n + 1 => filledTo l (l.foldl (fun a r => if r.base ≤ a then max a (r.base + r.len) else a) a) n

/-- The masters that INIT must write (14 R350): those of the owned slices, and of the owned rows of trained tables. -/
def State.initNeeds (s : State) (d : Decl) (p : Placement) (t7 : Bool) : List Region :=
  let w := if t7 then 4 else 6
  ((p.slices.filter fun x => s.mach.rank == some x.owner).map fun x => { base := x.master0, len := w * x.count }) ++
  ((d.tables.zip p.tabs).filter fun x => x.1.train).map fun x => { base := x.2.master, len := w * x.1.width * s.homeCount d s.mach.rank x.1 }

/-- INIT writes every master that it must. -/
def State.initCovers (s : State) (d : Decl) (p : Placement) (t7 : Bool) (l : InitWrites) : Bool :=
  let rs := l.map fun w => { base := w.addr, len := initLen w.data : Region }
  (s.initNeeds d p t7).all fun r => decide (r.base + r.len ≤ filledTo rs r.base rs.length)

/-! ### The checks in order (14 R349) -/

/-- The program that an image and its declarations make. -/
def programOf (b : List Byte) (seed first : Nat) (d : Decl) (p : Placement) (spares : List (Nat × Placement)) : Program where
  hash := Config.sha3 b
  contract := field b 6 1
  t7 := bits (field b 7 1) 0 1 == 1
  lcores := field b 12 2
  needFw := field b 8 2
  needYl := field b 10 1
  needNum := field b 11 1
  seed := BitVec.ofNat 64 seed
  first := first
  tensors := (tensorRows b).map tensorOf
  tasks := (List.range (field b 12 2)).map fun c => (taskRows b c).map taskOf
  decl := d
  place := p
  spares := spares
  shared := []

/-- The first of checks 1 to 4 that fails. -/
def State.loadCheck (s : State) (b : List Byte) (hash16 : List Byte) (d : Option Decl) (p : Placement) (spares : List (Nat × Placement)) : Option Status :=
  match d with
  | none => some .formatInvalid
  | some d =>
    if (digestBytes (Config.sha3 b)).take 16 ≠ hash16 ∨ loadFormatOk b d = false then some .formatInvalid
    else if s.loadVersionOk b d = false then some .contractVersion
    else if s.loadFits b d p spares = false then some .resourceShort
    else if d.kernels.all kernelBound = false then some .boundExceeded
    else none

end Sys2Proof.Machine
end

