-- ==== Sys2Proof/Machine/Firmware.lean ====
section
/-! DEFINITION. FW_PUSH, the identity key and ATTEST (16 R402-R407). -/

namespace Sys2Proof.Machine

open Sys2Proof

/-! ### FW_PUSH (16 R402, R403) -/

/-- Bytes of a sector. -/
def sectorBytes : Nat := 65536

/-- The image slot erased. -/
def eraseSlot (nor : NMap Byte) : NMap Byte := nor.filter fun e => !(decide (slotBase ≤ e.1) && decide (e.1 < slotBase + slotLen))

/-- The slot with the first `n` bytes of an image programmed. -/
def programSlot (nor : NMap Byte) (image : List Byte) (n : Nat) : NMap Byte := storeBytes 0xFF (eraseSlot nor) slotBase (image.take n)

/-- The mirror of the slot follows the slot. -/
def State.mirrorSlot (s : State) : State :=
  let inSlot := s.nor.filter fun e => decide (slotBase ≤ e.1) && decide (e.1 < slotBase + slotLen)
  { s with sermem := inSlot.foldl (fun m e => m.set 0xFF e.1 e.2) (eraseSlot s.sermem) }

/-- An accepted image written: to the end, with a sector of the image that stays bad (its bytes free), or cut by power or PERST#, when nothing more
happens to the command. From its first erase until every sector has been read back the slot is invalid, whatever bytes it holds by then (16 R402, R403;
log entry 144). -/
def State.pushImage (s : State) (ring : Nat) (image : List Byte) (fin : PushEnd) : State :=
  match fin with
  | .done =>
    let t := State.mirrorSlot { s with nor := programSlot s.nor image image.length, slotOpen := false }
    let recovering := t.ms.st == .recovery
    let t := t.complete ring { status := .ok }
    if recovering then { t with ms := { t.ms with fwRestart := true } } else t
  | .sectorFails k =>
    let f := s.takeFree (8 * sectorBytes)
    let nor := storeBytes 0xFF (programSlot s.nor image image.length) (slotBase + k % ceilDiv image.length sectorBytes * sectorBytes) (leBytes sectorBytes f.1.toNat)
    State.complete { f.2 with nor := nor, slotOpen := true } ring { status := .memoryUncorrectable }
  | .cut n => { s with nor := programSlot s.nor image (n * sectorBytes), slotOpen := true }

/-- FW_PUSH: the checks of 16 R402 in order, then the write. -/
def fwPush (ring : Nat) (host : List Byte) (fin : PushEnd) (s : State) : State :=
  s.command ring 0x10 (fun _ => true) fun s d =>
    let n := field d 24 8
    if slotLen < n then s.complete ring { status := .resourceShort }
    else
      match s.readBuffer (field d 16 8) n host with
      | .error x => s.complete ring { status := x }
      | .ok b =>
        if n ≠ imageFixed + field b 16 8 then s.complete ring { status := .resourceShort }
        else if (imageCause s.fuse (slice b)).isSome then s.complete ring { status := .formatInvalid }
        else s.pushImage ring b fin

/-! ### Identity (16 R404) -/

/-- The hash of the module identity key. -/
def State.signerKey (s : State) : W256 := Config.sha3 (Config.mldsaPublic s.fuse.idSeed)

/-- A signature of the key unit over a message with a context string. -/
def State.signed (s : State) (context : String) (body : List Byte) : List Byte := fit 2420 (Config.mldsaSign s.fuse.idSeed (ascii context) body)

/-! ### ATTEST (16 R406, R407) -/

/-- Bytes of a report. -/
def attestBytes : Nat := 6472

/-- The 256 bytes of a report's header. -/
def State.attestHeader (s : State) (nonce : List Byte) : List Byte :=
  let fw := s.ms.fw
  leBytes 2 1 ++ zeros 2 ++ leBytes 4 4052 ++ fit 32 nonce ++ digestBytes (fw.elim 0 (·.hash)) ++ leBytes 4 (fw.elim 0 (·.version)) ++
  leBytes 2 (fw.elim 0 (·.svn)) ++ leBytes 2 s.fuse.counter ++ digestBytes s.ms.settingsHash ++ digestBytes (s.ms.map.elim 0 (·.mapId)) ++
  digestBytes (s.fuse.owner.getD 0) ++ digestBytes (s.prog.elim 0 (·.hash)) ++ digestBytes (s.st.lastHash.elim 0 (·.2)) ++
  leBytes 4 (s.st.lastHash.elim 0xFFFFFFFF (·.1)) ++ leBytes 4 (s.st.committed.getD 0xFFFFFFFF) ++ leBytes 2 s.ms.position ++
  leBytes 2 (s.rank % 2 ^ 13 + (if s.mach.rank.isSome then 2 ^ 15 else 0)) ++ leBytes 1 s.ms.st.code ++ leBytes 1 s.fuse.order.code ++
  leBytes 2 (fw.elim 0 (·.level))

/-- A report: header, certificate, signature. -/
def State.attestReport (s : State) (nonce : List Byte) : List Byte :=
  let body := s.attestHeader nonce ++ fit 3796 s.ms.cert
  body ++ s.signed "T9AT" body

/-- ATTEST. -/
def attest (ring : Nat) (s : State) : State :=
  s.command ring 0x11 (fun _ => true) fun s d =>
    if field d 56 4 < attestBytes then s.complete ring { status := .resourceShort }
    else
      match s.writeBuffer (field d 48 8) (s.attestReport (slice d 16 32)) with
      | none => s.complete ring { status := .indexRange }
      | some t => t.complete ring { status := .ok, info := attestBytes }

/-- FW_PUSH (16 R402). -/
def execFwPush (ring : Nat) (host : List Byte) (fin : PushEnd) (s : State) : Host.Outcome State Fault Refusal := .next (fwPush ring host fin s)
/-- ATTEST (16 R406). -/
def execAttest (ring : Nat) (s : State) : Host.Outcome State Fault Refusal := .next (attest ring s)

end Sys2Proof.Machine
end

