-- ==== Sys2Proof/Machine/Evidence.lean ====
section
/-! DEFINITION. EVAL and EVIDENCE_EXPORT as they are taken up (01 R33, R34, 12 R315, R316), the WINDOW barrier, MODEL_HASH (12 R318) and the
evidence record (12 R317, R319-R321). -/

namespace Sys2Proof.Machine

open Sys2Proof

/-! ### Taking up (01 R33) -/

/-- The step that an EVAL dequeued now is pinned to: the latest whose completion has been posted; before any, the one before the first. -/
def State.pinNow (s : State) : Nat := s.st.completed.getD s.lastStep

/-- An EVAL or export can be taken up: not between this module's PREPARED and the commit point, since the step it would be pinned to is then
about to be overwritten (01 R35; log entry 113). -/
def State.evalMayBegin (s : State) : Bool := s.st.run.elim true fun r => r.phase != .prepared

/-- An EVAL or export taken up, behind those already in progress. -/
def State.beginEval (s : State) (ring tag spec : Nat) (targets : List Target) (evidence : Bool) : State :=
  let e : EvalRun := {
    ring := ring
    tag := tag
    evidence := evidence
    pinned := s.pinNow
    spec := spec
    targets := targets
    epoch := s.st.epoch
    begun := false
    drawing := !evidence
    hop := 0
    asked := []
    attribution := false
    fault := none
    rescaled := false
    offsets := s.st.offsets
    batches := 0 }
  s.startRunning.orderEvals (s.st.evals ++ [e])

/-- Every declared evaluation tensor has a recorded magnitude (03 R63). DESIGN CHOICE (log entry 33): an EVAL or export of a program that declares such
tensors needs the calibrated scale of each, so that it can be refused before it has any effect (00 R6). -/
def State.calibrated (s : State) : Bool := s.evalTensors.all fun t => !(s.calibration t).isEmpty

/-- What is wrong with an EVAL that is dequeued, if anything (13 R343): its calibration, its target list and its OUT. -/
def State.evalRefused (s : State) (d host : List Byte) : Option Status :=
  let n := field d 24 4
  if !s.calibrated then some .stateInvalid
  else
    match s.readBuffer (field d 16 8) (16 * n) host with
    | .error x => some x
    | .ok b =>
      match s.targetFault (bits (field d 28 1) 0 4) (targetsOf b) with
      | some x => some x
      | none => if field d 40 4 < n * s.decl.elim 0 (·.scoreBytes) then some .resourceShort else none

/-- EVAL (01 R33): it is judged at dequeue. INFO is the graph epoch whatever the outcome (13 R343). -/
def eval (ring : Nat) (host : List Byte) (s : State) : State :=
  s.command ring 0x05 (fun d => !descOk d || s.evalMayBegin) fun s d =>
    match s.evalRefused d host, s.readBuffer (field d 16 8) (16 * field d 24 4) host with
    | some x, _ | none, .error x => s.complete ring { status := x, info := s.st.epoch, step := s.pinNow }
    | none, .ok b => s.beginEval ring (descTag d) (bits (field d 28 1) 0 4) (targetsOf b) false

/-! ### The WINDOW barrier (12 R316) -/

/-- The window after step c is closed: its bit is kept, once, and the exports pinned to c may draw. -/
def State.closeWindow (s : State) (c v : Nat) : State :=
  let w := match s.st.windowClosed with
    | some x => if x.1 = c then some x else some (c, v % 2 == 1)
    | none => some (c, v % 2 == 1)
  let evals := s.st.evals.map fun e =>
    if e.waits && e.pinned == c then { e with drawing := true } else e
  State.orderEvals { s with
    st := { s.st with windowClosed := w }
    wd := if s.wd = some .window then none else s.wd } evals

/-- The bit of the window closed after a step, none while it is open. -/
def State.windowBit (s : State) (c : Nat) : Option Bool := s.st.windowClosed.bind fun x => if x.1 = c then some x.2 else none

/-- A STEP is queued or in progress on the module. -/
def State.stepQueued (s : State) : Bool := s.st.run.isSome || !s.st.waiting.isEmpty || s.host.rings.any fun e => e.2.queue.any fun d => descOp d == 0x04

/-- An export that finds the window open asks every member for the WINDOW barrier, unless a STEP is queued here. The request is a WINDOW
message with bit 1 of VALUE set (log entry 50). The wait is under the collective watchdog. -/
def State.askWindow (s : State) (c : Nat) : State :=
  match s.windowBit c with
  | some v => s.closeWindow c v.toNat
  | none =>
    let s := if s.wd.isNone then { s with wd := some .window } else s
    if s.stepQueued then s
    else
      let s := s.sendAll s.others fun o => mkMsg 6 bWindow 0 o (barrierBody c 0 2)
      State.tryWindow { s with st := { s.st with windowAsked := true } }

/-! ### Layout (12 R319) -/

/-- The attributed tables. -/
def State.inTables (s : State) : List TableDecl := s.decl.elim [] fun d => d.inputTables.filterMap s.table

/-- Lengths of the five sections, padded, for S slots. -/
def sectionLens (d : Decl) (ts : List TableDecl) (n : Nat) : List Nat :=
  [40 * n, 4 * d.attLayers * d.attHeads * n, inBytes ts * (n + 1), 4 * inElems ts * (n + 1), 4 * (n + 1)].map fun x => roundUp x 16

/-- Bytes of header and sections. -/
def evidenceBody (d : Decl) (ts : List TableDecl) (n : Nat) : Nat := 256 + (sectionLens d ts n).sum

/-- EVIDENCE_EXPORT (12 R315, R321): target, specification and DEST are judged before anything is drawn. -/
def evidenceExport (ring : Nat) (s : State) : State :=
  s.command ring 0x0D (fun d => !descOk d || s.evalMayBegin) fun s d =>
    let spec := bits (field d 32 1) 0 4
    let targets := targetsOf (slice d 16 16)
    match (if s.calibrated then s.targetFault spec targets else some .stateInvalid), s.decl, s.spec spec with
    | some x, _, _ => s.complete ring { status := x, step := s.pinNow }
    | none, some dc, some sp =>
      if field d 48 4 < evidenceBody dc s.inTables (slotCount (fanouts sp)) + 2420 then
        s.complete ring { status := .resourceShort, step := s.pinNow }
      else
        let t := s.beginEval ring (descTag d) spec targets true
        t.askWindow s.pinNow
    | none, _, _ => s.complete ring { status := .formatInvalid, step := s.pinNow }

/-! ### MODEL_HASH (12 R318) -/

/-- The working copy of an owned slice, as committed. -/
def State.sliceBytes (s : State) (x : SlicePlace) : List Byte := s.readCommitted (if s.st.wEpoch then x.work1 else x.work0) (2 * x.count)

/-- The hashing of a step's state as it stands here. -/
def State.hashRun (s : State) (c : Nat) : HashRun :=
  (s.st.hashes.find? fun h => h.step == c).getD { step := c, asked := false, told := false, digests := [], rows := [] }

/-- That hashing changed. -/
def State.setHash (s : State) (h : HashRun) : State := { s with st := { s.st with hashes := h :: s.st.hashes.filter fun x => x.step != h.step } }

/-- The working copy of a home row: this module's own, or the one that its present owner has sent back. -/
def State.homeRow (s : State) (h : HashRun) (t row : Nat) : Option (List Byte) :=
  if s.owns t row then some (s.rowValue t row).1 else (h.rows.find? fun x => x.1 == rowKey t row).map (·.2)

/-- The keys of this rank's home rows of the trained tables, in ascending (table, row). -/
def State.homeKeys (s : State) : List (Nat × Nat) :=
  s.trainedTables.flatMap fun t => match s.decl, s.table t with
    | some d, some td => (homeRows d s.ranks s.rank td).map fun r => (t, r)
    | _, _ => []

/-- D_r of this rank, once every home row that has migrated is back. -/
def State.rankDigest (s : State) (h : HashRun) : Option W256 :=
  let slices := (s.slices.filter fun x => s.mach.rank == some x.owner).flatMap s.sliceBytes
  let rows := s.homeKeys.map fun k => s.homeRow h k.1 k.2
  if rows.all (·.isSome) then some (Config.sha3 (slices ++ rows.flatMap (·.getD []))) else none

/-- A message of the hashing, on VC0 beside the WINDOW barrier's: bit 2 of VALUE asks for a member's part, bit 3 carries its digest, bit 4 a row
that goes home. DESIGN CHOICE (log entry 51). -/
def hashMsg (o c flags : Nat) (b : List Byte) : Msg := mkMsg 6 bWindow 0 o (barrierBody c 0 flags ++ b)

/-- The digests of all ranks are in: MODEL_HASH of the step is known here. -/
def State.tryHash (s : State) (c : Nat) : State :=
  let h := s.hashRun c
  let ds := (List.range s.ranks).map fun r => (h.digests.find? fun x => x.1 == r).map (·.2)
  if ds.all (·.isSome) then
    let v := Config.sha3 (ds.flatMap fun x => digestBytes (x.getD 0))
    { s with st := { s.st with
      modelHash := some (c, v)
      lastHash := some (c, v)
      hashes := s.st.hashes.filter fun x => x.step != c } }
  else s

/-- This rank's digest goes to every other member once it can be formed; the commit of the next step is then held no longer for it. -/
def State.tryDigest (s : State) (c : Nat) : State :=
  let h := s.hashRun c
  if h.asked && !h.told then
    match s.rankDigest h with
    | none => s
    | some d =>
      let s := s.setHash { h with told := true, digests := h.digests ++ [(s.rank, d)] }
      State.tryPrepared (State.tryHash (s.sendAll s.others fun o => hashMsg o c 8 (digestBytes d)) c)
  else s

/-- The rows of trained tables held here whose home owner is another rank go back to it, for one rank or for every one. -/
def State.sendHome (s : State) (c : Nat) (only : Option Nat) : State :=
  s.st.migSlots.foldl (fun s e =>
    let t := keyTable e.1
    let row := keyRow e.1
    match s.decl, s.table t with
    | some d, some td =>
      let o := homeOwner d s.ranks td row
      if s.trainedTables.contains t && s.owns t row && some o != s.mach.rank && only.all (· == o) then
        s.send (hashMsg o c 16 (leBytes 8 e.1 ++ (s.rowValue t row).1))
      else s
    | _, _ => s) s

/-- The hashing of a step's state begins on this member: once, for the step that this module's state is of. -/
def State.startHash (s : State) (c : Nat) : State :=
  let h := s.hashRun c
  if c ≠ s.lastStep ∨ h.asked = true ∨ (s.st.modelHash.any fun x => x.1 == c) = true then s
  else ((s.setHash { h with asked := true }).sendHome c none).tryDigest c

/-- The first export that needs it starts the hashing on every member. -/
def State.askHash (s : State) (c : Nat) : State :=
  if (s.hashRun c).asked then s else (s.sendAll s.others fun o => hashMsg o c 4 []).startHash c

/-- What another module needs that takes a rank while the hashing goes on: the request, this rank's digest and its home rows. -/
def State.remindHash (s : State) (r : Nat) : State :=
  s.st.hashes.foldl (fun s h =>
    if h.asked then
      let s := s.send (hashMsg r h.step 4 [])
      let s := match h.digests.find? fun x => some x.1 == s.mach.rank with
        | some d => s.send (hashMsg r h.step 8 (digestBytes d.2))
        | none => s
      s.sendHome h.step (some r)
    else s) s

/-- A message of the hashing arrives. -/
def State.hashIn (s : State) (m : Msg) (c v : Nat) : State :=
  let h := s.hashRun c
  let b := m.body.drop 16
  if bits v 2 1 = 1 then s.startHash c
  else if c ≠ s.lastStep ∧ h.asked = false then s
  else if bits v 3 1 = 1 then
    State.tryHash (s.setHash { h with digests := h.digests.filter (fun x => x.1 != m.src) ++ [(m.src, BitVec.ofNat 256 (field b 0 32))] }) c
  else
    let k := field b 0 8
    State.tryDigest (s.setHash { h with rows := h.rows.filter (fun x => x.1 != k) ++ [(k, b.drop 8)] }) c

/-! ### The record (12 R317, R319) -/

/-- The values of a row's elements, none when one has no decoding (02 R47). -/
def rowVals (t : TableDecl) (b : List Byte) : Option (List FVal) :=
  let cs := elemCodes t.fmt b t.width
  match floatFmt t.fmt with
  | some f => some (cs.map f.decode)
  | none =>
    if t.fmt = 4 then
      let scales := (List.range t.width).map fun i => field b (fmtBytes t.fmt t.width + i / 32) 1
      if cs.any (elemInvalid 4) || scales.contains 0xFF then none
      else some ((cs.zip scales).map fun x => let v := elemInt 4 x.1; .fin (decide (v < 0)) v.natAbs ((x.2 : Int) - 127))
    else some (cs.map fun c => let v := elemInt t.fmt c; .fin (decide (v < 0)) v.natAbs 0)

/-- The values of a slot's input rows in table order. -/
def slotVals : List TableDecl → List Byte → Option (List FVal)
  | [], _ => some []
  | t :: ts, b => (rowVals t b).bind fun v => (slotVals ts (b.drop (tabRowBytes t))).map (v ++ ·)

/-- Slot s of the export's one target is EMPTY. -/
def State.slotEmpty (s : State) (slot : Nat) : Bool := slot != 0 && field (s.ledgerAt true (slot - 1)) 0 5 == noId

/-- The attributions of a slot: a = x × g, rounded once; +0 for an empty slot. -/
def State.attribution (s : State) (ts : List TableDecl) (p : Placement) (slot : Nat) : Option (List (Nat × AFlags)) :=
  let n := inElems ts
  if s.slotEmpty slot then some (List.replicate n (0, {}))
  else
    (slotVals ts (s.read (p.evInputs + inBytes ts * slot) (inBytes ts))).map fun xs =>
      (xs.zip (elemCodes 0 (s.read (p.evGrads + 4 * n * slot) (4 * n)) n)).map fun x => fp32.mulVals x.1 (fp32.decode x.2)

/-- The edge attribution of a slot: the sum of its attributions (02 R60). -/
def edgeSum (t7 : Bool) (as : List Nat) : Nat × AFlags :=
  let r := reduceVals t7 (as.map fun a => (fp32.decode a, .fin false 1 0))
  let o := outputFloat t7 fp32 r.1
  (o.1, r.2.converted o.2)

/-- The VERSIONs of a slot's row in the input tables, in table order; those of unused tables are 0. -/
def State.slotVersions (s : State) (p : Placement) (slot : Nat) : List Byte :=
  fit 8 (s.read (p.evVersions + 8 * slot) (min 8 (2 * s.inTables.length)))

/-- The 40 bytes of a slot of the neighbourhood: entry, attributes, source node, versions. -/
def State.neighbour (s : State) (p : Placement) (target slot : Nat) : List Byte :=
  let l := s.ledgerAt true (slot - 1)
  let parent := bits (field l 11 5) 19 19
  let src := if parent = 0 then target else field (s.ledgerAt true (parent - 1)) 0 5
  fit 24 l ++ leBytes 5 src ++ zeros 3 ++ s.slotVersions p slot

/-- The body of the record of the export on the cores: header and sections; none when an input row has no decoding. -/
def State.evidenceRecord (s : State) (e : EvalRun) (d : Decl) (p : Placement) (hash : W256) : Option (List Byte × AFlags) :=
  let t := e.targets.headD default
  let n := (s.spec e.spec).elim 0 fun sp => slotCount (fanouts sp)
  let ts := s.inTables
  let slots := List.range (n + 1)
  let as := slots.map fun i => s.attribution ts p i
  if as.any (·.isNone) then none
  else
    let vals := as.map (·.getD [])
    let edges := vals.map fun v => edgeSum s.t7 (v.map (·.1))
    let lens := sectionLens d ts n
    let offs := (List.range 5).map fun i => 256 + (lens.take i).sum
    let inputs := slots.flatMap fun i =>
      if s.slotEmpty i then zeros (inBytes ts) else s.read (p.evInputs + inBytes ts * i) (inBytes ts)
    let body := [
      (List.range n).flatMap fun i => s.neighbour p t.node (i + 1),
      s.read p.attention (4 * d.attLayers * d.attHeads * n),
      inputs,
      vals.flatMap fun v => v.flatMap fun x => leBytes 4 x.1,
      edges.flatMap fun x => leBytes 4 x.1]
    let header := leBytes 2 1 ++ zeros 2 ++ leBytes 4 (256 + lens.sum) ++ digestBytes hash ++ digestBytes (s.prog.elim 0 (·.hash)) ++
      digestBytes s.signerKey ++ leBytes 4 e.pinned ++ leBytes 8 e.epoch ++ leBytes 5 t.node ++ leBytes 6 t.t ++ leBytes 1 e.spec ++
      leBytes 4 t.lti ++ leBytes 2 s.rank ++ leBytes 2 s.ms.position ++ leBytes 2 (s.ms.fw.elim 0 (·.level)) ++
      leBytes 1 (s.prog.elim 0 (·.contract)) ++ leBytes 1 (if s.t7 then 7 else 9) ++ leBytes 8 e.tag ++ leBytes 4 n ++
      leBytes 2 (inElems ts) ++ leBytes 1 d.attLayers ++ leBytes 1 d.attHeads ++ s.read p.score 4 ++ offs.flatMap (leBytes 4) ++
      s.slotVersions p 0 ++ leBytes 4 (inBytes ts) ++ leBytes 1 ((s.windowBit e.pinned).getD false).toNat ++ zeros 63
    some (header ++ body.flatMap (fun b => fit (roundUp b.length 16) b), AFlags.all (vals.flatMap (fun v => v.map (·.2)) ++ edges.map (·.2)))

/-- The export on the cores ends: its record is built, signed and written (12 R320). DESIGN CHOICE (log entry 119): the flags that its attributions
raise under 02 R58 belong to no task and are counted once for the export, on the core that carries logical core 0. -/
def State.endEvidence (s : State) (e : EvalRun) (d : Decl) (p : Placement) (hash : W256) (desc : List Byte) : State :=
  match s.evidenceRecord e d p hash with
  | none => s.endEval e.ring { status := .formatInvalid, info := 0, step := e.pinned }
  | some (body, f) =>
    let out := body ++ s.signed "T9EV" body
    match (s.raiseConf f).writeBuffer (field desc 40 8) out with
    | none => s.endEval e.ring { status := .indexRange, info := 0, step := e.pinned }
    | some t =>
      t.endEval e.ring { status := if e.rescaled then .okRescaled else .ok, info := out.length, step := e.pinned, rescaled := e.rescaled }

/-- The EVAL on the cores ends: the scores of its targets are written (01 R33). -/
def State.endScores (s : State) (e : EvalRun) (d : Decl) (p : Placement) (desc : List Byte) : State :=
  match s.writeBuffer (field desc 32 8) (s.read p.score (d.scoreBytes * e.targets.length)) with
  | none => s.endEval e.ring { status := .indexRange, info := e.epoch, step := e.pinned }
  | some t =>
    t.endEval e.ring { status := if e.rescaled then .okRescaled else .ok, info := e.epoch, step := e.pinned, rescaled := e.rescaled }

/-- The EVAL on the cores changed. -/
def State.setEval (s : State) (e : EvalRun) : State := { s with st := { s.st with evals := e :: s.st.evals.drop 1 } }

/-- The attribution pass starts from a gradient of exactly 1.0 at the score output (12 R317). DESIGN CHOICE (log entry 125): it is put, as FP32, where
the loader places the score itself, after its value has been kept for the record. -/
def State.startGradient (s : State) (p : Program) : State := s.write p.place.scoreGrad (leBytes 4 0x3F800000)

/-- The work of the EVAL on the cores goes on: from its draws to its tasks, for an export from its score to the attribution pass (12 R317),
and then, for an export once MODEL_HASH of its step is known, to its end. -/
def State.evalPhaseEnd (s : State) : State :=
  match s.st.evals, s.prog with
  | e :: _, some p =>
    if e.drawing then
      (if s.evalSampled then s.setEval { e with drawing := false } else s)
    else if e.hop = 0 || !s.classIdle true || s.ex.lookups.any (·.eval) then s
    else if e.evidence && !e.attribution then ((s.setEval { e with attribution := true }).startGradient p).startTasks 7 (BitVec.ofNat 32 e.pinned)
    else
      match (s.ring e.ring).busy with
      | none => s
      | some b =>
        if e.evidence then
          let t := s.askHash e.pinned
          match t.st.modelHash with
          | some x => if x.1 = e.pinned then t.endEvidence e p.decl p.place x.2 b.2 else t
          | none => t
        else s.endScores e p.decl p.place b.2
  | _, _ => s

/-- An export that has waited for MODEL_HASH alone goes on. -/
def State.resumeExport (s : State) : State := if s.st.evals.head?.any (·.attribution) then s.evalPhaseEnd else s

/-- BARRIER_WINDOW: a request, an arrival, or the release that closes the window; or a message of the hashing (12 R318). A request for the step that
this module has not ended yet, which its sender has, is kept until it has. -/
def barrierWindow (m : Msg) (s : State) : State :=
  let c := field m.body 0 4
  let v := field m.body 8 8
  if s.member && m.typ == 6 && m.opc == bWindow && !m.resp && bits v 1 4 != 0 then
    let s := s.took m
    if bits v 1 1 = 0 then (s.hashIn m c v).resumeExport
    else if c = s.lastStep then State.tryWindow { s with st := { s.st with windowAsked := true } }
    else if c = s.st.stepNo && !s.st.windowReqs.contains c then { s with st := { s.st with windowReqs := s.st.windowReqs ++ [c] } }
    else s
  else
    match s.barrierIn bWindow m with
    | (some v, t) => t.closeWindow c v
    | (none, t) => t

/-- EVAL (01 R33). -/
def execEval (ring : Nat) (host : List Byte) (s : State) : Host.Outcome State Fault Refusal := .next (eval ring host s)
/-- EVIDENCE_EXPORT (12 R315). -/
def execEvidenceExport (ring : Nat) (s : State) : Host.Outcome State Fault Refusal := .next (evidenceExport ring s)
/-- BARRIER_WINDOW (12 R316). -/
def execBarrierWindow (m : Msg) (s : State) : Host.Outcome State Fault Refusal := .next (barrierWindow m s)

end Sys2Proof.Machine
end

