-- ==== Sys2Proof/Machine/LayerSlice.lean ====
section
/-! DEFINITION. The layer-slice exchange (01 R12): activations and partial products that the members of a layer-slice group send each other
layer by layer, as WRITEs on the group's channel (log entry 112). -/

namespace Sys2Proof.Machine

open Sys2Proof

/-- The layer-slice groups of this module. -/
def State.layerGroups (s : State) : List GroupDecl :=
  match s.mach.rank, s.decl with
  | some r, some d => d.groups.filter fun g => g.kind == 2 && g.members.contains r
  | _, _ => []

/-- Bytes received in the step from a member on a channel. -/
def State.layerBytes (s : State) (vc src : Nat) : Nat := ((s.ex.slices.filter fun x => x.1 == vc && x.2.1 == src).map (·.2.2)).sum

/-- The layers of a group, those of Forward and then those of Backward, for which this module holds everything that the other members send
it. -/
def State.layersHeld (s : State) (g : GroupDecl) : Nat :=
  let need := g.forward ++ g.backward
  ((List.range need.length).filter fun i =>
    (g.members.filter (· != s.rank)).all fun o => decide ((need.take (i + 1)).sum ≤ s.layerBytes g.vc o)).length

/-- The layers whose exchange ends within a phase or before it. -/
def layersBy (g : GroupDecl) (p : Phase) : Nat :=
  match p with
  | .forward => g.forward.length
  | .backward => g.forward.length + g.backward.length
  | _ => 0

/-- The exchange of some layer of the phase is not complete on this module. -/
def State.layerWaits (s : State) : Bool :=
  s.st.run.elim false fun r => s.layerGroups.any fun g => decide (s.layersHeld g < layersBy g r.phase)

/-- The wait that holds in Forward and Backward when the program's barrier does not. -/
def State.layerPoint (s : State) : Option WaitPoint := if s.layerWaits then some .layerSlice else none

/-- Bytes of a layer-slice group's member counted as they arrive on its channel; the wait for the layer ends with the last. -/
def State.layerArrives (s : State) (vc src n : Nat) : State :=
  if s.st.run.isSome && s.layerGroups.any fun g => g.vc == vc && g.members.contains src then
    let t := { s with ex := { s.ex with slices := s.ex.slices ++ [(vc, src, n)] } }
    { t with wd := if t.wd = some .layerSlice then t.layerPoint else t.wd }
  else s

end Sys2Proof.Machine
end

