-- ==== Sys2Proof/Machine/Window.lean ====
section
/-! DEFINITION. The boundary window (01 R29-R32): INGEST, TABLE_REPLACE and MIGRATE from dequeue to completion (06 R137, 07 R178-R185),
migration maps, compaction (06 R135) and the Eddy refresh (07 R170-R172). -/

namespace Sys2Proof.Machine

open Sys2Proof

/-! ### Boundary actions as queued (01 R30, 13 R343) -/

/-- The first step that an action dequeued now can precede. -/
def State.nextBoundary (s : State) : Nat := s.st.stepNo + (if s.atBoundary && !s.st.windowShut then 0 else 1)

/-- An action with nothing filled in. -/
def Act.blank (ring kind : Nat) (d : List Byte) : Act where
  ring := ring
  tag := descTag d
  kind := kind
  pin := none
  payload := []
  table := 0
  first := 0
  count := 0
  src := 0
  staged := []
  stalled := false
  waitAck := false
  info := 0

/-- An action ends at its turn without effect. -/
def State.refuseAct (s : State) (a : Act) (x : Status) : State := s.complete a.ring { status := x, step := s.st.stepNo }

/-- An action has been applied: it completes once the holders have acknowledged what it changed (11 R278), and compaction and the Eddy refresh
are due after it (01 R29). -/
def State.appliedAct (s : State) (a : Act) (touched : List Region) (info : Nat) : State :=
  State.copyBoundary { s with st := { s.st with
    windowOpen := true
    applied := s.st.applied ++ [{ a with
      waitAck := true
      info := info }] } } touched [(a.ring, info, s.st.stepNo)]

/-! ### INGEST -/

/-- The EVAL on the cores is drawing (06 R140). -/
def State.evalDraws (s : State) : Bool := (s.st.evals.head?).elim false fun e => e.drawing && e.hop != 0

/-- INGEST at its turn. -/
def State.turnIngest (s : State) (a : Act) : State :=
  match s.applyIngest a.payload with
  | .error x => s.refuseAct a x
  | .ok r => r.1.startRunning.appliedAct a r.2 r.1.st.epoch

/-! ### TABLE_REPLACE (07 R181-R185) -/

/-- The rows of a range that this module owns, ascending. -/
def State.replaceRows (s : State) (t first count : Nat) : List Nat := ((List.range count).map fun i => first + i).filter fun r => s.owns t r

/-- The first 16 bytes of a TABLE_REPLACE's payload: table, rows, first row (log entry 44). -/
def replaceHead (t first count : Nat) : List Byte := leBytes 4 t ++ leBytes 4 count ++ leBytes 8 first

/-- Row `i` of the new rows. -/
def Act.newRow (a : Act) (n i : Nat) : List Byte := slice a.payload (16 + i * n) n

/-- New rows written by Quarry into free shadow slots (07 R159, R183), if there are enough; otherwise the action waits. -/
def State.stageAct (s : State) (a : Act) : Act × State :=
  match s.table a.table with
  | none => (a, s)
  | some t =>
    let rows := a.staged.map (·.1)
    let free := s.st.shadow.get [] a.table
    if rows.length ≤ free.length then
      let staged := rows.zip free
      let n := tabRowBytes t
      let u := (List.range rows.length).foldl (fun s i => (s.write (nth 0 free i) (a.newRow n i)).countNarrow (nth 0 free i) n) s
      ({ a with
        staged := staged
        stalled := false },
        { u with st := { u.st with shadow := u.st.shadow.set [] a.table (free.drop rows.length) } })
    else ({ a with stalled := true }, s)

/-- Shadow slots given back to a table's pool. -/
def State.freeSlots (s : State) (t : Nat) (slots : List Nat) : State :=
  { s with st := { s.st with shadow := s.st.shadow.set [] t (s.st.shadow.get [] t ++ slots) } }

/-- Actions that wait for shadow slots staged as far as the slots go, in order of submission. -/
def State.restage (s : State) : State :=
  s.st.acts.foldl (fun s a =>
    if a.stalled then
      let r : Act × State := s.stageAct a
      { r.2 with st := { r.2.st with acts := r.2.st.acts.replace a r.1 } }
    else s) s

/-- The exact value of BF16 elements as master elements: XM48, or FP32 in T7-exact mode (07 R185). -/
def State.mastersFrom (s : State) (row : List Byte) (width : Nat) : List Byte :=
  (elemCodes 1 row width).flatMap fun c =>
    if s.t7 then leBytes 4 (fp32.ofVal (bf16.decode c)).1 else leBytes 6 (xm48.ofVal (bf16.decode c)).1

/-- One row flipped to its shadow slot, with its VERSION raised; a trained row's master follows, its moments become +0 (07 R185), and it
has no agreed scales (09 R225). -/
def State.flipRow (s : State) (t : TableDecl) (tab row slot : Nat) : State :=
  let old := s.slotOf tab row
  let s := s.setDir tab row slot ((s.versionOf tab row + 1) % 65536)
  let s := s.freeSlots tab [old]
  if t.train then
    let m := s.momentsOf tab row
    ((s.write (s.masterOf tab row).base (s.mastersFrom (s.read slot (tabRowBytes t)) t.width)).write m.base (zeros m.len)).dropScales (rowKey tab row)
  else s

/-- The ranges that hold a row's state. -/
def State.rowRegions (s : State) (t : TableDecl) (tab row : Nat) : List Region :=
  [{ base := s.dirAddr tab row, len := 8 }, { base := s.slotOf tab row, len := tabRowBytes t }] ++
    (if t.train then [s.masterOf tab row, s.momentsOf tab row] else [])

/-- The new rows of an action put in place: a SHARDED table's by flips in ascending row, a LOCAL table's in place with its VERSION raised;
and the ranges that changed. -/
def State.putRows (s : State) (a : Act) (t : TableDecl) : State × List Region :=
  if t.sharded then
    let u := a.staged.foldl (fun s x => s.flipRow t a.table x.1 x.2) s
    ((u.count cTableReplaceRows a.staged.length).restage, a.staged.flatMap fun x => u.rowRegions t a.table x.1)
  else
    let u := (List.range a.count).foldl (fun s i => s.write (s.localSlot a.table (a.first + i)) (a.newRow (tabRowBytes t) i)) s
    let u := { u with st := { u.st with localVer := u.st.localVer.set 0 a.table ((u.st.localVer.get 0 a.table + 1) % 65536) } }
    (u.count cTableReplaceRows a.count,
      if a.count = 0 then [] else [{ base := u.localSlot a.table a.first, len := tabSlotLen t * a.count }])

/-- TABLE_REPLACE at its turn. The rows of a LOCAL table are copied in from their source now (07 R182). -/
def State.turnReplace (s : State) (a : Act) : State :=
  match s.table a.table with
  | none => s.refuseAct a .formatInvalid
  | some t =>
    if !t.sharded || a.staged.all fun x => s.owns a.table x.1 && !s.st.arrived.contains (rowKey a.table x.1) then
      let a := if t.sharded then a else { a with payload := a.payload ++ s.read a.src (a.count * tabRowBytes t) }
      let r : State × List Region := s.startRunning.putRows a t
      r.1.appliedAct a r.2 (if t.sharded then a.staged.length else a.count)
    else ((s.freeSlots a.table (a.staged.map (·.2))).restage).refuseAct a .indexRange

/-! ### MIGRATE (07 R178-R180) -/

/-- The checks of 07 R178 that this module makes, in order: the first that fails. Room at the destinations is theirs to answer for. -/
def State.migrateCheck (s : State) (rs : List MigRec) : Option Status :=
  if rs.any (fun r => r.rsv != 0 || !(s.table r.table).elim false (·.sharded)) || !decide ((rs.map fun r => (r.table, r.row)).Nodup) then
    some .formatInvalid
  else if rs.any fun r => !((s.table r.table).elim false (fun t => decide (r.row < t.rows)) && s.owns r.table r.row &&
      !s.st.arrived.contains (rowKey r.table r.row) && decide (r.dst < s.ranks)) then some .indexRange
  else
    let m := rs.foldl (fun m r => s.mapWith m (rowKey r.table r.row) r.dst) s.st.migMap
    if rs.all fun r =>
        (s.table r.table).elim false fun t => decide ((m.filter fun e => keyTable e.1 == r.table).length ≤ t.migMax) then none
    else some .resourceShort

/-- How often a row was named in each of the last 64 steps. -/
def State.logCounts (s : State) (k : Nat) : List Nat := (List.range 64).map fun i => (nth [] s.st.winLog i).count k

/-- The agreed scales of a row, by block, with 0x100 for none. -/
def State.rowScales (s : State) (t : TableDecl) (k : Nat) : List Nat :=
  if t.gradBs8 then (List.range (ceilDiv t.width 32)).map fun i => (s.st.agreed.find (rowScaleKey k i)).getD 0x100 else []

/-- A row's state as sent to its new owner: VERSION, window, optimizer steps, log, row, master, moments and agreed scales (log entry 43). -/
def State.rowState (s : State) (t : TableDecl) (tab row : Nat) : List Byte :=
  let k := rowKey tab row
  let m := s.masterOf tab row
  let o := s.momentsOf tab row
  leBytes 2 (s.versionOf tab row) ++ leBytes 4 (s.st.win.get 0 k) ++ leBytes 8 (s.st.optSteps.get 0 k) ++ (s.logCounts k).flatMap (leBytes 2) ++
  s.read (s.slotOf tab row) (tabRowBytes t) ++
  (if t.train then s.read m.base m.len ++ s.read o.base o.len else []) ++ (s.rowScales t k).flatMap (leBytes 2)

/-- The rows of a migration that go to a member, on VC10 with their state. `rolled`: ROLL applies a recorded one again, for which no room is kept
(07 R179; log entries 43 and 49). -/
def State.rowMsgs (s : State) (rolled : Bool) (rs : List MigRec) (o : Nat) : List Msg :=
  (rs.filter fun r => r.dst == o).map fun r =>
    mkMsg 5 2 10 o (batchHeader s.st.stepNo 0 rolled.toNat false 0 ++ migBytes r ++ (s.table r.table).elim [] fun t => s.rowState t r.table r.row)

/-- The map entries of a migration and the number of its records, on VC0. -/
def entryMsgs (rs : List MigRec) (o : Nat) : List Msg := mapMsgs o 0 rs ++ [mapMsg o 3 (leBytes 8 rs.length) (last := true)]

/-- The messages that ask a member for room for the rows that it is to take. -/
def roomMsgs (rs : List MigRec) (o : Nat) : List Msg := mapMsgs o 4 (rs.filter fun r => r.dst == o)

/-- Where the rows of a list go. -/
def destinations (rs : List MigRec) : List Nat := distinct (rs.map (·.dst))

/-- Messages of a migration sent to a list of members. -/
def State.sendMoves (s : State) (dsts : List Nat) (f : Nat → List Msg) : State := dsts.foldl (fun t o => (f o).foldl State.send t) s

/-- An action taken off the list of those that are pending. -/
def State.takeOff (s : State) (a : Act) : State := { s with st := { s.st with acts := s.st.acts.erase a } }

/-- Members hear that this module's MIGRATE is undone: they keep no room for it and drop what has come of it. -/
def State.freeRoom (s : State) (dsts : List Nat) : State := s.sendMoves dsts fun o => [mapMsg o 6 (leBytes 8 s.rank)]

/-- MIGRATE at its turn: its destinations are asked for room first, and until they have answered it stands where it is (07 R178). -/
def State.turnMigrate (s : State) (a : Act) : State :=
  match s.migrateCheck (migRecs a.payload) with
  | some x => (s.takeOff a).refuseAct a x
  | none =>
    let rs := s.moving a.payload
    if rs = [] then (s.takeOff a).startRunning.appliedAct a [] 0
    else
      State.sendMoves { s with st := { s.st with
        reserving := some a
        reserveWait := (destinations rs).flatMap fun o => (roomMsgs rs o).map fun _ => o
        reserveBad := false } } (destinations rs) (roomMsgs rs)

/-- There is room at every destination: the rows go there, and this module keeps its own until all members have installed the new map entries (07 R179,
R180). -/
def State.startMoves (s : State) (a : Act) : State :=
  let rs := s.moving a.payload
  let s := (s.takeOff a).startRunning
  State.sendMoves { s with st := { s.st with
    windowOpen := true
    applied := s.st.applied ++ [{ a with
      waitAck := true
      info := rs.length }]
    moveWait := destinations rs } } (destinations rs) (s.rowMsgs false rs)

/-- Every destination has mirrored its rows: every member is to install the map entries (07 R179). -/
def State.sendEntries (s : State) : State :=
  match s.st.applied.find? fun a => a.kind == 2 && a.waitAck with
  | none => s
  | some a =>
    let rs := s.moving a.payload
    State.tellSpareAll (State.sendMoves { s with st := { s.st with installWait := s.others } } s.others (entryMsgs rs)) (mapMsgs s.spareRank 0 rs)

/-- The first free place of a table's migration area. -/
def State.freeMigSlot (s : State) (t : Nat) : Nat :=
  let used := (s.st.migSlots.filter fun e => keyTable e.1 == t).map (·.2)
  ((List.range (used.length + 1)).find? fun j => !used.contains j).getD 0

/-- Where an arriving row is to lie: a row that comes home takes the slot it had, any other a free place of the migration area, with the slot
that the place's directory entry names: the place's own, until a TABLE_REPLACE has exchanged it for a shadow slot (07 R184). -/
def State.placeRow (s : State) (r : MigRec) : State × Nat :=
  let k := rowKey r.table r.row
  let t : State := if s.mach.rank = some (s.home r.table r.row) then s
    else { s with st := { s.st with migSlots := s.st.migSlots.put k (s.freeMigSlot r.table) } }
  (t, t.slotOf r.table r.row)

/-- There is room in the migration area for the rows of a list that do not come home, beside those that lie there and those for which room is kept
(07 R178). -/
def State.roomFor (s : State) (rs : List MigRec) : Bool :=
  let away := fun (k : Nat) => decide (s.home (keyTable k) (keyRow k) ≠ s.rank)
  rs.all fun r => (s.table r.table).elim false fun t => decide (
    (s.st.migSlots.filter fun e => keyTable e.1 == r.table).length + (s.st.reserved.filter fun e => keyTable e.2 == r.table && away e.2).length +
    (rs.filter fun x => x.table == r.table && away (rowKey x.table x.row)).length ≤ t.migArea)

/-- A destination keeps room for rows of another owner, if it has it, and says so. -/
def State.keepRoom (s : State) (src : Nat) (rs : List MigRec) : State :=
  let ok := s.roomFor rs
  let t := if ok then { s with st := { s.st with reserved := s.st.reserved ++ rs.map fun r => (src, rowKey r.table r.row) } } else s
  t.send { mapMsg src 5 (leBytes 8 ok.toNat) with resp := true }

/-- An arriving row's state put in place. -/
def State.takeRow (s : State) (t : TableDecl) (r : MigRec) (b : List Byte) : State :=
  let k := rowKey r.table r.row
  let p : State × Nat := s.placeRow r
  let s : State := p.1
  let n := tabRowBytes t
  let s := (s.setDir r.table r.row p.2 (field b 0 2)).write p.2 (slice b 142 n)
  let m := s.masterOf r.table r.row
  let o := s.momentsOf r.table r.row
  let s := if t.train then (s.write m.base (slice b (142 + n) m.len)).write o.base (slice b (142 + n + m.len) o.len) else s
  let at_ := 142 + n + (if t.train then m.len + o.len else 0)
  let scales := if t.gradBs8 then (List.range (ceilDiv t.width 32)).filterMap fun i =>
      let v := field b (at_ + 2 * i) 2
      if v < 0x100 then some (rowScaleKey k i, v) else none
    else []
  let log := (List.range 64).map fun i => nth [] s.st.winLog i ++ List.replicate (field b (14 + 2 * i) 2) k
  { s with st := { s.st with
    win := s.st.win.set 0 k (field b 2 4)
    optSteps := s.st.optSteps.set 0 k (field b 6 8)
    winLog := log
    agreed := scales.foldl (fun m e => m.put e.1 e.2) s.st.agreed
    eddy := s.st.eddy.erase k
    arrived := k :: s.st.arrived } }

/-- A map entry of another owner's MIGRATE installed, once, with the owner that the map named before. A spare is told of it by every active module of
its sled. -/
def State.install (s : State) (r : MigRec) : State :=
  let k := rowKey r.table r.row
  if s.st.installed.any fun e => e.1 == k && e.2.2 == r.dst then s
  else State.installEntry { s with st := { s.st with installed := s.st.installed ++ [(k, s.rowOwner r.table r.row, r.dst)] } } r

/-- The ranges of the rows that came from an old owner in this window. -/
def State.arrivedFrom (s : State) (old : Nat) : List Region :=
  (s.st.landed.filter fun e => e.2 == old).flatMap fun e =>
    (s.table (keyTable e.1)).elim [] fun t => s.rowRegions t (keyTable e.1) (keyRow e.1)

/-- A row that arrives. When all for which room was kept are in, they are mirrored, and their old owner hears of it (07 R179). -/
def State.landRow (s : State) (src : Nat) (r : MigRec) (b : List Byte) : State :=
  match s.table r.table with
  | none => s
  | some t =>
    let k := rowKey r.table r.row
    let s : State := s.takeRow t r b
    let s := { s with st := { s.st with
      landed := s.st.landed ++ [(k, src)]
      reserved := s.st.reserved.erase (src, k) } }
    if s.st.reserved.any fun e => e.1 == src then s
    else State.copyBoundary { s with st := { s.st with owedMoves := s.st.owedMoves ++ [src] } } (s.arrivedFrom src) []

/-- Incomplete migrations of a list of owners undone here: no room is kept for them, rows that have arrived are dropped, and map entries removed (11
R289). -/
def State.undoFrom (s : State) (owners : List Nat) : State :=
  let here := s.st.landed.filter fun e => owners.contains e.2
  let gone := s.st.installed.filter fun e => owners.contains e.2.1
  let s : State := here.foldl (fun s e => s.forgetRow e.1) s
  let s : State := gone.foldl (fun s e => { s with st := { s.st with migMap := s.mapWith s.st.migMap e.1 e.2.1 } }) s
  { s with st := { s.st with
    arrived := s.st.arrived.filter fun k => !here.any fun e => e.1 == k
    landed := s.st.landed.filter fun e => !owners.contains e.2
    reserved := s.st.reserved.filter fun e => !owners.contains e.1
    installed := s.st.installed.filter fun e => !owners.contains e.2.1
    moves := s.st.moves.filter fun x => !owners.contains x.1
    owed := s.st.owed.filter fun o => !owners.contains o
    owedMoves := s.st.owedMoves.filter fun o => !owners.contains o } }

/-- A refresh record: row, table, VERSION, the row padded to a multiple of 8 (log entry 46). -/
def refreshRecord (k : Nat) (v : List Byte) : List Byte :=
  leBytes 5 (keyRow k) ++ leBytes 1 (keyTable k) ++ v.take 2 ++ fit (roundUp (v.length - 2) 8) (v.drop 2)

/-- The refresh batch toward one member: how many rows are dropped, then those rows, then the records; there is one with or without a record. -/
def State.refreshMsgs (s : State) (o : Nat) (drop : List Nat) (recs : List (List Byte)) : List Msg :=
  let parts := packReplies ((drop.map fun k => lookupRecord k false) ++ recs)
  (List.range parts.length).map fun i =>
    mkMsg 5 1 10 o (batchHeader s.st.stepNo 0 0 false drop.length ++ nth [] parts i) true (i + 1 == parts.length)

/-- Replicas sent to a list of members, each of which is to acknowledge. -/
def State.sendRefresh (s : State) (dsts drop keys : List Nat) : State :=
  let recs := keys.map fun k => refreshRecord k (s.replicaValue k)
  let t : State := dsts.foldl (fun t o => t.sendMsgs (t.refreshMsgs o drop recs)) s
  State.count { t with st := { t.st with eddyAcks := t.st.eddyAcks ++ dsts.map fun o => (o, 1) } } cEddyRefreshRows (keys.length * dsts.length)

/-- The refresh of this module's replicated rows: those no longer selected are dropped, and those new or changed are sent. -/
def State.refreshEddy (s : State) : State :=
  let sel := s.hotRows
  let drop := (s.st.eddySent.map (·.1)).filter fun k => !sel.contains k
  let send := sel.filter fun k => s.st.eddySent.find k != some (s.replicaValue k)
  let t := s.sendRefresh s.others drop send
  { t with st := { t.st with eddySent := sel.foldl (fun m k => NMap.put m k (s.replicaValue k)) (t.st.eddySent.filter fun e => sel.contains e.1) } }

/-- A MIGRATE of another owner is installed here once as many of its map entries are in as it moves rows: where this module's window is over for now
its refresh takes in the rows it has gained. -/
def State.tryInstalled (s : State) (old : Nat) : State :=
  let n := (s.st.installed.filter fun e => e.2.1 == old).length
  if s.st.moves.contains (old, n) then
    let t := { s with st := { s.st with
      moves := s.st.moves.erase (old, n)
      owed := s.st.owed ++ [old] } }
    let t := if (t.st.landed.any fun e => e.2 == old) && !t.st.windowOpen then t.refreshEddy else t
    t.finishCopies
  else s

/-- Every member has installed the map entries: this module's holders drop the rows, and with their acknowledgements the MIGRATE completes and the
rows leave this module (07 R179, R180, 11 R278). -/
def State.endMigrate (s : State) : State :=
  match s.st.applied.find? fun a => a.kind == 2 && a.waitAck with
  | none => s
  | some a =>
    let rs := s.moving a.payload
    s.copyWith (s.leaveRows rs).carriedBytes [] [(a.ring, rs.length, s.st.stepNo)]

/-- A map-install message of an old owner acted on (07 R178, R179). -/
def State.installMap (s : State) (m : Msg) : State :=
  let b := m.body.drop 16
  match field m.body 8 8 with
  | 0 => ((migRecs b).foldl State.install s).tryInstalled m.src
  | 3 => State.tryInstalled { s with st := { s.st with moves := s.st.moves ++ [(m.src, field b 0 8)] } } m.src
  | 4 => s.keepRoom m.src (migRecs b)
  | 6 => s.undoFrom [field b 0 8]
  | _ =>
    let done := (migRecs b).map fun r => rowKey r.table r.row
    { s with st := { s.st with
      installed := s.st.installed.filter fun e => !done.contains e.1
      landed := s.st.landed.filter fun e => !done.contains e.1 } }

/-! ### Actions at their turn (01 R29) -//-! ### Actions at their turn (01 R29) -/

/-- The next action due: the lowest ring, and within a ring the earliest submitted. -/
def State.nextAct (s : State) : Option Act :=
  (s.st.acts.filter s.dueAct).foldl (fun b a =>
    match b with
    | none => some a
    | some x => if a.ring < x.ring then some a else some x) none

/-- An action at its turn. One that is refused changes nothing, the module's state included (00 R6). -/
def State.turn (s : State) (a : Act) : State :=
  match a.kind with
  | 1 => (s.takeOff a).turnIngest a
  | 2 => s.turnMigrate a
  | _ => (s.takeOff a).turnReplace a

/-- Due actions in order, until one has to wait for room at another member, for acknowledgements or for the draws of an EVAL. -/
def State.applyDue (s : State) : Nat → State
  | 0 => s
  | n + 1 =>
    if s.st.applied.any (·.waitAck) || s.st.reserving.isSome then s
    else
      match s.nextAct with
      | none => s
      | some a => if a.kind == 1 && s.evalDraws then s else State.applyDue (s.turn a) n

/-! ### Answers of other members to a MIGRATE (07 R178, R179) -/

/-- A destination has answered for its room. When all have, the rows move; without room at one, or with the boundary left meanwhile for a replay, no
room is kept anywhere, and in the first case the MIGRATE has no effect. -/
def State.roomAnswered (s : State) (src : Nat) (ok : Bool) : State :=
  match s.st.reserving with
  | none => s
  | some a =>
    if !s.st.reserveWait.contains src then s
    else
      let t := { s with st := { s.st with
        reserveWait := s.st.reserveWait.erase src
        reserveBad := s.st.reserveBad || !ok } }
      if t.st.reserveWait ≠ [] then t
      else
        let u := { t with st := { t.st with reserving := none } }
        let dsts := destinations (u.moving a.payload)
        if !u.atBoundary then u.freeRoom dsts
        else if u.st.reserveBad then
          let v := ((u.freeRoom dsts).takeOff a).refuseAct a .resourceShort
          (v.applyDue v.st.acts.length).tryBegin
        else u.startMoves a

/-- A member's answer acted on. -/
def State.moveAnswered (s : State) (m : Msg) : State :=
  match field m.body 8 8 with
  | 5 => s.roomAnswered m.src (field m.body 16 8 == 1)
  | 7 =>
    if s.st.moveWait.contains m.src then
      let t := { s with st := { s.st with moveWait := s.st.moveWait.filter (· != m.src) } }
      if t.st.moveWait = [] then t.sendEntries else t
    else s
  | _ =>
    if s.st.installWait.contains m.src then
      let t := { s with st := { s.st with installWait := s.st.installWait.filter (· != m.src) } }
      if t.st.installWait = [] then t.endMigrate else t
    else s

/-- MIGRATE_MAP_INSTALL: the requests for room, rows and map entries of a migration, its completion or undoing, and a member's answers (07 R178,
R179). Rows wait until this module has reached the boundary; one for which no room is kept belongs to a migration that has been undone. The spare of
the sled is told of map entries, of completions and of what is undone. -/
def migrateMapInstall (m : Msg) (s : State) : State :=
  if !(s.member && s.prog.isSome) then s
  else if m.typ == 5 && m.opc == 2 && m.vc == 10 then
    if !(s.st.run.elim true fun r => r.phase == .waitStart) then s
    else
      let rolled := field m.body 5 1 == 1
      (migRecs (slice m.body 16 8)).foldl (fun s r =>
        if rolled || s.st.reserved.contains (m.src, rowKey r.table r.row) then s.landRow m.src r (m.body.drop 24) else s) (s.took m)
  else if m.typ == 1 && m.opc == 5 && m.vc == 0 then
    let s := s.took m
    if m.resp then s.moveAnswered m
    else if field m.body 8 8 = 3 || field m.body 8 8 = 4 then s.installMap m
    else (s.tellSpare m).installMap m
  else s

/-- No step is in progress and no STEP is queued (01 R30). -/
def State.idleBoundary (s : State) : Bool :=
  s.st.run.isNone && s.st.waiting.isEmpty && !s.st.windowOpen && !s.st.windowShut && s.host.rings.all fun e => e.2.queue.all fun d => descOp d != 0x04

/-- At an idle boundary an action applies at once. -/
def State.applyIdle (s : State) : State :=
  if s.idleBoundary then s.applyDue s.st.acts.length else s

/-- An action taken up at dequeue: refused if its boundary has passed, otherwise pending until its boundary. -/
def State.queueAct (s : State) (d : List Byte) (a : Act) : State :=
  if descPin d && decide (descStepno d < s.nextBoundary) then s.complete a.ring { status := .stateInvalid }
  else
    let pin := if descPin d then some (descStepno d) else if s.st.windowShut then some (s.st.stepNo + 1) else none
    State.applyIdle { s with st := { s.st with acts := s.st.acts ++ [{ a with pin := pin }] } }

/-- INGEST at dequeue. -/
def ingest (ring : Nat) (host : List Byte) (s : State) : State :=
  s.command ring 0x06 (fun _ => true) fun s d =>
    match s.readBuffer (field d 16 8) (32 * field d 24 4) host with
    | .error x => s.complete ring { status := x }
    | .ok b => s.queueAct d { Act.blank ring 1 d with payload := b }

/-- MIGRATE at dequeue. -/
def migrate (ring : Nat) (host : List Byte) (s : State) : State :=
  s.command ring 0x08 (fun _ => true) fun s d =>
    match s.readBuffer (field d 16 8) (8 * field d 24 4) host with
    | .error x => s.complete ring { status := x }
    | .ok b => s.queueAct d { Act.blank ring 2 d with payload := b }

/-- TABLE_REPLACE at dequeue: checks 1 to 3 of 07 R181, then staging (R183). -/
def tableReplace (ring : Nat) (s : State) : State :=
  s.command ring 0x07 (fun _ => true) fun s d =>
    let tab := field d 16 1
    let first := field d 24 5
    let count := field d 32 4
    match s.table tab with
    | none => s.complete ring { status := .formatInvalid }
    | some t =>
      let rows := if t.sharded then s.replaceRows tab first count else (List.range count).map fun i => first + i
      let src := field d 40 8
      let n := rows.length * tabRowBytes t
      let place := s.placeOfRange (bufDa src) n
      if !(decide (first + count ≤ t.rows) && bufSpace src == 0 && (place == .hbm || place == .dram)) then
        s.complete ring { status := .indexRange }
      else if (t.sharded && decide (t.shadow < rows.length)) || (!t.sharded && !(s.prog.elim false fun p => p.place.localTabs.any fun e => e.1 == tab)) then
        s.complete ring { status := .resourceShort }
      else
        let a := { Act.blank ring 3 d with
          payload := replaceHead tab first count ++ (if t.sharded then s.read (bufDa src) n else [])
          src := bufDa src
          table := tab
          first := first
          count := count
          staged := if t.sharded then rows.map fun r => (r, 0) else [] }
        if descPin d && decide (descStepno d < s.nextBoundary) then s.complete ring { status := .stateInvalid }
        else
          let r : Act × State := if t.sharded then s.stageAct a else (a, s)
          r.2.queueAct d r.1

/-! ### Compaction and the Eddy refresh (01 R29) -/

/-- Relocations that may still start at this boundary: at least one whatever the budget, none once it is spent and one has been made. -/
def State.relocations (s : State) (n : Nat) : Nat := if s.st.budgetSpent then (if s.st.compacted then 0 else 1) else max 1 n

/-- Background compaction at this boundary; relocated runs follow on the mirror (log entry 45). -/
def State.compactNow (s : State) (n : Nat) : State :=
  match s.decl with
  | none => s
  | some d =>
    let r : State × List Nat := s.compact d (ownedNodes d s.ranks s.rank) (s.relocations n)
    if r.2 = [] then r.1
    else State.copyBoundary { r.1 with st := { r.1.st with compacted := true } } (r.2.flatMap r.1.nodeRegions) []

/-- BOUNDARY_WINDOW: the due actions, then compaction with at most `relocations` runs, then the Eddy refresh, then the release of the
step-start barrier. It stops where it must wait, and goes on when it is commanded again. -/
def boundaryWindow (relocations : Nat) (s : State) : State :=
  if !(s.member && s.prog.isSome && s.atBoundary) then s
  else
    let s := s.applyDue s.st.acts.length
    if s.st.applied.any (·.waitAck) || s.st.acts.any s.dueAct then s
    else if s.st.windowOpen then
      if s.evalDraws then s
      else
        let s := (s.compactNow relocations).refreshEddy
        State.tryBegin { s with st := { s.st with windowOpen := false } }
    else s.tryBegin

/-- COMPACTION_BUDGET_EXPIRED: no further relocation starts at this boundary (06 R135). -/
def compactionBudgetExpired (s : State) : State :=
  if s.member && s.prog.isSome && s.atBoundary then { s with st := { s.st with budgetSpent := true } } else s

/-! ### Eddy's side (07 R172) -/

/-- Refresh records written, each replica whole before it is marked present. -/
def State.takeRefresh (s : State) (src : Nat) : Nat → List Byte → State
  | 0, _ => s
  | fuel + 1, b =>
    if b.length < 8 then s
    else
      let k := rowKey (field b 5 1) (field b 0 5)
      match s.table (field b 5 1) with
      | none => s
      | some t =>
        let n := tabRowBytes t
        let r : Replica := {
          src := src
          bytes := slice b 8 n
          version := field b 6 2
          present := true }
        State.takeRefresh { s with st := { s.st with eddy := s.st.eddy.put k r } } src fuel (b.drop (8 + roundUp n 8))

/-- Replicas dropped as their owner no longer selects them. -/
def State.dropRows (s : State) (recs : List (List Byte)) : State :=
  recs.foldl (fun s r =>
    let k := rowKey (field r 5 1) (field r 0 5)
    if (s.st.eddy.find k).isSome then State.count { s with st := { s.st with eddy := s.st.eddy.erase k } } cEddyDrops 1 else s) s

/-- EDDY_REFRESH_RECORD: when an owner's refresh is whole, its replicas are dropped and written and it is acknowledged, which ends that owner's refresh
here (07 R172). One that belongs to a boundary which this module has not reached waits. -/
def eddyRefreshRecord (m : Msg) (s : State) : State :=
  if !(s.member && s.prog.isSome && m.typ == 5 && m.opc == 1 && m.resp && field m.body 0 4 == s.st.stepNo) then s
  else
    match (s.took m).batchIn m with
    | (none, t) => t
    | (some l, t) =>
      let b := batchBytes l
      let n := field m.body 8 8
      let t := (t.dropRows (groupsOf 8 (b.take (8 * n)))).takeRefresh m.src b.length (b.drop (8 * n))
      State.tryBegin (State.send { t with st := { t.st with
        refreshed := insertOnce m.src t.st.refreshed
        refreshWait := t.st.refreshWait.filter (· != m.src) } } (mkMsg 5 1 10 m.src (m.body.take 16)))

/-- EDDY_REFRESH_ACK: a member has acknowledged; with the last, the barrier of the next step may be released, and old owners hear that their
rows are installed. A spare that has taken a rank asks for a refresh instead (byte 5 of the header 2): every replica goes to it
(11 R281 step 5). -/
def eddyRefreshAck (m : Msg) (s : State) : State :=
  if !(s.member && s.prog.isSome && m.typ == 5 && m.opc == 1 && !m.resp) then s
  else
    let s := s.took m
    if field m.body 5 1 = 2 then s.sendRefresh [m.src] [] (s.st.eddySent.map (·.1))
    else State.finishCopies { s with st := { s.st with eddyAcks := s.st.eddyAcks.erase (m.src, 1) } }

/-- INGEST (06 R137). -/
def execIngest (ring : Nat) (host : List Byte) (s : State) : Host.Outcome State Fault Refusal := .next (ingest ring host s)
/-- TABLE_REPLACE (07 R181). -/
def execTableReplace (ring : Nat) (s : State) : Host.Outcome State Fault Refusal := .next (tableReplace ring s)
/-- MIGRATE (07 R178). -/
def execMigrate (ring : Nat) (host : List Byte) (s : State) : Host.Outcome State Fault Refusal := .next (migrate ring host s)
/-- MIGRATE_MAP_INSTALL (07 R179). -/
def execMigrateMapInstall (m : Msg) (s : State) : Host.Outcome State Fault Refusal := .next (migrateMapInstall m s)
/-- BOUNDARY_WINDOW (01 R29). -/
def execBoundaryWindow (relocations : Nat) (s : State) : Host.Outcome State Fault Refusal := .next (boundaryWindow relocations s)
/-- COMPACTION_BUDGET_EXPIRED (06 R135). -/
def execCompactionBudgetExpired (s : State) : Host.Outcome State Fault Refusal := .next (compactionBudgetExpired s)
/-- EDDY_REFRESH_RECORD (07 R172). -/
def execEddyRefreshRecord (m : Msg) (s : State) : Host.Outcome State Fault Refusal := .next (eddyRefreshRecord m s)
/-- EDDY_REFRESH_ACK (07 R172). -/
def execEddyRefreshAck (m : Msg) (s : State) : Host.Outcome State Fault Refusal := .next (eddyRefreshAck m s)

end Sys2Proof.Machine
end

