-- ==== Sys2Proof/Machine/Record.lean ====
section
/-! DEFINITION. The retention ring (12 R307-R309): records built, written and read, its directory, and the sections of a record applied
(12 R311). -/

namespace Sys2Proof.Machine

open Sys2Proof

/-! ### The ring and its directory (12 R307, R308) -/

/-- The address of ring slot `i`. -/
def State.recSlot (s : State) (i : Nat) : Nat := s.prog.elim 0 fun p => p.place.ring.base + i * recSize p.decl

/-- The address of directory entry `i`. -/
def State.recEntry (s : State) (i : Nat) : Nat := s.prog.elim 0 fun p => p.place.ringDir + 32 * i

/-- Records that the ring can hold. -/
def State.ringLen (s : State) : Nat := s.decl.elim 0 ringRecords

/-- The slots whose entry is VALID, ascending, with their STEP. -/
def State.validSlots (s : State) : List (Nat × Nat) :=
  (List.range s.ringLen).filterMap fun i =>
    if s.readNat (s.recEntry i + 4) 1 = 0 then none else some (i, s.readNat (s.recEntry i) 4)

/-- VALID of an entry set or cleared. Flash takes whole aligned units of 64 KiB (08 R206): the rest of the entry's unit is written as it was. -/
def State.setValid (s : State) (i : Nat) (v : Bool) : State := s.write (s.recEntry i + 4) [if v then 1 else 0]

/-- The slots of the records from a step on, those still on their way to flash among them, with their STEP. -/
def State.slotsFrom (s : State) (step : Nat) : List (Nat × Nat) :=
  (s.validSlots ++ s.st.retPending.map fun x => (x.2, x.1)).filter fun x => decide (step ≤ x.2)

/-- Every record from a step on invalidated (12 R308); the earliest one's slot is the ring's head again. -/
def State.trimRecords (s : State) (step : Nat) : State :=
  let gone := s.slotsFrom step
  let first := gone.foldl (fun (b : Option (Nat × Nat)) x => if b.elim true fun y => decide (x.2 < y.2) then some x else b) none
  let t := gone.foldl (fun s x => s.setValid x.1 false) s
  { t with st := { t.st with
    retPending := t.st.retPending.filter fun x => decide (x.1 < step)
    retHead := first.elim t.st.retHead (·.1) } }

/-- A directory entry, not yet VALID. -/
def recEntryBytes (step addr len sum : Nat) : List Byte := leBytes 4 step ++ zeros 4 ++ leBytes 8 addr ++ leBytes 8 len ++ leBytes 8 sum

/-- A record stored at the ring's head; its entry becomes VALID when the record is complete in flash (01 R25). Records still pending stay so,
but for one whose slot this record takes. Flash takes whole aligned units of 64 KiB (08 R206): a slot starts on one, and what follows the record in its
last unit, like the rest of the entry's, is written as it was. -/
def State.storeRecord (s : State) (step : Nat) (b : List Byte) : State :=
  let i := s.st.retHead
  let a := s.recSlot i
  let t := (s.write a b).write (s.recEntry i) (recEntryBytes step a b.length (field b 104 8))
  { t with st := { t.st with
    retHead := (i + 1) % max 1 s.ringLen
    retPending := (t.st.retPending.filter fun x => x.2 != i) ++ [(step, i)] } }

/-! ### Records (12 R302, R309) -/

/-- The generator section. -/
def State.generatorSection (s : State) : List Byte :=
  leBytes 8 (s.prog.elim 0 (·.seed.toNat)) ++ leBytes 4 s.st.stepNo ++ leBytes 2 (s.decl.elim 0 (·.streams.length)) ++ zeros 2 ++
  fit 512 (s.st.offsets.flatMap (leBytes 8))

/-- Bytes padded with zeros to a multiple of 16. -/
def pad16 (b : List Byte) : List Byte := fit (roundUp b.length 16) b

/-- The boundary section: each applied action with its kind, tag and payload. -/
def boundarySection (acts : List Act) : List Byte :=
  acts.flatMap fun a => leBytes 8 a.kind ++ leBytes 8 a.tag ++ leBytes 8 a.payload.length ++ a.payload

/-- Runs of the image cut by region: region, offset in it, bytes. -/
def runPieces : List Region → Nat → Nat → Nat × List Byte → List (Nat × Nat × List Byte)
  | [], _, _, _ => []
  | r :: t, i, at_, x =>
    let lo := max at_ x.1
    let hi := min (at_ + r.len) (x.1 + x.2.length)
    (if lo < hi then [(i, lo - at_, slice x.2 (lo - x.1) (hi - lo))] else []) ++ runPieces t (i + 1) (at_ + r.len) x

/-- The delta section: each run with its region, length and offset (log entry 48). -/
def deltaSection (rs : List Region) (runs : List (Nat × List Byte)) : List Byte :=
  (runs.flatMap (runPieces rs 0 0)).flatMap fun p => leBytes 4 p.1 ++ leBytes 4 p.2.2.length ++ leBytes 8 p.2.1 ++ p.2.2

/-- Ledger entries of the step: T × S. -/
def State.ledgerEntries (s : State) (r : StepRun) : Nat := r.targets.length * (s.spec r.spec).elim 0 fun sp => slotCount (fanouts sp)

/-- The record of the step that has ended with a status, its values as of the step's start still in place. -/
def State.recordOf (s : State) (r : StepRun) (status : Status) (deltas : List Byte) : List Byte :=
  let n := s.ledgerEntries r
  let boundary := boundarySection s.st.applied
  let targets := r.rawTargets
  let ledger := s.prog.elim [] fun p => s.read p.place.ledger (16 * n)
  let attrs := s.prog.elim [] fun p => s.read p.place.attrs (8 * n)
  let body := s.generatorSection ++ pad16 targets ++ pad16 boundary ++ pad16 ledger ++ pad16 attrs ++ pad16 deltas
  leBytes 4 s.st.stepNo ++ leBytes 1 status.code ++ leBytes 1 r.replays ++ leBytes 2 s.rank ++ leBytes 8 r.epoch ++
  leBytes 8 (s.prog.elim 0 (·.seed.toNat)) ++ digestBytes (s.prog.elim 0 (·.hash)) ++ leBytes 8 targets.length ++ leBytes 8 boundary.length ++
  leBytes 8 ledger.length ++ leBytes 8 attrs.length ++ leBytes 8 deltas.length ++ leBytes 8 (checksum deltas) ++ leBytes 8 (checksum body) ++
  leBytes 4 r.spec ++ zeros 12 ++ body

/-! ### Records read -/

/-- A record's place and the lengths of its sections. -/
structure RecView where
  addr : Nat
  step : Nat
  rank : Nat
  epoch : Nat
  seed : Nat
  hash : W256
  targets : Nat
  boundary : Nat
  ledger : Nat
  attrs : Nat
  deltas : Nat
  deltaSum : Nat
  sum : Nat
  spec : Nat
  deriving DecidableEq, Repr, Inhabited

/-- The record at an address. -/
def State.recAt (s : State) (a : Nat) : RecView :=
  let b := s.read a 128
  {
    addr := a
    step := field b 0 4
    rank := bits (field b 6 2) 0 13
    epoch := field b 8 8
    seed := field b 16 8
    hash := digestOf (slice b 24 32)
    targets := field b 56 8
    boundary := field b 64 8
    ledger := field b 72 8
    attrs := field b 80 8
    deltas := field b 88 8
    deltaSum := field b 96 8
    sum := field b 104 8
    spec := bits (field b 112 4) 0 4 }

/-- Where section `i` of a record starts: 0 generator, 1 targets, 2 boundary, 3 Ledger, 4 attributes, 5 deltas, 6 the end. -/
def RecView.start (r : RecView) (i : Nat) : Nat :=
  r.addr + 128 + (([528, roundUp r.targets 16, roundUp r.boundary 16, roundUp r.ledger 16, roundUp r.attrs 16, roundUp r.deltas 16].take i).sum)

/-- RECORD_CKSUM agrees with the sections as read. -/
def State.recSumOk (s : State) (r : RecView) : Bool := checksum (s.read (r.start 0) (r.start 6 - r.start 0)) == r.sum

/-- The actions of a boundary section. -/
def boundaryActs : Nat → List Byte → List Act
  | 0, _ => []
  | fuel + 1, b =>
    if b.length < 24 ∨ field b 0 8 = 0 then []
    else
      let n := field b 16 8
      { (Act.blank 0 (field b 0 8) []) with
        tag := field b 8 8
        payload := slice b 24 n } :: boundaryActs fuel (b.drop (24 + n))

/-- A recorded action applied again, with the ranges that change (12 R311): nothing completes, and a migration's rows and map entries go out
without a wait (log entry 49). -/
def State.reapply (s : State) (a : Act) : State × List Region :=
  match a.kind with
  | 1 =>
    match s.applyIngest a.payload with
    | .ok r => r
    | .error _ => (s, [])
  | 2 =>
    let rs := s.moving a.payload
    let t := s.sendMoves s.others fun o => s.rowMsgs true rs o ++ entryMsgs rs o ++ mapMsgs o 2 rs
    (State.count (t.leaveRows rs) cMigrateRows rs.length, [])
  | _ =>
    let tab := field a.payload 0 4
    match s.table tab with
    | none => (s, [])
    | some t =>
      let rows := s.replaceRows tab (field a.payload 8 8) (field a.payload 4 4)
      let act := { a with
        table := tab
        count := field a.payload 4 4
        first := field a.payload 8 8
        staged := if t.sharded then rows.map fun r => (r, 0) else [] }
      let x : Act × State := if t.sharded then s.stageAct act else (act, s)
      x.2.putRows x.1 t

/-- A boundary section applied in order: the actions count as applied at that boundary (12 R311). -/
def State.applyBoundary (s : State) (r : RecView) : State × List Region :=
  (boundaryActs r.boundary (s.read (r.start 2) r.boundary)).foldl (fun (x : State × List Region) a =>
    let y : State × List Region := x.1.reapply a
    ({ y.1 with st := { y.1.st with applied := y.1.st.applied ++ [a] } }, x.2 ++ y.2)) (s, [])

/-- The runs of a delta section written to the image's regions, with the ranges written. -/
def State.applyDeltas (s : State) (rs : List Region) : Nat → List Byte → State × List Region
  | 0, _ => (s, [])
  | fuel + 1, b =>
    if b.length < 16 then (s, [])
    else
      let n := field b 4 4
      match rs[field b 0 4]? with
      | none => (s, [])
      | some r =>
        let a := r.base + field b 8 8
        let x := State.applyDeltas (s.write a (slice b 16 n)) rs fuel (b.drop (16 + n))
        (x.1, { base := a, len := n } :: x.2)

/-- RETENTION_RECORD_WRITTEN: the record is complete in flash, its entry is VALID, and a delayed PREPARED goes on (01 R25). `bad` are the flash
blocks after one that failed has been retired (08 R208). -/
def retentionRecordWritten (step : Nat) (bad : Option FlashBlocks) (s : State) : State :=
  if s.live && s.prog.isSome then
    match s.st.retPending.find? fun x => x.1 == step with
    | none => s
    | some x =>
      let t := s.setValid x.2 true
      (State.tryPrepared { t with st := { t.st with retPending := t.st.retPending.filter fun y => y.1 != step } }).badBlocks bad
  else s

/-- RETENTION_RECORD_WRITTEN (01 R25). -/
def execRetentionRecordWritten (x : RecordDone) (s : State) : Host.Outcome State Fault Refusal :=
  .next (retentionRecordWritten x.step x.bad s)

end Sys2Proof.Machine
end

