-- ==== Sys2Proof/Machine/StepFlow.lean ====
section
/-! DEFINITION. A step on this module (01 R11-R28): STEP at dequeue, the start of Sample, the ends of the phases, the finite AND, the commit
point and SKIPPED_NONFINITE, with the barriers that carry them. -/

namespace Sys2Proof.Machine

open Sys2Proof

/-! ### STEP at dequeue (01 R16, 11 R273) -/

/-- ATTEMPT of a STEP taken up now: 0, or after attempts of the same step number the next value. -/
def State.nextAttempt (s : State) : Nat :=
  match s.st.lastAttempt with
  | some (n, a) => if n = s.st.stepNo then (a + 1) % 256 else 0
  | none => 0

/-- A step of a ring that waits at the step-start barrier. On a spare that has taken a rank over, the interrupted step has the replays behind
it that the other members count (11 R291; log entry 58). -/
def State.newRun (s : State) (ring spec : Nat) (list : List Byte) (source : Option Status) : StepRun where
  ring := ring
  exec := false
  spec := spec
  targets := targetsOf list
  rawTargets := list
  source := source
  phase := .waitStart
  attempt := s.nextAttempt
  replays := if s.st.lastAttempt.elim false fun x => x.1 == s.st.stepNo then s.st.owedReplays else 0
  hop := 0
  fault := none
  rescaled := false
  epoch := s.st.epoch
  record := none
  captures := []
  prior := none

/-- A step taken up. -/
def State.takeStep (s : State) (r : StepRun) : State :=
  State.tryBegin (State.startRunning { s with
    st := { s.st with run := some r }
    recov := { s.recov with replays := r.replays } })

/-- The STEP of a ring whose predecessors have ended starts, if the step number is the one it names (13 R343) and lies below the last (01 R16). -/
def State.startStep (s : State) (w : WaitingStep) : State :=
  match (s.ring w.ring).busy with
  | none => s
  | some (_, d) =>
    if s.recov.fallback then s.complete w.ring { status := .peerLost }
    else if s.st.stepNo = 0xFFFFFFFF ∨ (descPin d = true ∧ descStepno d ≠ s.st.stepNo) then
      s.complete w.ring { status := .stateInvalid, step := s.st.stepNo }
    else s.takeStep (s.newRun w.ring (bits (field d 28 1) 0 4) w.bytes w.source)

/-- STEPs that wait start in the order they were dequeued, until one is in progress (13 R332). -/
def State.nextSteps (s : State) : Nat → State
  | 0 => s
  | n + 1 =>
    match s.st.run, s.st.waiting with
    | none, w :: t => (State.startStep { s with st := { s.st with waiting := t } } w).nextSteps n
    | _, _ => s

/-- The STEPs behind one that has ended. -/
def State.followOn (s : State) : State := s.nextSteps s.st.waiting.length

/-- STEP. It starts once its predecessors have ended (13 R332; log entry 122). The list's bytes are those at dequeue; one out of place is a content
fault when the step judges its targets (08 R187), and one on an unreadable flash page fails every attempt there (08 R207). -/
def runStep (ring : Nat) (host : List Byte) (s : State) : State :=
  s.command ring 0x04 (fun _ => true) fun s d =>
    let list := s.readBuffer (field d 16 8) (16 * field d 24 4) host
    let w : WaitingStep := {
      ring := ring
      bytes := list.toOption.getD []
      source := match list with
        | .ok _ => none
        | .error x => some x }
    State.followOn { s with st := { s.st with waiting := s.st.waiting ++ [w] } }

/-! ### Phases (01 R11) -/

/-- Exchanges of the step forgotten; those of EVALs stay. -/
def State.clearExchange (s : State) : State :=
  { s with ex := { Exchange.reset with
    lookups := s.ex.lookups.filter (·.eval)
    parts := s.ex.parts.filter fun m => batchEval m.body } }

/-- The exchanges of a step that begins: what other members, which may have been released first, have sent for this attempt stays. -/
def State.openExchange (s : State) : State :=
  let t := s.clearExchange
  { t with ex := { t.ex with
    parts := s.ex.parts.filter fun m => s.batchCurrent m.body
    batchesIn := s.ex.batchesIn } }

/-- A phase begins: its START_ON tasks start with the step number (14 R362), and the watchdog is armed at its wait, that of the layer-slice
exchange in Forward and Backward (01 R12, R14). -/
def State.enterPhase (s : State) (p : Phase) (code : Nat) (w : Option WaitPoint) : State :=
  let t : State := { s with st := { s.st with run := s.st.run.map fun (r : StepRun) => { r with phase := p } } }
  State.startTasks { t with wd := w.or t.layerPoint } code (BitVec.ofNat 32 s.st.stepNo)

/-- One capture record: header, then the rows (12 R313). -/
def State.captureRecord (s : State) (point phase : Nat) (x : RowPlace) : List Byte :=
  let t := (s.prog.bind fun p => p.tensors.find? fun t => t.id == x.tensor).getD default
  let rows := (List.range x.rows).flatMap fun i => s.read (x.addr + i * x.stride) x.rowBytes
  let dims := t.dims
  pad16 (leBytes 2 point ++ leBytes 2 x.tensor ++ leBytes 1 phase ++ leBytes 1 t.fmt ++ leBytes 2 s.rank ++
    leBytes 4 (dims.dropLast.foldl (· * ·) 1) ++ leBytes 4 (dims.getLastD 1) ++ leBytes 8 x.first ++ leBytes 4 x.rows ++ zeros 4 ++ rows)

/-- The capture records of a point. -/
def State.capturesOf (s : State) (point : Nat) : List (List Byte) :=
  match s.prog with
  | none => []
  | some p =>
    match p.decl.capPoints[point]? with
    | none => []
    | some (tensor, phase) => (s.rangesOf tensor).map (s.captureRecord point phase)

/-- The named points of a phase written at their places in the capture area, as the phase ends. -/
def State.capture (s : State) (phase : Nat) : State :=
  match s.st.run with
  | none => s
  | some r =>
    (r.captures.filter fun c => (s.decl.bind fun d => d.capPoints[c.1]?).elim false fun x => x.2 == phase).foldl
      (fun s c => s.write c.2 (s.capturesOf c.1).flatten) s

/-- The Ledger and attribute array of a recorded step put in place (12 R312). -/
def State.recallLedger (s : State) (a : Nat) : State :=
  match s.prog with
  | none => s
  | some p =>
    let r := s.recAt a
    (s.write p.place.ledger (s.read (r.start 3) r.ledger)).write p.place.attrs (s.read (r.start 4) r.attrs)

/-- The start barrier has completed: the boundary window is closed and Sample begins; EXEC takes the recorded Ledger in its place. -/
def State.beginSample (s : State) (v : Nat) : State :=
  match s.st.run with
  | none => s
  | some r =>
    if r.phase != .waitStart then s
    else
      let s := s.closeWindow s.lastStep v
      let s := if r.exec then s else s.trimRecords s.st.stepNo
      let s := if r.replays = 0 then s else s.count cReplays 1
      let r := { r with
        phase := Phase.sample
        hop := 0
        fault := none
        rescaled := false
        epoch := s.st.epoch }
      let s := State.openExchange { s with
        conf := .reset
        wd := some .sampleExchange
        recov := { s.recov with aborting := none }
        st := { s.st with
          run := some r
          arrived := []
          installed := []
          landed := [] } }
      match r.record with
      | some a => ((s.recallLedger a).capture 0).enterPhase .gather 1 (some .gatherExchange)
      | none =>
        match r.source, s.targetFault r.spec r.targets with
        | some .memoryUncorrectable, _ => s.transient 0x01
        | some x, _ | none, some x => s.stepFault x
        | none, none => s.startTasks 0 (BitVec.ofNat 32 s.st.stepNo)

/-- BARRIER_STEP_START. -/
def barrierStepStart (m : Msg) (s : State) : State :=
  match s.barrierIn bStepStart m with
  | (some v, t) => t.beginSample v
  | (none, t) => t

/-- The copy of the owned slices that does not hold the retained values (01 R23). -/
def State.otherEpoch (s : State) : Bool := !s.st.wEpoch

/-- The ranges that the step's commit changes in the image: the other copies of owned slices, and every byte in the undo log. -/
def State.commitRanges (s : State) : List Region :=
  let now := s.imageRegions s.st.wEpoch
  ((s.imageRegions s.otherEpoch).filter fun r => !now.contains r) ++ s.st.undo.map fun e => { base := e.1, len := 1 }

/-- Commit's tasks have ended: the deltas stream to the holders, and PREPARED follows their acknowledgements (01 R19). -/
def State.startMirror (s : State) : State :=
  let s := s.writeUndo s.tailRegion.base s.committedValues.carriedBytes
  let s := s.stream 0 (s.runsOf (s.imageRegions s.otherEpoch) s.commitRanges)
  State.tryPrepared { s with
    st := { s.st with run := s.st.run.map fun r => { r with phase := .mirror } }
    wd := some .commitBarrier }

/-- A phase of the step that the program drives has ended on every logical core. -/
def State.stepPhaseEnd (s : State) : State :=
  match s.st.run with
  | none => s
  | some r =>
    if r.fault.isSome || !s.classIdle false then s
    else
      match r.phase with
      | .sample => if s.sampled then (s.capture 0).enterPhase .gather 1 (some .gatherExchange) else s
      | .gather => if s.gathered then (s.capture 1).enterPhase .forward 2 none else s
      | .forward => if s.layerWaits then s else (s.capture 2).enterPhase .backward 3 none
      | .backward => if s.layerWaits then s else (((s.capture 3).enterPhase .reduce 4 (some .reduction)).sendContributions).reduceCheck
      | .reduce => s.reduceCheck
      | .commit => (s.capture 5).startMirror
      | _ => s

/-- PHASE_END: the phase of the step that has ended gives way to the next; the EVAL on the cores goes on likewise. -/
def phaseEnd (s : State) : State := if s.member && s.prog.isSome then s.stepPhaseEnd.evalPhaseEnd else s

/-! ### Ends of a step (01 R20-R22, R26, R27) -/

/-- The status of a step that has ended with its update or without. -/
def endStatus (r : StepRun) (skipped : Bool) : Status :=
  if r.replays ≠ 0 then .okRecovered else if skipped then .skippedNonfinite else if r.rescaled then .okRescaled else .ok

/-- A step is over: nothing of it waits, and the boundary window opens. -/
def State.closeStep (s : State) : State :=
  State.clearExchange { s.dropWork false with
    wd := none
    conf := .reset
    tier := { s.tier with ueBursts := [] }
    recov := { s.recov with
      aborting := none
      replays := 0
      reports := [] }
    st := { s.st with
      run := none
      undo := []
      lastAttempt := none
      owedReplays := 0
      applied := []
      refreshed := []
      windowOpen := true
      windowShut := false
      windowAsked := s.st.windowReqs.contains s.lastStep
      windowReqs := s.st.windowReqs.filter (· != s.lastStep)
      budgetSpent := false
      compacted := false } }

/-- The record of a step stored, unless it was EXEC. -/
def State.keepRecord (s : State) (r : StepRun) (skipped : Bool) (deltas : List Byte) : State :=
  if r.exec then s else s.storeRecord s.st.stepNo (s.recordOf r (endStatus r skipped) deltas)

/-- EXEC compares its deltas with the record's (12 R312). -/
def State.mismatch (s : State) (r : StepRun) (deltas : List Byte) : Bool :=
  r.record.elim false fun a => checksum deltas != (s.recAt a).deltaSum

/-- The completion of a step that has ended with its update or without. -/
def State.completeStep (s : State) (r : StepRun) (step : Nat) (skipped mism : Bool) : State :=
  let s := if mism then s.count cReplayMismatch 1 else s
  s.complete r.ring {
    status := endStatus r skipped
    info := if r.exec then 1 else r.epoch
    step := step
    replays := r.replays
    skipped := skipped
    rescaled := r.rescaled
    mismatch := mism }

/-- The commit point (01 R20): the epoch pointer flips, the undo log clears, pending deltas of held parts apply, and the step's values become
the committed ones. -/
def State.commitPoint (s : State) : State :=
  match s.st.run with
  | none => s
  | some r =>
    if r.phase != .prepared then s
    else
      let c := s.st.stepNo
      let deltas := deltaSection (s.imageRegions s.otherEpoch) s.mir.out
      let mism := s.mismatch r deltas
      let s := (s.keepRecord r false deltas).committedValues
      let s := { s with st := { s.st with
        wEpoch := if s.slices.any fun x => s.mach.rank == some x.owner then !s.st.wEpoch else s.st.wEpoch
        committed := some c
        completed := some c } }
      (s.applyPending.closeStep.completeStep r c false mism).followOn

/-- The delta section of a skipped step: the committed values that it advances (log entry 52). -/
def State.skippedDeltas (s : State) : List Byte :=
  let t := s.skippedValues.storeCarried
  deltaSection (t.imageRegions t.st.wEpoch) (if t.tailRegion.len = 0 then [] else t.runsOf (t.imageRegions t.st.wEpoch) [t.tailRegion])

/-- SKIPPED_NONFINITE is settled (01 R18, R22): nothing is applied, the step number advances. The values that advance follow on the mirror
and stand in the record (log entry 52). -/
def State.skipPoint (s : State) : State :=
  match s.st.run with
  | none => s
  | some r =>
    let c := s.st.stepNo
    let deltas := s.skippedDeltas
    let mism := s.mismatch r deltas
    let s := (s.keepRecord r true deltas).skippedValues
    let s := State.closeStep { s with st := { s.st with completed := some c } }
    let s := s.completeStep r c true mism
    (if s.tailRegion.len = 0 then s else s.copyBoundary [s.tailRegion] []).followOn

/-- BARRIER_FINITE: set, every owner runs its optimizer; clear, no module applies any update. -/
def barrierFinite (m : Msg) (s : State) : State :=
  match s.barrierIn bFinite m with
  | (some v, t) =>
    if t.st.run.elim false fun r => r.phase == .finite then
      let t := t.capture 4
      if v % 2 = 1 then t.enterPhase .commit 5 none else t.skipPoint
    else t
  | (none, t) => t

/-- BARRIER_COMMIT: its completion is the commit point. -/
def barrierCommit (m : Msg) (s : State) : State :=
  match s.barrierIn bCommit m with
  | (some _, t) => t.commitPoint
  | (none, t) => t

/-- BARRIER_PROGRAM: arrivals are combined and the release passed on. The program's own arrival is a message from this module's rank to
itself (log entry 53). -/
def barrierProgram (m : Msg) (s : State) : State :=
  if s.member && m.typ == 6 && m.opc == bProgram && !m.resp && s.mach.rank == some m.src then
    if s.st.run.elim false fun r => r.phase == .forward || r.phase == .backward then
      State.arrive { s.took m with wd := some .programBarrier } bProgram s.st.stepNo s.attempt 0
    else s
  else
    match s.barrierIn bProgram m with
    | (some _, t) => { t with wd := if t.wd = some .programBarrier then t.layerPoint else t.wd }
    | (none, t) => t

/-- STEP (01 R11). -/
def execStep (ring : Nat) (host : List Byte) (s : State) : Host.Outcome State Fault Refusal := .next (runStep ring host s)
/-- PHASE_END (14 R362). -/
def execPhaseEnd (s : State) : Host.Outcome State Fault Refusal := .next (phaseEnd s)
/-- BARRIER_STEP_START (01 R12). -/
def execBarrierStepStart (m : Msg) (s : State) : Host.Outcome State Fault Refusal := .next (barrierStepStart m s)
/-- BARRIER_FINITE (01 R18). -/
def execBarrierFinite (m : Msg) (s : State) : Host.Outcome State Fault Refusal := .next (barrierFinite m s)
/-- BARRIER_COMMIT (01 R20). -/
def execBarrierCommit (m : Msg) (s : State) : Host.Outcome State Fault Refusal := .next (barrierCommit m s)
/-- BARRIER_PROGRAM (10 R264). -/
def execBarrierProgram (m : Msg) (s : State) : Host.Outcome State Fault Refusal := .next (barrierProgram m s)

end Sys2Proof.Machine
end

