-- ==== Sys2Proof/Machine/Recovery.lean ====
section
/-! DEFINITION. Recovery (11 R267-R291): failure reports and what the coordinator decides, aborts, substitution, fallback, probes, and
QUIESCE. -/

namespace Sys2Proof.Machine

open Sys2Proof

/-! ### Control messages (11 R271) -/

/-- CODE values. -/
def cAbort : Nat := 1
/-- ABORT_FINAL. -/
def cAbortFinal : Nat := 2
/-- SUBSTITUTE. -/
def cSubstitute : Nat := 3
/-- FALLBACK. -/
def cFallback : Nat := 4
/-- ACK. -/
def cAck : Nat := 5
/-- PROBE. -/
def cProbe : Nat := 6

/-- The 16 bytes of a control message. -/
def controlBody (step attempt code rank pos committed : Nat) : List Byte :=
  leBytes 4 step ++ leBytes 1 attempt ++ leBytes 1 code ++ leBytes 2 rank ++ leBytes 2 pos ++ leBytes 4 committed ++ zeros 2

/-- A control message toward a rank. -/
def controlMsg (dst step attempt code rank pos committed : Nat) : Msg := mkMsg 8 4 1 dst (controlBody step attempt code rank pos committed)

/-- A control message of a code reaches a member. -/
def State.control (s : State) (code : Nat) (m : Msg) : Bool :=
  s.member && m.typ == 8 && m.opc == 4 && m.vc == 1 && field m.body 5 1 == code

/-- ACK toward the sender of a control message. -/
def State.answerControl (s : State) (m : Msg) : State := s.send (controlMsg m.src (field m.body 0 4) (field m.body 4 1) cAck s.rank 0 0)

/-- The members that are not known to be lost. -/
def State.liveRanks (s : State) : List Nat := (List.range s.ranks).filter fun r => !s.recov.lost.contains r

/-! ### Retained state (01 R24) -/

/-- Arrivals of an attempt forgotten at a barrier. -/
def Barrier.without (b : Barrier) (step attempt : Nat) : Barrier where
  own := none
  kids := b.kids.filter fun k => !(k.2.1 == step && k.2.2.1 == attempt)
  up := false

/-- The arrivals of the attempt in progress forgotten at every barrier of a step. -/
def State.dropArrivals (s : State) (attempt : Nat) : State :=
  [bStepStart, bFinite, bCommit, bProgram].foldl (fun s k => s.setBarrier k ((s.barrier k).without s.st.stepNo attempt)) s

/-- Every byte that Commit overwrote written back. -/
def State.writeBack (s : State) : State := s.st.undo.foldl (fun s e => s.write e.1 [e.2]) s

/-- The step in progress had begun: its start barrier had completed. -/
def State.begun (s : State) : Bool := s.st.run.elim false fun r => r.phase != .waitStart

/-- All work of an attempt stopped and retained state restored: the epoch pointer stays, undo-logged bytes go back, and what the step made
is dropped. -/
def State.restoreRetained (s : State) (attempt : Nat) : State :=
  let s := ((s.dropWork false).writeBack.dropArrivals attempt).clearExchange.dropPending
  let mir := if s.st.run.elim false fun r => r.phase == .mirror || r.phase == .prepared then { s.mir with
    acks := []
    out := [] } else s.mir
  { s with
    mir := mir
    conf := .reset
    wd := none
    st := { s.st with
      undo := []
      advances := []
      calibNow := []
      agreedNew := []
      named := [] } }

/-! ### Aborts at a member (11 R272, R273) -/

/-- A RECOVERY event (13 R338). -/
def State.postRecovery (s : State) (step attempt cls cause reporter : Nat) : State :=
  s.post evRecovery (leBytes 4 step ++ leBytes 1 attempt ++ leBytes 1 cls ++ leBytes 1 cause ++ zeros 1 ++ leBytes 2 reporter)

/-- The step in progress taken back to its start barrier with the next ATTEMPT; a content fault of the attempt is kept until the next begins
(01 R27). -/
def State.nextTry (s : State) (r : StepRun) : State :=
  { s with
    st := { s.st with
      lastAttempt := some (s.st.stepNo, r.attempt)
      run := some { r with
        phase := .waitStart
        attempt := (r.attempt + 1) % 256
        replays := r.replays + 1
        hop := 0
        fault := none
        prior := r.fault
        rescaled := false } }
    recov := { s.recov with replays := r.replays + 1 } }

/-- A spare, which runs no step, keeps what an ABORT means for the rank it may take: RECOVERY is posted once, and the replay counts
(11 R272, R291; log entry 58). -/
def State.spareAborts (s : State) (step attempt cls cause reporter : Nat) : State :=
  if s.mach.rank.isSome ∨ s.st.lastAttempt = some (step, attempt) then s
  else
    State.postRecovery { s with st := { s.st with
      lastAttempt := some (step, attempt)
      owedReplays := (if s.st.lastAttempt.elim false fun x => x.1 == step then s.st.owedReplays else 0) + 1 } } step attempt cls cause reporter

/-- After ABORT_FINAL a spare owes the step no replay. -/
def State.spareDrops (s : State) (step attempt : Nat) : State :=
  if s.mach.rank.isSome then s else { s with st := { s.st with
    lastAttempt := some (step, attempt)
    owedReplays := 0 } }

/-- ABORT (11 R272): the attempt stops, retained state is restored, RECOVERY is posted, ACK is sent, and the module arrives at the start
barrier of the next attempt. CLASS, CAUSE and the reporting rank, which the message does not carry, are operands (log entry 54). While the hold for
events is full the message waits (13 R337). -/
def abort (m : Msg) (cls cause reporter : Nat) (s : State) : State :=
  if !s.control cAbort m || s.holdFull then s
  else
    let s := ((s.took m).count cAborts 1).tellSpare m
    match s.st.run with
    | none => (s.spareAborts (field m.body 0 4) (field m.body 4 1) cls cause reporter).answerControl m
    | some r =>
      if field m.body 0 4 = s.st.stepNo ∧ field m.body 4 1 = r.attempt then
        let s := (s.restoreRetained r.attempt).postRecovery s.st.stepNo r.attempt cls cause reporter
        ((s.answerControl m).nextTry r).tryBegin
      else s.answerControl m

/-- ABORT_FINAL names the attempt in progress, or the one that an ABORT has just ended. -/
def finalNames (r : StepRun) (attempt : Nat) : Bool :=
  attempt == r.attempt || (r.phase == .waitStart && r.replays != 0 && (attempt + 1) % 256 == r.attempt)

/-- The last ATTEMPT that a step in progress has used: its own once its start barrier has completed, otherwise the one before it, if any. -/
def State.usedAttempt (s : State) (r : StepRun) : Option (Nat × Nat) :=
  if r.phase = .waitStart then s.st.lastAttempt else some (s.st.stepNo, r.attempt)

/-- The step in progress ends without an update: STEP completes with a status, and the module is again at the boundary before the step
(01 R26, R28, R32). `last` is the last ATTEMPT used (11 R273). -/
def State.dropStep (s : State) (r : StepRun) (last : Option (Nat × Nat)) (c : Cpl) : State :=
  let s := { s with
    st := { s.st with
      run := none
      owedReplays := 0
      lastAttempt := last }
    tier := { s.tier with ueBursts := [] }
    recov := { s.recov with replays := 0 } }
  (s.complete r.ring c).applyIdle.followOn

/-- This module's own content code in an attempt that ABORT_FINAL names. -/
def faultIn (r : StepRun) (attempt : Nat) : Option Status := if attempt = r.attempt then r.fault else r.prior

/-- ABORT_FINAL (11 R272): retained state is restored, and the STEP completes with this module's own content code or STEP_ABORTED. -/
def abortFinal (m : Msg) (s : State) : State :=
  if !s.control cAbortFinal m then s
  else
    let s := ((s.took m).count cAborts 1).tellSpare m
    match s.st.run with
    | none => (s.spareDrops (field m.body 0 4) (field m.body 4 1)).answerControl m
    | some r =>
      if field m.body 0 4 = s.st.stepNo && finalNames r (field m.body 4 1) then
        let t := (s.restoreRetained r.attempt).answerControl m
        let own := faultIn r (field m.body 4 1)
        t.dropStep r (some (s.st.stepNo, field m.body 4 1)) {
          status := own.getD .stepAborted
          info := if r.exec then 1 else r.epoch
          step := s.st.stepNo
          replays := r.replays
          detector := own.isSome }
      else s.answerControl m

/-! ### The coordinator (11 R268, R269, R272, R279, R280, R286) -/

/-- The report that a message carries. -/
def reportOf (m : Msg) : Report :=
  let b := m.body.drop 8
  {
    src := m.src
    step := field b 0 4
    attempt := field b 4 1
    cls := field b 5 1
    cause := field b 6 1
    status := field b 7 1
    suspect := field b 8 2
    port := field b 10 1 }

/-- The attempt in progress: the one that has begun, or the aborted one whose replay has not begun yet. -/
def State.begunAttempt (s : State) : Option Nat :=
  s.st.run.bind fun r =>
    if r.phase != .waitStart then some r.attempt else if r.replays != 0 then some ((r.attempt + 255) % 256) else none

/-- A report is older than the attempt in progress; with none in progress no report is (11 R268). -/
def State.stale (s : State) (x : Report) : Bool :=
  s.begunAttempt.elim false fun a =>
    decide (x.step < s.st.stepNo) ||
    (x.step == s.st.stepNo && x.attempt != a && decide ((a + 256 - x.attempt % 256) % 256 < 128))

/-- The rank now held at a position. -/
def State.rankHeld (s : State) (pos : Nat) : Option Nat := (List.range s.ranks).find? fun r => nth 0 s.mach.ranks r == pos

/-- A report comes from a position: that of its rank, or for a spare, which no rank names, one that holds no rank. -/
def State.reportedBy (s : State) (x : Report) (pos : Nat) : Bool :=
  if x.src = s.spareRank then !s.mach.ranks.contains pos else s.positionOf x.src == some pos

/-- Every link that was UP between a position and a member has been reported DOWN by that member (11 R279; log entry 55). -/
def State.allLinksDown (s : State) (v : Survey) (pos : Nat) : Bool :=
  !v.wasUp.isEmpty && v.wasUp.all fun e => s.recov.reports.any fun x =>
    x.cls == 2 && x.cause == 0x05 && x.suspect == pos && x.port == e.2 && s.reportedBy x e.1

/-- SUBST_EN of the coordinator (11 R280, R292). -/
def State.substEn (s : State) (v : Survey) : Bool := if s.mach.rank = some s.coord then s.regs.recovery.val.getLsbD 31 else v.substEn

/-- A spare can take a rank (11 R280): it is not HALTED, has the machine's program loaded, its order code and its levels meet the program's
needs, and it reaches every holder of the rank (log entry 56). -/
def State.spareServes (s : State) (rank : Nat) (x : SpareState) : Bool :=
  match s.prog with
  | none => false
  | some p =>
    !x.halted && x.hash == some p.hash && decide (p.lcores ≤ x.order.coreCount) &&
    decide (p.needYl ≤ nth 0 x.levels 0) && decide (p.needFw ≤ nth 0 x.levels 1) && decide (p.contract ≤ nth 0 x.levels 2) &&
    decide (p.needNum ≤ nth 0 x.levels 3) &&
    (s.holders rank).all fun o => (s.positionOf o).elim false fun q => x.reaches.contains q

/-- The position of an eligible spare for a rank (11 R280, R286): none when another module of its sled is lost too, or when the rank alone
holds some part. -/
def State.eligible (s : State) (v : Survey) (rank : Nat) : Option Nat :=
  match s.positionOf rank with
  | none => none
  | some pos =>
    let sledLost := s.recov.lost.any fun r => r != rank && (s.positionOf r).elim false fun p => p / 8 == pos / 8
    if s.substEn v && !sledLost && !v.sole.contains rank then
      (s.sledSpare pos).bind fun q => if v.spares.any fun x => x.pos == q && s.spareServes rank x then some q else none
    else none

/-- The last committed step number. -/
def State.lastCommitted (s : State) : Nat := s.st.committed.getD s.lastStep

/-- The attempt to run next. -/
def State.comingAttempt (s : State) : Nat :=
  match s.st.run with
  | some r => if r.phase = .waitStart then r.attempt else (r.attempt + 1) % 256
  | none => s.nextAttempt

/-- The commit barrier has completed at its root, which has still to take up its own release: the step is committed, and a loss now belongs to the
boundary after it (11 R285). -/
def State.rootCommits (s : State) : Bool :=
  s.mach.rank == some 0 && (s.barrier bCommit).up && s.st.run.elim false fun r => r.phase == .prepared

/-- STEP, ATTEMPT and COMMITTED of a control message that covers a loss. -/
def State.lossFigures (s : State) : Nat × Nat × Nat :=
  if s.rootCommits then ((s.st.stepNo + 1) % 2 ^ 32, 0, s.st.stepNo) else (s.st.stepNo, s.comingAttempt, s.lastCommitted)

/-- SUBSTITUTE toward every live member and the module that loses the rank, and to the spare that takes it. -/
def State.sendSubstitute (s : State) (rank pos : Nat) : State :=
  let f := s.lossFigures
  let body := fun r => controlMsg r f.1 f.2.1 cSubstitute rank pos f.2.2
  let s := s.sendAll (s.liveRanks.filter (· != rank) ++ (if s.mach.rank = some rank then [] else [rank])) body
  let old := s.mach.ranks
  let t := State.sendAway { s with mach := { s.mach with ranks := setNth old rank pos } } (body rank)
  { t with mach := { t.mach with ranks := old } }

/-- FALLBACK toward every live member. -/
def State.sendFallback (s : State) : State :=
  let f := s.lossFigures
  s.sendAll s.liveRanks fun r => controlMsg r f.1 0 cFallback 0 0 f.2.2

/-- A lost rank is moved to its spare, or the machine falls back. -/
def State.coverLoss (s : State) (v : Survey) (rank : Nat) : State :=
  match s.eligible v rank with
  | some pos => s.sendSubstitute rank pos
  | none => s.sendFallback

/-- REPLAY_LIMIT (11 R292). -/
def State.replayLimit (s : State) : Nat := bits s.regs.recovery.val.toNat 0 8

/-- The replays that aborting the attempt in progress comes to: an attempt that this module has aborted already counts among its own. -/
def StepRun.replaysBy (r : StepRun) : Nat := if r.phase = .waitStart then r.replays else r.replays + 1

/-- An abort toward every live member. -/
def State.tellAbort (s : State) (attempt code : Nat) : State :=
  State.sendAll { s with recov := { s.recov with aborting := some attempt } } s.liveRanks fun o => controlMsg o s.st.stepNo attempt code 0 0 0

/-- The attempt that a report names, if it is the one in progress, is aborted on every live member: finally, after a content fault or at the
replay limit. This module sends an ABORT for one attempt once; the coordinator that takes over repeats it, ABORT_FINAL too when its own step has
already ended by it (11 R268, R269). -/
def State.sendAbort (s : State) (x : Report) (final : Bool) : State :=
  match s.st.run with
  | none =>
    if x.step = s.st.stepNo ∧ s.st.lastAttempt = some (x.step, x.attempt) ∧ s.recov.aborting ≠ some x.attempt ∧ s.recov.fallback = false then
      s.tellAbort x.attempt cAbortFinal
    else s
  | some r =>
    let code := if final || decide (s.replayLimit < r.replaysBy) then cAbortFinal else cAbort
    if x.step ≠ s.st.stepNo ∨ s.begunAttempt ≠ some x.attempt ∨ (!final && s.recov.aborting == some x.attempt) ∨ s.rootCommits = true then s
    else s.tellAbort x.attempt code

/-- A rank known to be lost. -/
def State.markLost (s : State) (q : Nat) : State :=
  if s.recov.lost.contains q then s
  else { s with recov := { s.recov with
    lost := s.recov.lost ++ [q]
    probing := s.recov.probing.filter (· != q) } }

/-- What stands for a spare among the ranks that are probed. -/
def spareProbe (pos : Nat) : Nat := 2 ^ 16 + pos

/-- A message to the spare at a position, of whatever sled. -/
def State.sendSpare (s : State) (pos : Nat) (m : Msg) : State :=
  let t := State.send { s with mach := { s.mach with joining := some pos } } { m with dst := s.spareRank }
  { t with mach := { t.mach with joining := s.mach.joining } }

/-- A PROBE toward the module at a position, once until it answers: a rank's, or a spare's that is a member (11 R279). -/
def State.probe (s : State) (pos : Nat) : State :=
  let k := (s.rankHeld pos).getD (spareProbe pos)
  if s.recov.probing.contains k then s
  else
    let t := { s with recov := { s.recov with probing := s.recov.probing ++ [k] } }
    let m := controlMsg k s.st.stepNo s.attempt cProbe 0 0 0
    if (s.rankHeld pos).isSome then t.send m else if s.mach.joinSeen.contains pos then t.sendSpare pos m else s

/-- The recovery register, read to act on it (15 R383). -/
def State.readingRecovery (s : State) (f : State → State) : State := s.reading [(0x00190, s.regs.recovery)] f

/-- What the coordinator does on a report, for which it reads the recovery register. A module that reports itself module-fatal is lost (log entry 59). -/
def State.act (v : Survey) (s : State) (x : Report) : State :=
  s.readingRecovery fun s => match x.cls with
  | 1 => s.sendAbort x false
  | 3 => s.sendAbort x true
  | 2 =>
    let s := s.sendAbort x false
    if x.cause = 0x03 then s.sendFallback
    else if x.cause = 0x01 then
      match s.rankHeld x.suspect with
      | none => s
      | some q => (s.markLost q).coverLoss v q
    else
      match s.rankHeld x.suspect with
      | some q => if s.recov.lost.contains q then s.coverLoss v q else s.probe x.suspect
      | none => s.probe x.suspect
  | _ => s

/-- This module is the coordinator. -/
def State.coordinates (s : State) : Bool := s.mach.rank == some s.coord

/-- A report names a module as lost: it reports itself module-fatal, or all of its links are down (11 R269, R279). -/
def State.namesLost (s : State) (v : Survey) (x : Report) : Bool :=
  x.cls == 2 && (x.cause == 0x01 || (x.cause == 0x05 && s.allLinksDown v x.suspect))

/-- A module that a report names as lost is known to be lost; a spare so lost is no member any more, and its sled has no spare
(11 R269, R280). -/
def State.noteLost (s : State) (v : Survey) (x : Report) : State :=
  if s.namesLost v x then
    match s.rankHeld x.suspect with
    | some q => s.markLost q
    | none => { s with
      mach := { s.mach with joinSeen := s.mach.joinSeen.filter (· != x.suspect) }
      recov := { s.recov with noSpare := s.recov.noSpare || x.suspect / 8 == s.ms.position / 8 } }
  else s

/-- A report names a spare as lost that was a member. -/
def State.losesSpare (s : State) (v : Survey) (x : Report) : Bool :=
  s.namesLost v x && (s.rankHeld x.suspect).isNone && s.mach.joinSeen.contains x.suspect

/-- FAILURE_REPORT (11 R268-R270): a report older than the attempt in progress is ignored; any other is kept, and acted on by the
coordinator. One that takes over acts on every report it holds, from the abort on. The loss of a spare has the members form the feature floor again
(10 R257). -/
def failureReport (m : Msg) (v : Survey) (s : State) : State :=
  if !(s.member && m.typ == 1 && m.opc == 2 && m.vc == 0) then s
  else
    let s := s.took m
    let x := reportOf m
    if s.stale x then s
    else
      let t := State.noteLost { s with recov := { s.recov with reports := s.recov.reports ++ [x] } } v x
      let t := if t.coordinates && s.losesSpare v x then (t.sendAll t.others (leaveNotice x.suspect)).formFloor else t
      if !t.coordinates then t
      else if s.coordinates then State.act v t x
      else t.recov.reports.foldl (State.act v) t

/-! ### Probes (11 R279) -/

/-- PROBE: answered with ACK. -/
def probe (m : Msg) (s : State) : State := if s.control cProbe m then (s.took m).answerControl m else s

/-- RECOVERY_ACK: a module that answers is not lost; its answer is kept. A spare's does not name it: none is taken as lost then (log entry 55). -/
def recoveryAck (m : Msg) (s : State) : State :=
  if s.control cAck m then
    let s := s.took m
    { s with recov := { s.recov with
      probing := s.recov.probing.filter fun k => k != m.src && !(m.src == s.spareRank && decide (2 ^ 16 ≤ k))
      acks := insertOnce m.src s.recov.acks } }
  else s

/-- PROBE_TIMEOUT: a module that has not answered is declared lost and is substituted, or the machine falls back. A spare needs no substitution: it is
no member any more (11 R280). -/
def probeTimeout (rank : Nat) (v : Survey) (s : State) : State :=
  if s.member && s.coordinates && s.recov.probing.contains rank then
    if rank < 2 ^ 16 then s.readingRecovery fun s => (s.markLost rank).coverLoss v rank
    else
      let t := { s with recov := { s.recov with probing := s.recov.probing.filter (· != rank) } }
      (t.sendAll t.others (leaveNotice (rank - 2 ^ 16))).spareGone (rank - 2 ^ 16)
  else s

/-! ### Substitution (11 R281-R283, R288-R291) -/

/-- The new position of a rank installed in the working copy of the ranks section, and the message state kept for the rank reset
(10 R245, R261): a message sent to it before is resent with a new MSGID only, so the one it had is struck out. The module at the old position
is no member any more. -/
def State.installRank (s : State) (rank pos : Nat) : State :=
  let old := nth 0 s.mach.ranks rank
  { s with
    mach := { s.mach with
      ranks := setNth s.mach.ranks rank pos
      joinSeen := s.mach.joinSeen.filter (· != old) }
    net := { s.net with
      msgid := s.net.msgid.filter fun e => e.1 / 16 != rank
      dup := s.net.dup.filter fun e => e.1 / 16 != rank
      dropped := s.net.dropped.filter fun m => m.src != rank
      sent := s.net.sent.map fun m => if m.dst = rank then { m with id := m.id % 2 ^ 32 + 2 ^ 32 } else m
      unrouted := s.net.unrouted.map fun m => if m.dst = rank then { m with id := m.id % 2 ^ 32 + 2 ^ 32 } else m }
    recov := { s.recov with
      lost := s.recov.lost.filter (· != rank)
      probing := s.recov.probing.filter (· != rank)
      reports := s.recov.reports.filter fun x => x.suspect != old }
    st := { s.st with eddyAcks := s.st.eddyAcks.filter fun e => e.1 != rank } }

/-- A SUBSTITUTED event (13 R338). -/
def State.postSubstituted (s : State) (rank old pos committed step : Nat) : State :=
  s.post evSubstituted (leBytes 2 rank ++ leBytes 2 old ++ leBytes 2 pos ++ zeros 2 ++ leBytes 4 committed ++ leBytes 4 step)

/-- Owners whose incomplete migrations involve a rank (11 R289). -/
def State.brokenMigrations (s : State) (rank : Nat) : List Nat :=
  rank :: (s.st.installed.filter fun e => e.2.2 == rank).map (·.2.1)

/-- Incomplete migrations that involve a rank undone on this module. -/
def State.undoMigrations (s : State) (rank : Nat) : State := s.undoFrom (s.brokenMigrations rank)

/-- A MIGRATE of this module that is undone: the others drop what they have of it, no copy of it is awaited, and it completes with PEER_LOST. -/
def State.undoMine (s : State) (a : Act) : State :=
  let keys := (s.moving a.payload).map fun r => rowKey r.table r.row
  let t : State := { s.takeOff a with
    mir := { s.mir with waiting := s.mir.waiting.filter fun x => x.1 != a.ring }
    st := { (s.takeOff a).st with
      applied := s.st.applied.erase a
      eddySent := s.st.eddySent.filter fun e => !keys.contains e.1
      reserving := none
      reserveWait := []
      moveWait := []
      installWait := [] } }
  (t.freeRoom t.others).complete a.ring { status := .peerLost, step := s.st.stepNo }

/-- This module's own incomplete MIGRATE: undone if a row of it was to go to the rank, and otherwise complete once the others have
installed it (11 R289; log entry 57). -/
def State.settleMigrate (s : State) (rank : Nat) : State :=
  match s.st.reserving.or (s.st.applied.find? fun a => a.kind == 2 && a.waitAck) with
  | none => s
  | some a =>
    if (s.moving a.payload).any fun r => r.dst == rank then s.undoMine a
    else
      let t := { s with st := { s.st with installWait := s.st.installWait.filter (· != rank) } }
      if s.st.installWait.contains rank && t.st.installWait.isEmpty then t.endMigrate else t

/-- The OPC 2 replies that carry a part of this rank's own image, then LAST with its checksum. -/
def State.ownPartMsgs (s : State) (dst part : Nat) : List Msg :=
  let rs := s.imageRegions s.st.wEpoch
  let n := partLen (totalBytes rs) part
  ((List.range (ceilDiv n pullPiece)).map fun i =>
    mkMsg 8 2 1 dst (mirrorHeader s.st.stepNo s.attempt part s.rank (i * pullPiece) ++
      s.imageBytes rs (imageOffset part (i * pullPiece)) (min pullPiece (n - i * pullPiece))) (resp := true)) ++
  [mkMsg 8 2 1 dst (mirrorHeader s.st.stepNo s.attempt part s.rank (s.partSum part)) (resp := true) (last := true)]

/-- A sled-mate of a moved rank: the part that lay on the lost module goes to the spare, and boundary copies that it had not acknowledged
are sent again; where none is awaited an empty one has the spare say when it holds the part. A module that hands over its own rank sends the parts that it held itself (11 R290). -/
def State.handOver (s : State) (rank : Nat) (planned : Bool) : State :=
  let l := s.holders s.rank
  match (List.range l.length).find? fun j => nth 0 l j == rank with
  | none => s
  | some j =>
    let s := s.storeCarried
    let n := partLen (totalBytes (s.imageRegions s.st.wEpoch)) j
    let s := if planned then s else (s.ownPartMsgs rank j).foldl State.send (s.count cPullBytes n)
    let s := { s with recov := { s.recov with
      exposed := true
      exposedAt := some rank
      noSpare := true } }
    if s.mir.acks.any fun a => a.part == j && !a.acked then s.sendPart 3 j
    else (partMsgs 3 s.st.stepNo s.attempt j s.rank rank []).foldl State.send s

/-- The replicas that a rank lost at a boundary had sent are dropped: the spare that takes it sends its own (07 R172; log entry 46). -/
def State.dropReplicas (s : State) (rank : Nat) : State :=
  if s.begunAttempt.isSome then s
  else
    let n := (s.st.eddy.filter fun e => e.2.src == rank).length
    State.count { s with st := { s.st with
      eddy := s.st.eddy.filter fun e => e.2.src != rank
      refreshed := s.st.refreshed.filter (· != rank) } } cEddyDrops n

/-- A substitution on a member other than the spare that takes the rank. A spare of another sled has nothing more to do. -/
def State.memberSubstitutes (s : State) (rank : Nat) (planned : Bool) : State :=
  if s.mach.rank.isNone then s else (((s.undoMigrations rank).settleMigrate rank).dropReplicas rank).handOver rank planned

/-- The loader's placement for a rank put in force, with the owner table at its place (11 R274, R281 step 2; log entry 64). -/
def State.placeRank (s : State) (rank : Nat) : State :=
  match s.prog with
  | none => s
  | some p =>
    let place := ((p.spares.find? fun e => e.1 == rank).map (·.2)).getD p.place
    let table := ownerTable p.decl
    State.write { s with prog := some { p with
      place := place
      shared := (place.partTable, table) :: p.shared.drop 1 } } place.partTable table

/-- The spare takes the rank: its regions are placed, migrations that the loss leaves incomplete are undone on its map, and every part of the
rank's image is pulled (11 R281 steps 2 to 6, R289). -/
def State.takeRank (s : State) (rank step attempt committed : Nat) : State :=
  let s := (s.undoMigrations rank).placeRank rank
  let s := { s with
    mach := { s.mach with
      rank := some rank }
    net := { s.net with
      msgid := []
      dup := []
      dropped := [] }
    recov := { s.recov with
      subst := true
      remirror := true
      noSpare := true }
    st := { s.st with
      stepNo := step
      committed := some committed
      completed := some committed
      lastAttempt := if attempt = 0 then none else some (step, (attempt + 255) % 256)
      owedReplays := if s.st.lastAttempt.elim false fun x => x.1 == step then s.st.owedReplays else 0 } }
  let s := s.clearMirrors
  let l := s.holders rank
  let parts := List.range l.length
  let s := { s with mir := { s.mir with
    held := []
    pulls := parts.map fun j => {
      owner := rank
      part := j
      holder := nth 0 l j
      again := false
      repair := false
      fin := false } } }
  parts.foldl (fun s j => s.askPull j (nth 0 l j)) s

/-- A SUBSTITUTE that names this spare's position waits while the ABORT that came before it has not been passed on to it yet, so that RECOVERY is posted
first and the replay is counted (11 R291). One that a module of its sled passes on has no attempt in progress behind it. -/
def State.abortFirst (s : State) (m : Msg) : Bool :=
  let attempt := field m.body 4 1
  attempt != 0 && m.dst != s.spareRank && s.st.lastAttempt != some (field m.body 0 4, (attempt + 255) % 256)

/-- SUBSTITUTE (11 R279, R281): the rank entry is installed everywhere, and the members form the feature floor again (10 R257); a module
named by its own rank at another position halts at once. While the hold for events is full the message waits (13 R337). -/
def substitute (m : Msg) (s : State) : State :=
  if !s.control cSubstitute m then s
  else
    let rank := field m.body 6 2
    let pos := field m.body 8 2
    let old := nth 0 s.mach.ranks rank
    let spare := s.mach.rank.isNone && s.ms.position == pos
    if s.mach.rank = some rank ∧ s.ms.position ≠ pos then (s.took m).halt 0x8 0x37
    else if s.holdFull || (spare && s.abortFirst m) then s
    else
      let s := s.took m
      if s.ranks ≤ rank ∨ old = pos then s.answerControl m
      else
        let s := if s.begunAttempt.isNone then s.tellSpare m else s
        let s := (s.installRank rank pos).count cSubstitutions 1
        let s := if spare then s.takeRank rank (field m.body 0 4) (field m.body 4 1) (field m.body 10 4) else (s.memberSubstitutes rank (m.src == rank)).remindHash rank
        let s := (s.postSubstituted rank old pos (field m.body 10 4) (field m.body 0 4)).answerControl m
        (s.formFloor.retryUnrouted).tryBegin

/-! ### Fallback (11 R286, R287) -/

/-- Boundary actions and loads that wait for acknowledgements which a lost holder owes complete with PEER_LOST; a migration that is not complete is
undone everywhere (11 R287, R289; log entry 138). -/
def State.endWaiting (s : State) : State :=
  let s := match s.st.reserving.or (s.st.applied.find? fun a => a.kind == 2 && a.waitAck) with
    | none => s
    | some a => s.undoMine a
  let s := s.undoFrom (List.range s.ranks)
  let w := s.mir.waiting
  let s : State := { s with
    mir := { s.mir with
      waiting := []
      acks := []
      out := [] }
    st := { s.st with
      applied := s.st.applied.map fun (a : Act) => { a with waitAck := false }
      eddyAcks := []
      refreshWait := [] } }
  w.foldl (fun s x => s.complete x.1 { status := .peerLost, step := x.2.2 }) s

/-- FALLBACK: the interrupted STEP and every EVAL and EVIDENCE_EXPORT in progress (12 R321) complete with PEER_LOST, retained state is kept, and later STEPs and EVALs
complete with PEER_LOST as they are dequeued, until the state is restored. What waits for a lost holder is not waited for any longer, and the spare of the
sled is told. -/
def fallback (m : Msg) (s : State) : State :=
  if !s.control cFallback m then s
  else
    let s := ((s.took m).tellSpare m).count cFallbacks 1
    let s := State.setBarrier { s with recov := { s.recov with
      fallback := true
      remirror := false } } bFloor Barrier.none_
    let s := match s.st.run with
      | none => s
      | some r => (s.restoreRetained r.attempt).dropStep r (s.usedAttempt r) {
          status := .peerLost
          info := if r.exec then 1 else r.epoch
          step := s.st.stepNo
          replays := r.replays }
    let s := s.st.evals.foldl (fun s e =>
      s.endEval e.ring { status := .peerLost, info := e.info, step := e.pinned }) s
    s.endWaiting.answerControl m

/-! ### QUIESCE (11 R290, 13 R343) -/

/-- The module has left: it holds no rank. -/
def State.leaveMachine (s : State) (ring : Nat) : State :=
  let s := (s.complete ring { status := .ok }).enter .quiesced
  { s with
    mach := { s.mach with rank := none }
    recov := { s.recov with subst := false } }

/-- The rank handed over at a boundary: SUBSTITUTE to every other member and to the spare, then the parts held here. -/
def State.handRank (s : State) (rank pos : Nat) : State :=
  let t := s.sendSubstitute rank pos
  let t := { t with mach := { t.mach with ranks := setNth t.mach.ranks rank pos } }
  let parts := (List.range t.ranks).filter fun o => (t.partHeld o).isSome
  parts.foldl (fun t o =>
    let n := partLen (t.decl.elim 0 (·.mirrorImage)) (t.heldPart o).part
    (t.heldMsgs rank o 0 n).foldl State.sendAway (t.count cPullBytes n)) t

/-- QUIESCE: READY and a spare leave at once; an active module hands its rank to an eligible spare first. -/
def quiesce (ring : Nat) (v : Survey) (s : State) : State :=
  s.command ring 0x0F (fun _ => true) fun s _ =>
    match s.mach.rank with
    | none => (if s.member then s.sendAll (List.range s.ranks) (leaveNotice s.ms.position) else s).leaveMachine ring
    | some rank =>
      s.readingRecovery fun s => match s.eligible v rank with
      | none => s.complete ring { status := .resourceShort }
      | some pos => (s.handRank rank pos).leaveMachine ring

/-- ABORT (11 R272). -/
def execAbort (m : Msg) (cls cause reporter : Nat) (s : State) : Host.Outcome State Fault Refusal := .next (abort m cls cause reporter s)
/-- ABORT_FINAL (11 R272). -/
def execAbortFinal (m : Msg) (s : State) : Host.Outcome State Fault Refusal := .next (abortFinal m s)
/-- FAILURE_REPORT (11 R270). -/
def execFailureReport (x : ReportIn) (s : State) : Host.Outcome State Fault Refusal := .next (failureReport x.msg x.survey s)
/-- SUBSTITUTE (11 R281). -/
def execSubstitute (m : Msg) (s : State) : Host.Outcome State Fault Refusal := .next (substitute m s)
/-- FALLBACK (11 R287). -/
def execFallback (m : Msg) (s : State) : Host.Outcome State Fault Refusal := .next (fallback m s)
/-- PROBE (11 R279). -/
def execProbe (m : Msg) (s : State) : Host.Outcome State Fault Refusal := .next (probe m s)
/-- RECOVERY_ACK (11 R271). -/
def execRecoveryAck (m : Msg) (s : State) : Host.Outcome State Fault Refusal := .next (recoveryAck m s)
/-- PROBE_TIMEOUT (11 R279). -/
def execProbeTimeout (x : ProbeIn) (s : State) : Host.Outcome State Fault Refusal := .next (probeTimeout x.rank x.survey s)
/-- QUIESCE (11 R290). -/
def execQuiesce (x : QuiesceIn) (s : State) : Host.Outcome State Fault Refusal := .next (quiesce x.ring x.survey s)

end Sys2Proof.Machine
end

