-- ==== Sys2Proof/Machine/MemoryTiers.lean ====
section
/-! DEFINITION. Uncorrectable reads, page retirement and repair (08 R197-R200, R433), patrol scrub (08 R202), the flash translation layer
(08 R207-R209) and the tier faults of 08 R211. -/

namespace Sys2Proof.Machine

open Sys2Proof

/-! ### Repair from the mirror (08 R199) -/

/-- A range of the image cut at unit boundaries. -/
def unitPieces (o n : Nat) : List (Nat × Nat) :=
  let k := unitBytes - o % unitBytes
  if n ≤ k then [(o, n)] else [(o, k), (o + k, n - k)]

/-- The ranges of this rank's image that an address range holds. -/
def State.imagePieces (s : State) (a n : Nat) : List (Nat × Nat) :=
  (imageSpans (s.imageRegions s.st.wEpoch) 0 { base := a, len := n }).flatMap fun x => unitPieces x.1 x.2

/-- A range holds mirrored state that a boundary action of this window changed, and its holder has not acknowledged the copy. -/
def State.notMirrored (s : State) (a n : Nat) : Bool :=
  s.atBoundary && (s.imagePieces a n).any fun x =>
    (s.mir.acks.any fun k => k.part == (partOf x.1).1 && !k.acked) &&
    s.mir.out.any fun r => overlaps { base := x.1, len := x.2 } { base := r.1, len := r.2.length }

/-- The byte of a region that is the same on every module, as a mirror holder has it (08 R199; log entry 60): the owner table, and what the
loaded program's own constants put there. -/
def State.sharedByte (s : State) (a : Nat) : Option Byte :=
  match s.prog with
  | none => none
  | some p => ((p.shared.find? fun x => decide (x.1 ≤ a) && decide (a < x.1 + x.2.length)).map fun x => nth 0 x.2 (a - x.1))

/-- One range asked of the holder of its part. -/
def State.askPiece (s : State) (o n : Nat) : State :=
  let p := partOf o
  match (s.holders s.rank)[p.1]? with
  | none => s
  | some h =>
    let x : Pull := {
      owner := s.rank
      part := p.1
      holder := h
      again := false
      repair := true
      fin := false }
    State.send { s with mir := { s.mir with pulls := s.mir.pulls ++ [x] } }
      (mkMsg 8 2 1 h (mirrorHeader s.st.stepNo s.attempt p.1 s.rank p.2 ++ leBytes 8 n))

/-- Bytes that no mirror image holds: those that every module holds alike come from a mirror holder, the others are open until they are
written again (08 R199; log entry 60). -/
def State.rebuildPlain (s : State) (a n : Nat) : State :=
  let f := s.takeFree (8 * n)
  let open_ := leBytes n f.1.toNat
  f.2.write a ((List.range n).map fun i => (s.sharedByte (a + i)).getD (nth 0 open_ i))

/-- A failed location rebuilt: committed state from the mirror, unless the mirror does not have it yet
(08 R433); what the replay writes again, or nothing uses, is left with bytes that are
open until then (log entry 60). -/
def State.rebuild (s : State) (a n : Nat) : State :=
  let ps := s.imagePieces a n
  if ps = [] then s.rebuildPlain a n
  else if s.notMirrored a n then s
  else ps.foldl (fun s x => s.askPiece x.1 x.2) s

/-! ### What fails (08 R198, R200, R207, R211) -/

/-- Retired pages of a pseudo-channel; its pool has 256. -/
def State.pagesRetired (s : State) (pc : Nat) : Nat := (s.tier.retired.filter fun e => e.1 == pc).length

/-- The page of an HBM address within its pseudo-channel: four lines. -/
def pageOf (a : Nat) : Nat := a / 2 ^ 16 / 4

/-- Two addresses lie in one page. -/
def samePage (a b : Nat) : Bool := pseudoChannel a == pseudoChannel b && pageOf a == pageOf b

/-- The spare page that a retirement takes: the lowest of the pseudo-channel's pool that stands for no page yet. -/
def State.freeSpare (s : State) (pc : Nat) : Option Nat :=
  (List.range 256).find? fun k => !s.tier.retired.any fun e => e.1 == pc && e.2.2 == k

/-- A read of a burst by the management processor that follows an uncorrectable one: decoded and counted as any other (08 R193). -/
def State.testRead (s : State) (r : RawWords) : Bool × State :=
  let x := s.readBurst r
  if x.1 then x else (false, x.2.count (cPc (pseudoChannel r.addr) 2) 1)

/-- Several of them: which were clean or corrected. -/
def State.testReads (s : State) : List RawWords → List Bool × State
  | [] => ([], s)
  | r :: t =>
    let x := s.testRead r
    let y := x.2.testReads t
    (x.1 :: y.1, y.2)

/-- A page retired: its readable bursts are copied to a spare page, the failed ones are rebuilt, and from then on the spare page stands for it.
Without a free spare page the tier fails. The burst `a` itself is left as it is when it is a boundary action's source (08 R433). -/
def State.retirePage (s : State) (a : Nat) (source : Bool) (copies : List RawWords) : State :=
  let pc := pseudoChannel a
  match s.freeSpare pc with
  | none => s.tierFault .hbm
  | some k =>
    let s := State.count { s with tier := { s.tier with retired := s.tier.retired ++ [(pc, pageOf a, k)] } } (cPc pc 4) 1
    let bursts := copies.filter fun r => samePage a r.addr && r.addr / 32 != a / 32
    let x : List Bool × State := s.testReads bursts
    let lost := ((bursts.zip x.1).filter fun y => !y.2).map fun y => y.1.addr
    (distinct (((if source then [] else [a]) ++ lost).map fun x => x / 32 * 32)).foldl (fun s x => s.rebuild x 32) x.2

/-- The four further reads of an uncorrectable burst keep its page: all are clean or corrected (08 R198). -/
def allGood (l : List Bool) : Bool := l.length == 4 && l.all id

/-- An uncorrectable burst, in the step in progress or not: four further reads decide whether its page is kept, and a burst of the step that was
kept is not kept again in its replay. -/
def State.failedBurst (s : State) (a : Nat) (inStep source : Bool) (tests : Retest) : State :=
  let b := a / 32
  let s := s.count (cPc (pseudoChannel a) 2) 1
  let seen := inStep && s.tier.ueBursts.contains b
  let x := s.testReads tests.again
  let s : State := x.2
  if allGood x.1 && !seen then
    State.count { s with tier := { s.tier with ueBursts := if inStep then b :: s.tier.ueBursts else s.tier.ueBursts } } (cPc (pseudoChannel a) 3) 1
  else s.retirePage a source tests.copies

/-- An uncorrectable word of module DRAM or on-die SRAM: a second one is a tier fault. -/
def State.failedWord (s : State) (a : Nat) (source : Bool) (counter : Nat) (t : Tier) : State :=
  let s := s.count counter 1
  if s.tier.ueWords.contains (a / 8) then s.tierFault t
  else
    let s := { s with tier := { s.tier with ueWords := a / 8 :: s.tier.ueWords } }
    if source then s else s.rebuild (a / 8 * 8) 8

/-- An uncorrectable flash page: unreadable until its unit is written again, and counted when it becomes so. -/
def State.failedPage (s : State) (a : Nat) : State :=
  let p := a / 4096
  if s.tier.unreadable.contains p then s
  else State.count { s with tier := { s.tier with unreadable := p :: s.tier.unreadable } } cFlashUnreadable 1

/-- The failed location handled by its tier; a boundary action's own source is not rebuilt (08 R433). -/
def State.failedRead (s : State) (a : Nat) (inStep source : Bool) (tests : Retest) : State :=
  match s.placeOf a with
  | .hbm | .pool => s.failedBurst a inStep source tests
  | .dram | .dramFw => s.failedWord a source cDramUncorrectable .dram
  | .sram _ | .eddy | .staging => s.failedWord a source cSramUncorrectable .sram
  | .flash => s.failedPage a
  | .nowhere => s

/-! ### What the read served (08 R197, R433) -/

/-- The boundary actions' commands. -/
def actOp (op : Nat) : Bool := [0x06, 0x07, 0x08].contains op

/-- A boundary action that a ring is about to take up, whose source cannot be read, ends without effect. -/
def State.dropNext (s : State) (tag : Nat) : State :=
  match s.host.rings.find? fun e => e.2.busy.isNone && e.2.queue.head?.elim false fun d => actOp (descOp d) && descTag d == tag with
  | none => s
  | some e => s.command e.1 (e.2.queue.head?.elim 0 descOp) (fun _ => true) fun s _ => s.complete e.1 { status := .memoryUncorrectable, step := s.st.stepNo }

/-- A boundary action whose source cannot be read ends without effect: one that waits for its boundary, or one that a ring is about to take up. -/
def State.dropAct (s : State) (tag : Nat) : State :=
  match s.st.acts.find? fun a => a.tag == tag with
  | none => s.dropNext tag
  | some a =>
    let t := { s with st := { s.st with acts := s.st.acts.erase a } }
    let slots := if a.stalled then [] else a.staged.map (·.2)
    ((t.freeSlots a.table slots).restage).complete a.ring { status := .memoryUncorrectable, step := s.st.stepNo }

/-- Commands that an uncorrectable read ends. -/
def readOp (op : Nat) : Bool := [0x05, 0x09, 0x0A, 0x0C, 0x0D, 0x0E].contains op

/-- STEP and INFO of a command that meets the location as it starts (13 R335, R343). -/
def State.startFigures (s : State) (d : List Byte) : Nat × Nat :=
  let op := descOp d
  if op = 0x05 then (s.pinNow, s.st.epoch)
  else if op = 0x0D then (s.pinNow, 0)
  else if isExec d then (s.st.stepNo, 1)
  else if op = 0x0A then (s.st.stepNo, 0)
  else (0, 0)

/-- The command of a ring ends with MEMORY_UNCORRECTABLE: the one in progress, or the one that is next and meets the location as it runs. -/
def State.failCommand (s : State) (ring : Nat) : State :=
  match (s.ring ring).busy with
  | none =>
    match (s.ring ring).queue with
    | [] => s
    | d :: _ =>
      let f := s.startFigures d
      if readOp (descOp d) then
        s.command ring (descOp d) (fun _ => true) fun s _ => s.complete ring { status := .memoryUncorrectable, info := f.2, step := f.1 }
      else s
  | some b =>
    if !readOp (descOp b.2) then s
    else
      let f := s.startFigures b.2
      match s.st.evals.find? fun e => e.ring == ring, s.st.run with
      | some e, _ => s.endEval ring { status := .memoryUncorrectable, info := e.info, step := e.pinned }
      | none, some r =>
        if r.ring = ring then
          (s.restoreRetained r.attempt).dropStep r (s.usedAttempt r) {
            status := .memoryUncorrectable
            info := if r.exec then 1 else r.epoch
            step := s.st.stepNo
            replays := r.replays }
        else s.complete ring { status := .memoryUncorrectable, info := f.2, step := f.1 }
      | none, none => s.complete ring { status := .memoryUncorrectable, info := f.2, step := f.1 }

/-- The read served the step in progress. -/
def servesStep : ReadFor → Bool
  | .step | .scrub true => true
  | _ => false

/-- The bytes that are lost with an address: its burst, or its word. -/
def State.lostUnit (s : State) (a : Nat) : Nat × Nat :=
  match s.placeOf a with
  | .hbm | .pool => (a / 32 * 32, 32)
  | _ => (a / 8 * 8, 8)

/-- The read served a boundary action's own source buffer. -/
def servesSource : ReadFor → Bool
  | .boundarySource _ => true
  | _ => false

/-- The outcome for what the read served. -/
def State.readOutcome (s : State) (a : Nat) (why : ReadFor) : State :=
  match why with
  | .step => s.transient 0x01
  | .boundary => let u := s.lostUnit a; if s.notMirrored u.1 u.2 then s.report 2 0x01 0 s.ms.position 0xFF 0xFF else s
  | .boundarySource tag => s.dropAct tag
  | .command ring => s.failCommand ring
  | .scrub stepData => if stepData then s.transient 0x01 else s

/-- An uncorrectable read: the location is handled by its tier, and then the work it served, unless the tier has failed. -/
def State.lostRead (s : State) (r : RawRead) (why : ReadFor) : State :=
  let t := s.failedRead r.addr (servesStep why) (servesSource why) r.tests
  if t.live then t.readOutcome r.addr why else t

/-- A raw read of any unit, decoded (08 R193, R196); false when its data is lost. A flash page comes from its controller's own decoder, and comes
here only when that has failed (08 R207; log entry 123). -/
def State.checkedRead (s : State) (r : RawRead) (why : ReadFor) : Bool × State :=
  let x := if s.placeOf r.addr = .flash then (false, s) else s.rawRead r.toRawWords
  if x.1 then x else (false, x.2.lostRead r why)

/-- Raw reads in order, until the data of one is lost. -/
def State.checkedReads (s : State) (why : ReadFor) : List RawRead → Bool × State
  | [] => (true, s)
  | r :: t =>
    let x := s.checkedRead r why
    if x.1 then x.2.checkedReads why t else x

/-- What the reads of the EVAL on the cores serve. -/
def State.evalRead (s : State) : ReadFor := .command ((s.st.evals.head?).elim 64 (·.ring))

/-- UNCORRECTABLE_READ: a read of any unit whose raw words show an error is decoded, and what it comes to is counted and handled. -/
def uncorrectableRead (r : RawRead) (why : ReadFor) (s : State) : State := if s.live then (s.checkedRead r why).2 else s

/-- GATHER with the raw reads of its rows. -/
def gather (core : Nat) (errs : List RawRead) (s : State) : State :=
  s.quarry core 1 fun s eval => s.checkedReads (if eval then s.evalRead else .step) errs

/-- SAMPLE_REQ with the raw reads of its draws. An owner whose read for an EVAL's draw fails repairs the location and has no answer to send (log entry
123). -/
def sampleReqRead (m : Msg) (spec : Nat) (errs : List RawRead) (s : State) : State :=
  sampleReq m spec (fun s eval => s.checkedReads (if eval then .scrub false else .step) errs) s

/-! ### Patrol scrub (08 R202) -/

/-- PATROL_SCRUB: the next burst or word is read, and what can be corrected is written back; an uncorrectable one is counted and handled as any
other uncorrectable read. The scrub reads mem.scrub_ctl to act on it, so a parity mismatch is found here (15 R383). -/
def patrolScrub (r : RawRead) (passEnds stepData : Bool) (s : State) : State :=
  if !s.live then s
  else if !s.regs.scrub.ok then s.parityHalt 0x07010 0
  else if !s.regs.scrub.val.getLsbD 31 then s
  else
    let s := match s.placeOf r.addr with
      | .hbm | .dram | .dramFw => (s.checkedRead r (.scrub stepData)).2
      | _ => s
    if passEnds then { s with tier := { s.tier with scrubPasses := s.tier.scrubPasses + 1 } } else s

/-! ### Flash (08 R208, R209) -/

/-- FLASH_GARBAGE_COLLECTION: blocks are reclaimed when those free are below 2 % of raw capacity. -/
def flashGarbageCollection (freeBlocks : Nat) (f : FlashBlocks) (s : State) : State :=
  if s.live && decide (freeBlocks * 100 < 2 * f.raw) then s.flashBlocks f else s

/-- WEAR_LEVELLING: static data is moved when a block's program/erase count exceeds the average by more than 500. -/
def wearLevelling (peMax peAvg : Nat) (f : FlashBlocks) (s : State) : State :=
  if s.live && decide (peAvg + 500 < peMax) then
    let s := State.setCounter { s with ind := { s.ind with
      flashPeMax := BitVec.ofNat 32 peMax
      flashPeAvg := BitVec.ofNat 32 peAvg } } cFlashPe (BitVec.ofNat 64 peAvg)
    s.flashBlocks f
  else s

/-- READ_DISTURB_REFRESH: a block's data is moved once it has served 50,000 page reads. -/
def readDisturbRefresh (reads : Nat) (f : FlashBlocks) (s : State) : State :=
  if s.live && decide (50000 ≤ reads) then s.flashBlocks f else s

/-! ### Tier faults (08 R211) -/

/-- FLASH_CONTROLLER_TIMEOUT. -/
def flashControllerTimeout (s : State) : State := s.tierFault .flash

/-- INTERFACE_LOCK_LOSS of one of the 256 pseudo-channels. -/
def interfaceLockLoss (pc : Nat) (s : State) : State := if pc < 256 then s.tierFault .hbm else s

/-- DRAM_LINK_TRAINING_LOSS. -/
def dramLinkTrainingLoss (s : State) : State := s.tierFault .dram

/-- UNCORRECTABLE_READ (08 R197). -/
def execUncorrectableRead (words : RawWords) (why : ReadFor) (tests : Retest) (s : State) : Host.Outcome State Fault Refusal :=
  .next (uncorrectableRead { toRawWords := words, tests := tests } why s)
/-- GATHER (07 R163). -/
def execGather (core : Nat) (errs : List RawRead) (s : State) : Host.Outcome State Fault Refusal := .next (gather core errs s)
/-- SAMPLE_REQ (06 R150). -/
def execSampleReq (m : Msg) (spec : Nat) (errs : List RawRead) (s : State) : Host.Outcome State Fault Refusal := .next (sampleReqRead m spec errs s)
/-- PATROL_SCRUB (08 R202). -/
def execPatrolScrub (r : ScrubRead) (passEnds : Bool) (s : State) : Host.Outcome State Fault Refusal :=
  .next (patrolScrub r.raw passEnds r.stepData s)
/-- FLASH_GARBAGE_COLLECTION (08 R208). -/
def execFlashGarbageCollection (freeBlocks : Nat) (f : FlashBlocks) (s : State) : Host.Outcome State Fault Refusal :=
  .next (flashGarbageCollection freeBlocks f s)
/-- WEAR_LEVELLING (08 R208). -/
def execWearLevelling (peMax peAvg : Nat) (f : FlashBlocks) (s : State) : Host.Outcome State Fault Refusal := .next (wearLevelling peMax peAvg f s)
/-- READ_DISTURB_REFRESH (08 R208). -/
def execReadDisturbRefresh (reads : Nat) (f : FlashBlocks) (s : State) : Host.Outcome State Fault Refusal := .next (readDisturbRefresh reads f s)
/-- FLASH_CONTROLLER_TIMEOUT (08 R211). -/
def execFlashControllerTimeout (s : State) : Host.Outcome State Fault Refusal := .next (flashControllerTimeout s)
/-- INTERFACE_LOCK_LOSS (08 R211). -/
def execInterfaceLockLoss (pc : Nat) (s : State) : Host.Outcome State Fault Refusal := .next (interfaceLockLoss pc s)
/-- DRAM_LINK_TRAINING_LOSS (08 R211). -/
def execDramLinkTrainingLoss (s : State) : Host.Outcome State Fault Refusal := .next (dramLinkTrainingLoss s)

end Sys2Proof.Machine
end

