-- ==== Sys2Proof/Machine/Loader.lean ====
section
/-! DEFINITION. LOAD_PROGRAM and the sled agreement (14 R349-R352), and the collective watchdog's expiry (09 R232, 01 R14). -/

namespace Sys2Proof.Machine

open Sys2Proof

/-! ### Sled agreement (14 R351) -/

/-- The first position of this module's sled, that of the rank it holds. -/
def State.sledBase (s : State) : Nat := (s.mach.rank.elim s.ms.position s.homePosition) / 8 * 8

/-- Whom a verdict goes to and is awaited from: the other active members of the sled, and its spare if that has joined. -/
def State.verdictPeers (s : State) : List Nat :=
  let active := ((List.range 4).filterMap fun slot => s.rankAt (s.sledBase + slot)).filter fun r => some r != s.mach.rank
  active ++ (if s.mach.rank.isSome && (s.sledSpare s.sledBase).isSome then [s.spareRank] else [])

/-- A load verdict (log entry 61). -/
def verdictMsg (hash : W256) (ok : Bool) (r : Nat) : Msg := mkMsg 1 3 0 r (leBytes 8 (r * 2 ^ 48) ++ digestBytes hash ++ leBytes 8 ok.toNat)

/-- This module's verdict sent. -/
def State.sendVerdict (s : State) (hash : W256) (ok : Bool) : State := s.sendAll s.verdictPeers (verdictMsg hash ok)

/-- The verdict that a peer has sent. -/
def State.verdictOf (s : State) (r : Nat) : Option (W256 × Bool) := (s.mach.verdicts.find? fun v => v.1 == r).map (·.2)

/-! ### What a load places (14 R350, R352) -/

/-- A task slot as the task table fills it. -/
def loadTask (ts : List TaskRec) (slot : Nat) : Task :=
  match ts.find? fun t => t.slot == slot with
  | none => Task.idle
  | some t => { Task.idle with
    present := true
    prio := t.prio
    evalClass := t.evalClass
    entry := t.entry
    startOn := t.startOn }

/-- A Weir as a load leaves it. -/
def loadWeir (ts : List TaskRec) : Weir where
  tasks := (List.range 64).map (loadTask ts)
  ready := []
  running := none
  held := []
  stalled := []
  xreg := []

/-- The cores of a program, every task IDLE and every unit empty. -/
def loadCores (p : Program) : Cores where
  weir := p.tasks.map loadWeir
  mc := p.tasks.map fun _ => {
    due := none
    shape := 0
    stat := [] }
  queue := []
  busy := []

/-- The slices that this rank owns. -/
def State.mySlices (s : State) : List SlicePlace := s.slices.filter fun x => s.mach.rank == some x.owner

/-- Bytes of the moments behind a slice's master. -/
def State.sliceMoments (s : State) (x : SlicePlace) : Nat := 4 * (s.gradDecl x.tensor).elim 0 (·.moments) * x.count

/-- BF16 working copies of masters: the single rounding of 02 R48. -/
def State.workFrom (s : State) (masters : List Byte) : List Byte :=
  let f := if s.t7 then fp32 else xm48
  (groupsOf s.masterBytes masters).flatMap fun b => leBytes 2 (bf16.ofVal (f.decode (leNat b))).1

/-- The directory of a table as a load leaves it, that of its migration area too: slots in order, VERSION 0. -/
def State.placeRows (s : State) (t : Nat) (td : TableDecl) : State :=
  let p := s.tabPlace t
  (List.range (s.decl.elim 0 (fun d => (homeRows d s.ranks s.rank td).length) + td.migArea)).foldl (fun s i =>
    s.write (p.dir + 8 * i) (leBytes 6 (p.slots + tabSlotLen td * i) ++ leBytes 2 0)) s

/-- The tables of the program with their numbers. -/
def State.tableList (s : State) : List (Nat × TableDecl) := s.decl.elim [] fun d => (List.range d.tables.length).zip d.tables

/-- Empty runs for owned nodes, directories, shadow slots, and moments of +0. -/
def State.placeState (s : State) : State :=
  let nodes := s.decl.elim [] fun d => ownedNodes d s.ranks s.rank
  let s := nodes.foldl (fun s n => s.write (s.entryAddr n) (zeros 32)) s
  let s := s.tableList.foldl (fun s x => if x.2.sharded then s.placeRows x.1 x.2 else s) s
  let s := s.tableList.foldl (fun s x =>
    { s with st := { s.st with shadow := s.st.shadow.set [] x.1 (if x.2.sharded then s.shadowSlots x.1 else []) } }) s
  let s := s.mySlices.foldl (fun s x => s.write (x.master0 + s.masterBytes * x.count) (zeros (s.sliceMoments x))) s
  s.tableList.foldl (fun s x =>
    if x.2.train then (s.ownedRows x.1).foldl (fun s r => s.write (s.momentsOf x.1 r).base (zeros (s.momentsOf x.1 r).len)) s else s) s

/-- Working copies derived from their masters, and the second copy of every owned slice. -/
def State.deriveWork (s : State) : State :=
  let s := s.mySlices.foldl (fun s x =>
    let m := s.masterBytes * x.count
    let s := s.write x.work0 (s.workFrom (s.read x.master0 m))
    (s.write x.work1 (s.read x.work0 (2 * x.count))).write x.master1 (s.read x.master0 (m + s.sliceMoments x))) s
  s.tableList.foldl (fun s x =>
    if x.2.train then (s.ownedRows x.1).foldl (fun s r =>
      s.write (s.slotOf x.1 r) (s.workFrom (s.read (s.masterOf x.1 r).base (s.masterOf x.1 r).len))) s
    else s) s

/-- Every record of the ring invalidated. -/
def State.clearRing (s : State) : State := (List.range s.ringLen).foldl (fun s i => s.setValid i false) s

/-- Arrivals of this module at the barriers of a step and of the window forgotten; those of its children stay. -/
def State.dropOwnArrivals (s : State) : State :=
  [bStepStart, bFinite, bCommit, bProgram, bWindow].foldl (fun s k => s.setBarrier k { s.barrier k with
    own := none
    up := false }) s

/-- The earlier program and its committed state discarded, and the new one in its place (14 R350 steps 1 to 3). FALLBACK ends (11 R287).
Boundary actions that are pending stay so (13 R334): they wait for their boundary in the new program (log entry 63). -/
def State.installProgram (s : State) (p : Program) : State :=
  let s := s.clearRing.dropOwnArrivals
  State.clearRing { s with
    prog := some p
    loadWait := none
    wd := none
    st := { StepState.reset with
      stepNo := p.first
      lastHash := s.st.lastHash
      acts := s.st.acts.map fun a => { a with stalled := !a.staged.isEmpty } }
    ex := .reset
    conf := .reset
    mir := .reset
    gc := loadCores p
    mach := { s.mach with verdicts := [] }
    recov := { s.recov with
      fallback := false
      remirror := false
      exposed := false
      exposedAt := none } }

/-- Bytes 0 to 7 of a program's hash. -/
def hashInfo (h : W256) : Nat := field (digestBytes h) 0 8

/-- INIT may write a place: HBM below the spare-page pool and outside the graph-store region, which only the T9 itself writes, module DRAM above the
firmware region, and core SRAM (08 R187, R190, R203; log entry 108). -/
def State.initWrites (s : State) (p : Placement) (x : InitWrite) : Bool :=
  match s.placeOfRange x.addr (initLen x.data) with
  | .hbm => !overlaps p.graph { base := x.addr, len := initLen x.data }
  | .dram | .sram _ => true
  | _ => false

/-- What the load of a program writes on every module alike, the spare too (11 R274, R278): the owner table, and what INIT writes. -/
def Program.sharedBytes (p : Program) (inits : InitWrites) : List (Nat × List Byte) :=
  (p.place.partTable, ownerTable p.decl) :: initBytes p.seed p.first inits

/-- A program with what its load writes on every module alike. -/
def Program.withShared (p : Program) (inits : InitWrites) : Program := { p with shared := p.sharedBytes inits }

/-- Bytes put at several addresses. -/
def State.putAll (s : State) (l : List (Nat × List Byte)) : State := l.foldl (fun s x => s.write x.1 x.2) s

/-- A load whose five checks have passed (14 R350). A spare owns nothing and sends no image. -/
def State.finishLoad (s : State) (w : LoadWait) : State :=
  let spareIn := s.verdictOf s.spareRank == some (w.prog.hash, true)
  let s := s.installProgram (w.prog.withShared w.inits)
  let s := if spareIn then { s with recov := { s.recov with noSpare := false } } else s
  let done := [(w.ring, hashInfo w.prog.hash, 0)]
  let l := w.prog.sharedBytes w.inits
  if s.mach.rank.isNone then (s.putAll l).copyBoundary [] done
  else
    let s := (s.clearMirrors.placeState.putAll l).deriveWork.restage
    s.copyBoundary (s.imageRegions s.st.wEpoch) done

/-- Check 5 fails (14 R351): the earlier program stays. -/
def State.failLoad (s : State) (ring : Nat) : State :=
  State.complete { s with
    loadWait := none
    wd := none
    mach := { s.mach with verdicts := [] } } ring { status := .resourceShort }

/-- A load in progress goes on once every verdict is in, and fails on a refusal or another program. -/
def State.tryLoad (s : State) : State :=
  match s.loadWait with
  | none => s
  | some w =>
    let v := s.verdictPeers.map s.verdictOf
    if v.any fun x => x.elim false fun x => x != (w.prog.hash, true) then s.failLoad w.ring
    else if v.all (·.isSome) then s.finishLoad w
    else s

/-- LOAD_PROGRAM: checks 1 to 4; that INIT writes every master (14 R350) and keeps to the places it may write (08 R187), without which the image is
malformed (13 R343; log entry 108); then this module's verdict and the wait for the others'. A module that refuses says so at once. -/
def loadProgram (ring : Nat) (host : List Byte) (decl : Option Decl) (place : Placement) (inits : InitWrites)
    (spares : List (Nat × Placement)) (s : State) : State :=
  s.command ring 0x02 (fun _ => true) fun s d =>
    match s.readBuffer (field d 16 8) (field d 24 8) host with
    | .error x => s.complete ring { status := x }
    | .ok b =>
      match s.loadCheck b (slice d 48 16) decl place spares, decl with
      | some x, _ => (s.sendVerdict (Config.sha3 b) false).complete ring { status := x }
      | none, none => s.complete ring { status := .formatInvalid }
      | none, some dc =>
        if !s.initCovers dc place (bits (field b 7 1) 0 1 == 1) inits || !inits.all (s.initWrites place) then
          (s.sendVerdict (Config.sha3 b) false).complete ring { status := .formatInvalid }
        else
        let p := programOf b (field d 32 8) (field d 40 4) dc place spares
        let s := s.sendVerdict p.hash true
        State.tryLoad { s with
          loadWait := some {
            ring := ring
            prog := p
            inits := inits }
          wd := some .load }

/-- LOAD_VERDICT: kept for the load in progress or to come. A member that has the program loaded answers the sled's spare, whose own load
waits for it, and the sled then has a spare (11 R288; log entry 62). -/
def loadVerdict (m : Msg) (s : State) : State :=
  if !(s.member && m.typ == 1 && m.opc == 3 && m.vc == 0) then s
  else
    let s := s.took m
    let v : W256 × Bool := (digestOf (slice m.body 8 32), field m.body 40 8 == 1)
    let t : State := { s with mach := { s.mach with verdicts := (s.mach.verdicts.filter fun (x : Nat × W256 × Bool) => x.1 != m.src) ++ [(m.src, v)] } }
    if t.loadWait.isSome then t.tryLoad
    else if m.src == s.spareRank && s.mach.rank.isSome && (s.prog.elim false fun p => v == (p.hash, true)) then
      State.send { s with recov := { s.recov with noSpare := false } } (verdictMsg v.1 true s.spareRank)
    else t

/-! ### The collective watchdog (09 R232) -/

/-- A STEP whose start barrier has not completed in time ends with TIMEOUT; nothing of the step has begun (01 R14). -/
def State.startTimeout (s : State) : State :=
  match s.st.run with
  | none => s
  | some r =>
    let s := s.setBarrier bStepStart { s.barrier bStepStart with
      own := none
      up := false }
    s.dropStep r s.st.lastAttempt {
      status := .timeout
      info := if r.exec then 1 else r.epoch
      step := s.st.stepNo
      replays := r.replays }

/-- Exports that wait for the window to close, by the WINDOW barrier or by a step's start, end with TIMEOUT (12 R316). -/
def State.windowTimeout (s : State) : State :=
  (s.st.evals.filter fun e => e.waits).foldl (fun s e =>
    s.endEval e.ring { status := .timeout, info := e.info, step := e.pinned }) s

/-- The watchdog expires at the point at which the module waits. -/
def State.expire (s : State) (w : WaitPoint) : State :=
  match w with
  | .stepStart => s.windowTimeout.startTimeout
  | .window => s.windowTimeout
  | .load => s.loadWait.elim s fun x => s.failLoad x.ring
  | .sampleExchange | .gatherExchange | .layerSlice | .programBarrier | .reduction | .finiteAnd | .commitBarrier => s.transient 0x04

/-- WATCHDOG_EXPIRY: counted, and the wait ends as its point says. The watchdog reads its register, so a parity mismatch is found here (15 R383). -/
def watchdogExpiry (s : State) : State :=
  match s.live, s.wd with
  | true, some w => s.reading [(0x0018C, s.regs.watchdog)] fun s => (State.count { s with wd := none } cWatchdog 1).expire w
  | _, _ => s

/-- LOAD_PROGRAM (14 R349). -/
def execLoadProgram (ring : Nat) (host : List Byte) (decl : Option Decl) (place : Placing) (inits : InitWrites) (s : State) :
    Host.Outcome State Fault Refusal := .next (loadProgram ring host decl place.place inits place.spares s)
/-- LOAD_VERDICT (14 R351). -/
def execLoadVerdict (m : Msg) (s : State) : Host.Outcome State Fault Refusal := .next (loadVerdict m s)
/-- WATCHDOG_EXPIRY (09 R232). -/
def execWatchdogExpiry (s : State) : Host.Outcome State Fault Refusal := .next (watchdogExpiry s)

end Sys2Proof.Machine
end

