-- ==== Sys2Proof/Machine/Commands.lean ====
section
/-! DEFINITION. MAP_TENSOR and COPY (13 R343), and saved contexts: CHECKPOINT and RESTORE_CONTEXT (13 R344). -/

namespace Sys2Proof.Machine

open Sys2Proof

/-! ### MAP_TENSOR (13 R343) -/

/-- A placement record of MAP_TENSOR. -/
def mapRecord (x : RowPlace) : List Byte :=
  leBytes 8 x.first ++ leBytes 4 x.rows ++ leBytes 4 x.rowBytes ++ leBytes 8 x.addr ++ leBytes 4 x.stride ++ zeros 4

/-- MAP_TENSOR. -/
def mapTensor (ring : Nat) (s : State) : State :=
  s.command ring 0x03 (fun _ => true) fun s d =>
    match s.prog with
    | none => s.complete ring { status := .stateInvalid }
    | some p =>
      if p.tensors.any fun t => t.id == field d 16 2 then
        let l := s.rangesOf (field d 16 2)
        if field d 32 4 < 32 * l.length then s.complete ring { status := .resourceShort }
        else
          match s.writeBuffer (field d 24 8) (l.flatMap mapRecord) with
          | none => s.complete ring { status := .indexRange }
          | some t => t.complete ring { status := .ok, info := l.length }
      else s.complete ring { status := .indexRange }

/-! ### COPY (13 R343, 08 R187, R206, R207) -/

/-- The ring and its directory. -/
def ringRegions (d : Decl) (p : Placement) : List Region := [p.ring, { base := p.ringDir, len := 32 * ringRecords d }]

/-- Every loader-placed region but the capture region and the retention ring. -/
def placedRegions (p : Program) : List Region :=
  hbmRegions p.decl p.tensors p.place p.t7 (fun _ => true) ++ [mirrorRegion p.decl p.place, p.place.pending, p.place.undo, p.place.tailrace, p.place.cold] ++
  p.place.mirrored ++ p.place.rows.map fun r => { base := r.addr, len := r.stride * r.rows }

/-- COPY may write a device range. -/
def State.copyWrites (s : State) (a n : Nat) : Bool :=
  let free := fun (l : List Region) => l.all fun r => !overlaps { base := a, len := n } r
  match s.placeOfRange a n with
  | .hbm | .dram => s.prog.elim true fun p => free (placedRegions p)
  | .flash => a % 65536 == 0 && n % 65536 == 0 && s.prog.elim true fun p => free (ringRegions p.decl p.place)
  | _ => false

/-- COPY may read a device range: HBM, module DRAM above the firmware region, and flash in whole aligned pages (08 R187). -/
def State.copyReads (s : State) (a n : Nat) : Bool :=
  match s.placeOfRange a n with
  | .hbm | .dram => true
  | .flash => a % 4096 == 0 && n % 4096 == 0
  | _ => false

/-- Pages rewritten are readable again. -/
def State.rewritten (s : State) (a n : Nat) : State :=
  { s with tier := { s.tier with unreadable := s.tier.unreadable.filter fun p => !(decide ((pagesOf a n).1 ≤ p) && decide (p < (pagesOf a n).2)) } }

/-- COPY. One to flash may meet a block that fails its program or erase: `bad` are the blocks after the translation layer has retired it (08 R208).
DESIGN CHOICE (log entry 135): a COPY whose own failed programs take the blocks below 1 % completes first and does not post TIER_FAULT. -/
def copy (ring : Nat) (host : List Byte) (bad : Option FlashBlocks) (s : State) : State :=
  s.command ring 0x09 (fun _ => true) fun s d =>
    let src := field d 16 8
    let dst := field d 24 8
    let n := field d 32 8
    if bufSpace src = 1 ∧ bufSpace dst = 1 then s.complete ring { status := .indexRange }
    else if bufSpace src = 0 ∧ n ≠ 0 ∧ s.copyReads (bufDa src) n = false then s.complete ring { status := .indexRange }
    else if bufSpace dst = 0 ∧ n ≠ 0 ∧ s.copyWrites (bufDa dst) n = false then s.complete ring { status := .indexRange }
    else
      match s.readBuffer src n host with
      | .error x => s.complete ring { status := x }
      | .ok b =>
        if bufSpace dst = 0 then
          let t := ((s.write (bufDa dst) b).rewritten (bufDa dst) n).complete ring { status := .ok, info := n }
          if n ≠ 0 ∧ s.placeOf (bufDa dst) = .flash then t.badBlocks bad else t
        else
          match s.writeBuffer dst b with
          | none => s.complete ring { status := .indexRange }
          | some t => t.complete ring { status := .ok, info := n }

/-! ### Saved contexts (13 R344) -/

/-- The bytes of regions one after another. -/
def State.regionBytes (s : State) (rs : List Region) : List Byte := rs.flatMap fun r => s.read r.base r.len

/-- The header of a saved context over what follows it. -/
def State.contextHeader (s : State) (imageLen : Nat) (rest : List Byte) : List Byte :=
  leBytes 2 1 ++ zeros 2 ++ leBytes 2 s.rank ++ leBytes 2 s.ranks ++ leBytes 4 s.st.stepNo ++ zeros 4 ++ leBytes 8 s.st.epoch ++
  digestBytes (s.prog.elim 0 (·.hash)) ++ leBytes 8 imageLen ++ leBytes 8 (checksum rest) ++ zeros 56

/-- This rank's saved context. -/
def State.savedContext (s : State) : List Byte :=
  let image := s.regionBytes (s.imageRegions s.st.wEpoch)
  let rest := s.generatorSection ++ image
  s.contextHeader image.length rest ++ rest

/-- Bytes of a saved context. -/
def State.contextLen (s : State) : Nat := 656 + totalBytes (s.imageRegions s.st.wEpoch)

/-- CHECKPOINT. With PIN at another boundary it is refused, as a pinned STEP is; a buffer that is too small or out of place refuses it before
anything changes (00 R6). -/
def checkpoint (ring : Nat) (s : State) : State :=
  s.command ring 0x0A (fun _ => true) fun s d =>
    if descPin d = true ∧ descStepno d ≠ s.st.stepNo then s.complete ring { status := .stateInvalid, step := s.st.stepNo }
    else if field d 24 8 < s.contextLen then s.complete ring { status := .resourceShort, step := s.st.stepNo }
    else if !s.bufferTakes (field d 16 8) s.contextLen then s.complete ring { status := .indexRange, step := s.st.stepNo }
    else
      let s := s.startRunning.storeCarried
      let b := s.savedContext
      (s.putBuffer (field d 16 8) b).complete ring { status := .ok, info := b.length, step := s.st.stepNo }

/-- The first check of a saved context of `n` bytes that fails. -/
def State.contextFault (s : State) (b : List Byte) : Option Status :=
  if field b 0 2 ≠ 1 ∨ slice b 24 32 ≠ digestBytes (s.prog.elim 0 (·.hash)) then some .formatInvalid
  else if bits (field b 4 2) 0 13 ≠ s.rank ∨ field b 6 2 ≠ s.ranks then some .indexRange
  else if b.length < 656 + field b 56 8 then some .resourceShort
  else if checksum (slice b 128 (528 + field b 56 8)) ≠ field b 64 8 then some .memoryUncorrectable
  else none

/-- The stream offsets of a generator section (12 R302). -/
def sectionOffsets (g : List Byte) : List Nat := (List.range 64).map fun i => field g (16 + 8 * i) 8

/-- What lay on the boundary before the machine was moved to another step: no action of it counts, and the Eddy refresh is due again. The last committed
step is the one before, if the program ran one (16 R406). -/
def State.movedTo (s : State) (step epoch : Nat) : State :=
  { s with st := { s.st with
    stepNo := step
    epoch := epoch
    committed := if s.prog.elim true fun p => p.first == step then none else some ((step + 2 ^ 32 - 1) % 2 ^ 32)
    completed := none
    lastAttempt := none
    applied := []
    arrived := []
    installed := []
    landed := []
    refreshed := []
    windowOpen := true
    windowShut := false
    windowClosed := none
    budgetSpent := false
    compacted := false
    modelHash := none
    hashes := [] } }

/-- The seed of a generator section (12 R302) becomes the one in force (12 R294). -/
def State.takeSeed (s : State) (g : List Byte) : State := { s with prog := s.prog.map fun p => { p with seed := BitVec.ofNat 64 (field g 0 8) } }

/-- A saved context put in place of this rank's mirrored state, with its seed and stream offsets. -/
def State.restore (s : State) (b : List Byte) : State :=
  let s := (s.putImage (s.imageRegions s.st.wEpoch) 0 (slice b 656 (field b 56 8))).loadCarried
  let s := (s.movedTo (field b 8 4) (field b 16 8)).takeSeed (slice b 128 528)
  State.copySlices { s with
    st := { s.st with offsets := sectionOffsets (slice b 128 528) }
    recov := { s.recov with fallback := false } }

/-- RESTORE_CONTEXT. -/
def restoreContext (ring : Nat) (host : List Byte) (s : State) : State :=
  s.command ring 0x0B (fun _ => true) fun s d =>
    match s.readBuffer (field d 16 8) (field d 24 8) host with
    | .error x => s.complete ring { status := x }
    | .ok b =>
      match s.contextFault b with
      | some x => s.complete ring { status := x, step := field b 8 4 }
      | none =>
        let t := s.startRunning.restore b
        t.copyBoundary (t.imageRegions t.st.wEpoch) [(ring, t.st.stepNo, t.st.stepNo)]

/-- MAP_TENSOR (13 R343). -/
def execMapTensor (ring : Nat) (s : State) : Host.Outcome State Fault Refusal := .next (mapTensor ring s)
/-- COPY (13 R343). -/
def execCopy (ring : Nat) (x : CopyIn) (s : State) : Host.Outcome State Fault Refusal := .next (copy ring x.host x.bad s)
/-- CHECKPOINT (13 R344). -/
def execCheckpoint (ring : Nat) (s : State) : Host.Outcome State Fault Refusal := .next (checkpoint ring s)
/-- RESTORE_CONTEXT (13 R344). -/
def execRestoreContext (ring : Nat) (host : List Byte) (s : State) : Host.Outcome State Fault Refusal := .next (restoreContext ring host s)

end Sys2Proof.Machine
end

