-- ==== Sys2Proof/Machine/Matrix.lean ====
section
/-! DEFINITION. The Matrix Cluster (04): accumulators, Spillway (03 R70-R72), the fused epilogue and output conversion (04 R97-R99),
gang shapes and the held stationary operand (04 R84, R96), MATMUL, MATMUL_PART and TILE_COMPLETE. -/

namespace Sys2Proof.Machine

open Sys2Proof

/-! ### Accumulators -/

/-- One floating accumulator: the A48 code, or the FP32 code in T7-exact mode (02 R50, 03 R77). -/
def floatAcc (t7 : Bool) (a b : List Nat) : Nat × AFlags :=
  let ps := (a.map bf16.decode).zip (b.map bf16.decode)
  if t7 then dotT7 ps else dotFloat ps

/-- One block-scaled accumulator (02 R57). -/
def scaledAcc (afmt bfmt : Nat) (a b sa sb : List Nat) : Nat :=
  dotBs ((a.map (elemInt afmt)).zip (b.map (elemInt bfmt))) ((sa.zip sb).map fun x => x.1 + x.2)

/-- The stationary operand that a tile multiplies by: codes and scale bytes, both by column. -/
abbrev Cells := List (List Nat) × List (List Nat)

/-- The stationary operand read from memory. -/
def State.cellsB (s : State) (d : TileDesc) : Cells := (s.tileB d, if isBs d.bfmt then s.scalesB d else [])

/-- The floating and block-scaled accumulators of a tile, row by row, with their flags. -/
def State.floatAccs (s : State) (d : TileDesc) (b : Cells) (t7 : Bool) : List (List (Nat × AFlags)) :=
  if d.afmt = 1 then (s.tileA d).map fun a => b.1.map (floatAcc t7 a)
  else
    ((s.tileA d).zip (s.scalesA d)).map fun a => (b.1.zip b.2).map fun b => (scaledAcc d.afmt d.bfmt a.1 b.1 a.2 b.2, {})

/-- A pass of an integer tile with the streamed codes halved k times: the sums, and whether any overflowed (02 R56, 03 R71). -/
def State.intPass (s : State) (d : TileDesc) (b : Cells) (k : Nat) : List (List Int) × Bool :=
  let cols := b.1.map fun c => c.map (elemInt d.bfmt)
  let r := (s.tileA d).map fun a => cols.map fun b => dotInt ((a.map fun x => halved k (elemInt d.afmt x)).zip b)
  (r.map fun row => row.map (·.1), r.any fun row => row.any (·.2))

/-- Spillway: the first of passes 0 to 3 that does not overflow, with its number; none when all do (03 R71). -/
def State.spillway (s : State) (d : TileDesc) (b : Cells) : Nat → Nat → Option (Nat × List (List Int))
  | 0, _ => none
  | fuel + 1, k => let r := s.intPass d b k; if r.2 then s.spillway d b fuel (k + 1) else some (k, r.1)

/-! ### The epilogue (04 R97, R98) -/

/-- mul_a48: exact, rounded once, zero +0. -/
def mulA48 (x s : FVal) : Nat × AFlags :=
  let r := a48.mulVals x s
  (plusZero a48 r.1, r.2)

/-- add_a48 with its flags. -/
def addA48Flags (x b : FVal) : Nat × AFlags :=
  let r := a48.addVals x b
  (plusZero a48 r.1, r.2)

/-- A value is below zero. -/
def FVal.below : FVal → Bool
  | .nan => false
  | .inf a => a
  | .fin a m _ => a && m != 0

/-- The activation of 04 R98 on an A48 code. -/
def activate (d : TileDesc) (x : Nat) : Nat × AFlags :=
  let v := a48.decode x
  match d.act with
  | 1 => (if v.below then 0 else plusZero a48 x, {})
  | 2 => if v.below then mulA48 v (fp32.decode d.p0) else (plusZero a48 x, {})
  | 3 =>
    let y := FVal.min (v.max (fp32.decode d.p0)) (fp32.decode d.p1)
    let c := (a48.ofVal y).1
    (plusZero a48 c, resultFlags a48 c y.isInf)
  | _ => (plusZero a48 x, {})

/-- Steps 2 to 4 of 04 R97 on one accumulator in A48, with the scale and the bias of its column. -/
def epilogue (d : TileDesc) (scale bias : Nat) (x : Nat) : Nat × AFlags :=
  let r1 := if d.smode = 0 then (x, {}) else mulA48 (a48.decode x) (fp32.decode scale)
  let r2 := if d.bias then addA48Flags (a48.decode r1.1) (fp32.decode bias) else (r1.1, {})
  let r3 := activate d r2.1
  (r3.1, (r1.2.or r2.2).or r3.2)

/-- The scale of a column: none, one for all, or the column's own. -/
def State.columnScale (s : State) (d : TileDesc) (c : Nat) : Nat :=
  match d.smode with
  | 1 => d.scale
  | 2 => s.readNat (d.scale + 4 * c) 4
  | _ => 0

/-- The bias of a column. -/
def State.columnBias (s : State) (d : TileDesc) (c : Nat) : Nat := if d.bias then s.readNat (d.biasAddr + 4 * c) 4 else 0

/-- The epilogue over the accumulators of a tile. -/
def State.epilogues (s : State) (d : TileDesc) (rows : List (List Nat)) : List (List (Nat × AFlags)) :=
  let cols := (List.range d.n).map fun c => (s.columnScale d c, s.columnBias d c)
  rows.map fun r => (r.zip cols).map fun x => epilogue d x.2.1 x.2.2 x.1

/-! ### Output conversion (04 R99) -/

/-- A row's output bytes, its scale bytes, its flags; none when a value has no encoding in the output format (02 R49). An infinity that
is converted was flagged where it arose (02 R53). -/
def convertRow (d : TileDesc) (xs : List Nat) : Option (List Byte × List Byte × AFlags) :=
  let vs := xs.map a48.decode
  if isInt d.ofmt then
    if vs.all FVal.finite then
      let q := quantize d.ofmt d.oscale vs
      some (packCodes d.ofmt q.1, [], { sat := q.2 })
    else none
  else if isBs d.ofmt then
    if vs.all FVal.finite then
      let q := quantizeBlocks d.ofmt (recipeLimit d.ofmt (d.okind == 2)) vs
      some (packCodes d.ofmt q.1, q.2.1.map (BitVec.ofNat 8), { sat := q.2.2 })
    else none
  else
    let f := (floatFmt d.ofmt).getD fp32
    let r := vs.map f.ofVal
    some (packCodes d.ofmt (r.map fun x => plusZero f x.1), [], { AFlags.all (r.map (·.2)) with infOut := false })

/-- The largest finite magnitude among A48 codes, as an A48 code (04 R99): magnitudes of finite codes order as their low bits do. -/
def largestFinite (xs : List Nat) : Nat :=
  xs.foldl (fun m x => if (a48.decode x).finite then max m (x % a48.signBit) else m) 0

/-- The 8-byte header of a raw output (04 R99). -/
def tileHeader (d : TileDesc) (k : Nat) : List Byte := leBytes 1 (intCode 8 (d.exponent + k)) ++ leBytes 1 k ++ leBytes 1 d.ofmt ++ zeros 5

/-- What a tile comes to: its flags, its Spillway repeats, its stores or its fault, and its largest finite magnitude before conversion. -/
structure TileResult where
  flags : AFlags
  repeats : Nat
  fault : Option Status
  stores : List (Nat × List Byte)
  largest : Nat
  deriving DecidableEq, Repr, Inhabited

/-- A tile that ends the work with a code writes nothing. -/
def TileResult.failed (f : AFlags) (repeats : Nat) (x : Status) : TileResult := { flags := f, repeats := repeats, fault := some x, stores := [], largest := 0 }

/-- The rows of a raw output. -/
def rawStores (d : TileDesc) (k : Nat) (rows : List (List Nat)) : List (Nat × List Byte) :=
  (d.hdrAddr, tileHeader d k) :: (List.range rows.length).map fun i => (d.oAddr + i * d.oStride, packCodes d.ofmt (nth [] rows i))

/-- A tile's output through the epilogue from accumulators in A48. -/
def State.finishTile (s : State) (d : TileDesc) (k : Nat) (flags : AFlags) (accs : List (List Nat)) : TileResult :=
  let e := s.epilogues d accs
  let fl := flags.or (AFlags.all (e.flatten.map (·.2)))
  let xs := e.map fun r => r.map (·.1)
  let out := xs.map (convertRow d)
  if out.any (·.isNone) then .failed fl k .formatInvalid
  else
    let out := out.filterMap id
    let stat := if d.stats then [(d.hdrAddr + 8, leBytes 8 (largestFinite xs.flatten))] else []
    {
      flags := fl.or (AFlags.all (out.map (·.2.2)))
      repeats := k
      fault := none
      stores := (List.range out.length).flatMap (fun i =>
        let r := nth ([], [], {}) out i
        (d.oAddr + i * d.oStride, r.1) :: (if isBs d.ofmt then [(d.osAddr + i * d.osStride, r.2.1)] else [])) ++ stat
      largest := largestFinite xs.flatten
    }

/-- A tile computed against its stationary operand (04 R86, R97-R99; 02 R47, R50, R56, R57; 03 R71, R77). DESIGN CHOICE (log entry 126): every code and
scale byte of a block-scaled operand within K counts as decoded, those of lines and chunks that 05 R111 neither loads nor streams too. -/
def State.tileResult (s : State) (d : TileDesc) (b : Cells) (t7 : Bool) : TileResult :=
  if d.integer then
    match s.spillway d b 4 0 with
    | none => .failed {} 3 .spillwayExhausted
    | some (k, rows) =>
      if d.ofmt = 7 then { flags := {}, repeats := k, fault := none, stores := rawStores d k (rows.map fun r => r.map (intCode 32)), largest := 0 }
      else
        s.finishTile d k {} (rows.map fun r => r.map fun v => roundA48 { m := v, e := d.exponent + k })
  else if d.k ≠ 0 ∧ (invalidCodes d.afmt (s.tileA d) (if isBs d.afmt then s.scalesA d else []) = true ∨
      invalidCodes d.bfmt b.1 b.2 = true) then .failed {} 0 .formatInvalid
  else
    let accs := if d.k = 0 then List.replicate d.m (List.replicate d.n (0, {})) else s.floatAccs d b t7
    let fl := AFlags.all (accs.flatten.map (·.2))
    let rows := accs.map fun r => r.map (·.1)
    if d.part then { flags := fl, repeats := 0, fault := none, stores := rawStores d 0 rows, largest := 0 }
    else s.finishTile d 0 fl (if t7 then rows.map fun r => r.map fun c => (a48.ofVal (fp32.decode c)).1 else rows)

/-! ### Gangs (04 R84, R94-R96) -/

/-- The Matrix Cluster of a logical core. -/
abbrev State.mc (s : State) (core : Nat) : McState := s.gc.mc.getD core default

/-- A Matrix Cluster changed. -/
def State.setMc (s : State) (core : Nat) (m : McState) : State := { s with gc := { s.gc with mc := setNth s.gc.mc core m } }

/-- Descriptors in progress on a Matrix Cluster. -/
def State.mcBusy (s : State) (core : Nat) : List Running := s.gc.busy.filter fun r => r.unit == .mc && r.core == core

/-- The stationary operand that a descriptor loads. -/
def TileDesc.stationary (d : TileDesc) : Stationary where
  bAddr := d.bAddr
  bStride := d.bStride
  bsAddr := d.bsAddr
  bsStride := d.bsStride
  bfmt := d.bfmt
  benc := d.benc
  kbase := d.kbase
  k := d.k
  n := d.n

/-- A held operand serves a descriptor: loaded from the same place, with at least its columns (04 R96). -/
def Stationary.serves (h : Stationary) (d : TileDesc) : Bool := { h with n := d.n } == d.stationary && decide (d.n ≤ h.n)

/-- The cluster takes a shape, discarding what it holds, when it is another one (04 R84). -/
def State.reshape (s : State) (core shape : Nat) : State :=
  if (s.mc core).shape = shape then s
  else State.count (s.setMc core { shape := shape, stat := [], due := none }) (cCore (s.physical core) 3) 1

/-- The held operand that a single-chunk KEEP_B tile reuses, when the gang holds one that serves it (04 R96). -/
def State.keptB (s : State) (core : Nat) (d : TileDesc) (chunks : List (Nat × Nat)) : Option Held :=
  if d.keepB && decide (chunks.length ≤ 1) then ((s.mc core).stat.find d.gang).filter fun h => h.key.serves d else none

/-- The stationary operand is kept or loaded (04 R96), with the cells that the tile multiplies by: the first N held columns, or what memory holds. A
KEEP_B that is not honoured counts as a miss, and a gang that loads several chunks holds no whole operand afterwards. -/
def State.loadB (s : State) (core : Nat) (d : TileDesc) (paths : List (List Bool)) (chunks : List (Nat × Nat)) : Cells × State :=
  let m := s.mc core
  match s.keptB core d chunks with
  | some h => ((h.codes.take d.n, h.scales.take d.n), s)
  | none =>
    let b := s.cellsB d
    let t := if d.keepB then s.count (cCore (s.physical core) 4) 1 else s
    let held := if chunks.length ≤ 1 then m.stat.put d.gang { key := d.stationary, codes := b.1, scales := b.2 } else m.stat.erase d.gang
    (b, if s.loads d paths chunks then t.setMc core { m with stat := held } else t)

/-- Bytes stored at several addresses in turn. -/
def State.stores (s : State) (l : List (Nat × List Byte)) : State := l.foldl (fun s x => s.write x.1 x.2) s

/-- The ranges of a queued tile. -/
def tileRanges (q : QDesc) : Ranges := ((tileDesc q.bytes).reads, (tileDesc q.bytes).writes)

/-- A queued tile is clear of the uncompleted ones that its Matrix Cluster accepted before it (04 R95). -/
def State.tileClear (s : State) (q : QDesc) : Bool :=
  s.queuedClear (fun r => r.unit == .mc && r.core == q.core) (fun e => e.unit == .mc && e.core == q.core) tileRanges q

/-- The queued descriptor whose reshape is due on a Matrix Cluster: until it starts, no gang starts any other (04 R84). -/
def State.reshapeDue (s : State) (core : Nat) : Option QDesc := (s.mc core).due.filter s.gc.queue.contains

/-- The descriptor that a gang takes: the one whose reshape is due, else the highest level's among those held back by no earlier one, earliest issued
within a level (04 R84, R94, R95; log entry 119). -/
def State.nextTile (s : State) (core gang : Nat) : Option QDesc :=
  match s.reshapeDue core with
  | some q => if q.gang = gang then some q else none
  | none => s.nextDesc fun q => q.unit == .mc && q.core == core && q.gang == gang && s.tileClear q

/-- Whether a descriptor may start in the shape it names: its gang is free, no held flag stands and its scan is done (04 R94, 05 R107, 14 R361). -/
def State.tileReady (s : State) (q : QDesc) (d : TileDesc) : Bool :=
  (s.mcBusy q.core).all (fun r => r.gang != d.gang && !r.done) && (!d.headered || q.scanned)

/-- A descriptor of another shape must wait until every gang has finished (04 R84). -/
def State.reshapeWaits (s : State) (q : QDesc) (d : TileDesc) : Bool := (s.mc q.core).shape != d.shape && !(s.mcBusy q.core).isEmpty

/-- The evaluation tensor that a tile's kernel forms, when its output is converted into INT8 or INT4 (03 R63, 04 R99; log entry 116). -/
def State.formsEval (s : State) (q : QDesc) (d : TileDesc) : Option Nat :=
  ((s.prog.bind fun p => p.decl.kernels[q.kernel]?).bind (·.forms)).filter fun t => isInt d.ofmt && s.evalTensor t

/-- A tile that forms an evaluation tensor takes its magnitude into the step's record of it (03 R63). -/
def State.recordTile (s : State) (q : QDesc) (d : TileDesc) (m : Nat) : State := (s.formsEval q d).elim s fun t => s.recordMagnitude q.eval t m

/-- An EVAL's tile converts an evaluation tensor with the calibrated scale, whatever OSCALE says (03 R63); a step's with OSCALE (04 R99). -/
def State.scaledTile (s : State) (q : QDesc) (d : TileDesc) : TileDesc :=
  if q.eval then (s.formsEval q d).elim d fun t => { d with oscale := s.intScale t d.ofmt } else d

/-- A tile that starts: reshaped, loaded, streamed, repeated, and its output written or its fault raised (04 R86). DESIGN CHOICE (log entry 119): it
reads every operand and writes its output at once as it starts, before TILE_COMPLETE; 04 R95 leaves open what a tile reads that another writer changes
before its flag. -/
def State.runTile (s : State) (q : QDesc) (d : TileDesc) : State :=
  let (b, s) := (s.reshape q.core d.shape).loadB q.core d q.paths (q.tileChunks d)
  let r := s.tileResult (s.scaledTile q d) b (s.prog.elim false (·.t7))
  let skipped := s.skips d q.paths (q.tileChunks d)
  let p := s.physical q.core
  let s := (s.count (cCore p 8) skipped.1).count (cCore p 9) skipped.2
  let s := if r.repeats = 0 then s else State.markRescaled ((s.count (cCore p 11) r.repeats).count (cCore p 12) 1) q.eval
  let s := s.raise q.core q.slot r.flags
  match r.fault with
  | some x => s.failDesc q x
  | none => ((s.recordTile q d r.largest).stores r.stores).startDesc q d.flag d.reads d.writes

/-- The next descriptor of a gang, if it is of the kind `part` says: checked as it is accepted, and run when it may start. -/
def State.tile (s : State) (core gang : Nat) (part : Bool) : State :=
  match s.nextTile core gang with
  | none => s
  | some q =>
    let d := tileDesc q.bytes
    if !(s.hasCore core && s.workLive q.eval && d.part == part) then s
    else
      match s.tileCheck d q with
      | some x => s.failDesc q x
      | none =>
        if !s.tileReady q d then s
        else if s.reshapeWaits q d then s.setMc core { s.mc core with due := some q }
        else s.runTile q d

/-- TILE_COMPLETE: the tile of a gang is counted and its flag set (04 R90). -/
def tileComplete (core gang : Nat) (s : State) : State :=
  let p := fun r : Running => r.unit == .mc && r.core == core && r.gang == gang
  if s.gc.busy.any fun r => p r && !r.done && s.hasCore r.core then (s.count (cCore (s.physical core) 2) 1).finishDesc p else s

/-- MATMUL (04 R86). -/
def execMatmul (core gang : Nat) (s : State) : Host.Outcome State Fault Refusal := .next (s.tile core gang false)

/-- MATMUL_PART (04 R102). -/
def execMatmulPart (core gang : Nat) (s : State) : Host.Outcome State Fault Refusal := .next (s.tile core gang true)

/-- TILE_COMPLETE (04 R90). -/
def execTileComplete (core gang : Nat) (s : State) : Host.Outcome State Fault Refusal := .next (tileComplete core gang s)

end Sys2Proof.Machine
end

