-- ==== Sys2Proof/Machine/Ports.lean ====
section
/-! DEFINITION. Ports: training, flits, lane drops, heartbeats, loss of a port, tests (10 R236-R266), and remote reads and writes
(08 R188). -/

namespace Sys2Proof.Machine

open Sys2Proof

/-! ### Loss of flits and messages (10 R240, R241) -/

/-- The messages of which some flit has been sent on a port and some flit is still to be acknowledged or sent: those with a flit not acknowledged, and
those whose first flit no longer waits. -/
def Port.begun (p : Port) : List Msg :=
  let waiting := p.txq.filter fun f => !(p.txq.any fun g => g.msg == f.msg && g.som)
  ((p.replay.map fun e => e.2.msg) ++ waiting.map (·.msg)).eraseDups

/-- The messages that wait whole on a port. HEARTBEAT belongs to its port and goes nowhere else. -/
def Port.waiting (p : Port) : List Msg := ((p.txq.filter (·.som)).map (·.msg)).eraseDups.filter fun m => m.typ != 7 && !p.begun.contains m

/-- A lost message (10 R241): its source is told on VC0; one of the step in progress is a step-transient failure, and any other is sent again by its
source. -/
def State.lostMessage (s : State) (m : Msg) : State :=
  let s := if s.isSource m then s else s.send (lossReport m false)
  if s.stepTraffic m then s.report 1 0x02 0 s.ms.position 0xFF 0xFF
  else if s.isSource m then s.resend (if s.net.sent.contains m then m else { m with id := m.id + 2 ^ 32 })
  else s

/-- A message sent onward by the route now in force; one that travels and finds no port UP is discarded and lost (10 R260). -/
def State.forward (s : State) (m : Msg) : State :=
  if !s.isSource m && (s.routePort m.dst).isNone then (s.count cRouteDiscard 1).lostMessage m else s.transmit m

/-- The flits not acknowledged on a port are lost with their messages; those that waited whole are sent by another route (10 R240). -/
def State.loseFlits (s : State) (p : Nat) : State :=
  let x := s.port p
  let lost := x.begun.filter fun m => m.typ != 7
  let s := (s.setPort p { x with replay := [], txq := [], asm := [], owed := [] }).count (cPort p 2) x.replay.length
  let s := lost.foldl State.lostMessage s
  x.waiting.foldl State.forward s

/-- A port that was UP or retraining goes DOWN: its flits are lost and the coordinator is told, with the neighbour's last position and
state (10 R240, R262, 11 R270). -/
def State.portDown (s : State) (p : Nat) : State :=
  let x := s.port p
  let s := s.setPort p { x with st := .down, width := 0, active := 0, retraining := false, tries := 0, checked := false }
  let s := { s with ind := { s.ind with laneState := s.ind.laneState.filter fun e => e.1 / 24 != p } }
  (s.loseFlits p).report 2 0x05 0 x.nbrPos p x.nbrState

/-! ### Training (10 R237, R254-R256) -/

/-- The module can train ports: firmware runs, at stage LINKS of a boot too (16 R392), and the module is not halted. -/
def State.trains (s : State) : Bool := (s.live && s.ms.st != .recovery) || (s.on && s.ms.st == .rom && s.ms.fwRun == some 0x0A)

/-- The largest width of 10 R237 for a number of passing lanes; 0 when fewer than 8 pass. -/
def widthFor (n : Nat) : Nat := if 24 ≤ n then 24 else if 20 ≤ n then 20 else if 16 ≤ n then 16 else if 12 ≤ n then 12 else if 8 ≤ n then 8 else 0

/-- The lowest-numbered passing lanes, as many as the width (10 R237). -/
def lowestLanes (passing : BitVec 24) (width : Nat) : BitVec 24 :=
  (((List.range 24).filter fun i => passing.getLsbD i).take width).foldl (fun v i => v ||| BitVec.ofNat 24 (2 ^ i)) 0

/-- How many lanes pass. -/
def passCount (passing : BitVec 24) : Nat := ((List.range 24).filter fun i => passing.getLsbD i).length

/-- The class of a port's preset (10 R235, 16 R390). -/
def portClass (p : Nat) : Nat := if p < 4 then 0 else if p < 12 then 1 else 2

/-- The link preset of a port's class. -/
def State.presetOf (s : State) (p : Nat) : Option Preset := s.ms.presets.find? fun r => r.cls == portClass p

/-- The receive-buffer credits that this end advertises (10 R242). -/
def State.presetCredits (s : State) (p : Nat) : List Nat := (s.presetOf p).elim (List.replicate 12 0) (·.credits)

/-- Credits toward the far end: what it advertises, less what the flits that it has not acknowledged hold (10 R242; log entry 121). -/
def Port.creditsFrom (x : Port) (adv : List Nat) : List Nat :=
  (List.range 12).map fun v => nth 0 adv v - (x.replay.filter fun e => e.2.msg.vc == v).length

/-- A port starts to train, with the transmit taps of lane.txeq, which hold the preset of its class unless the host has written others (10 R238,
R254, 15 R377). -/
def State.startTraining (s : State) (p : Nat) : State :=
  s.setPort p { s.port p with st := .training, checked := false }

/-- The identity frame that a port sends (10 R255). -/
def State.identityFrame (s : State) (p : Nat) : List Byte :=
  let b := leBytes 2 s.ms.position ++ leBytes 1 p ++ leBytes 1 s.ms.st.code ++ leBytes 1 0x10 ++ leBytes 1 0x32 ++ leBytes 2 (s.ms.fw.elim 0 (·.level)) ++
    leBytes 1 3 ++ leBytes 1 9 ++ zeros 2 ++ digestBytes (s.ms.map.elim 0 (·.mapId)) ++ zeros 16
  b ++ leBytes 4 (crc32c b)

/-- The identity frame taken of the copies that arrive: one that at least 33 of them agree on, with a valid CRC (10 R254). -/
def takenFrame (copies : List (List Byte)) : Option (List Byte) :=
  copies.find? fun f => f.length == 64 && decide (33 ≤ copies.count f) && crcOk f 64

/-- The reason of 10 R256 for a taken identity frame, none when the checks pass. -/
def State.frameReason (s : State) (p : Nat) (f : List Byte) : Option Nat :=
  match s.ms.map.bind fun m => m.neighbour s.ms.position p, s.ms.map with
  | some (pos, port), some m =>
    if bits (field f 0 2) 0 14 ≠ pos then some 1
    else if field f 2 1 ≠ port then some 2
    else if digestOf (slice f 12 32) ≠ m.mapId then some 3
    else if 0x32 < field f 4 1 ∨ field f 5 1 < 0x10 then some 4
    else none
  | _, _ => some 1

/-- PORT_TRAINING_CHECK (10 R254-R256): the port sends its own identity frame, and the frame that it takes is checked against the map. The
check of one that CABLE_MISMATCH would tell of waits while the hold of events is full (13 R337; log entry 27). -/
def portTrainingCheck (p : Nat) (copies : List (List Byte)) (s : State) : State :=
  let x := { s.port p with identSent := s.identityFrame p }
  if s.trains ∧ x.st = .training then
    match takenFrame copies with
    | none => s.setPort p x
    | some f =>
      let s := { s with ind := { s.ind with ident := s.ind.ident.set [] p f } }
      match s.frameReason p f with
      | none =>
        s.setPort p { x with
          checked := true
          ylver := min 0x32 (field f 5 1)
          rate224 := decide (0x30 ≤ min 0x32 (field f 5 1))
          nbrPos := bits (field f 0 2) 0 14
          lastBad := none }
      | some r =>
        let t := s.setPort p { x with st := .held, reason := r, checked := false, lastBad := some f }
        if x.lastBad = some f then t
        else if s.holdFull then s
        else t.post evCableMismatch (leBytes 1 p ++ leBytes 1 r ++ leBytes 2 (bits (field f 0 2) 0 14) ++ leBytes 1 (field f 2 1))
  else s

/-- A HEARTBEAT on one port (10 R262): it is not forwarded and takes no MSGID. -/
def State.heartbeatOn (s : State) (p : Nat) : State :=
  let b := leBytes 2 s.ms.position ++ leBytes 1 s.ms.st.code ++ zeros 1 ++ leBytes 8 s.regs.cycles.toNat ++ zeros 4
  let m := { mkMsg 7 0 0 0 b with src := s.rank }
  let x := s.port p
  (s.setPort p { x with txq := x.txq ++ flitsOf m }).pumpPort p

/-- Lanes in use and locked (15 R377 lane.state). -/
def State.setLanes (s : State) (p : Nat) (passing active : BitVec 24) : State :=
  let st := (List.range 24).foldl (fun m i =>
    m.set 0 (24 * p + i) (BitVec.ofNat 32 ((active.getLsbD i).toNat * 2 + (passing.getLsbD i).toNat))) s.ind.laneState
  { s with ind := { s.ind with laneState := st } }

/-- The receive equalisers of a port's lanes adapt to settings the spec leaves open (10 R238; log entry 20). The transmit taps adapt too, from those of
lane.txeq, which keeps the starting ones (15 R377). -/
def State.adaptLanes (s : State) (p : Nat) : State :=
  (List.range 24).foldl (fun s i =>
    let rx := s.takeFree 32
    { rx.2 with ind := { rx.2.ind with rxeq := rx.2.ind.rxeq.set 0 (24 * p + i) rx.1 } }) s

/-- Every flit not acknowledged is sent again, in order, with the ACK of now, and the replay counted (10 R239, R240). -/
def State.replayPort (s : State) (p : Nat) : State :=
  let x := s.port p
  if x.replay = [] then s
  else ((s.count (cPort p 0) 1).onWire p (x.replay.map fun e => stampFlit e.2.flit e.1 x.ack)).idlePort p

/-- The lanes that pass in both directions: at most 10 errors in the test of 2 × 10^9 bits here, and passing at the far end (10 R237, R254). -/
def lanesPassing (r : LaneTest) : BitVec 24 :=
  (List.range 24).foldl (fun v i => if nth 11 r.errors i ≤ 10 ∧ r.far.getLsbD i = true then v ||| BitVec.ofNat 24 (2 ^ i) else v) 0

/-- PORT_TRAINING_COMPLETE (10 R237, R242, R254): width chosen, flit layer started, credits advertised and taken, first HEARTBEAT, and what waited for a
port sent; a retrain keeps its replay buffer and resumes (10 R240). -/
def portTrainingComplete (p : Nat) (r : LaneTest) (s : State) : State :=
  let x := s.port p
  if s.trains ∧ x.st = .training ∧ x.checked then
    let w := widthFor (passCount (lanesPassing r))
    if w = 0 then s.setPort p { x with st := .down, checked := false }
    else
      let act := lowestLanes (lanesPassing r) w
      let y := if x.retraining then x else { x with rxSeq := 65535, txSeq := 0, replay := [], asm := [], nakSent := false }
      let y := { y with
        owed := []
        st := .up
        passed := lanesPassing r
        width := w
        active := act
        adv := s.presetCredits p
        credits := y.creditsFrom r.credits
        reason := 0
        tries := 0
        retraining := false }
      let s := ((s.setPort p y).setLanes p (lanesPassing r) act).adaptLanes p
      let s := if x.retraining then s.replayPort p else s
      (s.heartbeatOn p).retryUnrouted
  else s

/-- PORT_TRAINING_TIMEOUT (10 R254): back to DOWN, to be tried again. A retrain keeps its buffer until RETRAIN_TIMEOUT. -/
def portTrainingTimeout (p : Nat) (s : State) : State :=
  let x := s.port p
  if s.trains ∧ x.st = .training then s.setPort p { x with st := .down, checked := false } else s

/-- The map describes the port and the order code has it. -/
def State.describes (s : State) (p : Nat) : Bool := (s.ms.map.bind fun m => m.neighbour s.ms.position p).isSome

/-- PORT_RETRY_TICK (10 R254): once a second a DOWN or HELD port that the map describes trains again. -/
def portRetryTick (p : Nat) (s : State) : State :=
  let x := s.port p
  if s.trains ∧ s.describes p ∧ (x.st = .down ∨ x.st = .held) then s.startTraining p else s

/-- A port starts to retrain with its replay buffer kept (10 R240). -/
def State.retrain (s : State) (p : Nat) : State :=
  let x := s.port p
  ((s.setPort p { x with retraining := true, width := 0, active := 0, tries := 0 }).startTraining p).count (cPort p 1) 1

/-- RETRAIN_TIMEOUT (10 R240): not UP again within 100 ms, so the port is DOWN and its unacknowledged flits are lost. -/
def retrainTimeout (p : Nat) (s : State) : State :=
  let x := s.port p
  if s.trains ∧ x.retraining ∧ x.st ≠ .up then s.portDown p else s

/-- LANE_DROP (10 R237): of the lanes that have passed since training those that still pass carry the port, at the width they allow. Other lanes in use
are taken up with replay; LINK_DEGRADED tells of another width, for which a full hold is waited for (13 R337; log entry 27). -/
def laneDrop (p : Nat) (passing : BitVec 24) (s : State) : State :=
  let x := s.port p
  if s.trains ∧ x.st = .up then
    let left := x.passed &&& passing
    let w := widthFor (passCount left)
    if w = 0 then s.portDown p
    else if w ≠ x.width ∧ s.holdFull = true then s
    else
      let act := lowestLanes left w
      let s := (s.setPort p { x with passed := left, width := w, active := act }).setLanes p left act
      let s := if act = x.active then s else s.replayPort p
      if w = x.width then s else s.post evLinkDegraded (leBytes 1 p ++ leBytes 1 x.width ++ leBytes 1 w)
  else s

/-! ### Flits received (10 R239-R248, R260) -/

/-- A flit whose CRC and coded fields hold (10 R239). -/
def flitOk (f : List Byte) : Bool :=
  f.length == 256 && crcOk f 256 && decide (bits (field f 0 1) 0 4 ≤ 2) && decide (flitVc f ≤ 11) && bits (field f 1 1) 3 5 == 0 &&
  bits (field f 6 1) 0 4 == 0 && field f 10 2 == 0 && decide (field f 8 2 ≤ 240)

/-- How many of the unacknowledged flits an ACK covers: those before and at it in sequence. -/
def ackedCount (replay : List (Nat × TxFlit)) (ack : Nat) : Nat :=
  match replay.findIdx? fun e => e.1 == ack with
  | some i => i + 1
  | none => 0

/-- ACK, NAK and credit of a good flit (10 R240, R242): acknowledged flits leave the replay buffer; NAK replays the rest, and the
eighth failure of one SEQ retrains the port. -/
def State.flitReturns (s : State) (p : Nat) (f : List Byte) : State :=
  let x := s.port p
  let k := ackedCount x.replay (field f 4 2)
  let cvc := bits (field f 6 1) 4 4
  let y := { x with
    replay := x.replay.drop k
    tries := if k = 0 then x.tries else 0
    credits := setNth x.credits cvc (nth 0 x.credits cvc + field f 7 1) }
  let s := s.setPort p y
  if bits (field f 1 1) 2 1 = 1 ∧ y.replay ≠ [] then
    if 8 ≤ y.tries then s.retrain p
    else (s.setPort p { y with tries := y.tries + 1 }).replayPort p
  else s.pumpPort p

/-- A port that DIAG drains is tested once nothing is unacknowledged and nothing waits (10 R265). -/
def State.drainPort (s : State) (p : Nat) : State :=
  let x := s.port p
  if x.diagRing.isSome ∧ x.st = .up ∧ x.replay = [] ∧ x.txq = [] then
    s.setPort p { x with st := .diag, width := 0 }
  else s

/-- JOIN traffic and FLOOR barriers, which a READY module may carry to or from itself (10 R260). -/
def joinMsg (m : Msg) : Bool := m.vc == 0 && ((m.typ == 6 && m.opc == 3) || (m.typ == 1 && m.opc == 4))

/-- What a module without a rank takes: in READY JOIN traffic alone (10 R260), as a spare that has joined what is sent to it, and a SUBSTITUTE that names
its position (11 R281). -/
def State.spareTakes (s : State) (m : Msg) : Bool :=
  joinMsg m ||
  (s.member && (m.dst == s.spareRank || (m.typ == 8 && m.opc == 4 && field m.body 5 1 == 3 && field m.body 8 2 == s.ms.position)))

/-- What this module takes for itself. In READY it may know its rank already, and takes JOIN traffic alone (10 R260). -/
def State.addressed (s : State) (m : Msg) : Bool := if s.mach.rank = some m.dst then s.member || joinMsg m else s.mach.rank.isNone && s.spareTakes m

/-- A whole message arrives (10 R245-R247, R260): delivered here after the MSGID check, forwarded, or discarded. -/
def State.messageIn (s : State) (vc : Nat) (b : List Byte) : State :=
  match msgOf vc b with
  | none => s
  | some m =>
    if m.typ = 7 then
      if headerReservedOk s.spareRank b && msgAllowed m then s.deliverOwn m else s.stepFault .formatInvalid
    else if s.addressed m then
      if headerReservedOk s.spareRank b && msgAllowed m then
        let k := m.src * 16 + vc
        let r := (s.net.dup.get DupRec.fresh k).accept m.id
        let again := s.comesAgain m
        let s := { s with net := { s.net with
          dup := s.net.dup.set DupRec.fresh k r.2
          dropped := s.net.dropped.filter fun x => !(x.src == m.src && x.vc == m.vc && x.id == m.id) } }
        if r.1 || again then s.deliverOwn m else s.count cDup 1
      else s.stepFault .formatInvalid
    else if s.member then
      if m.links = 5 then (s.count cRouteDiscard 1).lostMessage m else s.forward { m with links := m.links + 1 }
    else s

/-- A DATA flit in order: it joins the message of its VC, and its credit is returned (10 R239, R242). -/
def State.dataFlit (s : State) (p : Nat) (f : List Byte) : State :=
  let x := s.port p
  let vc := flitVc f
  let start := bits (field f 1 1) 0 1 = 1
  let got := (if start then [] else x.asm.get [] vc) ++ slice f 12 (field f 8 2)
  let done := bits (field f 1 1) 1 1 = 1
  let s := s.setPort p { x with rxSeq := field f 2 2, nakSent := false, asm := x.asm.set [] vc (if done then [] else got) }
  let s := if done then s.messageIn vc got else s
  s.returnCredit p vc

/-- A flit discarded with every later one until the replay: NAK goes out for it, once for a run of DATA flits out of sequence (10 R240; log entry
121). -/
def State.nakFlit (s : State) (p : Nat) : State := (s.setPort p { s.port p with nakSent := true }).sendCtrl p true 0 0

/-- Symbols of a codeword: 500 of data and 60 that check them (10 R236). -/
def codewordSymbols : Nat := 560

/-- A codeword that the decoder corrects: at most 30 of its symbols are wrong (10 R236). The generator of the code over GF(2^10) is not given; what it
corrects does not depend on it. -/
def codewordCorrects (wrong : List Nat) : Bool := decide ((distinct (wrong.filter (· < codewordSymbols))).length ≤ (codewordSymbols - 500) / 2)

/-- Every codeword that carries bits of a flit is corrected. -/
def flitCorrected (f : RxFlit) : Bool := f.wrong.all codewordCorrects

/-- FLIT_RECEIVE (10 R240): a flit with a bad CRC or in a codeword that could not be corrected (10 R236), or a DATA flit out of sequence, is discarded,
with the ACK and credits that it carries, and NAKed. -/
def flitReceive (p : Nat) (f : List Byte) (corrected : Bool) (s : State) : State :=
  let x := s.port p
  if s.trains ∧ x.st = .up then
    if (corrected && flitOk f) = false then s.nakFlit p
    else if bits (field f 0 1) 0 4 = 1 ∧ field f 2 2 ≠ (x.rxSeq + 1) % 65536 then (if x.nakSent then s else s.nakFlit p)
    else
      let s := s.flitReturns p f
      let s := if bits (field f 0 1) 0 4 = 1 then s.dataFlit p f else s
      s.drainPort p
  else s

/-! ### Heartbeats and silence (10 R262, 11 R279) -/

/-- HEARTBEAT_TICK (10 R262): every UP port sends one. -/
def heartbeatTick (s : State) : State :=
  if s.trains then (List.range 18).foldl (fun s p => if (s.port p).st = .up then s.heartbeatOn p else s) s else s

/-- HEARTBEAT (10 R262): the neighbour's position, state and core-cycle counter. -/
def heartbeat (p : Nat) (m : Msg) (s : State) : State :=
  if s.trains ∧ (s.port p).st = .up then
    let s := s.took m
    s.setPort p { s.port p with nbrPos := field m.body 0 2, nbrState := field m.body 2 1 }
  else s

/-- PORT_SILENCE_TIMEOUT (10 R262). -/
def portSilenceTimeout (p : Nat) (s : State) : State := if s.trains ∧ (s.port p).st = .up then s.portDown p else s

/-- ALL_PORTS_DOWN_TIMEOUT (11 R279): a member none of whose ports has been UP for 50 ms halts. -/
def allPortsDownTimeout (s : State) : State :=
  if s.member ∧ (List.range 18).all (fun p => (s.port p).st != .up) then s.halt 0x7 0x36 else s

/-- The source sends a lost message again: one that is not of its step in progress, or one that was discarded under 10 R247 and is of the attempt that
the source itself still runs (10 R241; log entry 121). -/
def State.sendsAgain (s : State) (discarded : Bool) (m : Msg) : Bool :=
  if discarded then s.batchCurrent m.body else !s.stepTraffic m

/-- LOST_MESSAGE_REPORT (10 R241): what this module has sent under the destination, VC and MSGID named is sent again, and when it is of the step in
progress it is a step-transient failure, which a spare that lost it on the way cannot tell. -/
def lostMessageReport (dst vc id : Nat) (discarded : Bool) (s : State) : State :=
  if s.member then
    let s : State := { s with net := { s.net with
      inbox := s.net.inbox.filter fun m => !(m.typ == 1 && m.opc == 6 && field m.body 2 2 == dst && field m.body 4 4 == vc && field m.body 8 4 == id) } }
    let l := s.net.sent.filter fun m => m.dst == dst && m.vc == vc && m.id % 2 ^ 32 == id
    let s := if !discarded && l.any s.stepTraffic then s.transient 0x02 else s
    (l.filter (s.sendsAgain discarded)).foldl State.resend s
  else s

/-! ### Remote reads and writes (08 R188, 10 R246) -/

/-- REMOTE_WRITE (08 R188): the data after the 8-byte global address is written there, and on a layer-slice group's channel it counts for the
layer (01 R12); an address beyond the rules is an index beyond its operand. -/
def remoteWrite (m : Msg) (s : State) : State :=
  if s.member ∧ m.typ = 1 ∧ m.opc = 0 then
    let s := s.took m
    let g := field m.body 0 8
    let d := m.body.drop 8
    if s.globalOk g && s.mach.rank == some (globalRank g) && s.remoteWrites (bits g 0 48) d.length then
      (s.write (bits g 0 48) d).layerArrives m.vc m.src d.length
    else s.stepFault .indexRange
  else s

/-- REMOTE_READ (08 R188): an 8-byte global address and an 8-byte length, at most one message long (log entry 26). -/
def remoteRead (m : Msg) (s : State) : State :=
  if s.member ∧ m.typ = 2 ∧ m.opc = 0 ∧ m.resp = false then
    let s := s.took m
    let g := field m.body 0 8
    let n := field m.body 8 8
    if n ≤ 65536 ∧ s.globalOk g ∧ s.mach.rank = some (globalRank g) ∧ s.remoteReads (bits g 0 48) n then
      s.send (mkMsg 2 0 m.vc m.src (s.read (bits g 0 48) n) true true)
    else s.stepFault .indexRange
  else s

/-- REMOTE_READ_REPLY (10 R246): the data is placed where the requester asked for it. -/
def remoteReadReply (m : Msg) (dst : Nat) (s : State) : State :=
  if s.member ∧ m.typ = 2 ∧ m.resp = true then
    let s := s.took m
    if s.dmaWrites dst m.body.length then s.write dst m.body else s.stepFault .indexRange
  else s

/-! ### DIAG (10 R265, R266, 13 R343) -/

/-- Ports of a route entry with a given port taken out of service. -/
def State.routeWithout (s : State) (p e : Nat) : Bool :=
  let ok := fun q => q != p && (s.port q).usable
  bits e 0 5 == 31 || ok (bits e 0 5) || ok (bits e 5 5)

/-- Taking a port out of service leaves every member's position a port (10 R265). -/
def State.canDrain (s : State) (p : Nat) : Bool :=
  s.ms.map.elim true fun m => (s.mach.ranks ++ s.mach.joinSeen).all fun q => q == s.ms.position || s.routeWithout p (m.route q)

/-- The messages that wait whole on a port that DIAG drains go by another route: it sends no new message (10 R265). -/
def State.moveWaiting (s : State) (p : Nat) : State :=
  let x := s.port p
  x.waiting.foldl State.forward (s.setPort p { x with txq := x.txq.filter fun f => !x.waiting.contains f.msg })

/-- The pattern controls of a port's lanes (15 R377): generator and checker on, or off. -/
def State.setPattern (s : State) (p : Nat) (v : W32) : State :=
  (List.range 24).foldl (fun s i => s.indStore (p * 0x100000 + 0x10000 + i * 0x1000) v) s

/-- A port is under test, or drains for one: a DIAG with TEST 1 waits for it, since one port is tested at a time (10 R265). -/
def State.testing (s : State) : Bool := s.net.ports.any fun e => e.2.diagRing.isSome

/-- DIAG with TEST 1 (10 R265): a port that is DOWN or HELD, or any port in READY, is tested at once; an UP port of a member is
drained first. One that trains on a member is tested when that training is over (log entry 143). -/
def diagPrbsTest (ring : Nat) (s : State) : State :=
  s.command ring 0x0E (fun d => field d 16 1 == 1 && !s.testing && !((s.port (field d 17 1)).st == .training && s.ms.st != .ready)) fun s d =>
    let p := field d 17 1
    let x := s.port p
    if x.st = .absent then s.complete ring { status := .indexRange }
    else if x.st = .up ∧ s.ms.st ≠ .ready ∧ s.canDrain p = false then s.complete ring { status := .resourceShort }
    else
      let v := 0xC0000000#32 ||| (BitVec.ofNat 32 (field d 18 1) <<< 28)
      let s := (s.setPattern p 0).setPattern p v
      if x.st = .up ∧ s.ms.st ≠ .ready then ((s.setPort p { x with diagRing := some ring }).moveWaiting p).drainPort p
      else s.setPort p { x with st := .diag, diagRing := some ring, width := 0, checked := false }

/-- A lane record of 32 bytes (13 R343). -/
def laneRecord (r : LaneReading) (inUse : Bool) : List Byte :=
  leBytes 8 r.errors ++ leBytes 8 r.bits ++ leBytes 2 r.eyeMv ++ leBytes 2 r.eyeUi ++ leBytes 1 (if inUse then 0 else 1) ++ zeros 11

/-- Lane readings kept in the lane registers. -/
def State.setLaneCounts (s : State) (p : Nat) (lanes : List LaneReading) : State :=
  (List.range 24).foldl (fun s i =>
    let r : LaneReading := nth default lanes i
    { s with ind := { s.ind with
      err := s.ind.err.set 0 (24 * p + i) (BitVec.ofNat 48 r.errors)
      bits := s.ind.bits.set 0 (24 * p + i) (BitVec.ofNat 48 r.bits) } }) s

/-- DIAG_TEST_END (10 R265): the counts become the lane records in RESULT, and the port returns by training. -/
def diagTestEnd (p : Nat) (lanes : List LaneReading) (s : State) : State :=
  let x := s.port p
  match x.diagRing with
  | some ring =>
    if s.live ∧ x.st = .diag then
      match (s.ring ring).busy with
      | some b =>
        let recs := (List.range 24).flatMap fun i =>
          laneRecord { (nth default lanes i : LaneReading) with eyeMv := 0, eyeUi := 0 } (x.active.getLsbD i)
        let s := ((s.setLaneCounts p lanes).setPattern p 0).setPort p
          { x with diagRing := none, st := .down, checked := false, active := 0 }
        let s := if s.describes p then s.startTraining p else s
        match s.writeBuffer (field b.2 24 8) recs with
        | some t => t.complete ring { status := .ok, info := 768 }
        | none => s.complete ring { status := .indexRange }
      | none => s
    else s
  | none => s

/-- DIAG with TEST 2 (10 R266): eye height and width of every lane, with no drain. -/
def diagMarginRead (ring : Nat) (lanes : List LaneReading) (s : State) : State :=
  s.command ring 0x0E (fun d => field d 16 1 == 2) fun s d =>
    let p := field d 17 1
    let x := s.port p
    if x.st = .absent then s.complete ring { status := .indexRange }
    else
      let s := (List.range 24).foldl (fun s i =>
        let r : LaneReading := nth default lanes i
        { s with ind := { s.ind with eye := s.ind.eye.set 0 (24 * p + i) (BitVec.ofNat 32 (r.eyeMv % 65536 * 65536 + r.eyeUi % 65536)) } }) s
      let recs := (List.range 24).flatMap fun i =>
        laneRecord { (nth default lanes i : LaneReading) with
          errors := (s.ind.err.get 0 (24 * p + i)).toNat, bits := (s.ind.bits.get 0 (24 * p + i)).toNat } (x.active.getLsbD i)
      match s.writeBuffer (field d 24 8) recs with
      | some t => t.complete ring { status := .ok, info := 768 }
      | none => s.complete ring { status := .indexRange }

/-! ### Meanings -/

/-- FLIT_RECEIVE. -/
def execFlitReceive (port : Nat) (flit : RxFlit) (s : State) : Host.Outcome State Fault Refusal :=
  .next (flitReceive port flit.bytes (flitCorrected flit) s)
/-- LANE_DROP. -/
def execLaneDrop (port : Nat) (passing : BitVec 24) (s : State) : Host.Outcome State Fault Refusal := .next (laneDrop port passing s)
/-- RETRAIN_TIMEOUT. -/
def execRetrainTimeout (port : Nat) (s : State) : Host.Outcome State Fault Refusal := .next (retrainTimeout port s)
/-- PORT_RETRY_TICK. -/
def execPortRetryTick (port : Nat) (s : State) : Host.Outcome State Fault Refusal := .next (portRetryTick port s)
/-- PORT_TRAINING_CHECK. -/
def execPortTrainingCheck (port : Nat) (copies : List (List Byte)) (s : State) : Host.Outcome State Fault Refusal :=
  .next (portTrainingCheck port copies s)
/-- PORT_TRAINING_COMPLETE. -/
def execPortTrainingComplete (port : Nat) (r : LaneTest) (s : State) : Host.Outcome State Fault Refusal := .next (portTrainingComplete port r s)
/-- PORT_TRAINING_TIMEOUT. -/
def execPortTrainingTimeout (port : Nat) (s : State) : Host.Outcome State Fault Refusal := .next (portTrainingTimeout port s)
/-- HEARTBEAT_TICK. -/
def execHeartbeatTick (s : State) : Host.Outcome State Fault Refusal := .next (heartbeatTick s)
/-- HEARTBEAT. -/
def execHeartbeat (port : Nat) (m : Msg) (s : State) : Host.Outcome State Fault Refusal := .next (heartbeat port m s)
/-- PORT_SILENCE_TIMEOUT. -/
def execPortSilenceTimeout (port : Nat) (s : State) : Host.Outcome State Fault Refusal := .next (portSilenceTimeout port s)
/-- ALL_PORTS_DOWN_TIMEOUT. -/
def execAllPortsDownTimeout (s : State) : Host.Outcome State Fault Refusal := .next (allPortsDownTimeout s)
/-- LOST_MESSAGE_REPORT. -/
def execLostMessageReport (dst vc : Nat) (id : LostId) (s : State) : Host.Outcome State Fault Refusal :=
  .next (lostMessageReport dst vc id.id id.discarded s)
/-- REMOTE_WRITE. -/
def execRemoteWrite (m : Msg) (s : State) : Host.Outcome State Fault Refusal := .next (remoteWrite m s)
/-- REMOTE_READ. -/
def execRemoteRead (m : Msg) (s : State) : Host.Outcome State Fault Refusal := .next (remoteRead m s)
/-- REMOTE_READ_REPLY. -/
def execRemoteReadReply (m : Msg) (dst : Nat) (s : State) : Host.Outcome State Fault Refusal := .next (remoteReadReply m dst s)
/-- DIAG with TEST 1. -/
def execDiagPrbsTest (ring : Nat) (s : State) : Host.Outcome State Fault Refusal := .next (diagPrbsTest ring s)
/-- DIAG_TEST_END. -/
def execDiagTestEnd (port : Nat) (lanes : List LaneReading) (s : State) : Host.Outcome State Fault Refusal := .next (diagTestEnd port lanes s)
/-- DIAG with TEST 2. -/
def execDiagMarginRead (ring : Nat) (lanes : List LaneReading) (s : State) : Host.Outcome State Fault Refusal := .next (diagMarginRead ring lanes s)

end Sys2Proof.Machine
end

