-- ==== Sys2Proof/Machine/Replay.lean ====
section
/-! DEFINITION. REPLAY (12 R310-R314): its checks, ROLL and ROLL_THROUGH, and EXEC. -/

namespace Sys2Proof.Machine

open Sys2Proof

/-! ### Sources (12 R314) -/

/-- Records one after another on 64 KiB boundaries up to an end. -/
def State.recChain (s : State) (stop : Nat) : Nat → Nat → List RecView
  | 0, _ => []
  | fuel + 1, a =>
    let r := s.recAt a
    if r.start 6 ≤ stop then r :: State.recChain s stop fuel (roundUp (r.start 6) 65536) else []

/-- The records of the source that a REPLAY names: the ring's, or those of an imported area of module DRAM or of flash outside the ring. -/
def State.replaySource (s : State) (d : List Byte) : List RecView :=
  if field d 17 1 = 0 then s.validSlots.map fun x => s.recAt (s.recSlot x.1)
  else
    let a := bufDa (field d 24 8)
    let n := field d 32 8
    let ring := s.prog.elim [] fun p => ringRegions p.decl p.place
    let place := s.placeOfRange a n
    if bufSpace (field d 24 8) = 0 && (place == .dram || (place == .flash && ring.all fun r => !overlaps { base := a, len := n } r)) then
      s.recChain (a + n) (n / 65536 + 1) (roundUp a 65536)
    else []

/-- The record of a step on this rank. -/
def State.recFor (s : State) (l : List RecView) (step : Nat) : Option RecView := l.find? fun r => r.step == step && r.rank == s.rank

/-! ### Checks (12 R310) -/

/-- The steps whose records a REPLAY needs: mode 0 ROLL, 1 EXEC, 2 ROLL_THROUGH. -/
def State.replaySteps (s : State) (mode t : Nat) : List Nat :=
  let upTo := (List.range (t + 1 - s.st.stepNo)).map fun i => s.st.stepNo + i
  match mode with
  | 0 => upTo
  | 1 => [t]
  | _ => upTo ++ [t + 1]

/-- A record was written under the loaded program and seed. -/
def State.recMatches (s : State) (r : RecView) : Bool := s.prog.elim false fun p => r.hash == p.hash && r.seed == p.seed.toNat

/-- A record reads as it was written. -/
def State.recReads (s : State) (r : RecView) : Bool :=
  !(s.placeOf r.addr == .flash && s.unreadable r.addr (r.start 6 - r.addr)) && s.recSumOk r

/-- Checks 1 to 4, and the records needed. -/
def State.replayCheck (s : State) (mode : Nat) (d : List Byte) : Except Status (List RecView) :=
  let t := field d 20 4
  let l := s.replaySource d
  let found := (s.replaySteps mode t).map (s.recFor l)
  let rs := found.filterMap id
  if mode = 1 ∧ s.st.stepNo ≠ t then .error .stateInvalid
  else if found.any (·.isNone) then .error .indexRange
  else if rs.all s.recMatches = false then .error .formatInvalid
  else if rs.all s.recReads = false then .error .memoryUncorrectable
  else .ok rs

/-! ### ROLL and ROLL_THROUGH (12 R311) -/

/-- The stream offsets of a record. -/
def State.takeOffsets (s : State) (r : RecView) : State :=
  { s with st := { s.st with offsets := sectionOffsets (s.read (r.start 0) 528) } }

/-- One recorded step applied: its boundary section, its generator offsets, its deltas; with the ranges that changed. -/
def State.rollStep (s : State) (r : RecView) : State × List Region :=
  let x := s.applyBoundary r
  let s : State := x.1.takeOffsets r
  let b := s.read (r.start 5) r.deltas
  let y : State × List Region := s.applyDeltas (s.imageRegions s.st.wEpoch) (b.length / 16 + 1) b
  let s : State := if r.deltas = 0 then y.1 else y.1.loadCarried
  (s.movedTo (r.step + 1) r.epoch, x.2 ++ y.2)

/-- Recorded steps applied in order. -/
def State.rollAll (s : State) (rs : List RecView) : State × List Region :=
  rs.foldl (fun (x : State × List Region) r =>
    let y : State × List Region := x.1.rollStep r
    (y.1, x.2 ++ y.2)) (s, [])

/-- The boundary section of one further record applied; its actions count as applied at the boundary reached. -/
def State.rollThrough (s : State) (r : RecView) : State × List Region :=
  let x := s.applyBoundary r
  let s : State := x.1.takeOffsets r
  ({ s with st := { s.st with
    epoch := r.epoch
    windowOpen := true } }, x.2)

/-- A machine rolled: its second copies follow, what has changed streams to the holders, and the command completes with them. -/
def State.endRoll (s : State) (ring n : Nat) (touched : List Region) : State :=
  let s := s.copySlices
  s.copyBoundary touched [(ring, n, 0)]

/-- ROLL. -/
def replayRoll (ring : Nat) (s : State) : State :=
  s.command ring 0x0C (fun d => field d 16 1 == 0) fun s d =>
    match s.replayCheck 0 d with
    | .error x => s.complete ring { status := x }
    | .ok rs =>
      let x := s.startRunning.rollAll rs
      x.1.endRoll ring rs.length x.2

/-- ROLL_THROUGH. -/
def replayRollThrough (ring : Nat) (s : State) : State :=
  s.command ring 0x0C (fun d => field d 16 1 == 2) fun s d =>
    match s.replayCheck 2 d with
    | .error x => s.complete ring { status := x }
    | .ok rs =>
      let x := s.startRunning.rollAll rs.dropLast
      match rs.getLast? with
      | none => x.1.endRoll ring 0 x.2
      | some r =>
        let y : State × List Region := x.1.rollThrough r
        y.1.endRoll ring rs.dropLast.length (x.2 ++ y.2)

/-! ### EXEC (12 R312, R313) -/

/-- Bytes of the capture records of a point. -/
def State.captureLen (s : State) (point : Nat) : Nat := (s.capturesOf point).flatten.length

/-- Capture points with their places one after another. -/
def State.capturePlaces (s : State) : Nat → List Nat → List (Nat × Nat)
  | _, [] => []
  | a, p :: t => (p, a) :: State.capturePlaces s (a + s.captureLen p) t

/-- Check 5: the points are declared, and their records fit an area that lies in the capture region. -/
def State.capturesOk (s : State) (d : List Byte) (points : List Nat) : Bool :=
  let n := (points.map s.captureLen).sum
  let a := field d 48 8
  points.isEmpty ||
    (points.all (fun p => decide (p < s.decl.elim 0 (·.capPoints.length))) && decide (n ≤ field d 56 8) && bufSpace a == 0 &&
      s.prog.elim false fun p => within p.place.capture (bufDa a) (field d 56 8))

/-- The run of a recorded step. -/
def State.execRun (s : State) (ring : Nat) (r : RecView) (captures : List (Nat × Nat)) : StepRun :=
  { s.newRun ring r.spec (s.read (r.start 1) r.targets) none with
    exec := true
    record := some r.addr
    captures := captures }

/-- EXEC: the record's boundary section is applied and mirrored, and the step runs from its Ledger. -/
def replayExec (ring : Nat) (host : List Byte) (s : State) : State :=
  s.command ring 0x0C (fun d => field d 16 1 == 1) fun s d =>
    match s.replayCheck 1 d with
    | .error x => s.complete ring { status := x, step := s.st.stepNo }
    | .ok rs =>
      match s.readBuffer (field d 40 8) (2 * field d 18 2) host, rs with
      | .error x, _ => s.complete ring { status := x, step := s.st.stepNo }
      | .ok b, r :: _ =>
        let points := (groupsOf 2 b).map leNat
        if s.capturesOk d points then
          let x := s.applyBoundary r
          let t : State := x.1.takeOffsets r
          (t.copyBoundary x.2 []).takeStep (t.execRun ring r (t.capturePlaces (bufDa (field d 48 8)) points))
        else s.complete ring { status := .resourceShort, step := s.st.stepNo }
      | .ok _, [] => s.complete ring { status := .indexRange, step := s.st.stepNo }

/-- REPLAY with MODE 0 (12 R311). -/
def execReplayRoll (ring : Nat) (s : State) : Host.Outcome State Fault Refusal := .next (replayRoll ring s)
/-- REPLAY with MODE 2 (12 R311). -/
def execReplayRollThrough (ring : Nat) (s : State) : Host.Outcome State Fault Refusal := .next (replayRollThrough ring s)
/-- REPLAY with MODE 1 (12 R312). -/
def execReplayExec (ring : Nat) (host : List Byte) (s : State) : Host.Outcome State Fault Refusal := .next (replayExec ring host s)

end Sys2Proof.Machine
end

