-- ==== Sys2Proof/Machine/Tailrace.lean ====
section
/-! DEFINITION. Tailrace (14 R365): activations spilled to module DRAM and filled back. -/

namespace Sys2Proof.Machine

open Sys2Proof

/-- A Tailrace descriptor. -/
structure TailDesc where
  op : Nat
  flag : Nat
  loc : Nat
  area : Nat
  len : Nat
  deriving DecidableEq, Repr, Inhabited

/-- The fields of 32 descriptor bytes. -/
def tailDesc (b : List Byte) : TailDesc where
  op := bits (field b 0 8) 0 4
  flag := bits (field b 0 8) 4 5
  loc := field b 0x08 6
  area := field b 0x10 6
  len := field b 0x18 4

/-- Codes, reserved fields and the multiples and range that the layout gives its fields. -/
def TailDesc.coded (d : TailDesc) (b : List Byte) : Bool :=
  (d.op == 1 || d.op == 2) && bits (field b 0 8) 9 55 == 0 && field b 0x0E 2 == 0 && field b 0x16 2 == 0 && field b 0x1C 4 == 0 &&
  d.loc % 256 == 0 && d.area % 256 == 0 && d.len % 256 == 0 && decide (256 ≤ d.len) && decide (d.len ≤ 2 ^ 31)

/-- The Tailrace area that the loader placed. -/
def State.tailArea (s : State) : Region := s.prog.elim { base := 0, len := 0 } fun p => p.place.tailrace

/-- The range of a descriptor in the core's memory. -/
def TailDesc.local_ (d : TailDesc) : Region := { base := d.loc, len := d.len }

/-- The range of a descriptor in module DRAM. -/
def State.tailRange (s : State) (d : TailDesc) : Region := { base := s.tailArea.base + d.area, len := d.len }

/-- What a descriptor reads. -/
def State.tailReads (s : State) (d : TailDesc) : List Region := [if d.op = 1 then d.local_ else s.tailRange d]

/-- What it writes. -/
def State.tailWrites (s : State) (d : TailDesc) : List Region := [if d.op = 1 then s.tailRange d else d.local_]

/-- The checks of 14 R365, in order: the first that fails. -/
def State.tailCheck (s : State) (q : QDesc) (d : TailDesc) : Option Status :=
  let phys := s.physical q.core
  if !d.coded q.bytes then some .formatInvalid
  else if !(decide (d.area + d.len ≤ s.tailArea.len) && (if d.op = 1 then s.coreReads phys d.loc d.len else s.coreWrites phys d.loc d.len)) then
    some .indexRange
  else none

/-- Tailrace descriptors in progress. -/
def State.tailBusy (s : State) : List Running := s.gc.busy.filter fun r => r.unit == .tailrace

/-- A queued descriptor is clear of the uncompleted Tailrace descriptors accepted before it. -/
def State.tailClear (s : State) (q : QDesc) : Bool :=
  s.queuedClear (fun r => r.unit == .tailrace) (fun e => e.unit == .tailrace) (fun e => (s.tailReads (tailDesc e.bytes), s.tailWrites (tailDesc e.bytes))) q

/-- The next Tailrace descriptor of the module that no earlier one holds back, if it is of this core and of the kind `fill` says. -/
def State.tailrace (s : State) (core : Nat) (fill : Bool) : State :=
  match s.nextDesc fun q => q.unit == .tailrace && s.tailClear q with
  | none => s
  | some q =>
    let d := tailDesc q.bytes
    if !(q.core == core && s.hasCore core && s.workLive q.eval && (d.op == 2) == fill) then s
    else
      match s.tailCheck q d with
      | some x => s.failDesc q x
      | none =>
        if s.tailBusy.all (fun r => !r.done) then
          let rd := s.tailReads d
          let wr := s.tailWrites d
          let t :=
            if fill then State.count (s.write d.loc (s.read (s.tailRange d).base d.len)) cFillBytes d.len
            else State.count (s.write (s.tailRange d).base (s.read d.loc d.len)) cSpillBytes d.len
          t.startDesc q d.flag rd wr
        else s

/-- TAILRACE_DONE: the oldest descriptor in progress of a core completes and sets its flag. -/
def tailraceDone (core : Nat) (s : State) : State := s.finishDesc fun r => r.unit == .tailrace && r.core == core

/-- SPILL (14 R365). -/
def execSpill (core : Nat) (s : State) : Host.Outcome State Fault Refusal := .next (s.tailrace core false)

/-- FILL (14 R365). -/
def execFill (core : Nat) (s : State) : Host.Outcome State Fault Refusal := .next (s.tailrace core true)

/-- TAILRACE_DONE (14 R365). -/
def execTailraceDone (core : Nat) (s : State) : Host.Outcome State Fault Refusal := .next (tailraceDone core s)

end Sys2Proof.Machine
end

