-- ==== Sys2Proof/Machine/Dispatch.lean ====
section
/-! DEFINITION. One arm per command: the meaning that its row of the table has. -/

namespace Sys2Proof.Machine

open Sys2Proof

def exec (i : Instr) (s : State) : Host.Outcome State Fault Refusal :=
  match i with
  | .inputApplied mv => Sys2Proof.Machine.execInputApplied mv s
  | .powerGood => Sys2Proof.Machine.execPowerGood s
  | .inputTrip mv => Sys2Proof.Machine.execInputTrip mv s
  | .powerLoss => Sys2Proof.Machine.execPowerLoss s
  | .railFault rail mv => Sys2Proof.Machine.execRailFault rail mv s
  | .refclkLinkLoss => Sys2Proof.Machine.execRefclkLinkLoss s
  | .pcieLinkDown => Sys2Proof.Machine.execPcieLinkDown s
  | .pcieLinkUp => Sys2Proof.Machine.execPcieLinkUp s
  | .perstAssert => Sys2Proof.Machine.execPerstAssert s
  | .perstDeassert straps => Sys2Proof.Machine.execPerstDeassert straps s
  | .firmwareStageDone ok trained badLanes table => Sys2Proof.Machine.execFirmwareStageDone ok trained badLanes table s
  | .recoveryRestart => Sys2Proof.Machine.execRecoveryRestart s
  | .doorbellPoll recs consumed => Sys2Proof.Machine.execDoorbellPoll recs consumed s
  | .ringsCtlWrite val table => Sys2Proof.Machine.execRingsCtlWrite val table s
  | .reloadEventRing => Sys2Proof.Machine.execReloadEventRing s
  | .reloadRing ring entry => Sys2Proof.Machine.execReloadRing ring entry s
  | .fenceRelease ring => Sys2Proof.Machine.execFenceRelease ring s
  | .ctrSnap => Sys2Proof.Machine.execCtrSnap s
  | .ctrDataHiRead => Sys2Proof.Machine.execCtrDataHiRead s
  | .counterPairRead => Sys2Proof.Machine.execCounterPairRead s
  | .indDataRead => Sys2Proof.Machine.execIndDataRead s
  | .indDataWrite val => Sys2Proof.Machine.execIndDataWrite val s
  | .indirectAccessTimeout write => Sys2Proof.Machine.execIndirectAccessTimeout write s
  | .cfgCheckWrite val => Sys2Proof.Machine.execCfgCheckWrite val s
  | .registerWrite off be val table => Sys2Proof.Machine.execRegisterWrite off be val table s
  | .bar0UnsupportedRequest off len => Sys2Proof.Machine.execBar0UnsupportedRequest off len s
  | .paritySweep indirect addr => Sys2Proof.Machine.execParitySweep indirect addr s
  | .join ring => Sys2Proof.Machine.execJoin ring s
  | .joinTimeout => Sys2Proof.Machine.execJoinTimeout s
  | .loadProgram ring host decl place inits => Sys2Proof.Machine.execLoadProgram ring host decl place inits s
  | .loadVerdict m => Sys2Proof.Machine.execLoadVerdict m s
  | .mapTensor ring => Sys2Proof.Machine.execMapTensor ring s
  | .step ring host => Sys2Proof.Machine.execStep ring host s
  | .eval ring host => Sys2Proof.Machine.execEval ring host s
  | .ingest ring host => Sys2Proof.Machine.execIngest ring host s
  | .tableReplace ring => Sys2Proof.Machine.execTableReplace ring s
  | .migrate ring host => Sys2Proof.Machine.execMigrate ring host s
  | .copy ring x => Sys2Proof.Machine.execCopy ring x s
  | .checkpoint ring => Sys2Proof.Machine.execCheckpoint ring s
  | .restoreContext ring host => Sys2Proof.Machine.execRestoreContext ring host s
  | .replayRoll ring => Sys2Proof.Machine.execReplayRoll ring s
  | .replayRollThrough ring => Sys2Proof.Machine.execReplayRollThrough ring s
  | .replayExec ring host => Sys2Proof.Machine.execReplayExec ring host s
  | .evidenceExport ring => Sys2Proof.Machine.execEvidenceExport ring s
  | .diagPrbsTest ring => Sys2Proof.Machine.execDiagPrbsTest ring s
  | .diagTestEnd port lanes => Sys2Proof.Machine.execDiagTestEnd port lanes s
  | .diagMarginRead ring lanes => Sys2Proof.Machine.execDiagMarginRead ring lanes s
  | .quiesce x => Sys2Proof.Machine.execQuiesce x s
  | .fwPush ring host fin => Sys2Proof.Machine.execFwPush ring host fin s
  | .attest ring => Sys2Proof.Machine.execAttest ring s
  | .phaseEnd => Sys2Proof.Machine.execPhaseEnd s
  | .hopBatchSend hop => Sys2Proof.Machine.execHopBatchSend hop s
  | .sampleReq m spec errs => Sys2Proof.Machine.execSampleReq m spec errs s
  | .sampleReply m => Sys2Proof.Machine.execSampleReply m s
  | .lookupBatch m => Sys2Proof.Machine.execLookupBatch m s
  | .lookupReply m => Sys2Proof.Machine.execLookupReply m s
  | .eddyRefreshRecord m => Sys2Proof.Machine.execEddyRefreshRecord m s
  | .remoteAcc x => Sys2Proof.Machine.execRemoteAcc x s
  | .confRerequest m => Sys2Proof.Machine.execConfRerequest m s
  | .remoteWrite m => Sys2Proof.Machine.execRemoteWrite m s
  | .remoteRead m => Sys2Proof.Machine.execRemoteRead m s
  | .remoteReadReply m dst => Sys2Proof.Machine.execRemoteReadReply m dst s
  | .barrierStepStart m => Sys2Proof.Machine.execBarrierStepStart m s
  | .barrierFinite m => Sys2Proof.Machine.execBarrierFinite m s
  | .barrierCommit m => Sys2Proof.Machine.execBarrierCommit m s
  | .barrierFloor m => Sys2Proof.Machine.execBarrierFloor m s
  | .barrierProgram m => Sys2Proof.Machine.execBarrierProgram m s
  | .barrierWindow m => Sys2Proof.Machine.execBarrierWindow m s
  | .boundaryWindow relocations => Sys2Proof.Machine.execBoundaryWindow relocations s
  | .compactionBudgetExpired => Sys2Proof.Machine.execCompactionBudgetExpired s
  | .migrateMapInstall m => Sys2Proof.Machine.execMigrateMapInstall m s
  | .mirrorStepDelta m => Sys2Proof.Machine.execMirrorStepDelta m s
  | .mirrorAck m => Sys2Proof.Machine.execMirrorAck m s
  | .mirrorBoundaryCopy m => Sys2Proof.Machine.execMirrorBoundaryCopy m s
  | .mirrorPullRequest m => Sys2Proof.Machine.execMirrorPullRequest m s
  | .mirrorPullReply m => Sys2Proof.Machine.execMirrorPullReply m s
  | .retentionRecordWritten x => Sys2Proof.Machine.execRetentionRecordWritten x s
  | .failureReport x => Sys2Proof.Machine.execFailureReport x s
  | .abort m cls cause reporter => Sys2Proof.Machine.execAbort m cls cause reporter s
  | .abortFinal m => Sys2Proof.Machine.execAbortFinal m s
  | .substitute m => Sys2Proof.Machine.execSubstitute m s
  | .fallback m => Sys2Proof.Machine.execFallback m s
  | .probe m => Sys2Proof.Machine.execProbe m s
  | .recoveryAck m => Sys2Proof.Machine.execRecoveryAck m s
  | .probeTimeout x => Sys2Proof.Machine.execProbeTimeout x s
  | .watchdogExpiry => Sys2Proof.Machine.execWatchdogExpiry s
  | .heartbeatTick => Sys2Proof.Machine.execHeartbeatTick s
  | .heartbeat port m => Sys2Proof.Machine.execHeartbeat port m s
  | .portSilenceTimeout port => Sys2Proof.Machine.execPortSilenceTimeout port s
  | .allPortsDownTimeout => Sys2Proof.Machine.execAllPortsDownTimeout s
  | .flitReceive port flit => Sys2Proof.Machine.execFlitReceive port flit s
  | .laneDrop port passing => Sys2Proof.Machine.execLaneDrop port passing s
  | .retrainTimeout port => Sys2Proof.Machine.execRetrainTimeout port s
  | .portRetryTick port => Sys2Proof.Machine.execPortRetryTick port s
  | .portTrainingCheck port copies => Sys2Proof.Machine.execPortTrainingCheck port copies s
  | .portTrainingComplete port r => Sys2Proof.Machine.execPortTrainingComplete port r s
  | .portTrainingTimeout port => Sys2Proof.Machine.execPortTrainingTimeout port s
  | .temperatureMeasurement half => Sys2Proof.Machine.execTemperatureMeasurement half s
  | .powerCapTick watts mv => Sys2Proof.Machine.execPowerCapTick watts mv s
  | .patrolScrub r passEnds => Sys2Proof.Machine.execPatrolScrub r passEnds s
  | .uncorrectableRead words why tests => Sys2Proof.Machine.execUncorrectableRead words why tests s
  | .flashControllerTimeout => Sys2Proof.Machine.execFlashControllerTimeout s
  | .flashGarbageCollection freeBlocks f => Sys2Proof.Machine.execFlashGarbageCollection freeBlocks f s
  | .wearLevelling peMax peAvg f => Sys2Proof.Machine.execWearLevelling peMax peAvg f s
  | .readDisturbRefresh reads f => Sys2Proof.Machine.execReadDisturbRefresh reads f s
  | .start issuer core slot arg => Sys2Proof.Machine.execStart issuer core slot arg s
  | .end_ core => Sys2Proof.Machine.execEnd core s
  | .wait core mask all timer => Sys2Proof.Machine.execWait core mask all timer s
  | .signal issuer core slot flag => Sys2Proof.Machine.execSignal issuer core slot flag s
  | .yield core => Sys2Proof.Machine.execYield core s
  | .issue core unit addr kernel => Sys2Proof.Machine.execIssue core unit addr kernel s
  | .weirTimerExpiry core slot => Sys2Proof.Machine.execWeirTimerExpiry core slot s
  | .matmul core gang => Sys2Proof.Machine.execMatmul core gang s
  | .matmulPart core gang => Sys2Proof.Machine.execMatmulPart core gang s
  | .sparseHeaderScan core gang => Sys2Proof.Machine.execSparseHeaderScan core gang s
  | .tileComplete core gang => Sys2Proof.Machine.execTileComplete core gang s
  | .braidPlan cluster => Sys2Proof.Machine.execBraidPlan cluster s
  | .braidMerge cluster => Sys2Proof.Machine.execBraidMerge cluster s
  | .braidDone cluster => Sys2Proof.Machine.execBraidDone cluster s
  | .gather core errs => Sys2Proof.Machine.execGather core errs s
  | .scatterGrad core => Sys2Proof.Machine.execScatterGrad core s
  | .roundClose core => Sys2Proof.Machine.execRoundClose core s
  | .quarryDone core => Sys2Proof.Machine.execQuarryDone core s
  | .spill core => Sys2Proof.Machine.execSpill core s
  | .fill core => Sys2Proof.Machine.execFill core s
  | .tailraceDone core => Sys2Proof.Machine.execTailraceDone core s
  | .spEncode core slot a => Sys2Proof.Machine.execSpEncode core slot a s
  | .mask44 core slot a => Sys2Proof.Machine.execMask44 core slot a s
  | .rowbin core slot counts m perm starts => Sys2Proof.Machine.execRowbin core slot counts m perm starts s
  | .rowscatter core slot src rowBytes m perm dst dstRows => Sys2Proof.Machine.execRowscatter core slot src rowBytes m perm dst dstRows s
  | .rngUniform core slot r lo hi => Sys2Proof.Machine.execRngUniform core slot r lo hi s
  | .rngBernoulli core slot r p => Sys2Proof.Machine.execRngBernoulli core slot r p s
  | .rngDropout core slot r p scale x => Sys2Proof.Machine.execRngDropout core slot r p scale x s
  | .rngNormalBm core slot r mean std => Sys2Proof.Machine.execRngNormalBm core slot r mean std s
  | .rngNormalTab core slot r mean std => Sys2Proof.Machine.execRngNormalTab core slot r mean std s
  | .rngAdvance core slot tag tensor amount => Sys2Proof.Machine.execRngAdvance core slot tag tensor amount s
  | .vectorElementwise core slot v => Sys2Proof.Machine.execVectorElementwise core slot v s
  | .vectorReduction core slot kernel x y bf16In n bf16Out dst => Sys2Proof.Machine.execVectorReduction core slot kernel x y bf16In n bf16Out dst s
  | .splitKCombine core slot parts n ofmt dst => Sys2Proof.Machine.execSplitKCombine core slot parts n ofmt dst s
  | .xm48Add core slot d => Sys2Proof.Machine.execXm48Add core slot d s
  | .xm48Mul core slot c => Sys2Proof.Machine.execXm48Mul core slot c s
  | .xm48Load core slot addr n => Sys2Proof.Machine.execXm48Load core slot addr n s
  | .xm48Store core slot addr => Sys2Proof.Machine.execXm48Store core slot addr s
  | .xm48Convert core slot bf16 addr => Sys2Proof.Machine.execXm48Convert core slot bf16 addr s
  | .interfaceLockLoss pc => Sys2Proof.Machine.execInterfaceLockLoss pc s
  | .dramLinkTrainingLoss => Sys2Proof.Machine.execDramLinkTrainingLoss s
  | .smbusBridgeWrite off data => Sys2Proof.Machine.execSmbusBridgeWrite off data s
  | .eddyRefreshAck m => Sys2Proof.Machine.execEddyRefreshAck m s
  | .lostMessageReport dst vc id => Sys2Proof.Machine.execLostMessageReport dst vc id s
  | .joinTraffic pos word => Sys2Proof.Machine.execJoinTraffic pos word s
  | .rootPllLock straps => Sys2Proof.Machine.execRootPllLock straps s

end Sys2Proof.Machine
end

