-- ==== Sys2Proof/Machine/Idle.lean ====
section
/-! DEFINITION. What passes when no command waits (log entry 13). -/

namespace Sys2Proof.Machine

open Sys2Proof

/-- One core-clock cycle: sys.cycles counts from the deassertion of PERST# (15 R372) and so does CORE_CYCLES (15 R381). -/
def idle (s : State) : State :=
  if s.on then { s with regs := { s.regs with cycles := s.regs.cycles + 1 } }.count cCoreCycles 1 else s

end Sys2Proof.Machine
end

