-- ==== Sys2Proof/Safety.lean ====
section
/-! DEFINITION. The terms in which statements about the module are made: what reaches a module that runs nothing, when a host command is
accepted, when a completion has been posted, and what stays as it was. -/

namespace Sys2Proof.Machine

open Sys2Proof

/-- The commands that reach a module whether or not it runs: its power and resets, the boot ROM's stages, temperatures, the sled's bridge,
and BAR0 (15 R370, 17 R409-R421). -/
def reachesAnyway (c : Instr) : Bool :=
  match c with
  | .inputApplied _ | .powerGood | .inputTrip _ | .powerLoss | .railFault _ _ | .refclkLinkLoss | .pcieLinkDown | .pcieLinkUp
  | .perstAssert | .perstDeassert _ | .rootPllLock _ | .temperatureMeasurement _ | .powerCapTick _ _ | .smbusBridgeWrite _ _
  | .firmwareStageDone _ _ _ _ | .doorbellPoll _ _ | .ringsCtlWrite _ _ | .reloadEventRing | .reloadRing _ _ | .fenceRelease _ | .ctrSnap
  | .ctrDataHiRead | .counterPairRead | .indDataRead | .indDataWrite _ | .indirectAccessTimeout _ | .cfgCheckWrite _
  | .registerWrite _ _ _ _ | .bar0UnsupportedRequest _ _ => true
  | .recoveryRestart | .paritySweep _ _ | .join _ | .joinTimeout | .loadProgram _ _ _ _ _ | .loadVerdict _ | .mapTensor _ | .step _ _
  | .eval _ _ | .ingest _ _ | .tableReplace _ | .migrate _ _ | .copy _ _ | .checkpoint _ | .restoreContext _ _ | .replayRoll _
  | .replayRollThrough _ | .replayExec _ _ | .evidenceExport _ | .diagPrbsTest _ | .diagTestEnd _ _ | .diagMarginRead _ _ | .quiesce _
  | .fwPush _ _ _ | .attest _ | .phaseEnd | .hopBatchSend _ | .sampleReq _ _ _ | .sampleReply _ | .lookupBatch _ | .lookupReply _
  | .eddyRefreshRecord _ | .remoteAcc _ | .confRerequest _ | .remoteWrite _ | .remoteRead _ | .remoteReadReply _ _ | .barrierStepStart _
  | .barrierFinite _ | .barrierCommit _ | .barrierFloor _ | .barrierProgram _ | .barrierWindow _ | .boundaryWindow _
  | .compactionBudgetExpired | .migrateMapInstall _ | .mirrorStepDelta _ | .mirrorAck _ | .mirrorBoundaryCopy _ | .mirrorPullRequest _
  | .mirrorPullReply _ | .retentionRecordWritten _ | .failureReport _ | .abort _ _ _ _ | .abortFinal _ | .substitute _ | .fallback _
  | .probe _ | .recoveryAck _ | .probeTimeout _ | .watchdogExpiry | .heartbeatTick | .heartbeat _ _ | .portSilenceTimeout _
  | .allPortsDownTimeout | .flitReceive _ _ | .laneDrop _ _ | .retrainTimeout _ | .portRetryTick _ | .portTrainingCheck _ _
  | .portTrainingComplete _ _ | .portTrainingTimeout _ | .patrolScrub _ _ | .uncorrectableRead _ _ _ | .flashControllerTimeout
  | .flashGarbageCollection _ _ | .wearLevelling _ _ _ | .readDisturbRefresh _ _ | .start _ _ _ _ | .end_ _ | .wait _ _ _ _
  | .signal _ _ _ _ | .yield _ | .issue _ _ _ _ | .weirTimerExpiry _ _ | .matmul _ _ | .matmulPart _ _ | .sparseHeaderScan _ _
  | .tileComplete _ _ | .braidPlan _ | .braidMerge _ | .braidDone _ | .gather _ _ | .scatterGrad _ | .roundClose _ | .quarryDone _
  | .spill _ | .fill _ | .tailraceDone _ | .spEncode _ _ _ | .mask44 _ _ _ | .rowbin _ _ _ _ _ _ | .rowscatter _ _ _ _ _ _ _ _
  | .rngUniform _ _ _ _ _ | .rngBernoulli _ _ _ _ | .rngDropout _ _ _ _ _ _ | .rngNormalBm _ _ _ _ _ | .rngNormalTab _ _ _ _ _
  | .rngAdvance _ _ _ _ _ | .vectorElementwise _ _ _ | .vectorReduction _ _ _ _ _ _ _ _ _ | .splitKCombine _ _ _ _ _ _ | .xm48Add _ _ _
  | .xm48Mul _ _ _ | .xm48Load _ _ _ _ | .xm48Store _ _ _ | .xm48Convert _ _ _ _ | .interfaceLockLoss _ | .dramLinkTrainingLoss
  | .eddyRefreshAck _ | .lostMessageReport _ _ _ | .joinTraffic _ _ => false

/-- The commands of power, resets and the root PLL. -/
def resets (c : Instr) : Bool :=
  match c with
  | .inputApplied _ | .powerGood | .inputTrip _ | .powerLoss | .railFault _ _ | .refclkLinkLoss | .perstAssert | .perstDeassert _ | .rootPllLock _
  | .temperatureMeasurement _ => true
  | _ => false

/-- Transitions of 13 R340, any number of them, lead from one state of the module to another. -/
def MState.leadsTo (a b : MState) : Bool :=
  a == b || b == .halted ||
  match a, b with
  | .rom, _ | .recovery, _ => true
  | .ready, .joined | .ready, .loaded | .ready, .running | .ready, .quiesced => true
  | .joined, .loaded | .joined, .running | .joined, .quiesced => true
  | .loaded, .running | .loaded, .quiesced | .running, .loaded | .running, .quiesced => true
  | _, _ => false

/-- Every byte store is in its canonical form. -/
def State.storesOk (s : State) : Prop := Memory.wf s.mem ∧ NMap.wf (0xFF : Byte) s.nor ∧ NMap.wf (0xFF : Byte) s.sermem

/-- The command that ring `n` can go on with is `d`: the next of its queue, which the module can take up now, or one taken up that waits for the others to
end (13 R332, R334). -/
def State.upNext (s : State) (n : Nat) (d : List Byte) : Prop :=
  ((∃ rest, (s.ring n).queue = d :: rest) ∧ s.canDequeue n = true) ∨
  ((∃ i, (s.ring n).busy = some (i, d)) ∧ (s.ring n).waits = true ∧ s.live = true)

/-- Ring `n` can go on with `d`, and the checks that every command shares pass (13 R333, R334, R341). -/
def State.takes (s : State) (n op : Nat) (d : List Byte) : Prop :=
  s.upNext n d ∧ descOp d = op ∧ descOk d = true ∧ legal op s.ms.st = .accept ∧
  (rankOp op = true → s.mach.rank.isSome = true) ∧ ((op = 0x04 ∨ op = 0x05) → s.recov.fallback = false) ∧
  (exclusiveOp op = true → s.othersIdle n = true)

/-- The INDEX of the command that ring `n` goes on with (13 R335). -/
def State.nextIndex (s : State) (n : Nat) : Nat := (s.ring n).busy.elim ((s.ring n).ci - (s.ring n).queue.length) (·.1)

/-- The completion entry of descriptor `d` of ring `n` at INDEX has been written to the host or waits to become visible (13 R335-R337). -/
def State.posted (s : State) (n index : Nat) (d : List Byte) (c : Cpl) (t : State) : Prop :=
  let r := (s.ring n).ctx
  let a := r.cplBase + 32 * (index % 2 ^ r.log2)
  let e := completionEntry c n index r.log2 d (descFence d && !succeeds c.status)
  HostWrite.mem a e ∈ t.host.out ∨ ∃ q, HeldEntry.completion a e q ∈ t.host.held

/-- Ring `n`'s next command has been taken up and has completed with `c`. -/
def State.answered (s : State) (n : Nat) (d : List Byte) (c : Cpl) (t : State) : Prop :=
  s.posted n (s.nextIndex n) d c t ∧ (t.ring n).busy = none

/-- Nothing the module stores has changed: device memory, the serial memory, the fuses and the loaded program. -/
def State.storesSame (s t : State) : Prop :=
  t.mem = s.mem ∧ t.nor = s.nor ∧ t.sermem = s.sermem ∧ t.fuse = s.fuse ∧ t.prog = s.prog

/-- The committed state and the step in progress have not changed. -/
def State.stepSame (s t : State) : Prop := t.st = s.st ∧ t.ex = s.ex ∧ t.conf = s.conf ∧ t.gc = s.gc

/-- What outlives every reset and loss of power: flash with what its translation layer keeps, the serial memory and the fuses (08 R186, 16 R386, R387,
17 R418). An owner slot that the ROM was writing may be left without its VALID byte and with less of its hash (16 R393). -/
def State.kept (s t : State) : Prop :=
  (∀ a, flashBase ≤ a → t.byte a = s.byte a) ∧ t.nor = s.nor ∧ t.tier.retired = s.tier.retired ∧ t.tier.unreadable = s.tier.unreadable ∧
  t.slotOpen = s.slotOpen ∧ t.tier.worn = s.tier.worn ∧ t.tier.blocks = s.tier.blocks ∧ (s.ms.claimed = none → t.fuse = s.fuse) ∧
  ∀ i, s.ms.claimed = some i → t.fuse = s.fuse ∨
    ∃ m, t.fuse = { s.fuse with owners := setNth s.fuse.owners i { hash := (nth default s.fuse.owners i).hash &&& m, valid := 0 } }

/-- The module is as after a reset, but for what outlives it (17 R418). -/
def State.wiped (s t : State) : Prop :=
  s.kept t ∧ (∀ a, a < flashBase → t.byte a = 0) ∧ t.ms = .reset ∧ t.regs = .reset ∧ t.ctr = .reset ∧ t.prog = none ∧ t.st = .reset ∧
  t.mach = .reset ∧ t.host.rings = [] ∧ t.gc = .reset ∧ t.pwr.pcieUp = false ∧ t.pwr.vinMv = 0 ∧ t.pwr.pinW = 0

/-- The boot ROM has latched the straps and read the serial memory; a failed header has halted the module (10 R250, 16 R391, R394). -/
def State.booted (s : State) (straps : BitVec 14) (t : State) : Prop :=
  t.pwr.straps = straps ∧ t.ms.position = straps.toNat ∧ t.sermem = s.nor ∧ t.fuse.vendorKey = s.fuse.vendorKey ∧
  (t.ms.st = .rom ∨ t.ms.st = .recovery ∨ t.ms.st = .halted) ∧
  (s.headerOk = false → t.ms.st = .halted ∧ t.ms.halt = 0x5 ∧ t.ms.detail = 0x020001) ∧ (s.headerOk = true → t.ms.keyed = true)

/-- Everything but the host side is as it was; the module's state may have become LOADED as the last command of the RUNNING set ended. -/
def State.hostOnly (s t : State) : Prop :=
  { t with
    host := s.host
    ms := { t.ms with st := s.ms.st } } = s ∧ (t.ms.st = s.ms.st ∨ (s.ms.st = .running ∧ t.ms.st = .loaded))

/-- A message has been sent on the way from `s` to `t`: its type, OPC, VC, destination, flags and body. -/
def State.emits (s t : State) (m : Msg) : Prop :=
  ∃ x ∈ t.net.sent.drop s.net.sent.length, x.typ = m.typ ∧ x.opc = m.opc ∧ x.vc = m.vc ∧ x.dst = m.dst ∧ x.resp = m.resp ∧ x.last = m.last ∧
    x.body = m.body

/-- The ring and the opcode of a command that the host places in a ring. -/
def hostCommand (c : Instr) : Option (Nat × Nat) :=
  match c with
  | .join n => some (n, 0x01)
  | .loadProgram n _ _ _ _ => some (n, 0x02)
  | .mapTensor n => some (n, 0x03)
  | .step n _ => some (n, 0x04)
  | .eval n _ => some (n, 0x05)
  | .ingest n _ => some (n, 0x06)
  | .tableReplace n => some (n, 0x07)
  | .migrate n _ => some (n, 0x08)
  | .copy n _ => some (n, 0x09)
  | .checkpoint n => some (n, 0x0A)
  | .restoreContext n _ => some (n, 0x0B)
  | .replayRoll n => some (n, 0x0C)
  | .replayRollThrough n => some (n, 0x0C)
  | .replayExec n _ => some (n, 0x0C)
  | .evidenceExport n => some (n, 0x0D)
  | .diagPrbsTest n => some (n, 0x0E)
  | .diagMarginRead n _ => some (n, 0x0E)
  | .quiesce x => some (x.ring, 0x0F)
  | .fwPush n _ _ => some (n, 0x10)
  | .attest n => some (n, 0x11)
  | _ => none

/-- The descriptor is of the row that a command stands for, where several rows share its opcode, an EVAL or EVIDENCE_EXPORT may begin (01 R35), and no
port is under test that a PRBS test waits for (10 R265). -/
def rowFor (c : Instr) (d : List Byte) (s : State) : Bool :=
  match c with
  | .eval _ _ => !descOk d || s.evalMayBegin
  | .evidenceExport _ => !descOk d || s.evalMayBegin
  | .replayRoll _ => field d 16 1 == 0
  | .replayExec _ _ => field d 16 1 == 1
  | .replayRollThrough _ => field d 16 1 == 2
  | .diagPrbsTest _ => field d 16 1 == 1 && !s.testing && !((s.port (field d 17 1)).st == .training && s.ms.st != .ready)
  | .diagMarginRead _ _ => field d 16 1 == 2
  | _ => true

/-- Ring `n` can go on with `d`, of opcode `op`, and check 2 may judge it now (13 R332-R334). -/
def State.heads (s : State) (n op : Nat) (d : List Byte) : Prop := s.upNext n d ∧ descOp d = op ∧ s.mayJudge n op = true

/-- The command in progress on ring `n` has completed with `c`. -/
def State.ended (s : State) (n : Nat) (c : Cpl) (t : State) : Prop :=
  ∃ i d, (s.ring n).busy = some (i, d) ∧ s.posted n i d c t ∧ (t.ring n).busy = none

/-- A barrier message of a kind that releases the barrier at which this module waits (10 R264). -/
def State.releasedBy (s : State) (kind : Nat) (m : Msg) : Prop :=
  s.member = true ∧ m.typ = 6 ∧ m.opc = kind ∧ m.resp = true ∧ (s.barrier kind).up = true ∧
  ∃ v, (s.barrier kind).own = some (field m.body 0 4, field m.body 4 1, v)

/-- Only the cores and the counters have changed. -/
def State.coresOnly (s t : State) : Prop :=
  { t with
    gc := s.gc
    ctr := s.ctr } = s

/-- Only the network side and the counters have changed. -/
def State.netOnly (s t : State) : Prop :=
  { t with
    net := s.net
    ctr := s.ctr } = s

/-- An event has been posted: it has been written to the host or waits to become visible (13 R337, R338). -/
def State.tells (t : State) (code : Nat) (payload : List Byte) : Prop :=
  HeldEntry.event code payload ∈ t.host.held ∨ ∃ a seq log2, HostWrite.mem a (eventEntry code seq log2 payload) ∈ t.host.out

/-- Every Weir is at rest: nothing held, and no sequencer free while a task is READY (14 R355, R361). -/
def State.atRest (s : State) : Prop :=
  (∀ c, c < s.gc.weir.length → (s.weir c).held = [] ∧ ((s.weir c).running.isSome = true ∨ (s.weir c).ready = [])) ∧
  ∀ r ∈ s.gc.busy, r.done = false

/-- Bytes of a result lie in the buffer that a command names: written to the host, or stored in device memory; no other byte has changed. -/
def State.delivers (s t : State) (buf : Nat) (b : List Byte) : Prop :=
  (bufSpace buf = 1 → .mem (bits buf 0 62) b ∈ t.host.out) ∧ (bufSpace buf ≠ 1 → t.read (bufDa buf) b.length = b) ∧
  ∀ a, (bufSpace buf = 1 ∨ a < bufDa buf ∨ bufDa buf + b.length ≤ a) → t.byte a = s.byte a

/-- Only memory, the cores and the counters have changed. -/
def State.unitOnly (s t : State) : Prop :=
  { t with
    mem := s.mem
    gc := s.gc
    ctr := s.ctr } = s

/-- Every byte outside some ranges is as it was. -/
def State.outside (s t : State) (l : List Region) : Prop := ∀ a, (∀ w ∈ l, a < w.base ∨ w.base + w.len ≤ a) → t.byte a = s.byte a

/-- A descriptor of a unit is in progress for a task, and will set its flag. -/
def State.inProgress (t : State) (q : QDesc) (flag : Nat) : Prop :=
  ∃ r ∈ t.gc.busy, r.unit = q.unit ∧ r.core = q.core ∧ r.slot = q.slot ∧ r.gang = q.gang ∧ r.flag = flag ∧ r.eval = q.eval ∧ r.done = false

/-- A task runs on a core for work in progress, and its ranges keep the rules of 08 R187. -/
def State.lane (s : State) (core slot : Nat) (reads writes : List Region) : Prop :=
  s.runs core slot = true ∧ s.workLive ((s.weir core).task slot).evalClass = true ∧
  (∀ r ∈ reads, s.coreReads (s.physical core) r.base r.len = true) ∧ ∀ r ∈ writes, s.coreWrites (s.physical core) r.base r.len = true

/-- A vector operation of a task has changed nothing but memory, the old bytes that Commit keeps, the counters, and that task's four
arithmetic flags. -/
def State.laneOnly (s : State) (core slot : Nat) (t : State) : Prop :=
  ∃ f, { t with
    mem := s.mem
    ctr := s.ctr
    st := { t.st with undo := s.st.undo } } =
  { s.raise core slot f with ctr := s.ctr }

/-- The value of element `i` of an array of FP32 or BF16. -/
def State.valueAt (s : State) (fmt a n i : Nat) : FVal := ((floatFmt fmt).getD fp32).decode (nth 0 (s.codesAt fmt a n) i)

/-- A flag of a task has been set: it stands in the task's word, or has ended the task's wait and is returned there (14 R357, R358). -/
def State.flagged (s : State) (core slot flag : Nat) (t : State) : Prop :=
  let k := (s.weir core).task slot
  let f := k.flags ||| BitVec.ofNat 32 (2 ^ flag)
  let k' := (t.weir core).task slot
  (k.flags.getLsbD flag = true ∨ k.wakes f = false → k'.flags = f) ∧
  (k.flags.getLsbD flag = false → k.wakes f = true → k'.returned = f &&& k.mask ∧ k'.flags = f &&& ~~~k.mask ∧ k'.waitFlags = false)

/-- The oldest descriptor in progress that `p` picks, on cores at rest, with a place for the task that it may wake. -/
def State.oldest (s : State) (p : Running → Bool) (r : Running) : Prop :=
  s.gc.busy.find? (fun x => p x && !x.done && s.hasCore x.core) = some r ∧ s.atRest ∧ (s.weir r.core).room = true ∧
  r.slot < (s.weir r.core).tasks.length

/-- A descriptor in progress has completed: it has left its unit and its flag has been set. -/
def State.completes (s : State) (r : Running) (t : State) : Prop :=
  s.coresOnly t ∧ t.gc.busy = s.gc.busy.erase r ∧ t.gc.queue = s.gc.queue ∧ s.flagged r.core r.slot r.flag t

/-- Region `i` of the image shares no byte with another region of it, the tail of values kept by name among them, nor with a second copy (01 R23). -/
def State.standsAlone (s : State) (l : List Region) (i : Nat) (r : Region) : Prop :=
  overlaps r s.tailRegion = false ∧ (∀ j q, j ≠ i → l[j]? = some q → overlaps r q = false) ∧
  ∀ q ∈ s.imageRegions (!s.st.wEpoch), q.base ≠ r.base → overlaps r q = false

/-- Work has failed with a code: a step keeps it as this module's own content fault, an EVAL ends with it, and nothing stored has changed
(01 R26, 13 R343). -/
def State.failsWith (s : State) (eval : Bool) (x : Status) (t : State) : Prop :=
  s.storesSame t ∧ (∀ r, eval = false → s.st.run = some r → r.fault = none → t.st.run = some { r with fault := some x }) ∧
  ∀ e rest, eval = true → s.st.evals = e :: rest → (s.ring e.ring).busy.isSome = true →
    s.ended e.ring { status := x, info := e.info, step := e.pinned } t

/-- When a vector operation does not act: with no such task running, or none of its work in progress, it does nothing; `pre` is the code that its
operands are refused with, and after that a range against the rules of 08 R187 gives INDEX_RANGE. -/
def State.laneRefuses (s : State) (core slot : Nat) (pre : Option Status) (reads writes : List Region) (c : Instr) : Prop :=
  let eval := ((s.weir core).task slot).evalClass
  let fits := reads.all (fun r => s.coreReads (s.physical core) r.base r.len) && writes.all fun r => s.coreWrites (s.physical core) r.base r.len
  ((s.runs core slot && s.workLive eval) = false → exec c s = .next s) ∧
  ((s.runs core slot && s.workLive eval) = true → ∀ x, pre = some x ∨ (pre = none ∧ fits = false ∧ x = .indexRange) →
    ∃ t, exec c s = .next t ∧ s.failsWith eval x t)

/-- The module has halted with a reason, all that it stores as it was (13 R340, 16 R394). -/
def State.haltedFor (s : State) (reason : Nat) (t : State) : Prop :=
  t.ms.st = .halted ∧ t.ms.halt = reason ∧ s.storesSame t ∧ t.st.committed = s.st.committed ∧ t.st.wEpoch = s.st.wEpoch

/-- Reduce as Backward leaves it to its first work: the captures of Backward written, its tasks started. -/
def State.reduceBegun (s : State) : State := (s.capture 3).enterPhase .reduce 4 (some .reduction)

/-- Every slice, and every trained table with rows here, that this module owns is reduced (01 R18). -/
def State.allReduced (s : State) : Bool :=
  (s.slices.all fun x => s.mach.rank != some x.owner || s.conf.reduced.contains (kSlice, x.id)) &&
  s.trainedTables.all fun t => (s.ownedRows t).isEmpty || s.conf.reduced.contains (kRows, t)

/-- The runs that this module holds pending for other ranks, at their addresses, in the order in which they are stored (01 R20). -/
def State.pendingRuns (s : State) : List (Nat × List Byte) := s.mir.held.flatMap fun x => x.pend.map fun r => (s.mirrorBase x.owner + r.1, r.2)

/-- The attention areas of EVALs in progress, which one that takes the cores may blank (12 R319). -/
def State.attention (s : State) (l : List EvalRun) : List Region :=
  s.prog.elim [] fun p => l.map fun e => {
    base := p.place.attention
    len := 4 * (p.decl.attLayers * p.decl.attHeads * (s.spec e.spec).elim 0 fun sp => slotCount (fanouts sp)) }

/-- Nothing the module stores has changed but in some ranges of device memory. -/
def State.storesBut (s t : State) (l : List Region) : Prop :=
  s.outside t l ∧ t.nor = s.nor ∧ t.sermem = s.sermem ∧ t.fuse = s.fuse ∧ t.prog = s.prog

/-- An EVAL has been added to those in progress: the others are as they were, but that the one that comes first may have taken the cores. -/
def State.taken (s t : State) (e : EvalRun) : Prop :=
  e ∈ t.st.evals ∧ t.st.evals.length = s.st.evals.length + 1 ∧
  (∀ x ∈ s.st.evals, ∃ y ∈ t.st.evals, { y with begun := x.begun, drawing := x.drawing } = x) ∧
  (s.prog.isSome = true → ∀ x ∈ t.st.evals.head?, x.waits = false → x.begun = true)

/-- The destinations of the rows that a MIGRATE moves have been asked for room for them, and all that is stored is as it was (07 R178). -/
def State.asksRoom (s : State) (b : List Byte) (t : State) : Prop :=
  s.storesSame t ∧ t.st.migMap = s.st.migMap ∧
  ∀ r ∈ s.moving b, r.dst ∈ t.st.reserveWait ∧
    ∃ x ∈ t.net.sent.drop s.net.sent.length, x.typ = 1 ∧ x.opc = 5 ∧ x.vc = 0 ∧ x.dst = r.dst ∧ x.resp = false ∧ field x.body 8 8 = 4 ∧
      ∃ u v, x.body.drop 16 = u ++ migBytes r ++ v

/-- A message of an Eddy refresh toward a member carries a record (07 R172). -/
def State.refreshes (s t : State) (o : Nat) (rec_ : List Byte) : Prop :=
  ∃ x ∈ t.net.sent.drop s.net.sent.length, x.typ = 5 ∧ x.opc = 1 ∧ x.vc = 10 ∧ x.dst = o ∧ x.resp = true ∧ ∃ u v, x.body.drop 16 = u ++ rec_ ++ v

/-! ### Numbers (00 R10, 02) -/

/-- The rational that a finite value is. -/
def FVal.value : FVal → ℚ
  | .fin neg m e => (if neg then -1 else 1) * (m : ℚ) * (2 : ℚ) ^ e
  | _ => 0

/-- From here on a magnitude rounds to an infinity: half a unit beyond the largest finite one (02 R48). -/
def Fmt.limit (f : Fmt) : ℚ := 2 ^ (f.bias + 1) - 2 ^ (f.bias - f.fbits - 1 : Int)

/-- A code is a rational's one rounding into a format: to nearest, of two that are as near the even one, of the rational's sign, and an infinity beyond the
limit (00 R10, 02 R48). -/
def Fmt.roundsTo (f : Fmt) (x : ℚ) (c : Nat) : Prop :=
  (f.limit ≤ |x| → c = f.inf (decide (x < 0))) ∧
  (|x| < f.limit → (f.decode c).finite = true ∧ (0 < x → c < f.signBit) ∧ (x < 0 → f.signBit ≤ c ∧ c < 2 * f.signBit) ∧
    ∀ d, (f.decode d).finite = true → |(f.decode c).value - x| ≤ |(f.decode d).value - x| ∧
      ((f.decode d).value ≠ (f.decode c).value → |(f.decode c).value - x| = |(f.decode d).value - x| → c % 2 = 0))

/-- The same where a zero result is +0 (02 R51). -/
def Fmt.sumsTo (f : Fmt) (x : ℚ) (c : Nat) : Prop := ∃ d, (x = 0 → d = 0) ∧ (x ≠ 0 → f.roundsTo x d) ∧ (c = d ∨ (d = f.signBit ∧ c = 0))

/-- The sign bit of a value. -/
def FVal.negative : FVal → Bool
  | .nan => false
  | .inf a => a
  | .fin a _ _ => a

/-- A product with a NaN, or of an infinity and a zero (02 R53). -/
def FVal.noProduct (x y : FVal) : Prop := x = .nan ∨ y = .nan ∨ (x.isInf = true ∧ y.finite = true ∧ y.value = 0) ∨ (y.isInf = true ∧ x.finite = true ∧ x.value = 0)

/-- A product that is the infinity of a sign (02 R53). -/
def FVal.infProduct (x y : FVal) (neg : Bool) : Prop := ¬ x.noProduct y ∧ (x.isInf = true ∨ y.isInf = true) ∧ neg = (x.negative != y.negative)

/-- A code is the sum of two values under IEEE 754, rounded once (02 R59). -/
def Fmt.addsTo (f : Fmt) (x y : FVal) (c : Nat) : Prop :=
  (x = .nan ∨ y = .nan → c = f.nan) ∧
  (∀ a, x = .inf a → (∀ b, y = .inf b → c = if a = b then f.inf a else f.nan) ∧ (y.finite = true → c = f.inf a)) ∧
  (∀ b, y = .inf b → x.finite = true → c = f.inf b) ∧
  (x.finite = true → y.finite = true →
    (x.value + y.value ≠ 0 → f.roundsTo (x.value + y.value) c) ∧ (x.value + y.value = 0 → c = f.zero (decide (x.value = 0) && x.negative && y.negative)))

/-- A code is the product of two values under IEEE 754, rounded once (02 R59). -/
def Fmt.multipliesTo (f : Fmt) (x y : FVal) (c : Nat) : Prop :=
  (x.noProduct y → c = f.nan) ∧ (∀ a, x.infProduct y a → c = f.inf a) ∧
  (x.finite = true → y.finite = true →
    (x.value * y.value ≠ 0 → f.roundsTo (x.value * y.value) c) ∧ (x.value * y.value = 0 → c = f.zero (x.negative != y.negative)))

/-- A code is x × y + z under IEEE 754, rounded once (02 R59). -/
def Fmt.fusesTo (f : Fmt) (x y z : FVal) (c : Nat) : Prop :=
  (x.noProduct y ∨ z = .nan → c = f.nan) ∧ (∀ a, x.infProduct y a → f.addsTo (.inf a) z c) ∧
  (x.finite = true → y.finite = true → (∀ b, z = .inf b → c = f.inf b) ∧
    (z.finite = true → (x.value * y.value + z.value ≠ 0 → f.roundsTo (x.value * y.value + z.value) c) ∧
      (x.value * y.value + z.value = 0 → c = f.zero (decide (x.value * y.value = 0) && (x.negative != y.negative) && z.negative))))

/-- The value of a group of finite pairs: its products truncated in magnitude to `window` bits below the leading bit of the largest, and summed (02 R50, 03
R77). -/
def groupValue (window : Nat) (ps : List (FVal × FVal)) : ℚ :=
  let l := (ps.map fun p => p.1.value * p.2.value).filter (· ≠ 0)
  let top := (l.map fun v => Int.log 2 |v|).foldl max ((l.head?).elim 0 fun v => Int.log 2 |v|)
  let q : ℚ := 2 ^ (top - window)
  (l.map fun v => (if v < 0 then -1 else 1) * (⌊|v| / q⌋ : ℚ) * q).sum

/-- Twelve rounds of the generator in plain numbers (12 R295). -/
def generatorRounds (k0 k1 : Nat) : Nat × Nat × Nat × Nat → List (Nat × Nat × Nat) → Nat × Nat × Nat × Nat
  | g, [] => g
  | (c0, c1, c2, c3), (i, r, q) :: t =>
    let a := (c0 + c1) % 2 ^ 32
    let b := ((c1 * 2 ^ r + c1 / 2 ^ (32 - r)) % 2 ^ 32) ^^^ a
    let c := (c2 + c3) % 2 ^ 32
    let d := ((c3 * 2 ^ q + c3 / 2 ^ (32 - q)) % 2 ^ 32) ^^^ c
    if i % 2 = 1 then generatorRounds k0 k1 (a ^^^ ((k0 + i + 1) % 2 ^ 32), d, c ^^^ ((k1 + i + 1) % 2 ^ 32), b) t
    else generatorRounds k0 k1 (a, d, c, b) t

/-- The numbers of the rounds and their rotations (12 R295). -/
def generatorTable : List (Nat × Nat × Nat) :=
  [(0, 13, 16), (1, 15, 24), (2, 26, 13), (3, 6, 15), (4, 17, 26), (5, 29, 6), (6, 16, 17), (7, 24, 29), (8, 13, 16), (9, 15, 24), (10, 26, 13), (11, 6, 15)]

end Sys2Proof.Machine
end

