-- ==== Sys2Proof/Certificates/Slice0/Obligations.lean ====
section
/-! DEFINITION. What the provers are asked to prove of the module, one statement per definition. Each docstring says what the statement
states and, where a choice is the model's own, the log entry; OBLIGATIONS.json names the rules of the spec. -/

open Sys2Proof Sys2Proof.Machine

/-! ### The machine -/

/-- One step takes the command at the front of the queue and runs it on the state with the rest of the queue; with none waiting the block idles (the
model's own queue; log entry 13). -/
def Obligations.StepRunsFront : Prop :=
  (∀ (c : Instr) (rest : List Instr) (s : State), step { s with pending := c :: rest } = exec c { s with pending := rest }) ∧
  ∀ s : State, s.pending = [] → step s = .next (idle s)

/-- A module that runs nothing (no power, in reset, in ROM before its ports train at stage LINKS, or HALTED) is changed by no command but those of its
power and resets, its boot stages, temperatures, the power cap, the sled's bridge and BAR0: whatever else reaches it leaves the state as it was. -/
def Obligations.NotLiveUnchanged : Prop :=
  ∀ (c : Instr) (s : State), s.live = false → s.trains = false → reachesAnyway c = false → exec c s = .next s

/-- The module's state changes only along the table of 13 R340, whichever command runs and in whatever state: the state after a command other than those
of power, resets and the root PLL is the one before, or one that transitions of the table lead to from it. So HALTED is left by none of them, QUIESCED
only for HALTED, no module goes back to READY or from LOADED to JOINED, and ROM is entered only from RECOVERY. A command of power, resets or the root
PLL leaves the module where it was, or in ROM, RECOVERY, HALTED. -/
def Obligations.StatesFollowTable : Prop :=
  ∀ (c : Instr) (s t : State), exec c s = .next t →
    (resets c = false → s.ms.st.leadsTo t.ms.st = true) ∧
    (resets c = true → t.ms.st = s.ms.st ∨ t.ms.st = .rom ∨ t.ms.st = .recovery ∨ t.ms.st = .halted)

/-- Every command keeps the canonical form of device memory and of the serial memory's two images (the form is the model's; log entry 5). -/
def Obligations.StoresCanonical : Prop :=
  ∀ s t : State, s.storesOk → step s = .next t → t.storesOk

/-- The state after reset: its stores are in canonical form, it is in ROM with nothing loaded, no ring taken up, no counter counted and no command
waiting, and the BAR0 registers of chapters 05, 07, 08, 09, 11, 13, 15 and 17 that have RW bits and a reset value other than 0 read that value. What
the spec gives no reset value for is the model's choice: log entry 1. -/
def Obligations.ResetState : Prop :=
  (State.reset.storesOk ∧ State.reset.ms.st = .rom ∧ State.reset.prog = none ∧ State.reset.host.rings = [] ∧ State.reset.ctr.live = [] ∧
    State.reset.pending = []) ∧
  State.reset.regValue 0x00180 = 0x1005499A ∧ State.reset.regValue 0x00184 = 0x0B840133 ∧ State.reset.regValue 0x00188 = 0x00100103 ∧
  State.reset.regValue 0x0018C = 0x00007530 ∧ State.reset.regValue 0x00190 = 0x80000A04 ∧ State.reset.regValue 0x01000 = 0x00000004 ∧
  State.reset.regValue 0x0101C = 0x0040000A ∧ State.reset.regValue 0x04014 = 0x00000708 ∧ State.reset.regValue 0x07010 = 0x80001800

/-! ### Power, resets and boot (15, 16, 17) -/

/-- Input power and resets, each at every state. INPUT_APPLIED above 53 V and up to 60 V, on a module that has not shut down and whose rails are off,
brings the rails up; otherwise it changes nothing. INPUT_TRIP within 51 V to 60 V changes nothing; outside it, rails that are up go down, and the
module stays shut down (`tripped`) exactly if the input is still at 40 V or more, but for a fall during inrush, which only opens the switch; with the
rails down it only lifts a shutdown when the input is below 40 V. POWER_LOSS removes the rails and lifts a shutdown. While power is good, a rail more
than 5 % from nominal and the loss of the root PLL's lock each shut the module down if its rails are on. POWER_GOOD on rails that are on and PERST#
asserted on a module whose power is good put the module into its reset state: device memory below flash reads 0 and every register has its reset
value, of which those that the spec does not give are the model's choice (log entries 1, 2, 5, 6). What flash, the serial memory and the fuses hold
outlives every one of these, but for an owner slot that the ROM was writing, which may be left without its VALID byte (log entry 141). -/
def Obligations.PowerAndResets : Prop :=
  ∀ (s : State) (mv rail : Nat),
    (exec (.inputApplied mv) s = .next (if 53000 < mv ∧ mv ≤ 60000 ∧ s.pwr.tripped = false ∧ s.pwr.railsOn = false then
      { s with pwr := { s.pwr with applied := true, railsOn := true } } else s)) ∧
    (51000 ≤ mv → mv ≤ 60000 → exec (.inputTrip mv) s = .next s) ∧
    (mv < 51000 ∨ 60000 < mv →
      (s.pwr.railsOn = false →
        exec (.inputTrip mv) s = .next { s with pwr := { s.pwr with tripped := s.pwr.tripped && decide (40000 ≤ mv) } }) ∧
      (s.pwr.railsOn = true → ∃ t, exec (.inputTrip mv) s = .next t ∧ t.pwr.railsOn = false ∧ t.pwr.good = false ∧
        t.pwr.tripped = (decide (40000 ≤ mv) && (s.pwr.good || decide (60000 < mv))) ∧ s.kept t)) ∧
    (∃ t, exec .powerLoss s = .next t ∧ t.pwr.railsOn = false ∧ t.pwr.good = false ∧ t.pwr.tripped = false ∧ s.kept t) ∧
    (s.pwr.railsOn = true → s.pwr.good = true → s.railPresent rail = true →
      (100 * mv < 95 * nth 0 railNominal rail ∨ 105 * nth 0 railNominal rail < 100 * mv) →
      ∃ t, exec (.railFault rail mv) s = .next t ∧ t.pwr.railsOn = false ∧ t.pwr.good = false ∧ t.pwr.tripped = true ∧ s.kept t) ∧
    (s.pwr.railsOn = true → s.pwr.good = true →
      ∃ t, exec .refclkLinkLoss s = .next t ∧ t.pwr.railsOn = false ∧ t.pwr.good = false ∧ t.pwr.tripped = true ∧ s.kept t) ∧
    (s.pwr.railsOn = true → s.pwr.good = false →
      ∃ t, exec .powerGood s = .next t ∧ t.pwr.good = true ∧ t.pwr.waitPll = !s.pwr.perst ∧ t.pwr.duty = 16 ∧ s.wiped t) ∧
    (s.pwr.good = true → ∃ t, exec .perstAssert s = .next t ∧ t.pwr.good = true ∧ t.pwr.perst = true ∧ s.wiped t) ∧
    (s.pwr.good = false → exec .perstAssert s = .next { s with pwr := { s.pwr with perst := true } })

/-- Boot. The straps are latched and the boot ROM reads the serial memory when PERST# is deasserted on a module whose power is good, and when the root PLL
locks on one whose PERST# was already deasserted; a header that fails halts the module with reason 0x5 and DETAIL 0x020001; behind one that passes the
identity key is derived, for boot.id_key to show. RECOVERY_RESTART, due after FW_PUSH in RECOVERY, reads the serial memory again with BAR0's registers
and device memory kept. A firmware stage that ends well gives way to the next: DRAM to FLASH, FLASH to HBM, HBM to LINKS, where every port that the
map describes trains, and LINKS to READY. The registers and gauges of flash take the values that its translation layer has kept. One that fails halts
the module: reason 0x2 for DRAM and flash with that tier's fault, and reason 0x6 for HBM training, which more than two failing lanes of a
pseudo-channel fail too. -/
def Obligations.BootRuns : Prop :=
  (∀ (s : State) (straps : BitVec 14),
    (s.pwr.good = true → s.pwr.perst = true →
      ∃ t, exec (.perstDeassert straps) s = .next t ∧ t.pwr.perst = false ∧ s.booted straps t) ∧
    (s.on = true → s.pwr.waitPll = true → ∃ t, exec (.rootPllLock straps) s = .next t ∧ t.pwr.waitPll = false ∧ s.booted straps t) ∧
    (s.on = true → s.ms.st = .recovery → s.ms.fwRestart = true →
      ∃ t, exec .recoveryRestart s = .next t ∧ t.sermem = s.nor ∧ t.ms.fwRestart = false ∧ t.regs = s.regs ∧ t.mem = s.mem)) ∧
  ∀ (s : State) (n : Nat) (bad : List (Nat × List Nat)) (table : List (List Byte)), s.on = true → s.ms.st = .rom →
    (s.ms.fwRun = some 0x07 → ∃ t, exec (.firmwareStageDone true n bad table) s = .next t ∧ t.ms.stage = 0x08 ∧ t.ms.fwRun = some 0x08 ∧
      t.ind.lpddrTrain = BitVec.ofNat 32 (2 ^ 31 + n % 2 ^ 8) ∧ s.storesSame t) ∧
    (s.ms.fwRun = some 0x08 → ∃ t, exec (.firmwareStageDone true n bad table) s = .next t ∧ t.ms.stage = 0x09 ∧ t.ms.fwRun = some 0x09 ∧
      s.storesSame t ∧ ∀ b, s.tier.blocks = some b → t.ind.flashGood = b.good ∧ t.ind.flashSpare = b.spare ∧ t.ind.flashPeAvg = b.peAvg ∧
        t.ind.flashPeMax = b.peMax ∧ t.counter cFlashSpare = b.spare.setWidth 64 ∧ t.counter cFlashPe = b.peAvg.setWidth 64) ∧
    (s.ms.fwRun = some 0x09 → bad.all (fun b => decide (b.2.length ≤ 2)) = true →
      ∃ t, exec (.firmwareStageDone true n bad table) s = .next t ∧ t.ms.stage = 0x0A ∧ t.ms.fwRun = some 0x0A ∧ s.storesSame t ∧
        ∀ p, s.describes p = true → (s.port p).st ≠ .absent → (t.port p).st = .training) ∧
    (s.ms.fwRun = some 0x0A → (∀ x ∈ s.regs.tableRegs ++ s.regs.evRegs, x.2.ok = true) → ∀ ok,
      ∃ t, exec (.firmwareStageDone ok n bad table) s = .next t ∧ t.ms.st = .ready ∧ t.ms.stage = 0x0B ∧ t.ms.fwRun = none ∧ t.mem = s.mem ∧
        ∀ p, t.port p = s.port p) ∧
    (s.ms.fwRun = some 0x07 → ∃ t, exec (.firmwareStageDone false n bad table) s = .next t ∧ t.ms.st = .halted ∧ t.ms.halt = 0x2 ∧
      t.tier.dramFault = true) ∧
    (s.ms.fwRun = some 0x08 → ∃ t, exec (.firmwareStageDone false n bad table) s = .next t ∧ t.ms.st = .halted ∧ t.ms.halt = 0x2 ∧
      t.tier.flashFault = true) ∧
    (s.ms.fwRun = some 0x09 → ∀ ok, ok = false ∨ bad.all (fun b => decide (b.2.length ≤ 2)) = false →
      ∃ t, exec (.firmwareStageDone ok n bad table) s = .next t ∧ t.ms.st = .halted ∧ t.ms.halt = 0x6 ∧ t.tier.trainFail = true)

/-- The sled's bridge, while power is good and PERST# asserted, stores exactly the bytes it names, below the image slot; otherwise it changes nothing.
When the host link goes down nothing else changes. When it comes up on a module that is on, nothing that was written to the host before is lost, every
held completion that no held event stands before is written, and only the host side and the link have changed. -/
def Obligations.OutsideLinks : Prop :=
  (∀ (s : State) (off : Nat) (data : List Byte),
    (s.pwr.good = true → s.pwr.perst = true → off + data.length ≤ slotBase →
      ∃ t, exec (.smbusBridgeWrite off data) s = .next t ∧ (∀ i (h : i < data.length), byteAt 0xFF t.nor (off + i) = data[i]) ∧
        (∀ a, a < off ∨ off + data.length ≤ a → byteAt 0xFF t.nor a = byteAt 0xFF s.nor a) ∧ { t with nor := s.nor } = s) ∧
    (s.pwr.good = false ∨ s.pwr.perst = false ∨ slotBase < off + data.length → exec (.smbusBridgeWrite off data) s = .next s)) ∧
  ∀ s : State,
    exec .pcieLinkDown s = .next { s with pwr := { s.pwr with pcieUp := false } } ∧
    (s.on = true → ∃ t, exec .pcieLinkUp s = .next t ∧ t.pwr = { s.pwr with pcieUp := true } ∧ (∀ w ∈ s.host.out, w ∈ t.host.out) ∧
      (∀ pre a d q rest, s.host.held = pre ++ HeldEntry.completion a d q :: rest → (∀ e ∈ pre, ∃ a d q, e = HeldEntry.completion a d q) →
        HostWrite.mem a d ∈ t.host.out) ∧
      { t with pwr := s.pwr, host := s.host } = s)

/-- Temperatures and the power cap. A measurement of a module that is on, and holds few enough events to hold one more for every sensor, sets the reading
and the band of every sensor. If then a sensor of 8 to 13 is at its shutdown level, the rails are removed; if not, and an HBM stack is at its fatal
level, a running module halts with reason 0x3; else the module's state stays. While the hold of events is full, no band changes but to the level that
halts or shuts down (13 R337; log entry 27). Each band rises as soon as an edge is reached, and an edge that has been reached holds until the
temperature is 2 °C below it. A power cap tick of a module that is on refreshes PIN_W and VIN_MV and moves the duty by at most one sixteenth, within 4
to 16: down when the cap is exceeded, up when the power is more than 50 W below it; pwr.cap with parity that disagrees halts a running module with
reason 0x1 instead (15 R383; that the tick is a use of it: log entry 104). -/
def Obligations.TemperatureAndPower : Prop :=
  (∀ (s : State) (half : List Nat) (band : Nat → Nat), s.on = true → (∀ i, band i = nextBand i (nth 0 s.tier.band i) (nth 0 half i)) →
    (s.host.held.length + 14 ≤ 4096 → (∀ i < 14, band i ≠ 4) ∨ (s.live = false ∧ ∀ i < 6, band (i + 8) ≠ 4) →
      ∃ t, exec (.temperatureMeasurement half) s = .next t ∧ (∀ i < 14, i < s.tier.band.length → nth 0 t.tier.band i = band i) ∧
        (∀ i < 14, i < s.tier.tempHalf.length → nth none t.tier.tempHalf i = some (nth 0 half i)) ∧ s.storesSame t ∧ s.stepSame t ∧ t.ms = s.ms) ∧
    (s.holdFull = true → (∀ i < 14, band i ≠ 4 ∧ nth 0 s.tier.band i ≠ 4) →
      ∃ t, exec (.temperatureMeasurement half) s = .next t ∧ t.tier.band = s.tier.band ∧ s.storesSame t ∧ s.stepSame t ∧ t.ms = s.ms) ∧
    ((∃ i < 6, i + 8 < s.tier.band.length ∧ band (i + 8) = 4) → s.pwr.railsOn = true →
      ∃ t, exec (.temperatureMeasurement half) s = .next t ∧ t.pwr.railsOn = false ∧ t.pwr.good = false ∧ t.pwr.tripped = true ∧ s.kept t) ∧
    (s.host.held.length + 14 ≤ 4096 → (∀ i < 6, band (i + 8) ≠ 4) → (∃ i < 8, i < s.tier.band.length ∧ band i = 4) → s.live = true →
      ∃ t, exec (.temperatureMeasurement half) s = .next t ∧ s.haltedFor 0x3 t)) ∧
  (∀ (sensor old half : Nat) (e : Nat × Nat), e ∈ bandEdges sensor →
    (e.2 ≤ half → e.1 ≤ nextBand sensor old half) ∧ (e.1 ≤ old → e.2 < half + 4 → e.1 ≤ nextBand sensor old half) ∧
    (half + 4 ≤ e.2 → nextBand sensor old half < e.1)) ∧
  ∀ (s : State) (watts mv : Nat), s.on = true →
    (s.regs.pwrCap.ok = true ∨ s.live = false →
      ∃ t, exec (.powerCapTick watts mv) s = .next t ∧ t.pwr.pinW = watts % 2 ^ 16 ∧ t.pwr.vinMv = mv % 2 ^ 16 ∧
        (s.capInForce < watts → t.pwr.duty = max 4 (s.pwr.duty - 1)) ∧ (watts + 50 < s.capInForce → t.pwr.duty = min 16 (s.pwr.duty + 1)) ∧
        (watts ≤ s.capInForce → s.capInForce ≤ watts + 50 → t.pwr.duty = s.pwr.duty) ∧ { t with pwr := s.pwr } = s) ∧
    (s.regs.pwrCap.ok = false → s.live = true → ∃ t, exec (.powerCapTick watts mv) s = .next t ∧ s.haltedFor 0x1 t)

/-! ### BAR0 (13, 15) -/

/-- Register writes through BAR0 while it answers, at an offset that is a multiple of 4 with every byte enable set. A register that has RW bits, rings.ctl
apart, stores exactly those bits with parity that agrees (sys.scratch after PAR_TEST apart); in HALTED it does not. The offsets of sys.cfg_check,
rings.ctl, ind.data, and of the strobes of rings.fence_clr and of the counter snapshot do what their own commands do, and so does rings.reload: EVENT
first where both of its strobes are set (log entry 19); a strobe that is not set does nothing. A write of ind.addr stores a multiple of 4, one of the
counter index its 12 bits, and one of ind.status clears the bits written as 1. Any other offset changes nothing, and a write with a byte enable clear
is dropped. All offsets that agree in the bits that decode are one register. An access longer than 8 bytes, or not aligned to its length of 4 or 8,
completes as unsupported and has no other effect; this form has the 8-byte read at 0x0_300C too, which is a command of its own (15 R385; log entry
22). -/
def Obligations.RegisterWrites : Prop :=
  (∀ (s : State) (off : BitVec 20) (val : W32) (table : List (List Byte)) (o : Nat), s.bar0Up = true → off.toNat % 4 = 0 → o = (canonical off).toNat →
    (∀ m, rwMask o = some m → o ≠ 0x01000 →
      (s.ms.st ≠ .halted → (o = 0x00020 → s.regs.parTest = false) →
        exec (.registerWrite off 15 val table) s = .next { s with regs := s.regs.put o (.of (val &&& m)) } ∧
        (s.regs.put o (.of (val &&& m))).at o = some (.of (val &&& m)) ∧
        ∀ o', o' ≠ o → (s.regs.put o (.of (val &&& m))).at o' = s.regs.at o') ∧
      (s.ms.st = .halted → exec (.registerWrite off 15 val table) s = .next s)) ∧
    (o = 0x00024 → exec (.registerWrite off 15 val table) s = exec (.cfgCheckWrite val) s) ∧
    (o = 0x01000 → exec (.registerWrite off 15 val table) s = exec (.ringsCtlWrite val table) s) ∧
    (o = 0x01024 → val.getLsbD 31 = true → exec (.registerWrite off 15 val table) s = exec (.fenceRelease (bits val.toNat 0 6)) s) ∧
    (o = 0x01024 → val.getLsbD 31 = false → exec (.registerWrite off 15 val table) s = .next s) ∧
    (o = 0x01020 → ∀ n, n = bits val.toNat 0 6 →
      (val.getLsbD 31 = false → val.getLsbD 30 = false → exec (.registerWrite off 15 val table) s = .next s) ∧
      (val.getLsbD 31 = true → val.getLsbD 30 = false → exec (.registerWrite off 15 val table) s = exec .reloadEventRing s) ∧
      (val.getLsbD 31 = false → val.getLsbD 30 = true →
        exec (.registerWrite off 15 val table) s = exec (.reloadRing n (nth (zeros 64) table n)) s) ∧
      (val.getLsbD 31 = true → val.getLsbD 30 = true →
        ∃ t, exec .reloadEventRing s = .next t ∧ exec (.registerWrite off 15 val table) s = exec (.reloadRing n (nth (zeros 64) table n)) t)) ∧
    (o = 0x02000 → exec (.registerWrite off 15 val table) s = .next { s with regs := { s.regs with indAddr := val &&& 0xFFFFFFFC#32 } }) ∧
    (o = 0x02004 → exec (.registerWrite off 15 val table) s = exec (.indDataWrite val) s) ∧
    (o = 0x02008 → ∃ t, exec (.registerWrite off 15 val table) s = .next t ∧ { t with regs := { t.regs with indStatus := s.regs.indStatus } } = s ∧
      ∀ i < 3, t.regs.indStatus.getLsbD i = (s.regs.indStatus.getLsbD i && !val.getLsbD i)) ∧
    (o = 0x03000 → val.getLsbD 0 = true → exec (.registerWrite off 15 val table) s = exec .ctrSnap s) ∧
    (o = 0x03000 → val.getLsbD 0 = false → exec (.registerWrite off 15 val table) s = .next s) ∧
    (o = 0x03008 → exec (.registerWrite off 15 val table) s = .next { s with regs := { s.regs with ctrIndex := BitVec.ofNat 12 val.toNat } }) ∧
    (rwMask o = none → o ∉ [0x00024, 0x01020, 0x01024, 0x02000, 0x02004, 0x02008, 0x03000, 0x03008] →
      exec (.registerWrite off 15 val table) s = .next s) ∧
    ∀ be : BitVec 4, be ≠ 15 → exec (.registerWrite off be val table) s = .next s) ∧
  (∀ (s : State) (off off' : BitVec 20) (be : BitVec 4) (val : W32) (table : List (List Byte)), canonical off = canonical off' →
    off.toNat % 4 = 0 → off'.toNat % 4 = 0 → exec (.registerWrite off be val table) s = exec (.registerWrite off' be val table) s) ∧
  ∀ (s : State) (off len : Nat), s.bar0Up = true → (8 < len ∨ (len = 4 ∧ off % 4 ≠ 0) ∨ (len = 8 ∧ off % 8 ≠ 0)) →
    exec (.bar0UnsupportedRequest off len) s = .next { s with regs := { s.regs with resp := none, unsupported := true } }

/-- Counter read-out and indirect accesses while BAR0 answers. A snapshot copies every counter to its holding register at once and raises SEQ; the
counters go on. Reading the high half, or the pair in one 8-byte read, gives the holding register's value, advances INDEX by one modulo 4,096 and
changes nothing else. Every access of ind.data advances ADDR by 4 modulo 2^32 whatever its outcome. A read of an unmapped address gives 0 and sets
UNMAPPED, a mapped one sets no status; a read of a lane whose checker runs may find its counts further on. A write outside READY is dropped and sets
LOCKED; an unmapped address is not written and sets UNMAPPED; in READY a write of a lane's txeq stores the value, and one of its pat_ctl the four bits
of the pattern, with both counts 0 where CHK_EN rises. An access that times out sets TIMEOUT, and a read then gives 0. -/
def Obligations.ReadOuts : Prop :=
  (∀ s : State, s.bar0Up = true →
    (∃ t, exec .ctrSnap s = .next t ∧ t.ctr.hold = s.ctr.live ∧ t.ctr.live = s.ctr.live ∧ t.regs.snapSeq = s.regs.snapSeq + 1 ∧
      { t with ctr := s.ctr, regs := s.regs } = s) ∧
    (∃ t, exec .ctrDataHiRead s = .next t ∧ t.regs.ctrIndex = s.regs.ctrIndex + 1 ∧
      t.regs.resp = some (BitVec.ofNat 64 (bits (s.holding s.regs.ctrIndex.toNat).toNat 32 32)) ∧ { t with regs := s.regs } = s) ∧
    ∃ t, exec .counterPairRead s = .next t ∧ t.regs.ctrIndex = s.regs.ctrIndex + 1 ∧ t.regs.resp = some (s.holding s.regs.ctrIndex.toNat) ∧
      { t with regs := s.regs } = s) ∧
  ∀ (s : State) (val : W32) (a : Nat), s.bar0Up = true → a = s.regs.indAddr.toNat →
    (∃ t, exec .indDataRead s = .next t ∧ t.regs.indAddr = s.regs.indAddr + 4 ∧ { t with regs := s.regs, free := s.free, ind := s.ind } = s ∧
      { t.ind with err := s.ind.err, bits := s.ind.bits } = s.ind ∧
      (∀ l, (s.ind.patCtl.get (RwReg.of 0) l).val.getLsbD 30 = false → t.ind.err.get 0 l = s.ind.err.get 0 l ∧ t.ind.bits.get 0 l = s.ind.bits.get 0 l) ∧
      (s.indMapped a = false → t.regs.resp = some 0 ∧ t.regs.indStatus = s.regs.indStatus ||| 2) ∧
      (s.indMapped a = true → t.regs.indStatus = s.regs.indStatus)) ∧
    (∃ t, exec (.indDataWrite val) s = .next t ∧ t.regs.indAddr = s.regs.indAddr + 4 ∧ { t with regs := s.regs, ind := s.ind, free := s.free } = s ∧
      (s.ms.st ≠ .ready → t.ind = s.ind ∧ t.regs.indStatus.getLsbD 2 = true) ∧
      (s.indMapped a = false → t.ind = s.ind ∧ t.regs.indStatus.getLsbD 1 = true) ∧
      (s.ms.st = .ready → s.indMapped a = true → t.regs.indStatus = s.regs.indStatus ∧
        ∀ l, a < 0x01200000 → laneOf a = some (l, 0x020) → t.ind.txeq.get (RwReg.of 0) l = RwReg.of val) ∧
      (s.ms.st = .ready → s.indMapped a = true → ∀ l, a < 0x01200000 → laneOf a = some (l, 0x000) →
        t.ind.patCtl.get (RwReg.of 0) l = RwReg.of (val &&& 0xF0000000#32) ∧
        (val.getLsbD 30 = true → (s.ind.patCtl.get (RwReg.of 0) l).val.getLsbD 30 = false → t.ind.err.get 0 l = 0 ∧ t.ind.bits.get 0 l = 0))) ∧
    (∃ t, exec (.indirectAccessTimeout false) s = .next t ∧ t.regs.indAddr = s.regs.indAddr + 4 ∧ t.regs.indStatus = s.regs.indStatus ||| 1 ∧
      t.regs.resp = some 0 ∧ { t with regs := s.regs } = s) ∧
    ∃ t, exec (.indirectAccessTimeout true) s = .next t ∧ t.regs.indAddr = s.regs.indAddr + 4 ∧ t.regs.indStatus = s.regs.indStatus ||| 1 ∧
      { t with regs := s.regs } = s

/-- Configuration parity. PAR_TEST is taken in READY only, and the write of sys.scratch that follows it stores parity that disagrees. The sweep leaves a
register of BAR0, or a lane's pat_ctl or txeq, whose parity agrees; one whose parity disagrees, in a module that runs, posts CFG_PARITY with its
offset and its space and halts the module with reason 0x1, every store and the registers of BAR0 as they were. -/
def Obligations.ConfigParity : Prop :=
  (∀ (s : State) (val : W32) (table : List (List Byte)), s.bar0Up = true →
    (s.ms.st = .ready → val.getLsbD 0 = true → exec (.cfgCheckWrite val) s = .next { s with regs := { s.regs with parTest := true } }) ∧
    (s.ms.st ≠ .ready ∨ val.getLsbD 0 = false → exec (.cfgCheckWrite val) s = .next s) ∧
    (s.ms.st ≠ .halted → s.regs.parTest = true →
      ∃ t, exec (.registerWrite 0x00020 15 val table) s = .next t ∧ t.regs.scratch.val = val ∧ t.regs.scratch.ok = false ∧ t.regs.parTest = false ∧
        { t with regs := s.regs } = s)) ∧
  ∀ (s : State) (indirect : Bool) (a : Nat) (r : RwReg),
    (indirect = false ∧ s.regs.at a = some r) ∨ (indirect = true ∧ ∃ l, laneOf a = some (l, 0x000) ∧ r = s.ind.patCtl.get (RwReg.of 0) l) ∨
      (indirect = true ∧ ∃ l, laneOf a = some (l, 0x020) ∧ r = s.ind.txeq.get (RwReg.of 0) l) →
    (r.ok = true → exec (.paritySweep indirect a) s = .next s) ∧
    (r.ok = false → s.live = true →
      ∃ t, exec (.paritySweep indirect a) s = .next t ∧ s.haltedFor 0x1 t ∧ t.regs = s.regs ∧ t.ind = s.ind ∧
        t.tells evCfgParity (leBytes 4 a ++ leBytes 1 indirect.toNat))

/-- Rings, while BAR0 answers and no register that taking up a ring reads has parity that disagrees. RINGS_CTL_WRITE outside HALTED stores its RW bits;
when it makes ENABLE 1 outside ROM, each of the 64 rings is taken up: an idle ring below NRINGS whose context entry is enabled and keeps the layout
starts afresh (position 0, nothing queued), an idle ring of another entry is stopped, and a ring with a command in progress stops with nothing queued
until that has completed. RELOAD_RING does the same for its one ring, and posts RING_CONFIG where the entry of an idle ring below NRINGS breaks the
layout, enabled or not, and RELOAD_EVENT_RING takes up the event ring from its registers; FENCE_RELEASE lets its ring go on and leaves the others. In
ROM each of these four is kept, in order, until firmware runs, and does nothing else but, of RINGS_CTL_WRITE, store the bits. DOORBELL_POLL of a
module that runs takes over the event ring's consumer record; with rings.ctl's parity in order and ENABLE set, for a ring that is running and not
fenced, whose record has its generation and announces at most as many descriptors as the ring holds, all of them read, and that has a command in
progress or only descriptors for which the opcode table has a row, it appends exactly those announced, in order, to what was fetched before, and a
record of another generation fetches nothing. -/
def Obligations.Rings : Prop :=
  (∀ (s : State) (n : Nat) (entry : List Byte) (val : W32) (table : List (List Byte)), s.bar0Up = true →
    (∀ x ∈ s.regs.tableRegs ++ s.regs.evRegs, x.2.ok = true) →
    (s.ms.st ≠ .halted → ∃ t, exec (.ringsCtlWrite val table) s = .next t ∧ t.regs.ringsCtl = .of (val &&& 0x80FF00FF#32) ∧
      { t with host := s.host, regs := s.regs } = s ∧
      (val.getLsbD 31 = false ∨ s.regs.ringsCtl.val.getLsbD 31 = true → t.host = s.host) ∧
      (val.getLsbD 31 = true → s.regs.ringsCtl.val.getLsbD 31 = false →
        (s.ms.st = .rom → t.host = { s.host with deferred := s.host.deferred ++ [.ctl table] }) ∧
        (s.ms.st ≠ .rom → ∀ k < 64, ∀ e, e = nth (zeros 64) table k →
          ((s.ring k).busy = none →
            t.ring k = (if k < t.regs.nrings ∧ (ringFields e).enable = true ∧ ringEntryOk s.regs.tableBase e = true then
              { Ring.stopped with running := true, ctx := ringFields e } else Ring.stopped)) ∧
          ∀ b, (s.ring k).busy = some b → t.ring k = { s.ring k with running := false, queue := [], again := some e, go := false }))) ∧
    (s.ms.st ≠ .rom → ∃ t, exec .reloadEventRing s = .next t ∧ t.host.ev.valid = s.regs.evValid ∧ t.host.ev.consumed = 0 ∧
      t.host.rings = s.host.rings ∧ { t with host := s.host } = s) ∧
    (s.ms.st ≠ .rom → ∃ t, exec (.reloadRing n entry) s = .next t ∧ (∀ k, k ≠ n → t.ring k = s.ring k) ∧ { t with host := s.host } = s ∧
      ((s.ring n).busy = none →
        t.ring n = (if n < s.regs.nrings ∧ (ringFields entry).enable = true ∧ ringEntryOk s.regs.tableBase entry = true then
          { Ring.stopped with running := true, ctx := ringFields entry } else Ring.stopped)) ∧
      ((s.ring n).busy = none → n < s.regs.nrings → ringEntryOk s.regs.tableBase entry = false → t.tells evRingConfig (leBytes 1 n ++ leBytes 1 1)) ∧
      ∀ b, (s.ring n).busy = some b → t.ring n = { s.ring n with running := false, queue := [], again := some entry, go := true }) ∧
    (s.ms.st ≠ .rom → ∃ t, exec (.fenceRelease n) s = .next t ∧ t.ring n = { s.ring n with fenced := false } ∧ (∀ k, k ≠ n → t.ring k = s.ring k) ∧
      { t with host := s.host } = s) ∧
    (s.ms.st = .rom →
      exec .reloadEventRing s = .next { s with host := { s.host with deferred := s.host.deferred ++ [.event] } } ∧
      exec (.reloadRing n entry) s = .next { s with host := { s.host with deferred := s.host.deferred ++ [.ring n entry] } } ∧
      exec (.fenceRelease n) s = .next { s with host := { s.host with deferred := s.host.deferred ++ [.fence n] } })) ∧
  ∀ (s : State) (recs : List DoorbellRead) (consumed : Nat), s.bar0Up = true → s.live = true → s.regs.ringsCtl.ok = true →
    ∃ t, exec (.doorbellPoll recs consumed) s = .next t ∧ t.host.ev.consumed = consumed ∧ s.storesSame t ∧ s.stepSame t ∧
      ∀ n ds, n < 64 → s.regs.ringsCtl.val.getLsbD 31 = true → (s.ring n).running = true → (s.ring n).fenced = false →
        (s.ring n).busy.isSome = true ∨ (∀ d ∈ (s.ring n).queue ++ ds, rowless d = false) →
        (∀ pi gen, recs = [{ ring := n, pi := pi, gen := gen, descs := ds }] →
          (gen = (s.ring n).ctx.gen → (pi + 2 ^ 32 - (s.ring n).ci % 2 ^ 32) % 2 ^ 32 = ds.length → ds.length ≤ 2 ^ (s.ring n).ctx.log2 →
            t.ring n = { s.ring n with queue := (s.ring n).queue ++ ds, ci := (s.ring n).ci + ds.length }) ∧
          (gen ≠ (s.ring n).ctx.gen → t.ring n = s.ring n))

/-! ### Commands of the host (13) -/

/-- The checks that every command of the host shares. The table of 13 R341 says which state accepts which command (opcodes 0x01 to 0x11), is not to take
it (STATE_INVALID), or has it wait. What a module in ROM or HALTED is sent is not read. Of a command that can be dequeued and is of its row: a
descriptor that breaks the layout completes at once with FORMAT_INVALID; one that the module's state does not take, or that needs a rank on a spare
without one, with STATE_INVALID; STEP and EVAL in FALLBACK with PEER_LOST; and a STEP with none before it, at step number 0xFFFF_FFFF or pinned to
another step number, with STATE_INVALID. Each of these changes nothing but the host side. -/
def Obligations.HostChecks : Prop :=
  (∀ (m : MState) (a s w : Legality), a = .accept → s = .invalid → w = .wait →
    let row := (List.range 17).map fun i => legal (i + 1) m
    (m = .recovery → row = [s, s, s, s, s, s, s, s, s, s, s, s, s, s, s, a, s]) ∧
    (m = .ready → row = [a, s, s, s, s, s, s, s, a, s, s, s, s, a, a, a, a]) ∧
    (m = .joined → row = [s, a, s, s, s, s, s, s, a, s, s, s, s, a, a, a, a]) ∧
    (m = .loaded → row = [s, a, a, a, a, a, a, a, a, a, a, a, a, a, a, a, a]) ∧
    (m = .running → row = [s, w, a, a, a, a, a, a, a, w, w, w, a, a, w, w, a]) ∧
    (m = .quiesced → row = [s, s, s, s, s, s, s, s, s, s, s, s, s, s, s, a, a])) ∧
  ∀ (c : Instr) (s : State) (n op : Nat) (d : List Byte), hostCommand c = some (n, op) →
    (s.ms.st = .rom ∨ s.ms.st = .halted → exec c s = .next s) ∧
    ((∃ rest, (s.ring n).queue = d :: rest) → descOp d = op → s.canDequeue n = true → rowFor c d s = true → descOk d = false →
      ∃ t, exec c s = .next t ∧ s.answered n d { status := .formatInvalid } t ∧ s.hostOnly t) ∧
    (s.heads n op d → rowFor c d s = true →
      (descOk d = true → (legal op s.ms.st = .invalid ∨ (rankOp op = true ∧ s.mach.rank = none)) →
        ∃ t, exec c s = .next t ∧ s.answered n d { status := .stateInvalid } t ∧ s.hostOnly t) ∧
      (descOk d = true → legal op s.ms.st = .accept → (op = 0x04 ∨ op = 0x05) → (op = 0x04 → s.mach.rank.isSome = true) → s.recov.fallback = true →
        ∃ t, exec c s = .next t ∧ s.answered n d { status := .peerLost } t ∧ s.hostOnly t) ∧
      (descOk d = true → legal op s.ms.st = .accept → op = 0x04 → s.mach.rank.isSome = true → s.recov.fallback = false → s.st.run = none →
        s.st.waiting = [] → (s.st.stepNo = 0xFFFFFFFF ∨ (descPin d = true ∧ descStepno d ≠ s.st.stepNo)) →
        ∃ t, exec c s = .next t ∧ s.answered n d { status := .stateInvalid, step := s.st.stepNo } t ∧ s.hostOnly t))

/-- A command of the host waits in its ring, and nothing happens, while its ring is fenced, has another command in progress, or is behind another ring's
exclusive command; EVAL and EVIDENCE_EXPORT between this module's PREPARED and the commit point; a PRBS test while a port is under test. An exclusive
one that keeps the layout is taken up and waits while another ring has a command in progress other than a boundary action that waits, and while the
table has it wait. A completion with a status of another class than 0x0 of a command with FENCE fences its ring, of any other it does not; the rest of
what the ring has queued, and every other ring, stay (log entry 113). -/
def Obligations.HostWaits : Prop :=
  (∀ (c : Instr) (s : State) (n op : Nat) (d : List Byte) (rest : List (List Byte)), hostCommand c = some (n, op) →
    ((s.ring n).busy = none → (s.ring n).queue = d :: rest →
      (s.canDequeue n = false ∨ (s.ring n).fenced = true ∨ (∃ x l, s.host.excl = x :: l ∧ x.1 ≠ n) ∨ descOp d ≠ op ∨ rowFor c d s = false →
        exec c s = .next s) ∧
      (s.canDequeue n = true → descOp d = op → rowFor c d s = true → descOk d = true → s.mayJudge n op = false →
        ∃ t, exec c s = .next t ∧ t.ring n = { s.ring n with queue := rest, busy := some (s.nextIndex n, d), waits := true } ∧
          (∀ k, k ≠ n → t.ring k = s.ring k) ∧ { t with host := s.host } = s)) ∧
    ∀ i, (s.ring n).busy = some (i, d) → ((s.ring n).waits = false ∨ s.live = false ∨ descOp d ≠ op ∨ rowFor c d s = false ∨ s.mayJudge n op = false) →
      exec c s = .next s) ∧
  ∀ (s : State) (n i : Nat) (d : List Byte) (c : Cpl), (s.ring n).busy = some (i, d) → (s.ring n).again = none →
    ((s.complete n c).ring n).fenced = ((s.ring n).fenced || (descFence d && !succeeds c.status)) ∧ ((s.complete n c).ring n).busy = none ∧
    ((s.complete n c).ring n).queue = (s.ring n).queue ∧ (∀ k, k ≠ n → (s.complete n c).ring k = s.ring k)

/-- MAP_TENSOR of a tensor of the loaded program, whose buffer is long enough and may take it, writes one record of 32 bytes for each contiguous range of
the tensor's rows on this module (those of a table's slots where its rows lie now: log entry 139) and completes with their number in INFO; a tensor
that the program lacks ends it with INDEX_RANGE, and a buffer that is too short with RESOURCE_SHORT. ATTEST with a buffer that may take its report of
6,472 bytes writes it; a shorter buffer ends it with RESOURCE_SHORT. A buffer out of place ends either with INDEX_RANGE. Nothing else changes (log
entries 25, 107). -/
def Obligations.ReportsWritten : Prop :=
  ∀ (s : State) (n : Nat) (d : List Byte),
    (s.takes n 0x03 d → ∀ p, s.prog = some p →
      ((p.tensors.any fun t => t.id == field d 16 2) = true →
        ∀ l, l = s.rangesOf (field d 16 2) →
        (32 * l.length ≤ field d 32 4 → s.bufferTakes (field d 24 8) (l.flatMap mapRecord).length = true →
          ∃ t, exec (.mapTensor n) s = .next t ∧ s.answered n d { status := .ok, info := l.length } t ∧
            s.delivers t (field d 24 8) (l.flatMap mapRecord) ∧ s.hostOnly { t with mem := s.mem }) ∧
        (32 * l.length ≤ field d 32 4 → s.bufferTakes (field d 24 8) (l.flatMap mapRecord).length = false →
          ∃ t, exec (.mapTensor n) s = .next t ∧ s.answered n d { status := .indexRange } t ∧ s.hostOnly t) ∧
        (field d 32 4 < 32 * l.length → ∃ t, exec (.mapTensor n) s = .next t ∧ s.answered n d { status := .resourceShort } t ∧ s.hostOnly t)) ∧
      ((p.tensors.any fun t => t.id == field d 16 2) = false →
        ∃ t, exec (.mapTensor n) s = .next t ∧ s.answered n d { status := .indexRange } t ∧ s.hostOnly t)) ∧
    (s.takes n 0x11 d →
      (6472 ≤ field d 56 4 → s.bufferTakes (field d 48 8) (s.attestReport (slice d 16 32)).length = true →
        ∃ t, exec (.attest n) s = .next t ∧ s.answered n d { status := .ok, info := 6472 } t ∧
          s.delivers t (field d 48 8) (s.attestReport (slice d 16 32)) ∧ s.hostOnly { t with mem := s.mem }) ∧
      (6472 ≤ field d 56 4 → s.bufferTakes (field d 48 8) (s.attestReport (slice d 16 32)).length = false →
        ∃ t, exec (.attest n) s = .next t ∧ s.answered n d { status := .indexRange } t ∧ s.hostOnly t) ∧
      (field d 56 4 < 6472 → ∃ t, exec (.attest n) s = .next t ∧ s.answered n d { status := .resourceShort } t ∧ s.hostOnly t))

/-- COPY whose source and destination its rules allow, not both in host memory, stores at DST exactly the LEN bytes at SRC and completes with LEN in INFO;
every byte outside DST stays, only flash pages that DST rewrites may become readable again, and nothing else changes, but for the counts of blocks
when a flash block fails on the way. From host to host, a device source or destination that its rules exclude (log entries 25, 88, 90, 124), and a
source on a flash page that cannot be read each end it with INDEX_RANGE, the last with MEMORY_UNCORRECTABLE, and nothing is stored. -/
def Obligations.CopyStores : Prop :=
  ∀ (s : State) (n src dst len : Nat) (d host : List Byte) (bad : Option FlashBlocks), s.takes n 0x09 d → src = field d 16 8 → dst = field d 24 8 → len = field d 32 8 →
    ((bufSpace src = 0 ∨ bufSpace dst = 0) → (bufSpace src = 0 → len ≠ 0 → s.copyReads (bufDa src) len = true) →
      (bufSpace dst = 0 → len ≠ 0 → s.copyWrites (bufDa dst) len = true) →
      (∀ b, s.readBuffer src len host = .ok b →
        ∃ t, exec (.copy n ⟨host, bad⟩) s = .next t ∧ s.answered n d { status := .ok, info := len } t ∧ s.delivers t dst b ∧
          (∀ p ∈ t.tier.unreadable, p ∈ s.tier.unreadable) ∧
          (bad = none ∨ len = 0 ∨ bufSpace dst = 1 ∨ s.placeOf (bufDa dst) ≠ .flash → s.hostOnly { t with mem := s.mem, tier := s.tier })) ∧
      (bufSpace src = 0 → len ≠ 0 → s.unreadable (bufDa src) len = true →
        ∃ t, exec (.copy n ⟨host, bad⟩) s = .next t ∧ s.answered n d { status := .memoryUncorrectable } t ∧ s.hostOnly t)) ∧
    ((bufSpace src = 1 ∧ bufSpace dst = 1) ∨ (bufSpace src = 0 ∧ len ≠ 0 ∧ s.copyReads (bufDa src) len = false) ∨
        (bufSpace dst = 0 ∧ len ≠ 0 ∧ s.copyWrites (bufDa dst) len = false) →
      ∃ t, exec (.copy n ⟨host, bad⟩) s = .next t ∧ s.answered n d { status := .indexRange } t ∧ s.hostOnly t)

/-- CHECKPOINT, at the boundary that it is pinned to if any, with a buffer that is long enough and may take it, writes the rank's saved context there and
completes with its length in INFO; no other byte changes but those of the values kept by name, which are brought up to date first (log entry 47). A
pin to another boundary, a buffer that is too short and one out of place end it with STATE_INVALID, RESOURCE_SHORT and INDEX_RANGE, and nothing
changes. RESTORE_CONTEXT of a context that fails a check, or that cannot be read, ends with that code and changes nothing; of a valid one it moves the
module to the context's boundary: step number, epoch, stream offsets and seed are the context's, each region of the image that overlaps no other holds
the context's bytes of it, and FALLBACK ends (log entries 88 and 90). REPLAY whose checks of 12 R310 fail ends with the check's code and changes
nothing else. Otherwise ROLL leaves the step number behind the last record applied, and the bytes of a record without boundary actions whose deltas
are one run lie where the run says (log entries 84, 85 and 124); ROLL_THROUGH rolls likewise and with the epoch of the one record more, and both
complete with the number of records rolled in INFO, at once or with the holders' acknowledgements; EXEC takes up the recorded step, which waits at its
start barrier. -/
def Obligations.SavedContexts : Prop :=
  ∀ (s : State) (n : Nat) (d host : List Byte),
    (s.takes n 0x0A d →
      ((descPin d = true → descStepno d = s.st.stepNo) → s.contextLen ≤ field d 24 8 →
        (s.bufferTakes (field d 16 8) s.contextLen = true → ∀ b, b = s.storeCarried.savedContext →
          ∃ t, exec (.checkpoint n) s = .next t ∧ s.answered n d { status := .ok, info := b.length, step := s.st.stepNo } t ∧
            s.storeCarried.delivers t (field d 16 8) b ∧ s.hostOnly { t with mem := s.mem }) ∧
        (s.bufferTakes (field d 16 8) s.contextLen = false →
          ∃ t, exec (.checkpoint n) s = .next t ∧ s.answered n d { status := .indexRange, step := s.st.stepNo } t ∧ s.hostOnly t)) ∧
      ((descPin d = true → descStepno d = s.st.stepNo) → field d 24 8 < s.contextLen →
        ∃ t, exec (.checkpoint n) s = .next t ∧ s.answered n d { status := .resourceShort, step := s.st.stepNo } t ∧ s.hostOnly t) ∧
      (descPin d = true → descStepno d ≠ s.st.stepNo →
        ∃ t, exec (.checkpoint n) s = .next t ∧ s.answered n d { status := .stateInvalid, step := s.st.stepNo } t ∧ s.hostOnly t)) ∧
    (s.takes n 0x0B d →
      (∀ x, s.readBuffer (field d 16 8) (field d 24 8) host = .error x →
        ∃ t, exec (.restoreContext n host) s = .next t ∧ s.answered n d { status := x } t ∧ s.hostOnly t) ∧
      ∀ b, s.readBuffer (field d 16 8) (field d 24 8) host = .ok b →
        (∀ x, s.contextFault b = some x →
          ∃ t, exec (.restoreContext n host) s = .next t ∧ s.answered n d { status := x, step := field b 8 4 } t ∧ s.hostOnly t) ∧
        (s.contextFault b = none → ∃ t, exec (.restoreContext n host) s = .next t ∧ t.st.stepNo = field b 8 4 ∧ t.st.epoch = field b 16 8 ∧
          t.st.offsets = sectionOffsets (slice b 128 528) ∧ t.recov.fallback = false ∧
          t.prog = s.prog.map (fun p => { p with seed := BitVec.ofNat 64 (field b 128 8) }) ∧ t.nor = s.nor ∧ t.fuse = s.fuse ∧
          ∀ rs i r, rs = s.imageRegions s.st.wEpoch → s.mir.waiting = [] → totalBytes rs ≤ field b 56 8 → rs[i]? = some r → s.standsAlone rs i r →
            t.read r.base r.len = slice b (656 + totalBytes (rs.take i)) r.len)) ∧
    (s.takes n 0x0C d →
      (field d 16 1 = 0 →
        (∀ x, s.replayCheck 0 d = .error x → ∃ t, exec (.replayRoll n) s = .next t ∧ s.answered n d { status := x } t ∧ s.hostOnly t) ∧
        ∀ rs, s.replayCheck 0 d = .ok rs → ∃ t, exec (.replayRoll n) s = .next t ∧ t.st.stepNo = rs.getLast?.elim s.st.stepNo (·.step + 1) ∧
          (s.mir.waiting = [] → t.mir.waiting = [(n, rs.length, 0)] ∨ s.answered n d { status := .ok, info := rs.length } t) ∧
          ∀ r b l i g, rs = [r] → r.boundary = 0 → b = s.read (r.start 5) r.deltas → b.length = 16 + field b 4 4 → s.mir.waiting = [] →
            l = s.imageRegions s.st.wEpoch → i = field b 0 4 → l[i]? = some g → s.standsAlone l i g → field b 8 8 + field b 4 4 ≤ g.len →
            t.read (g.base + field b 8 8) (field b 4 4) = slice b 16 (field b 4 4)) ∧
      (field d 16 1 = 2 →
        (∀ x, s.replayCheck 2 d = .error x → ∃ t, exec (.replayRollThrough n) s = .next t ∧ s.answered n d { status := x } t ∧ s.hostOnly t) ∧
        ∀ rs, s.replayCheck 2 d = .ok rs → ∃ t, exec (.replayRollThrough n) s = .next t ∧ t.st.stepNo = rs.dropLast.getLast?.elim s.st.stepNo (·.step + 1) ∧
          (∀ r, rs.getLast? = some r → t.st.epoch = r.epoch) ∧
          (s.mir.waiting = [] → t.mir.waiting = [(n, rs.dropLast.length, 0)] ∨ s.answered n d { status := .ok, info := rs.dropLast.length } t)) ∧
      (field d 16 1 = 1 →
        (∀ x, s.replayCheck 1 d = .error x →
          ∃ t, exec (.replayExec n host) s = .next t ∧ s.answered n d { status := x, step := s.st.stepNo } t ∧ s.hostOnly t) ∧
        ∀ r rs, s.replayCheck 1 d = .ok (r :: rs) →
          (∀ x, s.readBuffer (field d 40 8) (2 * field d 18 2) host = .error x →
            ∃ t, exec (.replayExec n host) s = .next t ∧ s.answered n d { status := x, step := s.st.stepNo } t ∧ s.hostOnly t) ∧
          ∀ b, s.readBuffer (field d 40 8) (2 * field d 18 2) host = .ok b →
            (s.capturesOk d ((groupsOf 2 b).map leNat) = false →
              ∃ t, exec (.replayExec n host) s = .next t ∧ s.answered n d { status := .resourceShort, step := s.st.stepNo } t ∧ s.hostOnly t) ∧
            (s.capturesOk d ((groupsOf 2 b).map leNat) = true →
              ∃ t q, exec (.replayExec n host) s = .next t ∧ t.st.run = some q ∧ q.exec = true ∧ q.ring = n ∧ q.phase = .waitStart ∧ q.record = some r.addr ∧
                q.spec = r.spec ∧ t.st.stepNo = s.st.stepNo)))

/-- Joining. JOIN takes the rank that the ranks section gives the module's position, or none, starts its message state afresh and tells every other rank;
JOIN_TIMEOUT in READY ends a JOIN in progress with TIMEOUT, without a rank. JOIN traffic that reaches a module in READY gives it the ranks section and
its rank stays as it was unless its JOIN is in progress; that of a module that joins has a member of a formed machine arrive at the FLOOR barrier with
its levels; that which says that a spare has left takes it out of those that have joined. The release of the FLOOR barrier at which this module waits
sets link.floor, leaves the machine formed, and in READY ends a JOIN in progress with the rank, whether it has none, and the position in INFO, in
JOINED; a release that changes the floor waits while the hold of events is full (log entry 27). No store changes (log entry 35 gives JOIN traffic its
form). QUIESCE of a module without a rank completes with OK and leaves it QUIESCED; an active module with an eligible spare hands its rank over and
leaves without one, the rank standing at the spare's position; without a spare it ends with RESOURCE_SHORT and nothing changes. It reads the recovery
register, and one whose parity disagrees halts the module with reason 0x1 (15 R383; log entry 104). What the machine shows of its spares is an operand
(log entry 56). -/
def Obligations.JoinAndLeave : Prop :=
  ((∀ s : State,
     (∀ (n : Nat) (d : List Byte) (l : List Nat), s.takes n 0x01 d → l = (if s.mach.ranks = [] then s.ms.map.elim [] (·.ranks) else s.mach.ranks) →
       ∃ t, exec (.join n) s = .next t ∧ t.mach.ranks = l ∧ t.mach.joinRing = some n ∧
         t.mach.rank = ((List.range l.length).find? fun r => nth 0 l r == s.ms.position) ∧ s.ms.position ∈ t.mach.joinSeen ∧
         t.net.dup = [] ∧ s.storesSame t ∧ s.stepSame t ∧
         ∀ r < l.length, some r ≠ t.mach.rank → s.emits t (joinNotice s.ms.position r)) ∧
     (s.live = true → s.ms.st = .ready → ∀ n i d, s.mach.joinRing = some n → (s.ring n).busy = some (i, d) →
       ∃ t, exec .joinTimeout s = .next t ∧ s.ended n { status := .timeout } t ∧ t.mach.rank = none ∧ t.mach.joinRing = none ∧ t.ms.st = .ready ∧
         s.storesSame t ∧ s.stepSame t) ∧
     (∀ (pos : Nat) (i : JoinInfo), s.live = true → s.ms.st = .ready → s.ms.map.isSome = true → s.mach.joinRing = none →
       ∃ t, exec (.joinTraffic pos ⟨(some i), false⟩) s = .next t ∧ pos ∈ t.mach.joinSeen ∧ t.mach.ranks = i.ranks ∧ t.mach.formed = true ∧
         t.mach.rank = s.mach.rank ∧ s.storesSame t ∧ s.stepSame t) ∧
     (∀ (pos : Nat) (i : Option JoinInfo), s.member = true → s.ms.map.isSome = true →
       (s.mach.formed = true → (s.barrier 3).own = none → s.ms.position ≠ pos →
         ∃ t, exec (.joinTraffic pos ⟨i, false⟩) s = .next t ∧ pos ∈ t.mach.joinSeen ∧ (t.barrier 3).own = some (0, 0, s.levels) ∧
           t.mach.ranks = s.mach.ranks ∧ s.storesSame t ∧ s.stepSame t) ∧
       (pos ∉ s.mach.ranks →
         ∃ t, exec (.joinTraffic pos ⟨i, true⟩) s = .next t ∧ t.mach.joinSeen = s.mach.joinSeen.filter (· != pos) ∧
           (t.barrier 3).own = some (0, 0, s.levels) ∧ s.storesSame t ∧ s.stepSame t)) ∧
     (∀ (m : Msg) (a b v : Nat), s.on = true → s.member = true ∨ s.ms.st = .ready → m.typ = 6 → m.opc = 3 → m.resp = true →
       (s.barrier 3).own = some (a, b, v) → (s.barrier 3).up = true → field m.body 0 4 = a → field m.body 4 1 = b →
       (s.holdFull = true → floorWord (field m.body 8 8) ≠ s.mach.floor → exec (.barrierFloor m) s = .next s) ∧
       (s.holdFull = false ∨ floorWord (field m.body 8 8) = s.mach.floor →
       (s.mach.joinRing = none →
         ∃ t, exec (.barrierFloor m) s = .next t ∧ t.mach.floor = floorWord (field m.body 8 8) ∧ t.mach.formed = true ∧
           t.mach.rank = s.mach.rank ∧ t.ms = s.ms ∧ s.storesSame t ∧ s.stepSame t) ∧
       ∀ n i d, s.ms.st = .ready → s.mach.joinRing = some n → (s.ring n).busy = some (i, d) →
         ∃ t, exec (.barrierFloor m) s = .next t ∧ t.mach.floor = floorWord (field m.body 8 8) ∧ t.mach.formed = true ∧ t.mach.joinRing = none ∧
           t.mach.rank = s.mach.rank ∧ t.ms.st = .joined ∧ s.storesSame t ∧ s.stepSame t ∧
           s.ended n { status := .ok, info := s.rank + 2 ^ 16 * s.mach.rank.isNone.toNat + 2 ^ 32 * s.ms.position } t)))) ∧
  (∀ (s : State) (n : Nat) (d : List Byte) (v : Survey), s.takes n 0x0F d →
     (s.mach.rank = none → ∃ t, exec (.quiesce ⟨n, v⟩) s = .next t ∧ s.answered n d { status := .ok } t ∧ t.ms.st = .quiesced ∧ t.mach.rank = none ∧
       s.storesSame t ∧ s.stepSame t) ∧
     (∀ r p, s.mach.rank = some r → s.regs.recovery.ok = true → s.eligible v r = some p → ∃ t, exec (.quiesce ⟨n, v⟩) s = .next t ∧ s.answered n d { status := .ok } t ∧
       t.ms.st = .quiesced ∧ t.mach.rank = none ∧ t.mach.ranks = setNth s.mach.ranks r p ∧ s.storesSame t ∧ s.stepSame t) ∧
     (∀ r, s.mach.rank = some r → s.regs.recovery.ok = false → ∃ t, exec (.quiesce ⟨n, v⟩) s = .next t ∧ s.haltedFor 0x1 t) ∧
     (∀ r, s.mach.rank = some r → s.regs.recovery.ok = true → s.eligible v r = none →
       ∃ t, exec (.quiesce ⟨n, v⟩) s = .next t ∧ s.answered n d { status := .resourceShort } t ∧ s.hostOnly t))

/-- LOAD_PROGRAM. A check that fails and a buffer that cannot be read each end it with that code, what was loaded staying; an image whose INIT leaves a
master unwritten, or writes where none may, is malformed and ends it with FORMAT_INVALID (log entry 108). On a module that has no other of its sled to
agree with, checks that pass put the program in place of what was loaded: the step number is FIRST and FALLBACK has ended; with no holder to
acknowledge its image it completes in LOADED. On one that has, the load waits for their verdicts; one that refuses ends it with RESOURCE_SHORT, what
was loaded staying, and the last one that agrees, on a sled of two, puts the program in place. The declarations and the placement, which the spec
leaves to the loader, are operands (log entry 9; verdicts: log entry 61). -/
def Obligations.Loading : Prop :=
  ∀ (s : State),
    (∀ (n : Nat) (d host : List Byte) (dc : Decl) (p : Placement) (inits : InitWrites) (sp : List (Nat × Placement)), s.takes n 0x02 d →
      (∀ x, s.readBuffer (field d 16 8) (field d 24 8) host = .error x →
        ∃ t, exec (.loadProgram n host (some dc) ⟨p, sp⟩ inits) s = .next t ∧ s.answered n d { status := x } t ∧ s.hostOnly t) ∧
      ∀ b q, s.readBuffer (field d 16 8) (field d 24 8) host = .ok b → q = programOf b (field d 32 8) (field d 40 4) dc p sp →
        (∀ x, s.loadCheck b (slice d 48 16) (some dc) p sp = some x ∨ (s.loadCheck b (slice d 48 16) (some dc) p sp = none ∧
            (s.initCovers dc p q.t7 inits && inits.all (s.initWrites p)) = false ∧ x = .formatInvalid) →
          ∃ t, exec (.loadProgram n host (some dc) ⟨p, sp⟩ inits) s = .next t ∧ s.answered n d { status := x } t ∧ s.hostOnly { t with net := s.net, ctr := s.ctr }) ∧
        (s.loadCheck b (slice d 48 16) (some dc) p sp = none → (s.initCovers dc p q.t7 inits && inits.all (s.initWrites p)) = true →
          (s.verdictPeers = [] →
            ∃ t, exec (.loadProgram n host (some dc) ⟨p, sp⟩ inits) s = .next t ∧ t.prog = some (q.withShared inits) ∧
              t.st.stepNo = field d 40 4 ∧ t.recov.fallback = false ∧ t.loadWait = none ∧ t.nor = s.nor ∧ t.fuse = s.fuse ∧
              (s.mach.rank = none ∨ s.holders s.rank = [] → t.ms.st = .loaded ∧ s.answered n d { status := .ok, info := hashInfo q.hash } t)) ∧
          (s.verdictPeers ≠ [] → s.mach.verdicts = [] →
            ∃ t, exec (.loadProgram n host (some dc) ⟨p, sp⟩ inits) s = .next t ∧ t.loadWait = some { ring := n, prog := q, inits := inits } ∧
              (t.ring n).busy = some (s.nextIndex n, d) ∧ t.wd = some .load ∧ s.storesSame t ∧ s.stepSame t ∧
              ∀ r ∈ s.verdictPeers, s.emits t (verdictMsg q.hash true r)))) ∧
    (∀ (m : Msg) (w : LoadWait) (i : Nat) (e : List Byte), s.member = true → m.typ = 1 → m.opc = 3 → m.vc = 0 → s.loadWait = some w →
      m.src ∈ s.verdictPeers → (s.ring w.ring).busy = some (i, e) →
      (field m.body 40 8 ≠ 1 ∨ digestOf (slice m.body 8 32) ≠ w.prog.hash →
        ∃ t, exec (.loadVerdict m) s = .next t ∧ s.ended w.ring { status := .resourceShort } t ∧ t.loadWait = none ∧ s.storesSame t ∧ s.stepSame t) ∧
      (s.verdictPeers = [m.src] → field m.body 40 8 = 1 → digestOf (slice m.body 8 32) = w.prog.hash →
        ∃ t, exec (.loadVerdict m) s = .next t ∧ t.prog = some (w.prog.withShared w.inits) ∧ t.st.stepNo = w.prog.first ∧ t.recov.fallback = false ∧
          t.loadWait = none ∧ t.nor = s.nor ∧ t.fuse = s.fuse))

/-- FW_PUSH of an image that passes its checks, with a descriptor length that fits the slot and is the image's, programs exactly the image slot: the
image's bytes, then erased bytes; the serial memory outside the slot stays. It completes with OK, and in RECOVERY the boot ROM is to run again. A cut
leaves the rest unwritten and completes nothing; a sector that stays bad ends it with MEMORY_UNCORRECTABLE, the serial memory outside the slot as it
was. After either the slot is invalid, whatever it holds, so that a boot does not run it (log entry 144). An image that fails a check ends it with
FORMAT_INVALID, a length beyond the slot or other than the image's with RESOURCE_SHORT, and nothing changes. -/
def Obligations.FirmwarePush : Prop :=
  ∀ (s : State) (n : Nat) (d host b : List Byte), s.takes n 0x10 d →
    (slotLen < field d 24 8 → ∀ fin, ∃ t, exec (.fwPush n host fin) s = .next t ∧ s.answered n d { status := .resourceShort } t ∧ s.hostOnly t) ∧
    (field d 24 8 ≤ slotLen → s.readBuffer (field d 16 8) (field d 24 8) host = .ok b →
      (field d 24 8 ≠ imageFixed + field b 16 8 → ∀ fin,
        ∃ t, exec (.fwPush n host fin) s = .next t ∧ s.answered n d { status := .resourceShort } t ∧ s.hostOnly t) ∧
      (field d 24 8 = imageFixed + field b 16 8 → (imageCause s.fuse (slice b)).isSome = true → ∀ fin,
        ∃ t, exec (.fwPush n host fin) s = .next t ∧ s.answered n d { status := .formatInvalid } t ∧ s.hostOnly t) ∧
      (field d 24 8 = imageFixed + field b 16 8 → imageCause s.fuse (slice b) = none →
        (∃ t, exec (.fwPush n host .done) s = .next t ∧ s.answered n d { status := .ok } t ∧
          (∀ i < slotLen, byteAt 0xFF t.nor (slotBase + i) = b.getD i 0xFF) ∧
          (∀ a, a < slotBase ∨ slotBase + slotLen ≤ a → byteAt 0xFF t.nor a = byteAt 0xFF s.nor a) ∧
          (s.ms.st = .recovery → t.ms.fwRestart = true) ∧ t.slotOpen = false ∧ t.mem = s.mem ∧ t.fuse = s.fuse ∧ s.stepSame t) ∧
        (∀ k, ∃ t, exec (.fwPush n host (.cut k)) s = .next t ∧ (t.ring n).busy = some (s.nextIndex n, d) ∧ t.host.out = s.host.out ∧ t.slotOpen = true ∧
          (∀ i < slotLen, byteAt 0xFF t.nor (slotBase + i) = (b.take (k * sectorBytes)).getD i 0xFF) ∧
          (∀ a, a < slotBase ∨ slotBase + slotLen ≤ a → byteAt 0xFF t.nor a = byteAt 0xFF s.nor a) ∧ t.mem = s.mem ∧ s.stepSame t) ∧
        ∀ k, ∃ t, exec (.fwPush n host (.sectorFails k)) s = .next t ∧ s.answered n d { status := .memoryUncorrectable } t ∧ t.slotOpen = true ∧
          (∀ a, a < slotBase ∨ slotBase + slotLen ≤ a → byteAt 0xFF t.nor a = byteAt 0xFF s.nor a) ∧ t.mem = s.mem ∧ s.stepSame t))

/-- DIAG. A PRBS test (TEST 1) waits while another port is under test, since one port is tested at a time, and while a member's port trains. Else a test
of a port that is not UP, or of any port of a module in READY, starts at once: the port leaves service, its generators and checkers run, and the
command stays in progress. An UP port of a member leaves service too, if every member keeps a route without it, and is tested at once when it has
nothing to send or to be acknowledged; if some member would not, the command ends with RESOURCE_SHORT. A margin read (TEST 2) completes at once with
24 lane records of 32 bytes and leaves every port as it was. The end of a PRBS test completes its command with 24 lane records, keeps the error counts
in the lane registers, and the port trains again where the map describes it. A port that the order code lacks, and a result buffer out of place, end
the command with INDEX_RANGE (log entries 29, 143). -/
def Obligations.PortTests : Prop :=
  ∀ (s : State) (n : Nat) (d : List Byte) (lanes : List LaneReading),
    (s.takes n 0x0E d → field d 16 1 = 1 → s.testing = true ∨ ((s.port (field d 17 1)).st = .training ∧ s.ms.st ≠ .ready) →
      exec (.diagPrbsTest n) s = .next s) ∧
    (s.takes n 0x0E d → field d 16 1 = 1 → s.testing = false → ∀ x, x = s.port (field d 17 1) → x.st ≠ .training ∨ s.ms.st = .ready →
      (x.st ≠ .absent → x.st ≠ .up ∨ s.ms.st = .ready →
        ∃ t, exec (.diagPrbsTest n) s = .next t ∧ (t.ring n).busy = some (s.nextIndex n, d) ∧ (t.port (field d 17 1)).st = .diag ∧
          (t.port (field d 17 1)).diagRing = some n ∧ (t.port (field d 17 1)).width = 0 ∧ (∀ q, q ≠ field d 17 1 → t.port q = s.port q) ∧
          s.storesSame t ∧ s.stepSame t) ∧
      (x.st = .up → s.ms.st ≠ .ready → s.canDrain (field d 17 1) = true →
        ∃ t, exec (.diagPrbsTest n) s = .next t ∧ (t.ring n).busy = some (s.nextIndex n, d) ∧ s.storesSame t ∧ s.stepSame t ∧
          (x.txq = [] → (t.port (field d 17 1)).diagRing = some n ∧ (t.port (field d 17 1)).st = if x.replay = [] then .diag else .up)) ∧
      (x.st = .up → s.ms.st ≠ .ready → s.canDrain (field d 17 1) = false →
        ∃ t, exec (.diagPrbsTest n) s = .next t ∧ s.answered n d { status := .resourceShort } t ∧ s.hostOnly t) ∧
      (x.st = .absent → ∃ t, exec (.diagPrbsTest n) s = .next t ∧ s.answered n d { status := .indexRange } t ∧ s.hostOnly t)) ∧
    (s.takes n 0x0E d → field d 16 1 = 2 →
      ((s.port (field d 17 1)).st ≠ .absent → s.bufferTakes (field d 24 8) 768 = true →
        ∃ t b, exec (.diagMarginRead n lanes) s = .next t ∧ s.answered n d { status := .ok, info := 768 } t ∧ b.length = 768 ∧
          s.delivers t (field d 24 8) b ∧ s.hostOnly { t with ind := s.ind, mem := s.mem } ∧ ∀ i < 24, t.ind.eye.get 0 (24 * field d 17 1 + i) =
            BitVec.ofNat 32 ((nth default lanes i).eyeMv % 65536 * 65536 + (nth default lanes i).eyeUi % 65536)) ∧
      ((s.port (field d 17 1)).st = .absent ∨ s.bufferTakes (field d 24 8) 768 = false →
        ∃ t, exec (.diagMarginRead n lanes) s = .next t ∧ s.answered n d { status := .indexRange } t ∧ s.hostOnly { t with ind := s.ind })) ∧
    (∀ (p i : Nat) (e : List Byte), s.live = true → (s.port p).st = .diag → (s.port p).diagRing = some n → (s.ring n).busy = some (i, e) →
      (s.bufferTakes (field e 24 8) 768 = true →
        ∃ t b, exec (.diagTestEnd p lanes) s = .next t ∧ s.ended n { status := .ok, info := 768 } t ∧ b.length = 768 ∧ s.delivers t (field e 24 8) b ∧ (t.port p).diagRing = none ∧
          (t.port p).st = (if s.describes p then .training else .down) ∧ (∀ q, q ≠ p → t.port q = s.port q) ∧
          (∀ k < 24, t.ind.err.get 0 (24 * p + k) = BitVec.ofNat 48 (nth default lanes k).errors) ∧ s.stepSame t) ∧
      (s.bufferTakes (field e 24 8) 768 = false →
        ∃ t, exec (.diagTestEnd p lanes) s = .next t ∧ s.ended n { status := .indexRange } t ∧ (t.port p).diagRing = none ∧
          (t.port p).st = (if s.describes p then .training else .down) ∧ s.storesSame t ∧ s.stepSame t))

/-! ### Steps (01) -/

/-- A STEP behind none becomes the step in progress: it waits at the start barrier with the next ATTEMPT, the module is RUNNING, and no store changes; one
pinned to another step number, or the last step number, is refused with STATE_INVALID. One behind a step in progress waits for it (13 R332), with its
target list as read now. The release of the start barrier begins Sample of the attempt, for every target list: no fault, nothing reduced, the
exchanges empty and the watchdog at Sample's exchange; a list that the specification refuses, or that could not be read for its place, is then this
module's content fault, and one on an unreadable flash page leaves the step to its replay. A step of REPLAY EXEC, whose record stands in place of
Sample, goes on to Gather (log entries 40, 81, 122). -/
def Obligations.StepBegins : Prop :=
  (∀ (s : State) (n : Nat) (d host : List Byte) (spec : Nat) (list : Except Status (List Byte)) (b : List Byte) (source : Option Status), s.takes n 0x04 d →
     spec = bits (field d 28 1) 0 4 → list = s.readBuffer (field d 16 8) (16 * field d 24 4) host →
     (list = .ok b ∧ source = none) ∨ (∃ x, list = .error x ∧ b = [] ∧ source = some x) →
     (s.st.run = none → s.st.waiting = [] → s.st.stepNo ≠ 0xFFFFFFFF → (descPin d = true → descStepno d = s.st.stepNo) →
       ∃ t, exec (.step n host) s = .next t ∧ t.st.run = some (s.newRun n spec b source) ∧ t.st.waiting = [] ∧
         t.st.stepNo = s.st.stepNo ∧ t.ms.st = .running ∧ (t.ring n).busy = some (s.nextIndex n, d) ∧ s.storesSame t) ∧
     (s.st.run = none → s.st.waiting = [] → s.st.stepNo = 0xFFFFFFFF ∨ (descPin d = true ∧ descStepno d ≠ s.st.stepNo) →
       ∃ t, exec (.step n host) s = .next t ∧ s.answered n d { status := .stateInvalid, step := s.st.stepNo } t ∧ s.hostOnly t) ∧
     (s.st.run.isSome = true →
       ∃ t, exec (.step n host) s = .next t ∧ (t.ring n).busy = some (s.nextIndex n, d) ∧
         t.st = { s.st with waiting := s.st.waiting ++ [{ ring := n, bytes := b, source := source }] } ∧ s.hostOnly { t with st := s.st })) ∧
  (∀ (s : State) (m : Msg) (r r' : StepRun), s.releasedBy 0 m → s.st.run = some r → r.phase = .waitStart →
     r' = { r with phase := .sample, hop := 0, fault := none, rescaled := false, epoch := s.st.epoch } →
     ∃ t, exec (.barrierStepStart m) s = .next t ∧ t.st.stepNo = s.st.stepNo ∧ t.conf = .reset ∧ t.ex.rounds = [] ∧ t.ex.slices = [] ∧ t.ex.scatter = [] ∧
       (r.record = none → t.wd = some .sampleExchange ∧
         (r.source = none → s.targetFault r.spec r.targets = none → t.st.run = some r') ∧
         (∀ x, r.source = none → s.targetFault r.spec r.targets = some x → t.st.run = some { r' with fault := some x }) ∧
         (∀ x, r.source = some x → x ≠ .memoryUncorrectable → t.st.run = some { r' with fault := some x }) ∧
         (r.source = some .memoryUncorrectable → t.st.run = some r')) ∧
       (r.record.isSome = true → t.wd = some .gatherExchange ∧ t.st.run = some { r' with phase := .gather }))

/-- PHASE_END once the tasks of the step have ended on every core. Sample gives way to Gather when every hop has been drawn, Gather to Forward when every
round has gone and every row is in, Forward to Backward and Backward to Reduce when no layer-slice exchange of the phase waits (each keeps its phase
until then), and Commit to Mirror. Backward sends the contributions, or fails with FORMAT_INVALID where one cannot be encoded. Reduce gives way to the
finite barrier, with the module's finite flag, when every slice and every row of a trained table that this module owns is reduced, at once where it
owns none and Reduce starts no task; until then it stays Reduce. Mirror gives way to PREPARED, at once, when no holder is left to acknowledge, no
retention record is due, no EVAL pins a step and no MODEL_HASH is being formed; with a record due it stays Mirror. A step whose content has failed
goes no further. While no phase of a step ends, the EVAL at the front goes on: from its draws to its tasks, an export from its score to the
attribution pass, which starts from a gradient of 1.0, and an EVAL from its tasks to its completion, its scores in OUT; the next in order then has the
cores (log entries 39, 51, 125). -/
def Obligations.PhasesFollow : Prop :=
  (∀ (s : State) (r : StepRun), s.member = true → s.prog.isSome = true → s.st.run = some r → s.classIdle false = true →
    (r.fault = none →
      (r.phase = .sample → ∃ t, exec .phaseEnd s = .next t ∧ t.st.run = some (if s.sampled then { r with phase := .gather } else r)) ∧
      (r.phase = .gather → ∃ t, exec .phaseEnd s = .next t ∧ t.st.run = some (if s.gathered then { r with phase := .forward } else r)) ∧
      (r.phase = .forward → ∃ t, exec .phaseEnd s = .next t ∧ t.st.run = some (if s.layerWaits then r else { r with phase := .backward })) ∧
      (r.phase = .backward → s.layerWaits = true → ∃ t, exec .phaseEnd s = .next t ∧ t.st.run = some r) ∧
      (r.phase = .backward → s.layerWaits = false → ∃ t, exec .phaseEnd s = .next t ∧
        (s.reduceBegun.contributions = none → t.st.run = some { r with phase := .reduce, fault := some .formatInvalid }) ∧
        (s.reduceBegun.contributions.isSome = true → s.allReduced = false ∨ s.reduceBegun.classIdle false = false →
          t.st.run = some { r with phase := .reduce }) ∧
        (s.reduceBegun.contributions.isSome = true → s.allReduced = true → s.reduceBegun.classIdle false = true →
          t.st.run = some { r with phase := .finite } ∧ (t.barrier 1).own = some (s.st.stepNo, r.attempt, s.conf.finite.toNat))) ∧
      (r.phase = .reduce → ∃ t, exec .phaseEnd s = .next t ∧
        (s.allReduced = false → t.st.run = some r) ∧
        (s.allReduced = true →
          t.st.run = some { r with phase := .finite } ∧ (t.barrier 1).own = some (s.st.stepNo, r.attempt, s.conf.finite.toNat))) ∧
      (r.phase = .commit → ∃ t r', exec .phaseEnd s = .next t ∧ t.st.run = some r' ∧ (r'.phase = .mirror ∨ r'.phase = .prepared) ∧
        r'.attempt = r.attempt ∧ r'.fault = none ∧
        (s.holders s.rank = [] → s.st.retPending = [] → s.st.evals = [] → s.st.hashes = [] →
          t.st.run = some { r with phase := .prepared } ∧ (t.barrier 2).own = some (s.st.stepNo, r.attempt, 0)) ∧
        (s.holders s.rank ≠ [] ∨ s.st.retPending ≠ [] → s.st.evals = [] → t.st.run = some { r with phase := .mirror }))) ∧
    (r.fault.isSome = true → r.phase ≠ .mirror → ∃ t, exec .phaseEnd s = .next t ∧ t.st.run = some r)) ∧
  ∀ (s : State) (e : EvalRun) (rest : List EvalRun) (p : Program), s.member = true → s.prog = some p → s.st.evals = e :: rest →
    (s.st.run = none ∨ s.classIdle false = false) →
    (e.drawing = true → s.evalSampled = true → ∃ t, exec .phaseEnd s = .next t ∧ t.st.evals = { e with drawing := false } :: rest ∧
      t.st.run = s.st.run) ∧
    (e.drawing = true → s.evalSampled = false → exec .phaseEnd s = .next s) ∧
    (e.drawing = false → e.hop ≠ 0 → s.classIdle true = true → (∀ l ∈ s.ex.lookups, l.eval = false) → e.evidence = true → e.attribution = false →
      ∃ t, exec .phaseEnd s = .next t ∧ t.st.evals = { e with attribution := true } :: rest ∧
        t.read p.place.scoreGrad 4 = leBytes 4 0x3F800000 ∧ s.outside t [{ base := p.place.scoreGrad, len := 4 }]) ∧
    ∀ i d, e.drawing = false → e.hop ≠ 0 → s.classIdle true = true → (∀ l ∈ s.ex.lookups, l.eval = false) → e.evidence = false →
      (s.ring e.ring).busy = some (i, d) → s.bufferTakes (field d 32 8) (p.decl.scoreBytes * e.targets.length) = true →
      ∃ t, exec .phaseEnd s = .next t ∧
        s.ended e.ring { status := if e.rescaled then .okRescaled else .ok, info := e.epoch, step := e.pinned, rescaled := e.rescaled } t ∧
        ((∀ x ∈ rest, x.evidence = false) →
          s.delivers t (field d 32 8) (s.read p.place.score (p.decl.scoreBytes * e.targets.length))) ∧
        t.st.evals.map (·.ring) = (s.st.evals.map (·.ring)).filter (· != e.ring) ∧ ∀ x ∈ t.st.evals.head?, x.waits = false → x.begun = true

/-- The finite AND. Released with its bit set, it takes this module to Commit. Released with it clear, it ends the step with SKIPPED_NONFINITE
(OK_RECOVERED after a replay): the step number and the stream offsets advance, nothing else of the step is applied, the copies of the weights in force
stay, and the boundary window opens. The release of the commit barrier is the commit point: the step number advances, the step is the committed one,
nothing of it can be undone any more, the copies of owned slices change over, the deltas that this module holds pending for other ranks are stored in
their mirror regions, a later one over an earlier, and the boundary window opens. Both complete STEP with the step's number; the STEP of REPLAY EXEC
alone may carry MISMATCH. -/
def Obligations.StepEnds : Prop :=
  (∀ (s : State) (m : Msg) (r : StepRun), s.releasedBy 1 m → s.st.run = some r → r.phase = .finite →
     (field m.body 8 8 % 2 = 1 → ∃ t, exec (.barrierFinite m) s = .next t ∧ t.st.run = some { r with phase := .commit } ∧ t.st.stepNo = s.st.stepNo ∧
       t.st.wEpoch = s.st.wEpoch) ∧
     (field m.body 8 8 % 2 = 0 →
       ∃ t, exec (.barrierFinite m) s = .next t ∧ (s.st.waiting = [] → t.st.run = none) ∧ t.st.stepNo = (s.st.stepNo + 1) % 2 ^ 32 ∧
         t.st.offsets = advanceOffsets s.st.offsets s.st.advances ∧ t.st.wEpoch = s.st.wEpoch ∧
         t.st.committed = s.st.committed ∧ t.st.completed = some s.st.stepNo ∧ t.st.optSteps = s.st.optSteps ∧ t.st.agreed = s.st.agreed ∧ t.st.undo = [] ∧
         t.st.windowOpen = true ∧
         ((s.ring r.ring).busy.isSome = true → ∃ mism, (r.record = none → mism = false) ∧
           s.ended r.ring { status := endStatus r true, info := if r.exec then 1 else r.epoch, step := s.st.stepNo, replays := r.replays, skipped := true,
                            rescaled := r.rescaled, mismatch := mism } t))) ∧
  (∀ (s : State) (m : Msg) (r : StepRun), s.releasedBy 2 m → s.st.run = some r → r.phase = .prepared →
     ∃ t, exec (.barrierCommit m) s = .next t ∧ (s.st.waiting = [] → t.st.run = none) ∧ t.st.stepNo = (s.st.stepNo + 1) % 2 ^ 32 ∧
       t.st.committed = some s.st.stepNo ∧ t.st.completed = some s.st.stepNo ∧ t.st.offsets = advanceOffsets s.st.offsets s.st.advances ∧
       t.st.undo = [] ∧ t.st.windowOpen = true ∧
       t.st.wEpoch = (if s.slices.any (fun x => s.mach.rank == some x.owner) then !s.st.wEpoch else s.st.wEpoch) ∧
       (s.st.waiting = [] → (∀ x ∈ t.mir.held, x.pend = []) ∧
         ∀ l q rest, s.pendingRuns = l ++ q :: rest → (∀ y ∈ rest, overlaps { base := q.1, len := q.2.length } { base := y.1, len := y.2.length } = false) →
           t.read q.1 q.2.length = q.2) ∧
       ((s.ring r.ring).busy.isSome = true → ∃ mism, (r.record = none → mism = false) ∧
         s.ended r.ring { status := endStatus r false, info := if r.exec then 1 else r.epoch, step := s.st.stepNo, replays := r.replays, rescaled := r.rescaled,
                          mismatch := mism } t))

/-- Barriers. An arrival from below is kept with its step number, ATTEMPT and VALUE, for each of the six kinds; the module's own arrival, its step and its
stores stay. A PROGRAM arrival of the module's own rank in Forward or Backward waits at the PROGRAM barrier, and the barrier's release ends the wait;
neither changes the step. A request for the window after the last step asks this module for the WINDOW barrier; one for the step that it has not ended
yet is kept until it has, and one for another step changes nothing. The release of that barrier closes the window after its step, keeping once the bit
that says whether any member applied a boundary action, and the exports that waited for it may draw. Asked for its part of a MODEL_HASH, a member
sends every other one its digest (log entries 36, 50, 51, 53). -/
def Obligations.ProgramAndWindow : Prop :=
  (∀ (s : State) (m : Msg) (kind : Nat) (c : Instr), (kind, c) ∈ [(0, .barrierStepStart m), (1, .barrierFinite m), (2, .barrierCommit m), (3, .barrierFloor m),
      (4, .barrierProgram m), (5, .barrierWindow m)] → s.on = true → (s.member = true ∨ s.ms.st = .ready) → m.typ = 6 → m.opc = kind → m.resp = false →
     (kind = 4 → s.mach.rank ≠ some m.src) → (kind = 5 → bits (field m.body 8 8) 1 4 = 0) →
     ∃ t, exec c s = .next t ∧ (m.src, field m.body 0 4, field m.body 4 1, field m.body 8 8) ∈ (t.barrier kind).kids ∧
       (t.barrier kind).own = (s.barrier kind).own ∧ s.storesSame t ∧ s.stepSame t ∧ t.host = s.host) ∧
  (∀ (s : State) (m : Msg) (r : StepRun), s.member = true → m.typ = 6 → m.opc = 4 →
     (m.resp = false → s.mach.rank = some m.src → s.st.run = some r →
       ((r.phase = .forward ∨ r.phase = .backward) →
         ∃ t, exec (.barrierProgram m) s = .next t ∧ (t.barrier 4).own = some (s.st.stepNo, r.attempt, 0) ∧ t.wd = some .programBarrier ∧
           s.storesSame t ∧ s.stepSame t ∧ t.host = s.host) ∧
       (r.phase ≠ .forward → r.phase ≠ .backward → exec (.barrierProgram m) s = .next s)) ∧
     (s.releasedBy 4 m →
       ∃ t, exec (.barrierProgram m) s = .next t ∧ t.wd = (if s.wd = some .programBarrier then s.layerPoint else s.wd) ∧ (t.barrier 4).own = none ∧
         s.storesSame t ∧ s.stepSame t ∧ t.host = s.host)) ∧
  (∀ (s : State) (m : Msg) (c : Nat), c = field m.body 0 4 →
     (s.member = true → m.typ = 6 → m.opc = 5 → m.resp = false → bits (field m.body 8 8) 1 1 = 1 →
       (c = s.lastStep → ∃ t, exec (.barrierWindow m) s = .next t ∧ t.st.windowAsked = true ∧ s.storesSame t ∧ t.host = s.host ∧ t.st.stepNo = s.st.stepNo) ∧
       (c ≠ s.lastStep → ∃ t, exec (.barrierWindow m) s = .next t ∧ (c = s.st.stepNo → c ∈ t.st.windowReqs) ∧
         s.netOnly { t with st := { t.st with windowReqs := s.st.windowReqs } } ∧ (c ≠ s.st.stepNo → s.netOnly t))) ∧
     (∀ d, s.member = true → m.typ = 6 → m.opc = 5 → m.resp = false → bits (field m.body 8 8) 1 2 = 2 → c = s.lastStep →
       (s.hashRun c).asked = false → (∀ x ∈ s.st.modelHash, x.1 ≠ c) → s.rankDigest (s.hashRun c) = some d →
       ∃ t, exec (.barrierWindow m) s = .next t ∧ ∀ o ∈ s.others, s.emits t (hashMsg o c 8 (digestBytes d))) ∧
     (s.releasedBy 5 m →
       ∃ t, exec (.barrierWindow m) s = .next t ∧
         t.st.windowClosed = (if s.st.windowClosed.map (·.1) = some c then s.st.windowClosed else some (c, field m.body 8 8 % 2 == 1)) ∧
         (∀ e ∈ s.st.evals, e.waits = true → e.pinned = c → ∃ x ∈ t.st.evals, { x with begun := e.begun } = { e with drawing := true }) ∧
         s.storesBut t (s.attention s.st.evals) ∧ t.host = s.host ∧ t.st.stepNo = s.st.stepNo))

/-- EVAL and EVIDENCE_EXPORT, but between this module's PREPARED and the commit point. One of a program whose evaluation tensors are calibrated, whose
targets are in order and whose result buffer is long enough is taken up behind those in progress, but before an export that waits for its window,
pinned to the step last completed; nothing is stored but in the attention area of one that has the cores. An EVAL draws at once, an export once the
window after that step is closed. One of a program with an evaluation tensor that no step has calibrated is refused with STATE_INVALID, and a target
list that cannot be read, a target that the specification refuses and a result buffer that is too short end the command with their code, pinned to the
same step and an EVAL with the graph epoch as INFO; all change nothing (log entries 14, 33, 40, 113). -/
def Obligations.EvalsTaken : Prop :=
  ∀ (s : State) (n : Nat) (d host : List Byte), s.evalMayBegin = true →
    (s.takes n 0x05 d →
      (s.calibrated = false → ∃ t, exec (.eval n host) s = .next t ∧
        s.answered n d { status := .stateInvalid, info := s.st.epoch, step := s.pinNow } t ∧ s.hostOnly t) ∧
      (s.calibrated = true →
        (∀ x, s.readBuffer (field d 16 8) (16 * field d 24 4) host = .error x →
          ∃ t, exec (.eval n host) s = .next t ∧ s.answered n d { status := x, info := s.st.epoch, step := s.pinNow } t ∧ s.hostOnly t) ∧
        ∀ b ts spec, s.readBuffer (field d 16 8) (16 * field d 24 4) host = .ok b → ts = targetsOf b → spec = bits (field d 28 1) 0 4 →
          (s.targetFault spec ts = none → field d 24 4 * s.decl.elim 0 (·.scoreBytes) ≤ field d 40 4 →
            ∃ t e, exec (.eval n host) s = .next t ∧ s.taken t e ∧ e.ring = n ∧ e.tag = descTag d ∧ e.evidence = false ∧
              e.pinned = s.pinNow ∧ e.spec = spec ∧ e.targets = ts ∧ e.epoch = s.st.epoch ∧ e.drawing = true ∧ e.hop = 0 ∧ e.offsets = s.st.offsets ∧
              t.ms.st = .running ∧ (t.ring n).busy = some (s.nextIndex n, d) ∧ s.storesBut t (s.attention s.st.evals)) ∧
          (s.targetFault spec ts = none → field d 40 4 < field d 24 4 * s.decl.elim 0 (·.scoreBytes) →
            ∃ t, exec (.eval n host) s = .next t ∧
              s.answered n d { status := .resourceShort, info := s.st.epoch, step := s.pinNow } t ∧ s.hostOnly t) ∧
          ∀ x, s.targetFault spec ts = some x →
            ∃ t, exec (.eval n host) s = .next t ∧ s.answered n d { status := x, info := s.st.epoch, step := s.pinNow } t ∧ s.hostOnly t)) ∧
    (s.takes n 0x0D d →
      (s.calibrated = false →
        ∃ t, exec (.evidenceExport n) s = .next t ∧ s.answered n d { status := .stateInvalid, step := s.pinNow } t ∧ s.hostOnly t) ∧
      (s.calibrated = true → ∀ spec ts, spec = bits (field d 32 1) 0 4 → ts = targetsOf (slice d 16 16) →
        (∀ x, s.targetFault spec ts = some x →
          ∃ t, exec (.evidenceExport n) s = .next t ∧ s.answered n d { status := x, step := s.pinNow } t ∧ s.hostOnly t) ∧
        ∀ sp dc len, s.spec spec = some sp → s.decl = some dc → s.targetFault spec ts = none →
          len = evidenceBody dc s.inTables (slotCount (fanouts sp)) + 2420 →
          (len ≤ field d 48 4 →
            ∃ t e, exec (.evidenceExport n) s = .next t ∧ s.taken t e ∧ e.ring = n ∧ e.tag = descTag d ∧
              e.evidence = true ∧ e.pinned = s.pinNow ∧ e.spec = spec ∧ e.targets = ts ∧ e.drawing = (s.windowBit s.pinNow).isSome ∧
              t.ms.st = .running ∧ (t.ring n).busy = some (s.nextIndex n, d) ∧ s.storesBut t (s.attention (s.st.evals ++ [e]))) ∧
          (field d 48 4 < len →
            ∃ t, exec (.evidenceExport n) s = .next t ∧ s.answered n d { status := .resourceShort, step := s.pinNow } t ∧ s.hostOnly t)))

/-! ### The boundary, the graph and sampling (01, 06) -/

/-- INGEST, MIGRATE and TABLE_REPLACE at dequeue. A payload that cannot be read, a TABLE_REPLACE that fails a check of 07 R181, and a pin to a boundary
that has passed end the command with its code and change nothing. While the module does not stand idle at a boundary the action waits: it stays in
progress with its payload, INGEST and MIGRATE storing nothing. At an idle boundary with nothing else pending an unpinned one is taken at its turn at
once: its own check refuses it with a code and without effect, or it counts as applied at this boundary; a MIGRATE that moves rows first asks each of
their destinations for room, and until they have answered it stands where it is (log entries 43, 44, 113). -/
def Obligations.ActionsWait : Prop :=
  ∀ (s : State) (n : Nat) (d host b : List Byte) (idle : Prop), idle = (s.idleBoundary = true ∧ s.st.acts = [] ∧ (∀ a ∈ s.st.applied, a.waitAck = false) ∧ s.st.reserving = none ∧ descPin d = false) →
    (s.takes n 0x06 d →
      (∀ x, s.readBuffer (field d 16 8) (32 * field d 24 4) host = .error x →
        ∃ t, exec (.ingest n host) s = .next t ∧ s.answered n d { status := x } t ∧ s.hostOnly t) ∧
      (s.readBuffer (field d 16 8) (32 * field d 24 4) host = .ok b →
        (descPin d = true → descStepno d < s.nextBoundary →
          ∃ t, exec (.ingest n host) s = .next t ∧ s.answered n d { status := .stateInvalid } t ∧ s.hostOnly t) ∧
        (s.idleBoundary = false → (descPin d = true → s.nextBoundary ≤ descStepno d) → ∃ t a, exec (.ingest n host) s = .next t ∧ t.st.acts = s.st.acts ++ [a] ∧ a.ring = n ∧
          a.kind = 1 ∧ a.tag = descTag d ∧ a.payload = b ∧ (descPin d = true → a.pin = some (descStepno d)) ∧
          (t.ring n).busy = some (s.nextIndex n, d) ∧ s.storesSame t) ∧
        (idle → s.evalDraws = false →
          (∀ x, s.applyIngest b = .error x → ∃ t, exec (.ingest n host) s = .next t ∧ s.answered n d { status := x, step := s.st.stepNo } t ∧ s.hostOnly t) ∧
          (∀ r, s.applyIngest b = .ok r → ∃ t, exec (.ingest n host) s = .next t ∧ t.st.epoch = (s.st.epoch + 1) % 2 ^ 64 ∧ t.st.acts = [] ∧
            ∃ a ∈ t.st.applied, a.ring = n ∧ a.kind = 1 ∧ a.tag = descTag d ∧ a.payload = b)))) ∧
    (s.takes n 0x08 d →
      (∀ x, s.readBuffer (field d 16 8) (8 * field d 24 4) host = .error x →
        ∃ t, exec (.migrate n host) s = .next t ∧ s.answered n d { status := x } t ∧ s.hostOnly t) ∧
      (s.readBuffer (field d 16 8) (8 * field d 24 4) host = .ok b →
        (descPin d = true → descStepno d < s.nextBoundary →
          ∃ t, exec (.migrate n host) s = .next t ∧ s.answered n d { status := .stateInvalid } t ∧ s.hostOnly t) ∧
        (s.idleBoundary = false → (descPin d = true → s.nextBoundary ≤ descStepno d) →
          ∃ t a, exec (.migrate n host) s = .next t ∧ t.st.acts = s.st.acts ++ [a] ∧ a.ring = n ∧ a.kind = 2 ∧ a.tag = descTag d ∧ a.payload = b ∧
            (t.ring n).busy = some (s.nextIndex n, d) ∧ s.storesSame t) ∧
        (idle →
          (∀ x, s.migrateCheck (migRecs b) = some x → ∃ t, exec (.migrate n host) s = .next t ∧ s.answered n d { status := x, step := s.st.stepNo } t ∧ s.hostOnly t) ∧
          (s.migrateCheck (migRecs b) = none → s.moving b = [] → ∃ t, exec (.migrate n host) s = .next t ∧ t.st.acts = [] ∧
            ∃ a ∈ t.st.applied, a.ring = n ∧ a.kind = 2 ∧ a.tag = descTag d ∧ a.payload = b) ∧
          (s.migrateCheck (migRecs b) = none → s.moving b ≠ [] → ∃ t a, exec (.migrate n host) s = .next t ∧ t.st.acts = [a] ∧ t.st.reserving = some a ∧
            a.ring = n ∧ a.kind = 2 ∧ a.tag = descTag d ∧ a.payload = b ∧ s.asksRoom b t)))) ∧
    (s.takes n 0x07 d → ∀ tab first count src, tab = field d 16 1 → first = field d 24 5 → count = field d 32 4 → src = field d 40 8 →
      (s.table tab = none → ∃ t, exec (.tableReplace n) s = .next t ∧ s.answered n d { status := .formatInvalid } t ∧ s.hostOnly t) ∧
      ∀ td rows (place ok short : Bool), s.table tab = some td → rows = (if td.sharded then s.replaceRows tab first count else (List.range count).map fun i => first + i) →
        place = (s.placeOfRange (bufDa src) (rows.length * tabRowBytes td) == .hbm || s.placeOfRange (bufDa src) (rows.length * tabRowBytes td) == .dram) →
        ok = (decide (first + count ≤ td.rows) && bufSpace src == 0 && place) →
        short = ((td.sharded && decide (td.shadow < rows.length)) || (!td.sharded && !(s.prog.elim false fun p => p.place.localTabs.any fun e => e.1 == tab))) →
        (ok = false → ∃ t, exec (.tableReplace n) s = .next t ∧ s.answered n d { status := .indexRange } t ∧ s.hostOnly t) ∧
        (ok = true → short = true → ∃ t, exec (.tableReplace n) s = .next t ∧ s.answered n d { status := .resourceShort } t ∧ s.hostOnly t) ∧
        (ok = true → short = false → descPin d = true → descStepno d < s.nextBoundary →
          ∃ t, exec (.tableReplace n) s = .next t ∧ s.answered n d { status := .stateInvalid } t ∧ s.hostOnly t) ∧
        (ok = true → short = false → s.idleBoundary = false → (descPin d = true → s.nextBoundary ≤ descStepno d) →
          ∃ t a, exec (.tableReplace n) s = .next t ∧ t.st.acts = s.st.acts ++ [a] ∧ a.ring = n ∧ a.kind = 3 ∧ a.table = tab ∧
            a.first = first ∧ a.count = count ∧ (t.ring n).busy = some (s.nextIndex n, d) ∧ (td.sharded = false → s.storesSame t)) ∧
        (ok = true → short = false → idle → (td.sharded = true → rows.length ≤ (s.st.shadow.get [] tab).length ∧ ∀ r ∈ rows, rowKey tab r ∉ s.st.arrived) →
          ∃ t, exec (.tableReplace n) s = .next t ∧ t.st.acts = [] ∧
            ∃ a ∈ t.st.applied, a.ring = n ∧ a.kind = 3 ∧ a.table = tab ∧ a.first = first ∧ a.count = count))

/-- The boundary window at its command. With an applied action unacknowledged, or nothing due but an EVAL that draws while the window is open, nothing
happens. With nothing due the window ends: compaction relocates qualifying runs, as many as the budget allows, and device memory is as it leaves it
but for the committed values' own region; every selected row whose value is not the one last sent, and every row no longer selected, goes to every
other member in a batch that is to be acknowledged; with neither, each is sent an empty one. Where the window has ended before, no store changes. An
INGEST that is the one action due is applied, the graph epoch rising, or refused with its code. A MIGRATE that is is refused with its code or asks
each destination for room, and the window stays as it is. A TABLE_REPLACE that is gives a SHARDED row its staged slot and a VERSION one higher, a
trained one its master and zero moments too, and copies a LOCAL table's rows in from their source; a row that this module does not own ends it with
INDEX_RANGE. The compaction budget's expiry is kept until the next boundary. A retention record that is complete in flash becomes VALID: one byte of
its directory entry changes, and it is no longer waited for; a block that failed on the way is retired (log entries 12, 43, 45, 46). -/
def Obligations.WindowEnds : Prop :=
  ∀ (s : State) (k : Nat), s.prog.isSome = true →
    (s.member = true → s.atBoundary = true →
      ((∃ a ∈ s.st.applied, a.waitAck = true) → exec (.boundaryWindow k) s = .next s) ∧
      ((∀ a ∈ s.st.applied, a.waitAck = false) → (∀ a ∈ s.st.acts, s.dueAct a = false) →
        (s.st.windowOpen = true → s.evalDraws = true → exec (.boundaryWindow k) s = .next s) ∧
        (s.st.windowOpen = true → s.evalDraws = false →
          ∃ t, exec (.boundaryWindow k) s = .next t ∧ t.st.windowOpen = false ∧ t.st.stepNo = s.st.stepNo ∧ t.st.committed = s.st.committed ∧ t.st.acts = s.st.acts ∧
            (s.mir.waiting = [] → t.host = s.host) ∧ ∀ d u runs v, s.decl = some d → s.compact d (ownedNodes d s.ranks s.rank) (s.relocations k) = (u, runs) →
            v = s.compactNow k → t.mem = v.mem ∧ (runs = [] → v = u) ∧ u.outside v [s.tailRegion] ∧
              runs.Sublist ((ownedNodes d s.ranks s.rank)) ∧ runs.length ≤ s.relocations k ∧
              ∀ o ∈ s.others, (o, 1) ∈ t.st.eddyAcks ∧
                (∀ x ∈ v.hotRows, v.st.eddySent.find x ≠ some (v.replicaValue x) → s.refreshes t o (refreshRecord x (v.replicaValue x))) ∧
                (∀ x ∈ v.st.eddySent, x.1 ∉ v.hotRows → s.refreshes t o (lookupRecord x.1 false)) ∧
                ((∀ x ∈ v.hotRows, v.st.eddySent.find x = some (v.replicaValue x)) → (∀ x ∈ v.st.eddySent, x.1 ∈ v.hotRows) →
                  ∀ y ∈ t.net.sent.drop s.net.sent.length, y.typ = 5 → y.body.length = 16)) ∧
        (s.st.windowOpen = false →
          ∃ t, exec (.boundaryWindow k) s = .next t ∧ t.st.windowOpen = false ∧ t.st.stepNo = s.st.stepNo ∧ s.storesSame t ∧ t.host = s.host)) ∧
      (∀ a, (∀ x ∈ s.st.applied, x.waitAck = false) → s.st.reserving = none → s.st.acts = [a] → s.dueAct a = true →
        (a.kind = 1 → s.evalDraws = false →
          (∀ x, s.applyIngest a.payload = .error x → (s.ring a.ring).busy.isSome = true →
            ∃ t, exec (.boundaryWindow k) s = .next t ∧ s.ended a.ring { status := x, step := s.st.stepNo } t ∧ t.st.acts = [] ∧ t.st.epoch = s.st.epoch) ∧
          (∀ r, s.applyIngest a.payload = .ok r → ∃ t, exec (.boundaryWindow k) s = .next t ∧ t.st.epoch = (s.st.epoch + 1) % 2 ^ 64 ∧ t.st.acts = [] ∧
            ∃ x ∈ t.st.applied, x.ring = a.ring ∧ x.kind = 1 ∧ x.payload = a.payload)) ∧
        (a.kind = 2 →
          (∀ x, s.migrateCheck (migRecs a.payload) = some x → (s.ring a.ring).busy.isSome = true →
            ∃ t, exec (.boundaryWindow k) s = .next t ∧ s.ended a.ring { status := x, step := s.st.stepNo } t ∧ t.st.acts = [] ∧ (s.mir.waiting = [] → t.st.migMap = s.st.migMap)) ∧
          (s.migrateCheck (migRecs a.payload) = none → s.moving a.payload ≠ [] → ∃ t, exec (.boundaryWindow k) s = .next t ∧ t.st.acts = [a] ∧
            t.st.reserving = some a ∧ t.st.windowOpen = s.st.windowOpen ∧ s.asksRoom a.payload t)) ∧
        (a.kind = 3 → s.holders s.rank ≠ [] → ∀ td, s.table a.table = some td →
          (td.sharded = true → (∃ x ∈ a.staged, s.owns a.table x.1 = false ∨ rowKey a.table x.1 ∈ s.st.arrived) → (s.ring a.ring).busy.isSome = true →
            ∃ t, exec (.boundaryWindow k) s = .next t ∧ s.ended a.ring { status := .indexRange, step := s.st.stepNo } t) ∧
          (∀ row slot areas, td.sharded = true → a.staged = [(row, slot)] → s.owns a.table row = true → rowKey a.table row ∉ s.st.arrived → slot < 2 ^ 48 →
            areas = [{ base := s.dirAddr a.table row, len := 8 }, { base := slot, len := tabRowBytes td }, s.tailRegion] ++
              (if td.train then [s.masterOf a.table row, s.momentsOf a.table row] else []) →
            areas.Pairwise (fun x y => overlaps x y = false) →
            ∃ t, exec (.boundaryWindow k) s = .next t ∧ t.slotOf a.table row = slot ∧ t.versionOf a.table row = (s.versionOf a.table row + 1) % 65536 ∧
              t.read slot (tabRowBytes td) = s.read slot (tabRowBytes td) ∧
              (td.train = true → (∀ b ∈ t.read (s.momentsOf a.table row).base (s.momentsOf a.table row).len, b = 0) ∧
                (s.t7 = true → td.fmt = 1 → ∀ i < td.width, ∀ c, c = s.readNat (slot + 2 * i) 2 → 0 < bits c 7 8 → bits c 7 8 < 255 →
                  t.readNat ((s.masterOf a.table row).base + 4 * i) 4 = 65536 * c)) ∧
              ∃ x ∈ t.st.applied, x.ring = a.ring ∧ x.waitAck = true ∧ x.info = 1) ∧
          (td.sharded = false → a.payload.length = 16 →
            overlaps { base := s.localSlot a.table a.first, len := tabSlotLen td * a.count } s.tailRegion = false →
            ∃ t, exec (.boundaryWindow k) s = .next t ∧
              (∀ i < a.count, t.read (s.localSlot a.table (a.first + i)) (tabRowBytes td) = s.read (a.src + i * tabRowBytes td) (tabRowBytes td)) ∧
              t.st.localVer.get 0 a.table = (s.st.localVer.get 0 a.table + 1) % 65536)))) ∧
    (s.member = true → s.atBoundary = true →
      exec .compactionBudgetExpired s = .next { s with st := { s.st with budgetSpent := true } }) ∧
    (∀ step bad, s.live = true →
      (∀ i, s.st.retPending.find? (fun x => x.1 == step) = some (step, i) →
        ∃ t, exec (.retentionRecordWritten ⟨step, bad⟩) s = .next t ∧ t.st.retPending = (s.st.retPending.filter fun y => y.1 != step) ∧
          t.byte (s.recEntry i + 4) = 1 ∧ (∀ a, a ≠ s.recEntry i + 4 → t.byte a = s.byte a) ∧ (bad = none → t.host = s.host)) ∧
      (s.st.retPending.find? (fun x => x.1 == step) = none → exec (.retentionRecordWritten ⟨step, bad⟩) s = .next s))

/-- Messages at the boundary. A destination of a MIGRATE keeps room for the rows named to it where its migration area has it, and says which. When all
have answered, a MIGRATE with room everywhere sends each row with its VERSION, its bytes, and a trained row's master and moments to its destination;
without room at one it is refused with RESOURCE_SHORT and every destination keeps none. A row for which room is kept is stored as it was sent; with
the last of them its old owner is told, once they are mirrored. When every destination has told, every member is sent the map entries and their
number; a map entry makes the row its new owner's and no other row another's, and with all of them the old owner is told, or is owed it; when every
member has told, the rows leave with the copies that the holders acknowledge. A migration that is complete leaves its entries complete, and one that
is undone keeps no room. A confirmation that was not awaited is only taken. A refresh that is whole makes its replicas present with their owner,
VERSION and bytes and dropped ones absent, and is acknowledged; one not whole yet is kept, and one of another boundary waits. An acknowledgement is no
longer awaited; a spare's request sends it every replica and awaits its acknowledgement (log entries 43 and 46 give the layouts). -/
def Obligations.BoundaryMessages : Prop :=
  (∀ (s : State) (m : Msg), s.member = true → s.prog.isSome = true →
     (m.typ = 1 → m.opc = 5 → m.vc = 0 → m.resp = false → ∀ kind, kind = field m.body 8 8 →
       (∀ r, kind = 0 → migRecs (m.body.drop 16) = [r] → (s.table r.table).isSome = true → (∀ e ∈ s.st.installed, e.1 ≠ rowKey r.table r.row) →
         s.mir.waiting = [] → ∃ t, exec (.migrateMapInstall m) s = .next t ∧ t.rowOwner r.table r.row = r.dst ∧
           ∀ x y, rowKey x y ≠ rowKey r.table r.row → t.rowOwner x y = s.rowOwner x y) ∧
       (∀ k n, kind = 3 → k = field m.body 16 8 → n = (s.st.installed.filter fun e => e.2.1 == m.src).length →
         ((m.src, n) ∉ s.st.moves ++ [(m.src, k)] →
           ∃ t, exec (.migrateMapInstall m) s = .next t ∧ t.st.moves = s.st.moves ++ [(m.src, k)] ∧ s.storesSame t ∧ t.host = s.host) ∧
         (n = k → ∃ t, exec (.migrateMapInstall m) s = .next t ∧ (m.src ∈ t.st.owed ∨ s.emits t { mapMsg m.src 1 [] with resp := true }))) ∧
       (∀ r td kept, kind = 4 → migRecs (m.body.drop 16) = [r] → s.table r.table = some td → s.home r.table r.row ≠ s.rank →
         kept = ((s.st.migSlots.filter fun e => keyTable e.1 == r.table).length +
           (s.st.reserved.filter fun e => keyTable e.2 == r.table && s.home (keyTable e.2) (keyRow e.2) != s.rank).length) →
         ∃ t, exec (.migrateMapInstall m) s = .next t ∧ s.storesSame t ∧ t.host = s.host ∧
           t.st.reserved = (if kept < td.migArea then s.st.reserved ++ [(m.src, rowKey r.table r.row)] else s.st.reserved) ∧
           s.emits t { mapMsg m.src 5 (leBytes 8 (if kept < td.migArea then 1 else 0)) with resp := true }) ∧
       (kind = 6 → ∃ t, exec (.migrateMapInstall m) s = .next t ∧ s.storesSame t ∧ t.host = s.host ∧
         t.st.reserved = (s.st.reserved.filter fun e => e.1 != field m.body 16 8) ∧ t.st.moves = (s.st.moves.filter fun e => e.1 != field m.body 16 8)) ∧
       (kind ≠ 0 → kind ≠ 3 → kind ≠ 4 → kind ≠ 6 → ∃ t, exec (.migrateMapInstall m) s = .next t ∧
         t.st.installed = (s.st.installed.filter fun e => !((migRecs (m.body.drop 16)).map fun r => rowKey r.table r.row).contains e.1) ∧
         s.storesSame t ∧ t.host = s.host)) ∧
     (m.typ = 1 → m.opc = 5 → m.vc = 0 → m.resp = true → ∀ kind, kind = field m.body 8 8 →
       (∀ a left bad, kind = 5 → s.st.reserving = some a → m.src ∈ s.st.reserveWait → left = s.st.reserveWait.erase m.src →
         bad = (s.st.reserveBad || field m.body 16 8 != 1) →
         (left ≠ [] → ∃ t, exec (.migrateMapInstall m) s = .next t ∧ t.st.reserving = some a ∧ t.st.reserveWait = left ∧ t.st.reserveBad = bad ∧
           s.storesSame t ∧ t.host = s.host) ∧
         (left = [] → s.atBoundary = true → bad = true → s.st.acts = [a] → (s.ring a.ring).busy.isSome = true →
           ∃ t, exec (.migrateMapInstall m) s = .next t ∧ t.st.reserving = none ∧ s.ended a.ring { status := .resourceShort, step := s.st.stepNo } t ∧
             t.st.acts = [] ∧ ∀ r ∈ s.moving a.payload, s.emits t (mapMsg r.dst 6 (leBytes 8 s.rank))) ∧
         (left = [] → s.atBoundary = true → bad = false →
           ∃ t, exec (.migrateMapInstall m) s = .next t ∧ t.st.reserving = none ∧ t.st.acts = s.st.acts.erase a ∧ s.storesSame t ∧
             (∃ x ∈ t.st.applied, x.ring = a.ring ∧ x.payload = a.payload ∧ x.waitAck = true) ∧
             ∀ r ∈ s.moving a.payload, ∀ td, s.table r.table = some td → r.dst ∈ t.st.moveWait ∧
               ∃ y ∈ t.net.sent.drop s.net.sent.length, y.typ = 5 ∧ y.opc = 2 ∧ y.vc = 10 ∧ y.dst = r.dst ∧ field y.body 5 1 = 0 ∧
                 slice y.body 16 8 = migBytes r ∧ slice y.body 24 2 = leBytes 2 (s.versionOf r.table r.row) ∧
                 slice y.body 166 (tabRowBytes td) = s.read (s.slotOf r.table r.row) (tabRowBytes td) ∧
                 ∀ ma mo, td.train = true → ma = s.masterOf r.table r.row → mo = s.momentsOf r.table r.row →
                   slice y.body (166 + tabRowBytes td) (ma.len + mo.len) = s.read ma.base ma.len ++ s.read mo.base mo.len)) ∧
       (kind = 5 → s.st.reserving = none ∨ m.src ∉ s.st.reserveWait → ∃ t, exec (.migrateMapInstall m) s = .next t ∧ s.netOnly t) ∧
       (kind = 7 → m.src ∈ s.st.moveWait → ∃ t, exec (.migrateMapInstall m) s = .next t ∧ t.st.moveWait = s.st.moveWait.filter (· != m.src) ∧
         s.storesSame t ∧ t.host = s.host ∧
         ∀ a, t.st.moveWait = [] → s.st.applied.find? (fun x => x.kind == 2 && x.waitAck) = some a → t.st.installWait = s.others ∧
           ∀ o ∈ s.others, s.emits t (mapMsg o 3 (leBytes 8 (s.moving a.payload).length) (last := true)) ∧
             ∀ x ∈ mapMsgs o 0 (s.moving a.payload), s.emits t x) ∧
       (kind = 7 → m.src ∉ s.st.moveWait → ∃ t, exec (.migrateMapInstall m) s = .next t ∧ s.netOnly t) ∧
       (kind ≠ 5 → kind ≠ 7 → m.src ∈ s.st.installWait → ∃ t, exec (.migrateMapInstall m) s = .next t ∧
         t.st.installWait = s.st.installWait.filter (· != m.src) ∧ (t.st.installWait ≠ [] → s.storesSame t ∧ t.host = s.host) ∧
         ∀ a, t.st.installWait = [] → s.holders s.rank ≠ [] → s.st.applied.find? (fun x => x.kind == 2 && x.waitAck) = some a →
           (a.ring, (s.moving a.payload).length, s.st.stepNo) ∈ t.mir.waiting) ∧
       (kind ≠ 5 → kind ≠ 7 → m.src ∉ s.st.installWait → ∃ t, exec (.migrateMapInstall m) s = .next t ∧ s.netOnly t)) ∧
     (∀ r td p b, m.typ = 5 → m.opc = 2 → m.vc = 10 → migRecs (slice m.body 16 8) = [r] → s.table r.table = some td → p = s.placeRow r → b = m.body.drop 24 →
       ((∃ x, s.st.run = some x ∧ x.phase ≠ .waitStart) → exec (.migrateMapInstall m) s = .next s) ∧
       ((∀ x, s.st.run = some x → x.phase = .waitStart) →
         (field m.body 5 1 ≠ 1 → (m.src, rowKey r.table r.row) ∉ s.st.reserved → ∃ t, exec (.migrateMapInstall m) s = .next t ∧ s.netOnly t) ∧
         (field m.body 5 1 = 1 ∨ (m.src, rowKey r.table r.row) ∈ s.st.reserved → s.holders s.rank ≠ [] → (p.1.rowRegions td r.table r.row ++ [s.tailRegion]).Pairwise (fun x y => overlaps x y = false) →
           ∃ t, exec (.migrateMapInstall m) s = .next t ∧ rowKey r.table r.row ∈ t.st.arrived ∧ (rowKey r.table r.row, m.src) ∈ t.st.landed ∧
             t.st.reserved = s.st.reserved.erase (m.src, rowKey r.table r.row) ∧ t.versionOf r.table r.row = field b 0 2 ∧
             (142 + tabRowBytes td ≤ b.length → t.read p.2 (tabRowBytes td) = slice b 142 (tabRowBytes td)) ∧
             (td.train = true → ∀ ma mo, ma = p.1.masterOf r.table r.row → mo = p.1.momentsOf r.table r.row →
               142 + tabRowBytes td + ma.len + mo.len ≤ b.length →
                 t.read ma.base ma.len ++ t.read mo.base mo.len = slice b (142 + tabRowBytes td) (ma.len + mo.len)) ∧
             ((∀ e ∈ s.st.reserved.erase (m.src, rowKey r.table r.row), e.1 ≠ m.src) → m.src ∈ t.st.owedMoves))))) ∧
  (∀ (s : State) (m : Msg) (b : List Byte), s.member = true → s.prog.isSome = true → m.typ = 5 → m.opc = 1 → b = m.body.drop 16 →
     (m.resp = true → field m.body 0 4 = s.st.stepNo →
       (((s.took m).batchIn m).1 = none → ∃ t, exec (.eddyRefreshRecord m) s = .next t ∧ m ∈ t.ex.parts ∧ t.st = s.st ∧ s.storesSame t ∧ t.host = s.host) ∧
       (∀ l, ((s.took m).batchIn m).1 = some l →
         ∃ t, exec (.eddyRefreshRecord m) s = .next t ∧ s.storesSame t ∧ t.host = s.host ∧
           s.emits t (mkMsg 5 1 10 m.src (m.body.take 16)) ∧ m.src ∈ t.st.refreshed ∧ m.src ∉ t.st.refreshWait ∧
           (∀ td, l = [m] → field m.body 8 8 = 0 → s.table (field b 5 1) = some td → b.length = 8 + roundUp (tabRowBytes td) 8 →
             t.st.eddy.find (rowKey (field b 5 1) (field b 0 5)) =
               some { src := m.src, bytes := slice b 8 (tabRowBytes td), version := field b 6 2, present := true }) ∧
           (l = [m] → 8 * field m.body 8 8 = b.length → ∀ r ∈ groupsOf 8 b, t.st.eddy.find (rowKey (field r 5 1) (field r 0 5)) = none))) ∧
     (m.resp = true → field m.body 0 4 ≠ s.st.stepNo → exec (.eddyRefreshRecord m) s = .next s) ∧
     (m.resp = false → field m.body 5 1 ≠ 2 →
       ∃ t, exec (.eddyRefreshAck m) s = .next t ∧ t.st.eddyAcks = s.st.eddyAcks.erase (m.src, 1) ∧ s.storesSame t ∧ (s.mir.waiting = [] → t.host = s.host)) ∧
     (m.resp = false → field m.body 5 1 = 2 →
       ∃ t, exec (.eddyRefreshAck m) s = .next t ∧ t.st.eddyAcks = s.st.eddyAcks ++ [(m.src, 1)] ∧ s.storesSame t ∧ t.host = s.host))

/-- An INSERT puts its edge directly after every record whose TS is at most its own and before every other, so a run in TS order stays so and no record is
lost. A DELETE takes no record away: it sets DEAD on one live record that matches, and every field but FLAGS of every record stays. A run that is
relocated keeps its live records in their order and no other, at a multiple of 256 in the region, with room for a quarter as many again and at least
16, rounded up to a multiple of 16, and every other run stays as it is. No draw sees the future: every record that a draw takes is live, of a type
that the hop's mask allows, and has a TS below the time bound; under TEMPORAL_WINDOW it lies within the window. A parent always has exactly as many
children as the hop's fan-out, the empty ones among them. -/
def Obligations.RunsAndDraws : Prop :=
  (∀ (e : Edge) (es : List Edge),
     (es.Pairwise (fun a b => a.ts ≤ b.ts) → (insertEdge e es).Pairwise (fun a b => a.ts ≤ b.ts)) ∧ (insertEdge e es).Perm (e :: es) ∧
     (∃ pre post, insertEdge e es = pre ++ e :: post ∧ (∀ x ∈ pre, x.ts ≤ e.ts) ∧ ∀ x ∈ post, e.ts < x.ts) ∧
     ∀ es', deleteEdge e es = some es' → (liveRecords es').length + 1 = (liveRecords es).length ∧
       es'.map (fun x => (x.nbr, x.ts, x.etype, x.weight)) = es.map (fun x => (x.nbr, x.ts, x.etype, x.weight))) ∧
  (∀ (s u : State) (d : Decl) (x : Nat) (live : List Edge) (table : Region), s.relocate d x = some u → s.decl = some d → x ∈ ownedNodes d s.ranks s.rank →
     live = liveRecords (s.runRecords (s.entry x)) → table = { base := s.graphRegion.base, len := 32 * (ownedNodes d s.ranks s.rank).length } →
     within table (s.entryAddr x) 32 = true → s.graphRegion.base + s.graphRegion.len ≤ 2 ^ 40 → s.graphRegion.len < 2 ^ 36 → 0 < s.graphRegion.len →
     u.entry x = { s.entry x with addr := (u.entry x).addr, len := live.length, cap := (live.length + max 16 ((live.length + 3) / 4) + 15) / 16 * 16 } ∧
     (u.entry x).addr % 256 = 0 ∧ within s.graphRegion (u.entry x).addr (16 * (u.entry x).cap) = true ∧ u.runRecords (u.entry x) = live ∧
     ∀ y ∈ ownedNodes d s.ranks s.rank, y ≠ x → within table (s.entryAddr y) 32 = true → overlaps { base := s.entryAddr x, len := 32 } { base := s.entryAddr y, len := 32 } = false →
       overlaps { base := s.entryAddr x, len := 32 } { base := (s.entry y).addr, len := 16 * (s.entry y).cap } = false → (s.entry y).len ≤ (s.entry y).cap →
       u.entry y = s.entry y ∧ u.runRecords (u.entry y) = s.runRecords (s.entry y)) ∧
  (∀ (h : Hop) (tb slot : Nat) (gen : DrawGen) (table : List (Nat × Nat)) (es : List Edge),
     ∀ c ∈ drawChildren h tb slot gen table (liveRecords es), ∀ x, c.took = some x →
       x.1 ∈ es ∧ x.1.dead = false ∧ x.1.ts < tb ∧ h.typeMask.getLsbD x.1.etype = true ∧ (h.mode = .temporalWindow → tb - h.window ≤ x.1.ts)) ∧
  (∀ (h : Hop) (tb slot : Nat) (gen : DrawGen) (table : List (Nat × Nat)) (live : List Edge),
     (drawChildren h tb slot gen table live).length = h.fanout)

/-- HOP_BATCH_SEND of the step's next hop draws it and sends a batch to every other member, empty ones too; where no step samples, that of the next hop of
the EVAL at the front draws it, unless the graph is about to change before its first. A message of a request batch that is not whole is kept; with the
last message of one, its raw reads are judged, and where they hold it is answered: a request gets as many records as the hop's fan-out, each with the
parent and hop asked for and either empty or a live edge of the node's run before the time bound that the hop's types allow. A batch of another
attempt is discarded, and one that breaks its layout is a content fault. A reply in progress, once whole, writes its children, in the order of the
requests, at the Ledger places that were asked for and nowhere else, and an owner whose every place is written has answered; any other reply only is
taken or discarded (log entries 41, 70, 123). -/
def Obligations.SampleExchange : Prop :=
  ∀ s : State, s.member = true → s.prog.isSome = true →
    (exec (.hopBatchSend 0) s = .next s) ∧
    (∀ hop r sp, 0 < hop → s.st.run = some r → r.phase = .sample → r.fault = none → r.hop + 1 = hop → s.ex.sampleLeft = [] → s.spec r.spec = some sp →
      hop ≤ sp.hops.length → ∃ t, exec (.hopBatchSend hop) s = .next t ∧ t.st.run = some { r with hop := hop } ∧
        t.ex.sampleLeft = s.others.map (fun o => (o, hop)) ∧ t.host = s.host ∧
        ∀ o ∈ s.others, ∃ x ∈ t.net.sent.drop s.net.sent.length, x.typ = 4 ∧ x.dst = o ∧ x.resp = false ∧ x.vc = 10) ∧
    (∀ hop e rest sp, 0 < hop → (∀ r, s.st.run = some r → r.phase ≠ .sample) → s.st.evals = e :: rest → e.drawing = true → e.hop + 1 = hop → e.asked = [] →
      (hop = 1 → s.graphPending = false) → s.spec e.spec = some sp → hop ≤ sp.hops.length →
      ∃ t e', exec (.hopBatchSend hop) s = .next t ∧ t.st.evals = e' :: rest ∧ e'.hop = hop ∧ e'.targets = e.targets ∧ e'.pinned = e.pinned ∧
        t.st.run = s.st.run ∧ t.host = s.host) ∧
    (∀ m spec sp d errs, m.typ = 4 → m.resp = false → s.pulling = false → s.decl = some d → s.spec spec = some sp →
      (s.batchCurrent m.body = false → ∃ t, exec (.sampleReq m spec errs) s = .next t ∧ s.netOnly t) ∧
      ∀ ok, ok = (batchHeaderOk m.body && decide (1 ≤ field m.body 5 1) && decide (field m.body 5 1 ≤ sp.hops.length) && (groupsOf 20 (m.body.drop 16)).all (s.sampleOk d)) →
        s.batchCurrent m.body = true →
        (ok = false → ∀ r, s.st.run = some r → r.fault = none →
          ∃ t, exec (.sampleReq m spec errs) s = .next t ∧ t.st.run = some { r with fault := some .formatInvalid } ∧ s.storesSame t ∧ t.host = s.host) ∧
        (ok = true → ((s.took m).batchIn m).1 = none →
          ∃ t, exec (.sampleReq m spec errs) s = .next t ∧ m ∈ t.ex.parts ∧ t.st = s.st ∧ s.storesSame t ∧ t.host = s.host) ∧
        (ok = true → ((s.took m).batchIn m).1.isSome = true →
          (errs = [] → ∃ t, exec (.sampleReq m spec errs) s = .next t ∧ s.storesSame t ∧ t.st = s.st ∧ t.host = s.host ∧
            (∃ x ∈ t.net.sent.drop s.net.sent.length, x.typ = 4 ∧ x.dst = m.src ∧ x.resp = true ∧ x.last = true) ∧
            ∀ l r hop live, ((s.took m).batchIn m).1 = some l → groupsOf 20 (batchBytes l) = [r] → sp.hops[field m.body 5 1 - 1]? = some hop →
              live = liveRecords (s.runRecords (s.entry (field r 0 5))) → live.length < 2 ^ 19 →
              ∃ x ∈ t.net.sent.drop s.net.sent.length, x.typ = 4 ∧ x.dst = m.src ∧ x.resp = true ∧ x.body.take 16 = m.body.take 16 ∧
                (x.body.drop 16).length = 24 * hop.fanout ∧ ∀ k < hop.fanout, ∀ c, c = slice (x.body.drop 16) (24 * k) 24 →
                  bits (field c 11 5) 19 19 = field r 11 3 ∧ bits (field c 11 5) 38 2 = (field m.body 5 1 - 1) % 4 ∧
                  ((field c 0 5 = noId ∧ field c 5 6 = 0 ∧ field c 16 8 = 0x0100) ∨
                   ∃ e ∈ live, e.ts < field r 5 6 ∧ hop.typeMask.getLsbD e.etype = true ∧ field c 0 5 = e.nbr ∧ field c 5 6 = e.ts ∧
                     field c 16 1 = e.etype ∧ field c 18 2 = e.weight)) ∧
          ∀ u, (((s.took m).batchIn m).2.checkedReads (if batchEval m.body then .scrub false else .step) errs) = (false, u) →
            exec (.sampleReq m spec errs) s = .next u)) ∧
    (∀ m fs, m.typ = 4 → m.resp = true →
      (s.replyWanted m.body = none → ∃ t, exec (.sampleReply m) s = .next t ∧ s.netOnly t) ∧
      (s.replyWanted m.body = some fs → ((s.took m).batchIn m).1 = none →
        ∃ t, exec (.sampleReply m) s = .next t ∧ m ∈ t.ex.parts ∧ t.st = s.st ∧ s.storesSame t ∧ t.host = s.host) ∧
      ∀ l f mine eval, s.replyWanted m.body = some fs → ((s.took m).batchIn m).1 = some l → f = nth 0 fs (field m.body 5 1 - 1) → eval = batchEval m.body →
        mine = (if eval then s.st.evals.head?.elim [] (fun e => askedOf e.asked m.src) else askedOf s.ex.sampleAsked m.src) →
        ∃ t, exec (.sampleReply m) s = .next t ∧ t.host = s.host ∧ t.st.run = s.st.run ∧
          (∀ a, (∀ i ∈ mine, ∀ k < f, (a < (s.ledgerPlace eval).1 + 16 * (i + k) ∨ (s.ledgerPlace eval).1 + 16 * (i + k) + 16 ≤ a) ∧
            (a < (s.ledgerPlace eval).2 + 8 * (i + k) ∨ (s.ledgerPlace eval).2 + 8 * (i + k) + 8 ≤ a)) → t.byte a = s.byte a) ∧
          (mine.Pairwise (fun i j => i + f ≤ j ∨ j + f ≤ i) → (∀ i ∈ mine, ∀ j ∈ mine, (s.ledgerPlace eval).1 + 16 * (i + f) ≤ (s.ledgerPlace eval).2 + 8 * j ∨
              (s.ledgerPlace eval).2 + 8 * (i + f) ≤ (s.ledgerPlace eval).1 + 16 * j) →
            ∀ j i, mine[j]? = some i → 24 * f * (j + 1) ≤ (batchBytes l).length → ∀ k < f,
              t.ledgerAt eval (i + k) = slice (batchBytes l) (24 * f * j + 24 * k) 24) ∧
          (mine.length * (24 * f) ≤ (batchBytes l).length →
            (eval = false → t.ex.sampleLeft = s.ex.sampleLeft.filter fun x => x.1 != m.src) ∧
            (eval = true → ∃ e', t.st.evals.head? = some e' ∧ ∀ x ∈ e'.asked, x.1 ≠ m.src)))

/-! ### Quarry and Confluence (07, 09) -/

/-- GATHER, SCATTER_GRAD and ROUND_CLOSE, each on the module's next Quarry descriptor that no earlier one holds back, when that is of its operation. A
check that fails ends the work with its code. Otherwise, unless a raw read of a GATHER is lost, the descriptor is in progress until its completion,
and no byte of memory changes but those it writes. A step's scatter holds the gradient row of each named row, and its round is closed for the core;
with the last core, a batch goes to every other member. What a gather delivers of one list entry: for the empty id zeros, for a row held here its
committed value with its VERSION, for a row whose replica Eddy may serve the replica's; any other row is to be asked of its owner. No byte outside the
row's place and its VERSION's changes (log entries 38, 39, 95, 123, 130, 131). -/
def Obligations.QuarryStarts : Prop :=
  (∀ (s : State) (q : QDesc) (core : Nat) (d : QuarryDesc) (errs : List RawRead) (c : Instr), s.nextDesc (fun x => x.unit == .quarry && s.quarryClear x) = some q → q.core = core →
     s.hasCore core = true → s.workLive q.eval = true → d = quarryDesc q.bytes →
     c = (if d.op = 3 then .roundClose core else if d.op = 2 then .scatterGrad core else .gather core errs) →
     (∀ x, s.quarryCheck q d = some x →
       ∃ t, exec c s = .next t ∧ s.storesSame t ∧
         (∀ r, q.eval = false → s.st.run = some r → t.st.run = some { r with fault := some x }) ∧
         (∀ e rest, q.eval = true → s.st.evals = e :: rest → (s.ring e.ring).busy.isSome = true →
           s.ended e.ring { status := x, info := e.info, step := e.pinned } t)) ∧
     (s.quarryCheck q d = none → (∀ r ∈ s.quarryBusy, r.done = false) →
       (d.op = 1 →
         (∀ u, s.checkedReads (if q.eval then s.evalRead else .step) errs = (false, u) → exec c s = .next u) ∧
         ∀ u, s.checkedReads (if q.eval then s.evalRead else .step) errs = (true, u) →
           ∃ t, exec c s = .next t ∧ t.inProgress q d.flag ∧ t.st.run = s.st.run ∧ t.host = u.host ∧ t.nor = s.nor ∧ u.outside t (s.quarryWrites d)) ∧
       (d.op = 2 → ∃ t, exec c s = .next t ∧ t.inProgress q d.flag ∧ s.storesSame t ∧ t.st = s.st ∧ t.host = s.host ∧
         (q.eval = true → t.ex = s.ex) ∧
         (q.eval = false → t.ex.scatter.length = s.ex.scatter.length + ((s.quarryIds d).filter fun i => i != noId).length ∧
           ∀ i < d.n, ∀ id, id = nth 0 (s.quarryIds d) i → id ≠ noId →
             { owner := s.rowOwner d.tbl id, table := d.tbl, row := id, batch := d.batchBase + i, grad := s.read (d.data + i * d.dstride) (s.quarryRow d) } ∈ t.ex.scatter)) ∧
       (d.op = 3 → ∃ t, exec c s = .next t ∧ t.inProgress q d.flag ∧ s.storesSame t ∧ t.st = s.st ∧ t.host = s.host ∧
         (q.eval = true → t.ex = s.ex) ∧
         (q.eval = false → (d.round, core) ∈ t.ex.rounds) ∧
         (q.eval = false → (d.round, core) ∉ s.ex.rounds → d.round ∉ s.ex.roundsSent → (∀ k < s.gc.weir.length, (d.round, k) ∈ (d.round, core) :: s.ex.rounds) →
           d.round ∈ t.ex.roundsSent ∧ ∀ o ∈ s.others, ∃ x ∈ t.net.sent.drop s.net.sent.length, x.typ = 5 ∧ x.opc = 0 ∧ x.vc = 10 ∧ x.dst = o ∧ x.resp = false)))) ∧
  (∀ (s u : State) (eval : Bool) (d : QuarryDesc) (t : TableDecl) (i id dst n : Nat), s.table d.tbl = some t → u = s.gatherOne eval d t i id → dst = d.data + i * d.dstride →
     n = tabRowBytes t →
     (∀ v, (id = noId ∧ v = (zeros n, 0)) ∨ (id ≠ noId ∧ (t.sharded = false ∨ s.owns d.tbl id = true) ∧ v = s.rowValue d.tbl id) ∨
         (id ≠ noId ∧ t.sharded = true ∧ s.owns d.tbl id = false ∧ s.eddyServes eval s.pinned = true ∧
           ∃ x, s.st.eddy.find (rowKey d.tbl id) = some x ∧ x.present = true ∧ v = (fit n x.bytes, x.version)) →
       (d.ver = 0 → u.read dst n = v.1) ∧ (d.ver ≠ 0 → u.read (d.ver + 2 * i) 2 = leBytes 2 v.2)) ∧
     (id ≠ noId → t.sharded = true → s.owns d.tbl id = false → s.st.eddy.find (rowKey d.tbl id) = none ∨ s.eddyServes eval s.pinned = false →
       u.mem = s.mem ∧ ∃ l, u.ex.lookups = s.ex.lookups ++ [l] ∧ l.owner = s.rowOwner d.tbl id ∧ l.table = d.tbl ∧ l.row = id ∧ l.dst = dst ∧ l.eval = eval ∧
         l.round = d.round ∧ l.asked = false) ∧
     ∀ a, (a < dst ∨ dst + n ≤ a) → (d.ver = 0 ∨ a < d.ver + 2 * i ∨ d.ver + 2 * i + 2 ≤ a) → u.byte a = s.byte a)

/-- Lookups. A message of a request batch of another attempt is discarded; one that breaks its layout, or asks for a step a row that is not owned here, is
this module's content fault; one whose batch is not whole is kept; with the last of its batch the batch is answered by a reply, empty ones too. A
spare whose pull is not complete takes none. None of these stores anything. A reply of another attempt or EVAL is discarded or only taken, and kept
while its batch is not whole; a whole one with the one row asked for fills its place and its VERSION's and no other byte, and one that says MOVED has
the row asked again of the owner in force (log entry 70). -/
def Obligations.LookupExchange : Prop :=
  ∀ (s : State) (m : Msg), s.member = true → s.prog.isSome = true → m.typ = 5 → m.opc = 0 →
    (m.resp = false →
      (s.pulling = true → exec (.lookupBatch m) s = .next s) ∧
      (s.pulling = false → s.batchCurrent m.body = false → ∃ t, exec (.lookupBatch m) s = .next t ∧ s.netOnly t) ∧
      ∀ recs ok, recs = groupsOf 8 (m.body.drop 16) →
        ok = (batchHeaderOk m.body && recs.all s.requestOk && (batchEval m.body || recs.all fun r => s.owns (field r 5 1) (field r 0 5))) →
        s.pulling = false → s.batchCurrent m.body = true →
        (ok = false → ∀ r, s.st.run = some r → r.fault = none →
          ∃ t, exec (.lookupBatch m) s = .next t ∧ t.st.run = some { r with fault := some .formatInvalid } ∧ s.storesSame t ∧ t.host = s.host) ∧
        (ok = true → ((s.took m).batchIn m).1 = none →
          ∃ t, exec (.lookupBatch m) s = .next t ∧ m ∈ t.ex.parts ∧ t.st = s.st ∧ s.storesSame t ∧ t.host = s.host) ∧
        (ok = true → ((s.took m).batchIn m).1.isSome = true →
          ∃ t, exec (.lookupBatch m) s = .next t ∧ s.storesSame t ∧ t.host = s.host ∧ t.st.run = s.st.run ∧
            ∃ x ∈ t.net.sent.drop s.net.sent.length, x.typ = 5 ∧ x.opc = 0 ∧ x.dst = m.src ∧ x.resp = true ∧ x.last = true)) ∧
    (m.resp = true →
      (s.batchCurrent m.body = false ∨ (batchEval m.body = true ∧ (field m.body 8 8 ≠ s.evalTag ∨ field m.body 0 4 ≠ s.pinned)) →
        ∃ t, exec (.lookupReply m) s = .next t ∧ s.netOnly t) ∧
      ∀ eval, eval = batchEval m.body → s.batchCurrent m.body = true → (eval = true → field m.body 8 8 = s.evalTag ∧ field m.body 0 4 = s.pinned) →
        (((s.took m).batchIn m).1 = none → ∃ t, exec (.lookupReply m) s = .next t ∧ m ∈ t.ex.parts ∧ t.st = s.st ∧ s.storesSame t ∧ t.host = s.host) ∧
        ∀ b r l t0, ((s.took m).batchIn m).1 = some b → r = batchBytes b → s.ex.lookups = [l] → l.owner = m.src → l.eval = eval → l.asked = true → l.countOnly = false →
          l.round = field m.body 5 1 → l.row < 2 ^ 40 → s.table l.table = some t0 →
          (bits (field r 2 1) 0 1 = 0 → 8 + tabRowBytes t0 ≤ r.length →
            ∃ t, exec (.lookupReply m) s = .next t ∧ t.ex.lookups = [] ∧ (l.ver = none → t.read l.dst (tabRowBytes t0) = slice r 8 (tabRowBytes t0)) ∧
              (∀ a, l.ver = some a → t.read a 2 = leBytes 2 (field r 0 2)) ∧ t.st = s.st ∧ t.host = s.host ∧
              ∀ a, (a < l.dst ∨ l.dst + tabRowBytes t0 ≤ a) → (∀ v, l.ver = some v → a < v ∨ v + 2 ≤ a) → t.byte a = s.byte a) ∧
          (bits (field r 2 1) 0 1 = 1 → 8 ≤ r.length → eval = false →
            ∃ t, exec (.lookupReply m) s = .next t ∧ t.ex.lookups = [{ l with owner := s.rowOwner l.table l.row, asked := false }] ∧ t.st = s.st ∧
              s.storesSame t ∧ t.host = s.host))

/-- A segment of another step or attempt is discarded and counted; of a step whose content has failed it is only taken. One that breaks a rule of 09 R217,
that repeats a place with other bytes or comes after a whole contribution is a content fault; one that repeats a place with the same bytes is counted.
Staging beyond RXMAX is a content fault. A segment that leaves its contribution incomplete is staged in the staging area, and no more. A whole
contribution that fails its arrival check is asked again, once, its copy kept; one that holds a content fault is that. With the last contribution of a
slice or table it is reduced, if the checksums on addition agree: each FP32 element of the slice's result, or of a row, is the sum of the
contributions in ascending rank, and in a row of ascending batch index within a rank; if not, the contributions that disagree are asked again, once. A
re-request sends every segment that it names again from the kept copies and changes nothing but the network; one of another attempt or contributor is
only taken (log entries 42, 74, 128, 137). -/
def Obligations.SegmentsArrive : Prop :=
  ∀ (s : State) (m : Msg) (x : Seg), s.member = true → x = segOf m.body →
    (m.typ = 3 → s.prog.isSome = true → ∀ reads,
      (x.step ≠ s.st.stepNo ∨ x.attempt ≠ s.attempt ∨ s.st.run = none → exec (.remoteAcc ⟨m, reads⟩) s = .next ((s.took m).count cConfStale 1)) ∧
      ∀ r (u w : State) (area : List Region), area = s.prog.elim [] (fun p => [{ base := p.place.staging, len := p.decl.rxMax }]) → s.st.run = some r → x.step = s.st.stepNo → x.attempt = r.attempt → u = s.replaced x →
        w = { u with conf := { u.conf with staged := u.conf.staged ++ [x] } } →
        (r.fault.isSome = true → exec (.remoteAcc ⟨m, reads⟩) s = .next (s.took m)) ∧
        (r.fault = none →
          (s.segmentOk x = false ∨ (∃ y, (s.segsOf x.kind x.id x.src).find? (fun y => y.seg == x.seg) = some y ∧ y.raw ≠ x.raw) ∨
              ((s.segsOf x.kind x.id x.src).find? (fun y => y.seg == x.seg) = none ∧ s.contributionIn x.kind x.id x.src = true) →
            ∃ t, exec (.remoteAcc ⟨m, reads⟩) s = .next t ∧ t.st.run = some { r with fault := some .formatInvalid } ∧ t.conf = s.conf ∧ s.storesSame t ∧ t.host = s.host) ∧
          (s.segmentOk x = true → ∀ y, (s.segsOf x.kind x.id x.src).find? (fun y => y.seg == x.seg) = some y → y.raw = x.raw →
            exec (.remoteAcc ⟨m, reads⟩) s = .next ((s.took m).count cConfStale 1)) ∧
          (s.segmentOk x = true → (s.segsOf x.kind x.id x.src).find? (fun y => y.seg == x.seg) = none → s.contributionIn x.kind x.id x.src = false →
            (s.decl.elim 0 (·.rxMax) < u.stagedBytes + x.payload.length →
              ∃ t, exec (.remoteAcc ⟨m, reads⟩) s = .next t ∧ t.st.run = some { r with fault := some .indexRange } ∧ s.storesSame t ∧ t.host = s.host) ∧
            (u.stagedBytes + x.payload.length ≤ s.decl.elim 0 (·.rxMax) →
              (w.contributionIn x.kind x.id x.src = false →
                ∃ t, exec (.remoteAcc ⟨m, reads⟩) s = .next t ∧ t.conf = w.conf ∧ s.storesBut t area ∧ t.st = s.st ∧ t.host = s.host ∧
                  ∀ p, s.prog = some p → t.read p.place.staging w.stagedBytes = (w.conf.staged ++ w.conf.failed).flatMap (·.payload)) ∧
              (w.contributionIn x.kind x.id x.src = true → w.arrivalOk x.kind x.id x.src = false →
                ((x.kind, x.id, x.src) ∉ s.conf.retried →
                  ∃ t, exec (.remoteAcc ⟨m, reads⟩) s = .next t ∧ (x.kind, x.id, x.src) ∈ t.conf.retried ∧ t.segsOf x.kind x.id x.src = [] ∧ t.stagedBytes = w.stagedBytes ∧
                    s.emits t (mkMsg 2 1 0 x.src (leBytes 4 s.st.stepNo ++ leBytes 1 s.attempt ++ leBytes 1 x.kind ++ leBytes 2 x.src ++ leBytes 4 x.id ++ zeros 4)) ∧
                    s.storesBut t area ∧ t.st = s.st ∧ t.host = s.host) ∧
                ((x.kind, x.id, x.src) ∈ s.conf.retried →
                  ∃ t, exec (.remoteAcc ⟨m, reads⟩) s = .next t ∧ t.conf = w.conf ∧ s.storesBut t area ∧ t.st = s.st ∧ t.host = s.host)) ∧
              (w.contributionIn x.kind x.id x.src = true → w.arrivalOk x.kind x.id x.src = true →
                (∀ c, w.contributionFault x.kind x.id x.src = some c →
                  ∃ t, exec (.remoteAcc ⟨m, reads⟩) s = .next t ∧ t.st.run = some { r with fault := some c } ∧ s.storesBut t area ∧ t.host = s.host) ∧
                (w.contributionFault x.kind x.id x.src = none → (x.kind, x.id) ∉ s.conf.reduced →
                  ((w.contributors x.kind x.id).all (fun k => w.contributionIn x.kind x.id k) = false →
                    ∃ t, exec (.remoteAcc ⟨m, reads⟩) s = .next t ∧ t.conf.reduced = s.conf.reduced ∧ s.storesBut t area ∧ t.host = s.host) ∧
                  ∀ ps, ps = w.adderReads x.kind x.id reads → (w.contributors x.kind x.id).all (fun k => w.contributionIn x.kind x.id k) = true →
                    (ps.map (·.1)).Pairwise (· < ·) ∧
                    (w.aggregateOk x.kind x.id ps = true → ∃ t, exec (.remoteAcc ⟨m, reads⟩) s = .next t ∧ (x.kind, x.id) ∈ t.conf.reduced ∧ t.host = s.host ∧
                      (∀ l i, x.kind = kSlice → s.ownSlice x.id = some l → s.sliceBs8 l = false → i < l.count →
                        t.read (l.result + 4 * i) 4 = leBytes 4 (reduceFp32 s.t7 (ps.map fun p => field p.2 (4 * i) 4)).1) ∧
                      ∀ td row recs, x.kind ≠ kSlice → s.table x.id = some td → td.gradBs8 = false → row ∈ s.ownedRows x.id →
                        recs = ps.flatMap (fun p => (byBatch (rowRecs x.id (tabGradBytes td) p.2)).filter fun z => z.row == row) → recs ≠ [] →
                        (x.id, row, (List.range td.width).flatMap fun i => leBytes 4 (reduceFp32 s.t7 (recs.map fun z => field z.grad (4 * i) 4)).1) ∈ t.conf.rowSums) ∧
                    (w.aggregateOk x.kind x.id ps = false → (x.kind, x.id) ∉ s.conf.aggFailed →
                      (∃ p ∈ ps, (checksum p.2 != w.carriedSum x.kind x.id p.1) = true) →
                      ∃ t, exec (.remoteAcc ⟨m, reads⟩) s = .next t ∧ (x.kind, x.id) ∈ t.conf.aggFailed ∧ t.conf.reduced = s.conf.reduced ∧ s.storesBut t area ∧ t.host = s.host ∧
                        ∀ p ∈ ps, (checksum p.2 != w.carriedSum x.kind x.id p.1) = true → (x.kind, x.id, p.1) ∈ t.conf.retried)))))))
    ∧
    (m.typ = 2 → m.opc = 1 → m.vc = 0 →
      (s.st.run.isSome = true → x.step = s.st.stepNo → x.attempt = s.attempt → x.src = s.rank →
        ∃ t, exec (.confRerequest m) s = .next t ∧ s.netOnly t ∧
          ∀ c ∈ s.conf.sent, c.dst = m.src → (segOf c.body).kind = x.kind → (segOf c.body).id = x.id → s.emits t c) ∧
      (s.st.run = none ∨ x.step ≠ s.st.stepNo ∨ x.attempt ≠ s.attempt ∨ x.src ≠ s.rank → ∃ t, exec (.confRerequest m) s = .next t ∧ s.netOnly t))

/-- Sums. BS8 lanes that hold every partial sum at the agreed scale give the exact sum of the aligned codes at that scale, with no raise; whatever the
contributions, every lane of the sum is a 24-bit number, and the scale is the agreed one plus what it has been raised. The contributions of a rank to
a row are taken in ascending batch index. An FP32 sum starts at 0 and takes the contributions one after another, each addition rounded once into A48,
or into FP32 in T7-exact mode, a zero sum being +0; the last is rounded once into FP32, a zero being +0. A NaN among the contributions, or infinities
of both signs, give a NaN. -/
def Obligations.BlockSums : Prop :=
  (∀ (cs : List (List Int × Nat)) (e : Nat) (b : BlockSum), b = BlockSum.addAll { sums := List.replicate 32 0, scale := e, raised := 0, raises := 0 } [] cs →
    (∀ t, sumAt cs e = some t → b = { sums := t, scale := e, raised := 0, raises := 0 }) ∧ (∀ v ∈ b.sums, laneFits v = true) ∧ b.scale = e + b.raised) ∧
  (∀ l : List RowRec, (byBatch l).Perm l ∧ (byBatch l).Pairwise fun a b => a.batch ≤ b.batch) ∧
  ∀ (t7 : Bool) (xs : List Nat),
    (∃ a : Nat → Nat, a 0 = 0 ∧
      (∀ k x, xs[k]? = some x → (fp32.decode x).finite = true → ((accFmt t7).decode (a k)).finite = true →
        (accFmt t7).sumsTo (((accFmt t7).decode (a k)).value + (fp32.decode x).value) (a (k + 1))) ∧
      (((accFmt t7).decode (a xs.length)).finite = true → fp32.sumsTo ((accFmt t7).decode (a xs.length)).value (reduceFp32 t7 xs).1)) ∧
    ((∃ x ∈ xs, fp32.decode x = .nan) ∨ ((∃ x ∈ xs, fp32.decode x = .inf false) ∧ ∃ x ∈ xs, fp32.decode x = .inf true) → (reduceFp32 t7 xs).1 = 0x7FC00000)

/-! ### Mirroring and recovery (11) -/

/-- Deltas and boundary copies. A delta of another attempt, or of a part not held here, is only taken. Any other of the attempt in progress is kept
pending, behind those before it or, once those have been acknowledged, alone; LAST keeps the bytes to come; and the acknowledgement goes once the base
is complete and every byte is in. Nothing is stored until the commit point. A run of a boundary copy of a part held here is stored on arrival at its
place in the mirror region and nowhere else, and a whole copy on a complete base is acknowledged; one that comes while this module's own load waits
stays. An acknowledgement that is not this module's, or of a part that waits for none, is only taken; one with the part's checksum and bytes counts;
another has the part sent again, and of a step's deltas a second one is reported as a step-transient failure. Of the spare that has taken a holder's
rank the first one, whatever it says of the part, leaves the module exposed no longer, and no other does (log entry 66). The checksum of runs does not
depend on their order (log entry 48). Pulls. A holder whose part is complete answers a pull with the range asked for, in pieces, and then the part's
checksum, marked LAST; any other pull is only taken. Of the replies, data of this rank's own image goes to its places in the image regions and to no
other byte; LAST of a part with the image's own checksum ends its pull, and with the last pull every other member is asked for an Eddy refresh (log
entries 46, 67); another checksum has the part pulled once more, and a second time is reported as module-fatal with checksum disagreement. Data of a
part handed over to this module is stored in its mirror region and nowhere else, and LAST makes its base complete and lets go an acknowledgement that
it withheld. A reply that no pull waits for is only taken (log entry 48). -/
def Obligations.MirrorTraffic : Prop :=
  ((∀ (s : State) (m : Msg) (k part off : Nat) (x : MirPart), s.member = true → s.prog.isSome = true → m.typ = 8 → m.vc = 1 → k = field m.body 6 2 → part = field m.body 5 1 →
      off = field m.body 8 8 → x = s.heldPart k →
      (m.opc = 0 →
        (s.st.run = none ∨ field m.body 0 4 ≠ s.st.stepNo ∨ field m.body 4 1 ≠ s.attempt ∨ s.partHeld k ≠ some part → exec (.mirrorStepDelta m) s = .next (s.took m)) ∧
        (s.st.run.isSome = true → field m.body 0 4 = s.st.stepNo → field m.body 4 1 = s.attempt → s.partHeld k = some part →
          ∀ y z : MirPart, y = (if x.acked then { x with pend := [], last := none, acked := false } else x) →
            z = (if m.last then { y with last := some off } else { y with pend := y.pend ++ [(off, m.body.drop 16)] }) →
            ∃ t, exec (.mirrorStepDelta m) s = .next t ∧ (t.heldPart k).pend = z.pend ∧ (t.heldPart k).last = z.last ∧
              ((t.heldPart k).acked = true ↔ z.complete = true ∧ z.last = some (runBytesTotal z.pend)) ∧
              (z.complete = true → z.last = some (runBytesTotal z.pend) → s.emits t (ackMsg s.st.stepNo s.attempt x.part k z.pend)) ∧
              s.storesSame t ∧ s.stepSame t ∧ t.host = s.host)) ∧
      (m.opc = 3 →
        (s.loadWait.isSome = true → exec (.mirrorBoundaryCopy m) s = .next s) ∧
        (s.loadWait = none → s.partHeld k ≠ some part → exec (.mirrorBoundaryCopy m) s = .next (s.took m)) ∧
        (s.loadWait = none → s.partHeld k = some part →
          (m.last = false → ∃ t, exec (.mirrorBoundaryCopy m) s = .next t ∧ t.read (s.mirrorBase k + off) (m.body.length - 16) = m.body.drop 16 ∧
            (∀ a, (a < s.mirrorBase k + off ∨ s.mirrorBase k + off + (m.body.length - 16) ≤ a) → t.byte a = s.byte a) ∧ s.stepSame t ∧ t.host = s.host ∧
            (x.complete = true ∨ s.recov.remirror = false → x.copyLast = some (runBytesTotal (x.copy ++ [(off, m.body.drop 16)])) →
              s.emits t (ackMsg (field m.body 0 4) (field m.body 4 1) x.part k (x.copy ++ [(off, m.body.drop 16)])))) ∧
          (m.last = true → ∃ t, exec (.mirrorBoundaryCopy m) s = .next t ∧ s.storesSame t ∧ s.stepSame t ∧ t.host = s.host ∧
            (x.complete = true ∨ s.recov.remirror = false → off = runBytesTotal x.copy →
              s.emits t (ackMsg (field m.body 0 4) (field m.body 4 1) x.part k x.copy) ∧ (t.heldPart k).complete = true)))) ∧
      (m.opc = 1 → m.resp = false → ∀ u : State, u = (if s.recov.exposedAt = some m.src ∧ k = s.rank then
            { s.took m with recov := { s.recov with exposed := false, exposedAt := none } } else s.took m) →
        (∃ t, exec (.mirrorAck m) s = .next t ∧ t.recov.exposed = u.recov.exposed ∧ t.recov.exposedAt = u.recov.exposedAt) ∧
        (s.mir.acks.find? (fun a => a.part == part && !a.acked) = none ∨ k ≠ s.rank ∨ (s.holders s.rank)[part]? ≠ some m.src →
          exec (.mirrorAck m) s = .next u) ∧
        ∀ a, s.mir.acks.find? (fun a => a.part == part && !a.acked) = some a → k = s.rank → (s.holders s.rank)[part]? = some m.src →
          (off = a.sum → field m.body 16 8 = a.bytes →
            ∃ t, exec (.mirrorAck m) s = .next t ∧ t.mir.acks = s.mir.acks.map (fun y => if y.part = part then { y with acked := true } else y) ∧
              s.storesSame t) ∧
          (off ≠ a.sum ∨ field m.body 16 8 ≠ a.bytes → ∀ step, step = (s.st.run.elim false fun r => r.phase == .mirror) →
            (step = false ∨ a.resent = false →
              ∃ t, exec (.mirrorAck m) s = .next t ∧ t.mir.acks = s.mir.acks.map (fun y => if y.part = part then { y with resent := true } else y) ∧
                s.storesSame t ∧ s.stepSame t ∧ t.host = s.host ∧
                ∀ y ∈ partMsgs (if step then 0 else 3) s.st.stepNo s.attempt part s.rank m.src (runsIn part s.mir.out), s.emits t y) ∧
            (step = true → a.resent = true →
              ∃ t, exec (.mirrorAck m) s = .next t ∧ u.netOnly t ∧ ∀ r ∈ s.reportTo, ∃ y ∈ t.net.sent.drop s.net.sent.length,
                y.typ = 1 ∧ y.opc = 2 ∧ y.vc = 0 ∧ y.dst = r ∧ field y.body 13 1 = 1 ∧ field y.body 14 1 = 0x06)))) ∧
   (∀ (a b : List (Nat × List Byte)), a.Perm b → runSum a = runSum b ∧ runBytesTotal a = runBytesTotal b)) ∧
  (∀ (s : State) (m : Msg) (k part off : Nat) (data : List Byte), s.member = true → s.prog.isSome = true → m.typ = 8 → m.vc = 1 → m.opc = 2 → k = field m.body 6 2 → part = field m.body 5 1 →
     off = field m.body 8 8 → data = m.body.drop 16 →
     (m.resp = false →
       (s.partHeld k ≠ some part ∨ (s.heldPart k).complete = false → exec (.mirrorPullRequest m) s = .next (s.took m)) ∧
       (s.partHeld k = some part → (s.heldPart k).complete = true →
         ∃ t, exec (.mirrorPullRequest m) s = .next t ∧ s.netOnly t ∧ ∀ y ∈ s.heldMsgs m.src k off (field m.body 16 8), s.emits t y)) ∧
     (m.resp = true → s.mach.rank = some k →
       (s.mir.pulls.find? (fun x => x.owner == k && x.part == part && !x.fin) = none → exec (.mirrorPullReply m) s = .next (s.took m)) ∧
       ∀ x, s.mir.pulls.find? (fun x => x.owner == k && x.part == part && !x.fin) = some x →
         (m.last = false → ∀ rs at_, rs = s.imageRegions s.st.wEpoch → at_ = imageOffset part off →
           ∃ t, exec (.mirrorPullReply m) s = .next t ∧ s.stepSame t ∧ t.host = s.host ∧ (∀ a, (∀ i < data.length, imageAddr rs (at_ + i) ≠ some a) → t.byte a = s.byte a) ∧
             ((∀ i j, i < data.length → j < data.length → imageAddr rs (at_ + i) = imageAddr rs (at_ + j) → imageAddr rs (at_ + i) ≠ none → i = j) →
               ∀ i a, i < data.length → imageAddr rs (at_ + i) = some a → t.byte a = nth 0 data i)) ∧
         (m.last = true → x.repair = true → ∃ t, exec (.mirrorPullReply m) s = .next t ∧ t.mir.pulls = s.mir.pulls.erase x ∧ s.storesSame t ∧ t.host = s.host) ∧
         (m.last = true → x.repair = false →
           (s.partSum part = off → ∃ t, exec (.mirrorPullReply m) s = .next t ∧
             t.mir.pulls = s.mir.pulls.map (fun y => if y.owner = x.owner ∧ y.part = x.part then { x with fin := true } else y) ∧ t.host = s.host ∧
             ((∀ y ∈ s.mir.pulls, (y.owner = x.owner ∧ y.part = x.part) ∨ y.fin = true) → ∀ o ∈ s.others, s.emits t (mkMsg 5 1 10 o (leBytes 4 t.st.stepNo ++ [0, 2] ++ zeros 10) (last := true)))) ∧
           (s.partSum part ≠ off → x.again = false → ∃ t, exec (.mirrorPullReply m) s = .next t ∧
             t.mir.pulls = s.mir.pulls.map (fun y => if y.owner = x.owner ∧ y.part = x.part then { x with again := true } else y) ∧ s.storesSame t ∧ s.stepSame t ∧ t.host = s.host ∧
             ∃ y ∈ t.net.sent.drop s.net.sent.length, y.typ = 8 ∧ y.opc = 2 ∧ y.resp = false ∧ y.dst = x.holder ∧ field y.body 5 1 = part % 256 ∧ field y.body 6 2 = k % 65536) ∧
           (s.partSum part ≠ off → x.again = true → ∃ t, exec (.mirrorPullReply m) s = .next t ∧ s.netOnly t ∧
             ∀ r ∈ s.reportTo, ∃ y ∈ t.net.sent.drop s.net.sent.length, y.typ = 1 ∧ y.opc = 2 ∧ y.vc = 0 ∧ y.dst = r ∧ field y.body 13 1 = 2 ∧ field y.body 14 1 = 0x03))) ∧
     (m.resp = true → s.mach.rank ≠ some k →
       (s.partHeld k ≠ some part → exec (.mirrorPullReply m) s = .next (s.took m)) ∧
       (s.partHeld k = some part →
         (m.last = false → ∃ t, exec (.mirrorPullReply m) s = .next t ∧ t.read (s.mirrorBase k + off) data.length = data ∧
           (∀ a, (a < s.mirrorBase k + off ∨ s.mirrorBase k + off + data.length ≤ a) → t.byte a = s.byte a) ∧ s.stepSame t ∧ t.host = s.host) ∧
         (m.last = true → ∃ t, exec (.mirrorPullReply m) s = .next t ∧ (t.heldPart k).complete = true ∧ s.storesSame t ∧ s.stepSame t ∧ t.host = s.host ∧
           ∀ x : MirPart, x = s.heldPart k → x.copyLast = some (runBytesTotal x.copy) → s.emits t (ackMsg s.st.stepNo s.attempt x.part k x.copy)))))

/-- Aborts. While the hold for events is full ABORT waits. ABORT of the attempt in progress restores retained state, goes back to the start barrier with
the next ATTEMPT and answers ACK; one of another attempt, or with no step on a member, is only answered; a spare without a step counts it once as a
replay of the step it may take over. ABORT_FINAL of the attempt in progress, or of the one that an ABORT has just ended, restores retained state too
and completes the STEP with the content code that this module detected in that attempt, or STEP_ABORTED; one of another attempt is only answered, and
on a spare it leaves no replay owed. Restoring retained state writes back, for every byte that Commit overwrote, the value it had before Commit first
stored to it, and no other byte changes. Deltas that it held pending for other ranks are discarded too (log entries 27, 54, 58). -/
def Obligations.AbortsReplay : Prop :=
  (∀ (s : State) (m : Msg) (cls cause reporter step attempt : Nat), step = field m.body 0 4 → attempt = field m.body 4 1 →
     (s.control cAbort m = true →
       (s.holdFull = true → exec (.abort m cls cause reporter) s = .next s) ∧
       (s.holdFull = false → ∃ t, exec (.abort m cls cause reporter) s = .next t ∧ s.emits t (controlMsg m.src step attempt cAck s.rank 0 0) ∧ t.nor = s.nor ∧ t.st.stepNo = s.st.stepNo ∧
         t.st.wEpoch = s.st.wEpoch ∧ t.st.committed = s.st.committed ∧
         (∀ r, s.st.run = some r → step = s.st.stepNo → attempt = r.attempt → t.mem = s.writeBack.mem ∧ t.st.undo = [] ∧ (∀ x ∈ t.mir.held, x.pend = [] ∧ x.last = none) ∧
           t.tells evRecovery (leBytes 4 step ++ leBytes 1 attempt ++ leBytes 1 cls ++ leBytes 1 cause ++ zeros 1 ++ leBytes 2 reporter) ∧
           t.st.run = some { r with phase := .waitStart, attempt := (r.attempt + 1) % 256, replays := r.replays + 1, hop := 0, fault := none, prior := r.fault, rescaled := false }) ∧
         ((∀ r, s.st.run = some r → step ≠ s.st.stepNo ∨ attempt ≠ r.attempt) → s.st.run.isSome = true ∨ s.mach.rank.isSome = true → s.netOnly t) ∧
         (s.st.run = none → s.mach.rank = none → s.storesSame t ∧ t.st.run = none ∧ t.st.lastAttempt = some (step, attempt) ∧
           (s.st.lastAttempt ≠ some (step, attempt) →
             t.st.owedReplays = (if s.st.lastAttempt.elim false (fun x => x.1 == step) then s.st.owedReplays else 0) + 1)))) ∧
     (s.control cAbortFinal m = true →
       ∃ t, exec (.abortFinal m) s = .next t ∧ s.emits t (controlMsg m.src step attempt cAck s.rank 0 0) ∧ t.nor = s.nor ∧ t.st.stepNo = s.st.stepNo ∧ t.st.wEpoch = s.st.wEpoch ∧
         (∀ r, s.st.run = some r → step = s.st.stepNo → finalNames r attempt = true → (s.ring r.ring).busy.isSome = true →
           (s.st.waiting = [] → t.st.run = none) ∧ (s.st.acts = [] → t.mem = s.writeBack.mem ∧ ∀ x ∈ t.mir.held, x.pend = [] ∧ x.last = none) ∧
           s.ended r.ring { status := (faultIn r attempt).getD .stepAborted, info := if r.exec then 1 else r.epoch, step := s.st.stepNo, replays := r.replays,
                            detector := (faultIn r attempt).isSome } t) ∧
         ((∀ r, s.st.run = some r → step ≠ s.st.stepNo ∨ finalNames r attempt = false) → s.st.run.isSome = true ∨ s.mach.rank.isSome = true → s.netOnly t) ∧
         (s.st.run = none → s.mach.rank = none → s.storesSame t ∧ t.st.run = none ∧ t.st.lastAttempt = some (step, attempt) ∧ t.st.owedReplays = 0))) ∧
  (∀ (s : State) (writes : List (Nat × List Byte)), s.st.undo = [] →
     ∀ a, (writes.foldl (fun s w => s.writeUndo w.1 w.2) s).writeBack.byte a = s.byte a)

/-- Failures. A report older than the attempt in progress is only taken; any other is kept. A module that is not the coordinator does no more, except that
a module reported lost is known to be lost. The coordinator acts on the report: a step-transient failure of the attempt in progress aborts it on every
live member, finally once the replay limit is passed; a content fault aborts it finally, and neither changes anything but the network and the
coordinator's own records. Once the commit barrier has completed at its root no report aborts the step. With the step ended by an ABORT that another
coordinator sent, ABORT_FINAL is repeated. A probe is answered with ACK, and changes nothing else. An ACK ends the probe of its sender, a spare's
those of spares, and is kept. A probed module that has not answered in time is lost, and its rank goes to the eligible spare, which every live member,
the lost module and the spare hear, or without one every live member falls back; a spare is lost as a member, which the others hear; a rank that no
probe waits for is left alone. A recovery register whose parity disagrees halts the coordinator that acts by it (log entries 54, 55, 56, 104). -/
def Obligations.FailuresDecided : Prop :=
  ∀ (s : State) (m : Msg) (v : Survey) (f : Nat × Nat × Nat), s.member = true →
    f = (if s.rootCommits = true then ((s.st.stepNo + 1) % 2 ^ 32, 0, s.st.stepNo) else (s.st.stepNo, s.comingAttempt, s.lastCommitted)) →
    (m.typ = 1 → m.opc = 2 → m.vc = 0 → ∀ x, x = reportOf m →
      (s.stale x = true → exec (.failureReport ⟨m, v⟩) s = .next (s.took m)) ∧
      (s.stale x = false → ∀ (u : State), u = { s with recov := { s.recov with reports := s.recov.reports ++ [x] } } →
        (s.coordinates = false → u.namesLost v x = false →
          ∃ t, exec (.failureReport ⟨m, v⟩) s = .next t ∧ t.recov = u.recov ∧ { t with net := s.net, recov := s.recov } = s) ∧
        (s.coordinates = false → ∀ q, s.regs.recovery.ok = true → u.namesLost v x = true → s.rankHeld x.suspect = some q →
          ∃ t, exec (.failureReport ⟨m, v⟩) s = .next t ∧ q ∈ t.recov.lost ∧ s.storesSame t ∧ t.st = s.st ∧ t.host = s.host) ∧
        (s.coordinates = true → u.namesLost v x = false → s.regs.recovery.ok = false → ∃ t, exec (.failureReport ⟨m, v⟩) s = .next t ∧ s.haltedFor 0x1 t) ∧
        (s.coordinates = true → s.regs.recovery.ok = true → s.rootCommits = true → x.cls = 1 ∨ x.cls = 3 → exec (.failureReport ⟨m, v⟩) s = .next { s.took m with recov := u.recov }) ∧
        (s.coordinates = true → s.regs.recovery.ok = true → s.st.run = none → s.recov.fallback = false → s.st.lastAttempt = some (s.st.stepNo, x.attempt) → x.step = s.st.stepNo → x.cls = 1 ∨ x.cls = 3 →
          s.recov.aborting ≠ some x.attempt → ∃ t, exec (.failureReport ⟨m, v⟩) s = .next t ∧ ∀ k ∈ s.liveRanks, s.emits t (controlMsg k s.st.stepNo x.attempt cAbortFinal 0 0 0)) ∧
        (∀ r final, s.coordinates = true → s.regs.recovery.ok = true → s.rootCommits = false → s.st.run = some r → s.begunAttempt = some x.attempt → x.step = s.st.stepNo → (x.cls = 1 ∧ final = false ∧ s.recov.aborting ≠ some x.attempt) ∨ (x.cls = 3 ∧ final = true) →
          ∃ t, exec (.failureReport ⟨m, v⟩) s = .next t ∧ x ∈ t.recov.reports ∧ { t with net := s.net, ctr := s.ctr, recov := s.recov } = s ∧
            ∀ k ∈ s.liveRanks, s.emits t (controlMsg k s.st.stepNo x.attempt (if final || decide (s.replayLimit < r.replaysBy) then cAbortFinal else cAbort) 0 0 0)))) ∧
    (s.control cProbe m = true →
      ∃ t, exec (.probe m) s = .next t ∧ s.netOnly t ∧ s.emits t (controlMsg m.src (field m.body 0 4) (field m.body 4 1) cAck s.rank 0 0)) ∧
    (s.control cAck m = true →
      ∃ t, exec (.recoveryAck m) s = .next t ∧ m.src ∉ t.recov.probing ∧ m.src ∈ t.recov.acks ∧ (∀ k ∈ s.recov.probing, k ≠ m.src → (m.src = s.spareRank → k < 2 ^ 16) → k ∈ t.recov.probing) ∧ { t with net := s.net, recov := s.recov } = s) ∧
    ∀ k, (s.coordinates = false ∨ k ∉ s.recov.probing → exec (.probeTimeout ⟨k, v⟩) s = .next s) ∧
      (s.coordinates = true → s.recov.probing.contains k = true → 2 ^ 16 ≤ k →
        ∃ t, exec (.probeTimeout ⟨k, v⟩) s = .next t ∧ k ∉ t.recov.probing ∧ k - 2 ^ 16 ∉ t.mach.joinSeen ∧ s.storesSame t ∧ ∀ o ∈ s.others, s.emits t (leaveNotice (k - 2 ^ 16) o)) ∧
      (s.coordinates = true → s.recov.probing.contains k = true → k < 2 ^ 16 → s.regs.recovery.ok = false → ∃ t, exec (.probeTimeout ⟨k, v⟩) s = .next t ∧ s.haltedFor 0x1 t) ∧
      (s.coordinates = true → s.recov.probing.contains k = true → k < 2 ^ 16 → s.regs.recovery.ok = true →
        ∃ t, exec (.probeTimeout ⟨k, v⟩) s = .next t ∧ k ∈ t.recov.lost ∧ { t with net := s.net, ctr := s.ctr, recov := s.recov } = s ∧
          (∀ pos, (s.markLost k).eligible v k = some pos → ∀ o, o ∈ (s.markLost k).liveRanks ∨ o = k →
            s.emits t (controlMsg o f.1 f.2.1 cSubstitute k pos f.2.2)) ∧
          ((s.markLost k).eligible v k = none → ∀ o ∈ (s.markLost k).liveRanks, s.emits t (controlMsg o f.1 0 cFallback 0 0 f.2.2)))

/-- A module that SUBSTITUTE names as moved away, by its own rank at another position, halts with reason 0x8 at once. Otherwise it waits while the hold
for events is full, and one for this spare until the ABORT that was sent before it has come; a rank beyond the machine's, or one already at the
position, is only answered. Otherwise the rank's new position is installed: on another member, which arrives at a FLOOR barrier with its levels, and
on the spare, which takes the rank, the step number and the rank's placement with the owner table, clears its mirror regions, stores nothing else, and
pulls every part of the rank's image; and SUBSTITUTED is posted. FALLBACK is in force from then on: the step in progress ends with PEER_LOST, as do
every EVAL and a command that waits for a lost holder, and the step number stays (log entries 27, 35, 58, 64, 138). -/
def Obligations.Substitution : Prop :=
  ∀ (s : State) (m : Msg),
    (∀ k pos, s.control cSubstitute m = true → k = field m.body 6 2 → pos = field m.body 8 2 →
      (s.mach.rank = some k → s.ms.position ≠ pos → ∃ t, exec (.substitute m) s = .next t ∧ s.haltedFor 0x8 t) ∧
      (s.mach.rank ≠ some k ∨ s.ms.position = pos → s.holdFull = true ∨ (s.mach.rank = none ∧ s.ms.position = pos ∧ s.abortFirst m = true) → exec (.substitute m) s = .next s) ∧
      (s.holdFull = false → (s.mach.rank = none → s.ms.position = pos → s.abortFirst m = false) →
        (s.mach.rank ≠ some k ∨ s.ms.position = pos → s.ranks ≤ k ∨ nth 0 s.mach.ranks k = pos →
          ∃ t, exec (.substitute m) s = .next t ∧ s.netOnly t ∧ s.emits t (controlMsg m.src (field m.body 0 4) (field m.body 4 1) cAck s.rank 0 0)) ∧
        (s.mach.rank ≠ some k ∨ s.ms.position = pos → k < s.ranks → nth 0 s.mach.ranks k ≠ pos →
          ∃ t, exec (.substitute m) s = .next t ∧ nth 0 t.mach.ranks k = pos ∧ (∀ j, j ≠ k → nth 0 t.mach.ranks j = nth 0 s.mach.ranks j) ∧
            (t.barrier 3).own = some (0, 0, s.levels) ∧
            t.tells evSubstituted (leBytes 2 k ++ leBytes 2 (nth 0 s.mach.ranks k) ++ leBytes 2 pos ++ zeros 2 ++ leBytes 4 (field m.body 10 4) ++ leBytes 4 (field m.body 0 4)) ∧ t.nor = s.nor ∧ t.fuse = s.fuse ∧
            (s.mach.rank.isSome = true ∨ s.ms.position ≠ pos → t.mach.rank = s.mach.rank ∧ t.st.stepNo = s.st.stepNo ∧ t.prog = s.prog) ∧
            (s.mach.rank = none → s.ms.position = pos → t.mach.rank = some k ∧ t.st.stepNo = field m.body 0 4 ∧ t.st.committed = some (field m.body 10 4) ∧
              t.mir.pulls.map (fun p => (p.owner, p.part)) = (List.range (t.holders k).length).map (fun j => (k, j)) ∧
              t.recov.subst = true ∧ t.recov.remirror = true ∧
              ∀ (p : Program) (place : Placement) (ms : List Region), s.prog = some p → place = ((p.spares.find? fun e => e.1 == k).map (·.2)).getD p.place →
                ms = (t.holders k).map (fun o => { base := t.mirrorBase o, len := t.heldLen ((t.partHeld o).getD 0) }) →
                t.prog.map (·.place) = some place ∧ s.outside t ({ base := place.partTable, len := (ownerTable p.decl).length } :: ms) ∧
                (∀ x ∈ ms, ∀ i < x.len, t.byte (x.base + i) = 0) ∧
                ((∀ x ∈ ms, overlaps x { base := place.partTable, len := (ownerTable p.decl).length } = false) →
                  t.read place.partTable (ownerTable p.decl).length = ownerTable p.decl))))) ∧
    (s.control cFallback m = true → ∃ t, exec (.fallback m) s = .next t ∧ t.recov.fallback = true ∧ t.st.run = none ∧ t.st.evals = [] ∧ t.st.stepNo = s.st.stepNo ∧ t.nor = s.nor ∧
      t.mir.waiting = [] ∧ t.recov.remirror = false ∧ (t.barrier 3).own = none ∧
      (∀ r, s.st.run = some r → (s.ring r.ring).busy.isSome = true →
        s.ended r.ring { status := .peerLost, info := if r.exec then 1 else r.epoch, step := s.st.stepNo, replays := r.replays } t) ∧
      ∀ e, s.st.run = none → s.st.evals = [e] → (s.ring e.ring).busy.isSome = true → s.ended e.ring { status := .peerLost, info := e.info, step := e.pinned } t) ∧
    (∀ w, s.control cFallback m = true → s.st.run = none → s.st.evals = [] → s.st.reserving = none → s.st.applied = [] → s.mir.waiting = [w] → (s.ring w.1).busy.isSome = true →
      ∃ t, exec (.fallback m) s = .next t ∧ s.ended w.1 { status := .peerLost, step := w.2.2 } t)

/-! ### Yenos Link and memory tiers (08, 10) -/

/-- Training. At the retry tick a DOWN or HELD port that the map describes trains again; any other port stays. A training port sends its own identity
frame; of the copies that arrive it takes one that at least 33 agree on, with a valid CRC: one that keeps the checks is taken, one that does not holds
the port with its reason, and one that CABLE_MISMATCH would tell of for the first time waits while the hold for events is full. Training on at least 8
lanes that pass in both directions, with at most 10 errors each, brings the port UP at the largest width of 10 R237, on the lowest of them,
advertising the credits of its preset, with none withheld; a retraining keeps its place in the sequence and its unacknowledged flits, whose replay
counts. A training that ends with fewer lanes, or without an end, is DOWN. A retraining that has not come UP in time is DOWN and loses its flits. In
another state each of these changes nothing (log entries 20, 27, 121). -/
def Obligations.PortsTrain : Prop :=
  ∀ (s : State) (p : Nat),
    (s.trains = false ∨ s.describes p = false ∨ ((s.port p).st ≠ .down ∧ (s.port p).st ≠ .held) → exec (.portRetryTick p) s = .next s) ∧
    (s.trains = true → s.describes p = true → (s.port p).st = .down ∨ (s.port p).st = .held →
      ∃ t, exec (.portRetryTick p) s = .next t ∧ t.port p = { s.port p with st := .training, checked := false } ∧ (∀ q, q ≠ p → t.port q = s.port q) ∧
        { t with net := s.net } = s) ∧
    (∀ copies r, s.trains = false ∨ (s.port p).st ≠ .training →
      exec (.portTrainingCheck p copies) s = .next s ∧ exec (.portTrainingComplete p r) s = .next s ∧ exec (.portTrainingTimeout p) s = .next s) ∧
    (∀ copies f, s.trains = true → (s.port p).st = .training → takenFrame copies = some f → (s.frameReason p f).isSome = true → (s.port p).lastBad ≠ some f → s.holdFull = true →
      exec (.portTrainingCheck p copies) s = .next { s with ind := { s.ind with ident := s.ind.ident.set [] p f } }) ∧
    (∀ copies, s.trains = true → (s.port p).st = .training →
      (∀ f, takenFrame copies = some f → (s.frameReason p f).isSome = true → (s.port p).lastBad ≠ some f → s.holdFull = false) →
      ∃ t, exec (.portTrainingCheck p copies) s = .next t ∧ (t.port p).identSent = s.identityFrame p ∧ (∀ q, q ≠ p → t.port q = s.port q) ∧ s.storesSame t ∧ s.stepSame t ∧
        (takenFrame copies = none → t.port p = { s.port p with identSent := s.identityFrame p } ∧ s.netOnly t) ∧
        ∀ f, takenFrame copies = some f → t.ind.ident.get [] p = f ∧
          (s.frameReason p f = none → (t.port p).st = .training ∧ (t.port p).checked = true ∧ (t.port p).rate224 = decide (0x30 ≤ field f 5 1) ∧ (t.port p).nbrPos = bits (field f 0 2) 0 14 ∧ (t.port p).ylver = min 0x32 (field f 5 1)) ∧
          ∀ x, s.frameReason p f = some x → (t.port p).st = .held ∧ (t.port p).reason = x) ∧
    (s.trains = true → (s.port p).st = .training → ∀ r n, n = passCount (lanesPassing r) →
      ((s.port p).checked = false → exec (.portTrainingComplete p r) s = .next s) ∧
      ((s.port p).checked = true → 8 ≤ n → ∃ t, exec (.portTrainingComplete p r) s = .next t ∧ (t.port p).st = .up ∧ (t.port p).width = widthFor n ∧
        (t.port p).active = lowestLanes (lanesPassing r) (widthFor n) ∧ (t.port p).adv = s.presetCredits p ∧ (t.port p).owed = [] ∧
        t.counter (cPort p 0) = s.counter (cPort p 0) + (if (s.port p).retraining = true ∧ (s.port p).replay ≠ [] then 1 else 0) ∧
        (t.port p).rxSeq = (if (s.port p).retraining then (s.port p).rxSeq else 65535) ∧ ((s.port p).retraining = true → (s.port p).replay <+: (t.port p).replay) ∧
        (s.net.unrouted = [] → ∀ q, q ≠ p → t.port q = s.port q) ∧ s.storesSame t ∧ s.stepSame t ∧ t.host = s.host) ∧
      ((s.port p).checked = true → n < 8 → ∃ t, exec (.portTrainingComplete p r) s = .next t ∧ t.port p = { s.port p with st := .down, checked := false } ∧
        (∀ q, q ≠ p → t.port q = s.port q) ∧ s.netOnly t)) ∧
    (s.trains = true → (s.port p).st = .training →
      ∃ t, exec (.portTrainingTimeout p) s = .next t ∧ t.port p = { s.port p with st := .down, checked := false } ∧ (∀ q, q ≠ p → t.port q = s.port q) ∧ s.netOnly t) ∧
    (s.trains = false ∨ (s.port p).retraining = false ∨ (s.port p).st = .up → exec (.retrainTimeout p) s = .next s) ∧
    (s.trains = true → (s.port p).retraining = true → (s.port p).st ≠ .up →
      ∃ t, exec (.retrainTimeout p) s = .next t ∧ (t.port p).st = .down ∧ (t.port p).width = 0 ∧ (t.port p).replay = [] ∧ (t.port p).txq = [] ∧
        s.storesSame t ∧ s.stepSame t ∧ t.host = s.host)

/-- Flits, lane drops and silence act on an UP port only. A flit in a codeword with more than 30 wrong symbols, or that breaks its layout or its CRC, is
discarded with what it carries, and a NAK goes; so it is with a DATA flit out of sequence, but for a NAK once one has gone. A DATA flit in sequence is
taken; a message that it holds whole, addressed to this rank and allowed, is delivered if its MSGID is new or it comes again after its discard, and
not otherwise. An IDLE or CTRL flit delivers nothing, and the flits after the one that it acknowledges stay to be sent again. A NAK has those sent
again at once, with the acknowledgement of now, which counts as a replay; after eight tries at one of them the port retrains. Lanes that no longer
pass leave the port on the lowest of those left, at the width that their number allows, its unacknowledged flits kept and, on other lanes, sent again;
LINK_DEGRADED tells of another width, for which a full hold for events is waited for; with fewer than 8, and when the port has been silent, the port
goes DOWN and its flits are lost (log entries 27, 121). -/
def Obligations.FlitsArrive : Prop :=
  ∀ (s : State) (p : Nat) (f : List Byte) (wrong : List (List Nat)) (corrected : Bool) (passing : BitVec 24),
    corrected = wrong.all (fun l => decide (((List.range 560).filter fun i => l.contains i).length ≤ 30)) →
    (s.trains = false ∨ (s.port p).st ≠ .up →
      exec (.flitReceive p ⟨f, wrong⟩) s = .next s ∧ exec (.laneDrop p passing) s = .next s ∧ exec (.portSilenceTimeout p) s = .next s) ∧
    (s.trains = true → (s.port p).st = .up →
      ((corrected && flitOk f) = false ∨ (bits (field f 0 1) 0 4 = 1 ∧ field f 2 2 ≠ ((s.port p).rxSeq + 1) % 65536 ∧ (s.port p).nakSent = false) →
        ∃ t, exec (.flitReceive p ⟨f, wrong⟩) s = .next t ∧ (s.generates p = false → (p, mkFlit 0 2 4 0 (s.port p).rxSeq 0 0 []) ∈ t.net.wire.drop s.net.wire.length) ∧ { t with net := s.net } = s ∧
          (t.port p).nakSent = true ∧ (t.port p).rxSeq = (s.port p).rxSeq ∧ (t.port p).replay = (s.port p).replay ∧ (t.port p).credits = (s.port p).credits ∧
          (∀ q, q ≠ p → t.port q = s.port q) ∧ t.net.inbox = s.net.inbox) ∧
      ((corrected && flitOk f) = true → bits (field f 0 1) 0 4 = 1 → field f 2 2 ≠ ((s.port p).rxSeq + 1) % 65536 → (s.port p).nakSent = true →
        exec (.flitReceive p ⟨f, wrong⟩) s = .next s) ∧
      ((corrected && flitOk f) = true → bits (field f 0 1) 0 4 = 1 → field f 2 2 = ((s.port p).rxSeq + 1) % 65536 →
        ∃ t, exec (.flitReceive p ⟨f, wrong⟩) s = .next t ∧ (t.port p).rxSeq = field f 2 2 ∧ s.storesSame t ∧ t.host = s.host ∧
          (bits (field f 1 1) 1 1 = 0 → t.net.inbox = s.net.inbox) ∧
          ∀ m, bits (field f 1 1) 0 2 = 3 → msgOf (flitVc f) (slice f 12 (field f 8 2)) = some m → m.typ ≠ 7 → s.mach.rank = some m.dst → s.member = true ∨ joinMsg m = true →
            headerReservedOk s.spareRank (slice f 12 (field f 8 2)) = true → msgAllowed m = true →
            t.net.inbox = s.net.inbox ++
              if ((s.net.dup.get DupRec.fresh (m.src * 16 + flitVc f)).accept m.id).1 || s.comesAgain m then [m] else []) ∧
      ((corrected && flitOk f) = true → bits (field f 0 1) 0 4 ≠ 1 →
        ∃ t, exec (.flitReceive p ⟨f, wrong⟩) s = .next t ∧ (t.port p).rxSeq = (s.port p).rxSeq ∧ t.net.inbox = s.net.inbox ∧ s.storesSame t ∧ s.stepSame t ∧ t.host = s.host ∧
          (s.port p).replay.drop (ackedCount (s.port p).replay (field f 4 2)) <+: (t.port p).replay ∧
          ∀ l, l = (s.port p).replay.drop (ackedCount (s.port p).replay (field f 4 2)) → bits (field f 1 1) 2 1 = 1 → l ≠ [] →
            ((ackedCount (s.port p).replay (field f 4 2) ≠ 0 ∨ (s.port p).tries < 8) → (t.port p).st ≠ .training ∧ t.counter (cPort p 0) = s.counter (cPort p 0) + 1 ∧
              (s.generates p = false → ∀ e ∈ l, (p, stampFlit e.2.flit e.1 (s.port p).rxSeq) ∈ t.net.wire.drop s.net.wire.length)) ∧
            (ackedCount (s.port p).replay (field f 4 2) = 0 → 8 ≤ (s.port p).tries → (t.port p).st = .training ∧ (t.port p).retraining = true ∧ (t.port p).replay = l ∧
              t.counter (cPort p 1) = s.counter (cPort p 1) + 1)) ∧
      (∀ left w, left = (s.port p).passed &&& passing → w = widthFor (passCount left) →
        (w ≠ 0 → w ≠ (s.port p).width → s.holdFull = true → exec (.laneDrop p passing) s = .next s) ∧
        (w ≠ 0 → w = (s.port p).width ∨ s.holdFull = false → ∃ t, exec (.laneDrop p passing) s = .next t ∧ (w ≠ (s.port p).width → t.tells evLinkDegraded (leBytes 1 p ++ leBytes 1 (s.port p).width ++ leBytes 1 w)) ∧
          t.counter (cPort p 0) = s.counter (cPort p 0) + (if lowestLanes left w ≠ (s.port p).active ∧ (s.port p).replay ≠ [] then 1 else 0) ∧ (t.port p).st = .up ∧ (t.port p).width = w ∧ (t.port p).active = lowestLanes left w ∧
          (t.port p).replay = (s.port p).replay ∧ (t.port p).txq = (s.port p).txq ∧ (∀ q, q ≠ p → t.port q = s.port q) ∧ s.storesSame t ∧ s.stepSame t) ∧
        (w = 0 → ∃ t, exec (.laneDrop p passing) s = .next t ∧ (t.port p).st = .down ∧ (t.port p).width = 0 ∧ (t.port p).replay = [] ∧ (t.port p).txq = [] ∧
          s.storesSame t ∧ s.stepSame t ∧ t.host = s.host)) ∧
      ∃ t, exec (.portSilenceTimeout p) s = .next t ∧ (t.port p).st = .down ∧ (t.port p).width = 0 ∧ (t.port p).replay = [] ∧ (t.port p).txq = [] ∧
        s.storesSame t ∧ s.stepSame t ∧ t.host = s.host)

/-- Heartbeats and what their absence leads to. At the tick every UP port has one more flit to send; a heartbeat on an UP port tells the neighbour's
position and state, and changes nothing else but the network side; a member none of whose ports is UP halts with reason 0x7, its commands in progress,
but for a STEP, ending with PEER_LOST, and no other module does. A message reported lost that the module sends again keeps its MSGID while at most
32,768 later ones have been sent there, and waits for a route if it has none; otherwise it is sent with a new one. A report of a message that the
module does not send again changes only the network side; one of the step in progress that was lost on its way is reported as a step-transient
failure. The watchdog's expiry is counted: a wait within a step is reported as a step-transient failure; at the start barrier the STEP, and at a
WINDOW barrier an export that waits for it, end with TIMEOUT; a LOAD_PROGRAM that waits for verdicts ends with RESOURCE_SHORT. Without a wait nothing
expires, and a watchdog register whose parity disagrees halts the module (log entries 23, 24, 104). -/
def Obligations.Heartbeats : Prop :=
  ∀ s : State,
    (s.trains = false → exec .heartbeatTick s = .next s) ∧
    (s.trains = true → ∃ t, exec .heartbeatTick s = .next t ∧ s.netOnly t ∧ t.net.inbox = s.net.inbox ∧ t.net.sent = s.net.sent ∧
      ∀ p, (t.port p).st = (s.port p).st ∧ (t.port p).replay.length + (t.port p).txq.length = (s.port p).replay.length + (s.port p).txq.length +
        (if p < 18 ∧ (s.port p).st = .up then 1 else 0)) ∧
    (∀ p m, (s.trains = false ∨ (s.port p).st ≠ .up → exec (.heartbeat p m) s = .next s) ∧
      (s.trains = true → (s.port p).st = .up → ∃ t, exec (.heartbeat p m) s = .next t ∧ s.netOnly t ∧ (t.port p).nbrPos = field m.body 0 2 ∧ (t.port p).nbrState = field m.body 2 1 ∧
        ∀ q, (t.port q).st = (s.port q).st ∧ (q ≠ p → (t.port q).nbrPos = (s.port q).nbrPos ∧ (t.port q).nbrState = (s.port q).nbrState))) ∧
    (s.member = true → (∀ p < 18, (s.port p).st ≠ .up) → ∃ t, exec .allPortsDownTimeout s = .next t ∧ s.haltedFor 0x7 t ∧
      ∀ n i d, (s.ring n).busy = some (i, d) → descOp d ≠ 0x04 → s.ended n { status := .peerLost, info := (s.cutShort n d).2, step := (s.cutShort n d).1 } t) ∧
    (s.member = false ∨ (∃ p < 18, (s.port p).st = .up) → exec .allPortsDownTimeout s = .next s) ∧
    (∀ dst vc id discarded l, s.member = true → l = s.net.sent.filter (fun m => m.dst == dst && m.vc == vc && m.id % 2 ^ 32 == id && s.sendsAgain discarded m) →
      (∀ m ∈ s.net.sent, m.dst = dst → m.vc = vc → m.id % 2 ^ 32 = id → s.stepTraffic m = true → discarded = false →
        ∃ t, exec (.lostMessageReport dst vc ⟨id, discarded⟩) s = .next t ∧ s.netOnly t ∧ ∀ r ∈ s.reportTo, s.emits t (mkMsg 1 2 0 r (s.reportBody 1 0x02 0 s.ms.position 0xFF 0xFF r))) ∧
      ((discarded = true ∨ ∀ m ∈ s.net.sent, m.dst = dst → m.vc = vc → m.id % 2 ^ 32 = id → s.stepTraffic m = false) →
      (l = [] → ∃ t, exec (.lostMessageReport dst vc ⟨id, discarded⟩) s = .next t ∧ s.netOnly t ∧ t.net.sent = s.net.sent ∧ ∀ p, t.port p = s.port p) ∧
      ∀ m n, l = [m] → n = (s.net.msgid.get 0 (dst * 16 + vc) + 2 ^ 32 - id) % 2 ^ 32 →
        ∃ t, exec (.lostMessageReport dst vc ⟨id, discarded⟩) s = .next t ∧ s.netOnly t ∧
          (m.id < 2 ^ 32 → n ≤ 32768 → n ≠ 0 → s.stepTraffic m = false → t.net.sent = s.net.sent ∧ (s.routePort dst = none → m ∈ t.net.unrouted) ∧
            ∀ q, s.routePort dst = some q → (t.port q).replay.length + (t.port q).txq.length = (s.port q).replay.length + (s.port q).txq.length + (flitsOf m).length) ∧
          (2 ^ 32 ≤ m.id ∨ 32768 < n ∨ n = 0 → s.emits t m))) ∧
    (s.live = false ∨ s.wd = none → exec .watchdogExpiry s = .next s) ∧
    (∀ w, s.live = true → s.wd = some w → s.regs.watchdog.ok = false → ∃ t, exec .watchdogExpiry s = .next t ∧ s.haltedFor 0x1 t) ∧
    (∀ w, s.live = true → s.wd = some w → s.regs.watchdog.ok = true →
      (s.st.run.isSome = true → w = .sampleExchange ∨ w = .gatherExchange ∨ w = .layerSlice ∨ w = .programBarrier ∨ w = .reduction ∨ w = .finiteAnd ∨ w = .commitBarrier →
        ∃ t, exec .watchdogExpiry s = .next t ∧ t.wd = none ∧ t.counter cWatchdog = s.counter cWatchdog + 1 ∧ s.storesSame t ∧ s.stepSame t ∧
          t.host = s.host ∧ ∀ r ∈ s.reportTo, s.emits t (mkMsg 1 2 0 r (s.reportBody 1 0x04 0 s.ms.position 0xFF 0xFF r))) ∧
      (∀ r, w = .stepStart → s.st.run = some r → s.st.evals = [] → (s.ring r.ring).busy.isSome = true →
        ∃ t, exec .watchdogExpiry s = .next t ∧ (s.st.acts = [] → s.st.waiting = [] → t.wd = none ∧ t.st.run = none ∧ t.st.lastAttempt = s.st.lastAttempt) ∧ t.st.stepNo = s.st.stepNo ∧
          s.ended r.ring { status := .timeout, info := if r.exec then 1 else r.epoch, step := s.st.stepNo, replays := r.replays } t) ∧
      (∀ e, w = .window → s.st.evals = [e] → e.evidence = true → e.drawing = false → e.hop = 0 → (s.ring e.ring).busy.isSome = true →
        ∃ t, exec .watchdogExpiry s = .next t ∧ s.ended e.ring { status := .timeout, step := e.pinned } t ∧ t.st.stepNo = s.st.stepNo ∧ s.storesSame t) ∧
      ∀ x, w = .load → s.loadWait = some x → (s.ring x.ring).busy.isSome = true →
        ∃ t, exec .watchdogExpiry s = .next t ∧ s.ended x.ring { status := .resourceShort } t ∧ t.loadWait = none ∧ s.storesSame t ∧ s.stepSame t)

/-- Remote accesses. A WRITE to a place of this rank that remote writes may name stores exactly its data, and on the channel of a layer-slice group with
its sender in it counts for the layer; nothing else changes but the wait for the layer. A READ of a place of this rank, of at most one message, is
answered with the data and changes nothing but the network; a reply's data is stored where it was asked for, and nowhere else. Any other access stores
nothing, and is the content fault INDEX_RANGE of a step that has none yet (log entries 26, 112, 120). -/
def Obligations.RemoteAccesses : Prop :=
  ∀ (s : State) (m : Msg) (g : Nat), s.member = true → g = field m.body 0 8 →
    (m.typ = 1 → m.opc = 0 → ∀ ok, ok = (s.globalOk g && s.mach.rank == some (globalRank g) && s.remoteWrites (bits g 0 48) (m.body.drop 8).length) →
      (ok = true →
        ∃ t, exec (.remoteWrite m) s = .next t ∧ t.read (bits g 0 48) (m.body.drop 8).length = m.body.drop 8 ∧
          s.outside t [{ base := bits g 0 48, len := (m.body.drop 8).length }] ∧ { t with mem := s.mem, net := s.net, ex := s.ex, wd := s.wd } = s ∧
          (s.wd ≠ some .layerSlice → t.wd = s.wd) ∧
          t.ex = { s.ex with slices := s.ex.slices ++
            if s.st.run.isSome && s.layerGroups.any fun x => x.vc == m.vc && x.members.contains m.src then [(m.vc, m.src, (m.body.drop 8).length)] else [] }) ∧
      (ok = false →
        (∀ r, s.st.run = some r → r.fault = none → ∃ t, exec (.remoteWrite m) s = .next t ∧ s.storesSame t ∧ t.host = s.host ∧ t.st.run = some { r with fault := some .indexRange }) ∧
        (s.st.run = none ∨ (∃ r, s.st.run = some r ∧ r.fault.isSome = true) → exec (.remoteWrite m) s = .next (s.took m)))) ∧
    (m.typ = 2 → m.opc = 0 → m.resp = false → ∀ n ok, n = field m.body 8 8 →
      ok = (decide (n ≤ 65536) && s.globalOk g && s.mach.rank == some (globalRank g) && s.remoteReads (bits g 0 48) n) →
      (ok = true → ∃ t, exec (.remoteRead m) s = .next t ∧ s.netOnly t ∧ s.emits t (mkMsg 2 0 m.vc m.src (s.read (bits g 0 48) n) true true)) ∧
      (ok = false →
        (∀ r, s.st.run = some r → r.fault = none → ∃ t, exec (.remoteRead m) s = .next t ∧ s.storesSame t ∧ t.host = s.host ∧ t.st.run = some { r with fault := some .indexRange }) ∧
        (s.st.run = none ∨ (∃ r, s.st.run = some r ∧ r.fault.isSome = true) → exec (.remoteRead m) s = .next (s.took m)))) ∧
    ∀ dst, m.typ = 2 → m.resp = true →
      (s.dmaWrites dst m.body.length = true →
        ∃ t, exec (.remoteReadReply m dst) s = .next t ∧ t.read dst m.body.length = m.body ∧ s.outside t [{ base := dst, len := m.body.length }] ∧
          { t with mem := s.mem, net := s.net } = s) ∧
      (s.dmaWrites dst m.body.length = false →
        (∀ r, s.st.run = some r → r.fault = none → ∃ t, exec (.remoteReadReply m dst) s = .next t ∧ s.storesSame t ∧ t.host = s.host ∧ t.st.run = some { r with fault := some .indexRange }) ∧
        (s.st.run = none ∨ (∃ r, s.st.run = some r ∧ r.fault.isSome = true) → exec (.remoteReadReply m dst) s = .next (s.took m)))

/-- Messages survive their flits: cutting a message into flits and joining what the flits carry gives the message back, at every value that its header can
hold and every body that a message may have. -/
def Obligations.MessagesRoundTrip : Prop :=
  ∀ m : Msg, m.typ < 16 → m.opc < 16 → m.links < 8 → m.src < 2 ^ 16 → m.dst < 2 ^ 16 → m.id < 2 ^ 32 → m.body.length ≤ 65536 →
    msgOf m.vc (((flitsOf m).map fun f => slice f.flit 12 (field f.flit 8 2)).flatten) = some m

/-- Tiers. A tier that fails outright sets its bit of mem.tier_status and halts the module with reason 0x2: every command in progress but a STEP ends with
TIER_FAULT, and a STEP posts nothing. Garbage collection below 2 % of free blocks, wear levelling beyond 500 cycles above the average and a refresh
from 50,000 reads on show the blocks that they leave in the flash registers and the gauges and change nothing else, unless fewer than 1 % remain as
replacements: then flash is read-only, which is a tier fault. Short of those limits they do nothing (log entry 142). -/
def Obligations.TierFaults : Prop :=
  ∀ (s : State) (f : FlashBlocks) (n k : Nat), s.live = true →
    (∃ t, exec .flashControllerTimeout s = .next t ∧ s.haltedFor 0x2 t ∧ t.tier.flashFault = true) ∧
    (n < 256 → ∃ t, exec (.interfaceLockLoss n) s = .next t ∧ s.haltedFor 0x2 t ∧ t.tier.hbmFault = true) ∧
    (∃ t, exec .dramLinkTrainingLoss s = .next t ∧ s.haltedFor 0x2 t ∧ t.tier.dramFault = true) ∧
    (∀ c t, c = .flashControllerTimeout ∨ (n < 256 ∧ c = .interfaceLockLoss n) ∨ c = .dramLinkTrainingLoss → exec c s = .next t →
      (∀ r i d, (s.ring r).busy = some (i, d) → descOp d ≠ 0x04 → s.ended r { status := .tierFault, info := (s.cutShort r d).2, step := (s.cutShort r d).1 } t) ∧
      (∀ r i d, (s.ring r).busy = some (i, d) → descOp d = 0x04 → (t.ring r).busy = some (i, d)) ∧
      ((∀ r i d, (s.ring r).busy = some (i, d) → descOp d = 0x04) → s.host.held = [] →
        (∀ a x q, HeldEntry.completion a x q ∉ t.host.held) ∧
        ∀ a x, HostWrite.mem a x ∈ t.host.out → HostWrite.mem a x ∈ s.host.out ∨ ∃ seq log2 y, x = eventEntry evState seq log2 y)) ∧
    (2 * f.raw ≤ n * 100 → exec (.flashGarbageCollection n f) s = .next s) ∧ (n ≤ k + 500 → exec (.wearLevelling n k f) s = .next s) ∧
    (n < 50000 → exec (.readDisturbRefresh n f) s = .next s) ∧
    ∀ c, (c = .flashGarbageCollection n f ∧ n * 100 < 2 * f.raw ∨ c = .wearLevelling n k f ∧ k + 500 < n ∨ c = .readDisturbRefresh n f ∧ 50000 ≤ n) →
      (f.raw ≤ f.spare * 100 → ∃ t, exec c s = .next t ∧ t.ind.flashGood = BitVec.ofNat 32 f.good ∧ t.ind.flashSpare = BitVec.ofNat 32 f.spare ∧
        t.counter cFlashSpare = BitVec.ofNat 64 f.spare ∧ { t with ind := s.ind, ctr := s.ctr, tier := { t.tier with blocks := s.tier.blocks } } = s ∧
        (c = .wearLevelling n k f → t.ind.flashPeMax = BitVec.ofNat 32 n ∧ t.ind.flashPeAvg = BitVec.ofNat 32 k ∧ t.counter cFlashPe = BitVec.ofNat 64 k)) ∧
      (f.spare * 100 < f.raw → ∃ t, exec c s = .next t ∧ s.haltedFor 0x2 t ∧ t.tier.flashRo = true ∧ t.tier.flashFault = true)

/-- Reads that show an error. One that decodes is served; what was corrected is written back in place and counted, and nothing else changes but a pin's
mark. One that does not decode: a flash page becomes unreadable; an HBM page is kept where all four further reads are clean or corrected, once a burst
within a step, and is otherwise retired to the lowest free spare page, without one a tier fault; a first failure of a word of module DRAM or on-die
SRAM is noted, a second is a tier fault. A loss that serves the step in progress is reported as a step-transient failure, and one that serves a
command in progress on a ring with no step and no EVAL ends it with MEMORY_UNCORRECTABLE. The patrol scrub, while it is enabled, does to module DRAM
and HBM what such a read does, and counts its passes, and leaves every other place alone; disabled it does nothing; with a parity mismatch in its
register the module halts (log entries 31, 60, 104, 123). -/
def Obligations.FailedReads : Prop :=
  ∀ (s : State) (r : RawRead), s.live = true →
    (∀ why, s.placeOf r.addr ≠ .flash → (s.rawRead r.toRawWords).1 = true → exec (.uncorrectableRead r.toRawWords why r.tests) s = .next (s.rawRead r.toRawWords).2) ∧
    (∀ d places why, (s.placeOf r.addr = .hbm ∨ s.placeOf r.addr = .pool) ∧ decodeRead 36 4 ((s.markedPin (pseudoChannel r.addr)).map placeOfPin) r.first r.second = .corrected d places →
      ∃ t, exec (.uncorrectableRead r.toRawWords why r.tests) s = .next t ∧ t.read (r.addr / 32 * 32) d.length = d ∧ s.outside t [{ base := r.addr / 32 * 32, len := d.length }] ∧
        { t with mem := s.mem, ind := s.ind, ctr := s.ctr, tier := s.tier } = s ∧ t.tier.retired = s.tier.retired ∧ t.tier.unreadable = s.tier.unreadable) ∧
    (∀ d places why, s.placeOf r.addr ≠ .hbm → s.placeOf r.addr ≠ .pool → s.placeOf r.addr ≠ .flash → decodeRead 10 2 none r.first r.second = .corrected d places →
      ∃ t, exec (.uncorrectableRead r.toRawWords why r.tests) s = .next t ∧ t.read (r.addr / 8 * 8) d.length = d ∧ s.outside t [{ base := r.addr / 8 * 8, len := d.length }] ∧
        { t with mem := s.mem, ind := s.ind, ctr := s.ctr, free := s.free } = s) ∧
    (s.placeOf r.addr = .flash →
      ∃ t, exec (.uncorrectableRead r.toRawWords (.scrub false) r.tests) s = .next t ∧ { t with tier := s.tier, ctr := s.ctr } = s ∧ r.addr / 4096 ∈ t.tier.unreadable ∧
        ∀ p ∈ t.tier.unreadable, p = r.addr / 4096 ∨ p ∈ s.tier.unreadable) ∧
    (∀ why inStep, s.placeOf r.addr = .hbm → (s.rawRead r.toRawWords).1 = false → inStep = servesStep why → ∀ kept,
      (∀ w ∈ r.tests.again, w.addr = r.addr ∧ w.first.length = 36 ∧ w.second.length = 36) →
      kept = (allGood (s.testReads r.tests.again).1 && !(inStep && s.tier.ueBursts.contains (r.addr / 32))) →
      (kept = true → why = .step ∨ why = .scrub inStep →
        ∃ t, exec (.uncorrectableRead r.toRawWords why r.tests) s = .next t ∧ t.tier.ueBursts = (if inStep then r.addr / 32 :: s.tier.ueBursts else s.tier.ueBursts) ∧
          { t with tier := s.tier, ctr := s.ctr, net := s.net, ind := s.ind, mem := s.mem } = s ∧ s.outside t [{ base := r.addr / 32 * 32, len := 32 }] ∧ t.tier.retired = s.tier.retired ∧
          (inStep = true → s.st.run.isSome = true → ∀ o ∈ s.reportTo, s.emits t (mkMsg 1 2 0 o (s.reportBody 1 0x01 0 s.ms.position 0xFF 0xFF o)))) ∧
      (kept = false →
        (∀ k, s.freeSpare (pseudoChannel r.addr) = some k →
          ∃ t, exec (.uncorrectableRead r.toRawWords why r.tests) s = .next t ∧ t.tier.retired = s.tier.retired ++ [(pseudoChannel r.addr, pageOf r.addr, k)]) ∧
        (s.freeSpare (pseudoChannel r.addr) = none → ∃ t, exec (.uncorrectableRead r.toRawWords why r.tests) s = .next t ∧ (s.testReads r.tests.again).2.haltedFor 0x2 t ∧ t.tier.hbmFault = true))) ∧
    (∀ why, s.placeOf r.addr ≠ .hbm → s.placeOf r.addr ≠ .pool → s.placeOf r.addr ≠ .flash → s.placeOf r.addr ≠ .nowhere → (s.rawRead r.toRawWords).1 = false →
      (s.tier.ueWords.contains (r.addr / 8) = true →
        ∃ t, exec (.uncorrectableRead r.toRawWords why r.tests) s = .next t ∧ s.haltedFor 0x2 t ∧ (t.tier.dramFault = true ∨ t.tier.sramFault = true)) ∧
      (s.tier.ueWords.contains (r.addr / 8) = false → ∃ t, exec (.uncorrectableRead r.toRawWords why r.tests) s = .next t ∧ r.addr / 8 ∈ t.tier.ueWords)) ∧
    (∀ n b, s.placeOf r.addr = .hbm → (s.rawRead r.toRawWords).1 = false → allGood (s.testReads r.tests.again).1 = true → (s.testReads r.tests.again).2.mem = s.mem → (s.ring n).busy = some b → readOp (descOp b.2) = true → s.st.run = none → s.st.evals = [] →
      ∃ t, exec (.uncorrectableRead r.toRawWords (.command n) r.tests) s = .next t ∧ s.ended n { status := .memoryUncorrectable, info := (s.startFigures b.2).2, step := (s.startFigures b.2).1 } t ∧ s.storesSame t ∧ s.stepSame t) ∧
    ∀ passEnds stepData,
      (s.regs.scrub.ok = false → ∃ t, exec (.patrolScrub ⟨r, stepData⟩ passEnds) s = .next t ∧ s.haltedFor 0x1 t) ∧
      (s.regs.scrub.ok = true → s.regs.scrub.val.getLsbD 31 = false → exec (.patrolScrub ⟨r, stepData⟩ passEnds) s = .next s) ∧
      (s.regs.scrub.ok = true → s.regs.scrub.val.getLsbD 31 = true →
        (s.placeOf r.addr ≠ .hbm → s.placeOf r.addr ≠ .dram → s.placeOf r.addr ≠ .dramFw →
          exec (.patrolScrub ⟨r, stepData⟩ passEnds) s = .next { s with tier := { s.tier with scrubPasses := s.tier.scrubPasses + passEnds.toNat } }) ∧
        (s.placeOf r.addr = .hbm ∨ s.placeOf r.addr = .dram ∨ s.placeOf r.addr = .dramFw →
          ((s.rawRead r.toRawWords).1 = true → ∀ u, u = (s.rawRead r.toRawWords).2 →
            exec (.patrolScrub ⟨r, stepData⟩ passEnds) s = .next { u with tier := { u.tier with scrubPasses := u.tier.scrubPasses + passEnds.toNat } }) ∧
          ∃ u, exec (.uncorrectableRead r.toRawWords (.scrub stepData) r.tests) s = .next u ∧
            exec (.patrolScrub ⟨r, stepData⟩ passEnds) s = .next { u with tier := { u.tier with scrubPasses := u.tier.scrubPasses + passEnds.toNat } }))

/-! ### Tasks and units (04, 05, 14) -/

/-- START, with every Weir at rest. Of an IDLE task it makes it READY with its argument and its arithmetic flags cleared, and the task runs at once where
the sequencer is free. Of a task that is not IDLE it latches a pending start. Where neither can be done, the ready list being full or a start already
pending, it is held at the Weir and counted, and the task that issued it waits for it and leaves its sequencer. A slot that the task table leaves out,
a core that the program lacks and an issuer that runs no task change nothing (log entry 94). Nothing but the cores and the counters changes. What the
running task does to itself, with every Weir at rest; without one END, WAIT and YIELD change nothing. END leaves it IDLE, or starts it again at once
with a pending argument: READY behind the others, before the sequencer takes the next task, or with a full ready list as soon as that one has left it
a place. WAIT returns and clears the flags that satisfy it, or leaves the task WAITING. YIELD makes it READY behind the others, or with a full ready
list as soon as the next task has left it a place. Each that leaves the sequencer gives it to the READY task of the highest level, the earliest within
its level. -/
def Obligations.TasksStart : Prop :=
  (∀ (s : State) (core slot : Nat) (arg : W32) (k : Task) (issuer : Option Nat), k = (s.weir core).task slot →
     (s.hasCore core = false ∨ (∃ c, issuer = some c ∧ s.runningTask c = none) → exec (.start issuer core slot arg) s = .next s) ∧
     (s.hasCore core = true → s.atRest → (issuer = none ∨ ∃ c, issuer = some c ∧ (s.runningTask c).isSome = true) →
       (k.present = false → exec (.start issuer core slot arg) s = .next s) ∧
       (k.present = true → slot < (s.weir core).tasks.length →
         (k.st = .idle → (s.weir core).room = true →
           ∃ t, exec (.start issuer core slot arg) s = .next t ∧ s.coresOnly t ∧ t.gc.queue = s.gc.queue ∧ t.gc.busy = s.gc.busy ∧
             ((t.weir core).task slot).arg = arg ∧ ((t.weir core).task slot).nanOut = false ∧ ((t.weir core).task slot).infOut = false ∧
             ((t.weir core).task slot).ovf = false ∧ ((t.weir core).task slot).sat = false ∧
             ((s.weir core).running = none → (t.weir core).running = some slot ∧ ((t.weir core).task slot).st = .running) ∧
             ((s.weir core).running.isSome = true → (t.weir core).running = (s.weir core).running ∧ (t.weir core).ready = (s.weir core).ready ++ [slot] ∧
               ((t.weir core).task slot).st = .ready)) ∧
         (k.st ≠ .idle → k.pend = none →
           ∃ t, exec (.start issuer core slot arg) s = .next t ∧ s.coresOnly t ∧ t.gc.queue = s.gc.queue ∧ t.gc.busy = s.gc.busy ∧
             (t.weir core).task slot = { k with pend := some arg } ∧ (t.weir core).running = (s.weir core).running) ∧
         ((k.st = .idle ∧ (s.weir core).room = false) ∨ (k.st ≠ .idle ∧ k.pend.isSome = true) →
           (issuer = none → ∃ t, exec (.start issuer core slot arg) s = .next t ∧ s.coresOnly t ∧ t.gc.queue = s.gc.queue ∧ t.gc.busy = s.gc.busy ∧
             (t.weir core).task slot = k ∧ (t.weir core).held = [.start none slot arg] ∧
             t.counter (cCore (s.physical core) 22) = s.counter (cCore (s.physical core) 22) + 1) ∧
           ∀ c j, issuer = some c → s.runningTask c = some j → j < (s.weir c).tasks.length → j ∉ (s.weir c).ready → c ≠ core ∨ k.st ≠ .idle →
             ∃ t, exec (.start issuer core slot arg) s = .next t ∧ s.coresOnly t ∧ t.gc.queue = s.gc.queue ∧ t.gc.busy = s.gc.busy ∧
               (t.weir core).held = [.start (some (c, j)) slot arg] ∧ ((t.weir c).task j).st = .waiting ∧ (t.weir c).running = (s.weir c).best)))) ∧
  ((∀ (s : State) (core : Nat), s.runningTask core = none →
     exec (.end_ core) s = .next s ∧ exec (.yield core) s = .next s ∧ ∀ mask all timer, exec (.wait core mask all timer) s = .next s) ∧
   ∀ (s : State) (core slot : Nat) (k : Task), s.runningTask core = some slot → s.atRest → k = (s.weir core).task slot →
     slot < (s.weir core).tasks.length → slot ∉ (s.weir core).ready → (s.weir core).ready.length ≤ 32 →
     (k.pend = none → ∃ t, exec (.end_ core) s = .next t ∧ s.coresOnly t ∧ t.gc.queue = s.gc.queue ∧ t.gc.busy = s.gc.busy ∧
       (t.weir core).task slot = { k with st := .idle } ∧ (t.weir core).running = (s.weir core).best) ∧
     (∀ arg, k.present = true → k.pend = some arg → ∃ t, exec (.end_ core) s = .next t ∧ s.coresOnly t ∧ t.gc.queue = s.gc.queue ∧ t.gc.busy = s.gc.busy ∧
       ((t.weir core).task slot).arg = arg ∧ ((t.weir core).task slot).pend = none ∧ ((t.weir core).running = some slot ∨ slot ∈ (t.weir core).ready) ∧
       ((s.weir core).room = true → (t.weir core).running = Weir.best { s.weir core with ready := (s.weir core).ready ++ [slot] }) ∧
       ((s.weir core).room = false → (t.weir core).running = (s.weir core).best)) ∧
     (∀ mask all timer, (if all then k.flags &&& mask = mask else k.flags &&& mask ≠ 0) →
       ∃ t, exec (.wait core mask all timer) s = .next t ∧ s.coresOnly t ∧ ((t.weir core).task slot).returned = k.flags &&& mask ∧
         ((t.weir core).task slot).flags = k.flags &&& ~~~mask ∧ (t.weir core).running = some slot ∧ t.gc.queue = s.gc.queue ∧ t.gc.busy = s.gc.busy) ∧
     (∀ mask all timer, ¬(if all then k.flags &&& mask = mask else k.flags &&& mask ≠ 0) →
       ∃ t, exec (.wait core mask all timer) s = .next t ∧ s.coresOnly t ∧ t.gc.queue = s.gc.queue ∧ t.gc.busy = s.gc.busy ∧
         (t.weir core).task slot = { k with st := .waiting, mask := mask, all := all, waitFlags := true, timer := if k.evalClass then 0 else timer } ∧
         (t.weir core).running = (s.weir core).best) ∧
     ((s.weir core).room = true → ∃ t, exec (.yield core) s = .next t ∧ s.coresOnly t ∧ t.gc.queue = s.gc.queue ∧ t.gc.busy = s.gc.busy ∧
       (t.weir core).running = Weir.best { s.weir core with ready := (s.weir core).ready ++ [slot] }) ∧
     ((s.weir core).room = false → ∃ t, exec (.yield core) s = .next t ∧ s.coresOnly t ∧ t.gc.queue = s.gc.queue ∧ t.gc.busy = s.gc.busy ∧
       (t.weir core).running = (s.weir core).best ∧ slot ∈ (t.weir core).ready))

/-- What tasks do to others, with every Weir at rest. SIGNAL sets a flag of a task, waking it where that ends its wait; where the woken task finds the
ready list full it is held at that task's Weir, and the task that issued it waits. ISSUE queues the descriptor copied from the core's own SRAM; with
its queue full the descriptor and the task wait for a place, and an address outside that SRAM is a content fault. The timer of a WAIT of a step's
task, as it expires, reports a step-transient failure with CAUSE 0x04; any other timer does nothing. Without a running task to issue them SIGNAL and
ISSUE change nothing (log entry 91). -/
def Obligations.TasksReach : Prop :=
  ∀ (s : State) (core slot : Nat),
    (∀ issuer flag,
      (s.runningTask issuer = none ∨ s.hasCore core = false → exec (.signal issuer core slot flag) s = .next s) ∧
      (s.hasCore core = true → s.atRest → slot < (s.weir core).tasks.length → ∀ j k f, s.runningTask issuer = some j → k = (s.weir core).task slot →
        f = k.flags ||| BitVec.ofNat 32 (2 ^ flag) →
        ((s.weir core).room = true ∨ k.wakes f = false ∨ k.flags.getLsbD flag = true →
          ∃ t, exec (.signal issuer core slot flag) s = .next t ∧ s.coresOnly t ∧ t.gc.queue = s.gc.queue ∧ t.gc.busy = s.gc.busy ∧ s.flagged core slot flag t) ∧
        ((s.weir core).room = false → k.wakes f = true → k.flags.getLsbD flag = false → issuer ≠ core → j < (s.weir issuer).tasks.length → j ∉ (s.weir issuer).ready →
          ∃ t, exec (.signal issuer core slot flag) s = .next t ∧ s.coresOnly t ∧ t.gc.queue = s.gc.queue ∧ t.gc.busy = s.gc.busy ∧
            (t.weir core).held = [.flag (issuer, j) slot flag] ∧ (t.weir core).task slot = k ∧ ((t.weir issuer).task j).st = .waiting ∧
            (t.weir issuer).running = (s.weir issuer).best))) ∧
    (∀ unit addr kernel, s.runningTask core = none → exec (.issue core unit addr kernel) s = .next s) ∧
    (∀ unit addr kernel k, s.runningTask core = some slot → k = (s.weir core).task slot →
      (s.placeOfRange addr (unitDescBytes unit) ≠ .sram (s.physical core) →
        ∃ t, exec (.issue core unit addr kernel) s = .next t ∧ s.failsWith k.evalClass .indexRange t) ∧
      (s.placeOfRange addr (unitDescBytes unit) = .sram (s.physical core) → ∀ d : QDesc,
        d = { unit := unit, core := core, slot := slot, level := k.level,
              gang := if unit = .mc then bits (field (s.read addr (unitDescBytes unit)) 0 8) 7 4 else 0, kernel := kernel,
              bytes := s.read addr (unitDescBytes unit), scanned := false, paths := [], chunks := [], eval := k.evalClass } →
        (s.queueRoom d = true → ∃ t, exec (.issue core unit addr kernel) s = .next t ∧ t.gc.queue = s.gc.queue ++ [d] ∧
          { t with gc := { t.gc with queue := s.gc.queue } } = s) ∧
        (s.queueRoom d = false → s.atRest → slot < (s.weir core).tasks.length → slot ∉ (s.weir core).ready →
          ∃ t, exec (.issue core unit addr kernel) s = .next t ∧ s.coresOnly t ∧ t.gc.queue = s.gc.queue ∧ t.gc.busy = s.gc.busy ∧
            (t.weir core).stalled = (s.weir core).stalled ++ [d] ∧ (t.weir core).task slot = { k with st := .waiting } ∧
            (t.weir core).running = (s.weir core).best))) ∧
    ∀ due, due = (s.hasCore core && ((s.weir core).task slot).st == .waiting && ((s.weir core).task slot).waitFlags && ((s.weir core).task slot).timer != 0 &&
        !((s.weir core).task slot).evalClass) →
      (due = false → exec (.weirTimerExpiry core slot) s = .next s) ∧
      (due = true → ∃ t, exec (.weirTimerExpiry core slot) s = .next t ∧ s.netOnly t ∧
        (s.st.run.isSome = true → ∀ r ∈ s.reportTo, s.emits t (mkMsg 1 2 0 r (s.reportBody 1 0x04 0 s.ms.position 0xFF 0xFF r))))

/-- TILE_COMPLETE, BRAID_DONE, QUARRY_DONE and TAILRACE_DONE complete the oldest descriptor in progress of their unit: it leaves the unit and sets its
flag for the task that issued it. Where that task would wake and finds the ready list full, the unit holds the completion, behind every other
descriptor in progress. With nothing in progress they do nothing. -/
def Obligations.UnitsComplete : Prop :=
  ∀ (s : State) (n gang : Nat) (c : Instr) (p : Running → Bool),
    (c = .tileComplete n gang ∧ p = fun x => x.unit == .mc && x.core == n && x.gang == gang) ∨ (c = .braidDone n ∧ p = fun x => x.unit == .braid && s.clusterOf x.core == n) ∨
      (c = .quarryDone n ∧ p = fun x => x.unit == .quarry && x.core == n) ∨ (c = .tailraceDone n ∧ p = fun x => x.unit == .tailrace && x.core == n) →
    (s.gc.busy.find? (fun x => p x && !x.done && s.hasCore x.core) = none → exec c s = .next s) ∧
    ∀ r, (s.oldest p r → ∃ t, exec c s = .next t ∧ s.completes r t) ∧
      (s.gc.busy.find? (fun x => p x && !x.done && s.hasCore x.core) = some r → s.atRest → (s.weir r.core).room = false →
        ∀ k, k = (s.weir r.core).task r.slot → k.flags.getLsbD r.flag = false → k.wakes (k.flags ||| BitVec.ofNat 32 (2 ^ r.flag)) = true →
        ∃ t, exec c s = .next t ∧ s.coresOnly t ∧ t.gc.busy = s.gc.busy.erase r ++ [{ r with done := true }] ∧ t.gc.queue = s.gc.queue ∧ (t.weir r.core).task r.slot = k)

/-- Matrix tiles. MATMUL and MATMUL_PART act on the descriptor that the gang takes next, where it is of their kind and its work goes on, and do nothing
otherwise. A check that fails ends the work with its code. A descriptor waits while its gang is busy, a completion is held or its headers are not
scanned; one of another shape makes the reshape due while any gang works. Otherwise it stores its tile, the raw one of MATMUL_PART among them, and
nothing else, and is in progress until its completion, unless what it computes is a content fault; a tile of an EVAL that forms an evaluation tensor
converts with the calibrated scale. The Spillway of an integer tile takes the first of the passes 0 to 3 none of whose groups leaves the INT32 range,
the streamed codes halved as often with ties to even; where all do, the work ends with SPILLWAY_EXHAUSTED. SPARSE_HEADER_SCAN takes the oldest
descriptor of the Matrix Cluster that has headers to scan, where it is of the gang named: a scan that finds no fault notes the path of each tile and
the chunks, and lets the descriptor start, one that does ends the work with its code, and a parity mismatch in a threshold register halts the module
(log entries 91, 104, 116, 119, 126). -/
def Obligations.TilesRun : Prop :=
  (∀ (s : State) (core gang : Nat) (part : Bool) (c : Instr), c = (if part then .matmulPart core gang else .matmul core gang) →
    (s.nextTile core gang = none → exec c s = .next s) ∧
    ∀ q d, s.nextTile core gang = some q → d = tileDesc q.bytes →
      ((s.hasCore core && s.workLive q.eval && d.part == part) = false → exec c s = .next s) ∧
      ((s.hasCore core && s.workLive q.eval && d.part == part) = true →
        (∀ x, s.tileCheck d q = some x → ∃ t, exec c s = .next t ∧ s.failsWith q.eval x t) ∧
        (s.tileCheck d q = none → s.tileReady q d = false → exec c s = .next s) ∧
        (s.tileCheck d q = none → s.tileReady q d = true → s.reshapeWaits q d = true → exec c s = .next (s.setMc core { s.mc core with due := some q })) ∧
        (s.tileCheck d q = none → s.tileReady q d = true → s.reshapeWaits q d = false →
          ∀ r, r = s.tileResult (s.scaledTile q d) ((s.reshape q.core d.shape).loadB q.core d q.paths (q.tileChunks d)).1 (s.prog.elim false (·.t7)) →
          (∀ x, r.fault = some x → ∃ t, exec c s = .next t ∧ s.storesSame t ∧
            (q.eval = false → ∃ w, t.st.run = some w ∧ w.fault = some x) ∧
            ∀ e rest, q.eval = true → s.st.evals = e :: rest → (s.ring e.ring).busy.isSome = true →
              s.ended e.ring { status := x, info := e.info, step := e.pinned } t) ∧
          (r.fault = none → ∃ t, exec c s = .next t ∧ t.mem = (s.stores r.stores).mem ∧ t.inProgress q d.flag ∧ t.nor = s.nor ∧ t.host = s.host ∧ t.net = s.net ∧
            (r.repeats = 0 → t.st.run = s.st.run))))) ∧
  (∀ (k : Nat) (a : Int), 2 * |2 ^ k * halved k a - a| ≤ 2 ^ k ∧ (2 * |2 ^ k * halved k a - a| = 2 ^ k → halved k a % 2 = 0)) ∧
  (∀ (s : State) (d : TileDesc) (b : Cells) (t7 : Bool) (x y : List (List Int)) (products : Nat → List Int → List Int → List Int) (fits : Nat → Prop), d.integer = true →
    x = (s.tileA d).map (fun r => r.map (elemInt d.afmt)) → y = b.1.map (fun c => c.map (elemInt d.bfmt)) →
    (∀ k u v, products k u v = (u.zip v).map (fun p => halved k p.1 * p.2)) →
    (∀ k, fits k ↔ ∀ u ∈ x, ∀ v ∈ y, ∀ g, -2 ^ 31 ≤ ((products k u v).take (32 * g)).sum ∧ ((products k u v).take (32 * g)).sum < 2 ^ 31) →
    (∀ k, k < 4 → fits k → (∀ j < k, ¬ fits j) → ∀ rows, rows = x.map (fun u => y.map fun v => (products k u v).sum) →
      (s.tileResult d b t7).repeats = k ∧
      (d.ofmt = 7 → (s.tileResult d b t7).fault = none ∧
        (s.tileResult d b t7).stores = (d.hdrAddr, leBytes 1 (intCode 8 (d.exponent + k)) ++ leBytes 1 k ++ leBytes 1 d.ofmt ++ zeros 5) ::
          (List.range rows.length).map fun i => (d.oAddr + i * d.oStride, packCodes 7 ((nth [] rows i).map (intCode 32))))) ∧
    ((∀ k < 4, ¬ fits k) → (s.tileResult d b t7).fault = some .spillwayExhausted)) ∧
  ∀ (s : State) (core gang : Nat) (q : Option QDesc), q = s.gc.queue.find? (fun x => x.unit == .mc && x.core == core && !x.scanned && (tileDesc x.bytes).headered) →
    (q = none → exec (.sparseHeaderScan core gang) s = .next s) ∧
    ∀ x d, q = some x → d = tileDesc x.bytes →
      ((x.gang == gang && s.hasCore core && s.workLive x.eval) = false → exec (.sparseHeaderScan core gang) s = .next s) ∧
      ((x.gang == gang && s.hasCore core && s.workLive x.eval) = true →
        (∀ e, s.tileCheck d x = some e → ∃ t, exec (.sparseHeaderScan core gang) s = .next t ∧ s.failsWith x.eval e t) ∧
        (s.tileCheck d x = none → s.regs.spBm.ok = false ∨ s.regs.spRle.ok = false → ∃ t, exec (.sparseHeaderScan core gang) s = .next t ∧ s.haltedFor 0x1 t) ∧
        (s.tileCheck d x = none → s.regs.spBm.ok = true → s.regs.spRle.ok = true →
          (∀ e, s.scanTiles d = some e → ∃ t, exec (.sparseHeaderScan core gang) s = .next t ∧ s.failsWith x.eval e t) ∧
          (s.scanTiles d = none → ∃ t, exec (.sparseHeaderScan core gang) s = .next t ∧ s.coresOnly t ∧
            t.gc.queue = s.gc.queue.replace x { x with scanned := true, paths := s.scanPaths d, chunks := s.scanChunks d } ∧ t.gc.busy = s.gc.busy ∧ t.gc.weir = s.gc.weir)))

/-- Braid. A check or a plan that fails ends the work with its code; a descriptor waits while its unit holds a completion. Otherwise a plan whose checks
pass is stored at its address, a merge whose plan is well-formed stores its rows, and nothing else is stored; each is in progress until its
completion. The fixed order of the Braid: sorting keeps every key, puts them in ascending order by node, and a plan gives every key to one entry of
the table, so its last offset is their number. Tailrace. SPILL copies the descriptor's range of the core's memory to the Tailrace area, FILL copies it
back; nothing else is stored, and each is in progress until its completion; a check that fails ends the work with its code. Each command takes the
next descriptor that no earlier one holds back, and does nothing where there is none, where it is of the other operation, or where its work is over
(log entries 91, 95, 119). -/
def Obligations.BraidAndTailrace : Prop :=
  (∀ (s : State) (cluster : Nat) (merge : Bool) (c : Instr) (q : Option QDesc), c = (if merge then .braidMerge cluster else .braidPlan cluster) →
     q = s.nextDesc (fun x => x.unit == .braid && s.clusterOf x.core == cluster && s.braidClear x) →
     (q = none → exec c s = .next s) ∧
     ∀ x d, q = some x → d = braidDesc x.bytes →
       ((s.hasCore x.core && s.workLive x.eval && (d.op == 2) == merge) = false → exec c s = .next s) ∧
       ((s.hasCore x.core && s.workLive x.eval && (d.op == 2) == merge) = true →
         (∀ e, s.braidCheck cluster d x.bytes = some e → ∃ t, exec c s = .next t ∧ s.failsWith x.eval e t) ∧
         (s.braidCheck cluster d x.bytes = none → (s.braidBusy cluster).all (fun r => !r.done) = false → exec c s = .next s) ∧
         (s.braidCheck cluster d x.bytes = none → (s.braidBusy cluster).all (fun r => !r.done) = true →
           (merge = false →
             (∀ e, planFault (s.braidTable d) (s.braidKeys d) (sortKeys (s.braidKeys d)) = some e → ∃ t, exec c s = .next t ∧ s.failsWith x.eval e t) ∧
             (∀ w, planFault (s.braidTable d) (s.braidKeys d) (sortKeys (s.braidKeys d)) = none →
               w = (planWords (s.braidTable d) (sortKeys (s.braidKeys d))).flatMap (leBytes 4) →
               ∃ t, exec c s = .next t ∧ t.read d.plan w.length = w ∧ s.outside t [{ base := d.plan, len := w.length }] ∧ s.unitOnly t ∧ t.inProgress x d.flag)) ∧
           (merge = true →
             (planOk d (s.planAt d) = false → ∃ t, exec c s = .next t ∧ s.failsWith x.eval .indexRange t) ∧
             (planOk d (s.planAt d) = true → ∃ t, exec c s = .next t ∧ s.unitOnly t ∧ t.inProgress x d.flag ∧
               t.mem = ((s.mergeRows d (s.prog.elim false (·.t7)) (s.planAt d)).foldl (fun s r => s.write r.1 r.2.1) s).mem))))) ∧
  (∀ keys : List BraidKey, (sortKeys keys).Perm keys ∧ (sortKeys keys).Pairwise (fun a b => a.node ≤ b.node) ∧
     ∀ table, (planWords table (sortKeys keys)).length = table.length + 1 + keys.length ∧
       nth 0 (planWords table (sortKeys keys)) table.length = keys.length) ∧
  ∀ (s : State) (core : Nat) (fill : Bool) (c : Instr) (q : Option QDesc), c = (if fill then .fill core else .spill core) →
     q = s.nextDesc (fun x => x.unit == .tailrace && s.tailClear x) →
     (q = none → exec c s = .next s) ∧
     ∀ x d, q = some x → d = tailDesc x.bytes →
       ((x.core == core && s.hasCore core && s.workLive x.eval && (d.op == 2) == fill) = false → exec c s = .next s) ∧
       ((x.core == core && s.hasCore core && s.workLive x.eval && (d.op == 2) == fill) = true →
         (∀ e, s.tailCheck x d = some e → ∃ t, exec c s = .next t ∧ s.failsWith x.eval e t) ∧
         (s.tailCheck x d = none → s.tailBusy.all (fun r => !r.done) = false → exec c s = .next s) ∧
         (s.tailCheck x d = none → s.tailBusy.all (fun r => !r.done) = true →
           ∃ t, exec c s = .next t ∧ s.outside t (s.tailWrites d) ∧ s.unitOnly t ∧ t.inProgress x d.flag ∧
             (fill = false → t.read (s.tailRange d).base d.len = s.read d.loc d.len) ∧ (fill = true → t.read d.loc d.len = s.read (s.tailRange d).base d.len)))

/-! ### Numbers and the vector unit (02, 03, 05, 12) -/

/-- Packed codes. XM48 and A48 values take six bytes each, least significant first, at a six-byte stride, and read back as stored. INT8, INT4 and INT32
are two's complement, every code is valid, and of two four-bit elements the even one lies in the low half of its byte. -/
def Obligations.CodesPacked : Prop :=
  (∀ (s : State) (a fmt : Nat) (cs : List Nat), (fmt = 6 ∨ fmt = 8) → (∀ c ∈ cs, c < 2 ^ 48) →
    (packCodes fmt cs).length = 6 * cs.length ∧ (s.write a (packCodes fmt cs)).codesAt fmt a cs.length = cs ∧
    ∀ i < cs.length, ∀ j < 6, (s.write a (packCodes fmt cs)).byte (a + 6 * i + j) = BitVec.ofNat 8 (nth 0 cs i / 256 ^ j)) ∧
  (∀ v : Int, (-128 ≤ v → v ≤ 127 → elemInt 2 (intCode 8 v) = v) ∧ (-8 ≤ v → v ≤ 7 → elemInt 3 (intCode 4 v) = v) ∧
    (-2147483648 ≤ v → v ≤ 2147483647 → elemInt 7 (intCode 32 v) = v)) ∧
  (∀ c, elemInvalid 2 c = false ∧ elemInvalid 3 c = false ∧ -128 ≤ elemInt 2 c ∧ elemInt 2 c ≤ 127 ∧ -8 ≤ elemInt 3 c ∧ elemInt 3 c ≤ 7) ∧
  ∀ (row : List Byte) (fmt i : Nat), (fmt = 3 ∨ fmt = 5) → i < row.length →
    elemCode fmt row (2 * i) = bits (nth 0 row i).toNat 0 4 ∧ elemCode fmt row (2 * i + 1) = bits (nth 0 row i).toNat 4 4

/-- VECTOR_ELEMENTWISE of a running task. Operands without a form give FORMAT_INVALID and a range against 08 R187 INDEX_RANGE. Each output element of an
arithmetic operation is the operation's one rounding of the elements at its place, and nothing else is stored. A conversion into a floating format
converts each element; one of a non-finite value into a scaled format is the content fault FORMAT_INVALID and stores nothing; one into BS8 or BS4
stores one scale byte per block by the recipe of the tensor's declared kind; one into INT8 or INT4 takes the declared scale byte, or of an evaluation
tensor the calibrated one, and before any calibration the free scale of log entry 33, which depends on the program, the step and the tensor alone; a
Forward records the tensor's largest magnitude. Sums, products and fused sums are those of IEEE 754 with one rounding to nearest, ties to even;
minimum and maximum give NaN for a NaN and put -0 below +0; and a conversion into a floating format rounds once, a value from the limit on becoming an
infinity with OVF (log entries 32, 33, 111). -/
def Obligations.ElementsComputed : Prop :=
  (∀ f ∈ [fp32, bf16, xm48, a48], (∀ neg e, f.ofVal (.fin neg 0 e) = (f.zero neg, {})) ∧ (f.ofVal .nan).1 = f.nan ∧ (∀ neg, (f.ofVal (.inf neg)).1 = f.inf neg) ∧
    ∀ x : FVal, x.finite = true → x.value ≠ 0 → f.roundsTo x.value (f.ofVal x).1 ∧ ((f.ofVal x).2.ovf = true ↔ f.limit ≤ |x.value|)) ∧
  (∀ x y z : FVal, fp32.addsTo x y (elementOp .add x y z).1 ∧ (∀ w : FVal, (y = .nan → w = .nan) → (∀ a, y = .inf a → w = .inf !a) → (∀ a m e, y = .fin a m e → w = .fin (!a) m e) →
      fp32.addsTo x w (elementOp .sub x y z).1) ∧
    fp32.multipliesTo x y (elementOp .mul x y z).1 ∧ fp32.fusesTo x y z (elementOp .fma x y z).1 ∧
    (x = .nan ∨ y = .nan → (elementOp .min x y z).1 = fp32.nan ∧ (elementOp .max x y z).1 = fp32.nan ∧ (elementOp .cmp x y z).1 = (Config.cmpCode 3).toNat) ∧
    (∀ below : Prop, (below ↔ (x = .inf true ∧ y ≠ .inf true) ∨ (y = .inf false ∧ x ≠ .inf false) ∨ (x.finite = true ∧ y.finite = true ∧ x.value < y.value)) → below → x ≠ .nan → y ≠ .nan →
      (elementOp .min x y z).1 = (fp32.ofVal x).1 ∧ (elementOp .max x y z).1 = (fp32.ofVal y).1 ∧ (elementOp .min y x z).1 = (fp32.ofVal x).1 ∧ (elementOp .max y x z).1 = (fp32.ofVal y).1 ∧
      (elementOp .cmp x y z).1 = (Config.cmpCode 0).toNat ∧ (elementOp .cmp y x z).1 = (Config.cmpCode 2).toNat) ∧
    (x.finite = true → y.finite = true → x.value = y.value → (elementOp .cmp x y z).1 = (Config.cmpCode 1).toNat ∧
      (x.value = 0 → (elementOp .min x y z).1 = fp32.zero (x.negative || y.negative) ∧ (elementOp .max x y z).1 = fp32.zero (x.negative && y.negative)))) ∧
  (∀ op r, (elementOut op 0 r) = r ∧ elementOut .cmp 1 r = r ∧ (op ≠ .cmp → (elementOut op 1 r).1 = (bf16.ofVal (fp32.decode r.1)).1)) ∧
  ∀ (s : State) (core slot : Nat) (v : VArgs) (eval : Bool), eval = ((s.weir core).task slot).evalClass →
    s.laneRefuses core slot (if s.vecCoded v then none else some .formatInvalid) (vecReads v) (vecWrites v) (.vectorElementwise core slot v) ∧
    (s.lane core slot (vecReads v) (vecWrites v) → s.vecCoded v = true →
      (v.op ≠ .convert → ∀ l, l = (List.range v.n).map (fun i =>
          (elementOut v.op v.ofmt (elementOp v.op (s.valueAt v.ifmt v.a v.n i) (s.valueAt v.ifmt v.b v.n i) (s.valueAt v.ifmt v.c v.n i))).1) →
        ∃ t, exec (.vectorElementwise core slot v) s = .next t ∧
          t.read v.dst (vecOutBytes v) = (if v.op = .cmp then l.flatMap (leBytes 4) else packCodes v.ofmt l) ∧
          s.outside t [{ base := v.dst, len := vecOutBytes v }] ∧ s.laneOnly core slot t) ∧
      (v.op = .convert →
        (∀ f, floatFmt v.ofmt = some f →
          ∃ t, exec (.vectorElementwise core slot v) s = .next t ∧
            t.read v.dst (fmtBytes v.ofmt v.n) = packCodes v.ofmt ((s.sourceVals v).map fun x => (f.ofVal x).1) ∧
            s.outside t [{ base := v.dst, len := fmtBytes v.ofmt v.n }] ∧ s.laneOnly core slot t) ∧
        (floatFmt v.ofmt = none → (s.sourceVals v).all FVal.finite = false →
          ∃ t, exec (.vectorElementwise core slot v) s = .next t ∧ s.failsWith eval .formatInvalid t) ∧
        ((s.sourceVals v).all FVal.finite = true →
          (isBs v.ofmt = true → ∀ q b, q = quantizeBlocks v.ofmt (recipeLimit v.ofmt (s.tensorKind v.tensor == 2)) (s.sourceVals v) → b = q.2.1.map (BitVec.ofNat 8) →
            ∃ t, exec (.vectorElementwise core slot v) s = .next t ∧ t.read v.scalePlane b.length = b ∧ s.laneOnly core slot t ∧
              s.outside t [{ base := v.dst, len := (packCodes v.ofmt q.1).length }, { base := v.scalePlane, len := b.length }] ∧
              ((v.dst + (packCodes v.ofmt q.1).length ≤ v.scalePlane ∨ v.scalePlane + b.length ≤ v.dst) →
                t.read v.dst (packCodes v.ofmt q.1).length = packCodes v.ofmt q.1)) ∧
          (isInt v.ofmt = true →
            ∀ scale b, scale = (if s.evalTensor v.tensor then
                (if s.calibration v.tensor = [] then (Config.uncalibratedScale (s.prog.elim 0 (·.hash)) s.st.stepNo v.tensor).toNat % 0xFF else s.calibratedScale v.tensor v.ofmt)
                else (s.tensorRec v.tensor).elim 0 (·.scale)) →
              b = packCodes v.ofmt (quantize v.ofmt scale (s.sourceVals v)).1 →
              ∃ t, exec (.vectorElementwise core slot v) s = .next t ∧ t.read v.dst b.length = b ∧ s.outside t [{ base := v.dst, len := b.length }] ∧
                (s.evalTensor v.tensor = false → s.laneOnly core slot t) ∧
                (s.evalTensor v.tensor = true → ∀ w, eval = false → s.st.run = some w → w.phase = .forward →
                  t.st.calibNow.get 0 v.tensor = max (maxMagnitude (s.sourceVals v)) (s.st.calibNow.get 0 v.tensor))))))

/-- Reductions of a running task. VECTOR_REDUCTION of a kernel that the program declares, within its limit, stores one element, the parts' sums combined
in the fixed order and rounded once into the output format, and the parts' partials in their area; otherwise it is INDEX_RANGE. SPLIT_K_COMBINE into a
format that it has stores each element's partials combined by part number; otherwise it is FORMAT_INVALID. A range against 08 R187 is INDEX_RANGE.
Nothing else is stored. A dot product takes its pairs in groups of 32 from the first on, in T7-exact mode of 16: the exact products of a group,
truncated 64 bits, in T7-exact mode 40, below the leading bit of the largest, are added to the accumulator of A48, in T7-exact mode of FP32, with one
rounding; a NaN, an infinity times zero and infinities of both signs give the canonical NaN, infinities of one sign that infinity, in T7-exact mode
group by group. The tree of split-K adds neighbours level by level, an unpaired last one passing up. Every zero written is +0 (log entry 114). -/
def Obligations.ReductionsStore : Prop :=
  (∀ ps g : List (FVal × FVal), 0 < g.length → (∀ p ∈ g, p.1.finite = true ∧ p.2.finite = true) →
    (ps.length % 32 = 0 → g.length ≤ 32 → (∀ p ∈ ps, p.1.finite = true ∧ p.2.finite = true) →
      a48.sumsTo ((a48.decode (dotFloat ps).1).value + groupValue 64 g) (dotFloat (ps ++ g)).1) ∧
    (ps.length % 16 = 0 → g.length ≤ 16 →
      ((fp32.decode (dotT7 ps).1).finite = true → fp32.sumsTo ((fp32.decode (dotT7 ps).1).value + groupValue 40 g) (dotT7 (ps ++ g)).1) ∧
      ((fp32.decode (dotT7 ps).1).finite = false → (dotT7 (ps ++ g)).1 = (dotT7 ps).1))) ∧
  (dotFloat []).1 = 0 ∧ (dotT7 []).1 = 0 ∧
  (∀ ps : List (FVal × FVal), ∀ (bad : Prop) (inf : Bool → Prop), (bad ↔ ∃ p ∈ ps, p.1.noProduct p.2) → (∀ neg : Bool, inf neg ↔ ∃ p ∈ ps, p.1.infProduct p.2 neg) →
    (bad ∨ (inf false ∧ inf true) → (dotFloat ps).1 = a48.nan) ∧ (∀ neg, ¬ bad → inf neg → ¬ inf (!neg) → (dotFloat ps).1 = a48.inf neg) ∧
    ∀ qs : List (FVal × FVal), qs.length % 16 = 0 → 0 < ps.length → ps.length ≤ 16 →
      (bad ∨ (inf false ∧ inf true) ∨ (fp32.decode (dotT7 qs).1) = .nan → (dotT7 (qs ++ ps)).1 = fp32.nan) ∧
      ∀ neg, ¬ bad → inf neg → ¬ inf (!neg) → fp32.decode (dotT7 qs).1 ≠ .nan →
        (dotT7 (qs ++ ps)).1 = if fp32.decode (dotT7 qs).1 = .inf (!neg) then fp32.nan else fp32.inf neg) ∧
  (∀ (t7 : Bool) (xs : List (FVal × FVal)) (a : Nat) (l : List Nat), (partialsOf t7 none xs).map (·.1) = [if t7 then (dotT7 xs).1 else (dotFloat xs).1] ∧ partialsOf t7 (some []) xs = [] ∧
    (partialsOf t7 (some (a :: l)) xs).map (·.1) = (if t7 then (dotT7 (xs.take a)).1 else (dotFloat (xs.take a)).1) :: (partialsOf t7 (some l) (xs.drop a)).map (·.1)) ∧
  (∀ (t7 : Bool) (f g : Fmt) (a b : Nat), f = (if t7 then fp32 else a48) → g = fp32 ∨ g = bf16 ∨ g = a48 →
    (combineParts t7 []).1 = 0 ∧ (combineParts t7 [a]).1 = a ∧
    (f.decode a = .nan ∨ f.decode b = .nan → (combineParts t7 [a, b]).1 = f.nan) ∧
    (∀ x y, f.decode a = .inf x → f.decode b = .inf y → x ≠ y → (combineParts t7 [a, b]).1 = f.nan) ∧
    ((f.decode a).finite = true → (f.decode b).finite = true → f.sumsTo ((f.decode a).value + (f.decode b).value) (combineParts t7 [a, b]).1) ∧
    (∀ l m : List Nat, 2 ≤ l.length → m.length = (l.length + 1) / 2 → (∀ i, 2 * i + 1 < l.length → nth 0 m i = (combineParts t7 [nth 0 l (2 * i), nth 0 l (2 * i + 1)]).1) →
      (l.length % 2 = 1 → nth 0 m (l.length / 2) = nth 0 l (l.length - 1)) → (combineParts t7 l).1 = (combineParts t7 m).1) ∧
    ((f.decode a).finite = true → g.sumsTo (f.decode a).value (outputFloat t7 g a).1 ∧ ((outputFloat t7 g a).2.ovf = true ↔ g.limit ≤ |(f.decode a).value|)) ∧
    (f.decode a = .nan → (outputFloat t7 g a).1 = g.nan) ∧ ∀ neg, f.decode a = .inf neg → (outputFloat t7 g a).1 = g.inf neg) ∧
  ∀ (s : State) (core slot n dst : Nat),
    (∀ kernel x y bf16In bf16Out ifmt ofmt q reads, q = (s.prog.bind fun p => p.decl.kernels[kernel]?) → ifmt = (if bf16In then 1 else 0) → ofmt = (if bf16Out then 1 else 0) →
      reads = span x (fmtBytes ifmt n) ++ y.elim [] (fun y => span y (fmtBytes ifmt n)) →
      s.laneRefuses core slot (if q.elim false fun q => q.vecRed && decide (n ≤ kernelLimit q) then none else some .indexRange) reads (span dst (fmtBytes ofmt 1))
        (.vectorReduction core slot kernel x y bf16In n bf16Out dst) ∧
      ∀ k ps w area, q = some k → k.vecRed = true → n ≤ kernelLimit k → s.lane core slot reads (span dst (fmtBytes ofmt 1)) →
        ps = partialsOf s.t7 k.parts ((List.range n).map fun i => (s.valueAt ifmt x n i, y.elim (.fin false 1 0) fun y => s.valueAt ifmt y n i)) →
        w = (if s.t7 then 0 else 6) → area = k.parts.map (fun l => { base := s.partialArea core kernel l.length, len := fmtBytes w l.length : Region }) →
        ∃ t, exec (.vectorReduction core slot kernel x y bf16In n bf16Out dst) s = .next t ∧
          t.read dst (fmtBytes ofmt 1) = packCodes ofmt [(outputFloat s.t7 (if bf16Out then bf16 else fp32) (combineParts s.t7 (ps.map (·.1))).1).1] ∧
          s.outside t ({ base := dst, len := fmtBytes ofmt 1 } :: area.toList) ∧ s.laneOnly core slot t ∧
          ∀ r, area = some r → (r.base + r.len ≤ dst ∨ dst + fmtBytes ofmt 1 ≤ r.base) → t.read r.base r.len = packCodes w (ps.map (·.1))) ∧
    ∀ parts ifmt ofmt, ifmt = (if s.t7 then 0 else 6) →
      s.laneRefuses core slot (if ofmt == 0 || ofmt == 1 || (ofmt == 6 && !s.t7) then none else some .formatInvalid) (parts.flatMap fun p => span p (fmtBytes ifmt n))
        (span dst (fmtBytes ofmt n)) (.splitKCombine core slot parts n ofmt dst) ∧
      ((ofmt = 0 ∨ ofmt = 1 ∨ (ofmt = 6 ∧ s.t7 = false)) → s.lane core slot (parts.flatMap fun p => span p (fmtBytes ifmt n)) (span dst (fmtBytes ofmt n)) →
        ∃ t, exec (.splitKCombine core slot parts n ofmt dst) s = .next t ∧
          t.read dst (fmtBytes ofmt n) = packCodes ofmt ((List.range n).map fun i =>
            (outputFloat s.t7 ((floatFmt ofmt).getD fp32) (combineParts s.t7 (parts.map fun p => nth 0 (s.codesAt ifmt p n) i)).1).1) ∧
          s.outside t [{ base := dst, len := fmtBytes ofmt n }] ∧ s.laneOnly core slot t)

/-- XM48 of a running task. Values are loaded and stored at a six-byte stride, combined with FP32 values by one rounding into XM48, and converted by one
rounding to FP32 or BF16. A load or an operation stores nothing; a store or a conversion leaves the held values and stores nothing else. A range
against 08 R187 is INDEX_RANGE (log entry 115). -/
def Obligations.Xm48Rounds : Prop :=
  (∀ x y : FVal, xm48.addsTo x y (xm48.addVals x y).1 ∧ xm48.multipliesTo x y (xm48.mulVals x y).1) ∧
  ∀ (s : State) (core slot a : Nat) (x : List Nat), x = (s.weir core).xreg →
    (∀ c f, (c = .xm48Add core slot a ∧ f = xm48.addVals) ∨ (c = .xm48Mul core slot a ∧ f = xm48.mulVals) →
      s.laneRefuses core slot none (span a (4 * x.length)) [] c ∧
      (s.lane core slot (span a (4 * x.length)) [] →
        ∃ t, exec c s = .next t ∧ s.storesSame t ∧ t.st = s.st ∧ t.gc.busy = s.gc.busy ∧ t.gc.queue = s.gc.queue ∧ t.host = s.host ∧
          (t.weir core).xreg = (List.range x.length).map fun i => (f (xm48.decode (nth 0 x i)) (s.valueAt 0 a x.length i)).1)) ∧
    (∀ n, s.laneRefuses core slot none (span a (6 * n)) [] (.xm48Load core slot a n) ∧
      (s.lane core slot (span a (6 * n)) [] → exec (.xm48Load core slot a n) s = .next (s.setXreg core (s.codesAt 8 a n)))) ∧
    s.laneRefuses core slot none [] (span a (6 * x.length)) (.xm48Store core slot a) ∧
    (s.lane core slot [] (span a (6 * x.length)) → ∃ t, exec (.xm48Store core slot a) s = .next t ∧ t.read a (6 * x.length) = packCodes 8 x ∧
      s.outside t [{ base := a, len := 6 * x.length }] ∧ (t.weir core).xreg = x ∧ t.gc = s.gc) ∧
    ∀ toBf16 o, o = (if toBf16 then 1 else 0) → s.laneRefuses core slot none [] (span a (fmtBytes o x.length)) (.xm48Convert core slot toBf16 a) ∧
      (s.lane core slot [] (span a (fmtBytes o x.length)) →
        ∃ t, exec (.xm48Convert core slot toBf16 a) s = .next t ∧
          t.read a (fmtBytes o x.length) = packCodes o (x.map fun c => ((if toBf16 then bf16 else fp32).ofVal (xm48.decode c)).1) ∧
          s.outside t [{ base := a, len := fmtBytes o x.length }] ∧ (t.weir core).xreg = x ∧ s.laneOnly core slot t)

/-- ROWBIN. The bin of a count is 0 for 0 and otherwise its bit length; the permutation lists the rows in descending bin order and by ascending index
within a bin; the starts give the first place of bins 32 down to 0, then M. A running task stores both, the starts last, and nothing else; more than
16,777,216 rows and a range against 08 R187 are INDEX_RANGE (log entry 91). -/
def Obligations.RowsBinned : Prop :=
  (∀ c, binOf c = 0 ↔ c = 0) ∧ (∀ c, 0 < c → 2 ^ (binOf c - 1) ≤ c ∧ c < 2 ^ binOf c) ∧
  (∀ cs : List Nat, (∀ c ∈ cs, c < 2 ^ 32) → (binPerm cs).Perm (List.range cs.length) ∧
    (binPerm cs).Pairwise (fun i j => binOf (nth 0 cs j) < binOf (nth 0 cs i) ∨ (binOf (nth 0 cs j) = binOf (nth 0 cs i) ∧ i < j)) ∧
    (binStarts cs).length = 34 ∧ nth 0 (binStarts cs) 33 = cs.length ∧
    ∀ b ≤ 32, nth 0 (binStarts cs) (32 - b) = ((binPerm cs).takeWhile fun i => decide (b < binOf (nth 0 cs i))).length) ∧
  ∀ (s : State) (core slot m counts perm starts : Nat) (cs : List Nat),
    s.laneRefuses core slot (if m ≤ 16777216 then none else some .indexRange) (span counts (4 * m)) (span perm (4 * m) ++ span starts 136)
      (.rowbin core slot counts m perm starts) ∧
    (m ≤ 16777216 → s.lane core slot (span counts (4 * m)) (span perm (4 * m) ++ span starts 136) → cs = (List.range m).map (fun i => s.readNat (counts + 4 * i) 4) →
      ∃ t, exec (.rowbin core slot counts m perm starts) s = .next t ∧ t.read starts 136 = (binStarts cs).flatMap (leBytes 4) ∧
        ((perm + 4 * m ≤ starts ∨ starts + 136 ≤ perm) → t.read perm (4 * m) = (binPerm cs).flatMap (leBytes 4)) ∧
        s.outside t [{ base := perm, len := 4 * m }, { base := starts, len := 136 }] ∧ s.laneOnly core slot t)

/-- ROWSCATTER of a running task writes row i of its source to row perm[i] of its destination, in ascending i, so of duplicates the last stays. An entry
beyond the destination's rows and a range against 08 R187 are INDEX_RANGE, and nothing is written. -/
def Obligations.RowsScattered : Prop :=
  ∀ (s : State) (core slot m perm src rowBytes dst dstRows : Nat) (ps : List Nat),
    s.laneRefuses core slot none (span src (m * rowBytes) ++ span perm (4 * m)) (span dst (dstRows * rowBytes)) (.rowscatter core slot src rowBytes m perm dst dstRows) ∧
    (s.lane core slot (span src (m * rowBytes) ++ span perm (4 * m)) (span dst (dstRows * rowBytes)) →
      ps = (List.range m).map (fun i => s.readNat (perm + 4 * i) 4) →
      ((∀ p ∈ ps, p < dstRows) → ∃ t, exec (.rowscatter core slot src rowBytes m perm dst dstRows) s = .next t ∧
        t.mem = ((List.range m).foldl (fun u i => u.write (dst + nth 0 ps i * rowBytes) (u.read (src + i * rowBytes) rowBytes)) s).mem ∧
        s.outside t [{ base := dst, len := dstRows * rowBytes }] ∧ s.laneOnly core slot t ∧
        ((src + m * rowBytes ≤ dst ∨ dst + dstRows * rowBytes ≤ src) → ∀ i < m, (∀ j < m, i < j → nth 0 ps j ≠ nth 0 ps i) →
          t.read (dst + nth 0 ps i * rowBytes) rowBytes = s.read (src + i * rowBytes) rowBytes)) ∧
      ((∃ p ∈ ps, dstRows ≤ p) →
        ∃ t, exec (.rowscatter core slot src rowBytes m perm dst dstRows) s = .next t ∧ s.failsWith ((s.weir core).task slot).evalClass .indexRange t))

/-- The sparse encoders of a running task. SP_ENCODE stores each tile-row in its slot and nothing else; a tile-row that does not fit its slot is
INDEX_RANGE, and operands without a form are FORMAT_INVALID. MASK44 stores the tiles of the pattern that each block selects, the transposed ones where
they are asked for, and prunes the source where it is told to; a selected value without an encoding and operands without a form are FORMAT_INVALID,
and tile-rows beyond their slots INDEX_RANGE. So is a range against 08 R187. Elements of INT8 and INT4 take the scale of the tensor that each output
forms, those of BS8 and BS4 the recipe of its kind (log entries 34, 119, 127). -/
def Obligations.SparseStored : Prop :=
  ∀ (s : State) (core slot : Nat) (eval : Bool), eval = ((s.weir core).task slot).evalClass →
    (∀ (a : SpArgs) (coded : Bool) (reads writes : List Region) (b : List (List Byte)),
      coded = (decide (1 ≤ a.fmt) && decide (a.fmt ≤ 5) && (a.form == 1 || (a.form == 2 && !a.cap24)) && a.dstStride % 16 == 0) →
      reads = rowsRegion a.src a.lines a.srcStride (fmtBytes a.fmt a.k) → writes = headeredRegion a.dst a.lines a.dstStride →
      b = (tileRows (s.rowCodes a.fmt a.src a.srcStride a.lines a.k)).map (fun r => (tilePieces r).flatMap fun x => (encodeTile a.fmt a.form a.cap24 x).1) →
      s.laneRefuses core slot (if coded then none else some .formatInvalid) reads writes (.spEncode core slot a) ∧
      (coded = true → s.lane core slot reads writes →
        ((∃ x ∈ b, a.dstStride < x.length) → ∃ t, exec (.spEncode core slot a) s = .next t ∧ s.failsWith eval .indexRange t) ∧
        ((∀ x ∈ b, x.length ≤ a.dstStride) →
          ∃ t, exec (.spEncode core slot a) s = .next t ∧ (∀ j < b.length, t.read (a.dst + j * a.dstStride) (nth [] b j).length = nth [] b j) ∧
            s.outside t ((List.range b.length).map fun j => { base := a.dst + j * a.dstStride, len := (nth [] b j).length }) ∧ s.laneOnly core slot t))) ∧
    ∀ (a : MaskArgs) (rows lines : List (List FVal)) (codes codesT : List (List Nat)) (reads : List Region), reads = rowsRegion a.src a.k a.srcStride (fmtBytes a.sfmt a.n) →
      rows = (s.rowCodes a.sfmt a.src a.srcStride a.k a.n).map (fun r => r.map ((floatFmt a.sfmt).getD fp32).decode) →
      lines = flipped (.fin false 0 0) a.n rows →
      codes = (List.range (a.n / 4)).map (fun g => (List.range (a.k / 4)).map fun b =>
        mask44Code ((List.range 4).map fun r => ((nth [] rows (4 * b + r)).drop (4 * g)).take 4)) →
      codesT = (flipped 0 (a.k / 4) codes).map (fun l => l.map transpose44) →
      s.laneRefuses core slot (if maskCoded a then (if maskFits a then none else some .indexRange) else some .formatInvalid) reads (maskWrites a) (.mask44 core slot a) ∧
      (maskCoded a = true → maskFits a = true → s.lane core slot reads (maskWrites a) →
        (Masked.convert { lines := lines, codes := codes } a.fmt (s.intScale a.tensor a.fmt) (s.tensorKind a.tensor == 2) = none ∨
            (a.dstT.isSome = true ∧ Masked.convert { lines := rows, codes := codesT } a.fmt (s.intScale a.tensorT a.fmt) (s.tensorKind a.tensorT == 2) = none) →
          ∃ t, exec (.mask44 core slot a) s = .next t ∧ s.failsWith eval .formatInvalid t) ∧
        ∀ r rt, Masked.convert { lines := lines, codes := codes } a.fmt (s.intScale a.tensor a.fmt) (s.tensorKind a.tensor == 2) = some r →
          (a.dstT.isSome = true → Masked.convert { lines := rows, codes := codesT } a.fmt (s.intScale a.tensorT a.fmt) (s.tensorKind a.tensorT == 2) = some rt) →
          ∃ t, exec (.mask44 core slot a) s = .next t ∧
            ((isInt a.fmt && (s.evalTensor a.tensor || (a.dstT.isSome && s.evalTensor a.tensorT))) = false → s.laneOnly core slot t) ∧
            t.mem = (let u := s.put44 a.fmt a.dst a.dstStride a.scales codes r
                     let u := a.dstT.elim u fun d => u.put44 a.fmt d a.dstTStride a.scalesT codesT rt
                     if a.prune then u.pruned a codes else u).mem)

/-- Random draws of a running task. Each element takes the counter of its place in its stream: uniform values, keep decisions as 1 or 0, dropout by the
keep decision, and normal values by either method; nothing else is stored. A parameter that is no number or no probability and a tag that a program
may not draw with are FORMAT_INVALID, a range against 08 R187 INDEX_RANGE. An advance of a declared stream is kept with the attempt; in an EVAL,
without a declared stream, or with no such task running it does nothing. The generator's twelve rounds are those of 12 R295, of the seed, the place
plus the stream's offset, the step and the tag with the tensor; a uniform value is u times the difference, plus the lower bound, each rounded once; a
probability is a threshold out of 2^32, rounded to nearest; and a normal value is scaled with one rounding (log entry 71). -/
def Obligations.DrawsStored : Prop :=
  (∀ (seed : W64) (index step tag tensor : Nat) (g : GenState), g = generateAt seed index step tag tensor →
    (g.c0.toNat, g.c1.toNat, g.c2.toNat, g.c3.toNat) = generatorRounds (seed.toNat % 2 ^ 32) (seed.toNat / 2 ^ 32)
      (index % 2 ^ 32, index / 2 ^ 32 % 2 ^ 32, step % 2 ^ 32, (tag * 2 ^ 16 + tensor) % 2 ^ 32) generatorTable) ∧
  (∀ (s : State) (r : RngArgs) (e : Bool) (i : Nat), s.drawAt e r i = generateAt (s.prog.elim 0 (·.seed)) ((r.first + i + s.streamOffset e r.tag r.tensor) % 2 ^ 64)
      (if e then s.st.evals.head?.elim 0 (·.pinned) else if r.tag = 5 then s.prog.elim 0 (·.first) else s.st.stepNo)
      (if e = true ∧ 3 ≤ r.tag ∧ r.tag ≤ 5 then 6 else r.tag) r.tensor) ∧
  (∀ (g : GenState) (lo hi p : Nat) (x y w v : ℚ), x = (fp32.decode lo).value → y = (fp32.decode hi).value → w = (fp32.decode p).value →
    (probabilityOk p = true ↔ (fp32.decode p).finite = true ∧ 0 ≤ w ∧ w ≤ 1) ∧
    (probabilityOk p = true → v = |2 ^ 32 * w - keepThreshold p| → 2 * v ≤ 1 ∧ (2 * v = 1 → keepThreshold p % 2 = 0)) ∧
    ((fp32.decode lo).finite = true → (fp32.decode hi).finite = true → ∃ d, (y - x ≠ 0 → fp32.roundsTo (y - x) d) ∧ (y - x = 0 → (fp32.decode d).value = 0) ∧
      ((fp32.decode d).finite = true → v = (g.c0.toNat / 256 : Nat) / 2 ^ 24 * (fp32.decode d).value + x → v ≠ 0 → fp32.roundsTo v (uniformValue g lo hi).1)) ∧
    fp32.fusesTo (fp32.decode lo) (fp32.decode hi) (fp32.decode p) (scaleNormal lo hi p).1) ∧
  ∀ (s : State) (core slot : Nat) (r : RngArgs) (e : Bool) (o : Nat), e = ((s.weir core).task slot).evalClass → o = (if r.bf16 then 1 else 0) →
    (∀ c ok (val : GenState → Nat × AFlags),
      (∃ lo hi, c = .rngUniform core slot r lo hi ∧ ok = (numberOk lo && numberOk hi) ∧ val = fun g => uniformValue g lo.toNat hi.toNat) ∨
       (∃ p, c = .rngBernoulli core slot r p ∧ ok = probabilityOk p.toNat ∧
         val = fun g => (if g.c0.toNat < keepThreshold p.toNat then 0x3F800000 else 0, {})) ∨
       (∃ mean std, c = .rngNormalBm core slot r mean std ∧ ok = (numberOk mean && numberOk std) ∧ val = fun g => scaleNormal (normalBmZ g) std.toNat mean.toNat) ∨
       (∃ mean std, c = .rngNormalTab core slot r mean std ∧ ok = (numberOk mean && numberOk std) ∧ val = fun g => scaleNormal (normalTabZ g) std.toNat mean.toNat) →
      s.laneRefuses core slot (if ok && tagOk r.tag then none else some .formatInvalid) [] (span r.dst (fmtBytes o r.n)) c ∧
      (ok = true → tagOk r.tag = true → s.lane core slot [] (span r.dst (fmtBytes o r.n)) →
        ∃ t, exec c s = .next t ∧ t.read r.dst (fmtBytes o r.n) = packCodes o ((List.range r.n).map fun i => (rngOut r.bf16 (val (s.drawAt e r i))).1) ∧
          s.outside t [{ base := r.dst, len := fmtBytes o r.n }] ∧ s.laneOnly core slot t)) ∧
    (∀ p scale x ok, ok = (probabilityOk p.toNat && numberOk scale) →
      s.laneRefuses core slot (if ok && tagOk r.tag then none else some .formatInvalid) (span x (fmtBytes o r.n)) (span r.dst (fmtBytes o r.n)) (.rngDropout core slot r p scale x) ∧
      (ok = true → tagOk r.tag = true → s.lane core slot (span x (fmtBytes o r.n)) (span r.dst (fmtBytes o r.n)) →
        ∃ t, exec (.rngDropout core slot r p scale x) s = .next t ∧
          t.read r.dst (fmtBytes o r.n) = packCodes o ((List.range r.n).map fun i => (rngOut r.bf16
            (if (s.drawAt e r i).c0.toNat < keepThreshold p.toNat then fp32.mulVals (s.valueAt o x r.n i) (fp32.decode scale.toNat) else (0, {}))).1) ∧
          s.outside t [{ base := r.dst, len := fmtBytes o r.n }] ∧ s.laneOnly core slot t)) ∧
    ∀ tag tensor amount,
      (∀ i, s.runs core slot = true → s.workLive e = true → e = false → s.streamOf tag tensor = some i → exec (.rngAdvance core slot tag tensor amount) s =
        .next { s with st := { s.st with advances := s.st.advances ++ [(i, amount.toNat)] } }) ∧
      (s.runs core slot = false ∨ s.workLive e = false ∨ e = true ∨ s.streamOf tag tensor = none → exec (.rngAdvance core slot tag tensor amount) s = .next s)
end

