-- ==== Sys2Proof/Laws/State.lean ====
section
/-! SUPPORT. What each named update of the state leaves as it was, one lemma per field. -/

namespace Sys2Proof.Machine

open Sys2Proof

@[simp] theorem State.write_pwr (s : State) (a : Nat) (b : List Byte) : (s.write a b).pwr = s.pwr := rfl
@[simp] theorem State.write_fuse (s : State) (a : Nat) (b : List Byte) : (s.write a b).fuse = s.fuse := rfl
@[simp] theorem State.write_nor (s : State) (a : Nat) (b : List Byte) : (s.write a b).nor = s.nor := rfl
@[simp] theorem State.write_slotOpen (s : State) (a : Nat) (b : List Byte) : (s.write a b).slotOpen = s.slotOpen := rfl
@[simp] theorem State.write_sermem (s : State) (a : Nat) (b : List Byte) : (s.write a b).sermem = s.sermem := rfl
@[simp] theorem State.write_ms (s : State) (a : Nat) (b : List Byte) : (s.write a b).ms = s.ms := rfl
@[simp] theorem State.write_regs (s : State) (a : Nat) (b : List Byte) : (s.write a b).regs = s.regs := rfl
@[simp] theorem State.write_ctr (s : State) (a : Nat) (b : List Byte) : (s.write a b).ctr = s.ctr := rfl
@[simp] theorem State.write_ind (s : State) (a : Nat) (b : List Byte) : (s.write a b).ind = s.ind := rfl
@[simp] theorem State.write_host (s : State) (a : Nat) (b : List Byte) : (s.write a b).host = s.host := rfl
@[simp] theorem State.write_tier (s : State) (a : Nat) (b : List Byte) : (s.write a b).tier = s.tier := rfl
@[simp] theorem State.write_mach (s : State) (a : Nat) (b : List Byte) : (s.write a b).mach = s.mach := rfl
@[simp] theorem State.write_prog (s : State) (a : Nat) (b : List Byte) : (s.write a b).prog = s.prog := rfl
@[simp] theorem State.write_loadWait (s : State) (a : Nat) (b : List Byte) : (s.write a b).loadWait = s.loadWait := rfl
@[simp] theorem State.write_st (s : State) (a : Nat) (b : List Byte) : (s.write a b).st = s.st := rfl
@[simp] theorem State.write_ex (s : State) (a : Nat) (b : List Byte) : (s.write a b).ex = s.ex := rfl
@[simp] theorem State.write_conf (s : State) (a : Nat) (b : List Byte) : (s.write a b).conf = s.conf := rfl
@[simp] theorem State.write_wd (s : State) (a : Nat) (b : List Byte) : (s.write a b).wd = s.wd := rfl
@[simp] theorem State.write_bar (s : State) (a : Nat) (b : List Byte) : (s.write a b).bar = s.bar := rfl
@[simp] theorem State.write_mir (s : State) (a : Nat) (b : List Byte) : (s.write a b).mir = s.mir := rfl
@[simp] theorem State.write_recov (s : State) (a : Nat) (b : List Byte) : (s.write a b).recov = s.recov := rfl
@[simp] theorem State.write_net (s : State) (a : Nat) (b : List Byte) : (s.write a b).net = s.net := rfl
@[simp] theorem State.write_gc (s : State) (a : Nat) (b : List Byte) : (s.write a b).gc = s.gc := rfl
@[simp] theorem State.write_free (s : State) (a : Nat) (b : List Byte) : (s.write a b).free = s.free := rfl
@[simp] theorem State.write_pending (s : State) (a : Nat) (b : List Byte) : (s.write a b).pending = s.pending := rfl

@[simp] theorem State.setCounter_pwr (s : State) (i : Nat) (v : W64) : (s.setCounter i v).pwr = s.pwr := rfl
@[simp] theorem State.setCounter_fuse (s : State) (i : Nat) (v : W64) : (s.setCounter i v).fuse = s.fuse := rfl
@[simp] theorem State.setCounter_nor (s : State) (i : Nat) (v : W64) : (s.setCounter i v).nor = s.nor := rfl
@[simp] theorem State.setCounter_slotOpen (s : State) (i : Nat) (v : W64) : (s.setCounter i v).slotOpen = s.slotOpen := rfl
@[simp] theorem State.setCounter_sermem (s : State) (i : Nat) (v : W64) : (s.setCounter i v).sermem = s.sermem := rfl
@[simp] theorem State.setCounter_ms (s : State) (i : Nat) (v : W64) : (s.setCounter i v).ms = s.ms := rfl
@[simp] theorem State.setCounter_regs (s : State) (i : Nat) (v : W64) : (s.setCounter i v).regs = s.regs := rfl
@[simp] theorem State.setCounter_ind (s : State) (i : Nat) (v : W64) : (s.setCounter i v).ind = s.ind := rfl
@[simp] theorem State.setCounter_host (s : State) (i : Nat) (v : W64) : (s.setCounter i v).host = s.host := rfl
@[simp] theorem State.setCounter_mem (s : State) (i : Nat) (v : W64) : (s.setCounter i v).mem = s.mem := rfl
@[simp] theorem State.setCounter_tier (s : State) (i : Nat) (v : W64) : (s.setCounter i v).tier = s.tier := rfl
@[simp] theorem State.setCounter_mach (s : State) (i : Nat) (v : W64) : (s.setCounter i v).mach = s.mach := rfl
@[simp] theorem State.setCounter_prog (s : State) (i : Nat) (v : W64) : (s.setCounter i v).prog = s.prog := rfl
@[simp] theorem State.setCounter_loadWait (s : State) (i : Nat) (v : W64) : (s.setCounter i v).loadWait = s.loadWait := rfl
@[simp] theorem State.setCounter_st (s : State) (i : Nat) (v : W64) : (s.setCounter i v).st = s.st := rfl
@[simp] theorem State.setCounter_ex (s : State) (i : Nat) (v : W64) : (s.setCounter i v).ex = s.ex := rfl
@[simp] theorem State.setCounter_conf (s : State) (i : Nat) (v : W64) : (s.setCounter i v).conf = s.conf := rfl
@[simp] theorem State.setCounter_wd (s : State) (i : Nat) (v : W64) : (s.setCounter i v).wd = s.wd := rfl
@[simp] theorem State.setCounter_bar (s : State) (i : Nat) (v : W64) : (s.setCounter i v).bar = s.bar := rfl
@[simp] theorem State.setCounter_mir (s : State) (i : Nat) (v : W64) : (s.setCounter i v).mir = s.mir := rfl
@[simp] theorem State.setCounter_recov (s : State) (i : Nat) (v : W64) : (s.setCounter i v).recov = s.recov := rfl
@[simp] theorem State.setCounter_net (s : State) (i : Nat) (v : W64) : (s.setCounter i v).net = s.net := rfl
@[simp] theorem State.setCounter_gc (s : State) (i : Nat) (v : W64) : (s.setCounter i v).gc = s.gc := rfl
@[simp] theorem State.setCounter_free (s : State) (i : Nat) (v : W64) : (s.setCounter i v).free = s.free := rfl
@[simp] theorem State.setCounter_pending (s : State) (i : Nat) (v : W64) : (s.setCounter i v).pending = s.pending := rfl

@[simp] theorem State.count_pwr (s : State) (i n : Nat) : (s.count i n).pwr = s.pwr := rfl
@[simp] theorem State.count_fuse (s : State) (i n : Nat) : (s.count i n).fuse = s.fuse := rfl
@[simp] theorem State.count_nor (s : State) (i n : Nat) : (s.count i n).nor = s.nor := rfl
@[simp] theorem State.count_slotOpen (s : State) (i n : Nat) : (s.count i n).slotOpen = s.slotOpen := rfl
@[simp] theorem State.count_sermem (s : State) (i n : Nat) : (s.count i n).sermem = s.sermem := rfl
@[simp] theorem State.count_ms (s : State) (i n : Nat) : (s.count i n).ms = s.ms := rfl
@[simp] theorem State.count_regs (s : State) (i n : Nat) : (s.count i n).regs = s.regs := rfl
@[simp] theorem State.count_ind (s : State) (i n : Nat) : (s.count i n).ind = s.ind := rfl
@[simp] theorem State.count_host (s : State) (i n : Nat) : (s.count i n).host = s.host := rfl
@[simp] theorem State.count_mem (s : State) (i n : Nat) : (s.count i n).mem = s.mem := rfl
@[simp] theorem State.count_tier (s : State) (i n : Nat) : (s.count i n).tier = s.tier := rfl
@[simp] theorem State.count_mach (s : State) (i n : Nat) : (s.count i n).mach = s.mach := rfl
@[simp] theorem State.count_prog (s : State) (i n : Nat) : (s.count i n).prog = s.prog := rfl
@[simp] theorem State.count_loadWait (s : State) (i n : Nat) : (s.count i n).loadWait = s.loadWait := rfl
@[simp] theorem State.count_st (s : State) (i n : Nat) : (s.count i n).st = s.st := rfl
@[simp] theorem State.count_ex (s : State) (i n : Nat) : (s.count i n).ex = s.ex := rfl
@[simp] theorem State.count_conf (s : State) (i n : Nat) : (s.count i n).conf = s.conf := rfl
@[simp] theorem State.count_wd (s : State) (i n : Nat) : (s.count i n).wd = s.wd := rfl
@[simp] theorem State.count_bar (s : State) (i n : Nat) : (s.count i n).bar = s.bar := rfl
@[simp] theorem State.count_mir (s : State) (i n : Nat) : (s.count i n).mir = s.mir := rfl
@[simp] theorem State.count_recov (s : State) (i n : Nat) : (s.count i n).recov = s.recov := rfl
@[simp] theorem State.count_net (s : State) (i n : Nat) : (s.count i n).net = s.net := rfl
@[simp] theorem State.count_gc (s : State) (i n : Nat) : (s.count i n).gc = s.gc := rfl
@[simp] theorem State.count_free (s : State) (i n : Nat) : (s.count i n).free = s.free := rfl
@[simp] theorem State.count_pending (s : State) (i n : Nat) : (s.count i n).pending = s.pending := rfl

@[simp] theorem State.setRing_pwr (s : State) (n : Nat) (r : Ring) : (s.setRing n r).pwr = s.pwr := rfl
@[simp] theorem State.setRing_fuse (s : State) (n : Nat) (r : Ring) : (s.setRing n r).fuse = s.fuse := rfl
@[simp] theorem State.setRing_nor (s : State) (n : Nat) (r : Ring) : (s.setRing n r).nor = s.nor := rfl
@[simp] theorem State.setRing_slotOpen (s : State) (n : Nat) (r : Ring) : (s.setRing n r).slotOpen = s.slotOpen := rfl
@[simp] theorem State.setRing_sermem (s : State) (n : Nat) (r : Ring) : (s.setRing n r).sermem = s.sermem := rfl
@[simp] theorem State.setRing_ms (s : State) (n : Nat) (r : Ring) : (s.setRing n r).ms = s.ms := rfl
@[simp] theorem State.setRing_regs (s : State) (n : Nat) (r : Ring) : (s.setRing n r).regs = s.regs := rfl
@[simp] theorem State.setRing_ctr (s : State) (n : Nat) (r : Ring) : (s.setRing n r).ctr = s.ctr := rfl
@[simp] theorem State.setRing_ind (s : State) (n : Nat) (r : Ring) : (s.setRing n r).ind = s.ind := rfl
@[simp] theorem State.setRing_mem (s : State) (n : Nat) (r : Ring) : (s.setRing n r).mem = s.mem := rfl
@[simp] theorem State.setRing_tier (s : State) (n : Nat) (r : Ring) : (s.setRing n r).tier = s.tier := rfl
@[simp] theorem State.setRing_mach (s : State) (n : Nat) (r : Ring) : (s.setRing n r).mach = s.mach := rfl
@[simp] theorem State.setRing_prog (s : State) (n : Nat) (r : Ring) : (s.setRing n r).prog = s.prog := rfl
@[simp] theorem State.setRing_loadWait (s : State) (n : Nat) (r : Ring) : (s.setRing n r).loadWait = s.loadWait := rfl
@[simp] theorem State.setRing_st (s : State) (n : Nat) (r : Ring) : (s.setRing n r).st = s.st := rfl
@[simp] theorem State.setRing_ex (s : State) (n : Nat) (r : Ring) : (s.setRing n r).ex = s.ex := rfl
@[simp] theorem State.setRing_conf (s : State) (n : Nat) (r : Ring) : (s.setRing n r).conf = s.conf := rfl
@[simp] theorem State.setRing_wd (s : State) (n : Nat) (r : Ring) : (s.setRing n r).wd = s.wd := rfl
@[simp] theorem State.setRing_bar (s : State) (n : Nat) (r : Ring) : (s.setRing n r).bar = s.bar := rfl
@[simp] theorem State.setRing_mir (s : State) (n : Nat) (r : Ring) : (s.setRing n r).mir = s.mir := rfl
@[simp] theorem State.setRing_recov (s : State) (n : Nat) (r : Ring) : (s.setRing n r).recov = s.recov := rfl
@[simp] theorem State.setRing_net (s : State) (n : Nat) (r : Ring) : (s.setRing n r).net = s.net := rfl
@[simp] theorem State.setRing_gc (s : State) (n : Nat) (r : Ring) : (s.setRing n r).gc = s.gc := rfl
@[simp] theorem State.setRing_free (s : State) (n : Nat) (r : Ring) : (s.setRing n r).free = s.free := rfl
@[simp] theorem State.setRing_pending (s : State) (n : Nat) (r : Ring) : (s.setRing n r).pending = s.pending := rfl

@[simp] theorem State.setPort_pwr (s : State) (p : Nat) (x : Port) : (s.setPort p x).pwr = s.pwr := rfl
@[simp] theorem State.setPort_fuse (s : State) (p : Nat) (x : Port) : (s.setPort p x).fuse = s.fuse := rfl
@[simp] theorem State.setPort_nor (s : State) (p : Nat) (x : Port) : (s.setPort p x).nor = s.nor := rfl
@[simp] theorem State.setPort_slotOpen (s : State) (p : Nat) (x : Port) : (s.setPort p x).slotOpen = s.slotOpen := rfl
@[simp] theorem State.setPort_sermem (s : State) (p : Nat) (x : Port) : (s.setPort p x).sermem = s.sermem := rfl
@[simp] theorem State.setPort_ms (s : State) (p : Nat) (x : Port) : (s.setPort p x).ms = s.ms := rfl
@[simp] theorem State.setPort_regs (s : State) (p : Nat) (x : Port) : (s.setPort p x).regs = s.regs := rfl
@[simp] theorem State.setPort_ctr (s : State) (p : Nat) (x : Port) : (s.setPort p x).ctr = s.ctr := rfl
@[simp] theorem State.setPort_ind (s : State) (p : Nat) (x : Port) : (s.setPort p x).ind = s.ind := rfl
@[simp] theorem State.setPort_host (s : State) (p : Nat) (x : Port) : (s.setPort p x).host = s.host := rfl
@[simp] theorem State.setPort_mem (s : State) (p : Nat) (x : Port) : (s.setPort p x).mem = s.mem := rfl
@[simp] theorem State.setPort_tier (s : State) (p : Nat) (x : Port) : (s.setPort p x).tier = s.tier := rfl
@[simp] theorem State.setPort_mach (s : State) (p : Nat) (x : Port) : (s.setPort p x).mach = s.mach := rfl
@[simp] theorem State.setPort_prog (s : State) (p : Nat) (x : Port) : (s.setPort p x).prog = s.prog := rfl
@[simp] theorem State.setPort_loadWait (s : State) (p : Nat) (x : Port) : (s.setPort p x).loadWait = s.loadWait := rfl
@[simp] theorem State.setPort_st (s : State) (p : Nat) (x : Port) : (s.setPort p x).st = s.st := rfl
@[simp] theorem State.setPort_ex (s : State) (p : Nat) (x : Port) : (s.setPort p x).ex = s.ex := rfl
@[simp] theorem State.setPort_conf (s : State) (p : Nat) (x : Port) : (s.setPort p x).conf = s.conf := rfl
@[simp] theorem State.setPort_wd (s : State) (p : Nat) (x : Port) : (s.setPort p x).wd = s.wd := rfl
@[simp] theorem State.setPort_bar (s : State) (p : Nat) (x : Port) : (s.setPort p x).bar = s.bar := rfl
@[simp] theorem State.setPort_mir (s : State) (p : Nat) (x : Port) : (s.setPort p x).mir = s.mir := rfl
@[simp] theorem State.setPort_recov (s : State) (p : Nat) (x : Port) : (s.setPort p x).recov = s.recov := rfl
@[simp] theorem State.setPort_gc (s : State) (p : Nat) (x : Port) : (s.setPort p x).gc = s.gc := rfl
@[simp] theorem State.setPort_free (s : State) (p : Nat) (x : Port) : (s.setPort p x).free = s.free := rfl
@[simp] theorem State.setPort_pending (s : State) (p : Nat) (x : Port) : (s.setPort p x).pending = s.pending := rfl

@[simp] theorem State.setWeir_pwr (s : State) (c : Nat) (w : Weir) : (s.setWeir c w).pwr = s.pwr := rfl
@[simp] theorem State.setWeir_fuse (s : State) (c : Nat) (w : Weir) : (s.setWeir c w).fuse = s.fuse := rfl
@[simp] theorem State.setWeir_nor (s : State) (c : Nat) (w : Weir) : (s.setWeir c w).nor = s.nor := rfl
@[simp] theorem State.setWeir_slotOpen (s : State) (c : Nat) (w : Weir) : (s.setWeir c w).slotOpen = s.slotOpen := rfl
@[simp] theorem State.setWeir_sermem (s : State) (c : Nat) (w : Weir) : (s.setWeir c w).sermem = s.sermem := rfl
@[simp] theorem State.setWeir_ms (s : State) (c : Nat) (w : Weir) : (s.setWeir c w).ms = s.ms := rfl
@[simp] theorem State.setWeir_regs (s : State) (c : Nat) (w : Weir) : (s.setWeir c w).regs = s.regs := rfl
@[simp] theorem State.setWeir_ctr (s : State) (c : Nat) (w : Weir) : (s.setWeir c w).ctr = s.ctr := rfl
@[simp] theorem State.setWeir_ind (s : State) (c : Nat) (w : Weir) : (s.setWeir c w).ind = s.ind := rfl
@[simp] theorem State.setWeir_host (s : State) (c : Nat) (w : Weir) : (s.setWeir c w).host = s.host := rfl
@[simp] theorem State.setWeir_mem (s : State) (c : Nat) (w : Weir) : (s.setWeir c w).mem = s.mem := rfl
@[simp] theorem State.setWeir_tier (s : State) (c : Nat) (w : Weir) : (s.setWeir c w).tier = s.tier := rfl
@[simp] theorem State.setWeir_mach (s : State) (c : Nat) (w : Weir) : (s.setWeir c w).mach = s.mach := rfl
@[simp] theorem State.setWeir_prog (s : State) (c : Nat) (w : Weir) : (s.setWeir c w).prog = s.prog := rfl
@[simp] theorem State.setWeir_loadWait (s : State) (c : Nat) (w : Weir) : (s.setWeir c w).loadWait = s.loadWait := rfl
@[simp] theorem State.setWeir_st (s : State) (c : Nat) (w : Weir) : (s.setWeir c w).st = s.st := rfl
@[simp] theorem State.setWeir_ex (s : State) (c : Nat) (w : Weir) : (s.setWeir c w).ex = s.ex := rfl
@[simp] theorem State.setWeir_conf (s : State) (c : Nat) (w : Weir) : (s.setWeir c w).conf = s.conf := rfl
@[simp] theorem State.setWeir_wd (s : State) (c : Nat) (w : Weir) : (s.setWeir c w).wd = s.wd := rfl
@[simp] theorem State.setWeir_bar (s : State) (c : Nat) (w : Weir) : (s.setWeir c w).bar = s.bar := rfl
@[simp] theorem State.setWeir_mir (s : State) (c : Nat) (w : Weir) : (s.setWeir c w).mir = s.mir := rfl
@[simp] theorem State.setWeir_recov (s : State) (c : Nat) (w : Weir) : (s.setWeir c w).recov = s.recov := rfl
@[simp] theorem State.setWeir_net (s : State) (c : Nat) (w : Weir) : (s.setWeir c w).net = s.net := rfl
@[simp] theorem State.setWeir_free (s : State) (c : Nat) (w : Weir) : (s.setWeir c w).free = s.free := rfl
@[simp] theorem State.setWeir_pending (s : State) (c : Nat) (w : Weir) : (s.setWeir c w).pending = s.pending := rfl

@[simp] theorem State.setTask_pwr (s : State) (c k : Nat) (t : Task) : (s.setTask c k t).pwr = s.pwr := rfl
@[simp] theorem State.setTask_fuse (s : State) (c k : Nat) (t : Task) : (s.setTask c k t).fuse = s.fuse := rfl
@[simp] theorem State.setTask_nor (s : State) (c k : Nat) (t : Task) : (s.setTask c k t).nor = s.nor := rfl
@[simp] theorem State.setTask_slotOpen (s : State) (c k : Nat) (t : Task) : (s.setTask c k t).slotOpen = s.slotOpen := rfl
@[simp] theorem State.setTask_sermem (s : State) (c k : Nat) (t : Task) : (s.setTask c k t).sermem = s.sermem := rfl
@[simp] theorem State.setTask_ms (s : State) (c k : Nat) (t : Task) : (s.setTask c k t).ms = s.ms := rfl
@[simp] theorem State.setTask_regs (s : State) (c k : Nat) (t : Task) : (s.setTask c k t).regs = s.regs := rfl
@[simp] theorem State.setTask_ctr (s : State) (c k : Nat) (t : Task) : (s.setTask c k t).ctr = s.ctr := rfl
@[simp] theorem State.setTask_ind (s : State) (c k : Nat) (t : Task) : (s.setTask c k t).ind = s.ind := rfl
@[simp] theorem State.setTask_host (s : State) (c k : Nat) (t : Task) : (s.setTask c k t).host = s.host := rfl
@[simp] theorem State.setTask_mem (s : State) (c k : Nat) (t : Task) : (s.setTask c k t).mem = s.mem := rfl
@[simp] theorem State.setTask_tier (s : State) (c k : Nat) (t : Task) : (s.setTask c k t).tier = s.tier := rfl
@[simp] theorem State.setTask_mach (s : State) (c k : Nat) (t : Task) : (s.setTask c k t).mach = s.mach := rfl
@[simp] theorem State.setTask_prog (s : State) (c k : Nat) (t : Task) : (s.setTask c k t).prog = s.prog := rfl
@[simp] theorem State.setTask_loadWait (s : State) (c k : Nat) (t : Task) : (s.setTask c k t).loadWait = s.loadWait := rfl
@[simp] theorem State.setTask_st (s : State) (c k : Nat) (t : Task) : (s.setTask c k t).st = s.st := rfl
@[simp] theorem State.setTask_ex (s : State) (c k : Nat) (t : Task) : (s.setTask c k t).ex = s.ex := rfl
@[simp] theorem State.setTask_conf (s : State) (c k : Nat) (t : Task) : (s.setTask c k t).conf = s.conf := rfl
@[simp] theorem State.setTask_wd (s : State) (c k : Nat) (t : Task) : (s.setTask c k t).wd = s.wd := rfl
@[simp] theorem State.setTask_bar (s : State) (c k : Nat) (t : Task) : (s.setTask c k t).bar = s.bar := rfl
@[simp] theorem State.setTask_mir (s : State) (c k : Nat) (t : Task) : (s.setTask c k t).mir = s.mir := rfl
@[simp] theorem State.setTask_recov (s : State) (c k : Nat) (t : Task) : (s.setTask c k t).recov = s.recov := rfl
@[simp] theorem State.setTask_net (s : State) (c k : Nat) (t : Task) : (s.setTask c k t).net = s.net := rfl
@[simp] theorem State.setTask_free (s : State) (c k : Nat) (t : Task) : (s.setTask c k t).free = s.free := rfl
@[simp] theorem State.setTask_pending (s : State) (c k : Nat) (t : Task) : (s.setTask c k t).pending = s.pending := rfl

@[simp] theorem State.setBarrier_pwr (s : State) (k : Nat) (b : Barrier) : (s.setBarrier k b).pwr = s.pwr := rfl
@[simp] theorem State.setBarrier_fuse (s : State) (k : Nat) (b : Barrier) : (s.setBarrier k b).fuse = s.fuse := rfl
@[simp] theorem State.setBarrier_nor (s : State) (k : Nat) (b : Barrier) : (s.setBarrier k b).nor = s.nor := rfl
@[simp] theorem State.setBarrier_slotOpen (s : State) (k : Nat) (b : Barrier) : (s.setBarrier k b).slotOpen = s.slotOpen := rfl
@[simp] theorem State.setBarrier_sermem (s : State) (k : Nat) (b : Barrier) : (s.setBarrier k b).sermem = s.sermem := rfl
@[simp] theorem State.setBarrier_ms (s : State) (k : Nat) (b : Barrier) : (s.setBarrier k b).ms = s.ms := rfl
@[simp] theorem State.setBarrier_regs (s : State) (k : Nat) (b : Barrier) : (s.setBarrier k b).regs = s.regs := rfl
@[simp] theorem State.setBarrier_ctr (s : State) (k : Nat) (b : Barrier) : (s.setBarrier k b).ctr = s.ctr := rfl
@[simp] theorem State.setBarrier_ind (s : State) (k : Nat) (b : Barrier) : (s.setBarrier k b).ind = s.ind := rfl
@[simp] theorem State.setBarrier_host (s : State) (k : Nat) (b : Barrier) : (s.setBarrier k b).host = s.host := rfl
@[simp] theorem State.setBarrier_mem (s : State) (k : Nat) (b : Barrier) : (s.setBarrier k b).mem = s.mem := rfl
@[simp] theorem State.setBarrier_tier (s : State) (k : Nat) (b : Barrier) : (s.setBarrier k b).tier = s.tier := rfl
@[simp] theorem State.setBarrier_mach (s : State) (k : Nat) (b : Barrier) : (s.setBarrier k b).mach = s.mach := rfl
@[simp] theorem State.setBarrier_prog (s : State) (k : Nat) (b : Barrier) : (s.setBarrier k b).prog = s.prog := rfl
@[simp] theorem State.setBarrier_loadWait (s : State) (k : Nat) (b : Barrier) : (s.setBarrier k b).loadWait = s.loadWait := rfl
@[simp] theorem State.setBarrier_st (s : State) (k : Nat) (b : Barrier) : (s.setBarrier k b).st = s.st := rfl
@[simp] theorem State.setBarrier_ex (s : State) (k : Nat) (b : Barrier) : (s.setBarrier k b).ex = s.ex := rfl
@[simp] theorem State.setBarrier_conf (s : State) (k : Nat) (b : Barrier) : (s.setBarrier k b).conf = s.conf := rfl
@[simp] theorem State.setBarrier_wd (s : State) (k : Nat) (b : Barrier) : (s.setBarrier k b).wd = s.wd := rfl
@[simp] theorem State.setBarrier_mir (s : State) (k : Nat) (b : Barrier) : (s.setBarrier k b).mir = s.mir := rfl
@[simp] theorem State.setBarrier_recov (s : State) (k : Nat) (b : Barrier) : (s.setBarrier k b).recov = s.recov := rfl
@[simp] theorem State.setBarrier_net (s : State) (k : Nat) (b : Barrier) : (s.setBarrier k b).net = s.net := rfl
@[simp] theorem State.setBarrier_gc (s : State) (k : Nat) (b : Barrier) : (s.setBarrier k b).gc = s.gc := rfl
@[simp] theorem State.setBarrier_free (s : State) (k : Nat) (b : Barrier) : (s.setBarrier k b).free = s.free := rfl
@[simp] theorem State.setBarrier_pending (s : State) (k : Nat) (b : Barrier) : (s.setBarrier k b).pending = s.pending := rfl

@[simp] theorem State.setHeld_pwr (s : State) (x : MirPart) : (s.setHeld x).pwr = s.pwr := rfl
@[simp] theorem State.setHeld_fuse (s : State) (x : MirPart) : (s.setHeld x).fuse = s.fuse := rfl
@[simp] theorem State.setHeld_nor (s : State) (x : MirPart) : (s.setHeld x).nor = s.nor := rfl
@[simp] theorem State.setHeld_slotOpen (s : State) (x : MirPart) : (s.setHeld x).slotOpen = s.slotOpen := rfl
@[simp] theorem State.setHeld_sermem (s : State) (x : MirPart) : (s.setHeld x).sermem = s.sermem := rfl
@[simp] theorem State.setHeld_ms (s : State) (x : MirPart) : (s.setHeld x).ms = s.ms := rfl
@[simp] theorem State.setHeld_regs (s : State) (x : MirPart) : (s.setHeld x).regs = s.regs := rfl
@[simp] theorem State.setHeld_ctr (s : State) (x : MirPart) : (s.setHeld x).ctr = s.ctr := rfl
@[simp] theorem State.setHeld_ind (s : State) (x : MirPart) : (s.setHeld x).ind = s.ind := rfl
@[simp] theorem State.setHeld_host (s : State) (x : MirPart) : (s.setHeld x).host = s.host := rfl
@[simp] theorem State.setHeld_mem (s : State) (x : MirPart) : (s.setHeld x).mem = s.mem := rfl
@[simp] theorem State.setHeld_tier (s : State) (x : MirPart) : (s.setHeld x).tier = s.tier := rfl
@[simp] theorem State.setHeld_mach (s : State) (x : MirPart) : (s.setHeld x).mach = s.mach := rfl
@[simp] theorem State.setHeld_prog (s : State) (x : MirPart) : (s.setHeld x).prog = s.prog := rfl
@[simp] theorem State.setHeld_loadWait (s : State) (x : MirPart) : (s.setHeld x).loadWait = s.loadWait := rfl
@[simp] theorem State.setHeld_st (s : State) (x : MirPart) : (s.setHeld x).st = s.st := rfl
@[simp] theorem State.setHeld_ex (s : State) (x : MirPart) : (s.setHeld x).ex = s.ex := rfl
@[simp] theorem State.setHeld_conf (s : State) (x : MirPart) : (s.setHeld x).conf = s.conf := rfl
@[simp] theorem State.setHeld_wd (s : State) (x : MirPart) : (s.setHeld x).wd = s.wd := rfl
@[simp] theorem State.setHeld_bar (s : State) (x : MirPart) : (s.setHeld x).bar = s.bar := rfl
@[simp] theorem State.setHeld_recov (s : State) (x : MirPart) : (s.setHeld x).recov = s.recov := rfl
@[simp] theorem State.setHeld_net (s : State) (x : MirPart) : (s.setHeld x).net = s.net := rfl
@[simp] theorem State.setHeld_gc (s : State) (x : MirPart) : (s.setHeld x).gc = s.gc := rfl
@[simp] theorem State.setHeld_free (s : State) (x : MirPart) : (s.setHeld x).free = s.free := rfl
@[simp] theorem State.setHeld_pending (s : State) (x : MirPart) : (s.setHeld x).pending = s.pending := rfl

@[simp] theorem State.setPull_pwr (s : State) (x : Pull) : (s.setPull x).pwr = s.pwr := rfl
@[simp] theorem State.setPull_fuse (s : State) (x : Pull) : (s.setPull x).fuse = s.fuse := rfl
@[simp] theorem State.setPull_nor (s : State) (x : Pull) : (s.setPull x).nor = s.nor := rfl
@[simp] theorem State.setPull_slotOpen (s : State) (x : Pull) : (s.setPull x).slotOpen = s.slotOpen := rfl
@[simp] theorem State.setPull_sermem (s : State) (x : Pull) : (s.setPull x).sermem = s.sermem := rfl
@[simp] theorem State.setPull_ms (s : State) (x : Pull) : (s.setPull x).ms = s.ms := rfl
@[simp] theorem State.setPull_regs (s : State) (x : Pull) : (s.setPull x).regs = s.regs := rfl
@[simp] theorem State.setPull_ctr (s : State) (x : Pull) : (s.setPull x).ctr = s.ctr := rfl
@[simp] theorem State.setPull_ind (s : State) (x : Pull) : (s.setPull x).ind = s.ind := rfl
@[simp] theorem State.setPull_host (s : State) (x : Pull) : (s.setPull x).host = s.host := rfl
@[simp] theorem State.setPull_mem (s : State) (x : Pull) : (s.setPull x).mem = s.mem := rfl
@[simp] theorem State.setPull_tier (s : State) (x : Pull) : (s.setPull x).tier = s.tier := rfl
@[simp] theorem State.setPull_mach (s : State) (x : Pull) : (s.setPull x).mach = s.mach := rfl
@[simp] theorem State.setPull_prog (s : State) (x : Pull) : (s.setPull x).prog = s.prog := rfl
@[simp] theorem State.setPull_loadWait (s : State) (x : Pull) : (s.setPull x).loadWait = s.loadWait := rfl
@[simp] theorem State.setPull_st (s : State) (x : Pull) : (s.setPull x).st = s.st := rfl
@[simp] theorem State.setPull_ex (s : State) (x : Pull) : (s.setPull x).ex = s.ex := rfl
@[simp] theorem State.setPull_conf (s : State) (x : Pull) : (s.setPull x).conf = s.conf := rfl
@[simp] theorem State.setPull_wd (s : State) (x : Pull) : (s.setPull x).wd = s.wd := rfl
@[simp] theorem State.setPull_bar (s : State) (x : Pull) : (s.setPull x).bar = s.bar := rfl
@[simp] theorem State.setPull_recov (s : State) (x : Pull) : (s.setPull x).recov = s.recov := rfl
@[simp] theorem State.setPull_net (s : State) (x : Pull) : (s.setPull x).net = s.net := rfl
@[simp] theorem State.setPull_gc (s : State) (x : Pull) : (s.setPull x).gc = s.gc := rfl
@[simp] theorem State.setPull_free (s : State) (x : Pull) : (s.setPull x).free = s.free := rfl
@[simp] theorem State.setPull_pending (s : State) (x : Pull) : (s.setPull x).pending = s.pending := rfl

@[simp] theorem State.setDir_pwr (s : State) (t row slot v : Nat) : (s.setDir t row slot v).pwr = s.pwr := rfl
@[simp] theorem State.setDir_fuse (s : State) (t row slot v : Nat) : (s.setDir t row slot v).fuse = s.fuse := rfl
@[simp] theorem State.setDir_nor (s : State) (t row slot v : Nat) : (s.setDir t row slot v).nor = s.nor := rfl
@[simp] theorem State.setDir_slotOpen (s : State) (t row slot v : Nat) : (s.setDir t row slot v).slotOpen = s.slotOpen := rfl
@[simp] theorem State.setDir_sermem (s : State) (t row slot v : Nat) : (s.setDir t row slot v).sermem = s.sermem := rfl
@[simp] theorem State.setDir_ms (s : State) (t row slot v : Nat) : (s.setDir t row slot v).ms = s.ms := rfl
@[simp] theorem State.setDir_regs (s : State) (t row slot v : Nat) : (s.setDir t row slot v).regs = s.regs := rfl
@[simp] theorem State.setDir_ctr (s : State) (t row slot v : Nat) : (s.setDir t row slot v).ctr = s.ctr := rfl
@[simp] theorem State.setDir_ind (s : State) (t row slot v : Nat) : (s.setDir t row slot v).ind = s.ind := rfl
@[simp] theorem State.setDir_host (s : State) (t row slot v : Nat) : (s.setDir t row slot v).host = s.host := rfl
@[simp] theorem State.setDir_tier (s : State) (t row slot v : Nat) : (s.setDir t row slot v).tier = s.tier := rfl
@[simp] theorem State.setDir_mach (s : State) (t row slot v : Nat) : (s.setDir t row slot v).mach = s.mach := rfl
@[simp] theorem State.setDir_prog (s : State) (t row slot v : Nat) : (s.setDir t row slot v).prog = s.prog := rfl
@[simp] theorem State.setDir_loadWait (s : State) (t row slot v : Nat) : (s.setDir t row slot v).loadWait = s.loadWait := rfl
@[simp] theorem State.setDir_st (s : State) (t row slot v : Nat) : (s.setDir t row slot v).st = s.st := rfl
@[simp] theorem State.setDir_ex (s : State) (t row slot v : Nat) : (s.setDir t row slot v).ex = s.ex := rfl
@[simp] theorem State.setDir_conf (s : State) (t row slot v : Nat) : (s.setDir t row slot v).conf = s.conf := rfl
@[simp] theorem State.setDir_wd (s : State) (t row slot v : Nat) : (s.setDir t row slot v).wd = s.wd := rfl
@[simp] theorem State.setDir_bar (s : State) (t row slot v : Nat) : (s.setDir t row slot v).bar = s.bar := rfl
@[simp] theorem State.setDir_mir (s : State) (t row slot v : Nat) : (s.setDir t row slot v).mir = s.mir := rfl
@[simp] theorem State.setDir_recov (s : State) (t row slot v : Nat) : (s.setDir t row slot v).recov = s.recov := rfl
@[simp] theorem State.setDir_net (s : State) (t row slot v : Nat) : (s.setDir t row slot v).net = s.net := rfl
@[simp] theorem State.setDir_gc (s : State) (t row slot v : Nat) : (s.setDir t row slot v).gc = s.gc := rfl
@[simp] theorem State.setDir_free (s : State) (t row slot v : Nat) : (s.setDir t row slot v).free = s.free := rfl
@[simp] theorem State.setDir_pending (s : State) (t row slot v : Nat) : (s.setDir t row slot v).pending = s.pending := rfl

@[simp] theorem State.storeCarried_pwr (s : State) : (s.storeCarried).pwr = s.pwr := rfl
@[simp] theorem State.storeCarried_fuse (s : State) : (s.storeCarried).fuse = s.fuse := rfl
@[simp] theorem State.storeCarried_nor (s : State) : (s.storeCarried).nor = s.nor := rfl
@[simp] theorem State.storeCarried_slotOpen (s : State) : (s.storeCarried).slotOpen = s.slotOpen := rfl
@[simp] theorem State.storeCarried_sermem (s : State) : (s.storeCarried).sermem = s.sermem := rfl
@[simp] theorem State.storeCarried_ms (s : State) : (s.storeCarried).ms = s.ms := rfl
@[simp] theorem State.storeCarried_regs (s : State) : (s.storeCarried).regs = s.regs := rfl
@[simp] theorem State.storeCarried_ctr (s : State) : (s.storeCarried).ctr = s.ctr := rfl
@[simp] theorem State.storeCarried_ind (s : State) : (s.storeCarried).ind = s.ind := rfl
@[simp] theorem State.storeCarried_host (s : State) : (s.storeCarried).host = s.host := rfl
@[simp] theorem State.storeCarried_tier (s : State) : (s.storeCarried).tier = s.tier := rfl
@[simp] theorem State.storeCarried_mach (s : State) : (s.storeCarried).mach = s.mach := rfl
@[simp] theorem State.storeCarried_prog (s : State) : (s.storeCarried).prog = s.prog := rfl
@[simp] theorem State.storeCarried_loadWait (s : State) : (s.storeCarried).loadWait = s.loadWait := rfl
@[simp] theorem State.storeCarried_st (s : State) : (s.storeCarried).st = s.st := rfl
@[simp] theorem State.storeCarried_ex (s : State) : (s.storeCarried).ex = s.ex := rfl
@[simp] theorem State.storeCarried_conf (s : State) : (s.storeCarried).conf = s.conf := rfl
@[simp] theorem State.storeCarried_wd (s : State) : (s.storeCarried).wd = s.wd := rfl
@[simp] theorem State.storeCarried_bar (s : State) : (s.storeCarried).bar = s.bar := rfl
@[simp] theorem State.storeCarried_mir (s : State) : (s.storeCarried).mir = s.mir := rfl
@[simp] theorem State.storeCarried_recov (s : State) : (s.storeCarried).recov = s.recov := rfl
@[simp] theorem State.storeCarried_net (s : State) : (s.storeCarried).net = s.net := rfl
@[simp] theorem State.storeCarried_gc (s : State) : (s.storeCarried).gc = s.gc := rfl
@[simp] theorem State.storeCarried_free (s : State) : (s.storeCarried).free = s.free := rfl
@[simp] theorem State.storeCarried_pending (s : State) : (s.storeCarried).pending = s.pending := rfl

@[simp] theorem State.flush_pwr (s : State) : (s.flush).pwr = s.pwr := by unfold State.flush; split <;> rfl
@[simp] theorem State.flush_fuse (s : State) : (s.flush).fuse = s.fuse := by unfold State.flush; split <;> rfl
@[simp] theorem State.flush_nor (s : State) : (s.flush).nor = s.nor := by unfold State.flush; split <;> rfl
@[simp] theorem State.flush_slotOpen (s : State) : (s.flush).slotOpen = s.slotOpen := by unfold State.flush; split <;> rfl
@[simp] theorem State.flush_sermem (s : State) : (s.flush).sermem = s.sermem := by unfold State.flush; split <;> rfl
@[simp] theorem State.flush_ms (s : State) : (s.flush).ms = s.ms := by unfold State.flush; split <;> rfl
@[simp] theorem State.flush_regs (s : State) : (s.flush).regs = s.regs := by unfold State.flush; split <;> rfl
@[simp] theorem State.flush_ctr (s : State) : (s.flush).ctr = s.ctr := by unfold State.flush; split <;> rfl
@[simp] theorem State.flush_ind (s : State) : (s.flush).ind = s.ind := by unfold State.flush; split <;> rfl
@[simp] theorem State.flush_mem (s : State) : (s.flush).mem = s.mem := by unfold State.flush; split <;> rfl
@[simp] theorem State.flush_tier (s : State) : (s.flush).tier = s.tier := by unfold State.flush; split <;> rfl
@[simp] theorem State.flush_mach (s : State) : (s.flush).mach = s.mach := by unfold State.flush; split <;> rfl
@[simp] theorem State.flush_prog (s : State) : (s.flush).prog = s.prog := by unfold State.flush; split <;> rfl
@[simp] theorem State.flush_loadWait (s : State) : (s.flush).loadWait = s.loadWait := by unfold State.flush; split <;> rfl
@[simp] theorem State.flush_st (s : State) : (s.flush).st = s.st := by unfold State.flush; split <;> rfl
@[simp] theorem State.flush_ex (s : State) : (s.flush).ex = s.ex := by unfold State.flush; split <;> rfl
@[simp] theorem State.flush_conf (s : State) : (s.flush).conf = s.conf := by unfold State.flush; split <;> rfl
@[simp] theorem State.flush_wd (s : State) : (s.flush).wd = s.wd := by unfold State.flush; split <;> rfl
@[simp] theorem State.flush_bar (s : State) : (s.flush).bar = s.bar := by unfold State.flush; split <;> rfl
@[simp] theorem State.flush_mir (s : State) : (s.flush).mir = s.mir := by unfold State.flush; split <;> rfl
@[simp] theorem State.flush_recov (s : State) : (s.flush).recov = s.recov := by unfold State.flush; split <;> rfl
@[simp] theorem State.flush_net (s : State) : (s.flush).net = s.net := by unfold State.flush; split <;> rfl
@[simp] theorem State.flush_gc (s : State) : (s.flush).gc = s.gc := by unfold State.flush; split <;> rfl
@[simp] theorem State.flush_free (s : State) : (s.flush).free = s.free := by unfold State.flush; split <;> rfl
@[simp] theorem State.flush_pending (s : State) : (s.flush).pending = s.pending := by unfold State.flush; split <;> rfl

@[simp] theorem State.post_pwr (s : State) (c : Nat) (b : List Byte) : (s.post c b).pwr = s.pwr := by simp [State.post]
@[simp] theorem State.post_fuse (s : State) (c : Nat) (b : List Byte) : (s.post c b).fuse = s.fuse := by simp [State.post]
@[simp] theorem State.post_nor (s : State) (c : Nat) (b : List Byte) : (s.post c b).nor = s.nor := by simp [State.post]
@[simp] theorem State.post_slotOpen (s : State) (c : Nat) (b : List Byte) : (s.post c b).slotOpen = s.slotOpen := by simp [State.post]
@[simp] theorem State.post_sermem (s : State) (c : Nat) (b : List Byte) : (s.post c b).sermem = s.sermem := by simp [State.post]
@[simp] theorem State.post_ms (s : State) (c : Nat) (b : List Byte) : (s.post c b).ms = s.ms := by simp [State.post]
@[simp] theorem State.post_regs (s : State) (c : Nat) (b : List Byte) : (s.post c b).regs = s.regs := by simp [State.post]
@[simp] theorem State.post_ctr (s : State) (c : Nat) (b : List Byte) : (s.post c b).ctr = s.ctr := by simp [State.post]
@[simp] theorem State.post_ind (s : State) (c : Nat) (b : List Byte) : (s.post c b).ind = s.ind := by simp [State.post]
@[simp] theorem State.post_mem (s : State) (c : Nat) (b : List Byte) : (s.post c b).mem = s.mem := by simp [State.post]
@[simp] theorem State.post_tier (s : State) (c : Nat) (b : List Byte) : (s.post c b).tier = s.tier := by simp [State.post]
@[simp] theorem State.post_mach (s : State) (c : Nat) (b : List Byte) : (s.post c b).mach = s.mach := by simp [State.post]
@[simp] theorem State.post_prog (s : State) (c : Nat) (b : List Byte) : (s.post c b).prog = s.prog := by simp [State.post]
@[simp] theorem State.post_loadWait (s : State) (c : Nat) (b : List Byte) : (s.post c b).loadWait = s.loadWait := by simp [State.post]
@[simp] theorem State.post_st (s : State) (c : Nat) (b : List Byte) : (s.post c b).st = s.st := by simp [State.post]
@[simp] theorem State.post_ex (s : State) (c : Nat) (b : List Byte) : (s.post c b).ex = s.ex := by simp [State.post]
@[simp] theorem State.post_conf (s : State) (c : Nat) (b : List Byte) : (s.post c b).conf = s.conf := by simp [State.post]
@[simp] theorem State.post_wd (s : State) (c : Nat) (b : List Byte) : (s.post c b).wd = s.wd := by simp [State.post]
@[simp] theorem State.post_bar (s : State) (c : Nat) (b : List Byte) : (s.post c b).bar = s.bar := by simp [State.post]
@[simp] theorem State.post_mir (s : State) (c : Nat) (b : List Byte) : (s.post c b).mir = s.mir := by simp [State.post]
@[simp] theorem State.post_recov (s : State) (c : Nat) (b : List Byte) : (s.post c b).recov = s.recov := by simp [State.post]
@[simp] theorem State.post_net (s : State) (c : Nat) (b : List Byte) : (s.post c b).net = s.net := by simp [State.post]
@[simp] theorem State.post_gc (s : State) (c : Nat) (b : List Byte) : (s.post c b).gc = s.gc := by simp [State.post]
@[simp] theorem State.post_free (s : State) (c : Nat) (b : List Byte) : (s.post c b).free = s.free := by simp [State.post]
@[simp] theorem State.post_pending (s : State) (c : Nat) (b : List Byte) : (s.post c b).pending = s.pending := by simp [State.post]

@[simp] theorem State.enter_pwr (s : State) (m : MState) : (s.enter m).pwr = s.pwr := by unfold State.enter; split <;> simp
@[simp] theorem State.enter_fuse (s : State) (m : MState) : (s.enter m).fuse = s.fuse := by unfold State.enter; split <;> simp
@[simp] theorem State.enter_nor (s : State) (m : MState) : (s.enter m).nor = s.nor := by unfold State.enter; split <;> simp
@[simp] theorem State.enter_slotOpen (s : State) (m : MState) : (s.enter m).slotOpen = s.slotOpen := by unfold State.enter; split <;> simp
@[simp] theorem State.enter_sermem (s : State) (m : MState) : (s.enter m).sermem = s.sermem := by unfold State.enter; split <;> simp
@[simp] theorem State.enter_regs (s : State) (m : MState) : (s.enter m).regs = s.regs := by unfold State.enter; split <;> simp
@[simp] theorem State.enter_ctr (s : State) (m : MState) : (s.enter m).ctr = s.ctr := by unfold State.enter; split <;> simp
@[simp] theorem State.enter_ind (s : State) (m : MState) : (s.enter m).ind = s.ind := by unfold State.enter; split <;> simp
@[simp] theorem State.enter_mem (s : State) (m : MState) : (s.enter m).mem = s.mem := by unfold State.enter; split <;> simp
@[simp] theorem State.enter_tier (s : State) (m : MState) : (s.enter m).tier = s.tier := by unfold State.enter; split <;> simp
@[simp] theorem State.enter_mach (s : State) (m : MState) : (s.enter m).mach = s.mach := by unfold State.enter; split <;> simp
@[simp] theorem State.enter_prog (s : State) (m : MState) : (s.enter m).prog = s.prog := by unfold State.enter; split <;> simp
@[simp] theorem State.enter_loadWait (s : State) (m : MState) : (s.enter m).loadWait = s.loadWait := by unfold State.enter; split <;> simp
@[simp] theorem State.enter_st (s : State) (m : MState) : (s.enter m).st = s.st := by unfold State.enter; split <;> simp
@[simp] theorem State.enter_ex (s : State) (m : MState) : (s.enter m).ex = s.ex := by unfold State.enter; split <;> simp
@[simp] theorem State.enter_conf (s : State) (m : MState) : (s.enter m).conf = s.conf := by unfold State.enter; split <;> simp
@[simp] theorem State.enter_wd (s : State) (m : MState) : (s.enter m).wd = s.wd := by unfold State.enter; split <;> simp
@[simp] theorem State.enter_bar (s : State) (m : MState) : (s.enter m).bar = s.bar := by unfold State.enter; split <;> simp
@[simp] theorem State.enter_mir (s : State) (m : MState) : (s.enter m).mir = s.mir := by unfold State.enter; split <;> simp
@[simp] theorem State.enter_recov (s : State) (m : MState) : (s.enter m).recov = s.recov := by unfold State.enter; split <;> simp
@[simp] theorem State.enter_net (s : State) (m : MState) : (s.enter m).net = s.net := by unfold State.enter; split <;> simp
@[simp] theorem State.enter_gc (s : State) (m : MState) : (s.enter m).gc = s.gc := by unfold State.enter; split <;> simp
@[simp] theorem State.enter_free (s : State) (m : MState) : (s.enter m).free = s.free := by unfold State.enter; split <;> simp
@[simp] theorem State.enter_pending (s : State) (m : MState) : (s.enter m).pending = s.pending := by unfold State.enter; split <;> simp

theorem State.enter_st_eq (s : State) (m : MState) (h : s.ms.st.enters m = true) : (s.enter m).ms.st = m := by
  simp [State.enter, h]

@[simp] theorem State.settle_pwr (s : State) : (s.settle).pwr = s.pwr := by unfold State.settle; split <;> simp
@[simp] theorem State.settle_fuse (s : State) : (s.settle).fuse = s.fuse := by unfold State.settle; split <;> simp
@[simp] theorem State.settle_nor (s : State) : (s.settle).nor = s.nor := by unfold State.settle; split <;> simp
@[simp] theorem State.settle_slotOpen (s : State) : (s.settle).slotOpen = s.slotOpen := by unfold State.settle; split <;> simp
@[simp] theorem State.settle_sermem (s : State) : (s.settle).sermem = s.sermem := by unfold State.settle; split <;> simp
@[simp] theorem State.settle_regs (s : State) : (s.settle).regs = s.regs := by unfold State.settle; split <;> simp
@[simp] theorem State.settle_ctr (s : State) : (s.settle).ctr = s.ctr := by unfold State.settle; split <;> simp
@[simp] theorem State.settle_ind (s : State) : (s.settle).ind = s.ind := by unfold State.settle; split <;> simp
@[simp] theorem State.settle_mem (s : State) : (s.settle).mem = s.mem := by unfold State.settle; split <;> simp
@[simp] theorem State.settle_tier (s : State) : (s.settle).tier = s.tier := by unfold State.settle; split <;> simp
@[simp] theorem State.settle_mach (s : State) : (s.settle).mach = s.mach := by unfold State.settle; split <;> simp
@[simp] theorem State.settle_prog (s : State) : (s.settle).prog = s.prog := by unfold State.settle; split <;> simp
@[simp] theorem State.settle_loadWait (s : State) : (s.settle).loadWait = s.loadWait := by unfold State.settle; split <;> simp
@[simp] theorem State.settle_st (s : State) : (s.settle).st = s.st := by unfold State.settle; split <;> simp
@[simp] theorem State.settle_ex (s : State) : (s.settle).ex = s.ex := by unfold State.settle; split <;> simp
@[simp] theorem State.settle_conf (s : State) : (s.settle).conf = s.conf := by unfold State.settle; split <;> simp
@[simp] theorem State.settle_wd (s : State) : (s.settle).wd = s.wd := by unfold State.settle; split <;> simp
@[simp] theorem State.settle_bar (s : State) : (s.settle).bar = s.bar := by unfold State.settle; split <;> simp
@[simp] theorem State.settle_mir (s : State) : (s.settle).mir = s.mir := by unfold State.settle; split <;> simp
@[simp] theorem State.settle_recov (s : State) : (s.settle).recov = s.recov := by unfold State.settle; split <;> simp
@[simp] theorem State.settle_net (s : State) : (s.settle).net = s.net := by unfold State.settle; split <;> simp
@[simp] theorem State.settle_gc (s : State) : (s.settle).gc = s.gc := by unfold State.settle; split <;> simp
@[simp] theorem State.settle_free (s : State) : (s.settle).free = s.free := by unfold State.settle; split <;> simp
@[simp] theorem State.settle_pending (s : State) : (s.settle).pending = s.pending := by unfold State.settle; split <;> simp

@[simp] theorem State.startRunning_pwr (s : State) : (s.startRunning).pwr = s.pwr := by unfold State.startRunning; split <;> simp
@[simp] theorem State.startRunning_fuse (s : State) : (s.startRunning).fuse = s.fuse := by unfold State.startRunning; split <;> simp
@[simp] theorem State.startRunning_nor (s : State) : (s.startRunning).nor = s.nor := by unfold State.startRunning; split <;> simp
@[simp] theorem State.startRunning_slotOpen (s : State) : (s.startRunning).slotOpen = s.slotOpen := by unfold State.startRunning; split <;> simp
@[simp] theorem State.startRunning_sermem (s : State) : (s.startRunning).sermem = s.sermem := by unfold State.startRunning; split <;> simp
@[simp] theorem State.startRunning_regs (s : State) : (s.startRunning).regs = s.regs := by unfold State.startRunning; split <;> simp
@[simp] theorem State.startRunning_ctr (s : State) : (s.startRunning).ctr = s.ctr := by unfold State.startRunning; split <;> simp
@[simp] theorem State.startRunning_ind (s : State) : (s.startRunning).ind = s.ind := by unfold State.startRunning; split <;> simp
@[simp] theorem State.startRunning_mem (s : State) : (s.startRunning).mem = s.mem := by unfold State.startRunning; split <;> simp
@[simp] theorem State.startRunning_tier (s : State) : (s.startRunning).tier = s.tier := by unfold State.startRunning; split <;> simp
@[simp] theorem State.startRunning_mach (s : State) : (s.startRunning).mach = s.mach := by unfold State.startRunning; split <;> simp
@[simp] theorem State.startRunning_prog (s : State) : (s.startRunning).prog = s.prog := by unfold State.startRunning; split <;> simp
@[simp] theorem State.startRunning_loadWait (s : State) : (s.startRunning).loadWait = s.loadWait := by unfold State.startRunning; split <;> simp
@[simp] theorem State.startRunning_st (s : State) : (s.startRunning).st = s.st := by unfold State.startRunning; split <;> simp
@[simp] theorem State.startRunning_ex (s : State) : (s.startRunning).ex = s.ex := by unfold State.startRunning; split <;> simp
@[simp] theorem State.startRunning_conf (s : State) : (s.startRunning).conf = s.conf := by unfold State.startRunning; split <;> simp
@[simp] theorem State.startRunning_wd (s : State) : (s.startRunning).wd = s.wd := by unfold State.startRunning; split <;> simp
@[simp] theorem State.startRunning_bar (s : State) : (s.startRunning).bar = s.bar := by unfold State.startRunning; split <;> simp
@[simp] theorem State.startRunning_mir (s : State) : (s.startRunning).mir = s.mir := by unfold State.startRunning; split <;> simp
@[simp] theorem State.startRunning_recov (s : State) : (s.startRunning).recov = s.recov := by unfold State.startRunning; split <;> simp
@[simp] theorem State.startRunning_net (s : State) : (s.startRunning).net = s.net := by unfold State.startRunning; split <;> simp
@[simp] theorem State.startRunning_gc (s : State) : (s.startRunning).gc = s.gc := by unfold State.startRunning; split <;> simp
@[simp] theorem State.startRunning_free (s : State) : (s.startRunning).free = s.free := by unfold State.startRunning; split <;> simp
@[simp] theorem State.startRunning_pending (s : State) : (s.startRunning).pending = s.pending := by unfold State.startRunning; split <;> simp

@[simp] theorem State.loadRing_pwr (s : State) (n : Nat) (go : Bool) (e : List Byte) : (s.loadRing n go e).pwr = s.pwr := by unfold State.loadRing; dsimp only; split <;> (try (split <;> (try split))) <;> simp
@[simp] theorem State.loadRing_fuse (s : State) (n : Nat) (go : Bool) (e : List Byte) : (s.loadRing n go e).fuse = s.fuse := by unfold State.loadRing; dsimp only; split <;> (try (split <;> (try split))) <;> simp
@[simp] theorem State.loadRing_nor (s : State) (n : Nat) (go : Bool) (e : List Byte) : (s.loadRing n go e).nor = s.nor := by unfold State.loadRing; dsimp only; split <;> (try (split <;> (try split))) <;> simp
@[simp] theorem State.loadRing_slotOpen (s : State) (n : Nat) (go : Bool) (e : List Byte) : (s.loadRing n go e).slotOpen = s.slotOpen := by unfold State.loadRing; dsimp only; split <;> (try (split <;> (try split))) <;> simp
@[simp] theorem State.loadRing_sermem (s : State) (n : Nat) (go : Bool) (e : List Byte) : (s.loadRing n go e).sermem = s.sermem := by unfold State.loadRing; dsimp only; split <;> (try (split <;> (try split))) <;> simp
@[simp] theorem State.loadRing_ms (s : State) (n : Nat) (go : Bool) (e : List Byte) : (s.loadRing n go e).ms = s.ms := by unfold State.loadRing; dsimp only; split <;> (try (split <;> (try split))) <;> simp
@[simp] theorem State.loadRing_regs (s : State) (n : Nat) (go : Bool) (e : List Byte) : (s.loadRing n go e).regs = s.regs := by unfold State.loadRing; dsimp only; split <;> (try (split <;> (try split))) <;> simp
@[simp] theorem State.loadRing_ctr (s : State) (n : Nat) (go : Bool) (e : List Byte) : (s.loadRing n go e).ctr = s.ctr := by unfold State.loadRing; dsimp only; split <;> (try (split <;> (try split))) <;> simp
@[simp] theorem State.loadRing_ind (s : State) (n : Nat) (go : Bool) (e : List Byte) : (s.loadRing n go e).ind = s.ind := by unfold State.loadRing; dsimp only; split <;> (try (split <;> (try split))) <;> simp
@[simp] theorem State.loadRing_mem (s : State) (n : Nat) (go : Bool) (e : List Byte) : (s.loadRing n go e).mem = s.mem := by unfold State.loadRing; dsimp only; split <;> (try (split <;> (try split))) <;> simp
@[simp] theorem State.loadRing_tier (s : State) (n : Nat) (go : Bool) (e : List Byte) : (s.loadRing n go e).tier = s.tier := by unfold State.loadRing; dsimp only; split <;> (try (split <;> (try split))) <;> simp
@[simp] theorem State.loadRing_mach (s : State) (n : Nat) (go : Bool) (e : List Byte) : (s.loadRing n go e).mach = s.mach := by unfold State.loadRing; dsimp only; split <;> (try (split <;> (try split))) <;> simp
@[simp] theorem State.loadRing_prog (s : State) (n : Nat) (go : Bool) (e : List Byte) : (s.loadRing n go e).prog = s.prog := by unfold State.loadRing; dsimp only; split <;> (try (split <;> (try split))) <;> simp
@[simp] theorem State.loadRing_loadWait (s : State) (n : Nat) (go : Bool) (e : List Byte) : (s.loadRing n go e).loadWait = s.loadWait := by unfold State.loadRing; dsimp only; split <;> (try (split <;> (try split))) <;> simp
@[simp] theorem State.loadRing_st (s : State) (n : Nat) (go : Bool) (e : List Byte) : (s.loadRing n go e).st = s.st := by unfold State.loadRing; dsimp only; split <;> (try (split <;> (try split))) <;> simp
@[simp] theorem State.loadRing_ex (s : State) (n : Nat) (go : Bool) (e : List Byte) : (s.loadRing n go e).ex = s.ex := by unfold State.loadRing; dsimp only; split <;> (try (split <;> (try split))) <;> simp
@[simp] theorem State.loadRing_conf (s : State) (n : Nat) (go : Bool) (e : List Byte) : (s.loadRing n go e).conf = s.conf := by unfold State.loadRing; dsimp only; split <;> (try (split <;> (try split))) <;> simp
@[simp] theorem State.loadRing_wd (s : State) (n : Nat) (go : Bool) (e : List Byte) : (s.loadRing n go e).wd = s.wd := by unfold State.loadRing; dsimp only; split <;> (try (split <;> (try split))) <;> simp
@[simp] theorem State.loadRing_bar (s : State) (n : Nat) (go : Bool) (e : List Byte) : (s.loadRing n go e).bar = s.bar := by unfold State.loadRing; dsimp only; split <;> (try (split <;> (try split))) <;> simp
@[simp] theorem State.loadRing_mir (s : State) (n : Nat) (go : Bool) (e : List Byte) : (s.loadRing n go e).mir = s.mir := by unfold State.loadRing; dsimp only; split <;> (try (split <;> (try split))) <;> simp
@[simp] theorem State.loadRing_recov (s : State) (n : Nat) (go : Bool) (e : List Byte) : (s.loadRing n go e).recov = s.recov := by unfold State.loadRing; dsimp only; split <;> (try (split <;> (try split))) <;> simp
@[simp] theorem State.loadRing_net (s : State) (n : Nat) (go : Bool) (e : List Byte) : (s.loadRing n go e).net = s.net := by unfold State.loadRing; dsimp only; split <;> (try (split <;> (try split))) <;> simp
@[simp] theorem State.loadRing_gc (s : State) (n : Nat) (go : Bool) (e : List Byte) : (s.loadRing n go e).gc = s.gc := by unfold State.loadRing; dsimp only; split <;> (try (split <;> (try split))) <;> simp
@[simp] theorem State.loadRing_free (s : State) (n : Nat) (go : Bool) (e : List Byte) : (s.loadRing n go e).free = s.free := by unfold State.loadRing; dsimp only; split <;> (try (split <;> (try split))) <;> simp
@[simp] theorem State.loadRing_pending (s : State) (n : Nat) (go : Bool) (e : List Byte) : (s.loadRing n go e).pending = s.pending := by unfold State.loadRing; dsimp only; split <;> (try (split <;> (try split))) <;> simp

@[simp] theorem State.dequeue_pwr (s : State) (n : Nat) : (s.dequeue n).pwr = s.pwr := by unfold State.dequeue; dsimp only; split <;> simp
@[simp] theorem State.dequeue_fuse (s : State) (n : Nat) : (s.dequeue n).fuse = s.fuse := by unfold State.dequeue; dsimp only; split <;> simp
@[simp] theorem State.dequeue_nor (s : State) (n : Nat) : (s.dequeue n).nor = s.nor := by unfold State.dequeue; dsimp only; split <;> simp
@[simp] theorem State.dequeue_slotOpen (s : State) (n : Nat) : (s.dequeue n).slotOpen = s.slotOpen := by unfold State.dequeue; dsimp only; split <;> simp
@[simp] theorem State.dequeue_sermem (s : State) (n : Nat) : (s.dequeue n).sermem = s.sermem := by unfold State.dequeue; dsimp only; split <;> simp
@[simp] theorem State.dequeue_ms (s : State) (n : Nat) : (s.dequeue n).ms = s.ms := by unfold State.dequeue; dsimp only; split <;> simp
@[simp] theorem State.dequeue_regs (s : State) (n : Nat) : (s.dequeue n).regs = s.regs := by unfold State.dequeue; dsimp only; split <;> simp
@[simp] theorem State.dequeue_ctr (s : State) (n : Nat) : (s.dequeue n).ctr = s.ctr := by unfold State.dequeue; dsimp only; split <;> simp
@[simp] theorem State.dequeue_ind (s : State) (n : Nat) : (s.dequeue n).ind = s.ind := by unfold State.dequeue; dsimp only; split <;> simp
@[simp] theorem State.dequeue_mem (s : State) (n : Nat) : (s.dequeue n).mem = s.mem := by unfold State.dequeue; dsimp only; split <;> simp
@[simp] theorem State.dequeue_tier (s : State) (n : Nat) : (s.dequeue n).tier = s.tier := by unfold State.dequeue; dsimp only; split <;> simp
@[simp] theorem State.dequeue_mach (s : State) (n : Nat) : (s.dequeue n).mach = s.mach := by unfold State.dequeue; dsimp only; split <;> simp
@[simp] theorem State.dequeue_prog (s : State) (n : Nat) : (s.dequeue n).prog = s.prog := by unfold State.dequeue; dsimp only; split <;> simp
@[simp] theorem State.dequeue_loadWait (s : State) (n : Nat) : (s.dequeue n).loadWait = s.loadWait := by unfold State.dequeue; dsimp only; split <;> simp
@[simp] theorem State.dequeue_st (s : State) (n : Nat) : (s.dequeue n).st = s.st := by unfold State.dequeue; dsimp only; split <;> simp
@[simp] theorem State.dequeue_ex (s : State) (n : Nat) : (s.dequeue n).ex = s.ex := by unfold State.dequeue; dsimp only; split <;> simp
@[simp] theorem State.dequeue_conf (s : State) (n : Nat) : (s.dequeue n).conf = s.conf := by unfold State.dequeue; dsimp only; split <;> simp
@[simp] theorem State.dequeue_wd (s : State) (n : Nat) : (s.dequeue n).wd = s.wd := by unfold State.dequeue; dsimp only; split <;> simp
@[simp] theorem State.dequeue_bar (s : State) (n : Nat) : (s.dequeue n).bar = s.bar := by unfold State.dequeue; dsimp only; split <;> simp
@[simp] theorem State.dequeue_mir (s : State) (n : Nat) : (s.dequeue n).mir = s.mir := by unfold State.dequeue; dsimp only; split <;> simp
@[simp] theorem State.dequeue_recov (s : State) (n : Nat) : (s.dequeue n).recov = s.recov := by unfold State.dequeue; dsimp only; split <;> simp
@[simp] theorem State.dequeue_net (s : State) (n : Nat) : (s.dequeue n).net = s.net := by unfold State.dequeue; dsimp only; split <;> simp
@[simp] theorem State.dequeue_gc (s : State) (n : Nat) : (s.dequeue n).gc = s.gc := by unfold State.dequeue; dsimp only; split <;> simp
@[simp] theorem State.dequeue_free (s : State) (n : Nat) : (s.dequeue n).free = s.free := by unfold State.dequeue; dsimp only; split <;> simp
@[simp] theorem State.dequeue_pending (s : State) (n : Nat) : (s.dequeue n).pending = s.pending := by unfold State.dequeue; dsimp only; split <;> simp

@[simp] theorem State.complete_pwr (s : State) (n : Nat) (c : Cpl) : (s.complete n c).pwr = s.pwr := by
  unfold State.complete
  dsimp only
  split
  · rfl
  · rw [State.settle_pwr]
    split
    · rw [State.loadRing_pwr]
      split <;> simp
    · split <;> simp
@[simp] theorem State.complete_fuse (s : State) (n : Nat) (c : Cpl) : (s.complete n c).fuse = s.fuse := by
  unfold State.complete
  dsimp only
  split
  · rfl
  · rw [State.settle_fuse]
    split
    · rw [State.loadRing_fuse]
      split <;> simp
    · split <;> simp
@[simp] theorem State.complete_nor (s : State) (n : Nat) (c : Cpl) : (s.complete n c).nor = s.nor := by
  unfold State.complete
  dsimp only
  split
  · rfl
  · rw [State.settle_nor]
    split
    · rw [State.loadRing_nor]
      split <;> simp
    · split <;> simp
@[simp] theorem State.complete_slotOpen (s : State) (n : Nat) (c : Cpl) : (s.complete n c).slotOpen = s.slotOpen := by
  unfold State.complete
  dsimp only
  split
  · rfl
  · rw [State.settle_slotOpen]
    split
    · rw [State.loadRing_slotOpen]
      split <;> simp
    · split <;> simp
@[simp] theorem State.complete_sermem (s : State) (n : Nat) (c : Cpl) : (s.complete n c).sermem = s.sermem := by
  unfold State.complete
  dsimp only
  split
  · rfl
  · rw [State.settle_sermem]
    split
    · rw [State.loadRing_sermem]
      split <;> simp
    · split <;> simp
@[simp] theorem State.complete_regs (s : State) (n : Nat) (c : Cpl) : (s.complete n c).regs = s.regs := by
  unfold State.complete
  dsimp only
  split
  · rfl
  · rw [State.settle_regs]
    split
    · rw [State.loadRing_regs]
      split <;> simp
    · split <;> simp
@[simp] theorem State.complete_ctr (s : State) (n : Nat) (c : Cpl) : (s.complete n c).ctr = s.ctr := by
  unfold State.complete
  dsimp only
  split
  · rfl
  · rw [State.settle_ctr]
    split
    · rw [State.loadRing_ctr]
      split <;> simp
    · split <;> simp
@[simp] theorem State.complete_ind (s : State) (n : Nat) (c : Cpl) : (s.complete n c).ind = s.ind := by
  unfold State.complete
  dsimp only
  split
  · rfl
  · rw [State.settle_ind]
    split
    · rw [State.loadRing_ind]
      split <;> simp
    · split <;> simp
@[simp] theorem State.complete_mem (s : State) (n : Nat) (c : Cpl) : (s.complete n c).mem = s.mem := by
  unfold State.complete
  dsimp only
  split
  · rfl
  · rw [State.settle_mem]
    split
    · rw [State.loadRing_mem]
      split <;> simp
    · split <;> simp
@[simp] theorem State.complete_tier (s : State) (n : Nat) (c : Cpl) : (s.complete n c).tier = s.tier := by
  unfold State.complete
  dsimp only
  split
  · rfl
  · rw [State.settle_tier]
    split
    · rw [State.loadRing_tier]
      split <;> simp
    · split <;> simp
@[simp] theorem State.complete_mach (s : State) (n : Nat) (c : Cpl) : (s.complete n c).mach = s.mach := by
  unfold State.complete
  dsimp only
  split
  · rfl
  · rw [State.settle_mach]
    split
    · rw [State.loadRing_mach]
      split <;> simp
    · split <;> simp
@[simp] theorem State.complete_prog (s : State) (n : Nat) (c : Cpl) : (s.complete n c).prog = s.prog := by
  unfold State.complete
  dsimp only
  split
  · rfl
  · rw [State.settle_prog]
    split
    · rw [State.loadRing_prog]
      split <;> simp
    · split <;> simp
@[simp] theorem State.complete_loadWait (s : State) (n : Nat) (c : Cpl) : (s.complete n c).loadWait = s.loadWait := by
  unfold State.complete
  dsimp only
  split
  · rfl
  · rw [State.settle_loadWait]
    split
    · rw [State.loadRing_loadWait]
      split <;> simp
    · split <;> simp
@[simp] theorem State.complete_st (s : State) (n : Nat) (c : Cpl) : (s.complete n c).st = s.st := by
  unfold State.complete
  dsimp only
  split
  · rfl
  · rw [State.settle_st]
    split
    · rw [State.loadRing_st]
      split <;> simp
    · split <;> simp
@[simp] theorem State.complete_ex (s : State) (n : Nat) (c : Cpl) : (s.complete n c).ex = s.ex := by
  unfold State.complete
  dsimp only
  split
  · rfl
  · rw [State.settle_ex]
    split
    · rw [State.loadRing_ex]
      split <;> simp
    · split <;> simp
@[simp] theorem State.complete_conf (s : State) (n : Nat) (c : Cpl) : (s.complete n c).conf = s.conf := by
  unfold State.complete
  dsimp only
  split
  · rfl
  · rw [State.settle_conf]
    split
    · rw [State.loadRing_conf]
      split <;> simp
    · split <;> simp
@[simp] theorem State.complete_wd (s : State) (n : Nat) (c : Cpl) : (s.complete n c).wd = s.wd := by
  unfold State.complete
  dsimp only
  split
  · rfl
  · rw [State.settle_wd]
    split
    · rw [State.loadRing_wd]
      split <;> simp
    · split <;> simp
@[simp] theorem State.complete_bar (s : State) (n : Nat) (c : Cpl) : (s.complete n c).bar = s.bar := by
  unfold State.complete
  dsimp only
  split
  · rfl
  · rw [State.settle_bar]
    split
    · rw [State.loadRing_bar]
      split <;> simp
    · split <;> simp
@[simp] theorem State.complete_mir (s : State) (n : Nat) (c : Cpl) : (s.complete n c).mir = s.mir := by
  unfold State.complete
  dsimp only
  split
  · rfl
  · rw [State.settle_mir]
    split
    · rw [State.loadRing_mir]
      split <;> simp
    · split <;> simp
@[simp] theorem State.complete_recov (s : State) (n : Nat) (c : Cpl) : (s.complete n c).recov = s.recov := by
  unfold State.complete
  dsimp only
  split
  · rfl
  · rw [State.settle_recov]
    split
    · rw [State.loadRing_recov]
      split <;> simp
    · split <;> simp
@[simp] theorem State.complete_net (s : State) (n : Nat) (c : Cpl) : (s.complete n c).net = s.net := by
  unfold State.complete
  dsimp only
  split
  · rfl
  · rw [State.settle_net]
    split
    · rw [State.loadRing_net]
      split <;> simp
    · split <;> simp
@[simp] theorem State.complete_gc (s : State) (n : Nat) (c : Cpl) : (s.complete n c).gc = s.gc := by
  unfold State.complete
  dsimp only
  split
  · rfl
  · rw [State.settle_gc]
    split
    · rw [State.loadRing_gc]
      split <;> simp
    · split <;> simp
@[simp] theorem State.complete_free (s : State) (n : Nat) (c : Cpl) : (s.complete n c).free = s.free := by
  unfold State.complete
  dsimp only
  split
  · rfl
  · rw [State.settle_free]
    split
    · rw [State.loadRing_free]
      split <;> simp
    · split <;> simp
@[simp] theorem State.complete_pending (s : State) (n : Nat) (c : Cpl) : (s.complete n c).pending = s.pending := by
  unfold State.complete
  dsimp only
  split
  · rfl
  · rw [State.settle_pending]
    split
    · rw [State.loadRing_pending]
      split <;> simp
    · split <;> simp
end Sys2Proof.Machine
end

