-- ==== Sys2Proof/Laws/Bytes.lean ====
section
/-! SUPPORT. Sparse maps, byte stores and little-endian numbers: what a read gives after a write, and that every store keeps the canonical
form of memory. -/

namespace Sys2Proof.Machine

open Sys2Proof

variable {α : Type}

/-! ### Maps -/

theorem NMap.get_insert_self (d : α) (m : NMap α) (a : Nat) (x : α) (h : ∀ e ∈ m, e.1 ≠ a) : (NMap.insert m a x).get d a = x := by
  induction m with
  | nil => simp [NMap.insert, NMap.get]
  | cons e t ih =>
    have hne : e.1 ≠ a := h e (by simp)
    by_cases hlt : a < e.1
    · simp [NMap.insert, hlt, NMap.get]
    · simp [NMap.insert, hlt, NMap.get, hne, ih fun y hy => h y (by simp [hy])]

theorem NMap.get_insert_ne (d : α) (m : NMap α) (a b : Nat) (x : α) (h : a ≠ b) : (NMap.insert m a x).get d b = m.get d b := by
  induction m with
  | nil => simp [NMap.insert, NMap.get, h]
  | cons e t ih =>
    by_cases hlt : a < e.1
    · simp [NMap.insert, hlt, NMap.get, h]
    · simp only [NMap.insert, hlt, if_false, NMap.get, ih]

theorem NMap.get_erase_ne (d : α) (m : NMap α) (a b : Nat) (h : a ≠ b) : (NMap.erase m a).get d b = m.get d b := by
  induction m with
  | nil => simp [NMap.erase, NMap.get]
  | cons e t ih =>
    simp only [NMap.erase] at ih
    by_cases he : e.1 = a
    · have hb : e.1 ≠ b := by omega
      have hb' : a ≠ b := h
      simp [NMap.erase, NMap.get, he, hb', ih]
    · have hf : (e.1 != a) = true := by simpa using he
      simp only [NMap.erase, List.filter_cons, hf, if_true, NMap.get, ih]

theorem NMap.get_erase_self (d : α) (m : NMap α) (a : Nat) : (NMap.erase m a).get d a = d := by
  induction m with
  | nil => simp [NMap.erase, NMap.get]
  | cons e t ih =>
    simp only [NMap.erase] at ih
    by_cases he : e.1 = a <;> simp [NMap.erase, NMap.get, he, ih]

theorem NMap.keys_erase (m : NMap α) (a : Nat) : ∀ e ∈ NMap.erase m a, e.1 ≠ a := by
  intro e he
  simp [NMap.erase] at he
  exact he.2

/-- Reading the key that was set. -/
@[simp] theorem NMap.get_set_self [DecidableEq α] (d : α) (m : NMap α) (a : Nat) (x : α) : (NMap.set d m a x).get d a = x := by
  unfold NMap.set
  split
  · subst x
    exact NMap.get_erase_self d m a
  · exact NMap.get_insert_self d _ a x (NMap.keys_erase m a)

/-- Reading another key. -/
theorem NMap.get_set_ne [DecidableEq α] (d : α) (m : NMap α) (a b : Nat) (x : α) (h : a ≠ b) : (NMap.set d m a x).get d b = m.get d b := by
  unfold NMap.set
  split
  · exact NMap.get_erase_ne d m a b h
  · rw [NMap.get_insert_ne d _ a b x h, NMap.get_erase_ne d m a b h]

@[simp] theorem NMap.get_put_self (d : α) (m : NMap α) (a : Nat) (x : α) : (NMap.put m a x).get d a = x :=
  NMap.get_insert_self d _ a x (NMap.keys_erase m a)

theorem NMap.get_put_ne (d : α) (m : NMap α) (a b : Nat) (x : α) (h : a ≠ b) : (NMap.put m a x).get d b = m.get d b := by
  rw [NMap.put, NMap.get_insert_ne d _ a b x h, NMap.get_erase_ne d m a b h]

/-! ### The canonical form -/

theorem NMap.mem_insert (m : NMap α) (a : Nat) (x : α) (e : Nat × α) : e ∈ NMap.insert m a x ↔ e = (a, x) ∨ e ∈ m := by
  induction m with
  | nil => simp [NMap.insert]
  | cons y t ih =>
    by_cases hlt : a < y.1
    · simp [NMap.insert, hlt]
    · simp only [NMap.insert, hlt, if_false, List.mem_cons, ih]
      tauto

/-- What a store holds after a write is the value written or was there before. -/
theorem NMap.mem_set [DecidableEq α] {d : α} {m : NMap α} {a : Nat} {x : α} {e : Nat × α} (h : e ∈ NMap.set d m a x) : e = (a, x) ∨ e ∈ m := by
  unfold NMap.set at h
  split at h
  · exact Or.inr (List.mem_of_mem_filter h)
  · rcases (NMap.mem_insert _ _ _ _).mp h with h | h
    · exact Or.inl h
    · exact Or.inr (List.mem_of_mem_filter h)

theorem NMap.wf_filter [DecidableEq α] (d : α) (m : NMap α) (p : Nat × α → Bool) (h : NMap.wf d m) : NMap.wf d (m.filter p) :=
  ⟨h.1.filter p, fun e he => h.2 e (List.mem_of_mem_filter he)⟩

theorem NMap.wf_erase [DecidableEq α] (d : α) (m : NMap α) (a : Nat) (h : NMap.wf d m) : NMap.wf d (NMap.erase m a) := NMap.wf_filter d m _ h

theorem NMap.sorted_insert (m : NMap α) (a : Nat) (x : α) (h : m.Pairwise fun u v => u.1 < v.1) (hk : ∀ e ∈ m, e.1 ≠ a) :
    (NMap.insert m a x).Pairwise fun u v => u.1 < v.1 := by
  induction m with
  | nil => simp [NMap.insert]
  | cons y t ih =>
    have hy : y.1 ≠ a := hk y (by simp)
    have hc := List.pairwise_cons.mp h
    by_cases hlt : a < y.1
    · simp only [NMap.insert, hlt, if_true]
      refine List.pairwise_cons.mpr ⟨?_, h⟩
      intro e he
      rcases List.mem_cons.mp he with rfl | he
      · exact hlt
      · exact lt_trans hlt (hc.1 e he)
    · simp only [NMap.insert, hlt, if_false]
      refine List.pairwise_cons.mpr ⟨?_, ih hc.2 fun e he => hk e (by simp [he])⟩
      intro e he
      rcases (NMap.mem_insert t a x e).mp he with rfl | he
      · exact lt_of_le_of_ne (Nat.le_of_not_lt hlt) hy
      · exact hc.1 e he

theorem NMap.wf_set [DecidableEq α] (d : α) (m : NMap α) (a : Nat) (x : α) (h : NMap.wf d m) : NMap.wf d (NMap.set d m a x) := by
  unfold NMap.set
  split
  · exact NMap.wf_erase d m a h
  · next hx =>
    have he := NMap.wf_erase d m a h
    refine ⟨NMap.sorted_insert _ a x he.1 (NMap.keys_erase m a), ?_⟩
    intro e hm
    rcases (NMap.mem_insert _ a x e).mp hm with rfl | hm
    · exact hx
    · exact he.2 e hm

/-- Storing bytes keeps the canonical form. -/
theorem wf_storeBytes (d : Byte) (m : NMap Byte) (a : Nat) (b : List Byte) (h : NMap.wf d m) : NMap.wf d (storeBytes d m a b) := by
  induction b generalizing m a with
  | nil => exact h
  | cons x t ih => exact ih _ _ (NMap.wf_set d m a x h)

/-- Every store into device memory keeps its canonical form. -/
theorem State.write_wf (s : State) (a : Nat) (b : List Byte) (h : Memory.wf s.mem) : Memory.wf (s.write a b).mem :=
  wf_storeBytes 0 s.mem a b h

/-- So does a store that Commit logs. -/
theorem State.writeUndo_wf (s : State) (a : Nat) (b : List Byte) (h : Memory.wf s.mem) : Memory.wf (s.writeUndo a b).mem := by
  induction b generalizing s a with
  | nil => exact h
  | cons x t ih => exact ih _ _ (NMap.wf_set 0 s.mem a x h)

theorem State.reset_wf : Memory.wf State.reset.mem := by
  refine ⟨List.Pairwise.nil, ?_⟩
  intro e he
  cases he

/-! ### Reading after writing -/

/-- A byte outside the stored range is unchanged. -/
theorem byteAt_storeBytes_outside (d : Byte) (m : NMap Byte) (a : Nat) (b : List Byte) (x : Nat) (h : x < a ∨ a + b.length ≤ x) :
    byteAt d (storeBytes d m a b) x = byteAt d m x := by
  induction b generalizing m a with
  | nil => rfl
  | cons y t ih =>
    simp only [List.length_cons] at h
    rw [storeBytes, ih _ _ (by omega)]
    exact NMap.get_set_ne d m a x y (by omega)

/-- A byte inside it is the one stored. -/
theorem byteAt_storeBytes_inside (d : Byte) (m : NMap Byte) (a : Nat) (b : List Byte) (i : Nat) (h : i < b.length) :
    byteAt d (storeBytes d m a b) (a + i) = b[i] := by
  induction b generalizing m a i with
  | nil => simp at h
  | cons y t ih =>
    cases i with
    | zero =>
      rw [storeBytes, byteAt_storeBytes_outside d _ (a + 1) t (a + 0) (by omega)]
      exact NMap.get_set_self d m a y
    | succ j =>
      rw [storeBytes, show a + (j + 1) = (a + 1) + j by omega, ih _ _ j (by simpa using h)]
      rfl

theorem State.byte_write_outside (s : State) (a : Nat) (b : List Byte) (x : Nat) (h : x < a ∨ a + b.length ≤ x) : (s.write a b).byte x = s.byte x :=
  byteAt_storeBytes_outside 0 s.mem a b x h

theorem State.byte_write_inside (s : State) (a : Nat) (b : List Byte) (i : Nat) (h : i < b.length) : (s.write a b).byte (a + i) = b[i] :=
  byteAt_storeBytes_inside 0 s.mem a b i h

@[simp] theorem length_bytesAt (d : Byte) (m : NMap Byte) (a n : Nat) : (bytesAt d m a n).length = n := by
  induction n generalizing a with
  | zero => rfl
  | succ n ih => simp [bytesAt, ih]

theorem getElem_bytesAt (d : Byte) (m : NMap Byte) (a n i : Nat) (h : i < (bytesAt d m a n).length) : (bytesAt d m a n)[i] = byteAt d m (a + i) := by
  induction n generalizing a i with
  | zero => simp at h
  | succ n ih =>
    cases i with
    | zero => rfl
    | succ j => simp [bytesAt, ih, show a + 1 + j = a + (j + 1) by omega]

/-- What has been stored is read back. -/
theorem State.read_write (s : State) (a : Nat) (b : List Byte) : (s.write a b).read a b.length = b := by
  apply List.ext_getElem
  · simp
  · intro i h1 h2
    rw [getElem_bytesAt]
    exact s.byte_write_inside a b i h2

/-! ### Little-endian numbers -/

@[simp] theorem length_leBytes (n v : Nat) : (leBytes n v).length = n := by
  induction n generalizing v with
  | zero => rfl
  | succ n ih => simp [leBytes, ih]

/-- The number that `n` little-endian bytes of a number hold. -/
theorem leNat_leBytes (n v : Nat) : leNat (leBytes n v) = v % 256 ^ n := by
  induction n generalizing v with
  | zero => simp [leBytes, leNat, Nat.mod_one]
  | succ n ih =>
    have h8 : (BitVec.ofNat 8 v).toNat = v % 256 := BitVec.toNat_ofNat v 8
    rw [leBytes, leNat, ih, h8, pow_succ', Nat.mod_mul]

theorem leNat_leBytes_of_lt (n v : Nat) (h : v < 256 ^ n) : leNat (leBytes n v) = v := by rw [leNat_leBytes, Nat.mod_eq_of_lt h]

theorem leBytes_leNat (b : List Byte) : leBytes b.length (leNat b) = b := by
  induction b with
  | nil => rfl
  | cons x t ih =>
    have hx : x.toNat < 256 := x.isLt
    have h1 : (x.toNat + 256 * leNat t) / 256 = leNat t := by omega
    simp only [List.length_cons, leBytes, leNat, h1, ih, List.cons.injEq, and_true]
    apply BitVec.eq_of_toNat_eq
    rw [BitVec.toNat_ofNat]
    omega

end Sys2Proof.Machine
end

