-- ==== Sys2Proof/Laws/Host.lean ====
section
/-! SUPPORT. The host side: how a command is taken up, that completions are never lost, and that nothing acts on a module that runs nothing. -/

namespace Sys2Proof.Machine

open Sys2Proof

/-! ### Taking up a command (13 R333) -/

/-- A ring just set. -/
@[simp] theorem State.ring_setRing (s : State) (n : Nat) (r : Ring) : (s.setRing n r).ring n = r := NMap.get_set_self _ _ _ _

/-- Another ring. -/
theorem State.ring_setRing_ne (s : State) (n k : Nat) (r : Ring) (h : n ≠ k) : (s.setRing n r).ring k = s.ring k :=
  NMap.get_set_ne _ _ _ _ _ h

/-- Whether the other rings are idle does not depend on the ring itself (13 R334). -/
theorem State.othersIdle_setRing (s : State) (n : Nat) (r : Ring) (h : s.othersIdle n = true) : (s.setRing n r).othersIdle n = true := by
  unfold State.othersIdle at h ⊢
  rw [List.all_eq_true] at h ⊢
  intro e he
  rcases NMap.mem_set he with rfl | he
  · simp
  · exact h e he

/-- The state on which a command that a ring goes on with runs: its descriptor dequeued, or no longer waiting. -/
def State.takenUp (s : State) (n : Nat) : State :=
  match (s.ring n).busy with
  | some _ => s.setRing n { s.ring n with waits := false }
  | none => s.dequeue n

/-- Taking up a command changes the host side only. -/
theorem State.takenUp_eq (s : State) (n : Nat) : ∃ h, s.takenUp n = { s with host := h } := by
  unfold State.takenUp State.dequeue
  dsimp only
  split
  · exact ⟨_, rfl⟩
  · split
    · exact ⟨s.host, rfl⟩
    · exact ⟨_, rfl⟩

/-- A ring that can give up a descriptor has nothing in progress. -/
theorem State.canDequeue_idle (s : State) (n : Nat) (h : s.canDequeue n = true) : (s.ring n).busy = none := by
  simp only [State.canDequeue, Bool.and_eq_true] at h
  simpa using h.1.2

/-- A command that passes check 2 runs. -/
theorem State.judge_run (s : State) (n op : Nat) (run : State → List Byte → State) (d : List Byte) (hl : legal op s.ms.st = .accept)
    (hr : rankOp op = true → s.mach.rank.isSome = true) (hf : (op = 0x04 ∨ op = 0x05) → s.recov.fallback = false) : s.judge n op run d = run s d := by
  have hr' : (rankOp op && s.mach.rank.isNone) = false := by
    cases he : rankOp op
    · rfl
    · have := hr he
      cases hm : s.mach.rank <;> simp_all
  have hf' : ((op == 0x04 || op == 0x05) && s.recov.fallback) = false := by
    cases he : (op == 0x04 || op == 0x05)
    · rfl
    · simp [hf (by simpa using he)]
  simp [State.judge, hl, hr', hf']

/-- A command whose shared checks pass runs on the state in which it has been taken up. -/
theorem State.command_takes (s : State) (n op : Nat) (d : List Byte) (also : List Byte → Bool) (run : State → List Byte → State)
    (h : s.takes n op d) (ha : also d = true) : s.command n op also run = run (s.takenUp n) d := by
  obtain ⟨hu, ho, hd, hl, hr, hf, hx⟩ := h
  have hj : ∀ t : State, t.ms = s.ms → (exclusiveOp op = true → t.othersIdle n = true) → t.mayJudge n op = true := by
    intro t ht hi
    unfold State.mayJudge
    rw [ht, hl]
    cases he : exclusiveOp op
    · rfl
    · simp [hi he]
  have hj' := hj s rfl hx
  rcases hu with ⟨⟨rest, hq⟩, hc⟩ | ⟨⟨i, hb⟩, hw, hv⟩
  · have hb := s.canDequeue_idle n hc
    have hdq : s.dequeue n = s.setRing n { s.ring n with queue := rest, busy := some ((s.ring n).ci - (s.ring n).queue.length, d) } := by
      unfold State.dequeue
      dsimp only
      rw [hq]
    have hoi : exclusiveOp op = true → (s.dequeue n).othersIdle n = true := by
      intro he
      rw [hdq]
      exact State.othersIdle_setRing s n _ (hx he)
    have hms : (s.dequeue n).ms = s.ms := by rw [hdq]; rfl
    unfold State.command State.takenUp
    dsimp only
    rw [hb, hq]
    simp only [hc, ho, ha, hd, beq_self_eq_true, Bool.and_self, if_true, Bool.not_true, Bool.false_eq_true, if_false, hj _ hms hoi]
    exact State.judge_run _ n op run d (by rw [hms]; exact hl) (by rw [hdq]; exact hr) (by rw [hdq]; exact hf)
  · unfold State.command State.takenUp
    dsimp only
    rw [hb]
    simp only [hw, hv, ho, ha, beq_self_eq_true, Bool.and_self, hj', if_true]
    exact State.judge_run _ n op run d hl hr hf

/-- A module that runs nothing takes up no command. -/
theorem State.command_dead (s : State) (n op : Nat) (also : List Byte → Bool) (run : State → List Byte → State) (h : s.live = false) :
    s.command n op also run = s := by
  unfold State.command
  dsimp only
  split
  · simp [h]
  · rfl
  · simp [State.canDequeue, h]

/-- The command taken up is the one in progress, under its INDEX. -/
theorem State.takenUp_busy (s : State) (n : Nat) (d : List Byte) (h : s.upNext n d) : ((s.takenUp n).ring n).busy = some (s.nextIndex n, d) := by
  rcases h with ⟨⟨rest, hq⟩, hc⟩ | ⟨⟨i, hb⟩, _⟩
  · have hb := s.canDequeue_idle n hc
    simp [State.takenUp, State.nextIndex, State.dequeue, hb, hq]
  · simp [State.takenUp, State.nextIndex, hb]

/-- Taking up a command leaves its ring's context. -/
theorem State.takenUp_ctx (s : State) (n : Nat) : ((s.takenUp n).ring n).ctx = (s.ring n).ctx := by
  unfold State.takenUp State.dequeue
  dsimp only
  split
  · simp
  · split <;> simp

/-! ### Entries become visible and are never lost (13 R336, R337) -/

/-- An entry of a completion has been written or waits. -/
def State.shows (s : State) (a : Nat) (e : List Byte) : Prop :=
  HostWrite.mem a e ∈ s.host.out ∨ ∃ q, HeldEntry.completion a e q ∈ s.host.held

theorem HostSide.emit_out (l : List HeldEntry) (h : HostSide) (w : HostWrite) (hw : w ∈ h.out) : w ∈ (h.emit l).out := by
  induction l generalizing h with
  | nil => exact hw
  | cons x t ih =>
    cases x with
    | event c p =>
      unfold HostSide.emit
      split
      · exact ih _ (by simp [hw])
      · exact hw
    | completion a d q =>
      unfold HostSide.emit
      exact ih _ (by simp [hw])

theorem HostSide.emit_shows (l : List HeldEntry) (h : HostSide) (a : Nat) (e : List Byte) (q : Option Nat) (hq : HeldEntry.completion a e q ∈ l) :
    HostWrite.mem a e ∈ (h.emit l).out ∨ ∃ q, HeldEntry.completion a e q ∈ (h.emit l).held := by
  induction l generalizing h with
  | nil => cases hq
  | cons x t ih =>
    cases x with
    | event c p =>
      have ht : HeldEntry.completion a e q ∈ t := by simpa using hq
      unfold HostSide.emit
      split
      · exact ih _ ht
      · exact Or.inr ⟨q, by simp [ht]⟩
    | completion a' e' q' =>
      unfold HostSide.emit
      rcases List.mem_cons.mp hq with heq | ht
      · cases heq
        exact Or.inl (HostSide.emit_out t _ _ (by simp))
      · exact ih _ ht

theorem State.flush_shows (s : State) (a : Nat) (e : List Byte) (h : s.shows a e) : s.flush.shows a e := by
  unfold State.flush
  split
  · rcases h with h | ⟨q, h⟩
    · exact Or.inl (HostSide.emit_out _ _ _ h)
    · exact HostSide.emit_shows _ _ a e q h
  · exact h

theorem State.post_shows (s : State) (c : Nat) (b : List Byte) (a : Nat) (e : List Byte) (h : s.shows a e) : (s.post c b).shows a e := by
  apply State.flush_shows
  rcases h with h | ⟨q, h⟩
  · exact Or.inl h
  · exact Or.inr ⟨q, by simp [h]⟩

theorem State.enter_shows (s : State) (m : MState) (a : Nat) (e : List Byte) (h : s.shows a e) : (s.enter m).shows a e := by
  unfold State.enter
  split
  · exact h
  · exact State.post_shows _ _ _ a e h

theorem State.settle_shows (s : State) (a : Nat) (e : List Byte) (h : s.shows a e) : s.settle.shows a e := by
  unfold State.settle
  split
  · exact State.enter_shows _ _ a e h
  · exact h

theorem State.setRing_shows (s : State) (n : Nat) (r : Ring) (a : Nat) (e : List Byte) (h : s.shows a e) : (s.setRing n r).shows a e := h

theorem State.loadRing_shows (s : State) (n : Nat) (go : Bool) (b : List Byte) (a : Nat) (e : List Byte) (h : s.shows a e) :
    (s.loadRing n go b).shows a e := by
  unfold State.loadRing
  dsimp only
  split
  · split
    · exact h
    · exact State.post_shows _ _ _ a e (State.setRing_shows _ _ _ a e h)
  · exact h

/-- The completion of a command is posted whatever else its ring then does. -/
theorem State.complete_shows (s : State) (n i : Nat) (d : List Byte) (c : Cpl) (h : (s.ring n).busy = some (i, d)) :
    (s.complete n c).shows ((s.ring n).ctx.cplBase + 32 * (i % 2 ^ (s.ring n).ctx.log2))
      (completionEntry c n i (s.ring n).ctx.log2 d (descFence d && !succeeds c.status)) := by
  unfold State.complete
  dsimp only
  rw [h]
  apply State.settle_shows
  have key : ∀ x : State, x.shows ((s.ring n).ctx.cplBase + 32 * (i % 2 ^ (s.ring n).ctx.log2))
        (completionEntry c n i (s.ring n).ctx.log2 d (descFence d && !succeeds c.status)) →
      (match (s.ring n).again with
        | some e => x.loadRing n (s.ring n).go e
        | none => x).shows ((s.ring n).ctx.cplBase + 32 * (i % 2 ^ (s.ring n).ctx.log2))
        (completionEntry c n i (s.ring n).ctx.log2 d (descFence d && !succeeds c.status)) := by
    intro x hx
    split
    · exact State.loadRing_shows _ _ _ _ _ _ hx
    · exact hx
  apply key
  split
  · apply State.post_shows
    apply State.flush_shows
    exact Or.inr ⟨_, List.mem_append_right _ (List.mem_singleton.mpr rfl)⟩
  · apply State.flush_shows
    exact Or.inr ⟨_, List.mem_append_right _ (List.mem_singleton.mpr rfl)⟩

/-! ### What completing leaves of a ring -/

theorem HostSide.emit_rings (l : List HeldEntry) (h : HostSide) : (h.emit l).rings = h.rings := by
  induction l generalizing h with
  | nil => rfl
  | cons x t ih =>
    cases x with
    | event c p =>
      unfold HostSide.emit
      split
      · rw [ih]
      · rfl
    | completion a d q =>
      unfold HostSide.emit
      rw [ih]

@[simp] theorem State.flush_rings (s : State) : s.flush.host.rings = s.host.rings := by
  unfold State.flush
  split
  · exact HostSide.emit_rings _ _
  · rfl

@[simp] theorem State.post_rings (s : State) (c : Nat) (b : List Byte) : (s.post c b).host.rings = s.host.rings := by simp [State.post]

@[simp] theorem State.enter_rings (s : State) (m : MState) : (s.enter m).host.rings = s.host.rings := by
  unfold State.enter
  split <;> simp

@[simp] theorem State.settle_rings (s : State) : s.settle.host.rings = s.host.rings := by
  unfold State.settle
  split <;> simp

@[simp] theorem State.startRunning_rings (s : State) : s.startRunning.host.rings = s.host.rings := by
  unfold State.startRunning
  split <;> simp

/-! ### What the host side's operations leave alone -/

/-- Writing held entries changes the host side only. -/
theorem State.flush_eq (s : State) : ∃ h, s.flush = { s with host := h } := by
  unfold State.flush
  split
  · exact ⟨_, rfl⟩
  · exact ⟨s.host, rfl⟩

/-- Posting an event changes the host side only. -/
theorem State.post_eq (s : State) (c : Nat) (b : List Byte) : ∃ h, s.post c b = { s with host := h } := by
  obtain ⟨h, e⟩ := State.flush_eq { s with host := { s.host with held := s.host.held ++ [.event c b] } }
  exact ⟨h, e⟩

/-- Entering a state changes the host side and the state only. -/
theorem State.enter_eq (s : State) (m : MState) : ∃ h x, s.enter m = { s with host := h, ms := { s.ms with st := x } } := by
  unfold State.enter
  split
  · exact ⟨s.host, s.ms.st, rfl⟩
  · obtain ⟨h, e⟩ := State.post_eq { s with ms := { s.ms with st := m } } evState (leBytes 1 s.ms.st.code ++ leBytes 1 m.code)
    exact ⟨h, m, e⟩

/-- Leaving RUNNING changes the host side and the state only. -/
theorem State.settle_eq (s : State) : ∃ h m, s.settle = { s with host := h, ms := { s.ms with st := m } } := by
  unfold State.settle
  split
  · exact State.enter_eq s .loaded
  · exact ⟨s.host, s.ms.st, rfl⟩

/-- Entering RUNNING changes the host side and the state only. -/
theorem State.startRunning_eq (s : State) : ∃ h m, s.startRunning = { s with host := h, ms := { s.ms with st := m } } := by
  unfold State.startRunning
  split
  · exact State.enter_eq s .running
  · exact ⟨s.host, s.ms.st, rfl⟩

/-- Taking up a ring context changes the host side only. -/
theorem State.loadRing_eq (s : State) (n : Nat) (go : Bool) (b : List Byte) : ∃ h, s.loadRing n go b = { s with host := h } := by
  unfold State.loadRing
  dsimp only
  split
  · split
    · exact ⟨_, rfl⟩
    · obtain ⟨h, e⟩ := State.post_eq (s.setRing n Ring.stopped) evRingConfig (leBytes 1 n ++ leBytes 1 1)
      exact ⟨h, e⟩
  · exact ⟨_, rfl⟩

/-- Taking up a ring changes the host side only. -/
theorem State.takeRing_eq (s : State) (n : Nat) (go : Bool) (b : List Byte) : ∃ h, s.takeRing n go b = { s with host := h } := by
  unfold State.takeRing
  dsimp only
  split
  · exact ⟨_, rfl⟩
  · exact State.loadRing_eq _ n go b

/-- Taking up the event ring changes the host side only. -/
theorem State.takeEvents_eq (s : State) : ∃ h, s.takeEvents = { s with host := h } := by
  unfold State.takeEvents
  dsimp only
  split
  · exact State.flush_eq _
  · exact State.post_eq _ _ _

/-- Taking up every ring changes the host side only. -/
theorem State.takeAll_eq (s : State) (table : List (List Byte)) : ∃ h, s.takeAll table = { s with host := h } := by
  unfold State.takeAll
  generalize List.range 64 = l
  obtain ⟨h, e⟩ := State.takeEvents_eq s
  rw [e]
  clear e
  induction l generalizing h with
  | nil => exact ⟨h, rfl⟩
  | cons n t ih =>
    obtain ⟨h', e'⟩ := State.takeRing_eq { s with host := h } n false (nth (zeros 64) table n)
    rw [List.foldl_cons, e']
    exact ih h'

/-- Completing a command changes the host side and the state only. -/
theorem State.complete_eq (s : State) (n : Nat) (c : Cpl) : ∃ h m, s.complete n c = { s with host := h, ms := { s.ms with st := m } } := by
  unfold State.complete
  dsimp only
  split
  · exact ⟨s.host, s.ms.st, rfl⟩
  · rename_i i d _
    generalize HeldEntry.completion _ _ _ = e
    generalize { s.ring n with busy := none, waits := false, fenced := (s.ring n).fenced || (descFence d && !succeeds c.status) } = r
    obtain ⟨h1, e1⟩ := State.flush_eq { s.setRing n r with host := { (s.setRing n r).host with held := (s.setRing n r).host.held ++ [e], excl := (s.setRing n r).host.excl.filter (· != (n, i)) } }
    rw [e1]
    have h2 : ∃ h, (if (descFence d && !succeeds c.status) = true then
        State.post { s.setRing n r with host := h1 } evRingFenced (leBytes 1 n ++ zeros 3 ++ leBytes 4 i ++ leBytes 1 c.status.code)
        else { s.setRing n r with host := h1 }) = { s with host := h } := by
      split
      · obtain ⟨h, e⟩ := State.post_eq { s.setRing n r with host := h1 } evRingFenced (leBytes 1 n ++ zeros 3 ++ leBytes 4 i ++ leBytes 1 c.status.code)
        exact ⟨h, e⟩
      · exact ⟨h1, rfl⟩
    obtain ⟨h2, e2⟩ := h2
    rw [e2]
    split
    · rename_i b _
      obtain ⟨h3, e3⟩ := State.loadRing_eq { s with host := h2 } n (s.ring n).go b
      rw [e3]
      exact State.settle_eq { s with host := h3 }
    · exact State.settle_eq { s with host := h2 }

/-- Failing every command changes the host side and the state only. -/
theorem State.failAll_eq (s : State) (x : Status) : ∃ h m, s.failAll x = { s with host := h, ms := { s.ms with st := m } } := by
  unfold State.failAll
  generalize s.host.rings.map (·.1) = l
  have : ∀ (l : List Nat) (h : HostSide) (m : MState), ∃ h' m', l.foldl (fun s n =>
      match (s.ring n).busy with
      | some b =>
        if descOp b.2 = 0x04 then s
        else
          let f := s.cutShort n b.2
          s.complete n { status := x, info := f.2, step := f.1 }
      | none => s) { s with host := h, ms := { s.ms with st := m } } = { s with host := h', ms := { s.ms with st := m' } } := by
    intro l
    induction l with
    | nil => exact fun h m => ⟨h, m, rfl⟩
    | cons n t ih =>
      intro h m
      rw [List.foldl_cons]
      split
      · split
        · exact ih h m
        · obtain ⟨h', m', e⟩ := State.complete_eq { s with host := h, ms := { s.ms with st := m } } n _
          rw [e]
          exact ih h' m'
      · exact ih h m
  exact this l s.host s.ms.st

/-- A module that is not RUNNING stays in its state as a command completes. -/
theorem State.complete_ms (s : State) (n : Nat) (c : Cpl) (h : s.ms.st ≠ .running) : (s.complete n c).ms = s.ms := by
  have settled : ∀ t : State, t.ms = s.ms → t.settle.ms = s.ms := fun t ht => by
    unfold State.settle
    rw [if_neg (fun x => h (ht ▸ x.1))]
    exact ht
  have flushed : ∀ t : State, t.flush.ms = t.ms := fun t => by
    obtain ⟨x, e⟩ := State.flush_eq t
    rw [e]
  have posted : ∀ (t : State) (k : Nat) (b : List Byte), (t.post k b).ms = t.ms := fun t k b => by
    obtain ⟨x, e⟩ := State.post_eq t k b
    rw [e]
  have loaded : ∀ (t : State) (k : Nat) (go : Bool) (b : List Byte), (t.loadRing k go b).ms = t.ms := fun t k go b => by
    obtain ⟨x, e⟩ := State.loadRing_eq t k go b
    rw [e]
  unfold State.complete
  dsimp only
  split
  · rfl
  · apply settled
    split
    · rw [loaded]
      split
      · rw [posted, flushed]; rfl
      · rw [flushed]; rfl
    · split
      · rw [posted, flushed]; rfl
      · rw [flushed]; rfl

/-- A module that is not RUNNING stays in its state as every command fails. -/
theorem State.failAll_ms (s : State) (x : Status) (h : s.ms.st ≠ .running) : (s.failAll x).ms = s.ms := by
  unfold State.failAll
  generalize s.host.rings.map (·.1) = l
  have : ∀ (l : List Nat) (t : State), t.ms = s.ms → (l.foldl (fun s n =>
      match (s.ring n).busy with
      | some b =>
        if descOp b.2 = 0x04 then s
        else
          let f := s.cutShort n b.2
          s.complete n { status := x, info := f.2, step := f.1 }
      | none => s) t).ms = s.ms := by
    intro l
    induction l with
    | nil => exact fun t ht => ht
    | cons n r ih =>
      intro t ht
      rw [List.foldl_cons]
      apply ih
      split
      · split
        · exact ht
        · rw [State.complete_ms t n _ (ht ▸ h)]
          exact ht
      · exact ht
  exact this l s rfl

/-- A module that runs and halts is HALTED with its reason and DETAIL; beyond that only the host side has changed. -/
theorem State.halt_eq (s : State) (reason cause : Nat) (h : s.live = true) : ∃ x, s.halt reason cause =
    { s with
      host := x
      ms := { s.ms with
        st := .halted
        halt := reason
        stage := 0xF0
        detail := if s.ms.st = .recovery then s.ms.detail else 0x0B * 2 ^ 16 + cause } } := by
  unfold State.live at h
  simp only [Bool.and_eq_true, bne_iff_ne, ne_eq] at h
  unfold State.halt
  rw [if_pos ⟨h.1.1, h.1.2, h.2⟩]
  dsimp only
  generalize ht : ({ s with ms := { s.ms with st := .halted, halt := reason, stage := 0xF0, detail := (if s.ms.st = .recovery then s.ms.detail else 0x0B * 2 ^ 16 + cause) } } : State) = t
  have hst : t.ms.st = .halted := by rw [← ht]
  obtain ⟨h1, m1, e1⟩ := State.failAll_eq t (if reason = 2 then .tierFault else .peerLost)
  have hm := State.failAll_ms t (if reason = 2 then .tierFault else .peerLost) (by rw [hst]; decide)
  rw [e1] at hm ⊢
  obtain ⟨h2, e2⟩ := State.post_eq { t with host := h1, ms := { t.ms with st := m1 } } evState (leBytes 1 s.ms.st.code ++ leBytes 1 MState.halted.code)
  rw [e2]
  have hm1 : m1 = .halted := (congrArg ModState.st hm).trans hst
  subst hm1 ht
  exact ⟨h2, rfl⟩

/-! ### Completing a command -/

/-- A ring taken up has nothing in progress. -/
theorem State.loadRing_busy (s : State) (n : Nat) (go : Bool) (e : List Byte) : ((s.loadRing n go e).ring n).busy = none := by
  unfold State.loadRing
  dsimp only
  split
  · split
    · rw [State.ring_setRing]
      split <;> rfl
    · show ((NMap.get Ring.stopped (State.post _ _ _).host.rings n)).busy = none
      rw [State.post_rings]
      exact congrArg Ring.busy (State.ring_setRing s n Ring.stopped)
  · rw [State.ring_setRing]
    rfl

/-- Once its command has completed, a ring has none in progress. -/
theorem State.complete_busy (s : State) (n : Nat) (c : Cpl) : ((s.complete n c).ring n).busy = none := by
  unfold State.complete
  dsimp only
  split
  · assumption
  · show (NMap.get Ring.stopped (State.settle _).host.rings n).busy = none
    rw [State.settle_rings]
    split
    · exact State.loadRing_busy _ _ _ _
    · split
      · rw [State.post_rings, State.flush_rings]
        exact congrArg Ring.busy (State.ring_setRing s n _)
      · rw [State.flush_rings]
        exact congrArg Ring.busy (State.ring_setRing s n _)

/-- A command taken up and completed at once has been answered. -/
theorem State.answered_complete (s x : State) (n : Nat) (d : List Byte) (c : Cpl) (h : s.upNext n d) (hx : x.ring n = (s.takenUp n).ring n) :
    s.answered n d c (x.complete n c) := by
  refine ⟨?_, State.complete_busy x n c⟩
  have hb : (x.ring n).busy = some (s.nextIndex n, d) := by rw [hx, State.takenUp_busy s n d h]
  have hc : (x.ring n).ctx = (s.ring n).ctx := by rw [hx, State.takenUp_ctx]
  have := State.complete_shows x n (s.nextIndex n) d c hb
  rw [hc] at this
  exact this

end Sys2Proof.Machine
end

