-- ==== Sys2Proof/Laws/Link.lean ====
section
/-! SUPPORT. The CRC of what the module itself frames. -/

namespace Sys2Proof.Machine

open Sys2Proof

/-- Bytes with their CRC behind them agree with it. -/
theorem crcOk_append (b : List Byte) (n : Nat) (h : n = b.length + 4) : crcOk (b ++ leBytes 4 (crc32c b)) n = true := by
  have hc : crc32c b < 256 ^ 4 := (b.foldl crcByte 0xFFFFFFFF#32 ^^^ 0xFFFFFFFF#32).isLt
  have ht : (leBytes 4 (crc32c b)).take 4 = leBytes 4 (crc32c b) := List.take_of_length_le (by simp)
  simp [crcOk, h, field, ht, leNat_leBytes_of_lt _ _ hc]

theorem length_fit (n : Nat) (b : List Byte) : (fit n b).length = n := by simp [fit, zeros]

theorem length_mkFlit (vc ftype flags seq ack cvc ccount : Nat) (payload : List Byte) :
    (mkFlit vc ftype flags seq ack cvc ccount payload).length = 256 := by simp [mkFlit, length_fit, zeros]

/-- Every flit that the module makes has a good CRC. -/
theorem mkFlit_crcOk (vc ftype flags seq ack cvc ccount : Nat) (payload : List Byte) :
    crcOk (mkFlit vc ftype flags seq ack cvc ccount payload) 256 = true :=
  crcOk_append _ _ (by simp [length_fit, zeros])

/-! ### What sending leaves alone -/

/-- A flit on the wire changes the network side only. -/
theorem State.putFlit_eq (s : State) (p : Nat) (f : List Byte) : ∃ n, s.putFlit p f = { s with net := n } := ⟨_, rfl⟩

/-- Flits on the wire change the network side only. -/
theorem State.onWire_eq (s : State) (p : Nat) (fs : List (List Byte)) : ∃ n, s.onWire p fs = { s with net := n } := by
  unfold State.onWire
  split
  · exact ⟨s.net, rfl⟩
  · clear * -
    induction fs generalizing s with
    | nil => exact ⟨s.net, rfl⟩
    | cons f t ih =>
      obtain ⟨n, e⟩ := ih (s.putFlit p f)
      exact ⟨n, e⟩

/-- IDLE flits change the network side only. -/
theorem State.idlePort_eq (s : State) (p : Nat) : ∃ n, s.idlePort p = { s with net := n } := by
  unfold State.idlePort
  dsimp only
  split
  · exact ⟨s.net, rfl⟩
  · exact ⟨_, rfl⟩

/-- Sending what waits at a port changes the network side only. -/
theorem State.pumpPort_eq (s : State) (p : Nat) : ∃ n, s.pumpPort p = { s with net := n } := by
  unfold State.pumpPort
  dsimp only
  split
  · obtain ⟨n, e⟩ := State.onWire_eq (s.setPort p ((s.port p).pump [] ((s.port p).txq.length + 1)).1) p ((s.port p).pump [] ((s.port p).txq.length + 1)).2
    rw [e]
    exact State.idlePort_eq _ p
  · exact ⟨s.net, rfl⟩

/-- A CTRL flit changes the network side only. -/
theorem State.sendCtrl_eq (s : State) (p : Nat) (nak : Bool) (cvc n : Nat) : ∃ x, s.sendCtrl p nak cvc n = { s with net := x } := by
  unfold State.sendCtrl
  obtain ⟨n, e⟩ := State.onWire_eq s p [mkFlit 0 2 (if nak then 4 else 0) 0 (s.port p).ack cvc n []]
  rw [e]
  exact State.idlePort_eq _ p

/-- Returned credits change the network side only. -/
theorem State.releaseCredits_eq (s : State) (vc : Nat) : ∃ n, s.releaseCredits vc = { s with net := n } := by
  unfold State.releaseCredits
  split
  · generalize List.range 18 = l
    have : ∀ (l : List Nat) (x : Net), ∃ n, l.foldl (fun s p =>
        let x := s.port p
        let n := x.owed.get 0 vc
        if n = 0 then s
        else (s.setPort p { x with owed := x.owed.set 0 vc (n - min 255 n) }).sendCtrl p false vc (min 255 n)) { s with net := x } =
        { s with net := n } := by
      intro l
      induction l with
      | nil => exact fun x => ⟨x, rfl⟩
      | cons p t ih =>
        intro x
        rw [List.foldl_cons]
        dsimp only
        split
        · exact ih x
        · obtain ⟨n, e⟩ := State.sendCtrl_eq (State.setPort { s with net := x } p { State.port { s with net := x } p with
            owed := (State.port { s with net := x } p).owed.set 0 vc ((State.port { s with net := x } p).owed.get 0 vc - min 255 ((State.port { s with net := x } p).owed.get 0 vc)) })
            p false vc (min 255 ((State.port { s with net := x } p).owed.get 0 vc))
          rw [e]
          exact ih n
    exact this l s.net
  · exact ⟨s.net, rfl⟩

/-- A message acted on leaves the network side only changed. -/
theorem State.took_eq (s : State) (m : Msg) : ∃ n, s.took m = { s with net := n } := by
  obtain ⟨n, e⟩ := State.releaseCredits_eq { s with net := { s.net with inbox := s.net.inbox.erase m } } m.vc
  exact ⟨n, e⟩

/-- Handing a message to a port changes the network side only. -/
theorem State.toPort_eq (s : State) (p : Nat) (m : Msg) : ∃ n, s.toPort p m = { s with net := n } := by
  obtain ⟨n, e⟩ := State.pumpPort_eq (s.setPort p { s.port p with txq := (s.port p).txq ++ flitsOf m }) p
  exact ⟨n, e⟩

/-- Carrying a message changes the network side and the counters only. -/
theorem State.carry_eq (s : State) (m : Msg) : ∃ n c, s.carry m = { s with net := n, ctr := c } := by
  unfold State.carry
  split
  · obtain ⟨n, e⟩ := State.toPort_eq s (by assumption) m
    exact ⟨n, s.ctr, e⟩
  · exact ⟨_, _, rfl⟩

/-- A failure report changes the network side and the counters only. -/
theorem State.report_eq (s : State) (cls cause status suspect port last : Nat) :
    ∃ n c, s.report cls cause status suspect port last = { s with net := n, ctr := c } := by
  unfold State.report
  split
  · generalize s.reportTo = l
    have : ∀ (l : List Nat) (x : Net) (y : Counters), ∃ n c, l.foldl (fun s r =>
        let x := s.number (mkMsg 1 2 0 r (s.reportBody cls cause status suspect port last r))
        if s.mach.rank = some r then x.2.deliverOwn x.1 else x.2.carry x.1) { s with net := x, ctr := y } = { s with net := n, ctr := c } := by
      intro l
      induction l with
      | nil => exact fun x y => ⟨x, y, rfl⟩
      | cons r t ih =>
        intro x y
        rw [List.foldl_cons]
        dsimp only
        split
        · exact ih _ _
        · obtain ⟨n, c, e⟩ := State.carry_eq (State.number { s with net := x, ctr := y } (mkMsg 1 2 0 r (State.reportBody { s with net := x, ctr := y } cls cause status suspect port last r))).2
            (State.number { s with net := x, ctr := y } (mkMsg 1 2 0 r (State.reportBody { s with net := x, ctr := y } cls cause status suspect port last r))).1
          rw [e]
          exact ih n c
    exact this l s.net s.ctr
  · exact ⟨s.net, s.ctr, rfl⟩

/-- Transmitting a message changes the network side and the counters only. -/
theorem State.transmit_eq (s : State) (m : Msg) : ∃ n c, s.transmit m = { s with net := n, ctr := c } := by
  unfold State.transmit
  split
  · obtain ⟨n, c, e⟩ := State.report_eq (s.count cRouteDiscard 1) 1 0x02 0 s.ms.position 0xFF 0xFF
    exact ⟨n, c, e⟩
  · exact State.carry_eq s m

/-- Sending a message changes the network side and the counters only. -/
theorem State.send_eq (s : State) (m : Msg) : ∃ n c, s.send m = { s with net := n, ctr := c } := by
  unfold State.send
  split
  · dsimp only
    split
    · exact ⟨_, _, rfl⟩
    · obtain ⟨n, c, e⟩ := State.transmit_eq (s.number m).2 (s.number m).1
      exact ⟨n, c, e⟩
  · exact ⟨s.net, s.ctr, rfl⟩

/-- Sending a message to several ranks changes the network side and the counters only. -/
theorem State.sendAll_eq (s : State) (l : List Nat) (m : Nat → Msg) : ∃ n c, s.sendAll l m = { s with net := n, ctr := c } := by
  unfold State.sendAll
  induction l generalizing s with
  | nil => exact ⟨s.net, s.ctr, rfl⟩
  | cons r t ih =>
    obtain ⟨n, c, e⟩ := State.send_eq s (m r)
    rw [List.foldl_cons, e]
    obtain ⟨n', c', e'⟩ := ih { s with net := n, ctr := c }
    exact ⟨n', c', e'⟩

/-! ### What has been sent stays recorded -/

theorem State.onWire_sent (s : State) (p : Nat) (fs : List (List Byte)) : (s.onWire p fs).net.sent = s.net.sent := by
  unfold State.onWire
  split
  · rfl
  · clear * -
    induction fs generalizing s with
    | nil => rfl
    | cons f t ih => exact ih (s.putFlit p f)

theorem State.idlePort_sent (s : State) (p : Nat) : (s.idlePort p).net.sent = s.net.sent := by
  unfold State.idlePort
  dsimp only
  split <;> rfl

theorem State.pumpPort_sent (s : State) (p : Nat) : (s.pumpPort p).net.sent = s.net.sent := by
  unfold State.pumpPort
  dsimp only
  split
  · rw [State.idlePort_sent, State.onWire_sent]
    rfl
  · rfl

theorem State.carry_sent (s : State) (m : Msg) : (s.carry m).net.sent = s.net.sent := by
  unfold State.carry
  split
  · exact State.pumpPort_sent _ _
  · rfl

theorem State.report_sent (s : State) (cls cause status suspect port last : Nat) :
    s.net.sent <+: (s.report cls cause status suspect port last).net.sent := by
  unfold State.report
  split
  · generalize s.reportTo = l
    induction l generalizing s with
    | nil => exact List.prefix_refl _
    | cons r t ih =>
      rw [List.foldl_cons]
      dsimp only
      refine List.IsPrefix.trans ?_ (ih _ ?_)
      · split
        · exact ⟨_, rfl⟩
        · rw [State.carry_sent]
          exact ⟨_, rfl⟩
      · split
        · assumption
        · obtain ⟨n, c, e⟩ := State.carry_eq (s.number (mkMsg 1 2 0 r (s.reportBody cls cause status suspect port last r))).2
            (s.number (mkMsg 1 2 0 r (s.reportBody cls cause status suspect port last r))).1
          rw [e]
          assumption
  · exact List.prefix_refl _

theorem State.transmit_sent (s : State) (m : Msg) : s.net.sent <+: (s.transmit m).net.sent := by
  unfold State.transmit
  split
  · exact State.report_sent (s.count cRouteDiscard 1) _ _ _ _ _ _
  · rw [State.carry_sent]

/-- A module that is live and sends a message records it, behind all that it sent before. -/
theorem State.send_emits (s : State) (m : Msg) (h : s.live = true) : s.emits (s.send m) m := by
  unfold State.send State.emits
  rw [if_pos h]
  dsimp only
  have key : s.net.sent ++ [(s.number m).1] <+: (if s.mach.rank = some m.dst then (s.number m).2.deliverOwn (s.number m).1 else (s.number m).2.transmit (s.number m).1).net.sent := by
    split
    · exact List.prefix_refl _
    · exact State.transmit_sent (s.number m).2 (s.number m).1
  obtain ⟨u, hu⟩ := key
  refine ⟨(s.number m).1, ?_, rfl, rfl, rfl, rfl, rfl, rfl, rfl⟩
  rw [← hu, List.append_assoc, List.drop_left]
  simp

/-- Sending a message keeps the record of those sent before. -/
theorem State.send_sent (s : State) (m : Msg) : s.net.sent <+: (s.send m).net.sent := by
  unfold State.send
  split
  · dsimp only
    split
    · exact ⟨_, rfl⟩
    · refine List.IsPrefix.trans ?_ (State.transmit_sent (s.number m).2 (s.number m).1)
      exact ⟨_, rfl⟩
  · exact List.prefix_refl _

end Sys2Proof.Machine
end

