-- ==== Sys2Proof/WellFormed.lean ====
section
/-! DEFINITION. Which operands the outside can supply: the ranges the spec gives to rings, ports, cores, slots, flags, sizes of
descriptors, messages and frames. A command outside them is not one that the block's surroundings can make; exec is total on
them all the same. -/

namespace Sys2Proof

/-- A message as 10 R244 lays it out: coded fields in range. -/
def Msg.ok (m : Msg) : Bool :=
  decide (m.typ < 32) && decide (m.opc < 128) && decide (m.links < 16) && decide (m.vc < 12) && decide (m.src < 65536) && decide (m.dst < 65536) && decide (m.id < 2 ^ 32)

/-- Two raw reads of one burst or word: 36 symbols of HBM or 10 of DRAM and SRAM (08 R192, R196). -/
def RawWords.ok (r : RawWords) : Bool :=
  decide (r.addr < 2 ^ 48) && r.first.length == r.second.length && (r.first.length == 36 || r.first.length == 10)

/-- The same with what follows an uncorrectable one: four further reads of the burst, and reads of HBM bursts (08 R198). -/
def RawRead.ok (r : RawRead) : Bool :=
  r.toRawWords.ok && r.tests.again.length == 4 && r.tests.again.all (fun x => x.ok && x.first.length == 36 && x.addr == r.addr) &&
  r.tests.copies.all fun x => x.ok && x.first.length == 36

/-- Rings in ascending number, each read at most once in a poll (13 R332), with 64-byte descriptors (13 R331). -/
def pollOk : List DoorbellRead → Bool
  | [] => true
  | [a] => decide (a.ring < 64) && a.descs.all (·.length == 64)
  | a :: b :: t => decide (a.ring < b.ring) && a.descs.all (·.length == 64) && pollOk (b :: t)

/-- A ring number (13 R326). -/
def ringOk (n : Nat) : Bool := decide (n < 64)

/-- A logical core and a task slot (14 R346, R354). -/
def taskOk (core slot : Nat) : Bool := decide (core < 96) && decide (slot < 64)

/-- The operands lie in the ranges the spec gives them. -/
def WellFormed (i : Instr) : Bool :=
  match i with
  | .railFault rail _ => decide (rail < 16)
  | .doorbellPoll recs consumed => pollOk recs && decide (consumed < 2 ^ 32)
  | .ringsCtlWrite _ table => table.all (·.length == 64) && decide (table.length ≤ 64)
  | .reloadRing ring entry => ringOk ring && entry.length == 64
  | .fenceRelease ring => ringOk ring
  | .join ring | .mapTensor ring | .tableReplace ring | .checkpoint ring | .replayRoll ring | .replayRollThrough ring
  | .evidenceExport ring | .diagPrbsTest ring | .quiesce { ring := ring, .. } | .attest ring => ringOk ring
  | .loadProgram ring _ _ _ _ | .fwPush ring _ _ => ringOk ring
  | .step ring _ | .eval ring _ | .ingest ring _ | .migrate ring _ | .copy ring _ | .restoreContext ring _ | .replayExec ring _ => ringOk ring
  | .diagTestEnd port lanes => decide (port < 18) && lanes.length == 24
  | .diagMarginRead ring lanes => ringOk ring && lanes.length == 24
  | .loadVerdict m | .sampleReply m | .lookupBatch m | .lookupReply m | .eddyRefreshRecord m | .remoteAcc { msg := m, .. } | .confRerequest m
  | .remoteWrite m | .remoteRead m | .barrierStepStart m | .barrierFinite m | .barrierCommit m | .barrierFloor m | .barrierProgram m
  | .barrierWindow m | .migrateMapInstall m | .mirrorStepDelta m | .mirrorAck m | .mirrorBoundaryCopy m | .mirrorPullRequest m
  | .mirrorPullReply m | .failureReport { msg := m, .. } | .abortFinal m | .substitute m | .fallback m | .probe m | .recoveryAck m
  | .eddyRefreshAck m => m.ok
  | .joinTraffic pos _ => decide (pos < 16384)
  | .lostMessageReport dst vc _ => decide (dst < 8192) && decide (vc < 12)
  | .sampleReq m spec errs => m.ok && decide (spec < 16) && errs.all RawRead.ok
  | .remoteReadReply m dst => m.ok && decide (dst < 2 ^ 48)
  | .abort m cls cause reporter => m.ok && decide (cls < 4) && decide (cause < 256) && decide (reporter < 8192)
  | .probeTimeout x => decide (x.rank < 8192)
  | .heartbeat port m => decide (port < 18) && m.ok
  | .portSilenceTimeout port | .retrainTimeout port | .portRetryTick port | .portTrainingTimeout port => decide (port < 18)
  | .flitReceive port flit => decide (port < 18) && flit.bytes.length == 256
  | .laneDrop port _ => decide (port < 18)
  | .portTrainingComplete port r => decide (port < 18) && r.errors.length == 24 && r.credits.length == 12
  | .portTrainingCheck port copies => decide (port < 18) && copies.length == 64 && copies.all fun f => f.length == 64
  | .temperatureMeasurement half => half.length == 14
  | .patrolScrub r _ => r.raw.ok
  | .uncorrectableRead w _ tests => RawRead.ok { toRawWords := w, tests := tests }
  | .start issuer core slot _ => (match issuer with | some j => decide (j < 96) | none => true) && taskOk core slot
  | .end_ core | .yield core => decide (core < 96)
  | .wait core _ _ timer => decide (core < 96) && decide (timer < 2 ^ 32)
  | .signal issuer core slot flag => decide (issuer < 96) && taskOk core slot && decide (flag < 32)
  | .issue core _ addr _ => decide (core < 96) && decide (addr < 2 ^ 48)
  | .weirTimerExpiry core slot => taskOk core slot
  | .matmul core gang | .matmulPart core gang | .sparseHeaderScan core gang | .tileComplete core gang => decide (core < 96) && decide (gang < 16)
  | .braidPlan c | .braidMerge c | .braidDone c => decide (c < 12)
  | .gather core errs => decide (core < 96) && errs.all RawRead.ok
  | .scatterGrad core | .roundClose core | .quarryDone core | .spill core | .fill core | .tailraceDone core => decide (core < 96)
  | .spEncode core slot _ | .mask44 core slot _ | .rngUniform core slot _ _ _ | .rngBernoulli core slot _ _ | .rngDropout core slot _ _ _ _
  | .rngNormalBm core slot _ _ _ | .rngNormalTab core slot _ _ _ | .vectorElementwise core slot _ => taskOk core slot
  | .rowbin core slot _ _ _ _ => taskOk core slot
  | .rowscatter core slot _ _ _ _ _ _ => taskOk core slot
  | .rngAdvance core slot _ _ _ => taskOk core slot
  | .vectorReduction core slot _ _ _ _ _ _ _ => taskOk core slot
  | .splitKCombine core slot _ _ _ _ => taskOk core slot
  | .xm48Add core slot _ | .xm48Mul core slot _ | .xm48Store core slot _ => taskOk core slot
  | .xm48Load core slot _ _ => taskOk core slot
  | .xm48Convert core slot _ _ => taskOk core slot
  | .interfaceLockLoss pc => decide (pc < 256)
  | .smbusBridgeWrite off data => decide (off + data.length ≤ 0x1000000)
  | .wearLevelling peMax peAvg _ => decide (peAvg ≤ peMax)
  | .inputApplied _ | .powerGood | .inputTrip _ | .powerLoss | .refclkLinkLoss | .pcieLinkDown | .pcieLinkUp | .perstAssert
  | .perstDeassert _ | .firmwareStageDone _ _ _ _ | .recoveryRestart | .reloadEventRing | .ctrSnap | .ctrDataHiRead | .counterPairRead
  | .indDataRead | .indDataWrite _ | .indirectAccessTimeout _ | .cfgCheckWrite _ | .registerWrite _ _ _ _ | .bar0UnsupportedRequest _ _
  | .paritySweep _ _ | .joinTimeout | .phaseEnd | .hopBatchSend _ | .boundaryWindow _ | .compactionBudgetExpired
  | .retentionRecordWritten _ | .watchdogExpiry | .heartbeatTick | .allPortsDownTimeout | .powerCapTick _ _ | .flashControllerTimeout
  | .flashGarbageCollection _ _ | .readDisturbRefresh _ _ | .dramLinkTrainingLoss | .rootPllLock _ => true

end Sys2Proof
end

