-- ==== Sys2Proof/Tests/Slice0.lean ====
section
/-! SUPPORT. Tests on small states. Three groups: the operands that WellFormed refuses, one effect or two of a command with values taken
from the spec or worked by hand from it, and for each clause of a statement that has hypotheses a state and operands that meet them all. -/

namespace Sys2Proof.Tests

open Sys2Proof Sys2Proof.Machine

set_option Elab.async false

/-! ### States and descriptors -/


/-- A descriptor: OPCODE, FLAGS, STEPNO, TAG 7, then fields at their offsets (13 R331). -/
def desc (op : Nat) (fs : List (Nat × List Byte)) (step flags : Nat := 0) : List Byte :=
  fs.foldl (fun b f => b.take f.1 ++ f.2 ++ b.drop (f.1 + f.2.length))
    (leBytes 1 op ++ leBytes 1 flags ++ zeros 2 ++ leBytes 4 step ++ leBytes 8 7 ++ zeros 48)

/-- A BUFFER in host memory at address 0 (13 R325). -/
def hostBuf : List Byte := leBytes 8 (2 ^ 62)

/-- A powered module out of reset, in a state of 13 R340. -/
def base (m : MState) : State :=
  { State.reset with
    pwr := { State.reset.pwr with applied := true, railsOn := true, good := true, perst := false, pcieUp := true }
    ms := { State.reset.ms with st := m } }

/-- Ring 0 running with one descriptor fetched. -/
def ringed (s : State) (d : List Byte) : State := s.setRing 0 { Ring.stopped with running := true, ci := 1, queue := [d] }

/-- Ring 0 with a command in progress. -/
def busied (s : State) (d : List Byte) : State := s.setRing 0 { Ring.stopped with running := true, ci := 1, busy := some (0, d) }

/-- A program of one step specification and one row table of four rows of 16 BF16 elements, and where it lies. -/
def decl : Decl :=
  { (default : Decl) with
    nodes := 4
    graphBytes := 4096
    specs := [{ hops := [{ mode := .uniform, fanout := 2, repl := true, tbound := false, window := 0, typeMask := BitVec.allOnes 256 }] }]
    tables := [{ (default : TableDecl) with sharded := true, rows := 4, followNode := true, fmt := 1, width := 16, train := true, shadow := 4 }]
    kernels := [{ (default : KernelDecl) with vecRed := true, maxK := 64 }]
    rounds := 1
    ringLen := 16
    ringMax := 65536
    maxTargets := 4
    ledgerCap := 64
    scoreBytes := 16
    rxMax := 65536
    planN := 4
    planD := 4
    mergeN := 4
    mergeD := 4
    mergeV := 16
    tailBytes := 65536 }

/-- A placement of that program. -/
def place : Placement :=
  { (default : Placement) with
    ledger := 0x10000
    attrs := 0x11000
    graph := { base := 0x1000, len := 4096 }
    tabs := [{ dir := 0x20000, slots := 0x21000, slotCount := 12, master := 0x22000, moments := 0x23000 }]
    carried := { base := 0x4000, len := 4096 }
    tailrace := { base := 0x300000, len := 65536 }
    mirror := [0x400000]
    mirrored := [{ base := 0x500000, len := 4096 }]
    ring := { base := flashBase, len := 16 * 65536 }
    ringDir := flashBase + 0x200000
    localTabs := []
    receive := List.replicate 9 { base := 0x600000, len := 65536 } }

/-- The loaded program: a tensor, and no task. -/
def program : Program where
  hash := 0
  contract := 3
  t7 := false
  lcores := 1
  needFw := 0
  needYl := 0
  needNum := 0
  seed := 77
  first := 10
  tensors := [{ (default : TensorRec) with id := 1 }]
  tasks := [[]]
  decl := decl
  place := place
  spares := []
  shared := []

/-- An installation map: ranks 0 and 1 at positions 0 and 1, a spare at 4, and a cable from port 0 of position 0 to port 2 of position 1. -/
def imap : InstallMap :=
  { (default : InstallMap) with
    positions := [0, 1, 4]
    ranks := [0, 1]
    spares := [(4, [0, 1])]
    ports := [(0, some (1, 2) :: List.replicate 17 none)] }

/-- A loaded member of a machine of one rank. -/
def solo (m : MState) : State :=
  { base m with
    ms := { (base m).ms with map := some { imap with ranks := [0] } }
    mach := { State.reset.mach with rank := some 0, ranks := [0], formed := true }
    prog := some program }

/-- Rank 0 of a machine of two ranks. -/
def duo (m : MState) : State :=
  { base m with
    ms := { (base m).ms with map := some imap }
    mach := { State.reset.mach with rank := some 0, ranks := [0, 1], formed := true }
    prog := some program }

/-- A step in progress in a phase. -/
def inStep (p : Phase) : StepRun where
  ring := 0
  exec := false
  spec := 0
  targets := []
  rawTargets := []
  source := none
  phase := p
  attempt := 0
  replays := 0
  hop := 0
  fault := none
  rescaled := false
  epoch := 0
  record := none
  captures := []
  prior := none

/-- A state with that step in progress. -/
def stepping (s : State) (p : Phase) : State := { s with st := { s.st with run := some (inStep p) } }

/-- A message from rank 1 to rank 0. -/
def msg (typ opc vc : Nat) (body : List Byte) (resp last : Bool := false) : Msg :=
  { (default : Msg) with typ := typ, opc := opc, vc := vc, src := 1, body := body, resp := resp, last := last }

/-- The conditions of `takes` that can be decided. -/
theorem takes_of {s : State} {n op : Nat} {d : List Byte} (q : (s.ring n).queue = [d])
    (h : s.canDequeue n = true ∧ descOp d = op ∧ descOk d = true ∧ legal op s.ms.st = .accept ∧ (rankOp op = true → s.mach.rank.isSome = true) ∧
      ((op = 0x04 ∨ op = 0x05) → s.recov.fallback = false) ∧ (exclusiveOp op = true → s.othersIdle n = true)) : s.takes n op d :=
  ⟨Or.inl ⟨⟨[], q⟩, h.1⟩, h.2⟩

/-- A state in which as many events wait as are held. -/
def fullHold (s : State) : State := { s with host := { s.host with held := List.replicate 4096 (.event 1 []) } }

theorem fullHold_full (s : State) : (fullHold s).holdFull = true := by
  show decide (4096 ≤ _) = true
  rw [decide_eq_true_iff]
  exact (congrArg List.length (List.filter_eq_self.mpr fun e he => by rw [List.eq_of_mem_replicate he])).trans (List.length_replicate ..) |>.ge

/-- A read of a DRAM word that does not decode. -/
def lostWord : RawRead :=
  { addr := dramFwEnd, first := [1, 2, 3, 4, 5, 6, 7, 8, 9, 10], second := [1, 2, 3, 4, 5, 6, 7, 8, 9, 10], 
    tests := { again := List.replicate 4 { addr := dramFwEnd, first := zeros 36, second := zeros 36 }, copies := [] } }

/-! ### Hypotheses that can be met: the machine, power and boot -/

theorem witness_StepRunsFront : ∃ s : State, s.pending = [] := ⟨State.reset, by decide⟩

theorem witness_NotLiveUnchanged : ∃ (c : Instr) (s : State), s.live = false ∧ s.trains = false ∧ reachesAnyway c = false :=
  ⟨.join 63, base .halted, by decide⟩

theorem witness_StatesFollowTable : (∃ (c : Instr) (s t : State), exec c s = .next t ∧ resets c = false) ∧
    ∃ (c : Instr) (s t : State), exec c s = .next t ∧ resets c = true :=
  ⟨⟨.pcieLinkDown, State.reset, _, rfl, rfl⟩, .inputTrip 51000, State.reset, _, rfl, rfl⟩

theorem witness_StoresCanonical : ∃ s t : State, s.storesOk ∧ step s = .next t := ⟨State.reset, idle State.reset, ⟨by decide, by decide, by decide⟩, rfl⟩

/-- A state with power stage changed. -/
def pwrWith (s : State) (f : Pwr → Pwr) : State := { s with pwr := f s.pwr }

theorem witness_PowerAndResets_trip : (∃ (s : State) (mv : Nat), s.pwr.railsOn = false ∧ mv < 51000) ∧
    (∃ (s : State) (mv : Nat), s.pwr.railsOn = true ∧ mv < 51000) ∧ ∃ (s : State) (mv : Nat), s.pwr.railsOn = true ∧ 60000 < mv :=
  ⟨⟨State.reset, 50999, by decide⟩, ⟨base .ready, 50999, by decide⟩, base .ready, 60001, by decide⟩

theorem witness_PowerAndResets_within : ∃ mv : Nat, 51000 ≤ mv ∧ mv ≤ 60000 := ⟨51000, by decide⟩

theorem witness_PowerAndResets_rail : ∃ (s : State) (rail mv : Nat), s.pwr.railsOn = true ∧ s.pwr.good = true ∧ s.railPresent rail = true ∧
    (100 * mv < 95 * nth 0 railNominal rail ∨ 105 * nth 0 railNominal rail < 100 * mv) := ⟨base .ready, 15, 0, by decide⟩

theorem witness_PowerAndResets_good : (∃ s : State, s.pwr.railsOn = true ∧ s.pwr.good = false) ∧ (∃ s : State, s.pwr.good = true) ∧
    ∃ s : State, s.pwr.good = false :=
  ⟨⟨pwrWith State.reset fun p => { p with railsOn := true }, by decide⟩, ⟨base .ready, rfl⟩, State.reset, by decide⟩

theorem witness_BootRuns_straps : (∃ s : State, s.pwr.good = true ∧ s.pwr.perst = true) ∧ (∃ s : State, s.on = true ∧ s.pwr.waitPll = true) ∧
    ∃ s : State, s.on = true ∧ s.ms.st = .recovery ∧ s.ms.fwRestart = true :=
  ⟨⟨pwrWith State.reset fun p => { p with good := true }, by decide⟩, ⟨pwrWith (base .rom) fun p => { p with waitPll := true }, by decide⟩,
   { base .recovery with ms := { (base .recovery).ms with fwRestart := true } }, by decide⟩

theorem witness_BootRuns_stages : ∀ stage ∈ [0x07, 0x08, 0x09, 0x0A], ∃ (s : State) (bad bad' : List (Nat × List Nat)),
    s.on = true ∧ s.ms.st = .rom ∧ s.ms.fwRun = some stage ∧ bad.all (fun b => decide (b.2.length ≤ 2)) = true ∧
      bad'.all (fun b => decide (b.2.length ≤ 2)) = false :=
  fun stage _ => ⟨{ base .rom with ms := { (base .rom).ms with fwRun := some stage } }, [(255, [0, 71])], [(255, [0, 1, 71])], rfl, rfl, rfl, by decide, by decide⟩

theorem witness_OutsideLinks_bridge : (∃ (s : State) (off : Nat) (data : List Byte), s.pwr.good = true ∧ s.pwr.perst = true ∧ off + data.length ≤ slotBase) ∧
    ∃ (off : Nat) (data : List Byte), slotBase < off + data.length :=
  ⟨⟨pwrWith State.reset fun p => { p with good := true }, slotBase - 1, [5], by decide⟩, slotBase, [5], by decide⟩

theorem witness_OutsideLinks_up : ∃ (s : State) (pre : List HeldEntry) (a : Nat) (d : List Byte) (q : Option Nat) (rest : List HeldEntry), s.on = true ∧
    s.host.held = pre ++ HeldEntry.completion a d q :: rest ∧ ∀ e ∈ pre, ∃ a d q, e = HeldEntry.completion a d q :=
  ⟨{ base .ready with host := { State.reset.host with held := [.completion 0 [] none, .completion 32 [] none] } }, [.completion 0 [] none], 32, [], none, [],
   by decide, rfl, by simp⟩

theorem witness_BootRuns_flash : ∃ (s : State) (b : FlashStat), s.on = true ∧ s.ms.st = .rom ∧ s.ms.fwRun = some 0x08 ∧ s.tier.blocks = some b :=
  ⟨{ base .rom with
    ms := { (base .rom).ms with fwRun := some 0x08 }
    tier := { (base .rom).tier with blocks := some { good := 1, spare := 2, peAvg := 3, peMax := 4 } } }, _, by decide, by decide, by decide, rfl⟩

theorem witness_BootRuns_links : (∃ (s : State) (p : Nat), s.on = true ∧ s.ms.st = .rom ∧ s.ms.fwRun = some 0x09 ∧ s.describes p = true ∧
      (s.port p).st ≠ .absent) ∧
    ∃ s : State, s.on = true ∧ s.ms.st = .rom ∧ s.ms.fwRun = some 0x0A ∧ ∀ x ∈ s.regs.tableRegs ++ s.regs.evRegs, x.2.ok = true :=
  ⟨⟨({ base .rom with ms := { (base .rom).ms with fwRun := some 0x09, map := some imap } } : State).setPort 0 { State.reset.port 0 with st := .down }, 0,
    by decide⟩, { base .rom with ms := { (base .rom).ms with fwRun := some 0x0A } }, by decide⟩

/-- A state whose sensors have a band. -/
def banded (s : State) (b : Nat) : State := { s with tier := { s.tier with band := List.replicate 14 b } }

theorem witness_TemperatureAndPower_bands : (∃ (s : State) (half : List Nat), s.on = true ∧ s.host.held.length + 14 ≤ 4096 ∧
      ∀ i < 14, nextBand i (nth 0 s.tier.band i) (nth 0 half i) ≠ 4) ∧
    (∃ (s : State) (half : List Nat), s.on = true ∧ s.live = false ∧ s.host.held.length + 14 ≤ 4096 ∧
      ∀ i < 6, nextBand (i + 8) (nth 0 s.tier.band (i + 8)) (nth 0 half (i + 8)) ≠ 4) ∧
    (∃ (s : State) (half : List Nat), s.on = true ∧ s.holdFull = true ∧
      ∀ i < 14, nextBand i (nth 0 s.tier.band i) (nth 0 half i) ≠ 4 ∧ nth 0 s.tier.band i ≠ 4) ∧
    (∃ (s : State) (half : List Nat), s.on = true ∧ s.pwr.railsOn = true ∧
      ∃ i < 6, i + 8 < s.tier.band.length ∧ nextBand (i + 8) (nth 0 s.tier.band (i + 8)) (nth 0 half (i + 8)) = 4) ∧
    ∃ (s : State) (half : List Nat), s.live = true ∧ s.host.held.length + 14 ≤ 4096 ∧
      (∀ i < 6, nextBand (i + 8) (nth 0 s.tier.band (i + 8)) (nth 0 half (i + 8)) ≠ 4) ∧
      ∃ i < 8, i < s.tier.band.length ∧ nextBand i (nth 0 s.tier.band i) (nth 0 half i) = 4 :=
  ⟨⟨base .ready, List.replicate 14 80, by decide⟩, ⟨base .rom, List.replicate 14 80, by decide⟩,
   ⟨fullHold (base .ready), List.replicate 14 80, by decide, fullHold_full _, by decide⟩, ⟨base .ready, List.replicate 13 80 ++ [400], by decide⟩,
   base .ready, [400] ++ List.replicate 13 80, by decide⟩

theorem witness_TemperatureAndPower_edges : ∃ (sensor old half : Nat) (e : Nat × Nat), e ∈ bandEdges sensor ∧ e.1 ≤ old ∧ e.2 < half + 4 :=
  ⟨0, 4, 400, nth (0, 0) (bandEdges 0) 0, by decide, by decide⟩

theorem witness_TemperatureAndPower_cap : (∃ (s : State) (watts : Nat), s.on = true ∧ s.regs.pwrCap.ok = true ∧ s.capInForce < watts) ∧
    (∃ (s : State) (watts : Nat), s.on = true ∧ s.regs.pwrCap.ok = true ∧ watts + 50 < s.capInForce) ∧
    (∃ (s : State) (watts : Nat), s.on = true ∧ s.regs.pwrCap.ok = true ∧ watts ≤ s.capInForce ∧ s.capInForce ≤ watts + 50) ∧
    (∃ s : State, s.on = true ∧ s.live = false) ∧
    ∃ s : State, s.on = true ∧ s.regs.pwrCap.ok = false ∧ s.live = true :=
  ⟨⟨base .ready, 1801, by decide⟩, ⟨base .ready, 1749, by decide⟩, ⟨base .ready, 1750, by decide⟩, ⟨base .rom, by decide⟩,
   { base .ready with regs := { State.reset.regs with pwrCap := { val := 1, par := false } } }, by decide⟩

/-! ### BAR0 and rings -/

theorem witness_RegisterWrites_put : (∃ (s : State) (off : BitVec 20) (m : W32), s.bar0Up = true ∧ off.toNat % 4 = 0 ∧
      rwMask (canonical off).toNat = some m ∧ (canonical off).toNat ≠ 0x01000 ∧ s.ms.st ≠ .halted ∧
      ((canonical off).toNat = 0x00020 → s.regs.parTest = false)) ∧
    ∃ (s : State) (off : BitVec 20) (m : W32), s.bar0Up = true ∧ off.toNat % 4 = 0 ∧ rwMask (canonical off).toNat = some m ∧
      (canonical off).toNat ≠ 0x01000 ∧ s.ms.st = .halted :=
  ⟨⟨base .ready, 0x00020, 0xFFFFFFFF, by decide⟩, base .halted, 0x00180, _, by decide, by decide, rfl, by decide, rfl⟩

theorem witness_RegisterWrites_offsets : (∀ o ∈ [0x00024, 0x01000, 0x01020, 0x01024, 0x02000, 0x02004, 0x02008, 0x03000, 0x03008], ∃ off : BitVec 20, off.toNat % 4 = 0 ∧ o = (canonical off).toNat) ∧
    ∃ off : BitVec 20, off.toNat % 4 = 0 ∧ rwMask (canonical off).toNat = none ∧
      (canonical off).toNat ∉ [0x00024, 0x01020, 0x01024, 0x02000, 0x02004, 0x02008, 0x03000, 0x03008] :=
  ⟨fun o h => ⟨BitVec.ofNat 20 o, by revert o; decide⟩, 0xFFFFC, by decide⟩

theorem witness_RegisterWrites_strobes : (∀ b c : Bool, ∃ val : W32, val.getLsbD 31 = b ∧ val.getLsbD 30 = c) ∧ ∀ b : Bool, ∃ val : W32, val.getLsbD 0 = b :=
  ⟨fun b c => ⟨BitVec.ofNat 32 (2 ^ 31 * b.toNat + 2 ^ 30 * c.toNat), by revert b c; decide⟩, fun b => ⟨BitVec.ofNat 32 b.toNat, by revert b; decide⟩⟩

theorem witness_RegisterWrites_aliases : ∃ off off' : BitVec 20, off ≠ off' ∧ canonical off = canonical off' ∧ off.toNat % 4 = 0 ∧ off'.toNat % 4 = 0 :=
  ⟨0x00020, 0x08020, by decide⟩

theorem witness_RegisterWrites_unsupported : ∃ s : State, s.bar0Up = true ∧ ∀ x ∈ [(0, 9), (2, 4), (4, 8)], 8 < x.2 ∨ (x.2 = 4 ∧ x.1 % 4 ≠ 0) ∨ (x.2 = 8 ∧ x.1 % 8 ≠ 0) :=
  ⟨base .ready, by decide⟩

/-- A state with ADDR. -/
def addressed (s : State) (a : W32) : State := { s with regs := { s.regs with indAddr := a } }

theorem witness_ReadOuts : (∃ s : State, s.bar0Up = true ∧ s.ms.st ≠ .ready ∧ s.indMapped s.regs.indAddr.toNat = false) ∧
    (∃ (s : State) (l : Nat), s.bar0Up = true ∧ s.ms.st = .ready ∧ s.indMapped s.regs.indAddr.toNat = true ∧ s.regs.indAddr.toNat < 0x01200000 ∧
      laneOf s.regs.indAddr.toNat = some (l, 0x020)) ∧
    ∃ (s : State) (l : Nat) (val : W32), s.bar0Up = true ∧ s.ms.st = .ready ∧ s.indMapped s.regs.indAddr.toNat = true ∧ s.regs.indAddr.toNat < 0x01200000 ∧
      laneOf s.regs.indAddr.toNat = some (l, 0x000) ∧ val.getLsbD 30 = true ∧ (s.ind.patCtl.get (RwReg.of 0) l).val.getLsbD 30 = false :=
  ⟨⟨addressed (base .loaded) 0x20000000, by decide⟩, ⟨addressed (base .ready) 0x00010020, 0, by decide⟩, addressed (base .ready) 0x00010000, 0, 0x40000000,
   by decide⟩

theorem witness_ConfigParity_test : (∃ s : State, s.bar0Up = true ∧ s.ms.st = .ready) ∧ (∃ s : State, s.bar0Up = true ∧ s.ms.st ≠ .ready) ∧
    ∃ s : State, s.bar0Up = true ∧ s.ms.st ≠ .halted ∧ s.regs.parTest = true :=
  ⟨⟨base .ready, by decide⟩, ⟨base .loaded, by decide⟩, { base .ready with regs := { State.reset.regs with parTest := true } }, by decide⟩

/-- A register whose parity disagrees. -/
def odd : RwReg := { val := 1, par := false }

theorem witness_ConfigParity_sweep : (∃ (s : State) (a : Nat) (r : RwReg), s.regs.at a = some r ∧ r.ok = true) ∧
    (∃ (s : State) (a : Nat) (r : RwReg), s.regs.at a = some r ∧ r.ok = false ∧ s.live = true) ∧
    (∃ (s : State) (a l : Nat), laneOf a = some (l, 0x000) ∧ (s.ind.patCtl.get (RwReg.of 0) l).ok = false ∧ s.live = true) ∧
    ∃ (s : State) (a l : Nat), laneOf a = some (l, 0x020) ∧ (s.ind.txeq.get (RwReg.of 0) l).ok = false ∧ s.live = true :=
  ⟨⟨base .ready, 0x00020, .of 0, by decide⟩, ⟨{ base .ready with regs := { State.reset.regs with scratch := odd } }, 0x00020, odd, by decide⟩,
   ⟨{ base .ready with ind := { (base .ready).ind with patCtl := [(0, odd)] } }, 0x00010000, 0, by decide⟩,
   { base .ready with ind := { (base .ready).ind with txeq := [(0, odd)] } }, 0x00010020, 0, by decide⟩

/-- A ring context entry that enables its ring (13 R326). -/
def entry : List Byte := leBytes 8 0x1000 ++ leBytes 8 0x2000 ++ leBytes 8 0x3000 ++ leBytes 8 0x0000000100000104 ++ zeros 32

/-- A state whose rings.ctl holds a value. -/
def ctlWith (s : State) (v : W32) : State := { s with regs := { s.regs with ringsCtl := .of v } }

/-- The registers that taking up a ring reads have their parity. -/
def paired (s : State) : Prop := ∀ x ∈ s.regs.tableRegs ++ s.regs.evRegs, x.2.ok = true

theorem witness_Rings_enable : (∃ (s : State) (val : W32) (table : List (List Byte)), s.bar0Up = true ∧ paired s ∧ s.ms.st ≠ .halted ∧ s.ms.st ≠ .rom ∧
      val.getLsbD 31 = true ∧ s.regs.ringsCtl.val.getLsbD 31 = false ∧ (s.ring 0).busy = none ∧ (ringFields (nth (zeros 64) table 0)).enable = true ∧
      ringEntryOk s.regs.tableBase (nth (zeros 64) table 0) = true) ∧
    (∃ (s : State) (val : W32) (b : Nat × List Byte), s.bar0Up = true ∧ paired s ∧ s.ms.st ≠ .rom ∧ val.getLsbD 31 = true ∧
      s.regs.ringsCtl.val.getLsbD 31 = false ∧ (s.ring 0).busy = some b) ∧
    (∃ (s : State) (val : W32), s.bar0Up = true ∧ paired s ∧ s.ms.st = .rom ∧ val.getLsbD 31 = true ∧ s.regs.ringsCtl.val.getLsbD 31 = false) ∧
    ∃ (s : State) (val : W32), s.bar0Up = true ∧ paired s ∧ s.ms.st ≠ .halted ∧ (val.getLsbD 31 = false ∨ s.regs.ringsCtl.val.getLsbD 31 = true) :=
  ⟨⟨base .ready, 0x80010004, [entry], by decide, by unfold paired; decide, by decide⟩,
   ⟨busied (base .ready) (desc 0x10 []), 0x80010004, (0, desc 0x10 []), by decide, by unfold paired; decide, by decide⟩,
   ⟨base .rom, 0x80010004, by decide, by unfold paired; decide, by decide⟩, base .ready, 0, by decide, by unfold paired; decide, by decide⟩

theorem witness_Rings_reload : (∃ (s : State) (n : Nat) (e : List Byte), s.bar0Up = true ∧ paired s ∧ s.ms.st ≠ .rom ∧ (s.ring n).busy = none ∧
      n < s.regs.nrings ∧ (ringFields e).enable = true ∧ ringEntryOk s.regs.tableBase e = true) ∧
    (∃ (s : State) (n : Nat) (e : List Byte), s.bar0Up = true ∧ paired s ∧ s.ms.st ≠ .rom ∧ (s.ring n).busy = none ∧ n < s.regs.nrings ∧
      (ringFields e).enable = false ∧ ringEntryOk s.regs.tableBase e = false) ∧
    (∃ (s : State) (n : Nat) (b : Nat × List Byte), s.bar0Up = true ∧ paired s ∧ s.ms.st ≠ .rom ∧ (s.ring n).busy = some b) ∧
    ∃ s : State, s.bar0Up = true ∧ paired s ∧ s.ms.st = .rom :=
  ⟨⟨ctlWith (base .ready) 0x00010004, 0, entry, by decide, by unfold paired; decide, by decide⟩,
   ⟨ctlWith (base .ready) 0x00010004, 0, zeros 64, by decide, by unfold paired; decide, by decide⟩,
   ⟨busied (base .ready) (desc 0x10 []), 0, (0, desc 0x10 []), by decide, by unfold paired; decide, by decide⟩, base .rom, by decide,
   by unfold paired; decide⟩

theorem witness_Rings_poll : (∃ (s : State) (n pi gen : Nat) (ds : List (List Byte)), s.bar0Up = true ∧ s.live = true ∧ s.regs.ringsCtl.ok = true ∧ n < 64 ∧
      s.regs.ringsCtl.val.getLsbD 31 = true ∧ (s.ring n).running = true ∧ (s.ring n).fenced = false ∧
      ((s.ring n).busy.isSome = true ∨ ∀ d ∈ (s.ring n).queue ++ ds, rowless d = false) ∧ gen = (s.ring n).ctx.gen ∧
      (pi + 2 ^ 32 - (s.ring n).ci % 2 ^ 32) % 2 ^ 32 = ds.length ∧ ds.length ≤ 2 ^ (s.ring n).ctx.log2 ∧ ds ≠ []) ∧
    ∃ (s : State) (n gen : Nat), s.bar0Up = true ∧ s.live = true ∧ s.regs.ringsCtl.ok = true ∧ n < 64 ∧ s.regs.ringsCtl.val.getLsbD 31 = true ∧
      (s.ring n).running = true ∧ (s.ring n).fenced = false ∧ (s.ring n).busy.isSome = true ∧ gen ≠ (s.ring n).ctx.gen :=
  ⟨⟨ctlWith (ringed (base .ready) (desc 0x0F [])) 0x80000004, 0, 2, 0, [desc 0x11 []], by decide⟩,
   ctlWith (busied (base .ready) (desc 0x10 [])) 0x80000004, 0, 1, by decide⟩

/-! ### Commands of the host -/

/-- STEP's descriptor: one target in host memory (13 R342). -/
def stepD : List Byte := desc 0x04 [(16, hostBuf), (24, leBytes 4 1)]

/-- EVAL's descriptor: one target, scores to host memory. -/
def evalD : List Byte := desc 0x05 [(16, hostBuf), (24, leBytes 4 1), (32, hostBuf), (40, leBytes 4 16)]

/-- `heads`, decided. -/
theorem heads_of {s : State} {n op : Nat} {d : List Byte} (q : (s.ring n).queue = [d])
    (h : s.canDequeue n = true ∧ descOp d = op ∧ s.mayJudge n op = true) : s.heads n op d := ⟨Or.inl ⟨⟨[], q⟩, h.1⟩, h.2⟩

/-- A ring whose exclusive command has been taken up and waits (13 R334). -/
def waitsOn (s : State) (d : List Byte) : State := s.setRing 0 { Ring.stopped with running := true, ci := 1, busy := some (0, d), waits := true }

theorem witness_HostChecks_layout : (∃ (c : Instr) (s : State) (n op : Nat) (d : List Byte), hostCommand c = some (n, op) ∧
      (s.ring n).queue = [d] ∧ descOp d = op ∧ s.canDequeue n = true ∧ rowFor c d s = true ∧ descOk d = false ∧ legal op s.ms.st = .wait) ∧
    ∃ (c : Instr) (s : State) (n op : Nat) (d : List Byte), hostCommand c = some (n, op) ∧ s.heads n op d ∧ rowFor c d s = true ∧ descOk d = true ∧
      legal op s.ms.st = .invalid :=
  ⟨⟨.quiesce ⟨0, default⟩, ringed (solo .running) (desc 0x0F [] 1), 0, 0x0F, desc 0x0F [] 1, by decide⟩,
   .join 0, ringed (base .quiesced) (desc 0x01 []), 0, 0x01, desc 0x01 [], rfl, heads_of (by decide) (by decide), by decide⟩

theorem witness_HostChecks_rank : ∃ (c : Instr) (s : State) (n op : Nat) (d : List Byte), hostCommand c = some (n, op) ∧ s.heads n op d ∧
    rowFor c d s = true ∧ descOk d = true ∧ rankOp op = true ∧ s.mach.rank = none :=
  ⟨.step 0 [], ringed (base .loaded) stepD, 0, 0x04, stepD, rfl, heads_of (by decide) (by decide), by decide⟩

theorem witness_HostChecks_fallback : ∃ (c : Instr) (s : State) (n op : Nat) (d : List Byte), hostCommand c = some (n, op) ∧ s.heads n op d ∧
    rowFor c d s = true ∧ descOk d = true ∧ legal op s.ms.st = .accept ∧ op = 0x05 ∧ s.recov.fallback = true :=
  ⟨.eval 0 [], ringed { solo .loaded with recov := { State.reset.recov with fallback := true } } evalD, 0, 0x05, evalD, rfl,
   heads_of (by decide) (by decide), by decide⟩

theorem witness_HostChecks_last : ∃ (c : Instr) (s : State) (n op : Nat) (d : List Byte), hostCommand c = some (n, op) ∧ s.heads n op d ∧
    rowFor c d s = true ∧ descOk d = true ∧ legal op s.ms.st = .accept ∧ op = 0x04 ∧ s.mach.rank.isSome = true ∧ s.recov.fallback = false ∧
    s.st.run = none ∧ s.st.waiting = [] ∧ s.st.stepNo = 0xFFFFFFFF :=
  ⟨.step 0 [], ringed { solo .loaded with st := { StepState.reset with stepNo := 0xFFFFFFFF } } stepD, 0, 0x04, stepD, rfl,
   heads_of (by decide) (by decide), by decide⟩

theorem witness_HostChecks_wait : ∃ (c : Instr) (s : State) (n op : Nat) (d : List Byte), hostCommand c = some (n, op) ∧
    (s.ring n).queue = [d] ∧ descOp d = op ∧ descOk d = true ∧ legal op s.ms.st = .wait :=
  ⟨.quiesce ⟨0, default⟩, ringed (solo .running) (desc 0x0F []), 0, 0x0F, desc 0x0F [], by decide⟩

theorem witness_HostChecks_waited : ∃ (c : Instr) (s : State) (n op : Nat) (d : List Byte), hostCommand c = some (n, op) ∧ s.heads n op d ∧
    rowFor c d s = true ∧ descOk d = true ∧ rankOp op = true ∧ s.mach.rank = none ∧ (s.ring n).waits = true :=
  ⟨.checkpoint 0, waitsOn (base .loaded) (desc 0x0A [(16, hostBuf)]), 0, 0x0A, desc 0x0A [(16, hostBuf)], rfl,
   ⟨Or.inr ⟨⟨0, by decide⟩, by decide, by decide⟩, by decide, by decide⟩, by decide⟩

theorem witness_HostWaits_busy : (∃ (c : Instr) (s : State) (n op i : Nat) (d : List Byte), hostCommand c = some (n, op) ∧ (s.ring n).queue = [d] ∧
      (s.ring n).busy = some (i, d) ∧ (s.ring n).waits = false) ∧
    ∃ (c : Instr) (s : State) (n op i : Nat) (d : List Byte), hostCommand c = some (n, op) ∧ (s.ring n).busy = some (i, d) ∧ (s.ring n).waits = true ∧
      s.mayJudge n op = false :=
  ⟨⟨.attest 0, (base .ready).setRing 0 { Ring.stopped with running := true, ci := 2, queue := [desc 0x11 []], busy := some (0, desc 0x11 []) }, 0, 0x11, 0,
    desc 0x11 [], by decide⟩, .quiesce ⟨0, default⟩, waitsOn (solo .running) (desc 0x0F []), 0, 0x0F, 0, desc 0x0F [], by decide⟩

theorem witness_HostWaits_behind : ∃ (c : Instr) (s : State) (n op : Nat) (d : List Byte) (x : Nat × Nat) (l : List (Nat × Nat)),
    hostCommand c = some (n, op) ∧ (s.ring n).busy = none ∧ (s.ring n).queue = [d] ∧ descOp d = op ∧ s.host.excl = x :: l ∧ x.1 ≠ n :=
  ⟨.attest 0, { ringed (base .ready) (desc 0x11 []) with host := { (ringed (base .ready) (desc 0x11 [])).host with excl := [(1, 0)] } }, 0, 0x11,
   desc 0x11 [], (1, 0), [], by decide⟩

theorem witness_HostWaits_exclusive : ∃ (c : Instr) (s : State) (n op : Nat) (d : List Byte), hostCommand c = some (n, op) ∧ (s.ring n).busy = none ∧
    (s.ring n).queue = [d] ∧ s.canDequeue n = true ∧ descOp d = op ∧ rowFor c d s = true ∧ descOk d = true ∧ s.mayJudge n op = false :=
  ⟨.quiesce ⟨0, default⟩, (ringed (base .ready) (desc 0x0F [])).setRing 1 { Ring.stopped with running := true, busy := some (0, desc 0x0E []) }, 0, 0x0F,
   desc 0x0F [], by decide⟩

theorem witness_HostWaits_prepared : ∃ (c : Instr) (s : State) (n op : Nat) (d : List Byte), hostCommand c = some (n, op) ∧ (s.ring n).busy = none ∧
    (s.ring n).queue = [d] ∧ descOp d = op ∧ rowFor c d s = false :=
  ⟨.eval 0 [], ringed (stepping (solo .running) .prepared) evalD, 0, 0x05, evalD, by decide⟩

theorem witness_HostWaits_complete : ∃ (s : State) (n i : Nat) (d : List Byte), (s.ring n).busy = some (i, d) ∧ (s.ring n).again = none :=
  ⟨busied (base .ready) (desc 0x0F []), 0, 0, desc 0x0F [], by decide⟩

/-- MAP_TENSOR of a tensor into a buffer of a length. -/
def mapD (id len : Nat) (buf : List Byte := hostBuf) : List Byte := desc 0x03 [(16, leBytes 2 id), (24, buf), (32, leBytes 4 len)]

/-- A loaded module that holds one range of tensor 1. -/
def mapped : State := { solo .loaded with prog := some { program with place := { place with rows := [{ (default : RowPlace) with tensor := 1 }] } } }

theorem witness_ReportsWritten_map : ∃ p : Program, p.place.rows = [{ (default : RowPlace) with tensor := 1 }] ∧ ∀ x ∈ [mapD 1 32, mapD 1 32 (leBytes 8 poolBase), mapD 1 31, mapD 2 32],
    (ringed mapped x).takes 0 0x03 x ∧ (ringed mapped x).prog = some p :=
  ⟨{ program with place := { place with rows := [{ (default : RowPlace) with tensor := 1 }] } }, rfl, fun x h => ⟨takes_of (by revert x; decide) (by revert x; decide), rfl⟩⟩

theorem witness_ReportsWritten_buffers : (mapped.rangesOf 1).length = 1 ∧ mapped.bufferTakes (field (mapD 1 32) 24 8) 32 = true ∧
    mapped.bufferTakes (field (mapD 1 32 (leBytes 8 poolBase)) 24 8) 32 = false ∧ field (mapD 1 31) 32 4 < 32 := by decide

/-- ATTEST into a buffer of a length. -/
def attestD (len : Nat) (buf : List Byte := hostBuf) : List Byte := desc 0x11 [(48, buf), (56, leBytes 4 len)]

theorem witness_ReportsWritten_attest : (∃ (s : State) (n : Nat) (d : List Byte), s.takes n 0x11 d ∧ 6472 ≤ field d 56 4 ∧ ∀ k, s.bufferTakes (field d 48 8) k = true) ∧
    (∃ (s : State) (n : Nat) (d : List Byte), s.takes n 0x11 d ∧ 6472 ≤ field d 56 4 ∧ ∀ k, 0 < k → s.bufferTakes (field d 48 8) k = false) ∧
    ∃ (s : State) (n : Nat) (d : List Byte), s.takes n 0x11 d ∧ field d 56 4 < 6472 :=
  ⟨⟨ringed (base .ready) (attestD 6472), 0, _, takes_of rfl (by decide), by decide, fun k => by
      have h : bufSpace (field (attestD 6472) 48 8) = 1 := by decide
      simp [State.bufferTakes, h]⟩,
   ⟨ringed (base .ready) (attestD 6472 (leBytes 8 poolBase)), 0, _, takes_of rfl (by decide), by decide, fun k hk => by
      have h : bufSpace (field (attestD 6472 (leBytes 8 poolBase)) 48 8) = 0 := by decide
      have h1 : bufDa (field (attestD 6472 (leBytes 8 poolBase)) 48 8) = poolBase := by decide
      have h2 : (ringed (base .ready) (attestD 6472 (leBytes 8 poolBase))).placeOf poolBase = .pool := by decide
      have h3 : (ringed (base .ready) (attestD 6472 (leBytes 8 poolBase))).dmaWrites poolBase k = false := by
        unfold State.dmaWrites State.placeOfRange
        by_cases q : (ringed (base .ready) (attestD 6472 (leBytes 8 poolBase))).placeOf poolBase =
            (ringed (base .ready) (attestD 6472 (leBytes 8 poolBase))).placeOf (poolBase + (k - 1))
        · rw [if_pos q, h2]
        · rw [if_neg q]
      simp [State.bufferTakes, h, h1, h3, Nat.ne_of_gt hk]⟩,
   ringed (base .ready) (attestD 6471), 0, _, takes_of rfl (by decide), by decide⟩

/-- COPY of a length from one buffer to another. -/
def copyD (src dst : List Byte) (len : Nat) : List Byte := desc 0x09 [(16, src), (24, dst), (32, leBytes 8 len)]

/-- Copies that are made: from the host to the last bytes of HBM below the pool, and of the first flash page to the host. -/
theorem witness_CopyStores_made : ∀ d ∈ [copyD hostBuf (leBytes 8 (poolBase - 4)) 4, copyD (leBytes 8 flashBase) hostBuf 4096],
    (ringed (solo .loaded) d).takes 0 0x09 d ∧ (bufSpace (field d 16 8) = 0 ∨ bufSpace (field d 24 8) = 0) ∧
    (bufSpace (field d 16 8) = 0 → field d 32 8 ≠ 0 → (ringed (solo .loaded) d).copyReads (bufDa (field d 16 8)) (field d 32 8) = true) ∧
    (bufSpace (field d 24 8) = 0 → field d 32 8 ≠ 0 → (ringed (solo .loaded) d).copyWrites (bufDa (field d 24 8)) (field d 32 8) = true) ∧
    ((ringed (solo .loaded) d).readBuffer (field d 16 8) (field d 32 8) [1, 2, 3, 4]).toOption.isSome = true :=
  fun d h => ⟨takes_of rfl (by revert d; decide), by revert d; decide⟩

/-- Copies that are refused: from host to host, from a place that no copy reads, and to the pool. -/
theorem witness_CopyStores_refused : ∀ d ∈ [copyD hostBuf hostBuf 4, copyD (leBytes 8 (flashBase + 1)) hostBuf 4096, copyD hostBuf (leBytes 8 (poolBase - 3)) 4],
    (ringed (base .ready) d).takes 0 0x09 d ∧ ((bufSpace (field d 16 8) = 1 ∧ bufSpace (field d 24 8) = 1) ∨
      (bufSpace (field d 16 8) = 0 ∧ field d 32 8 ≠ 0 ∧ (ringed (base .ready) d).copyReads (bufDa (field d 16 8)) (field d 32 8) = false) ∨
      (bufSpace (field d 24 8) = 0 ∧ field d 32 8 ≠ 0 ∧ (ringed (base .ready) d).copyWrites (bufDa (field d 24 8)) (field d 32 8) = false)) :=
  fun d h => ⟨takes_of rfl (by revert d; decide), by revert d; decide⟩

theorem witness_CopyStores_unreadable : ∃ (s : State) (n : Nat) (d : List Byte), s.takes n 0x09 d ∧ bufSpace (field d 16 8) = 0 ∧ field d 32 8 ≠ 0 ∧
    s.copyReads (bufDa (field d 16 8)) (field d 32 8) = true ∧ s.unreadable (bufDa (field d 16 8)) (field d 32 8) = true :=
  ⟨{ ringed (base .ready) (copyD (leBytes 8 flashBase) hostBuf 4096) with tier := { State.reset.tier with unreadable := [flashBase / 4096] } }, 0, _,
   takes_of rfl (by decide), by decide⟩

/-- CHECKPOINT into a buffer of a length, pinned to a step or not. -/
def checkpointD (len : Nat) (buf : List Byte := hostBuf) (pin : Option Nat := none) : List Byte :=
  desc 0x0A [(16, buf), (24, leBytes 8 len)] (pin.getD 0) (if pin.isSome then 4 else 0)

/-- A loaded module that keeps nothing but the values kept by name in 24 bytes. -/
def slim : State := { solo .loaded with prog := some { program with place := { place with carried := { base := 0x4000, len := 24 } } } }

theorem witness_SavedContexts_checkpoint : ∀ d ∈ [checkpointD slim.contextLen hostBuf (some 0), checkpointD slim.contextLen (leBytes 8 poolBase),
      checkpointD (slim.contextLen - 1), checkpointD slim.contextLen hostBuf (some 1)], (ringed slim d).takes 0 0x0A d :=
  fun d h => takes_of rfl (by revert d; decide +kernel)

theorem witness_SavedContexts_pins : (descPin (checkpointD slim.contextLen hostBuf (some 0)) = true ∧
      descStepno (checkpointD slim.contextLen hostBuf (some 0)) = slim.st.stepNo) ∧
    (slim.bufferTakes (field (checkpointD slim.contextLen) 16 8) slim.contextLen = true ∧ slim.contextLen ≤ field (checkpointD slim.contextLen) 24 8) ∧
    slim.bufferTakes (field (checkpointD slim.contextLen (leBytes 8 poolBase)) 16 8) slim.contextLen = false ∧
    field (checkpointD (slim.contextLen - 1)) 24 8 < slim.contextLen ∧ descStepno (checkpointD slim.contextLen hostBuf (some 1)) ≠ slim.st.stepNo := by
  decide +kernel

/-- A saved context of rank 0 of one rank, with no image. -/
def context : List Byte := leBytes 2 1 ++ zeros 2 ++ leBytes 2 0 ++ leBytes 2 1 ++ leBytes 4 10 ++ zeros 644

/-- RESTORE_CONTEXT from a buffer. -/
def restoreD (buf : List Byte) : List Byte := desc 0x0B [(16, buf), (24, leBytes 8 656)]

theorem witness_SavedContexts_restore : ((ringed (solo .loaded) (restoreD hostBuf)).takes 0 0x0B (restoreD hostBuf) ∧
      (ringed (solo .loaded) (restoreD hostBuf)).readBuffer (field (restoreD hostBuf) 16 8) 656 context = .ok context ∧
      (ringed (solo .loaded) (restoreD hostBuf)).contextFault context = none) ∧
    ((ringed (duo .loaded) (restoreD hostBuf)).takes 0 0x0B (restoreD hostBuf) ∧ (ringed (duo .loaded) (restoreD hostBuf)).contextFault context = some .indexRange) ∧
    ((ringed (duo .loaded) (restoreD (leBytes 8 poolBase))).takes 0 0x0B (restoreD (leBytes 8 poolBase)) ∧
      (ringed (duo .loaded) (restoreD (leBytes 8 poolBase))).readBuffer (field (restoreD (leBytes 8 poolBase)) 16 8) 656 [] = .error .indexRange) :=
  ⟨⟨takes_of rfl (by decide), by decide +kernel, by decide +kernel⟩, ⟨takes_of rfl (by decide), by decide +kernel⟩, takes_of rfl (by decide), by decide⟩

/-- The first of two regions stands alone where it overlaps neither the other nor the values kept by name. -/
theorem stands_first {s : State} {l : List Region} {r x : Region} (e : l = [r, x]) (h : overlaps r s.tailRegion = false ∧ overlaps r x = false ∧
    ∀ q ∈ s.imageRegions (!s.st.wEpoch), q.base ≠ r.base → overlaps r q = false) : s.standsAlone l 0 r := by
  subst e
  refine ⟨h.1, fun j q hj hq => ?_, h.2.2⟩
  rcases j with _ | _ | j
  · exact absurd rfl hj
  · cases hq
    exact h.2.1
  · cases hq

/-- A loaded module whose image is one region of 16 bytes and the values kept by name. -/
def imaged : State :=
  { solo .loaded with prog := some { program with place := { place with
      carried := { base := 0x4000, len := 24 }
      mirrored := [{ base := 0x500000, len := 16 }] } } }

/-- A saved context of it. -/
def imageContext : List Byte := leBytes 2 1 ++ zeros 2 ++ leBytes 2 0 ++ leBytes 2 1 ++ leBytes 4 10 ++ zeros 44 ++ leBytes 8 40 ++
  leBytes 8 (checksum (zeros 528 ++ List.replicate 16 7 ++ zeros 24)) ++ zeros 584 ++ List.replicate 16 7 ++ zeros 24

theorem witness_SavedContexts_image : ∃ r : Region, (ringed imaged (desc 0x0B [(16, hostBuf), (24, leBytes 8 696)])).takes 0 0x0B (desc 0x0B [(16, hostBuf), (24, leBytes 8 696)]) ∧
    imaged.contextFault imageContext = none ∧ imaged.mir.waiting = [] ∧ totalBytes (imaged.imageRegions imaged.st.wEpoch) ≤ field imageContext 56 8 ∧
    (imaged.imageRegions imaged.st.wEpoch)[0]? = some r ∧ imaged.standsAlone (imaged.imageRegions imaged.st.wEpoch) 0 r :=
  ⟨{ base := 0x500000, len := 16 }, takes_of rfl (by decide), by decide +kernel, by decide, by decide +kernel, by decide +kernel,
   stands_first (x := { base := 0x4000, len := 24 }) (by decide +kernel) (by decide +kernel)⟩

/-- REPLAY in a mode to step `t`, from records of zeros in module DRAM. -/
def replayD (mode t : Nat) (captures : Nat := 0) (list : List Byte := zeros 8) : List Byte :=
  desc 0x0C [(16, leBytes 1 mode), (17, [1]), (18, leBytes 2 captures), (20, leBytes 4 t), (24, leBytes 8 dramFwEnd), (32, leBytes 8 65536), (40, list)]

/-- A loaded module whose seed is 0, as in those records. -/
def replaying : State := { solo .loaded with prog := some { program with seed := 0 } }

theorem witness_SavedContexts_replays : ∀ x ∈ [(0, 0), (2, 0), (1, 0), (0, 1), (2, 1), (1, 1)], ∃ d, d = replayD x.1 x.2 ∧ (ringed replaying d).takes 0 0x0C d ∧
    field d 16 1 = x.1 := fun x h => ⟨_, rfl, takes_of rfl (by revert x; decide), by revert x; decide⟩

theorem witness_SavedContexts_records : (replaying.replayCheck 0 (replayD 0 0)).toOption.elim false (fun rs => rs.length == 1) = true ∧
    (replaying.replayCheck 1 (replayD 1 0)).toOption.elim false (fun rs => rs.length == 1) = true ∧
    replaying.replayCheck 0 (replayD 0 1) = .error .indexRange ∧ replaying.replayCheck 2 (replayD 2 0) = .error .indexRange ∧
    replaying.replayCheck 1 (replayD 1 1) = .error .stateInvalid := by decide +kernel

/-- A record of one run of deltas: 4 bytes at the start of the first region. -/
def runs : List Byte := leBytes 4 0 ++ leBytes 4 4 ++ leBytes 8 0 ++ [1, 2, 3, 4]

/-- Its sections, filled up. -/
def sections : List Byte := zeros 528 ++ runs ++ zeros 12

/-- A module with that record in module DRAM. -/
def recorded : State :=
  { replaying with mem := (replaying.write dramFwEnd (zeros 88 ++ leBytes 8 20 ++ leBytes 8 (checksum runs) ++ leBytes 8 (checksum sections) ++ zeros 16 ++ sections)).mem }

theorem witness_SavedContexts_deltas : ∃ (r : RecView) (g : Region), recorded.replayCheck 0 (replayD 0 0) = .ok [r] ∧ r.boundary = 0 ∧
    recorded.read (r.start 5) r.deltas = runs ∧ runs.length = 16 + field runs 4 4 ∧ recorded.mir.waiting = [] ∧
    (recorded.imageRegions recorded.st.wEpoch)[field runs 0 4]? = some g ∧ recorded.standsAlone (recorded.imageRegions recorded.st.wEpoch) 0 g ∧
    field runs 8 8 + field runs 4 4 ≤ g.len :=
  ⟨recorded.recAt dramFwEnd, { base := 0x500000, len := 4096 }, by decide +kernel, by decide +kernel, by decide +kernel, by decide, by decide, by decide +kernel,
   stands_first (x := { base := 0x4000, len := 4096 }) (by decide +kernel) (by decide +kernel), by decide⟩

theorem witness_SavedContexts_captures : replaying.readBuffer (field (replayD 1 0) 40 8) 0 [] = .ok [] ∧ replaying.capturesOk (replayD 1 0) [] = true ∧
    replaying.readBuffer (field (replayD 1 0 1 (leBytes 8 poolBase)) 40 8) 2 [] = .error .indexRange ∧ replaying.capturesOk (replayD 1 0 1) [0] = false := by
  decide +kernel

/-- A module in READY with the map, at position 0. -/
def atHome : State := { base .ready with ms := { (base .ready).ms with map := some imap } }

/-- One whose JOIN is in progress. -/
def joinState : State :=
  { busied atHome (desc 0x01 []) with
    mach := { State.reset.mach with rank := some 0, ranks := [0, 1], joinRing := some 0 }
    bar := Barrier.resetAll.set 3 { own := some (0, 0, 5), kids := [], up := true } }

theorem witness_JoinAndLeave_join : ∃ (s : State) (n : Nat) (d : List Byte), s.takes n 0x01 d :=
  ⟨ringed atHome (desc 0x01 []), 0, desc 0x01 [], takes_of (by decide) (by decide)⟩

theorem witness_JoinAndLeave_timeout : ∃ (s : State) (n i : Nat) (d : List Byte), s.live = true ∧ s.ms.st = .ready ∧ s.mach.joinRing = some n ∧
    (s.ring n).busy = some (i, d) := ⟨joinState, 0, 0, desc 0x01 [], by decide⟩

theorem witness_JoinAndLeave_traffic : (∃ s : State, s.live = true ∧ s.ms.st = .ready ∧ s.ms.map.isSome = true ∧ s.mach.joinRing = none) ∧
    (∃ (s : State) (pos : Nat), s.member = true ∧ s.ms.map.isSome = true ∧ s.mach.formed = true ∧ (s.barrier 3).own = none ∧ s.ms.position ≠ pos) ∧
    ∃ (s : State) (pos : Nat), s.member = true ∧ s.ms.map.isSome = true ∧ pos ∉ s.mach.ranks :=
  ⟨⟨atHome, by decide⟩, ⟨duo .loaded, 4, by decide⟩, duo .loaded, 4, by decide⟩

theorem witness_JoinAndLeave_floor : ∃ (s : State) (m : Msg) (a b v : Nat), s.on = true ∧ s.ms.st = .ready ∧ m.typ = 6 ∧ m.opc = 3 ∧ m.resp = true ∧
    (s.barrier 3).own = some (a, b, v) ∧ (s.barrier 3).up = true ∧ field m.body 0 4 = a ∧ field m.body 4 1 = b ∧
    ∃ n i d, s.mach.joinRing = some n ∧ (s.ring n).busy = some (i, d) :=
  ⟨joinState, msg 6 3 0 (zeros 16) true, 0, 0, 5, by decide, by decide, rfl, rfl, rfl, by decide, by decide, by decide, by decide, 0, 0, desc 0x01 [], by decide⟩

theorem witness_JoinAndLeave_member : ∃ (s : State) (a b v : Nat), s.member = true ∧ (s.barrier 3).own = some (a, b, v) ∧ (s.barrier 3).up = true ∧
    s.mach.joinRing = none := ⟨{ duo .loaded with bar := Barrier.resetAll.set 3 { own := some (0, 0, 5), kids := [], up := true } }, 0, 0, 5, by decide⟩

/-- A member that waits at the FLOOR barrier while the hold of events is full. -/
theorem witness_JoinAndLeave_held : ∃ (s : State) (m : Msg), s.on = true ∧ s.member = true ∧ m.typ = 6 ∧ m.opc = 3 ∧ m.resp = true ∧
    (s.barrier 3).own = some (0, 0, 5) ∧ (s.barrier 3).up = true ∧ field m.body 0 4 = 0 ∧ field m.body 4 1 = 0 ∧ s.holdFull = true ∧
    floorWord (field m.body 8 8) ≠ s.mach.floor :=
  ⟨fullHold { duo .loaded with bar := Barrier.resetAll.set 3 { own := some (0, 0, 5), kids := [], up := true } },
   msg 6 3 0 (zeros 8 ++ leBytes 8 0x0030020900030009) true, by decide, by decide, rfl, rfl, rfl, by decide, by decide, by decide, by decide, fullHold_full _, by decide +kernel⟩

/-- What is found of a machine whose spare at position 4 has joined, holds the program and reaches every position. -/
def found (s : State) : Survey :=
  { spares := [{ pos := 4, halted := false, hash := s.prog.map (·.hash), order := s.fuse.order, levels := [0x30, 0x209, 3, 9], reaches := [0, 1, 4] }],
    substEn := true, sole := [], wasUp := [] }

/-- Rank 0 of two beside its joined spare. -/
def spared (m : MState) : State := { duo m with mach := { (duo m).mach with joinSeen := [4] } }

theorem witness_JoinAndLeave_quiesce : (∃ (s : State) (n : Nat) (d : List Byte), s.takes n 0x0F d ∧ s.mach.rank = none) ∧
    (∃ (s : State) (n r p : Nat) (d : List Byte) (v : Survey), s.takes n 0x0F d ∧ s.mach.rank = some r ∧ s.regs.recovery.ok = true ∧
      s.eligible v r = some p) ∧
    (∃ (s : State) (n r : Nat) (d : List Byte), s.takes n 0x0F d ∧ s.mach.rank = some r ∧ s.regs.recovery.ok = false) ∧
    ∃ (s : State) (n r : Nat) (d : List Byte) (v : Survey), s.takes n 0x0F d ∧ s.mach.rank = some r ∧ s.regs.recovery.ok = true ∧
      s.eligible v r = none :=
  ⟨⟨ringed (base .ready) (desc 0x0F []), 0, desc 0x0F [], takes_of (by decide) (by decide), by decide⟩,
   ⟨ringed (spared .loaded) (desc 0x0F []), 0, 0, 4, desc 0x0F [], found (spared .loaded), takes_of (by decide) (by decide), by decide⟩,
   ⟨ringed { solo .loaded with regs := { State.reset.regs with recovery := { val := 0, par := true } } } (desc 0x0F []), 0, 0, desc 0x0F [],
    takes_of (by decide) (by decide), by decide⟩,
   ringed (solo .loaded) (desc 0x0F []), 0, 0, desc 0x0F [], default, takes_of (by decide) (by decide), by decide⟩

/-- A program image with no section's content but one task (14 R345, R346, R356), its declarations and placement. -/
def image : List Byte :=
  leBytes 4 0x4F4E5856 ++ leBytes 2 1 ++ [3, 0] ++ leBytes 2 0x209 ++ [0x30, 9] ++ leBytes 2 1 ++ leBytes 2 6 ++ leBytes 8 192 ++ zeros 40 ++
  ([(1, 0xFFFF, 160, 0), (2, 0xFFFF, 160, 0), (3, 0xFFFF, 160, 0), (4, 0, 160, 16), (5, 0, 176, 16), (6, 0xFFFF, 192, 0)].flatMap
    fun (x : Nat × Nat × Nat × Nat) => leBytes 2 x.1 ++ leBytes 2 x.2.1 ++ zeros 4 ++ leBytes 4 x.2.2.1 ++ leBytes 4 x.2.2.2) ++
  zeros 8 ++ [5] ++ zeros 7 ++ zeros 16

/-- What that image declares. -/
def imageDecl : Decl :=
  { (default : Decl) with
    nodes := 4
    graphBytes := 4096
    specs := decl.specs
    rounds := 1
    ringDeclared := true
    ringLen := 16
    ringMax := 65536
    memHbm := 2 ^ 30
    memDram := 2 ^ 36
    memSram := 6 * 2 ^ 20
    memFlash := 2 ^ 30
    calibN := 128
    maxTargets := 4
    ledgerCap := 64
    mirrorImage := 8192 }

/-- Where it is placed. -/
def imagePlace : Placement :=
  { (default : Placement) with
    graph := { base := 0x1000, len := 4096 }
    carried := { base := 0x4000, len := 4096 }
    ledger := 0x10000
    attrs := 0x11000
    evalLedger := 0x12000
    evalAttrs := 0x13000
    mirrored := [{ base := 0x1000, len := 4096 }]
    ring := { base := flashBase, len := 16 * 65536 }
    ringDir := flashBase + 0x200000
    receive := List.replicate 9 { base := 0x600000, len := 0 } }

/-- A joined module with firmware. -/
def joinedState : State :=
  { solo .joined with
    ms := { (solo .joined).ms with fw := some { (default : FwInfo) with yl := 0x30, level := 0x209, contract := 3 } }
    mach := { (solo .joined).mach with floor := floorWord (0x30 * 2 ^ 48 + 0x209 * 2 ^ 32 + 3 * 2 ^ 16 + 9) }
    prog := none }

/-- LOAD_PROGRAM of the image in a buffer, with a digest. -/
def loadD (hash16 : List Byte) (buf : List Byte := hostBuf) : List Byte :=
  desc 0x02 [(16, buf), (24, leBytes 8 192), (32, leBytes 8 77), (40, leBytes 4 0xFFFFFFFE), (48, hash16)]

theorem witness_Loading_bad : (∃ (s : State) (n : Nat) (d : List Byte) (x : Status), s.takes n 0x02 d ∧ s.readBuffer (field d 16 8) (field d 24 8) [] = .error x) ∧
    ∃ (s : State) (n : Nat) (d b : List Byte) (x : Status), s.takes n 0x02 d ∧ s.readBuffer (field d 16 8) (field d 24 8) (zeros 192) = .ok b ∧
      s.loadCheck b (slice d 48 16) (some imageDecl) imagePlace [] = some x := by
  refine ⟨⟨ringed joinedState (loadD (zeros 16) (leBytes 8 poolBase)), 0, _, .indexRange, takes_of rfl (by decide), by decide⟩,
    ringed joinedState (loadD (zeros 16)), 0, loadD (zeros 16), zeros 192, .formatInvalid, takes_of rfl (by decide), by decide +kernel, ?_⟩
  have h : loadFormatOk (zeros 192) imageDecl = false := by decide +kernel
  simp [State.loadCheck, h]

/-- The image passes every check; what INIT may write is judged apart. -/
theorem image_passes (s : State) (d : List Byte) (hd : slice d 48 16 = (digestBytes (Config.sha3 image)).take 16) (h1 : loadFormatOk image imageDecl = true)
    (h2 : s.loadVersionOk image imageDecl = true) (h3 : s.loadFits image imageDecl imagePlace [] = true) (h4 : imageDecl.kernels.all kernelBound = true) :
    s.loadCheck image (slice d 48 16) (some imageDecl) imagePlace [] = none := by
  simp [State.loadCheck, hd, h1, h2, h3, h4]

/-- LOAD_PROGRAM of the image with its own digest. -/
def goodD : List Byte := loadD ((digestBytes (Config.sha3 image)).take 16)

theorem witness_Loading_good : (∃ (s : State) (n : Nat) (d b : List Byte), s.takes n 0x02 d ∧ s.readBuffer (field d 16 8) (field d 24 8) image = .ok b ∧
      s.loadCheck b (slice d 48 16) (some imageDecl) imagePlace [] = none ∧
      ([{ addr := 0x9000, data := .bytes [1] }] : InitWrites).all (s.initWrites imagePlace) = true ∧
      s.initCovers imageDecl imagePlace false [{ addr := 0x9000, data := .bytes [1] }] = true ∧ s.verdictPeers = [] ∧ s.holders s.rank = []) ∧
    ∃ inits : InitWrites, inits.all ((ringed joinedState goodD).initWrites imagePlace) = false :=
  ⟨⟨ringed joinedState goodD, 0, goodD, image, takes_of rfl ⟨by decide, by decide, by decide, by decide, by decide, by decide, by decide⟩, by decide +kernel,
    image_passes _ _ rfl (by decide +kernel) (by decide +kernel) (by decide +kernel) (by decide), by decide +kernel, by decide +kernel, by decide, by decide⟩,
   [{ addr := poolBase, data := .bytes [1] }], by decide +kernel⟩

/-- The same module as rank 0 of a sled of two. -/
def joinedTwo : State :=
  { joinedState with
    ms := { joinedState.ms with map := some imap }
    mach := { joinedState.mach with ranks := [0, 1] } }

theorem witness_Loading_waits : ∃ (s : State) (n : Nat) (d b : List Byte), s.takes n 0x02 d ∧ s.readBuffer (field d 16 8) (field d 24 8) image = .ok b ∧
    s.loadCheck b (slice d 48 16) (some imageDecl) imagePlace [] = none ∧ s.verdictPeers ≠ [] ∧ s.mach.verdicts = [] :=
  ⟨ringed joinedTwo goodD, 0, goodD, image, takes_of rfl ⟨by decide, by decide, by decide, by decide, by decide, by decide, by decide⟩, by decide +kernel,
   image_passes _ _ rfl (by decide +kernel) (by decide +kernel) (by decide +kernel) (by decide), by decide, by decide⟩

/-- A load that waits for the verdict of rank 1. -/
def loading : State :=
  { busied (duo .joined) (loadD (zeros 16)) with loadWait := some { ring := 0, prog := program, inits := [] } }

theorem witness_Loading_verdict : ∀ ok ∈ [0, 1], ∃ (s : State) (m : Msg) (w : LoadWait) (i : Nat) (e : List Byte), s.member = true ∧ m.typ = 1 ∧ m.opc = 3 ∧ m.vc = 0 ∧
    s.loadWait = some w ∧ s.verdictPeers = [m.src] ∧ (s.ring w.ring).busy = some (i, e) ∧ field m.body 40 8 = ok ∧
    digestOf (slice m.body 8 32) = w.prog.hash :=
  fun ok h => ⟨loading, msg 1 3 0 (zeros 40 ++ leBytes 8 ok), { ring := 0, prog := program, inits := [] }, 0, loadD (zeros 16), by revert ok; decide +kernel⟩

/-- FW_PUSH's descriptor for an image of a length. -/
def pushD (n : Nat) : List Byte := desc 0x10 [(16, hostBuf), (24, leBytes 8 n)]

/-- An image of the fixed length is read as it is. -/
theorem push_reads (s : State) (b : List Byte) (h : b.length = imageFixed) :
    s.readBuffer (field (pushD imageFixed) 16 8) (field (pushD imageFixed) 24 8) b = .ok b := by
  have h1 : bufSpace (field (pushD imageFixed) 16 8) = 1 := by decide
  have h2 : field (pushD imageFixed) 24 8 = b.length := by rw [h]; decide
  simp [State.readBuffer, h1, h2, fit]

/-- The hypotheses about an image that passes rest on the opaque digest and signature, so no image can be shown to pass: this takes any that does. -/
theorem witness_FirmwarePush_good (b : List Byte) (h : b.length = imageFixed) (h0 : field b 16 8 = 0)
    (hc : imageCause (base .recovery).fuse (slice b) = none) : ∃ (s : State) (n : Nat) (d host : List Byte), s.takes n 0x10 d ∧ field d 24 8 ≤ slotLen ∧
    s.readBuffer (field d 16 8) (field d 24 8) host = .ok b ∧ field d 24 8 = imageFixed + field b 16 8 ∧ imageCause s.fuse (slice b) = none :=
  ⟨ringed (base .recovery) (pushD imageFixed), 0, pushD imageFixed, b, takes_of rfl (by decide), by decide, push_reads _ _ h, by rw [h0]; decide, hc⟩

theorem witness_FirmwarePush_bad : ∃ (s : State) (n : Nat) (d host b : List Byte), s.takes n 0x10 d ∧ field d 24 8 ≤ slotLen ∧
    s.readBuffer (field d 16 8) (field d 24 8) host = .ok b ∧ field d 24 8 = imageFixed + field b 16 8 ∧ (imageCause s.fuse (slice b)).isSome = true :=
  ⟨ringed (base .ready) (pushD imageFixed), 0, pushD imageFixed, zeros imageFixed, zeros imageFixed, takes_of rfl (by decide), by decide,
   push_reads _ _ List.length_replicate, by decide +kernel, by decide +kernel⟩

theorem witness_FirmwarePush_length : (∃ (s : State) (n : Nat) (d : List Byte), s.takes n 0x10 d ∧ slotLen < field d 24 8) ∧
    ∃ (s : State) (n : Nat) (d b : List Byte), s.takes n 0x10 d ∧ s.readBuffer (field d 16 8) (field d 24 8) [] = .ok b ∧ field d 24 8 ≠ imageFixed + field b 16 8 :=
  ⟨⟨ringed (base .ready) (pushD (slotLen + 1)), 0, _, takes_of rfl (by decide), by decide⟩,
   ringed (base .ready) (pushD 4), 0, _, zeros 4, takes_of rfl (by decide), by decide, by decide⟩

theorem witness_FirmwarePush_sector : ∃ k : Nat, (k + 1) * sectorBytes ≤ slotLen := ⟨0, by decide⟩

/-! ### Port tests, and steps -/

/-- DIAG of a port: kind 1 a PRBS test, kind 2 a margin read. -/
def diagD (kind port : Nat) (buf : List Byte := hostBuf) : List Byte :=
  desc 0x0E [(16, [BitVec.ofNat 8 kind, BitVec.ofNat 8 port]), (20, leBytes 4 (if kind = 1 then 60000 else 0)), (24, buf), (32, leBytes 4 768)]

/-- A module of the order code without ports 12 to 17. -/
def fewPorts : State := { base .ready with fuse := { State.reset.fuse with order := .c80 }, net := .reset .c80 }

/-- Port 0 in a state. -/
def port0 (s : State) (x : Port) : State := s.setPort 0 x

theorem witness_PortTests_waits : (∃ (s : State) (n : Nat) (d : List Byte), s.takes n 0x0E d ∧ field d 16 1 = 1 ∧ s.testing = true) ∧
    ∃ (s : State) (n : Nat) (d : List Byte), s.takes n 0x0E d ∧ field d 16 1 = 1 ∧ (s.port (field d 17 1)).st = .training ∧ s.ms.st ≠ .ready :=
  ⟨⟨ringed (port0 (base .ready) { Port.reset true with st := .diag, diagRing := some 1 }) (diagD 1 17), 0, _, takes_of rfl (by decide), by decide⟩,
   ringed (port0 (solo .loaded) { Port.reset true with st := .training }) (diagD 1 0), 0, _, takes_of rfl (by decide), by decide⟩

theorem witness_PortTests_starts : (∃ (s : State) (n : Nat) (d : List Byte), s.takes n 0x0E d ∧ field d 16 1 = 1 ∧ s.testing = false ∧
      (s.port (field d 17 1)).st = .down) ∧
    (∃ (s : State) (n : Nat) (d : List Byte), s.takes n 0x0E d ∧ field d 16 1 = 1 ∧ s.testing = false ∧ (s.port (field d 17 1)).st = .up ∧ s.ms.st = .ready) ∧
    ∃ (s : State) (n : Nat) (d : List Byte), s.takes n 0x0E d ∧ field d 16 1 = 1 ∧ s.testing = false ∧ (s.port (field d 17 1)).st = .absent :=
  ⟨⟨ringed (base .ready) (diagD 1 17), 0, _, takes_of rfl (by decide), by decide⟩,
   ⟨ringed (port0 (base .ready) { Port.reset true with st := .up }) (diagD 1 0), 0, _, takes_of rfl (by decide), by decide⟩,
   ringed fewPorts (diagD 1 17), 0, _, takes_of rfl (by decide), by decide⟩

/-- A member of a machine of one rank, and of two whose only route is by port 0, with port 0 UP. -/
def up1 : State := port0 (solo .loaded) { Port.reset true with st := .up }
def up2 : State := port0 { duo .loaded with ms := { (duo .loaded).ms with map := some { imap with routes := [(1, 0x83E0)] } } } { Port.reset true with st := .up }

theorem witness_PortTests_drains : (∃ (s : State) (n : Nat) (d : List Byte), s.takes n 0x0E d ∧ field d 16 1 = 1 ∧ s.testing = false ∧
      (s.port (field d 17 1)).st = .up ∧ s.ms.st ≠ .ready ∧ s.canDrain (field d 17 1) = true ∧ (s.port (field d 17 1)).txq = []) ∧
    ∃ (s : State) (n : Nat) (d : List Byte), s.takes n 0x0E d ∧ field d 16 1 = 1 ∧ s.testing = false ∧ (s.port (field d 17 1)).st = .up ∧ s.ms.st ≠ .ready ∧
      s.canDrain (field d 17 1) = false :=
  ⟨⟨ringed up1 (diagD 1 0), 0, _, takes_of rfl (by decide), by decide⟩, ringed up2 (diagD 1 0), 0, _, takes_of rfl (by decide), by decide⟩

theorem witness_PortTests_margin : (∃ (s : State) (n : Nat) (d : List Byte), s.takes n 0x0E d ∧ field d 16 1 = 2 ∧ (s.port (field d 17 1)).st ≠ .absent ∧
      s.bufferTakes (field d 24 8) 768 = true) ∧
    (∃ (s : State) (n : Nat) (d : List Byte), s.takes n 0x0E d ∧ field d 16 1 = 2 ∧ s.bufferTakes (field d 24 8) 768 = false) ∧
    ∃ (s : State) (n : Nat) (d : List Byte), s.takes n 0x0E d ∧ field d 16 1 = 2 ∧ (s.port (field d 17 1)).st = .absent :=
  ⟨⟨ringed (base .ready) (diagD 2 0), 0, _, takes_of rfl (by decide), by decide⟩,
   ⟨ringed (base .ready) (diagD 2 0 (leBytes 8 poolBase)), 0, _, takes_of rfl (by decide), by decide⟩,
   ringed fewPorts (diagD 2 17), 0, _, takes_of rfl (by decide), by decide⟩

theorem witness_PortTests_end : ∀ buf ∈ [(hostBuf, true), (leBytes 8 poolBase, false)], ∃ (s : State) (n p i : Nat) (e : List Byte), s.live = true ∧ (s.port p).st = .diag ∧
    (s.port p).diagRing = some n ∧ (s.ring n).busy = some (i, e) ∧ s.bufferTakes (field e 24 8) 768 = buf.2 :=
  fun buf h => ⟨port0 (busied (base .ready) (diagD 1 0 buf.1)) { Port.reset true with st := .diag, diagRing := some 0 }, 0, 0, 0, diagD 1 0 buf.1,
    by revert buf; decide⟩

/-- A target record of node 3, at time 0. -/
def target : List Byte := leBytes 5 3 ++ zeros 11

/-- A module that stands behind a step number. -/
def almost (n : Nat) : State := { solo .loaded with st := { StepState.reset with stepNo := n } }

theorem witness_StepBegins_step : (∃ (s : State) (n : Nat) (d b : List Byte), s.takes n 0x04 d ∧ s.readBuffer (field d 16 8) (16 * field d 24 4) target = .ok b ∧
      s.st.run = none ∧ s.st.waiting = [] ∧ s.st.stepNo ≠ 0xFFFFFFFF ∧ descPin d = true ∧ descStepno d = s.st.stepNo) ∧
    ∃ (s : State) (n : Nat) (d : List Byte) (x : Status), s.takes n 0x04 d ∧ s.readBuffer (field d 16 8) (16 * field d 24 4) [] = .error x ∧
      s.st.run = none ∧ s.st.waiting = [] ∧ s.st.stepNo ≠ 0xFFFFFFFF ∧ descPin d = false :=
  ⟨⟨ringed (almost 0xFFFFFFFE) (desc 0x04 [(16, hostBuf), (24, leBytes 4 1)] 0xFFFFFFFE 4), 0, _, target, takes_of rfl (by decide), by decide⟩,
   ringed (solo .loaded) (desc 0x04 [(16, leBytes 8 poolBase), (24, leBytes 4 1)]), 0, _, .indexRange, takes_of rfl (by decide), by decide⟩

theorem witness_StepBegins_refused : (∃ (s : State) (n : Nat) (d : List Byte), s.takes n 0x04 d ∧ s.st.run = none ∧ s.st.waiting = [] ∧ s.st.stepNo = 0xFFFFFFFF) ∧
    (∃ (s : State) (n : Nat) (d : List Byte), s.takes n 0x04 d ∧ s.st.run = none ∧ s.st.waiting = [] ∧ descPin d = true ∧ descStepno d ≠ s.st.stepNo) ∧
    ∃ (s : State) (n : Nat) (d : List Byte), s.takes n 0x04 d ∧ s.st.run.isSome = true :=
  ⟨⟨ringed (almost 0xFFFFFFFF) stepD, 0, _, takes_of rfl (by decide), by decide⟩,
   ⟨ringed (solo .loaded) (desc 0x04 [(16, hostBuf), (24, leBytes 4 1)] 1 4), 0, _, takes_of rfl (by decide), by decide⟩,
   ringed (stepping (solo .running) .forward) stepD, 0, _, takes_of rfl (by decide), by decide⟩

/-- A barrier of a kind at which this module waits, with its arrival passed up. -/
def atBarrier (s : State) (kind : Nat) : State := { s with bar := Barrier.resetAll.set kind { own := some (0, 0, 1), kids := [], up := true } }

/-- A release of a barrier with a value. -/
def release (kind value : Nat) : Msg := { msg 6 kind 0 (zeros 8 ++ leBytes 8 value) true with src := 0 }

theorem released (s : State) (kind value : Nat) (h : (atBarrier s kind).member = true) (k : kind < 6) :
    (atBarrier s kind).releasedBy kind (release kind value) := by
  have hb : (atBarrier s kind).barrier kind = { own := some (0, 0, 1), kids := [], up := true } := by
    simp [atBarrier, State.barrier, Barrier.resetAll, k]
  refine ⟨h, rfl, rfl, rfl, ?_, 1, ?_⟩
  · rw [hb]
  · rw [hb]; rfl

/-- A step in progress. -/
def running (s : State) (r : StepRun) : State := { s with st := { s.st with run := some r } }

theorem witness_StepBegins_release : ∀ r ∈ [{ inStep .waitStart with targets := targetsOf target }, { inStep .waitStart with targets := [{ node := 4, t := 0, lti := 0 }] },
      { inStep .waitStart with source := some .indexRange }, { inStep .waitStart with source := some .memoryUncorrectable },
      { inStep .waitStart with exec := true, record := some 0 }],
    ∃ (s : State) (m : Msg), s.releasedBy 0 m ∧ s.st.run = some r ∧ r.phase = .waitStart :=
  fun r h => ⟨atBarrier (running (solo .running) r) 0, release 0 1, released _ _ _ rfl (by decide), rfl, by revert r; decide⟩

theorem witness_StepBegins_lists : (solo .running).targetFault 0 (targetsOf target) = none ∧
    (solo .running).targetFault 0 [{ node := 4, t := 0, lti := 0 }] = some .indexRange := by decide

/-- The program with a layer-slice group of ranks 0 and 1, and a layer in each of Forward and Backward. -/
def sliced (s : State) : State :=
  { s with prog := some { program with decl := { decl with groups := [{ kind := 2, vc := 2, members := [0, 1], forward := [8], backward := [8] }] } } }

/-- A step at the end of Gather. -/
def fetched : State := { running (solo .running) (inStep .gather) with ex := { Exchange.reset with roundsSent := [0] } }

/-- Each clause's state: a step whose hops are drawn, one whose hops are not, one whose rows are in, and so on. -/
theorem witness_PhasesFollow : ∀ s ∈ [running (solo .running) { inStep .sample with hop := 1 }, running (solo .running) (inStep .sample),
      fetched, running (solo .running) (inStep .gather), running (solo .running) (inStep .forward), sliced (running (duo .running) (inStep .forward)),
      running (solo .running) (inStep .backward), sliced (running (duo .running) (inStep .backward)), running (solo .running) (inStep .commit)],
    s.member = true ∧ s.prog.isSome = true ∧ s.classIdle false = true ∧ s.st.run.elim false (fun r => r.fault == none) = true := by decide

theorem witness_PhasesFollow_waits : (running (solo .running) { inStep .sample with hop := 1 }).sampled = true ∧
    (running (solo .running) (inStep .sample)).sampled = false ∧ (sliced (running (duo .running) (inStep .forward))).layerWaits = true ∧
    (sliced (running (duo .running) (inStep .backward))).layerWaits = true ∧ (running (solo .running) (inStep .backward)).layerWaits = false ∧
    fetched.gathered = true := by decide

/-- A program with one BS8 slice of one element, whose gradient is an infinity. -/
def unencodable : State :=
  { running (solo .running) (inStep .backward) with
    prog := some { program with
      decl := { decl with grads := [{ tensor := 1, bs8 := true, elems := 1, moments := 0 }] }
      place := { place with slices := [{ (default : SlicePlace) with tensor := 1, count := 1 }], grads := [(1, 0x8000)] } }
    mem := (State.write State.reset 0x8000 (leBytes 4 0x7F800000)).mem }

/-- Everything that rank 0 alone owns reduced. -/
def reduced (s : State) : State := { s with conf := { s.conf with reduced := [(kRows, 0)] } }

theorem witness_PhasesFollow_reduces : unencodable.member = true ∧ unencodable.classIdle false = true ∧ unencodable.layerWaits = false ∧
    unencodable.reduceBegun.contributions = none ∧
    (running (solo .running) (inStep .backward)).reduceBegun.contributions.isSome = true ∧ (running (solo .running) (inStep .backward)).allReduced = false ∧
    (reduced (running (solo .running) (inStep .backward))).reduceBegun.contributions.isSome = true ∧
    (reduced (running (solo .running) (inStep .backward))).allReduced = true ∧
    (reduced (running (solo .running) (inStep .backward))).reduceBegun.classIdle false = true ∧
    (reduced (running (solo .running) (inStep .reduce))).classIdle false = true ∧ (reduced (running (solo .running) (inStep .reduce))).allReduced = true ∧
    (running (solo .running) (inStep .reduce)).allReduced = false := by decide +kernel

theorem witness_PhasesFollow_commit : ((running (solo .running) (inStep .commit)).holders 0 = [] ∧ (running (solo .running) (inStep .commit)).st.retPending = [] ∧
      (running (solo .running) (inStep .commit)).st.evals = [] ∧ (running (solo .running) (inStep .commit)).st.hashes = []) ∧
    (running (duo .running) (inStep .commit)).holders 0 ≠ [] ∧ (running (duo .running) (inStep .commit)).classIdle false = true := by decide

theorem witness_PhasesFollow_fault : ∃ (s : State) (r : StepRun), s.member = true ∧ s.prog.isSome = true ∧ s.st.run = some r ∧
    s.classIdle false = true ∧ r.fault.isSome = true ∧ r.phase ≠ .mirror :=
  ⟨running (solo .running) { inStep .sample with fault := some .indexRange }, { inStep .sample with fault := some .indexRange }, by decide⟩

/-- An EVAL in progress on ring 0 that has reached a hop. -/
def evalRun (drawing : Bool) (hop : Nat) : EvalRun where
  ring := 0
  tag := 7
  evidence := false
  pinned := 0
  spec := 0
  targets := [{ node := 3, t := 0, lti := 0 }]
  epoch := 0
  begun := true
  drawing := drawing
  hop := hop
  asked := []
  attribution := false
  fault := none
  rescaled := false
  offsets := []
  batches := 0

/-- A state with that EVAL. -/
def evaluating (s : State) (e : EvalRun) : State := { s with st := { s.st with evals := [e] } }

theorem witness_PhasesFollow_eval : (∀ x ∈ [(true, 1), (true, 0), (false, 1)], ∃ (s : State) (e : EvalRun) (rest : List EvalRun) (p : Program), s.member = true ∧ s.prog = some p ∧
      s.st.evals = e :: rest ∧ s.st.run = none ∧ e.drawing = x.1 ∧ e.hop = x.2 ∧ s.evalSampled = (x.1 && x.2 == 1)) ∧
    (∃ (s : State) (e : EvalRun), s.member = true ∧ s.prog = some program ∧ s.st.evals = [e] ∧ s.st.run = none ∧ e.drawing = false ∧ e.hop ≠ 0 ∧
      s.classIdle true = true ∧ (∀ l ∈ s.ex.lookups, l.eval = false) ∧ e.evidence = true ∧ e.attribution = false) ∧
    ∃ (s : State) (e : EvalRun) (i : Nat) (d : List Byte), s.member = true ∧ s.prog = some program ∧ s.st.evals = [e] ∧ s.st.run = none ∧ e.drawing = false ∧
      e.hop ≠ 0 ∧ s.classIdle true = true ∧ (∀ l ∈ s.ex.lookups, l.eval = false) ∧ e.evidence = false ∧ (s.ring e.ring).busy = some (i, d) ∧ s.bufferTakes (field d 32 8) (16 * e.targets.length) = true :=
  ⟨fun x h => ⟨evaluating (solo .running) (evalRun x.1 x.2), evalRun x.1 x.2, [], program, rfl, rfl, rfl, rfl, rfl, rfl, by revert x; decide⟩,
   ⟨evaluating (solo .running) { evalRun false 1 with evidence := true }, { evalRun false 1 with evidence := true }, by decide⟩,
   evaluating (busied (solo .running) evalD) (evalRun false 1), evalRun false 1, 0, evalD, by decide⟩

theorem witness_StepEnds_finite : ∀ v ∈ [0, 1], ∃ (s : State) (m : Msg) (r : StepRun), s.releasedBy 1 m ∧ s.st.run = some r ∧ r.phase = .finite ∧
    field m.body 8 8 % 2 = v ∧ (s.ring r.ring).busy.isSome = true :=
  fun v h => ⟨atBarrier (busied (stepping (solo .running) .finite) stepD) 1, release 1 v, inStep .finite, released _ _ _ rfl (by decide), rfl, rfl,
    by revert v; decide, by decide⟩

theorem witness_StepEnds_commit : ∃ (s : State) (m : Msg) (r : StepRun), s.releasedBy 2 m ∧ s.st.run = some r ∧ r.phase = .prepared ∧
    (s.ring r.ring).busy.isSome = true :=
  ⟨atBarrier (busied (stepping (solo .running) .prepared) stepD) 2, release 2 1, inStep .prepared, released _ _ _ (by decide) (by decide), by decide⟩

/-- Two runs of deltas held pending for rank 1. -/
def pendingState : State :=
  { stepping (duo .running) .prepared with
    mir := { State.reset.mir with
      held := [{ owner := 1, part := 0, complete := true, sum := 0, pend := [(0, [1, 2]), (2, [3])], last := none, acked := true, copy := [], copyLast := none }] } }

theorem witness_StepEnds_pending : ∃ (l rest : List (Nat × List Byte)) (q : Nat × List Byte), (atBarrier pendingState 2).releasedBy 2 (release 2 1) ∧
    pendingState.st.waiting = [] ∧ pendingState.pendingRuns = l ++ q :: rest ∧
    ∀ y ∈ rest, overlaps { base := q.1, len := q.2.length } { base := y.1, len := y.2.length } = false :=
  ⟨[], [(0x400002, [3])], (0x400000, [1, 2]), released _ _ _ (by decide) (by decide), by decide, by decide, by decide⟩

theorem witness_ProgramAndWindow_kept : ∀ kind < 6, ∃ (s : State) (m : Msg), s.on = true ∧ s.member = true ∧ m.typ = 6 ∧ m.opc = kind ∧ m.resp = false ∧
    (kind = 4 → s.mach.rank ≠ some m.src) ∧ (kind = 5 → bits (field m.body 8 8) 1 4 = 0) :=
  fun kind _ => ⟨duo .running, msg 6 kind 0 (zeros 16), rfl, rfl, rfl, rfl, rfl, fun _ (h : (some 0 : Option Nat) = some 1) => absurd h (by decide), fun _ => show bits (field (zeros 16) 8 8) 1 4 = 0 by decide⟩

theorem witness_ProgramAndWindow_arrives : ∀ p ∈ [Phase.forward, .backward, .reduce], ∃ (s : State) (m : Msg) (r : StepRun), s.member = true ∧ m.typ = 6 ∧ m.opc = 4 ∧
    m.resp = false ∧ s.mach.rank = some m.src ∧ s.st.run = some r ∧ r.phase = p :=
  fun p _ => ⟨stepping (solo .running) p, { msg 6 4 0 (zeros 16) with src := 0 }, inStep p, rfl, rfl, rfl, rfl, rfl, rfl, rfl⟩

theorem witness_ProgramAndWindow_released : ∃ (s : State) (m : Msg), s.member = true ∧ m.typ = 6 ∧ m.opc = 4 ∧ s.releasedBy 4 m ∧ s.wd = some .programBarrier :=
  ⟨atBarrier { stepping (solo .running) .forward with wd := some .programBarrier } 4, release 4 1, rfl, rfl, rfl, released _ _ _ (by decide) (by decide), by decide⟩

theorem witness_ProgramAndWindow_asked : ∀ step ∈ [0xFFFFFFFF, 0, 5], ∃ (s : State) (m : Msg), s.member = true ∧ m.typ = 6 ∧ m.opc = 5 ∧ m.resp = false ∧
    bits (field m.body 8 8) 1 1 = 1 ∧ field m.body 0 4 = step ∧ (step = s.lastStep ↔ step = 0xFFFFFFFF) ∧ (step = s.st.stepNo ↔ step = 0) :=
  fun step h => ⟨solo .loaded, msg 6 5 0 (leBytes 4 step ++ zeros 4 ++ leBytes 8 2), by revert step; decide⟩

theorem witness_ProgramAndWindow_hash : ∃ (s : State) (m : Msg) (d : W256), s.member = true ∧ m.typ = 6 ∧ m.opc = 5 ∧ m.resp = false ∧
    bits (field m.body 8 8) 1 2 = 2 ∧ field m.body 0 4 = s.lastStep ∧ (s.hashRun (field m.body 0 4)).asked = false ∧
    (∀ x ∈ s.st.modelHash, x.1 ≠ field m.body 0 4) ∧ s.rankDigest (s.hashRun (field m.body 0 4)) = some d ∧ s.others ≠ [] := by
  have h : ((duo .loaded).rankDigest ((duo .loaded).hashRun 0xFFFFFFFF)).isSome = true := by decide +kernel
  obtain ⟨d, hd⟩ := Option.isSome_iff_exists.mp h
  exact ⟨duo .loaded, msg 6 5 0 (leBytes 4 0xFFFFFFFF ++ zeros 4 ++ leBytes 8 4), d, by decide, rfl, rfl, rfl, by decide, by decide, by decide, by decide, hd, by decide⟩

theorem witness_ProgramAndWindow_closed : ∃ (s : State) (m : Msg) (e : EvalRun), s.releasedBy 5 m ∧ e ∈ s.st.evals ∧ e.waits = true ∧
    e.pinned = field m.body 0 4 :=
  ⟨atBarrier (evaluating (solo .loaded) { evalRun false 0 with evidence := true }) 5, release 5 1, { evalRun false 0 with evidence := true },
   released _ _ _ (by decide) (by decide), List.mem_singleton.mpr rfl, by decide, by decide⟩

/-- EVAL whose result buffer has a length. -/
def evalTo (len : Nat) (src : List Byte := hostBuf) : List Byte := desc 0x05 [(16, src), (24, leBytes 4 1), (32, hostBuf), (40, leBytes 4 len)]

theorem witness_EvalsTaken_eval : ∀ x ∈ [(evalTo 16, target, (none : Option Status)), (evalTo 15, target, none), (evalTo 16, leBytes 16 4, some .indexRange)],
    ∃ (s : State) (n : Nat) (d b : List Byte), s.evalMayBegin = true ∧ s.takes n 0x05 d ∧ s.calibrated = true ∧
      s.readBuffer (field d 16 8) (16 * field d 24 4) x.2.1 = .ok b ∧ d = x.1 ∧
      s.targetFault (bits (field d 28 1) 0 4) (targetsOf b) = x.2.2 ∧ s.decl.elim 0 (·.scoreBytes) = 16 :=
  fun x h => ⟨ringed (solo .loaded) x.1, 0, x.1, x.2.1, rfl, takes_of rfl (by revert x; decide), rfl, by revert x; decide⟩

theorem witness_EvalsTaken_unread : ∃ (s : State) (n : Nat) (d : List Byte) (x : Status), s.evalMayBegin = true ∧ s.takes n 0x05 d ∧
    s.calibrated = true ∧ s.readBuffer (field d 16 8) (16 * field d 24 4) [] = .error x :=
  ⟨ringed (solo .loaded) (evalTo 16 (leBytes 8 poolBase)), 0, _, .indexRange, rfl, takes_of rfl (by decide), by decide⟩

/-- A program with an evaluation tensor that no step has calibrated. -/
def uncalibrated : State :=
  { solo .loaded with prog := some { program with
    decl := { decl with kernels := [{ (default : KernelDecl) with afmt := 6, bfmt := 6, forms := some 1 }] }
    tensors := [{ (default : TensorRec) with id := 1, fmt := 6, kind := 3 }] } }

/-- EVIDENCE_EXPORT of a node into a buffer of a length in host memory. -/
def exportD (node len : Nat) : List Byte := desc 0x0D [(16, leBytes 5 node ++ zeros 11), (40, hostBuf), (48, leBytes 4 len)]

theorem witness_EvalsTaken_uncalibrated : (ringed uncalibrated (evalTo 16)).takes 0 0x05 (evalTo 16) ∧ (ringed uncalibrated (exportD 3 9999)).takes 0 0x0D (exportD 3 9999) ∧
    uncalibrated.calibrated = false ∧ uncalibrated.evalMayBegin = true :=
  ⟨takes_of rfl (by decide), takes_of rfl (by decide), by decide⟩

theorem witness_EvalsTaken_evidence : ∀ x ∈ [(exportD 3 1000000, (none : Option Status), false), (exportD 3 0, none, true), (exportD 4 1000000, some .indexRange, false)],
    ∃ (s : State) (n : Nat) (d : List Byte) (sp : SampSpec) (dc : Decl), s.evalMayBegin = true ∧ s.takes n 0x0D d ∧ s.calibrated = true ∧ d = x.1 ∧
      s.targetFault (bits (field d 32 1) 0 4) (targetsOf (slice d 16 16)) = x.2.1 ∧ s.spec (bits (field d 32 1) 0 4) = some sp ∧ s.decl = some dc ∧
      decide (field d 48 4 < evidenceBody dc s.inTables (slotCount (fanouts sp)) + 2420) = x.2.2 :=
  fun x h => ⟨ringed (solo .loaded) x.1, 0, x.1, nth default decl.specs 0, decl, rfl, takes_of rfl (by revert x; decide), rfl, by revert x; decide⟩

/-! ### The boundary, the graph and sampling -/

/-- INGEST of one record, MIGRATE of one row, and TABLE_REPLACE of the rows of table 0, from a buffer, pinned to a step or not. -/
def actD (op : Nat) (buf : List Byte) (pin : Option Nat) : List Byte :=
  desc op (if op = 0x07 then [(16, [0]), (32, leBytes 4 4), (40, buf)] else [(16, buf), (24, leBytes 4 1)]) (pin.getD 0) (if pin.isSome then 4 else 0)

/-- An INSERT of an edge from node 0 to itself, and a record without an OP. -/
def insertRec : List Byte := zeros 5 ++ [1] ++ zeros 26

/-- A module whose window is open, and one behind step 4 that stands idle at its boundary, with the shadow slots of table 0 free. -/
def windowed : State := { solo .loaded with st := { StepState.reset with windowOpen := true } }
def standing : State := { solo .loaded with st := { StepState.reset with stepNo := 5, shadow := [(0, [8, 9, 10, 11])] } }

theorem witness_ActionsWait_unread : ∀ op ∈ [0x06, 0x08], ∃ (s : State) (n : Nat) (d : List Byte) (x : Status), s.takes n op d ∧
    s.readBuffer (field d 16 8) (32 * field d 24 4) [] = .error x ∧ s.readBuffer (field d 16 8) (8 * field d 24 4) [] = .error x :=
  fun op h => ⟨ringed windowed (actD op (leBytes 8 poolBase) none), 0, _, .indexRange, takes_of rfl (by revert op; decide), by revert op; decide⟩

theorem witness_ActionsWait_past : ∀ op ∈ [0x06, 0x08, 0x07], ∃ (s : State) (n : Nat) (d b : List Byte), s.takes n op d ∧ descPin d = true ∧ descStepno d < s.nextBoundary ∧
    (op ≠ 0x07 → s.readBuffer (field d 16 8) (32 * field d 24 4) (zeros 32) = .ok b) :=
  fun op h => ⟨ringed standing (actD op (if op = 0x07 then leBytes 8 0x800000 else hostBuf) (some 4)), 0, _, zeros 32, takes_of rfl (by revert op; decide), by revert op; decide⟩

theorem witness_ActionsWait_waits : ∀ op ∈ [0x06, 0x08, 0x07], ∃ (s : State) (n : Nat) (d : List Byte), s.takes n op d ∧ s.idleBoundary = false ∧
    (descPin d = true → s.nextBoundary ≤ descStepno d) :=
  fun op h => ⟨ringed windowed (actD op (if op = 0x07 then leBytes 8 0x800000 else hostBuf) (some 0)), 0, _, takes_of rfl (by revert op; decide), by revert op; decide⟩

theorem witness_ActionsWait_idle : ∀ op ∈ [0x06, 0x08, 0x07], ∃ (s : State) (n : Nat) (d : List Byte), s.takes n op d ∧ s.idleBoundary = true ∧ s.st.acts = [] ∧
    (∀ a ∈ s.st.applied, a.waitAck = false) ∧ descPin d = false ∧ s.evalDraws = false :=
  fun op h => ⟨ringed standing (actD op (if op = 0x07 then leBytes 8 0x800000 else hostBuf) none), 0, _, takes_of rfl (by revert op; decide), by revert op; decide⟩

theorem witness_ActionsWait_checks : (standing.applyIngest insertRec).toOption.isSome = true ∧ (standing.applyIngest (zeros 32)).toOption.isSome = false ∧
    (standing.migrateCheck (migRecs (leBytes 5 4 ++ zeros 3))).isSome = true ∧ standing.migrateCheck (migRecs (leBytes 5 3 ++ zeros 3)) = none := by decide +kernel

theorem witness_ActionsWait_replace : ∀ x ∈ [(actD 0x07 (leBytes 8 0x800000) none, true, false), (actD 0x07 hostBuf none, false, false)],
    ∃ (s : State) (n tab : Nat) (d : List Byte) (td : TableDecl) (rows : List Nat), s.takes n 0x07 d ∧ d = x.1 ∧ tab = field d 16 1 ∧ s.table tab = some td ∧ td.sharded = true ∧
      rows = s.replaceRows tab (field d 24 5) (field d 32 4) ∧
      (decide (field d 24 5 + field d 32 4 ≤ td.rows) && bufSpace (field d 40 8) == 0 &&
        (s.placeOfRange (bufDa (field d 40 8)) (rows.length * tabRowBytes td) == .hbm || s.placeOfRange (bufDa (field d 40 8)) (rows.length * tabRowBytes td) == .dram)) = x.2.1 ∧
      decide (td.shadow < rows.length) = x.2.2 ∧ rows.length ≤ (s.st.shadow.get [] tab).length ∧ ∀ r ∈ rows, rowKey tab r ∉ s.st.arrived :=
  fun x h => ⟨ringed standing x.1, 0, 0, x.1, nth default decl.tables 0, [0, 1, 2, 3], takes_of rfl (by revert x; decide), by revert x; decide⟩

/-- TABLE_REPLACE with fewer shadow slots declared than rows, and of a table that the program lacks. -/
theorem witness_ActionsWait_short : (∃ (s : State) (n : Nat) (d : List Byte), s.takes n 0x07 d ∧ s.table (field d 16 1) = none) ∧
    ∃ (s : State) (n : Nat) (d : List Byte) (td : TableDecl), s.takes n 0x07 d ∧ s.table (field d 16 1) = some td ∧ td.sharded = true ∧
      td.shadow < (s.replaceRows (field d 16 1) (field d 24 5) (field d 32 4)).length :=
  ⟨⟨ringed { standing with prog := some { program with decl := { decl with tables := [] } } } (actD 0x07 (leBytes 8 0x800000) none), 0, _, takes_of rfl (by decide), by decide⟩,
   ringed { standing with prog := some { program with decl := { decl with tables := [{ nth default decl.tables 0 with shadow := 3 }] } } }
     (actD 0x07 (leBytes 8 0x800000) none), 0, _, { nth default decl.tables 0 with shadow := 3 }, takes_of rfl (by decide), by decide⟩

/-- A program whose table 0 may migrate, with room for `n` rows. -/
def migrating (n : Nat) (s : State) : State :=
  { s with prog := some { program with decl := { decl with tables := [{ nth default decl.tables 0 with migMax := 4, migArea := n }] } } }

/-- A migration record: a row of table 0 goes to a rank. -/
def migRec (row dst : Nat) : List Byte := leBytes 5 row ++ leBytes 2 dst ++ [0]

theorem witness_ActionsWait_moves : ∃ (s : State) (n : Nat) (d b : List Byte), s.takes n 0x08 d ∧ s.readBuffer (field d 16 8) (8 * field d 24 4) (migRec 1 1) = .ok b ∧
    s.idleBoundary = true ∧ s.st.acts = [] ∧ s.st.applied = [] ∧ s.st.reserving = none ∧ descPin d = false ∧ s.migrateCheck (migRecs b) = none ∧ s.moving b ≠ [] :=
  ⟨ringed (migrating 4 { duo .loaded with st := standing.st }) (actD 0x08 hostBuf none), 0, _, migRec 1 1, takes_of rfl (by decide), by decide +kernel⟩

theorem witness_ActionsWait_stays : standing.moving (leBytes 5 3 ++ zeros 3) = [] ∧ standing.st.reserving = none := by decide

/-- An action of INGEST on ring 0. -/
def ingestAct (b : List Byte) (ack : Bool) : Act := { Act.blank 0 1 (desc 0x06 []) with payload := b, waitAck := ack }

theorem witness_WindowEnds_window : (∃ s : State, s.prog.isSome = true ∧ s.member = true ∧ s.atBoundary = true ∧ ∃ a ∈ s.st.applied, a.waitAck = true) ∧
    (∃ s : State, s.prog.isSome = true ∧ s.member = true ∧ s.atBoundary = true ∧ s.st.applied = [] ∧ s.st.acts = [] ∧ s.st.windowOpen = true ∧ s.evalDraws = false) ∧
    (∃ s : State, s.prog.isSome = true ∧ s.member = true ∧ s.atBoundary = true ∧ s.st.applied = [] ∧ s.st.acts = [] ∧ s.st.windowOpen = true ∧ s.evalDraws = true) ∧
    ∃ s : State, s.prog.isSome = true ∧ s.member = true ∧ s.atBoundary = true ∧ s.st.applied = [] ∧ s.st.acts = [] ∧ s.st.windowOpen = false :=
  ⟨⟨{ windowed with st := { windowed.st with applied := [ingestAct [] true] } }, by decide, by decide, by decide, _, List.mem_singleton.mpr rfl, by decide⟩,
   ⟨windowed, by decide⟩, ⟨evaluating windowed (evalRun true 1), by decide⟩, standing, by decide⟩

theorem witness_WindowEnds_ingest : ∀ b ∈ [insertRec, zeros 32], ∃ (s : State) (a : Act), s.prog.isSome = true ∧ s.member = true ∧ s.atBoundary = true ∧ s.st.applied = [] ∧
    s.st.acts = [a] ∧ s.dueAct a = true ∧ a.kind = 1 ∧ s.evalDraws = false ∧ a.payload = b ∧ (s.ring a.ring).busy.isSome = true :=
  fun b _ => ⟨{ busied windowed (desc 0x06 []) with st := { windowed.st with acts := [ingestAct b false] } }, ingestAct b false, rfl, rfl, rfl, rfl, rfl, rfl, rfl, rfl, rfl, rfl⟩

/-- An action of a kind on ring 0 that is due at a window of rank 0 of two. -/
def dueState (n : Nat) (a : Act) : State :=
  let s := migrating n (busied (duo .loaded) (desc 0x08 []))
  { s with st := { StepState.reset with windowOpen := true, acts := [a] } }

/-- MIGRATE of a row to rank 1, as an action. -/
def migrateAct (b : List Byte) : Act := { Act.blank 0 2 (desc 0x08 []) with payload := b }

theorem witness_WindowEnds_migrate : ∀ x ∈ [(migRec 4 1, false), (migRec 1 1, true)], ∃ (s : State) (a : Act), s.prog.isSome = true ∧ s.member = true ∧ s.atBoundary = true ∧
    s.st.applied = [] ∧ s.st.reserving = none ∧ s.st.acts = [a] ∧ s.dueAct a = true ∧ a.kind = 2 ∧ a.payload = x.1 ∧ (s.migrateCheck (migRecs a.payload)).isNone = x.2 ∧
    s.moving a.payload ≠ [] ∧ (s.ring a.ring).busy.isSome = true ∧ s.mir.waiting = [] :=
  fun x h => ⟨dueState 4 (migrateAct x.1), migrateAct x.1, by revert x; decide +kernel⟩

/-- TABLE_REPLACE of one row of table 0, staged in a slot. -/
def replaceAct (row slot : Nat) : Act := { Act.blank 0 3 (desc 0x07 []) with first := row, count := 1, staged := [(row, slot)], payload := zeros 16 }

theorem witness_WindowEnds_replace : ∀ x ∈ [(3, 0x21100, false), (1, 2 ^ 40 - 2 ^ 30, true)], ∃ (s : State) (a : Act) (td : TableDecl), s.prog.isSome = true ∧ s.member = true ∧
    s.atBoundary = true ∧ s.st.applied = [] ∧ s.st.reserving = none ∧ s.st.acts = [a] ∧ s.dueAct a = true ∧ a.kind = 3 ∧ s.holders s.rank ≠ [] ∧ s.table a.table = some td ∧
    td.sharded = true ∧ td.train = true ∧ a.staged = [(x.1, x.2.1)] ∧ s.owns a.table x.1 = x.2.2 ∧ rowKey a.table x.1 ∉ s.st.arrived ∧ x.2.1 < 2 ^ 48 ∧
    ([{ base := s.dirAddr a.table x.1, len := 8 }, { base := x.2.1, len := tabRowBytes td }, s.tailRegion] ++
      [s.masterOf a.table x.1, s.momentsOf a.table x.1]).Pairwise (fun x y => overlaps x y = false) ∧ (s.ring a.ring).busy.isSome = true :=
  fun x h => ⟨dueState 4 (replaceAct x.1 x.2.1), replaceAct x.1 x.2.1, { nth default decl.tables 0 with migMax := 4, migArea := 4 }, by revert x; decide +kernel⟩

theorem witness_WindowEnds_local : ∃ (s : State) (a : Act) (td : TableDecl), s.prog.isSome = true ∧ s.member = true ∧ s.atBoundary = true ∧ s.st.applied = [] ∧
    s.st.reserving = none ∧ s.st.acts = [a] ∧ s.dueAct a = true ∧ a.kind = 3 ∧ s.holders s.rank ≠ [] ∧ s.table a.table = some td ∧ td.sharded = false ∧ a.payload.length = 16 ∧
    overlaps { base := s.localSlot a.table a.first, len := tabSlotLen td * a.count } s.tailRegion = false :=
  ⟨{ dueState 4 (replaceAct 0 0) with prog := some { program with
      decl := { decl with tables := [{ nth default decl.tables 0 with sharded := false, train := false, localMax := 128 }] }
      place := { place with localTabs := [(0, 0x30000)] } } },
   replaceAct 0 0, { nth default decl.tables 0 with sharded := false, train := false, localMax := 128 }, by decide +kernel⟩

theorem witness_WindowEnds_record : ∃ (s : State) (step i step' : Nat), s.prog.isSome = true ∧ s.live = true ∧
    s.st.retPending.find? (fun x => x.1 == step) = some (step, i) ∧ s.st.retPending.find? (fun x => x.1 == step') = none :=
  ⟨{ solo .loaded with st := { StepState.reset with retPending := [(0, 15)] } }, 0, 15, 1, by decide⟩

/-- A member of two whose table may migrate, with room for `n` rows. -/
def mover (n : Nat) : State := migrating n (duo .loaded)

/-- A message of a migration on VC0. -/
def mapM (kind : Nat) (b : List Byte) (resp : Bool := false) : Msg := msg 1 5 0 (zeros 8 ++ leBytes 8 kind ++ b) resp

theorem witness_BoundaryMessages_map : ∃ (s : State) (m : Msg) (r : MigRec), s.member = true ∧ s.prog.isSome = true ∧ m.typ = 1 ∧ m.opc = 5 ∧ m.vc = 0 ∧
    m.resp = false ∧ field m.body 8 8 = 0 ∧ migRecs (m.body.drop 16) = [r] ∧ (s.table r.table).isSome = true ∧ (∀ e ∈ s.st.installed, e.1 ≠ rowKey r.table r.row) ∧
    s.mir.waiting = [] := ⟨mover 4, mapM 0 (migRec 3 1), { row := 3, dst := 1, rsv := 0, table := 0 }, by decide⟩

theorem witness_BoundaryMessages_count : ∀ k ∈ [0, 1], ∃ (s : State) (m : Msg), s.member = true ∧ s.prog.isSome = true ∧ m.typ = 1 ∧ m.opc = 5 ∧ m.vc = 0 ∧
    m.resp = false ∧ field m.body 8 8 = 3 ∧ k = field m.body 16 8 ∧ (s.st.installed.filter fun e => e.2.1 == m.src).length = 0 ∧ s.st.moves = [] :=
  fun k h => ⟨mover 4, mapM 3 (leBytes 8 k), by revert k; decide⟩

theorem witness_BoundaryMessages_room : ∀ n ∈ [0, 1], ∃ (s : State) (m : Msg) (r : MigRec) (td : TableDecl), s.member = true ∧ s.prog.isSome = true ∧ m.typ = 1 ∧ m.opc = 5 ∧
    m.vc = 0 ∧ m.resp = false ∧ field m.body 8 8 = 4 ∧ migRecs (m.body.drop 16) = [r] ∧ s.table r.table = some td ∧ s.home r.table r.row ≠ s.rank ∧ td.migArea = n ∧
    s.st.migSlots = [] ∧ s.st.reserved = [] :=
  fun n h => ⟨mover n, mapM 4 (migRec 3 0), { row := 3, dst := 0, rsv := 0, table := 0 }, { nth default decl.tables 0 with migMax := 4, migArea := n }, by revert n; decide⟩

theorem witness_BoundaryMessages_end : ∀ kind ∈ [6, 2], ∃ (s : State) (m : Msg), s.member = true ∧ s.prog.isSome = true ∧ m.typ = 1 ∧ m.opc = 5 ∧ m.vc = 0 ∧
    m.resp = false ∧ field m.body 8 8 = kind := fun kind h => ⟨mover 4, mapM kind [], by revert kind; decide⟩

/-- An owner of two that has asked some destinations for room. -/
def asking (l : List Nat) (bad : Bool) : State :=
  let s := dueState 4 (migrateAct (migRec 1 1))
  { s with st := { s.st with reserving := some (migrateAct (migRec 1 1)), reserveWait := l, reserveBad := bad } }

/-- Room at one of two destinations, at the last with room everywhere, and at the last without it. -/
theorem witness_BoundaryMessages_answers : ∀ x ∈ [([1, 5], 1, false), ([1], 1, false), ([1], 0, true)], ∃ (s : State) (m : Msg) (a : Act), s.member = true ∧ s.prog.isSome = true ∧
    m.typ = 1 ∧ m.opc = 5 ∧ m.vc = 0 ∧ m.resp = true ∧ field m.body 8 8 = 5 ∧ s.st.reserving = some a ∧ m.src ∈ s.st.reserveWait ∧ s.st.reserveWait = x.1 ∧
    (s.st.reserveBad || field m.body 16 8 != 1) = x.2.2 ∧ s.atBoundary = true ∧ s.st.acts = [a] ∧ (s.ring a.ring).busy.isSome = true ∧ s.moving a.payload ≠ [] ∧
    ∀ r ∈ s.moving a.payload, (s.table r.table).isSome = true :=
  fun x h => ⟨asking x.1 false, mapM 5 (leBytes 8 x.2.1) true, migrateAct (migRec 1 1), by revert x; decide +kernel⟩

theorem witness_BoundaryMessages_unasked : ∀ kind ∈ [5, 7, 1], ∃ (s : State) (m : Msg), s.member = true ∧ s.prog.isSome = true ∧ m.typ = 1 ∧ m.opc = 5 ∧ m.vc = 0 ∧
    m.resp = true ∧ field m.body 8 8 = kind ∧ s.st.reserving = none ∧ m.src ∉ s.st.moveWait ∧ m.src ∉ s.st.installWait :=
  fun kind h => ⟨mover 4, mapM kind [] true, by revert kind; decide⟩

/-- An owner whose MIGRATE has been applied and is not acknowledged. -/
def moved (l k : List Nat) : State :=
  { mover 4 with st := { StepState.reset with
    applied := [{ migrateAct (migRec 1 1) with waitAck := true }]
    moveWait := l
    installWait := k } }

theorem witness_BoundaryMessages_confirm : ∀ kind ∈ [7, 1], ∃ (s : State) (m : Msg) (a : Act), s.member = true ∧ s.prog.isSome = true ∧ m.typ = 1 ∧ m.opc = 5 ∧ m.vc = 0 ∧
    m.resp = true ∧ field m.body 8 8 = kind ∧ m.src ∈ s.st.moveWait ∧ m.src ∈ s.st.installWait ∧ s.st.moveWait.filter (· != m.src) = [] ∧
    s.st.installWait.filter (· != m.src) = [] ∧ s.holders s.rank ≠ [] ∧ s.st.applied.find? (fun x => x.kind == 2 && x.waitAck) = some a ∧ s.moving a.payload ≠ [] :=
  fun kind h => ⟨moved [1] [1], mapM kind [] true, { migrateAct (migRec 1 1) with waitAck := true }, by revert kind; decide⟩

theorem witness_BoundaryMessages_left : (moved [1, 2] [1, 2]).st.installWait.filter (· != 1) ≠ [] ∧ 1 ∈ (moved [1, 2] [1, 2]).st.installWait := by decide

/-- A row of a migration with its bytes. -/
def rowM (flags : Nat) : Msg := msg 5 2 10 (zeros 5 ++ leBytes 1 flags ++ zeros 10 ++ migRec 3 0 ++ zeros (142 + 32 + 96))

theorem witness_BoundaryMessages_row : ∀ x ∈ [(0, [], false), (1, [], true), (0, [(1, rowKey 0 3)], true)], ∃ (s : State) (m : Msg) (r : MigRec) (td : TableDecl), s.member = true ∧
    s.prog.isSome = true ∧ m.typ = 5 ∧ m.opc = 2 ∧ m.vc = 10 ∧ migRecs (slice m.body 16 8) = [r] ∧ s.table r.table = some td ∧ s.st.run = none ∧
    (field m.body 5 1 = 1 ∨ (m.src, rowKey r.table r.row) ∈ s.st.reserved ↔ x.2.2 = true) ∧ s.holders s.rank ≠ [] ∧
    ((s.placeRow r).1.rowRegions td r.table r.row ++ [s.tailRegion]).Pairwise (fun x y => overlaps x y = false) ∧ td.train = true ∧
    142 + tabRowBytes td + ((s.placeRow r).1.masterOf r.table r.row).len + ((s.placeRow r).1.momentsOf r.table r.row).len ≤ (m.body.drop 24).length ∧
    ∀ e ∈ s.st.reserved.erase (m.src, rowKey r.table r.row), e.1 ≠ m.src :=
  fun x h => ⟨{ mover 4 with st := { StepState.reset with reserved := x.2.1 } }, rowM x.1, { row := 3, dst := 0, rsv := 0, table := 0 },
    { nth default decl.tables 0 with migMax := 4, migArea := 4 }, by revert x; decide +kernel⟩

theorem witness_BoundaryMessages_midStep : ∃ (s : State) (m : Msg) (r : MigRec) (x : StepRun), s.member = true ∧ s.prog.isSome = true ∧ m.typ = 5 ∧ m.opc = 2 ∧ m.vc = 10 ∧
    migRecs (slice m.body 16 8) = [r] ∧ (s.table r.table).isSome = true ∧ s.st.run = some x ∧ x.phase ≠ .waitStart :=
  ⟨stepping (mover 4) .forward, rowM 0, { row := 3, dst := 0, rsv := 0, table := 0 }, inStep .forward, by decide⟩

/-- A refresh's only message with a record of row 3, one with a row that is no longer selected, one of the boundary before, and one of two. -/
def refreshM (drops : Nat) (b : List Byte) (last : Bool := true) : Msg := msg 5 1 10 (zeros 8 ++ leBytes 8 drops ++ b) true last

theorem witness_BoundaryMessages_record : ∃ (s : State) (m : Msg) (td : TableDecl), s.member = true ∧ s.prog.isSome = true ∧ m.typ = 5 ∧ m.opc = 1 ∧
    m.resp = true ∧ field m.body 0 4 = s.st.stepNo ∧ ((s.took m).batchIn m).1 = some [m] ∧ field m.body 8 8 = 0 ∧ s.table (field (m.body.drop 16) 5 1) = some td ∧
    (m.body.drop 16).length = 8 + roundUp (tabRowBytes td) 8 :=
  ⟨duo .loaded, refreshM 0 (leBytes 5 3 ++ zeros 3 ++ zeros 32), nth default decl.tables 0, by decide +kernel⟩

theorem witness_BoundaryMessages_drop : (∃ (s : State) (m : Msg), s.member = true ∧ s.prog.isSome = true ∧ m.typ = 5 ∧ m.opc = 1 ∧ m.resp = true ∧
      field m.body 0 4 = s.st.stepNo ∧ ((s.took m).batchIn m).1 = some [m] ∧ 8 * field m.body 8 8 = (m.body.drop 16).length ∧ groupsOf 8 (m.body.drop 16) ≠ []) ∧
    (∃ (s : State) (m : Msg), s.member = true ∧ s.prog.isSome = true ∧ m.typ = 5 ∧ m.opc = 1 ∧ m.resp = true ∧ field m.body 0 4 = s.st.stepNo ∧
      ((s.took m).batchIn m).1 = none) ∧
    ∃ (s : State) (m : Msg), s.member = true ∧ s.prog.isSome = true ∧ m.typ = 5 ∧ m.opc = 1 ∧ m.resp = true ∧ field m.body 0 4 ≠ s.st.stepNo :=
  ⟨⟨duo .loaded, refreshM 1 (zeros 8), by decide +kernel⟩, ⟨duo .loaded, refreshM 0 [] false, by decide +kernel⟩,
   duo .loaded, msg 5 1 10 ([1] ++ zeros 15) true, by decide⟩

theorem witness_BoundaryMessages_ack : ∀ k ∈ [0, 2], ∃ (s : State) (m : Msg), s.member = true ∧ s.prog.isSome = true ∧ m.typ = 5 ∧ m.opc = 1 ∧ m.resp = false ∧
    field m.body 5 1 = k ∧ (m.src, 1) ∈ s.st.eddyAcks :=
  fun k h => ⟨{ duo .loaded with st := { StepState.reset with eddyAcks := [(1, 1)] } }, msg 5 1 10 (zeros 5 ++ leBytes 1 k ++ zeros 10), by revert k; decide⟩

/-- An edge to node 1 at a time. -/
def edge (ts : Nat) : Edge := { (default : Edge) with nbr := 1, ts := ts }

theorem witness_RunsAndDraws_runs : ∃ (e : Edge) (es es' : List Edge), es.Pairwise (fun a b => a.ts ≤ b.ts) ∧ deleteEdge e es = some es' :=
  ⟨edge 2, [edge 1, edge 2, edge 2], [edge 1, { edge 2 with flags := 2 ^ 15 }, edge 2], by decide⟩

/-- Node 0 of four, whose run is empty, and node 1 beside it. -/
theorem witness_RunsAndDraws_relocates : ∃ (s u : State) (d : Decl) (x y : Nat), s.relocate d x = some u ∧ s.decl = some d ∧ x ∈ ownedNodes d s.ranks s.rank ∧
    within { base := s.graphRegion.base, len := 32 * (ownedNodes d s.ranks s.rank).length } (s.entryAddr x) 32 = true ∧
    s.graphRegion.base + s.graphRegion.len ≤ 2 ^ 40 ∧ s.graphRegion.len < 2 ^ 36 ∧ 0 < s.graphRegion.len ∧ y ∈ ownedNodes d s.ranks s.rank ∧ y ≠ x ∧
    within { base := s.graphRegion.base, len := 32 * (ownedNodes d s.ranks s.rank).length } (s.entryAddr y) 32 = true ∧
    overlaps { base := s.entryAddr x, len := 32 } { base := s.entryAddr y, len := 32 } = false ∧
    overlaps { base := s.entryAddr x, len := 32 } { base := (s.entry y).addr, len := 16 * (s.entry y).cap } = false ∧ (s.entry y).len ≤ (s.entry y).cap := by
  have h : ((solo .loaded).relocate decl 0).isSome = true := by decide +kernel
  obtain ⟨u, hu⟩ := Option.isSome_iff_exists.mp h
  exact ⟨solo .loaded, u, decl, 0, 1, hu, by decide +kernel⟩

theorem witness_RunsAndDraws_draws : ∃ (h : Hop) (tb : Nat) (es : List Edge) (c : Child) (x : Edge × Nat),
    c ∈ drawChildren h tb 0 (fun _ _ => { c0 := 0, c1 := 0, c2 := 0, c3 := 0 }) [] (liveRecords es) ∧ c.took = some x ∧ h.mode = .temporalWindow :=
  ⟨{ mode := .temporalWindow, fanout := 2, repl := false, tbound := true, window := 1, typeMask := BitVec.allOnes 256 }, 3, [edge 1, edge 2, edge 3],
   { took := some (edge 2, 0), trunc := false }, (edge 2, 0), by decide⟩

theorem witness_SampleExchange_send : (∃ (s : State) (hop : Nat) (r : StepRun) (sp : SampSpec), s.member = true ∧ s.prog.isSome = true ∧ 0 < hop ∧
      s.st.run = some r ∧ r.phase = .sample ∧ r.fault = none ∧ r.hop + 1 = hop ∧ s.ex.sampleLeft = [] ∧ s.spec r.spec = some sp ∧ hop ≤ sp.hops.length) ∧
    ∃ (s : State) (hop : Nat) (e : EvalRun) (sp : SampSpec), s.member = true ∧ s.prog.isSome = true ∧ 0 < hop ∧ s.st.run = none ∧ s.st.evals = [e] ∧ e.drawing = true ∧
      e.hop + 1 = hop ∧ e.asked = [] ∧ s.graphPending = false ∧ s.spec e.spec = some sp ∧ hop ≤ sp.hops.length :=
  ⟨⟨stepping (duo .running) .sample, 1, inStep .sample, nth default decl.specs 0, by decide⟩,
   evaluating (duo .running) (evalRun true 0), 1, evalRun true 0, nth default decl.specs 0, by decide⟩

/-- A request for the children of a node at a hop. -/
def sampleBody (hop node : Nat) : List Byte := zeros 5 ++ leBytes 1 hop ++ [0, 0] ++ zeros 8 ++ leBytes 5 node ++ zeros 15

/-- A whole batch's message is the first of its source's, MSGID 0, and carries LAST; what is not whole lacks it. -/
theorem witness_SampleExchange_request : ∀ x ∈ [(msg 4 0 10 (sampleBody 1 1) false true, true, true), (msg 4 0 10 (sampleBody 1 1), true, false), (msg 4 0 10 (sampleBody 2 1), false, false)],
    ∃ (s : State) (m : Msg) (sp : SampSpec) (d : Decl), m = x.1 ∧ s.member = true ∧ s.prog.isSome = true ∧ m.typ = 4 ∧
      m.resp = false ∧ s.pulling = false ∧ s.decl = some d ∧ s.spec 0 = some sp ∧ s.batchCurrent m.body = true ∧ s.st.run.elim false (fun r => r.fault == none) = true ∧
      (batchHeaderOk m.body && decide (1 ≤ field m.body 5 1) && decide (field m.body 5 1 ≤ sp.hops.length) && (groupsOf 20 (m.body.drop 16)).all (s.sampleOk d)) = x.2.1 ∧
      ((s.took m).batchIn m).1.isSome = x.2.2 :=
  fun x h => ⟨stepping (duo .running) .sample, x.1, nth default decl.specs 0, decl, by revert x; decide +kernel⟩

theorem witness_SampleExchange_answer : ∃ (s : State) (m : Msg) (l : List Msg) (r : List Byte) (sp : SampSpec) (hop : Hop), m = msg 4 0 10 (sampleBody 1 1) false true ∧
    ((s.took m).batchIn m).1 = some l ∧ groupsOf 20 (batchBytes l) = [r] ∧ s.spec 0 = some sp ∧ sp.hops[field m.body 5 1 - 1]? = some hop ∧
    (liveRecords (s.runRecords (s.entry (field r 0 5)))).length < 2 ^ 19 :=
  ⟨stepping (duo .running) .sample, _, [msg 4 0 10 (sampleBody 1 1) false true], leBytes 5 1 ++ zeros 15, nth default decl.specs 0,
   { mode := .uniform, fanout := 2, repl := true, tbound := false, window := 0, typeMask := BitVec.allOnes 256 }, rfl, by decide +kernel⟩

theorem witness_SampleExchange_reads : ((((stepping (duo .running) .sample).took (msg 4 0 10 (sampleBody 1 1) false true)).batchIn
    (msg 4 0 10 (sampleBody 1 1) false true)).2.checkedReads .step [lostWord]).1 = false := by decide +kernel

theorem witness_SampleExchange_stale : ∃ (s : State) (m : Msg), s.member = true ∧ s.prog.isSome = true ∧ m.typ = 4 ∧ m.resp = false ∧ s.pulling = false ∧
    s.batchCurrent m.body = false := ⟨duo .loaded, msg 4 0 10 (sampleBody 1 1), by decide⟩

/-- A step that waits for rank 1's children of the Ledger index 1. -/
def askedState : State :=
  { duo .running with
    st := { StepState.reset with run := some { inStep .sample with hop := 1 } }
    ex := { Exchange.reset with sampleAsked := [(1, [1])], sampleLeft := [(1, 1)] } }

theorem witness_SampleExchange_reply : ∀ x ∈ [(msg 4 0 10 (zeros 5 ++ [1, 0, 0] ++ zeros 56) true true, true), (msg 4 0 10 (zeros 5 ++ [1, 0, 0] ++ zeros 56) true, false)],
    ∃ (s : State) (m : Msg), m = x.1 ∧ s.member = true ∧ s.prog.isSome = true ∧ m.typ = 4 ∧ m.resp = true ∧ s.replyWanted m.body = some [2] ∧
      ((s.took m).batchIn m).1.isSome = x.2 ∧ (∀ l, ((s.took m).batchIn m).1 = some l → (askedOf s.ex.sampleAsked m.src).length * (24 * 2) ≤ (batchBytes l).length) :=
  fun x h => ⟨askedState, x.1, by revert x; decide +kernel⟩

theorem witness_SampleExchange_places : askedOf askedState.ex.sampleAsked 1 = [1] ∧ ([1] : List Nat).Pairwise (fun i j => i + 2 ≤ j ∨ j + 2 ≤ i) ∧
    ((askedState.ledgerPlace false).1 + 16 * (1 + 2) ≤ (askedState.ledgerPlace false).2 + 8 * 1) := by decide

theorem witness_SampleExchange_unwanted : ∃ (s : State) (m : Msg), s.member = true ∧ s.prog.isSome = true ∧ m.typ = 4 ∧ m.resp = true ∧ s.replyWanted m.body = none :=
  ⟨duo .loaded, msg 4 0 10 (zeros 16) true true, by decide⟩

/-! ### Quarry and Confluence -/

/-- A task that runs. -/
def task (eval : Bool) : Task := { Task.idle with st := .running, present := true, prio := 1, evalClass := eval }

/-- One core whose task 0 runs; task 1 is IDLE. -/
def cores : Cores :=
  { weir := [{ tasks := [task false, { Task.idle with present := true }], ready := [], running := some 0, held := [], stalled := [], xreg := [] }],
    mc := [default], queue := [], busy := [] }

/-- A step in Forward with that core. -/
def working : State := { stepping (solo .running) .forward with gc := cores }

/-- A queued descriptor of the running task. -/
def queued (unit : UnitKind) (bytes : List Byte) : QDesc :=
  { unit := unit, core := 0, slot := 0, level := 1, gang := 0, kernel := 0, bytes := bytes, scanned := false, paths := [], chunks := [], eval := false }

/-- A state with one descriptor queued. -/
def withDesc (s : State) (q : QDesc) : State := { s with gc := { s.gc with queue := [q] } }

/-- The same state in the class of EVAL, with an EVAL in progress on ring 0. -/
def evalClass (s : State) : State :=
  { evaluating (busied s evalD) (evalRun false 1) with
    gc := { s.gc with weir := s.gc.weir.map fun w => { w with tasks := w.tasks.map fun t => { t with evalClass := true } }, queue := s.gc.queue.map fun q => { q with eval := true } } }

/-- Bytes at their offsets in zeros. -/
def laid (n : Nat) (fs : List (Nat × Nat × Nat)) : List Byte := fs.foldl (fun b f => b.take f.1 ++ leBytes f.2.1 f.2.2 ++ b.drop (f.1 + f.2.1)) (zeros n)

/-- GATHER of two rows of table 0, SCATTER_GRAD of one, and ROUND_CLOSE of round 0, each to set flag 31 (07 R160). -/
def gatherB : List Byte := laid 64 [(0, 8, 1 + 31 * 2 ^ 15), (8, 4, 2), (0x10, 6, 0x8000), (0x18, 6, 0x9000), (0x20, 4, 32), (0x24, 4, 8)]
def scatterB : List Byte := laid 64 [(0, 8, 2 + 31 * 2 ^ 15), (8, 4, 1), (0x10, 6, 0x8000), (0x18, 6, 0x9000), (0x20, 4, 64), (0x24, 4, 8)]
def closeB : List Byte := laid 64 [(0, 8, 3 + 31 * 2 ^ 15)]

theorem witness_QuarryStarts : ∀ b ∈ [gatherB, scatterB, closeB], ∃ (s : State) (q : QDesc), q.bytes = b ∧
    s.nextDesc (fun x => x.unit == .quarry && s.quarryClear x) = some q ∧ s.hasCore q.core = true ∧ s.workLive q.eval = true ∧
    s.quarryCheck q (quarryDesc q.bytes) = none ∧ ∀ r ∈ s.quarryBusy, r.done = false := by
  have h : ∀ b ∈ [gatherB, scatterB, closeB], (withDesc working (queued .quarry b)).quarryCheck (queued .quarry b) (quarryDesc b) = none ∧
      (withDesc working (queued .quarry b)).nextDesc (fun x => x.unit == .quarry && (withDesc working (queued .quarry b)).quarryClear x) = some (queued .quarry b) := by
    decide +kernel
  exact fun b hb => ⟨withDesc working (queued .quarry b), queued .quarry b, rfl, (h b hb).2, rfl, rfl, (h b hb).1, by intro r hr; cases hr⟩

theorem witness_QuarryStarts_ops : (quarryDesc gatherB).op = 1 ∧ (quarryDesc scatterB).op = 2 ∧ (quarryDesc closeB).op = 3 ∧
    (quarryDesc gatherB).lstride = 8 ∧ (quarryDesc gatherB).dstride = 32 := by decide

theorem witness_QuarryStarts_reads : (working.checkedReads .step []).1 = true ∧ (working.checkedReads .step [lostWord]).1 = false := by decide +kernel

theorem witness_QuarryStarts_fault : ∀ s ∈ [withDesc working (queued .quarry (zeros 64)), evalClass (withDesc working (queued .quarry (zeros 64)))],
    ∃ (q : QDesc) (x : Status), s.nextDesc (fun x => x.unit == .quarry && s.quarryClear x) = some q ∧ s.hasCore q.core = true ∧ s.workLive q.eval = true ∧
      s.quarryCheck q (quarryDesc q.bytes) = some x ∧ (q.eval = false → s.st.run.isSome = true) ∧
      (q.eval = true → s.st.evals = [evalRun false 1] ∧ (s.ring 0).busy.isSome = true) := by
  intro s hs
  simp only [List.mem_cons, List.not_mem_nil, or_false] at hs
  rcases hs with rfl | rfl
  · exact ⟨queued .quarry (zeros 64), .formatInvalid, by decide +kernel⟩
  · exact ⟨{ queued .quarry (zeros 64) with eval := true }, .formatInvalid, by decide +kernel⟩

theorem witness_QuarryStarts_closes : ∃ s : State, (0, 0) ∉ s.ex.rounds ∧ 0 ∉ s.ex.roundsSent ∧ ∀ k < s.gc.weir.length, (0, k) ∈ (0, 0) :: s.ex.rounds :=
  ⟨working, by decide⟩

/-- Another member of two, in the same place, that Eddy serves with row 2 of table 0. -/
def replicated : State :=
  { stepping (duo .running) .forward with
    gc := cores
    st := { (stepping (duo .running) .forward).st with eddy := [(rowKey 0 2, { src := 1, bytes := zeros 32, version := 3, present := true })] } }

theorem witness_QuarryStarts_rows : (∃ (s : State) (d : QuarryDesc) (t : TableDecl) (id : Nat), s.table d.tbl = some t ∧ d.ver = 0 ∧ id ≠ noId ∧ s.owns d.tbl id = true) ∧
    (∃ (s : State) (d : QuarryDesc) (t : TableDecl) (id : Nat) (x : Replica), s.table d.tbl = some t ∧ id ≠ noId ∧ t.sharded = true ∧ s.owns d.tbl id = false ∧
      s.eddyServes false s.pinned = true ∧ s.st.eddy.find (rowKey d.tbl id) = some x ∧ x.present = true) ∧
    ∃ (s : State) (d : QuarryDesc) (t : TableDecl) (id : Nat), s.table d.tbl = some t ∧ id ≠ noId ∧ t.sharded = true ∧ s.owns d.tbl id = false ∧
      s.st.eddy.find (rowKey d.tbl id) = none :=
  ⟨⟨working, quarryDesc gatherB, nth default decl.tables 0, 3, by decide⟩,
   ⟨replicated, quarryDesc gatherB, nth default decl.tables 0, 2, { src := 1, bytes := zeros 32, version := 3, present := true }, by decide⟩,
   replicated, quarryDesc gatherB, nth default decl.tables 0, 3, by decide⟩

/-- A lookup of row `r` of table 0. -/
def lookupBody (r : Nat) : List Byte := zeros 16 ++ leBytes 5 r ++ zeros 3

/-- What 07 R165 asks of a batch. -/
def lookupOk (s : State) (b : List Byte) : Bool :=
  batchHeaderOk b && (groupsOf 8 (b.drop 16)).all s.requestOk && (batchEval b || (groupsOf 8 (b.drop 16)).all fun r => s.owns (field r 5 1) (field r 0 5))

theorem witness_LookupExchange_request : ∀ x ∈ [(msg 5 0 10 (lookupBody 1) false true, true, true), (msg 5 0 10 (lookupBody 1), true, false), (msg 5 0 10 (lookupBody 2), false, false)],
    ∃ (s : State) (m : Msg) (r : StepRun), m = x.1 ∧ s.member = true ∧ s.prog.isSome = true ∧ m.typ = 5 ∧ m.opc = 0 ∧ m.resp = false ∧ s.pulling = false ∧
      s.batchCurrent m.body = true ∧ lookupOk s m.body = x.2.1 ∧ s.st.run = some r ∧ r.fault = none ∧ ((s.took m).batchIn m).1.isSome = x.2.2 :=
  fun x h => ⟨stepping (duo .running) .gather, x.1, inStep .gather, by revert x; decide +kernel⟩

theorem witness_LookupExchange_stale : (∃ (s : State) (m : Msg), s.member = true ∧ s.prog.isSome = true ∧ m.typ = 5 ∧ m.opc = 0 ∧ m.resp = false ∧ s.pulling = false ∧
      s.batchCurrent m.body = false) ∧
    ∃ (s : State) (m : Msg), s.member = true ∧ s.prog.isSome = true ∧ m.typ = 5 ∧ m.opc = 0 ∧ m.resp = false ∧ s.pulling = true :=
  ⟨⟨duo .loaded, msg 5 0 10 (lookupBody 1), by decide⟩,
   { duo .loaded with mir := { Mirror.reset with pulls := [{ owner := 0, part := 0, holder := 1, again := false, repair := false, fin := false }] } },
   msg 5 0 10 (lookupBody 1), by decide⟩

/-- A row that the step waits for. -/
def lookup : Lookup := { owner := 1, table := 0, row := 3, dst := 0x9000, ver := some 0x9100, eval := false, round := 0, countOnly := false, asked := true }

/-- A step that waits for that row alone. -/
def lookingUp : State := { stepping (duo .running) .gather with ex := { Exchange.reset with lookups := [lookup] } }

theorem witness_LookupExchange_reply : ∀ moved ∈ [0, 1], ∃ (s : State) (m : Msg) (b : List Msg) (l : Lookup) (t : TableDecl), s.member = true ∧ s.prog.isSome = true ∧ m.typ = 5 ∧
    m.opc = 0 ∧ m.resp = true ∧ batchEval m.body = false ∧ s.batchCurrent m.body = true ∧ ((s.took m).batchIn m).1 = some b ∧ s.ex.lookups = [l] ∧ l.owner = m.src ∧
    l.eval = false ∧ l.asked = true ∧ l.countOnly = false ∧ l.round = field m.body 5 1 ∧ l.row < 2 ^ 40 ∧ s.table l.table = some t ∧
    bits (field (batchBytes b) 2 1) 0 1 = moved ∧ 8 + tabRowBytes t ≤ (batchBytes b).length :=
  fun moved h => ⟨lookingUp, msg 5 0 10 (zeros 18 ++ leBytes 1 moved ++ zeros 37) true true, [msg 5 0 10 (zeros 18 ++ leBytes 1 moved ++ zeros 37) true true], lookup,
    nth default decl.tables 0, by revert moved; decide +kernel⟩

theorem witness_LookupExchange_part : (∃ (s : State) (m : Msg), s.member = true ∧ s.prog.isSome = true ∧ m.typ = 5 ∧ m.opc = 0 ∧ m.resp = true ∧ s.batchCurrent m.body = true ∧
      batchEval m.body = false ∧ ((s.took m).batchIn m).1 = none) ∧
    ∃ (s : State) (m : Msg), s.member = true ∧ s.prog.isSome = true ∧ m.typ = 5 ∧ m.opc = 0 ∧ m.resp = true ∧ s.batchCurrent m.body = false :=
  ⟨⟨lookingUp, msg 5 0 10 (zeros 16) true, by decide +kernel⟩, duo .loaded, msg 5 0 10 (zeros 16) true true, by decide⟩

/-- A reply to another EVAL, one of this EVAL's whose batch is whole. -/
theorem witness_LookupExchange_eval : ∀ x ∈ [(8, false), (7, true)], ∃ (s : State) (m : Msg) (l : Lookup) (t : TableDecl), s.member = true ∧ s.prog.isSome = true ∧ m.typ = 5 ∧
    m.opc = 0 ∧ m.resp = true ∧ batchEval m.body = true ∧ decide (field m.body 8 8 = s.evalTag ∧ field m.body 0 4 = s.pinned) = x.2 ∧ s.batchCurrent m.body = true ∧
    ((s.took m).batchIn m).1 = some [m] ∧ s.ex.lookups = [l] ∧ l.owner = m.src ∧ l.eval = true ∧ l.asked = true ∧ l.countOnly = false ∧ l.round = field m.body 5 1 ∧
    s.table l.table = some t ∧ 8 + tabRowBytes t ≤ (m.body.drop 16).length :=
  fun x h => ⟨{ evaluating (busied (duo .running) evalD) (evalRun false 1) with ex := { Exchange.reset with lookups := [{ lookup with eval := true }] } },
    msg 5 0 10 (leBytes 4 0 ++ [0, 0, 1, 0] ++ leBytes 8 x.1 ++ zeros 40) true true, { lookup with eval := true }, nth default decl.tables 0, by revert x; decide +kernel⟩

/-- A segment of table 0's gradient: its step, source, number of segments, checksum and payload. -/
def segBody (step src nseg cksum : Nat) (payload : List Byte) : List Byte :=
  leBytes 4 step ++ [0, 2] ++ leBytes 2 src ++ zeros 8 ++ leBytes 4 nseg ++ leBytes 4 payload.length ++ leBytes 8 cksum ++ payload

/-- A member of two in Reduce, with rank 0's own empty contribution staged or not. -/
def reducing (own : Bool) : State :=
  { stepping (duo .running) .reduce with conf := { Conf.reset with staged := if own then [segOf (segBody 0 0 1 0 [])] else [] } }

/-- The conditions that every clause about a segment of the attempt in progress has. -/
def arrives (s : State) (m : Msg) (r : StepRun) : Prop :=
  s.member = true ∧ m.typ = 3 ∧ s.prog.isSome = true ∧ s.st.run = some r ∧ (segOf m.body).step = s.st.stepNo ∧ (segOf m.body).attempt = r.attempt

/-- The state that a segment would be staged in. -/
def stagedWith (s : State) (m : Msg) : State := { s with conf := { s.conf with staged := s.conf.staged ++ [segOf m.body] } }

theorem witness_SegmentsArrive_stale : (∃ (s : State) (m : Msg), s.member = true ∧ s.prog.isSome = true ∧ m.typ = 3 ∧ (segOf m.body).step ≠ s.st.stepNo) ∧
    ∃ (s : State) (m : Msg) (r : StepRun), arrives s m r ∧ r.fault.isSome = true :=
  ⟨⟨reducing false, msg 3 0 10 (segBody 1 1 1 0 []), by decide⟩,
   running (duo .running) { inStep .reduce with fault := some .indexRange }, msg 3 0 10 (segBody 0 1 1 0 []), { inStep .reduce with fault := some .indexRange },
   ⟨by decide, rfl, rfl, rfl, by decide, by decide⟩, by decide⟩

theorem witness_SegmentsArrive_broken : (∃ (s : State) (m : Msg) (r : StepRun), arrives s m r ∧ r.fault = none ∧ s.segmentOk (segOf m.body) = false) ∧
    (∃ (s : State) (m : Msg) (r : StepRun) (y : Seg), arrives s m r ∧ r.fault = none ∧
      (s.segsOf (segOf m.body).kind (segOf m.body).id (segOf m.body).src).find? (fun y => y.seg == (segOf m.body).seg) = some y ∧ y.raw ≠ (segOf m.body).raw) ∧
    ∃ (s : State) (m : Msg) (r : StepRun) (y : Seg), arrives s m r ∧ r.fault = none ∧ s.segmentOk (segOf m.body) = true ∧
      (s.segsOf (segOf m.body).kind (segOf m.body).id (segOf m.body).src).find? (fun y => y.seg == (segOf m.body).seg) = some y ∧ y.raw = (segOf m.body).raw :=
  ⟨⟨reducing false, msg 3 0 10 (segBody 0 2 1 0 []), inStep .reduce, ⟨by decide, rfl, rfl, rfl, by decide, by decide⟩, by decide⟩,
   ⟨reducing true, { msg 3 0 10 (segBody 0 0 1 5 []) with src := 0 }, inStep .reduce, segOf (segBody 0 0 1 0 []), ⟨by decide, rfl, rfl, rfl, by decide, by decide⟩, by decide⟩,
   reducing true, { msg 3 0 10 (segBody 0 0 1 0 []) with src := 0 }, inStep .reduce, segOf (segBody 0 0 1 0 []), ⟨by decide, rfl, rfl, rfl, by decide, by decide⟩, by decide⟩

theorem witness_SegmentsArrive_late : ∃ (s : State) (m : Msg) (r : StepRun), arrives s m r ∧ r.fault = none ∧
    (s.segsOf (segOf m.body).kind (segOf m.body).id (segOf m.body).src).find? (fun y => y.seg == (segOf m.body).seg) = none ∧
    s.contributionIn (segOf m.body).kind (segOf m.body).id (segOf m.body).src = true :=
  ⟨reducing true, { msg 3 0 10 (leBytes 4 0 ++ [0, 2] ++ leBytes 2 0 ++ zeros 4 ++ leBytes 4 1 ++ leBytes 4 2 ++ zeros 12) with src := 0 }, inStep .reduce,
   ⟨by decide, rfl, rfl, rfl, by decide, by decide⟩, by decide⟩

theorem witness_SegmentsArrive_retried : ∃ (s w : State) (m : Msg), w = stagedWith s m ∧ arrives s m (inStep .reduce) ∧ s.segmentOk (segOf m.body) = true ∧
    s.segsOf 2 0 1 = [] ∧ w.contributionIn 2 0 1 = true ∧ w.arrivalOk 2 0 1 = false ∧ (2, 0, 1) ∈ s.conf.retried :=
  ⟨{ reducing false with conf := { Conf.reset with retried := [(2, 0, 1)] } }, _, msg 3 0 10 (segBody 0 1 1 5 []), rfl, ⟨by decide, rfl, rfl, rfl, by decide, by decide⟩,
   by decide +kernel⟩

/-- A gradient record of row 1 of table 0, zero but for one element. -/
def gradRec : List Byte := leBytes 5 1 ++ zeros 11 ++ leBytes 4 0x3F800000 ++ zeros 60

theorem witness_SegmentsArrive_row : ∃ (s w : State) (m : Msg) (td : TableDecl), w = stagedWith s m ∧ arrives s m (inStep .reduce) ∧ s.segmentOk (segOf m.body) = true ∧
    s.segsOf 2 0 1 = [] ∧ w.contributionIn 2 0 1 = true ∧ w.arrivalOk 2 0 1 = true ∧ w.contributionFault 2 0 1 = none ∧ (2, 0) ∉ s.conf.reduced ∧
    (w.contributors 2 0).all (fun k => w.contributionIn 2 0 k) = true ∧ w.aggregateOk 2 0 (w.adderReads 2 0 []) = true ∧ s.table 0 = some td ∧ td.gradBs8 = false ∧
    1 ∈ s.ownedRows 0 ∧ (w.adderReads 2 0 []).flatMap (fun p => (byBatch (rowRecs 0 (tabGradBytes td) p.2)).filter fun z => z.row == 1) ≠ [] :=
  ⟨reducing true, _, msg 3 0 10 (segBody 0 1 1 (checksum gradRec) gradRec), nth default decl.tables 0, rfl,
   ⟨by decide, rfl, by decide +kernel, by decide +kernel, by decide +kernel, by decide +kernel⟩, by decide +kernel⟩

/-- A member with one FP32 slice of two elements that it alone contributes to. -/
def slicing : State := { reducing false with prog := some { program with place := { place with slices := [{ (default : SlicePlace) with tensor := 1, count := 2 }] } } }

theorem witness_SegmentsArrive_slice : ∃ (s w : State) (m : Msg) (l : SlicePlace), w = stagedWith s m ∧ arrives s m (inStep .reduce) ∧ s.segmentOk (segOf m.body) = true ∧
    (segOf m.body).kind = kSlice ∧ s.ownSlice 0 = some l ∧ s.sliceBs8 l = false ∧ 1 < l.count ∧ s.segsOf kSlice 0 0 = [] ∧ w.contributionIn kSlice 0 0 = true ∧
    w.arrivalOk kSlice 0 0 = true ∧ w.contributionFault kSlice 0 0 = none ∧ (w.contributors kSlice 0).all (fun k => w.contributionIn kSlice 0 k) = true ∧
    w.aggregateOk kSlice 0 (w.adderReads kSlice 0 []) = true :=
  ⟨slicing, _, { msg 3 0 10 (leBytes 4 0 ++ [0, 1] ++ leBytes 2 0 ++ zeros 8 ++ leBytes 4 1 ++ leBytes 4 8 ++ leBytes 8 0 ++ zeros 8) with src := 0 },
   { (default : SlicePlace) with tensor := 1, count := 2 }, rfl, ⟨by decide, rfl, rfl, rfl, by decide, by decide⟩, by decide +kernel⟩

theorem witness_SegmentsArrive_beyond : ∃ (s : State) (m : Msg) (r : StepRun), arrives s m r ∧ r.fault = none ∧ s.segmentOk (segOf m.body) = true ∧
    s.segsOf (segOf m.body).kind (segOf m.body).id (segOf m.body).src = [] ∧ s.decl.elim 0 (·.rxMax) < s.stagedBytes + (segOf m.body).payload.length :=
  ⟨{ reducing false with prog := some { program with decl := { decl with rxMax := 7 } } }, msg 3 0 10 (segBody 0 1 1 0 (zeros 8)), inStep .reduce,
   ⟨by decide, rfl, rfl, rfl, by decide, by decide⟩, by decide⟩

/-- Segments that are staged: one of two, one whose checksum disagrees, one whose content is refused, one that leaves rank 0's to come, and the last. -/
theorem witness_SegmentsArrive_staged : ∀ x ∈ [(false, segBody 0 1 2 0 (zeros 8), false, false, false), (false, segBody 0 1 1 5 [], true, false, false),
      (false, segBody 0 1 1 0 (zeros 8), true, true, false), (false, segBody 0 1 1 0 [], true, true, false), (true, segBody 0 1 1 0 [], true, true, true)],
    ∃ (s w : State) (m : Msg), w = stagedWith s m ∧ arrives s m (inStep .reduce) ∧ s.segmentOk (segOf m.body) = true ∧ s.segsOf 2 0 1 = [] ∧ s.contributionIn 2 0 1 = false ∧
      s.stagedBytes + (segOf m.body).payload.length ≤ s.decl.elim 0 (·.rxMax) ∧ w.contributionIn 2 0 1 = x.2.2.1 ∧
      (x.2.2.1 = true → w.arrivalOk 2 0 1 = x.2.2.2.1) ∧ (w.contributors 2 0).all (fun k => w.contributionIn 2 0 k) = x.2.2.2.2 :=
  fun x h => ⟨reducing x.1, stagedWith (reducing x.1) (msg 3 0 10 x.2.1), msg 3 0 10 x.2.1, rfl, ⟨by revert x; decide, rfl, by revert x; decide, by revert x; decide, by revert x; decide, by revert x; decide⟩,
    by revert x; decide +kernel⟩

theorem witness_SegmentsArrive_faults : (stagedWith (reducing false) (msg 3 0 10 (segBody 0 1 1 0 (zeros 8)))).contributionFault 2 0 1 = some .formatInvalid ∧
    (stagedWith (reducing false) (msg 3 0 10 (segBody 0 1 1 0 []))).contributionFault 2 0 1 = none := by decide +kernel

theorem witness_SegmentsArrive_sums : ∀ reads ∈ [[], [{ src := 1, payload := leBytes 8 1 }]], ∃ w : State, w = stagedWith (reducing true) (msg 3 0 10 (segBody 0 1 1 0 [])) ∧
    w.aggregateOk 2 0 (w.adderReads 2 0 reads) = reads.isEmpty ∧
    (reads ≠ [] → ∃ p ∈ w.adderReads 2 0 reads, (checksum p.2 != w.carriedSum 2 0 p.1) = true) :=
  fun reads h => ⟨_, rfl, by revert reads; decide +kernel⟩

theorem witness_SegmentsArrive_again : (∃ (s : State) (m c : Msg), s.member = true ∧ m.typ = 2 ∧ m.opc = 1 ∧ m.vc = 0 ∧ s.st.run.isSome = true ∧
      (segOf m.body).step = s.st.stepNo ∧ (segOf m.body).attempt = s.attempt ∧ (segOf m.body).src = s.rank ∧ c ∈ s.conf.sent ∧ c.dst = m.src ∧
      (segOf c.body).kind = (segOf m.body).kind ∧ (segOf c.body).id = (segOf m.body).id) ∧
    ∃ (s : State) (m : Msg), s.member = true ∧ m.typ = 2 ∧ m.opc = 1 ∧ m.vc = 0 ∧ s.st.run = none :=
  ⟨⟨{ stepping (duo .running) .reduce with conf := { Conf.reset with sent := [{ msg 3 0 10 (segBody 0 0 1 0 []) with src := 0, dst := 1 }] } },
    msg 2 1 0 ([0, 0, 0, 0, 0, 2, 0, 0] ++ zeros 24), { msg 3 0 10 (segBody 0 0 1 0 []) with src := 0, dst := 1 }, by decide⟩,
   duo .loaded, msg 2 1 0 (zeros 32), by decide⟩

theorem witness_BlockSums_fp32 : ∃ (xs : List Nat), xs = [0x3F800000, 0x33800000] ∧ (∀ x ∈ xs, (fp32.decode x).finite = true) ∧
    ∃ ys : List Nat, (∃ x ∈ ys, fp32.decode x = .inf false) ∧ ∃ x ∈ ys, fp32.decode x = .inf true :=
  ⟨_, rfl, by decide +kernel, [0x7F800000, 0xFF800000], ⟨_, List.mem_cons_self .., by decide +kernel⟩, _, List.mem_cons_of_mem _ (List.mem_singleton.mpr rfl), by decide +kernel⟩

theorem witness_BlockSums : ∃ (cs : List (List Int × Nat)) (e : Nat) (t : List Int), sumAt cs e = some t :=
  ⟨[(List.replicate 32 127, 5), (List.replicate 32 (-128), 6)], 5, List.replicate 32 (-129), by decide +kernel⟩

/-! ### Mirroring and recovery -/


/-- Rank 0 of two, holding the whole image of rank 1. -/
def holder (m : MState) : State :=
  { duo m with mir := { Mirror.reset with held := [{ owner := 1, part := 0, complete := true, sum := 9, pend := [], last := none, acked := false, copy := [], copyLast := none }] } }

/-- A mirror message for the part 0 of an owner, at offset 8 of its image. -/
def mirBody (owner : Nat) (rest : List Byte) : List Byte := mirrorHeader 0 0 0 owner 8 ++ rest

/-- Conditions that the statement of mirror traffic sets on the message. -/
abbrev mirrors (s : State) (m : Msg) (opc : Nat) : Prop := s.member = true ∧ s.prog.isSome = true ∧ m.typ = 8 ∧ m.vc = 1 ∧ m.opc = opc

theorem witness_MirrorTraffic_otherDelta : ∃ (s : State) (m : Msg), mirrors s m 0 ∧ s.st.run.isSome = true ∧ field m.body 4 1 ≠ s.attempt :=
  ⟨stepping (holder .running) .mirror, msg 8 0 1 (mirrorHeader 0 255 0 1 0 ++ [1]), by decide⟩

theorem witness_MirrorTraffic_delta : (∃ (s : State) (m : Msg), mirrors s m 0 ∧
      s.st.run.isSome = true ∧ field m.body 0 4 = s.st.stepNo ∧ field m.body 4 1 = s.attempt ∧ s.partHeld (field m.body 6 2) = some (field m.body 5 1) ∧
      m.last = false) ∧
    ∃ (s : State) (m : Msg), mirrors s m 0 ∧
      s.st.run.isSome = true ∧ field m.body 0 4 = s.st.stepNo ∧ field m.body 4 1 = s.attempt ∧ s.partHeld (field m.body 6 2) = some (field m.body 5 1) ∧
      (s.heldPart 1).complete = true ∧ m.last = true ∧ some (field m.body 8 8) = some (runBytesTotal (s.heldPart 1).pend) :=
  ⟨⟨stepping (holder .running) .mirror, msg 8 0 1 (mirBody 1 [1]), by decide⟩,
   stepping (holder .running) .mirror, msg 8 0 1 (mirrorHeader 0 0 0 1 0) false true, by decide⟩

theorem witness_MirrorTraffic_otherCopy : (∃ (s : State) (m : Msg), mirrors s m 3 ∧ s.loadWait = none ∧ s.partHeld (field m.body 6 2) ≠ some (field m.body 5 1)) ∧
    ∃ (s : State) (m : Msg), mirrors s m 3 ∧ s.loadWait.isSome = true :=
  ⟨⟨holder .loaded, msg 8 3 1 (mirrorHeader 0 0 0 0 0), by decide⟩,
   { holder .loaded with loadWait := some { ring := 0, prog := program, inits := [] } }, msg 8 3 1 (mirBody 1 [1]), by decide⟩

theorem witness_MirrorTraffic_copy : (∃ (s : State) (m : Msg), mirrors s m 3 ∧ s.loadWait = none ∧
      s.partHeld (field m.body 6 2) = some (field m.body 5 1) ∧ m.last = false ∧ s.recov.remirror = false ∧ (s.heldPart (field m.body 6 2)).copyLast = some (runBytesTotal ((s.heldPart (field m.body 6 2)).copy ++ [(field m.body 8 8, m.body.drop 16)]))) ∧
    ∃ (s : State) (m : Msg), mirrors s m 3 ∧ s.loadWait = none ∧ s.partHeld (field m.body 6 2) = some (field m.body 5 1) ∧ m.last = true ∧
      s.recov.remirror = false ∧ field m.body 8 8 = runBytesTotal (s.heldPart (field m.body 6 2)).copy :=
  ⟨⟨{ duo .loaded with mir := { Mirror.reset with held := [{ owner := 1, part := 0, complete := true, sum := 0, pend := [], last := none, acked := false, copy := [], copyLast := some 2 }] } },
    msg 8 3 1 (mirBody 1 [1, 2]), by decide⟩,
   holder .loaded, msg 8 3 1 (mirrorHeader 0 0 0 1 0) false true, by decide⟩

/-- Rank 0 that waits for the acknowledgement of its part 0: checksum 5 of 3 bytes. -/
def awaitsAck (s : State) (resent : Bool) : State :=
  { s with mir := { Mirror.reset with acks := [{ part := 0, sum := 5, bytes := 3, acked := false, resent := resent }] } }

/-- An acknowledgement of that part. -/
def ackOf (owner sum bytes : Nat) : Msg := msg 8 1 1 (mirrorHeader 0 0 0 owner sum ++ leBytes 8 bytes)

/-- Conditions on an acknowledgement of an own part that is waited for. -/
abbrev acks (s : State) (m : Msg) (a : MirAck) : Prop :=
  mirrors s m 1 ∧ m.resp = false ∧ s.mir.acks.find? (fun a => a.part == field m.body 5 1 && !a.acked) = some a ∧ field m.body 6 2 = s.rank ∧
  (s.holders s.rank)[field m.body 5 1]? = some m.src

theorem witness_MirrorTraffic_ack : (∃ (s : State) (m : Msg), mirrors s m 1 ∧ m.resp = false ∧ field m.body 6 2 ≠ s.rank) ∧
    (∃ (s : State) (m : Msg) (a : MirAck), acks s m a ∧ field m.body 8 8 = a.sum ∧ field m.body 16 8 = a.bytes ∧
      ∀ y ∈ s.mir.acks, y.part ≠ field m.body 5 1 → y.acked = true) ∧
    (∃ (s : State) (m : Msg) (a : MirAck), acks s m a ∧ field m.body 8 8 ≠ a.sum ∧ (s.st.run.elim false fun r => r.phase == .mirror) = false) ∧
    ∃ (s : State) (m : Msg) (a : MirAck), acks s m a ∧ field m.body 8 8 ≠ a.sum ∧ (s.st.run.elim false fun r => r.phase == .mirror) = true ∧ a.resent = true :=
  ⟨⟨awaitsAck (duo .loaded) false, ackOf 1 5 3, by decide⟩, ⟨awaitsAck (duo .loaded) false, ackOf 0 5 3, ⟨0, 5, 3, false, false⟩, by decide⟩,
   ⟨awaitsAck (duo .loaded) true, ackOf 0 6 3, ⟨0, 5, 3, false, true⟩, by decide⟩,
   awaitsAck (stepping (duo .running) .mirror) true, ackOf 0 6 3, ⟨0, 5, 3, false, true⟩, by decide⟩

theorem witness_MirrorTraffic_exposed : ∃ (s : State) (m : Msg), mirrors s m 1 ∧ m.resp = false ∧ s.recov.exposedAt = some m.src ∧ field m.body 6 2 = s.rank ∧
    s.mir.acks.find? (fun a => a.part == field m.body 5 1 && !a.acked) = none ∧ s.recov.exposed = true :=
  ⟨{ duo .loaded with recov := { State.reset.recov with exposed := true, exposedAt := some 1 } }, ackOf 0 0 0, by decide⟩

theorem witness_MirrorTraffic_reported : (awaitsAck (stepping (duo .running) .mirror) true).reportTo ≠ [] ∧
    (awaitsAck (duo .loaded) false).st.run = none ∧ (∃ a, a ∈ (awaitsAck (duo .loaded) false).mir.acks ∧ a.resent = false) := by
  refine ⟨by decide, rfl, _, List.mem_singleton.mpr rfl, rfl⟩

theorem witness_MirrorTraffic_pull : (∃ (s : State) (m : Msg), mirrors s m 2 ∧ m.resp = false ∧ (s.heldPart (field m.body 6 2)).complete = false) ∧
    ∃ (s : State) (m : Msg), mirrors s m 2 ∧ m.resp = false ∧ s.partHeld (field m.body 6 2) = some (field m.body 5 1) ∧
      (s.heldPart (field m.body 6 2)).complete = true :=
  ⟨⟨{ duo .loaded with mir := { Mirror.reset with held := [{ (default : MirPart) with owner := 1 }] } }, msg 8 2 1 (mirBody 1 []), by decide⟩,
   holder .loaded, msg 8 2 1 (mirBody 1 []), by decide⟩

/-- A module with an image of 32 bytes that pulls its part 0 from rank 1. -/
def pulling (again repair : Bool) : State :=
  { duo .loaded with
    prog := some { program with place := { place with mirrored := [{ base := 0x500000, len := 8 }], carried := { base := 0x4000, len := 24 } } }
    mir := { Mirror.reset with pulls := [{ owner := 0, part := 0, holder := 1, again := again, repair := repair, fin := false }] } }

/-- Conditions on a pull's reply to this rank. -/
abbrev pulls (s : State) (m : Msg) (k : Nat) (x : Pull) (last : Bool) : Prop :=
  mirrors s m 2 ∧ m.resp = true ∧ s.mach.rank = some k ∧ k = field m.body 6 2 ∧ m.last = last ∧
  s.mir.pulls.find? (fun x => x.owner == k && x.part == field m.body 5 1 && !x.fin) = some x

theorem witness_MirrorTraffic_ownReply : (∃ (s : State) (m : Msg) (k : Nat), mirrors s m 2 ∧ m.resp = true ∧ s.mach.rank = some k ∧ k = field m.body 6 2 ∧
      s.mir.pulls.find? (fun x => x.owner == k && x.part == field m.body 5 1 && !x.fin) = none) ∧
    (∃ (s : State) (m : Msg) (k : Nat) (x : Pull) (rs : List Region) (at_ : Nat), pulls s m k x false ∧ rs = s.imageRegions s.st.wEpoch ∧ at_ = imageOffset 0 (field m.body 8 8) ∧
      (∀ i < 2, ∀ j < 2, imageAddr rs (at_ + i) = imageAddr rs (at_ + j) → imageAddr rs (at_ + i) ≠ none → i = j) ∧ imageAddr rs (at_ + 1) = some 0x4001) ∧
    (∃ (s : State) (m : Msg) (k : Nat) (x : Pull), pulls s m k x true ∧ x.repair = true) ∧
    (∃ (s : State) (m : Msg) (k : Nat) (x : Pull), pulls s m k x true ∧ x.repair = false ∧ s.partSum 0 = field m.body 8 8) ∧
    (∃ (s : State) (m : Msg) (k : Nat) (x : Pull), pulls s m k x true ∧ x.repair = false ∧ s.partSum 0 ≠ field m.body 8 8 ∧ x.again = false) ∧
    ∃ (s : State) (m : Msg) (k : Nat) (x : Pull), pulls s m k x true ∧ x.repair = false ∧ s.partSum 0 ≠ field m.body 8 8 ∧ x.again = true :=
  ⟨⟨holder .loaded, msg 8 2 1 (mirBody 0 []) true, 0, by decide⟩,
   ⟨pulling false false, msg 8 2 1 (mirBody 0 [1, 2]) true, 0, ⟨0, 0, 1, false, false, false⟩, [⟨0x500000, 8⟩, ⟨0x4000, 24⟩], 8, by decide⟩,
   ⟨pulling false true, msg 8 2 1 (mirBody 0 []) true true, 0, ⟨0, 0, 1, false, true, false⟩, by decide⟩,
   ⟨pulling false false, msg 8 2 1 (mirrorHeader 0 0 0 0 0) true true, 0, ⟨0, 0, 1, false, false, false⟩, by decide⟩,
   ⟨pulling false false, msg 8 2 1 (mirBody 0 []) true true, 0, ⟨0, 0, 1, false, false, false⟩, by decide⟩,
   pulling true false, msg 8 2 1 (mirBody 0 []) true true, 0, ⟨0, 0, 1, true, false, false⟩, by decide⟩

theorem witness_MirrorTraffic_handed : ∀ last : Bool, ∃ (s : State) (m : Msg), mirrors s m 2 ∧ m.resp = true ∧ m.last = last ∧ s.mach.rank ≠ some (field m.body 6 2) ∧
    s.partHeld (field m.body 6 2) = some (field m.body 5 1) := fun last => ⟨duo .loaded, msg 8 2 1 (mirBody 1 [7]) true last, by cases last <;> decide⟩

theorem witness_MirrorTraffic_sums : ∃ a b : List (Nat × List Byte), a.Perm b ∧ a ≠ b := ⟨[(0, [1]), (1, [2])], [(1, [2]), (0, [1])], by decide⟩

/-- A control message from rank 1: a code, the attempt, a rank and a position. -/
def ctl (code attempt rank pos : Nat) : Msg := { controlMsg 0 0 attempt code rank pos 9 with src := 1 }

/-- A step replayed after an ABORT, and a module that holds no rank. -/
def replayRun : StepRun := { inStep .waitStart with attempt := 0, replays := 1, prior := some .indexRange }
def rankless : State := { duo .joined with mach := { (duo .joined).mach with rank := none } }

theorem witness_AbortsReplay_abort : (∃ (s : State) (m : Msg), s.control cAbort m = true ∧ s.holdFull = true) ∧
    (∃ (s : State) (m : Msg) (r : StepRun), s.control cAbort m = true ∧ s.holdFull = false ∧ s.st.run = some r ∧ field m.body 0 4 = s.st.stepNo ∧ field m.body 4 1 = r.attempt) ∧
    (∃ (s : State) (m : Msg) (r : StepRun), s.control cAbort m = true ∧ s.holdFull = false ∧ s.st.run = some r ∧ field m.body 4 1 ≠ r.attempt) ∧
    ∃ (s : State) (m : Msg), s.control cAbort m = true ∧ s.holdFull = false ∧ s.st.run = none ∧ s.mach.rank = none ∧
      s.st.lastAttempt ≠ some (field m.body 0 4, field m.body 4 1) :=
  ⟨⟨{ duo .running with host := { (duo .running).host with held := List.replicate 4096 (.event 1 []) } }, ctl cAbort 0 0 0, by
      refine ⟨by decide, ?_⟩
      simp only [State.holdFull, List.filter_replicate_of_pos, List.length_replicate, le_refl, decide_true]⟩,
   ⟨running (duo .running) { inStep .commit with attempt := 255 }, ctl cAbort 255 0 0, { inStep .commit with attempt := 255 }, by decide⟩,
   ⟨stepping (duo .running) .commit, ctl cAbort 255 0 0, inStep .commit, by decide⟩, rankless, ctl cAbort 0 0 0, by decide⟩

theorem witness_AbortsReplay_final : (∃ (s : State) (m : Msg) (r : StepRun), s.control cAbortFinal m = true ∧ s.st.run = some r ∧ field m.body 0 4 = s.st.stepNo ∧
      finalNames r (field m.body 4 1) = true ∧ (s.ring r.ring).busy.isSome = true ∧ s.st.waiting = [] ∧ s.st.acts = [] ∧
      faultIn r (field m.body 4 1) = some .indexRange ∧ field m.body 4 1 ≠ r.attempt) ∧
    (∃ (s : State) (m : Msg) (r : StepRun), s.control cAbortFinal m = true ∧ s.st.run = some r ∧ finalNames r (field m.body 4 1) = false) ∧
    ∃ (s : State) (m : Msg), s.control cAbortFinal m = true ∧ s.st.run = none ∧ s.mach.rank = none :=
  ⟨⟨busied (running (duo .running) replayRun) stepD, ctl cAbortFinal 255 0 0, replayRun, by decide⟩,
   ⟨stepping (duo .running) .commit, ctl cAbortFinal 255 0 0, inStep .commit, by decide⟩, rankless, ctl cAbortFinal 0 0 0, by decide⟩

theorem witness_AbortsReplay_undo : ∃ s : State, s.st.undo = [] := ⟨State.reset, rfl⟩

/-- A failure report from rank 1 of step 0: the attempt, the class, the cause and the suspect. -/
def report (attempt cls cause : Nat) (suspect : Nat := 0) : Msg :=
  msg 1 2 0 (zeros 12 ++ leBytes 1 attempt ++ leBytes 1 cls ++ leBytes 1 cause ++ zeros 1 ++ leBytes 2 suspect ++ zeros 6)

/-- Conditions on a failure report. -/
abbrev reports (s : State) (m : Msg) (stale : Bool) : Prop := s.member = true ∧ m.typ = 1 ∧ m.opc = 2 ∧ m.vc = 0 ∧ s.stale (reportOf m) = stale

/-- Rank 1 of two in a step. -/
def second : State := { stepping (duo .running) .forward with mach := { (duo .running).mach with rank := some 1 } }

theorem witness_FailuresDecided_kept : (∃ (s : State) (m : Msg), reports s m true) ∧
    (∃ (s : State) (m : Msg) (v : Survey), reports s m false ∧ s.coordinates = false ∧
      ({ s with recov := { s.recov with reports := s.recov.reports ++ [reportOf m] } } : State).namesLost v (reportOf m) = false) ∧
    ∃ (s : State) (m : Msg) (v : Survey) (q : Nat), reports s m false ∧ s.coordinates = false ∧
      ({ s with recov := { s.recov with reports := s.recov.reports ++ [reportOf m] } } : State).namesLost v (reportOf m) = true ∧ s.rankHeld (reportOf m).suspect = some q :=
  ⟨⟨running (duo .running) { inStep .forward with attempt := 1 }, report 0 1 4, by decide⟩, ⟨second, report 0 1 4, default, by decide⟩,
   second, report 0 2 1 1, default, 1, by decide⟩

theorem witness_FailuresDecided_abort : (∃ (s : State) (m : Msg) (r : StepRun), reports s m false ∧ s.coordinates = true ∧ s.st.run = some r ∧
      s.begunAttempt = some (reportOf m).attempt ∧ (reportOf m).step = s.st.stepNo ∧ (reportOf m).cls = 1 ∧ s.recov.aborting ≠ some (reportOf m).attempt ∧
      s.replayLimit < r.replaysBy) ∧
    (∃ (s : State) (m : Msg) (r : StepRun), reports s m false ∧ s.coordinates = true ∧ s.st.run = some r ∧ r.phase = .waitStart ∧
      s.begunAttempt = some (reportOf m).attempt ∧ (reportOf m).step = s.st.stepNo ∧ (reportOf m).cls = 1 ∧ s.recov.aborting ≠ some (reportOf m).attempt) ∧
    ∃ (s : State) (m : Msg) (r : StepRun), reports s m false ∧ s.coordinates = true ∧ s.st.run = some r ∧
      s.begunAttempt = some (reportOf m).attempt ∧ (reportOf m).step = s.st.stepNo ∧ (reportOf m).cls = 3 :=
  ⟨⟨running (duo .running) { inStep .forward with replays := 4 }, report 0 1 4, { inStep .forward with replays := 4 }, by decide⟩,
   ⟨running (duo .running) replayRun, report 255 1 4, replayRun, by decide⟩, stepping (duo .running) .forward, report 0 3 4, inStep .forward, by decide⟩

/-- Rank 0 of two whose commit barrier has completed. -/
def committing : State := { stepping (duo .running) .prepared with bar := Barrier.resetAll.set 2 { own := some (0, 0, 1), kids := [], up := true } }

/-- The coordinator between steps, after an ABORT of step 0 that ended it. -/
def aborted : State := { duo .loaded with st := { StepState.reset with lastAttempt := some (0, 0) } }

theorem witness_FailuresDecided_ends : (∃ (s : State) (m : Msg), reports s m false ∧ s.coordinates = true ∧ s.regs.recovery.ok = true ∧ s.rootCommits = true ∧ (reportOf m).cls = 1) ∧
    (∃ (s : State) (m : Msg), reports s m false ∧ s.coordinates = true ∧ s.regs.recovery.ok = true ∧ s.st.run = none ∧ s.recov.fallback = false ∧
      s.st.lastAttempt = some (s.st.stepNo, (reportOf m).attempt) ∧ (reportOf m).step = s.st.stepNo ∧ (reportOf m).cls = 1 ∧
      s.recov.aborting ≠ some (reportOf m).attempt ∧ s.liveRanks ≠ []) ∧
    ∃ (s : State) (m : Msg) (v : Survey), reports s m false ∧ s.coordinates = true ∧ s.regs.recovery.ok = false ∧
      ({ s with recov := { s.recov with reports := s.recov.reports ++ [reportOf m] } } : State).namesLost v (reportOf m) = false :=
  ⟨⟨committing, report 0 1 4, by decide⟩, ⟨aborted, report 0 1 4, by decide⟩,
   { stepping (duo .running) .forward with regs := { State.reset.regs with recovery := odd } }, report 0 1 4, default, by decide⟩

theorem witness_FailuresDecided_probe : (∃ (s : State) (m : Msg), s.member = true ∧ s.control cProbe m = true) ∧
    ∃ (s : State) (m : Msg), s.member = true ∧ s.control cAck m = true := ⟨⟨duo .loaded, ctl cProbe 0 0 0, by decide⟩, duo .loaded, ctl cAck 0 0 0, by decide⟩

/-- The coordinator that waits for the answer of rank 1. -/
def probed (s : State) : State := { s with recov := { s.recov with probing := [1] } }

theorem witness_FailuresDecided_timeout : (∃ (s : State) (k : Nat), s.member = true ∧ s.coordinates = true ∧ k ∉ s.recov.probing) ∧
    (∃ (s : State) (k pos : Nat) (v : Survey), s.member = true ∧ s.coordinates = true ∧ s.recov.probing.contains k = true ∧ k < 2 ^ 16 ∧
      s.regs.recovery.ok = true ∧ (s.markLost k).eligible v k = some pos) ∧
    (∃ (s : State) (k : Nat), s.member = true ∧ s.coordinates = true ∧ s.recov.probing.contains k = true ∧ 2 ^ 16 ≤ k) ∧
    (∃ (s : State) (k : Nat), s.member = true ∧ s.coordinates = true ∧ s.recov.probing.contains k = true ∧ k < 2 ^ 16 ∧ s.regs.recovery.ok = false) ∧
    ∃ (s : State) (k : Nat) (v : Survey), s.member = true ∧ s.coordinates = true ∧ s.recov.probing.contains k = true ∧ k < 2 ^ 16 ∧ s.regs.recovery.ok = true ∧
      (s.markLost k).eligible v k = none :=
  ⟨⟨duo .loaded, 1, by decide⟩, ⟨probed (spared .loaded), 1, 4, found (spared .loaded), by decide +kernel⟩,
   ⟨{ duo .loaded with recov := { State.reset.recov with probing := [2 ^ 16 + 4] } }, 2 ^ 16 + 4, by decide⟩,
   ⟨{ probed (duo .loaded) with regs := { State.reset.regs with recovery := odd } }, 1, by decide⟩, probed (duo .loaded), 1, found (duo .loaded), by decide +kernel⟩

/-- Conditions on SUBSTITUTE. -/
abbrev substitutes (s : State) (m : Msg) (k pos : Nat) : Prop :=
  s.control cSubstitute m = true ∧ k = field m.body 6 2 ∧ pos = field m.body 8 2 ∧ s.holdFull = false

theorem witness_Substitution_moved : ∃ (s : State) (m : Msg) (k pos : Nat), substitutes s m k pos ∧ s.mach.rank = some k ∧ s.ms.position ≠ pos :=
  ⟨duo .loaded, ctl cSubstitute 0 0 4, 0, 4, by decide⟩

theorem witness_Substitution_done : (∃ (s : State) (m : Msg) (k pos : Nat), substitutes s m k pos ∧ s.mach.rank ≠ some k ∧ k = s.ranks) ∧
    ∃ (s : State) (m : Msg) (k pos : Nat), substitutes s m k pos ∧ s.mach.rank ≠ some k ∧ nth 0 s.mach.ranks k = pos :=
  ⟨⟨duo .loaded, ctl cSubstitute 0 2 4, 2, 4, by decide⟩, duo .loaded, ctl cSubstitute 0 1 1, 1, 1, by decide⟩

theorem witness_Substitution_taken : (∃ (s : State) (m : Msg) (k pos : Nat), substitutes s m k pos ∧ s.mach.rank ≠ some k ∧ s.mach.rank.isSome = true ∧
      k < s.ranks ∧ nth 0 s.mach.ranks k ≠ pos) ∧
    ∃ (s : State) (m : Msg) (k pos : Nat), substitutes s m k pos ∧ s.mach.rank = none ∧ s.ms.position = pos ∧ s.abortFirst m = false ∧ k < s.ranks ∧ nth 0 s.mach.ranks k ≠ pos :=
  ⟨⟨duo .loaded, ctl cSubstitute 0 1 4, 1, 4, by decide⟩, { rankless with ms := { rankless.ms with position := 4 } }, ctl cSubstitute 0 1 4, 1, 4, by decide⟩

theorem witness_Substitution_waits : (∃ (s : State) (m : Msg), s.control cSubstitute m = true ∧ s.mach.rank ≠ some (field m.body 6 2) ∧ s.holdFull = true) ∧
    ∃ (s : State) (m : Msg), s.control cSubstitute m = true ∧ s.mach.rank = none ∧ s.ms.position = field m.body 8 2 ∧ s.abortFirst m = true :=
  ⟨⟨fullHold (duo .loaded), ctl cSubstitute 0 1 4, by decide, by decide, fullHold_full _⟩, { rankless with ms := { rankless.ms with position := 4 } }, ctl cSubstitute 1 1 4,
   by decide⟩

/-- A spare with the program, its owner table apart from its mirror regions. -/
def spareIn : State :=
  { rankless with
    ms := { rankless.ms with position := 4 }
    mach := { rankless.mach with ranks := [0, 1, 2] }
    prog := some { program with
      decl := { decl with mirrorImage := 3, partTable := some [0, 1, 2, 0] }
      place := { place with partTable := 0x7000, mirror := [0x10000400000, 0x10000410001] } } }

theorem witness_Substitution_image : (match exec (.substitute (ctl cSubstitute 0 1 4)) spareIn with
    | .next t => (t.holders 1).length == 1 && (t.holders 1).all (fun o => !overlaps { base := t.mirrorBase o, len := t.heldLen ((t.partHeld o).getD 0) }
        { base := 0x7000, len := (ownerTable (spareIn.decl.getD decl)).length }) && (ownerTable (spareIn.decl.getD decl)).length == 8
    | _ => false) = true := by decide +kernel

/-- 10 R257: a member that installs a rank's new position arrives at a FLOOR barrier. -/
theorem test_substitute_floor : (match exec (.substitute (ctl cSubstitute 0 1 4)) (duo .loaded) with
    | .next t => (t.barrier bFloor).own
    | _ => none) = some (0, 0, (duo .loaded).levels) := by decide +kernel

theorem witness_Substitution_fallback : (∃ (s : State) (m : Msg) (r : StepRun), s.control cFallback m = true ∧ s.st.run = some r ∧ (s.ring r.ring).busy.isSome = true) ∧
    ∃ (s : State) (m : Msg) (e : EvalRun), s.control cFallback m = true ∧ s.st.run = none ∧ s.st.evals = [e] ∧ (s.ring e.ring).busy.isSome = true :=
  ⟨⟨busied (stepping (duo .running) .gather) stepD, ctl cFallback 0 0 0, inStep .gather, by decide⟩,
   busied (evaluating (duo .running) { evalRun false 0 with ring := 0 }) evalD, ctl cFallback 0 0 0, { evalRun false 0 with ring := 0 }, by decide⟩

theorem witness_Substitution_loses : ∃ (s : State) (m : Msg) (w : Nat × Nat × Nat), s.control cFallback m = true ∧ s.st.run = none ∧ s.st.evals = [] ∧ s.st.reserving = none ∧
    s.st.applied = [] ∧ s.mir.waiting = [w] ∧ (s.ring w.1).busy.isSome = true :=
  ⟨{ busied (duo .loaded) (desc 0x0B []) with mir := { Mirror.reset with waiting := [(0, 0, 5)] } }, ctl cFallback 0 0 0, (0, 0, 5), by decide⟩

/-! ### Yenos Link and memory tiers -/

/-- The identity frame of position 1's port 2, of a map whose hash is 0. -/
def frame : List Byte :=
  let b := leBytes 2 1 ++ [2, 0, 0x32, 0x10] ++ zeros 54
  b ++ leBytes 4 (crc32c b)

/-- Sixty-four frames of which 33 agree. -/
def copies : List (List Byte) := List.replicate 33 frame ++ List.replicate 31 (zeros 64)

/-- Port 0 in training, its neighbour checked or not. -/
def trainingPort (checked : Bool) : State := port0 (duo .ready) { Port.reset true with st := .training, checked := checked }

theorem witness_PortsTrain_retry : (∃ (s : State) (p : Nat), s.describes p = false) ∧
    ∃ (s : State) (p : Nat), s.trains = true ∧ s.describes p = true ∧ (s.port p).st = .down := ⟨⟨duo .ready, 1, by decide⟩, duo .ready, 0, by decide⟩

theorem witness_PortsTrain_other : ∃ (s : State) (p : Nat), s.trains = true ∧ (s.port p).st ≠ .training := ⟨duo .ready, 0, by decide⟩

/-- The same port, its module holding a map of another number. -/
def otherMap : State := { trainingPort false with ms := { (trainingPort false).ms with map := some { imap with mapId := 1 } } }

theorem witness_PortsTrain_frame : (∃ (s : State) (p : Nat) (c : List (List Byte)), s.trains = true ∧ (s.port p).st = .training ∧ takenFrame c = none) ∧
    (∃ (s : State) (p : Nat) (f : List Byte), s.trains = true ∧ (s.port p).st = .training ∧ takenFrame copies = some f ∧ s.frameReason p f = none) ∧
    ∃ (s : State) (p : Nat) (f : List Byte) (x : Nat), s.trains = true ∧ (s.port p).st = .training ∧ takenFrame copies = some f ∧ s.frameReason p f = some x ∧
      s.holdFull = false :=
  ⟨⟨trainingPort false, 0, [], by decide⟩, ⟨trainingPort false, 0, frame, by decide +kernel⟩,
   otherMap, 0, frame, 3, by decide +kernel⟩

theorem witness_PortsTrain_waits : ∃ (s : State) (p : Nat) (f : List Byte), (s.trains = true ∧ (s.port p).st = .training ∧ takenFrame copies = some f ∧
    (s.frameReason p f).isSome = true ∧ (s.port p).lastBad ≠ some f) ∧ s.holdFull = true :=
  ⟨fullHold otherMap, 0, frame, by decide +kernel, fullHold_full _⟩

/-- Tests of 24 lanes in which a number of lanes show 10 errors and the rest 11, credits of eight flits. -/
def lanes (n : Nat) : LaneTest := { errors := List.replicate n 10 ++ List.replicate (24 - n) 11, far := 0xFFFFFF, credits := List.replicate 12 8 }

/-- A flit sent with a SEQ and not acknowledged. -/
def unacked (seq : Nat) : Nat × TxFlit := (seq, { msg := msg 6 3 0 (zeros 16), flit := [0x01, 0x03] })

theorem witness_PortsTrain_complete : (∃ (s : State) (p : Nat), s.trains = true ∧ (s.port p).st = .training ∧ (s.port p).checked = false) ∧
    (∃ (s : State) (p : Nat) (r : LaneTest), s.trains = true ∧ (s.port p).st = .training ∧ (s.port p).checked = true ∧ passCount (lanesPassing r) = 8 ∧ s.net.unrouted = []) ∧
    (∃ (s : State) (p : Nat) (r : LaneTest), s.trains = true ∧ (s.port p).st = .training ∧ (s.port p).checked = true ∧ passCount (lanesPassing r) = 8 ∧
      (s.port p).retraining = true ∧ (s.port p).replay ≠ []) ∧
    ∃ (s : State) (p : Nat) (r : LaneTest), s.trains = true ∧ (s.port p).st = .training ∧ (s.port p).checked = true ∧ passCount (lanesPassing r) = 7 :=
  ⟨⟨trainingPort false, 0, by decide⟩, ⟨trainingPort true, 0, lanes 8, by decide⟩,
   ⟨port0 (duo .ready) { Port.reset true with st := .training, checked := true, retraining := true, replay := [unacked 4] }, 0, lanes 8, by decide⟩, trainingPort true, 0, lanes 7, by decide⟩

theorem witness_PortsTrain_again : (∃ (s : State) (p : Nat), s.trains = true ∧ (s.port p).retraining = false) ∧
    ∃ (s : State) (p : Nat), s.trains = true ∧ (s.port p).retraining = true ∧ (s.port p).st ≠ .up :=
  ⟨⟨duo .loaded, 0, by decide⟩, port0 (duo .loaded) { Port.reset true with st := .training, retraining := true }, 0, by decide⟩

/-- Port 0 UP on eight lanes, and a member of two ranks with it. -/
def linked : State :=
  port0 (duo .loaded) { Port.reset true with st := .up, width := 8, active := 0xFF, passed := 0x1FF, rxSeq := 65535, credits := List.replicate 12 8, adv := List.replicate 12 8 }

/-- A flit that carries a whole message of 16 bytes to this rank, with SEQ 0. -/
def wholeFlit : List Byte := mkFlit 0 1 3 0 0 0 0 (msgBytes { msg 6 3 0 (zeros 16) with id := 1 })

/-- A flit of another kind. -/
def idleFlit : List Byte := mkFlit 0 0 0 0 0 0 0 []

theorem wholeFlit_ok : flitOk wholeFlit = true := by
  have h : crcOk wholeFlit 256 = true := mkFlit_crcOk _ _ _ _ _ _ _ _
  have h2 : wholeFlit.length = 256 := length_mkFlit _ _ _ _ _ _ _ _
  have h3 : (decide (bits (field wholeFlit 0 1) 0 4 ≤ 2) && decide (flitVc wholeFlit ≤ 11) && bits (field wholeFlit 1 1) 3 5 == 0 &&
      bits (field wholeFlit 6 1) 0 4 == 0 && field wholeFlit 10 2 == 0 && decide (field wholeFlit 8 2 ≤ 240)) = true := by decide
  simpa [flitOk, h, h2] using h3

theorem idleFlit_ok : flitOk idleFlit = true := by
  have h : crcOk idleFlit 256 = true := mkFlit_crcOk _ _ _ _ _ _ _ _
  have h2 : idleFlit.length = 256 := length_mkFlit _ _ _ _ _ _ _ _
  have h3 : (decide (bits (field idleFlit 0 1) 0 4 ≤ 2) && decide (flitVc idleFlit ≤ 11) && bits (field idleFlit 1 1) 3 5 == 0 &&
      bits (field idleFlit 6 1) 0 4 == 0 && field idleFlit 10 2 == 0 && decide (field idleFlit 8 2 ≤ 240)) = true := by decide
  simpa [flitOk, h, h2] using h3

theorem witness_FlitsArrive_other : ∃ (s : State) (p : Nat), s.trains = true ∧ (s.port p).st ≠ .up := ⟨linked, 1, by decide⟩

theorem witness_FlitsArrive_bad : (∃ (s : State) (p : Nat) (f : List Byte), s.trains = true ∧ (s.port p).st = .up ∧ (false && flitOk f) = false ∧ s.generates p = false) ∧
    (∃ (s : State) (p : Nat) (f : List Byte), s.trains = true ∧ (s.port p).st = .up ∧ (true && flitOk f) = false ∧ s.generates p = false) ∧
    (∀ n ∈ [30, 31], ([List.range n].all fun (l : List Nat) => decide (((List.range 560).filter fun i => l.contains i).length ≤ 30)) = decide (n = 30)) ∧
    ∀ sent : Bool, ∃ (s : State) (p : Nat) (f : List Byte), s.trains = true ∧ (s.port p).st = .up ∧ (true && flitOk f) = true ∧
      bits (field f 0 1) 0 4 = 1 ∧ field f 2 2 ≠ ((s.port p).rxSeq + 1) % 65536 ∧ (s.port p).nakSent = sent :=
  ⟨⟨linked, 0, [], by decide +kernel⟩, ⟨linked, 0, [], by decide +kernel⟩, by decide +kernel,
   fun sent => ⟨port0 linked { linked.port 0 with rxSeq := 0, nakSent := sent }, 0, wholeFlit, rfl, rfl, (Bool.true_and _).trans wholeFlit_ok, by decide, by cases sent <;> decide, rfl⟩⟩

theorem witness_FlitsArrive_message : ∃ (s : State) (p : Nat) (f : List Byte) (m : Msg), s.trains = true ∧ (s.port p).st = .up ∧ (true && flitOk f) = true ∧
    bits (field f 0 1) 0 4 = 1 ∧ field f 2 2 = ((s.port p).rxSeq + 1) % 65536 ∧ bits (field f 1 1) 0 2 = 3 ∧
    msgOf (flitVc f) (slice f 12 (field f 8 2)) = some m ∧ m.typ ≠ 7 ∧ s.mach.rank = some m.dst ∧ s.member = true ∧
    headerReservedOk s.spareRank (slice f 12 (field f 8 2)) = true ∧ msgAllowed m = true ∧
    ((s.net.dup.get DupRec.fresh (m.src * 16 + flitVc f)).accept m.id).1 = true :=
  ⟨linked, 0, wholeFlit, { msg 6 3 0 (zeros 16) with id := 1 }, by decide, by decide, (Bool.true_and _).trans wholeFlit_ok, by decide⟩

theorem witness_FlitsArrive_again : ∃ (s : State) (p : Nat) (f : List Byte) (m : Msg), s.trains = true ∧ (s.port p).st = .up ∧ (true && flitOk f) = true ∧
    bits (field f 0 1) 0 4 = 1 ∧ field f 2 2 = ((s.port p).rxSeq + 1) % 65536 ∧ bits (field f 1 1) 0 2 = 3 ∧
    msgOf (flitVc f) (slice f 12 (field f 8 2)) = some m ∧ m.typ ≠ 7 ∧ s.mach.rank = some m.dst ∧ s.member = true ∧
    headerReservedOk s.spareRank (slice f 12 (field f 8 2)) = true ∧ msgAllowed m = true ∧
    ((s.net.dup.get DupRec.fresh (m.src * 16 + flitVc f)).accept m.id).1 = false ∧ s.comesAgain m = true :=
  ⟨{ linked with net := { linked.net with dropped := [{ msg 6 3 0 (zeros 16) with id := 1 }], dup := [(16, { high := 1, marks := [1] })] } }, 0, wholeFlit,
   { msg 6 3 0 (zeros 16) with id := 1 }, by decide, by decide, (Bool.true_and _).trans wholeFlit_ok, by decide⟩

/-- A NAK after a flit of SEQ 3. -/
def nakOf3 : List Byte := mkFlit 0 2 4 0 3 0 0 []

theorem nakOf3_ok : flitOk nakOf3 = true := by
  have h : crcOk nakOf3 256 = true := mkFlit_crcOk _ _ _ _ _ _ _ _
  have h2 : nakOf3.length = 256 := length_mkFlit _ _ _ _ _ _ _ _
  have h3 : (decide (bits (field nakOf3 0 1) 0 4 ≤ 2) && decide (flitVc nakOf3 ≤ 11) && bits (field nakOf3 1 1) 3 5 == 0 &&
      bits (field nakOf3 6 1) 0 4 == 0 && field nakOf3 10 2 == 0 && decide (field nakOf3 8 2 ≤ 240)) = true := by decide
  simpa [flitOk, h, h2] using h3

/-- Port 0 UP with flits sent and not acknowledged, and a number of tries at the first. -/
def resending (seqs : List Nat) (tries : Nat) : State := port0 linked { linked.port 0 with replay := seqs.map unacked, tries := tries }

/-- Conditions on a NAK that leaves flits to be sent again. -/
abbrev naks (s : State) (acked : Nat) (l : List (Nat × TxFlit)) : Prop :=
  bits (field nakOf3 0 1) 0 4 ≠ 1 ∧ acked = ackedCount (s.port 0).replay (field nakOf3 4 2) ∧ l = (s.port 0).replay.drop acked ∧ bits (field nakOf3 1 1) 2 1 = 1 ∧ l ≠ []

theorem witness_FlitsArrive_nak : (true && flitOk nakOf3) = true ∧
    (∃ s : State, s.trains = true ∧ (s.port 0).st = .up ∧ naks s 1 [unacked 4] ∧ (s.port 0).tries = 8 ∧ s.generates 0 = false) ∧
    (∃ s : State, s.trains = true ∧ (s.port 0).st = .up ∧ naks s 0 [unacked 4] ∧ (s.port 0).tries = 7) ∧
    ∃ s : State, s.trains = true ∧ (s.port 0).st = .up ∧ naks s 0 [unacked 4] ∧ (s.port 0).tries = 8 :=
  ⟨(Bool.true_and _).trans nakOf3_ok, ⟨resending [3, 4] 8, by decide +kernel⟩, ⟨resending [4] 7, by decide +kernel⟩, resending [4] 8, by decide +kernel⟩

theorem witness_FlitsArrive_idle : ∃ (s : State) (p : Nat) (f : List Byte), s.trains = true ∧ (s.port p).st = .up ∧ (true && flitOk f) = true ∧
    bits (field f 0 1) 0 4 ≠ 1 := ⟨linked, 0, idleFlit, by decide, by decide, (Bool.true_and _).trans idleFlit_ok, by decide⟩

/-- Conditions on a lane drop that leaves a width. -/
abbrev drops (s : State) (passing : BitVec 24) (w : Nat) : Prop :=
  s.trains = true ∧ (s.port 0).st = .up ∧ w = widthFor (passCount ((s.port 0).passed &&& passing))

theorem witness_FlitsArrive_lanes : (∃ (s : State) (passing : BitVec 24), drops s passing 8 ∧ (s.port 0).width = 8 ∧
      lowestLanes ((s.port 0).passed &&& passing) 8 ≠ (s.port 0).active ∧ (s.port 0).replay ≠ []) ∧
    (∃ (s : State) (passing : BitVec 24), drops s passing 8 ∧ (s.port 0).width = 16 ∧ s.holdFull = false) ∧
    (∃ (s : State) (passing : BitVec 24), drops s passing 8 ∧ (s.port 0).width = 16 ∧ s.holdFull = true) ∧
    ∃ (s : State) (passing : BitVec 24), drops s passing 0 :=
  ⟨⟨resending [4] 0, 0xFFFFFE, by decide +kernel⟩, ⟨port0 linked { linked.port 0 with width := 16 }, 0xFFFFFE, by decide +kernel⟩,
   ⟨fullHold (port0 linked { linked.port 0 with width := 16 }), 0xFFFFFE, by decide +kernel, by decide, fullHold_full _⟩, linked, 0xFFFFFC, by decide +kernel⟩

theorem witness_Heartbeats_port : (∃ (s : State) (p : Nat), s.trains = true ∧ (s.port p).st = .up) ∧
    (∃ (s : State) (n i : Nat) (d : List Byte), s.member = true ∧ (∀ p < 18, (s.port p).st ≠ .up) ∧ (s.ring n).busy = some (i, d) ∧ descOp d ≠ 0x04) ∧
    ∃ s : State, s.member = true ∧ ∃ p < 18, (s.port p).st = .up :=
  ⟨⟨linked, 0, by decide⟩, ⟨busied (duo .loaded) (copyD hostBuf hostBuf 8), 0, 0, _, by decide, by decide, rfl, by decide⟩, linked, by decide⟩

/-- A message sent, with a MSGID. -/
def sentMsg (id : Nat) : Msg := { msg 6 3 0 (zeros 16) with src := 0, dst := 1, id := id }

/-- Rank 0 that has sent it, the next MSGID being given. -/
def hasSent (id next : Nat) : State := { duo .loaded with net := { State.reset.net with sent := [sentMsg id], msgid := State.reset.net.msgid.set 0 16 next } }

/-- Conditions on a report of a lost message, and those of what was sent that go again. -/
abbrev lostAll (s : State) (id : Nat) (discarded : Bool) (l : List Msg) : Prop :=
  s.member = true ∧ l = s.net.sent.filter (fun m => m.dst == 1 && m.vc == 0 && m.id % 2 ^ 32 == id && s.sendsAgain discarded m) ∧
  (discarded = true ∨ ∀ m ∈ s.net.sent, m.dst = 1 → m.vc = 0 → m.id % 2 ^ 32 = id → s.stepTraffic m = false)

/-- That one goes again, and how many were sent there after it. -/
abbrev lostOne (s : State) (id : Nat) (m : Msg) (n : Nat) : Prop :=
  lostAll s id false [m] ∧ n = (s.net.msgid.get 0 (1 * 16 + 0) + 2 ^ 32 - id) % 2 ^ 32

theorem witness_Heartbeats_lost : (∃ (s : State) (id : Nat) (m : Msg), lostOne s id m 32768 ∧ m.id < 2 ^ 32 ∧ s.stepTraffic m = false ∧ s.routePort 1 = none) ∧
    (∃ (s : State) (id : Nat) (m : Msg), lostOne s id m 32769) ∧ (∃ (s : State) (id : Nat), lostAll s id false []) ∧
    (∃ (s : State) (id : Nat), lostAll s id true []) ∧
    ∃ (s : State) (m : Msg) (o : Nat), s.member = true ∧ m ∈ s.net.sent ∧ m.dst = 1 ∧ m.vc = 0 ∧ m.id % 2 ^ 32 = 7 ∧ s.stepTraffic m = true ∧ o ∈ s.reportTo :=
  ⟨⟨hasSent 7 32775, 7, sentMsg 7, by decide⟩, ⟨hasSent 7 32776, 7, sentMsg 7, by decide⟩, ⟨hasSent 7 8, 8, by decide⟩, ⟨hasSent 7 8, 7, by decide⟩,
   { stepping (duo .running) .prepared with net := { State.reset.net with sent := [{ sentMsg 7 with opc := 0 }] } }, { sentMsg 7 with opc := 0 }, 0, by decide⟩

theorem witness_Heartbeats_route : ∃ (s : State) (id q : Nat) (m : Msg), lostOne s id m 1 ∧ m.id < 2 ^ 32 ∧ s.stepTraffic m = false ∧ s.routePort 1 = some q :=
  ⟨{ up2 with net := { up2.net with sent := [sentMsg 7], msgid := up2.net.msgid.set 0 16 8 } }, 7, 0, sentMsg 7, by decide⟩

theorem witness_Heartbeats_watchdog : (∃ s : State, s.live = true ∧ s.wd = none) ∧
    (∃ (s : State) (w : WaitPoint), s.live = true ∧ s.wd = some w ∧ s.regs.watchdog.ok = false) ∧
    (∀ w ∈ [WaitPoint.sampleExchange, .gatherExchange, .layerSlice, .programBarrier, .reduction, .finiteAnd, .commitBarrier],
      ∃ s : State, s.live = true ∧ s.wd = some w ∧ s.regs.watchdog.ok = true ∧ s.st.run.isSome = true) ∧
    (∃ (s : State) (r : StepRun), s.live = true ∧ s.wd = some .stepStart ∧ s.regs.watchdog.ok = true ∧ s.st.run = some r ∧ s.st.evals = [] ∧
      (s.ring r.ring).busy.isSome = true ∧ s.st.acts = [] ∧ s.st.waiting = []) ∧
    (∃ (s : State) (e : EvalRun), s.live = true ∧ s.wd = some .window ∧ s.regs.watchdog.ok = true ∧ s.st.evals = [e] ∧ e.evidence = true ∧ e.drawing = false ∧ e.hop = 0 ∧ (s.ring e.ring).busy.isSome = true) ∧
    ∃ (s : State) (x : LoadWait), s.live = true ∧ s.wd = some .load ∧ s.regs.watchdog.ok = true ∧ s.loadWait = some x ∧ (s.ring x.ring).busy.isSome = true :=
  ⟨⟨duo .loaded, by decide⟩, ⟨{ duo .joined with wd := some .load, regs := { State.reset.regs with watchdog := odd } }, .load, by decide⟩, fun w _ => ⟨{ stepping (duo .running) .prepared with wd := some w }, rfl, rfl, (by decide : State.reset.regs.watchdog.ok = true), rfl⟩,
   ⟨{ busied (stepping (duo .running) .waitStart) stepD with wd := some .stepStart }, inStep .waitStart, by decide⟩,
   ⟨{ busied (evaluating (duo .running) { evalRun false 0 with evidence := true }) evalD with wd := some .window }, { evalRun false 0 with evidence := true }, by decide⟩,
   { busied (duo .joined) evalD with wd := some .load, loadWait := some { ring := 0, prog := program, inits := default } }, { ring := 0, prog := program, inits := default }, by decide⟩

/-- A WRITE or a READ of rank 0's address. -/
def access (typ a : Nat) (rest : List Byte) : Msg := msg typ 0 10 (leBytes 8 a ++ rest)

/-- Rank 0 in a step of a program with a layer-slice group of both ranks on VC2: four bytes of one layer. -/
def layered : State :=
  { stepping (duo .running) .forward with
    prog := some { program with decl := { decl with groups := [{ kind := 2, vc := 2, members := [0, 1], forward := [4], backward := [] }] } }
    wd := some .layerSlice }

/-- What a WRITE must meet to be taken. -/
def writeOk (s : State) (m : Msg) : Bool :=
  s.globalOk (field m.body 0 8) && s.mach.rank == some (globalRank (field m.body 0 8)) && s.remoteWrites (bits (field m.body 0 8) 0 48) (m.body.drop 8).length

theorem witness_RemoteAccesses_write : (∃ (s : State) (m : Msg), s.member = true ∧ m.typ = 1 ∧ m.opc = 0 ∧ writeOk s m = true) ∧
    (∃ (s : State) (m : Msg), s.member = true ∧ m.typ = 1 ∧ m.opc = 0 ∧ writeOk s m = true ∧ s.st.run.isSome = true ∧ s.wd = some .layerSlice ∧
      (s.layerGroups.any fun x => x.vc == m.vc && x.members.contains m.src) = true) ∧
    (∃ (s : State) (m : Msg) (r : StepRun), s.member = true ∧ m.typ = 1 ∧ m.opc = 0 ∧ writeOk s m = false ∧ s.st.run = some r ∧ r.fault = none) ∧
    ∃ (s : State) (m : Msg), s.member = true ∧ m.typ = 1 ∧ m.opc = 0 ∧ writeOk s m = false ∧ s.st.run = none :=
  ⟨⟨duo .loaded, access 1 (poolBase - 2) [1, 2], by decide⟩, ⟨layered, { access 1 0x9000 [1, 2, 3, 4] with vc := 2 }, by decide⟩,
   ⟨stepping (duo .running) .forward, access 1 (poolBase - 1) [1, 2], inStep .forward, by decide⟩, duo .loaded, access 1 (poolBase - 1) [1, 2], by decide⟩

/-- What a READ must meet to be answered. -/
def readOk (s : State) (m : Msg) : Bool :=
  decide (field m.body 8 8 ≤ 65536) && s.globalOk (field m.body 0 8) && s.mach.rank == some (globalRank (field m.body 0 8)) &&
    s.remoteReads (bits (field m.body 0 8) 0 48) (field m.body 8 8)

theorem witness_RemoteAccesses_read : (∃ (s : State) (m : Msg), s.member = true ∧ m.typ = 2 ∧ m.opc = 0 ∧ m.resp = false ∧ readOk s m = true) ∧
    (∃ (s : State) (m : Msg) (r : StepRun), s.member = true ∧ m.typ = 2 ∧ m.opc = 0 ∧ m.resp = false ∧ readOk s m = false ∧ s.st.run = some r ∧ r.fault = none) ∧
    ∃ (s : State) (m : Msg) (r : StepRun), s.member = true ∧ m.typ = 2 ∧ m.opc = 0 ∧ m.resp = false ∧ readOk s m = false ∧ s.st.run = some r ∧ r.fault.isSome = true :=
  ⟨⟨duo .loaded, access 2 0x9000 (leBytes 8 65536), by decide⟩, ⟨stepping (duo .running) .forward, access 2 0x9000 (leBytes 8 65537), inStep .forward, by decide⟩,
   running (duo .running) { inStep .forward with fault := some .indexRange }, access 2 0x9000 (leBytes 8 65537), { inStep .forward with fault := some .indexRange }, by decide⟩

theorem witness_RemoteAccesses_reply : (∃ (s : State) (m : Msg) (dst : Nat), s.member = true ∧ m.typ = 2 ∧ m.resp = true ∧ s.dmaWrites dst m.body.length = true) ∧
    ∃ (s : State) (m : Msg) (dst : Nat) (r : StepRun), s.member = true ∧ m.typ = 2 ∧ m.resp = true ∧ s.dmaWrites dst m.body.length = false ∧ s.st.run = some r ∧ r.fault = none :=
  ⟨⟨duo .loaded, msg 2 0 10 [1, 2, 3] true true, 0x9000, by decide⟩, stepping (duo .running) .forward, msg 2 0 10 [1, 2, 3] true true, stagingBase, inStep .forward, by decide⟩

theorem witness_MessagesRoundTrip : ∃ m : Msg, m.typ < 16 ∧ m.opc < 16 ∧ m.links < 8 ∧ m.src < 2 ^ 16 ∧ m.dst < 2 ^ 16 ∧ m.id < 2 ^ 32 ∧ m.body.length ≤ 65536 :=
  ⟨{ typ := 15, opc := 15, resp := true, last := true, links := 7, vc := 11, src := 65535, dst := 65535, id := 0xFFFFFFFF, body := zeros 65536 },
   by decide, by decide, by decide, by decide, by decide, by decide, (List.length_replicate (n := 65536) (a := (0 : Byte))).le⟩

/-- Blocks: all of the raw capacity, good, and replacement blocks. -/
def blocks (spare : Nat) : FlashBlocks := { raw := 1000, good := 990, spare := spare }

theorem witness_TierFaults_limits : (∃ (s : State) (f : FlashBlocks) (n : Nat), s.live = true ∧ 2 * f.raw ≤ n * 100) ∧
    (∃ (s : State) (n k : Nat), s.live = true ∧ n ≤ k + 500) ∧ ∃ (s : State) (n : Nat), s.live = true ∧ n < 50000 :=
  ⟨⟨base .ready, blocks 10, 20, by decide⟩, ⟨base .ready, 1000, 500, by decide⟩, base .ready, 49999, by decide⟩

theorem witness_TierFaults_events : ∀ spare ∈ [9, 10], ∃ (s : State) (n k : Nat), s.live = true ∧
    (n * 100 < 2 * (blocks spare).raw ∨ k + 500 < n ∨ 50000 ≤ n) ∧ ((blocks spare).raw ≤ (blocks spare).spare * 100 ↔ spare = 10) := by
  intro spare h
  simp only [List.mem_cons, List.not_mem_nil, or_false] at h
  rcases h with rfl | rfl
  · exact ⟨base .ready, 19, 0, by decide⟩
  · exact ⟨base .ready, 1001, 500, by decide⟩

theorem witness_TierFaults_commands : (∃ (s : State) (n i : Nat) (d : List Byte), s.live = true ∧ (s.ring n).busy = some (i, d) ∧ descOp d ≠ 0x04) ∧
    ∃ (s : State) (n i : Nat) (d : List Byte), s.live = true ∧ (s.ring n).busy = some (i, d) ∧ descOp d = 0x04 ∧ s.host.held = [] ∧
      (s.host.rings.map (·.1) = [0]) :=
  ⟨⟨busied (duo .loaded) (copyD hostBuf hostBuf 8), 0, 0, _, by decide, rfl, by decide⟩, busied (stepping (duo .running) .gather) stepD, 0, 0, stepD, by decide⟩

/-- A clean read of zeros. -/
def clean (addr n : Nat) : RawWords := { addr := addr, first := zeros n, second := zeros n }

/-- Two reads of a word of zeros with one symbol wrong in both, and one that does not decode; four further reads, the last of which is clean or not. -/
def wrong (addr n : Nat) : RawRead := { addr := addr, first := (zeros n).set 3 1, second := (zeros n).set 3 1, tests := { again := List.replicate 4 (clean addr 36), copies := [] } }
def lostWords (addr n : Nat) : RawWords :=
  { addr := addr, first := (List.range n).map (BitVec.ofNat 8 ·), second := (List.range n).map fun i => BitVec.ofNat 8 (i * i + 1) }
def lostAt (addr n : Nat) (again : Bool) : RawRead :=
  { lostWords addr n with tests := { again := List.replicate 3 (clean addr 36) ++ [if again then clean addr 36 else lostWords addr 36], copies := [] } }

/-- A module with its patrol scrub register at a value. -/
def scrubbing (v : W32) : State := { base .ready with regs := { State.reset.regs with scrub := .of v } }

theorem witness_FailedReads_good : (∃ (s : State) (r : RawRead), s.live = true ∧ s.placeOf r.addr ≠ .flash ∧ (s.rawRead r.toRawWords).1 = true) ∧
    (∃ (s : State) (r : RawRead) (d : List Byte) (places : List Nat), s.live = true ∧ s.placeOf r.addr = .pool ∧
      decodeRead 36 4 ((s.markedPin (pseudoChannel r.addr)).map placeOfPin) r.first r.second = .corrected d places) ∧
    ∃ (s : State) (r : RawRead) (d : List Byte) (places : List Nat), s.live = true ∧ s.placeOf r.addr ≠ .hbm ∧ s.placeOf r.addr ≠ .pool ∧ s.placeOf r.addr ≠ .flash ∧
      decodeRead 10 2 none r.first r.second = .corrected d places :=
  ⟨⟨base .ready, wrong 0 36, by decide +kernel⟩, ⟨base .ready, wrong poolBase 36, zeros 32, [3], by decide +kernel⟩,
   base .ready, wrong 0x1FFFFFFFFFF 10, zeros 8, [3], by decide +kernel⟩

theorem witness_FailedReads_flash : ∃ (s : State) (r : RawRead), s.live = true ∧ s.placeOf r.addr = .flash := ⟨base .ready, wrong flashBase 36, by decide⟩

/-- A module whose spare pages of pseudo-channel 0 are all in use. -/
def worn : State := { base .ready with tier := { State.reset.tier with retired := (List.range 256).map fun k => (0, k, k) } }

theorem worn_full : worn.freeSpare 0 = none := by
  have h : worn.tier.retired = (List.range 256).map fun k => (0, k, k) := rfl
  simp only [State.freeSpare, List.find?_eq_none, List.mem_range, h]
  intro k hk
  simp [hk]

/-- Conditions on a burst of HBM that does not decode, and whether its page is kept. -/
abbrev burst (s : State) (r : RawRead) (inStep kept : Bool) : Prop :=
  s.live = true ∧ s.placeOf r.addr = .hbm ∧ (s.rawRead r.toRawWords).1 = false ∧ (∀ w ∈ r.tests.again, w.addr = r.addr ∧ w.first.length = 36 ∧ w.second.length = 36) ∧
  kept = (allGood (s.testReads r.tests.again).1 && !(inStep && s.tier.ueBursts.contains (r.addr / 32)))

theorem witness_FailedReads_hbm : (∃ (s : State) (r : RawRead) (o : Nat), burst s r (servesStep .step) true ∧ s.st.run.isSome = true ∧ o ∈ s.reportTo) ∧
    (∃ (s : State) (r : RawRead), burst s r (servesStep (.scrub false)) true) ∧
    (∃ (s : State) (r : RawRead) (k : Nat), burst s r (servesStep .step) false ∧ s.freeSpare (pseudoChannel r.addr) = some k) ∧
    ∃ (s : State) (r : RawRead), burst s r (servesStep (.scrub false)) false ∧ s.freeSpare (pseudoChannel r.addr) = none :=
  ⟨⟨stepping (duo .running) .forward, lostAt (poolBase - 1) 36 true, 0, by decide +kernel⟩, ⟨base .ready, lostAt 0 36 true, by decide +kernel⟩,
   ⟨{ base .ready with tier := { State.reset.tier with ueBursts := [(poolBase - 1) / 32] } }, lostAt (poolBase - 1) 36 true, 0, by decide +kernel⟩,
   worn, lostAt 0 36 false, by decide +kernel, worn_full⟩

theorem witness_FailedReads_word : ∀ again : Bool, ∃ (s : State) (r : RawRead), s.live = true ∧ s.placeOf r.addr = .dram ∧ (s.rawRead r.toRawWords).1 = false ∧
    s.tier.ueWords.contains (r.addr / 8) = again := by
  intro again
  cases again
  · exact ⟨base .ready, lostAt 0x1FFFFFFFFFF 10 true, by decide +kernel⟩
  · exact ⟨{ base .ready with tier := { State.reset.tier with ueWords := [0x1FFFFFFFFFF / 8] } }, lostAt 0x1FFFFFFFFFF 10 true, by decide +kernel⟩

theorem witness_FailedReads_command : ∃ (s : State) (r : RawRead) (n : Nat) (b : Nat × List Byte), s.live = true ∧ s.placeOf r.addr = .hbm ∧ (s.rawRead r.toRawWords).1 = false ∧
    allGood (s.testReads r.tests.again).1 = true ∧ (s.testReads r.tests.again).2.mem = s.mem ∧ (s.ring n).busy = some b ∧ readOp (descOp b.2) = true ∧ s.st.run = none ∧ s.st.evals = [] :=
  ⟨busied (duo .loaded) (copyD hostBuf hostBuf 8), lostAt 0 36 true, 0, (0, copyD hostBuf hostBuf 8), by decide +kernel⟩

theorem witness_FailedReads_scrub : (∃ s : State, s.live = true ∧ s.regs.scrub.ok = false) ∧
    (∃ s : State, s.live = true ∧ s.regs.scrub.ok = true ∧ s.regs.scrub.val.getLsbD 31 = false) ∧
    ∀ x ∈ [(wrong 0 36, true), (lostAt 0 36 true, false), (wrong dramFwEnd 10, true), (lostWord, false)], ∃ s : State, s.live = true ∧ s.regs.scrub.ok = true ∧
      s.regs.scrub.val.getLsbD 31 = true ∧ (s.placeOf x.1.addr = .hbm ∨ s.placeOf x.1.addr = .dram) ∧ (s.rawRead x.1.toRawWords).1 = x.2 := by
  refine ⟨⟨{ base .ready with regs := { State.reset.regs with scrub := { val := 1, par := false } } }, by decide⟩, ⟨scrubbing 0, by decide⟩, ?_⟩
  intro x h
  refine ⟨scrubbing 0x80001800, rfl, rfl, rfl, ?_⟩
  revert x
  decide +kernel

theorem witness_FailedReads_elsewhere : ∃ s : State, s.regs.scrub.ok = true ∧ s.regs.scrub.val.getLsbD 31 = true ∧ s.placeOf flashBase ≠ .hbm ∧
    s.placeOf flashBase ≠ .dram ∧ s.placeOf flashBase ≠ .dramFw := ⟨scrubbing 0x80001800, by decide +kernel⟩

/-! ### Tasks and units -/


/-- `atRest`, decided. -/
theorem rest_of {s : State} (h : ∀ c < s.gc.weir.length, (s.weir c).held = [] ∧ ((s.weir c).running.isSome = true ∨ (s.weir c).ready = []))
    (b : ∀ r ∈ s.gc.busy, r.done = false) : s.atRest := ⟨h, b⟩

/-- Two cores: on the first task 0 runs and task 1 is as given; the second has one task, WAITING for flag 3, and a full ready list. -/
def twoCores (k : Task) (ready : List Nat := []) : State :=
  { working with
    gc := { cores with
      weir := [{ (default : Weir) with tasks := [task false, k], ready := ready, running := some 0 },
               { (default : Weir) with tasks := [{ task false with st := .waiting, waitFlags := true, mask := 8 }, task false], ready := List.replicate 32 1, running := some 1 }] } }

/-- A task that is WAITING with a start pending. -/
def pended : Task := { task false with st := .waiting, pend := some 9 }

/-- An IDLE task. -/
def idle : Task := { Task.idle with present := true }

/-- Conditions on START that the model lets act. -/
abbrev starts (s : State) (issuer : Option Nat) (core slot : Nat) : Prop :=
  s.hasCore core = true ∧ (issuer = none ∨ ∃ c, issuer = some c ∧ (s.runningTask c).isSome = true) ∧ slot < (s.weir core).tasks.length

theorem witness_TasksStart_nothing : (∃ (s : State) (core : Nat), s.hasCore core = false) ∧ (∃ (s : State) (c : Nat), s.runningTask c = none) ∧
    ∃ (s : State) (core slot : Nat), s.hasCore core = true ∧ s.atRest ∧ ((s.weir core).task slot).present = false :=
  ⟨⟨working, 1, by decide⟩, ⟨working, 1, by decide⟩, twoCores Task.idle, 0, 1, by decide, rest_of (by decide) (by decide), by decide⟩

theorem witness_TasksStart_idle : (∃ (s : State) (core slot : Nat), starts s none core slot ∧ s.atRest ∧ ((s.weir core).task slot).present = true ∧
      ((s.weir core).task slot).st = .idle ∧ (s.weir core).room = true ∧ (s.weir core).running.isSome = true) ∧
    ∃ (s : State) (core slot : Nat), starts s none core slot ∧ s.atRest ∧ ((s.weir core).task slot).present = true ∧
      ((s.weir core).task slot).st = .idle ∧ (s.weir core).room = true ∧ (s.weir core).running = none :=
  ⟨⟨working, 0, 1, ⟨by decide, .inl rfl, by decide⟩, rest_of (by decide) (by decide), by decide⟩,
   { working with gc := { cores with weir := [{ (default : Weir) with tasks := [idle] }] } }, 0, 0, ⟨by decide, .inl rfl, by decide⟩, rest_of (by decide) (by decide), by decide⟩

theorem witness_TasksStart_latched : ∃ (s : State) (core slot : Nat), starts s (some 0) core slot ∧ s.atRest ∧ ((s.weir core).task slot).present = true ∧
    ((s.weir core).task slot).st ≠ .idle ∧ ((s.weir core).task slot).pend = none :=
  ⟨working, 0, 0, ⟨by decide, .inr ⟨0, by decide⟩, by decide⟩, rest_of (by decide) (by decide), by decide⟩

theorem witness_TasksStart_held : (∃ (s : State) (core slot : Nat), starts s none core slot ∧ s.atRest ∧ ((s.weir core).task slot).present = true ∧
      ((s.weir core).task slot).st = .idle ∧ (s.weir core).room = false) ∧
    ∃ (s : State) (core slot c j : Nat), starts s (some c) core slot ∧ s.atRest ∧ ((s.weir core).task slot).present = true ∧
      ((s.weir core).task slot).st ≠ .idle ∧ ((s.weir core).task slot).pend.isSome = true ∧ s.runningTask c = some j ∧ j < (s.weir c).tasks.length ∧ j ∉ (s.weir c).ready :=
  ⟨⟨twoCores idle (List.replicate 32 0), 0, 1, ⟨by decide, .inl rfl, by decide⟩, rest_of (by decide) (by decide), by decide⟩,
   twoCores pended, 0, 1, 0, 0, ⟨by decide, .inr ⟨0, by decide⟩, by decide⟩, rest_of (by decide) (by decide), by decide⟩

/-- Conditions on what the running task does to itself. -/
abbrev leaves (s : State) (core slot : Nat) : Prop :=
  s.runningTask core = some slot ∧ slot < (s.weir core).tasks.length ∧ slot ∉ (s.weir core).ready ∧ (s.weir core).ready.length ≤ 32

theorem witness_TasksLeave_none : ∃ (s : State) (core : Nat), s.runningTask core = none := ⟨working, 1, by decide⟩

theorem witness_TasksLeave_again : ∀ room : Bool, ∃ (s : State) (core slot : Nat), leaves s core slot ∧ s.atRest ∧ ((s.weir core).task slot).pend = some 9 ∧
    ((s.weir core).task slot).present = true ∧ (s.weir core).room = room := by
  intro room
  cases room
  · exact ⟨{ working with gc := { cores with weir := [{ (default : Weir) with tasks := [{ task false with pend := some 9 }, idle], ready := List.replicate 32 1, running := some 0 }] } }, 0, 0,
      by decide, rest_of (by decide) (by decide), by decide⟩
  · exact ⟨{ working with gc := { cores with weir := [{ (default : Weir) with tasks := [{ task false with pend := some 9 }], running := some 0 }] } }, 0, 0,
      by decide, rest_of (by decide) (by decide), by decide⟩

theorem witness_TasksLeave_end : ∀ pend ∈ [none, some (9 : W32)], ∃ (s : State) (core slot : Nat), leaves s core slot ∧ s.atRest ∧ ((s.weir core).task slot).pend = pend ∧
    ((s.weir core).task slot).present = true := by
  intro pend h
  simp only [List.mem_cons, List.not_mem_nil, or_false] at h
  rcases h with rfl | rfl
  · exact ⟨working, 0, 0, by decide, rest_of (by decide) (by decide), by decide⟩
  · exact ⟨{ working with gc := { cores with weir := [{ (default : Weir) with tasks := [{ task false with pend := some 9 }], running := some 0 }] } }, 0, 0, by decide,
      rest_of (by decide) (by decide), by decide⟩

theorem witness_TasksLeave_wait : ∃ (s : State) (core slot : Nat) (mask mask' : BitVec 32), leaves s core slot ∧ s.atRest ∧
    ((s.weir core).task slot).flags &&& mask = mask ∧ ((s.weir core).task slot).flags &&& mask' = 0 ∧ mask' ≠ 0 :=
  ⟨working, 0, 0, 0, 0xFFFFFFFF, by decide, rest_of (by decide) (by decide), by decide⟩

theorem witness_TasksLeave_yield : ∀ room : Bool, ∃ (s : State) (core slot : Nat), leaves s core slot ∧ s.atRest ∧ (s.weir core).room = room := by
  intro room
  cases room
  · exact ⟨twoCores idle (List.replicate 32 1), 0, 0, by decide, rest_of (by decide) (by decide), by decide⟩
  · exact ⟨working, 0, 0, by decide, rest_of (by decide) (by decide), by decide⟩

theorem witness_TasksReach_signal : (∃ (s : State) (issuer core slot j : Nat), s.hasCore core = true ∧ s.atRest ∧ slot < (s.weir core).tasks.length ∧
      s.runningTask issuer = some j ∧ (s.weir core).room = true) ∧
    ∃ (s : State) (issuer core slot flag j : Nat), s.hasCore core = true ∧ s.atRest ∧ slot < (s.weir core).tasks.length ∧
      s.runningTask issuer = some j ∧ (s.weir core).room = false ∧
      ((s.weir core).task slot).wakes (((s.weir core).task slot).flags ||| BitVec.ofNat 32 (2 ^ flag)) = true ∧ ((s.weir core).task slot).flags.getLsbD flag = false ∧
      issuer ≠ core ∧ j < (s.weir issuer).tasks.length ∧ j ∉ (s.weir issuer).ready :=
  ⟨⟨working, 0, 0, 1, 0, by decide, rest_of (by decide) (by decide), by decide⟩, twoCores idle, 0, 1, 0, 3, 0, by decide, rest_of (by decide) (by decide), by decide⟩

/-- The descriptor that the running task issues from an address. -/
def issued (s : State) (addr : Nat) : QDesc := queued .mc (s.read addr (unitDescBytes .mc))

theorem witness_TasksReach_issue : (∃ (s : State) (core slot addr : Nat), s.runningTask core = some slot ∧
      s.placeOfRange addr (unitDescBytes .mc) ≠ .sram (s.physical core)) ∧
    (∃ (s : State) (core slot addr : Nat), s.runningTask core = some slot ∧
      s.placeOfRange addr (unitDescBytes .mc) = .sram (s.physical core) ∧ s.queueRoom (issued s addr) = true) ∧
    ∃ (s : State) (core slot addr : Nat), s.runningTask core = some slot ∧
      s.placeOfRange addr (unitDescBytes .mc) = .sram (s.physical core) ∧ s.queueRoom (issued s addr) = false ∧ s.atRest ∧ slot < (s.weir core).tasks.length ∧
      slot ∉ (s.weir core).ready :=
  ⟨⟨working, 0, 0, sramBase + 0x600000 - 127, by decide⟩, ⟨working, 0, 0, sramBase + 0x600000 - 128, by decide⟩,
   { working with gc := { cores with queue := List.replicate 4 (queued .mc (zeros 128)) } }, 0, 0, sramBase, by decide, by decide, by decide,
   rest_of (by decide) (by decide), by decide⟩

theorem witness_TasksReach_timer : ∀ due : Bool, ∃ (s : State) (core slot : Nat), due = (s.hasCore core && ((s.weir core).task slot).st == .waiting &&
      ((s.weir core).task slot).waitFlags && ((s.weir core).task slot).timer != 0 && !((s.weir core).task slot).evalClass) ∧ s.st.run.isSome = true := by
  intro due
  cases due
  · exact ⟨working, 0, 0, by decide⟩
  · exact ⟨{ working with gc := { cores with weir := [{ (default : Weir) with tasks := [{ task false with st := .waiting, waitFlags := true, mask := 1, timer := 1 }] }] } },
      0, 0, by decide⟩

/-- A descriptor in progress of the running task. -/
def going (unit : UnitKind) : Running := { unit := unit, core := 0, slot := 0, flag := 31, gang := 0, reads := [], writes := [], eval := false, done := false }

/-- The working state with it. -/
def busyWith (unit : UnitKind) : State := { working with gc := { cores with busy := [going unit] } }

/-- The commands that complete a unit's oldest descriptor, and the units. -/
def doneOf : List (UnitKind × Instr × (Running → Bool)) :=
  [(.mc, .tileComplete 0 0, fun x => x.unit == .mc && x.core == 0 && x.gang == 0), (.braid, .braidDone 0, fun x => x.unit == .braid && State.clusterOf working x.core == 0),
   (.quarry, .quarryDone 0, fun x => x.unit == .quarry && x.core == 0), (.tailrace, .tailraceDone 0, fun x => x.unit == .tailrace && x.core == 0)]

theorem witness_UnitsComplete : ∀ u ∈ doneOf, (∃ s : State, s.gc.busy.find? (fun x => u.2.2 x && !x.done && s.hasCore x.core) = none) ∧
    ∃ (s : State) (r : Running), r.unit = u.1 ∧ s.oldest u.2.2 r := by
  have h : ∀ u ∈ doneOf, working.gc.busy.find? (fun x => u.2.2 x && !x.done && working.hasCore x.core) = none ∧
      (busyWith u.1).gc.busy.find? (fun x => u.2.2 x && !x.done && (busyWith u.1).hasCore x.core) = some (going u.1) ∧
      (∀ c < (busyWith u.1).gc.weir.length, ((busyWith u.1).weir c).held = [] ∧
        (((busyWith u.1).weir c).running.isSome = true ∨ ((busyWith u.1).weir c).ready = [])) ∧
      (∀ r ∈ (busyWith u.1).gc.busy, r.done = false) ∧ ((busyWith u.1).weir 0).room = true ∧ 0 < ((busyWith u.1).weir 0).tasks.length := by decide
  exact fun u hu => ⟨⟨working, (h u hu).1⟩, busyWith u.1, going u.1, rfl, (h u hu).2.1, ⟨(h u hu).2.2.1, (h u hu).2.2.2.1⟩, (h u hu).2.2.2.2⟩

theorem witness_UnitsComplete_held : ∃ (s : State) (r : Running), s.gc.busy.find? (fun x => (x.unit == .mc && x.core == 1 && x.gang == 0) && !x.done && s.hasCore x.core) = some r ∧
    s.atRest ∧ (s.weir r.core).room = false ∧ ((s.weir r.core).task r.slot).flags.getLsbD r.flag = false ∧
    ((s.weir r.core).task r.slot).wakes (((s.weir r.core).task r.slot).flags ||| BitVec.ofNat 32 (2 ^ r.flag)) = true :=
  ⟨{ twoCores idle with gc := { (twoCores idle).gc with busy := [{ going .mc with core := 1, flag := 3 }] } }, { going .mc with core := 1, flag := 3 }, by decide,
   rest_of (by decide) (by decide), by decide⟩

/-- One 1 × 1 tile of two BF16 products in local SRAM, to FP32 (04 R92), and the same as a split-K part to A48. -/
def tileB (op ofmt benc hdr : Nat) : List Byte :=
  laid 128 [(0, 8, op + ofmt * 2 ^ 19 + benc * 2 ^ 25 + 31 * 2 ^ 37), (8, 4, 1), (0x0C, 2, 1), (0x10, 4, 2), (0x18, 6, sramBase), (0x20, 4, 4),
    (0x28, 6, sramBase + 256), (0x24, 4, 32), (0x30, 6, sramBase + 512), (0x38, 4, 8), (0x70, 6, hdr)]

/-- Its descriptor, of a kernel with parts of 64. -/
def tileQ (op ofmt benc hdr : Nat) : QDesc := queued .mc (tileB op ofmt benc hdr)

/-- The working state with a kernel that allows K = 64, whole or as one part. -/
def matrix : State :=
  { working with prog := some { program with decl := { decl with kernels := [{ (default : KernelDecl) with afmt := 1, bfmt := 1, maxK := 64, parts := some [64] }] } } }

/-- Conditions on a descriptor that MATMUL or MATMUL_PART takes. -/
abbrev tileTaken (s : State) (q : QDesc) (part : Bool) : Prop :=
  s.nextTile 0 0 = some q ∧ (s.hasCore 0 && s.workLive q.eval && (tileDesc q.bytes).part == part) = true

theorem witness_TilesRun_none : (∃ s : State, s.nextTile 0 0 = none) ∧
    ∃ (s : State) (q : QDesc), s.nextTile 0 0 = some q ∧ (s.hasCore 0 && s.workLive q.eval && (tileDesc q.bytes).part == true) = false :=
  ⟨⟨matrix, by decide⟩, withDesc matrix (tileQ 1 0 0 0), tileQ 1 0 0 0, by decide +kernel⟩

theorem witness_TilesRun_fault : ∃ (s : State) (q : QDesc) (x : Status), tileTaken s q false ∧ s.tileCheck (tileDesc q.bytes) q = some x ∧ q.eval = false ∧ s.st.run.isSome = true :=
  ⟨withDesc matrix (tileQ 1 9 0 0), tileQ 1 9 0 0, .formatInvalid, by decide +kernel⟩

/-- A tile queued while the same gang, or another, works. -/
def crowded (gang shape : Nat) : State :=
  let s := withDesc matrix (tileQ 1 0 0 0)
  { s with gc := { s.gc with mc := [{ (default : McState) with shape := shape }], busy := [{ going .mc with gang := gang }] } }

theorem witness_TilesRun_waits : (∃ (s : State) (q : QDesc), tileTaken s q false ∧ s.tileCheck (tileDesc q.bytes) q = none ∧ s.tileReady q (tileDesc q.bytes) = false) ∧
    ∃ (s : State) (q : QDesc), tileTaken s q false ∧ s.tileCheck (tileDesc q.bytes) q = none ∧ s.tileReady q (tileDesc q.bytes) = true ∧
      s.reshapeWaits q (tileDesc q.bytes) = true :=
  ⟨⟨crowded 0 0, tileQ 1 0 0 0, by decide +kernel⟩, crowded 1 1, tileQ 1 0 0 0, by decide +kernel⟩

/-- A tile, whole or as a part, that runs and meets no fault. -/
abbrev tiled (s : State) (q : QDesc) (part : Bool) (fault : Option Status) : Prop :=
  tileTaken s q part ∧ s.tileCheck (tileDesc q.bytes) q = none ∧ s.tileReady q (tileDesc q.bytes) = true ∧ s.reshapeWaits q (tileDesc q.bytes) = false ∧
  (s.tileResult (s.scaledTile q (tileDesc q.bytes)) ((s.reshape q.core (tileDesc q.bytes).shape).loadB q.core (tileDesc q.bytes) q.paths (q.tileChunks (tileDesc q.bytes))).1
    (s.prog.elim false (·.t7))).fault = fault

theorem witness_TilesRun_tile : tiled (withDesc matrix (tileQ 1 0 0 0)) (tileQ 1 0 0 0) false none ∧
    tiled (withDesc matrix (tileQ 2 6 0 (sramBase + 768))) (tileQ 2 6 0 (sramBase + 768)) true none := by decide +kernel

/-- A tile of two BS8 operands whose A has a scale of 0xFF. -/
def bsQ : QDesc := queued .mc (laid 128 [(0, 8, 1 + 3 * 2 ^ 11 + 3 * 2 ^ 15), (8, 4, 1), (0x0C, 2, 1), (0x10, 4, 32), (0x18, 6, sramBase), (0x20, 4, 32),
  (0x28, 6, sramBase + 256), (0x24, 4, 32), (0x30, 6, sramBase + 512), (0x38, 4, 4), (0x40, 6, sramBase + 768), (0x46, 2, 1), (0x48, 6, sramBase + 1024), (0x4E, 2, 1)])
def bsState : State :=
  withDesc ({ working with prog := some { program with decl := { decl with kernels := [{ (default : KernelDecl) with afmt := 4, bfmt := 4, maxK := 64 }] } } }.write
    (sramBase + 768) [0xFF]) bsQ

theorem witness_TilesRun_content : tiled bsState bsQ false (some .formatInvalid) ∧
    tiled (evalClass bsState) { bsQ with eval := true } false (some .formatInvalid) ∧ (evalClass bsState).st.evals = [evalRun false 1] := by decide +kernel

/-- A 1 × 1 tile of K codes -128, and the module that holds its A. -/
def lowTile (k : Nat) : TileDesc := { (tileDesc (zeros 128)) with afmt := 2, bfmt := 2, ofmt := 7, m := 1, n := 1, k := k, aAddr := 0, aenc := 0 }
def lowState (k : Nat) : State := State.reset.write 0 (List.replicate k 0x80)
def lowB (k : Nat) : Cells := ([List.replicate k 0x80], [])

theorem lowTile_a (k : Nat) : ((lowState k).tileA (lowTile k)).map (fun r => r.map (elemInt 2)) = [List.replicate k (-128)] := by
  have h : (lowState k).read 0 k = List.replicate k 0x80 := by simpa [lowState] using State.read_write State.reset 0 (List.replicate k 0x80)
  have e : fmtBytes 2 k = k := by simp [fmtBytes, fmtBits, ceilDiv]; omega
  show [((elemCodes 2 ((lowState k).read (0 + 0 * _) (fmtBytes 2 k)) k).map (elemInt 2))] = _
  rw [Nat.zero_mul, e, h, elemCodes, List.map_map]
  congr 1
  rw [List.eq_replicate_iff]
  refine ⟨by simp, fun b hb => ?_⟩
  obtain ⟨i, hi, rfl⟩ := List.mem_map.mp hb
  have d : ((List.replicate k (0x80 : Byte)).drop i).take 1 = [0x80] := by
    rw [List.drop_replicate, List.take_replicate, Nat.min_eq_left (by have := List.mem_range.mp hi; omega)]; rfl
  have d' : elemCode 2 (List.replicate k (0x80 : Byte)) i = 0x80 := by
    simp only [elemCode, fmtBits, field, show (8 : Nat) ≠ 4 by decide, if_false, Nat.div_self (show 0 < 8 by decide), Nat.mul_one, d]
    decide
  simp only [Function.comp_apply, d']
  decide

theorem lowTile_b (k : Nat) : (lowB k).1.map (fun c => c.map (elemInt 2)) = [List.replicate k (-128)] := by
  show [(List.replicate k 0x80).map (elemInt 2)] = _
  rw [List.map_replicate]
  rfl

/-- What the passes are held to, of a tile's streamed and stationary integers (03 R71). -/
abbrev inRange (x y : List (List Int)) (k : Nat) : Prop :=
  ∀ u ∈ x, ∀ v ∈ y, ∀ g, -2 ^ 31 ≤ ((((u.zip v).map (fun p => halved k p.1 * p.2)).take (32 * g)).sum) ∧ ((((u.zip v).map (fun p => halved k p.1 * p.2)).take (32 * g)).sum) < 2 ^ 31

theorem inRange_low (n k : Nat) (h : 0 ≤ halved k (-128) * -128) : inRange [List.replicate (32 * n) (-128)] [List.replicate (32 * n) (-128)] k ↔ (32 * n : Int) * (halved k (-128) * -128) < 2 ^ 31 := by
  have z : (List.replicate (32 * n) (-128 : Int)).zip (List.replicate (32 * n) (-128)) = List.replicate (32 * n) (-128, -128) := by simp
  have e : ∀ g, (((List.replicate (32 * n) (-128 : Int)).zip (List.replicate (32 * n) (-128))).map (fun p => halved k p.1 * p.2)).take (32 * g) =
      List.replicate (min (32 * g) (32 * n)) (halved k (-128) * -128) := by
    intro g
    rw [z, List.map_replicate, List.take_replicate]
  simp only [inRange, List.mem_singleton, forall_eq, e, List.sum_replicate, nsmul_eq_mul]
  generalize halved k (-128) * -128 = c at h
  constructor
  · intro w
    have := (w n).2
    rwa [Nat.min_self, Nat.cast_mul] at this
  · intro w g
    have l : ((min (32 * g) (32 * n) : Nat) : Int) ≤ 32 * n := by omega
    have := mul_le_mul_of_nonneg_right l h
    have := mul_nonneg (Int.natCast_nonneg (min (32 * g) (32 * n))) h
    omega

theorem witness_TilesRun_spillway : ∀ e ∈ [(1, some 0), (4096, some 1), (8192, some 2), (16384, some 3), (32768, none)], ∃ (s : State) (d : TileDesc) (b : Cells) (x y : List (List Int)),
    d.integer = true ∧ d.ofmt = 7 ∧ x = (s.tileA d).map (fun r => r.map (elemInt d.afmt)) ∧ y = b.1.map (fun c => c.map (elemInt d.bfmt)) ∧
    ∀ k < 4, inRange x y k ↔ ∃ j, e.2 = some j ∧ j ≤ k := by
  intro e he
  refine ⟨lowState (32 * e.1), lowTile (32 * e.1), lowB (32 * e.1), _, _, rfl, rfl, (lowTile_a _).symm, (lowTile_b _).symm, ?_⟩
  intro k hk
  have h0 : halved 0 (-128) = -128 := by decide
  have h1 : halved 1 (-128) = -64 := by decide
  have h2 : halved 2 (-128) = -32 := by decide
  have h3 : halved 3 (-128) = -16 := by decide
  simp only [List.mem_cons, List.not_mem_nil, or_false] at he
  interval_cases k <;> rw [inRange_low _ _ (by simp [h0, h1, h2, h3])] <;> rcases he with rfl | rfl | rfl | rfl | rfl <;> simp [h0, h1, h2, h3]

/-- A tile whose B is headered and K is 32, where B's one tile-row is written. -/
def scanQ : QDesc := queued .mc (laid 128 [(0, 8, 1 + 2 ^ 25), (8, 4, 1), (0x0C, 2, 1), (0x10, 4, 32), (0x18, 6, sramBase), (0x20, 4, 64),
  (0x28, 6, sramBase + 256), (0x24, 4, 96), (0x30, 6, sramBase + 512), (0x38, 4, 4)])
def scanState : State := withDesc (matrix.write (sramBase + 256) (encodeTile 1 1 false [List.replicate 32 0x3F80]).1) scanQ

/-- Conditions on a descriptor whose headers are scanned. -/
abbrev scans (s : State) (q : QDesc) (ok : Bool) : Prop :=
  s.gc.queue.find? (fun x => x.unit == .mc && x.core == 0 && !x.scanned && (tileDesc x.bytes).headered) = some q ∧ (q.gang == 0 && s.hasCore 0 && s.workLive q.eval) = ok

theorem witness_TilesRun_scan : (∃ s : State, s.gc.queue.find? (fun x => x.unit == .mc && x.core == 0 && !x.scanned && (tileDesc x.bytes).headered) = none) ∧
    (∃ (s : State) (q : QDesc), scans s q false) ∧ (∃ (s : State) (q : QDesc) (e : Status), scans s q true ∧ s.tileCheck (tileDesc q.bytes) q = some e) ∧
    (∃ (s : State) (q : QDesc), scans s q true ∧ s.tileCheck (tileDesc q.bytes) q = none ∧ s.regs.spBm.ok = false) ∧
    (∃ (s : State) (q : QDesc) (e : Status), scans s q true ∧ s.tileCheck (tileDesc q.bytes) q = none ∧ s.regs.spBm.ok = true ∧ s.regs.spRle.ok = true ∧
      s.scanTiles (tileDesc q.bytes) = some e) ∧
    ∃ (s : State) (q : QDesc), scans s q true ∧ s.tileCheck (tileDesc q.bytes) q = none ∧ s.regs.spBm.ok = true ∧ s.regs.spRle.ok = true ∧ s.scanTiles (tileDesc q.bytes) = none :=
  ⟨⟨working, by decide⟩, ⟨withDesc matrix { scanQ with gang := 1 }, { scanQ with gang := 1 }, by decide +kernel⟩,
   ⟨withDesc matrix { scanQ with kernel := 1 }, { scanQ with kernel := 1 }, .indexRange, by decide +kernel⟩,
   ⟨{ scanState with regs := { scanState.regs with spBm := { val := 1, par := false } } }, scanQ, by decide +kernel⟩,
   ⟨withDesc matrix scanQ, scanQ, .formatInvalid, by decide +kernel⟩, scanState, scanQ, by decide +kernel⟩

/-- BRAID_PLAN of one key for a table of one node, and BRAID_MERGE by such a plan. -/
def planB : List Byte := laid 64 [(0, 8, 1), (8, 4, 1), (0x0C, 4, 1), (0x18, 6, 0x8000), (0x20, 6, 0x9000), (0x28, 6, 0xA000)]
def mergeB : List Byte := laid 64 [(0, 8, 2), (8, 4, 1), (0x0C, 4, 1), (0x10, 2, 2), (0x18, 6, 0x8000), (0x28, 6, 0xA000), (0x30, 6, 0xB000),
  (0x38, 4, 32), (0x3C, 4, 32)]

/-- Conditions on a Braid descriptor that BRAID_PLAN or BRAID_MERGE takes. -/
abbrev braids (s : State) (q : QDesc) (merge : Bool) : Prop :=
  s.nextDesc (fun x => x.unit == .braid && s.clusterOf x.core == 0 && s.braidClear x) = some q ∧
  (s.hasCore q.core && s.workLive q.eval && ((braidDesc q.bytes).op == 2) == merge) = true

theorem witness_BraidAndTailrace_none : (∃ s : State, s.nextDesc (fun x => x.unit == .braid && s.clusterOf x.core == 0 && s.braidClear x) = none) ∧
    (∃ (s : State) (q : QDesc), s.nextDesc (fun x => x.unit == .braid && s.clusterOf x.core == 0 && s.braidClear x) = some q ∧ ((braidDesc q.bytes).op == 2) = false) ∧
    ∃ (s : State) (q : QDesc) (e : Status), braids s q false ∧ s.braidCheck 0 (braidDesc q.bytes) q.bytes = some e ∧ q.eval = false ∧ s.st.run.isSome = true :=
  ⟨⟨working, by decide⟩, ⟨withDesc working (queued .braid planB), queued .braid planB, by decide +kernel⟩,
   withDesc working (queued .braid (zeros 64)), queued .braid (zeros 64), .formatInvalid, by decide +kernel⟩

/-- A Braid that holds a completion. -/
def braidHolds (s : State) : State := { s with gc := { s.gc with busy := [{ going .braid with done := true }] } }

theorem witness_BraidAndTailrace_plan : (∃ (s : State) (q : QDesc), braids s q false ∧ s.braidCheck 0 (braidDesc q.bytes) q.bytes = none ∧
      (s.braidBusy 0).all (fun r => !r.done) = false) ∧
    (∃ (s : State) (q : QDesc) (e : Status), braids s q false ∧ s.braidCheck 0 (braidDesc q.bytes) q.bytes = none ∧ (s.braidBusy 0).all (fun r => !r.done) = true ∧
      planFault (s.braidTable (braidDesc q.bytes)) (s.braidKeys (braidDesc q.bytes)) (sortKeys (s.braidKeys (braidDesc q.bytes))) = some e) ∧
    ∃ (s : State) (q : QDesc), braids s q false ∧ s.braidCheck 0 (braidDesc q.bytes) q.bytes = none ∧ (s.braidBusy 0).all (fun r => !r.done) = true ∧
      planFault (s.braidTable (braidDesc q.bytes)) (s.braidKeys (braidDesc q.bytes)) (sortKeys (s.braidKeys (braidDesc q.bytes))) = none :=
  ⟨⟨braidHolds (withDesc working (queued .braid planB)), queued .braid planB, by decide +kernel⟩,
   ⟨(withDesc working (queued .braid planB)).write 0x9000 [1], queued .braid planB, .indexRange, by decide +kernel⟩,
   withDesc working (queued .braid planB), queued .braid planB, by decide +kernel⟩

theorem witness_BraidAndTailrace_merge : (∃ (s : State) (q : QDesc), braids s q true ∧ s.braidCheck 0 (braidDesc q.bytes) q.bytes = none ∧ (s.braidBusy 0).all (fun r => !r.done) = true ∧
      planOk (braidDesc q.bytes) (s.planAt (braidDesc q.bytes)) = false) ∧
    ∃ (s : State) (q : QDesc), braids s q true ∧ s.braidCheck 0 (braidDesc q.bytes) q.bytes = none ∧ (s.braidBusy 0).all (fun r => !r.done) = true ∧
      planOk (braidDesc q.bytes) (s.planAt (braidDesc q.bytes)) = true :=
  ⟨⟨withDesc working (queued .braid mergeB), queued .braid mergeB, by decide +kernel⟩,
   (withDesc working (queued .braid mergeB)).write 0xA004 (leBytes 4 1), queued .braid mergeB, by decide +kernel⟩

theorem witness_BraidAndTailrace_keys : (sortKeys [⟨5, 0, 0, 0, 0⟩, ⟨3, 0, 1, 0, 0⟩]).map (·.node) = [3, 5] := by decide

/-- SPILL (1) or FILL (2) of the first 256 bytes of the core's SRAM. -/
def tailB (op : Nat) : List Byte := laid 32 [(0, 8, op), (8, 6, sramBase), (0x10, 6, 65536 - 256), (0x18, 4, 256)]

/-- Conditions on a Tailrace descriptor that SPILL or FILL takes. -/
abbrev tails (s : State) (q : QDesc) (fill : Bool) : Prop :=
  s.nextDesc (fun x => x.unit == .tailrace && s.tailClear x) = some q ∧
  (q.core == 0 && s.hasCore 0 && s.workLive q.eval && ((tailDesc q.bytes).op == 2) == fill) = true

theorem witness_BraidAndTailrace_other : (∃ s : State, s.nextDesc (fun x => x.unit == .tailrace && s.tailClear x) = none) ∧
    (∃ (s : State) (q : QDesc), s.nextDesc (fun x => x.unit == .tailrace && s.tailClear x) = some q ∧ ((tailDesc q.bytes).op == 2) = false) ∧
    (∃ (s : State) (q : QDesc) (e : Status), tails s q false ∧ s.tailCheck q (tailDesc q.bytes) = some e) ∧
    ∃ (s : State) (q : QDesc), tails s q false ∧ s.tailCheck q (tailDesc q.bytes) = none ∧ s.tailBusy.all (fun r => !r.done) = false :=
  ⟨⟨working, by decide⟩, ⟨withDesc working (queued .tailrace (tailB 1)), queued .tailrace (tailB 1), by decide +kernel⟩,
   ⟨withDesc working (queued .tailrace (zeros 32)), queued .tailrace (zeros 32), .formatInvalid, by decide +kernel⟩,
   { withDesc working (queued .tailrace (tailB 1)) with gc := { cores with queue := [queued .tailrace (tailB 1)], busy := [{ going .tailrace with done := true }] } },
   queued .tailrace (tailB 1), by decide +kernel⟩

theorem witness_BraidAndTailrace_tail : ∀ fill : Bool, ∃ (s : State) (q : QDesc), tails s q fill ∧ s.tailCheck q (tailDesc q.bytes) = none ∧
    s.tailBusy.all (fun r => !r.done) = true := by
  intro fill
  cases fill
  · exact ⟨withDesc working (queued .tailrace (tailB 1)), queued .tailrace (tailB 1), by decide +kernel⟩
  · exact ⟨withDesc working (queued .tailrace (tailB 2)), queued .tailrace (tailB 2), by decide +kernel⟩

/-! ### Numbers and the vector unit -/


/-- `lane`, decided. -/
theorem lane_of {s : State} {core slot : Nat} {reads writes : List Region} (h : s.runs core slot = true ∧ s.workLive ((s.weir core).task slot).evalClass = true)
    (r : ∀ r ∈ reads, s.coreReads (s.physical core) r.base r.len = true) (w : ∀ r ∈ writes, s.coreWrites (s.physical core) r.base r.len = true) :
    s.lane core slot reads writes := ⟨h.1, h.2, r, w⟩

/-- Conditions under which a vector-unit operation of the first core's task 0 refuses: its operands have a form or not, and its ranges do not fit. -/
abbrev refuses (s : State) (pre : Option Status) (reads writes : List Region) : Prop :=
  (s.runs 0 0 && s.workLive ((s.weir 0).task 0).evalClass) = true ∧
    (pre.isSome = true ∨ (pre = none ∧ (reads.all (fun r => s.coreReads (s.physical 0) r.base r.len) && writes.all fun r => s.coreWrites (s.physical 0) r.base r.len) = false))

/-- An address that no vector unit reads or writes. -/
def far : Nat := flashBase

theorem witness_laneRefuses : ∃ s : State, (s.runs 0 1 && s.workLive ((s.weir 0).task 1).evalClass) = false := ⟨working, by decide⟩

theorem witness_CodesPacked : ∃ (fmt : Nat) (cs : List Nat), (fmt = 6 ∨ fmt = 8) ∧ (∀ c ∈ cs, c < 2 ^ 48) ∧ cs ≠ [] := ⟨8, [2 ^ 48 - 1, 0], by decide⟩

theorem witness_CodesPacked_ints : (∃ v : Int, -128 ≤ v ∧ v ≤ 127 ∧ -8 ≤ v ∧ v ≤ 7 ∧ v < 0) ∧ ∃ (row : List Byte) (fmt i : Nat), (fmt = 3 ∨ fmt = 5) ∧ i < row.length :=
  ⟨⟨-8, by decide⟩, [0x21], 3, 0, by decide⟩

/-- Operands of an element-wise operation on four FP32 elements, into a tensor. -/
def vec (op : VOp) (ofmt : Nat) : VArgs :=
  { op := op, ifmt := 0, ofmt := ofmt, n := 4, a := 0x8000, b := 0x8100, c := 0x8200, dst := 0x8300, tensor := 1, scalePlane := 0x8400 }

/-- The working state with one tensor of a kind, its declared scale byte 0xFE. -/
def withTensor (kind : Nat) : State := { working with prog := some { program with tensors := [{ (default : TensorRec) with id := 1, kind := kind, scale := 0xFE }] } }

/-- A vector-unit operation of task 0 whose operands have a form and whose ranges fit. -/
abbrev vecs (s : State) (v : VArgs) : Prop := s.lane 0 0 (vecReads v) (vecWrites v)

/-- One, minus one half, and the zeros. -/
def oneV : FVal := .fin false 1 0
def halfV : FVal := .fin true 1 (-1)
def zeroV (neg : Bool) : FVal := .fin neg 0 0

theorem oneV_value : oneV.value = 1 := by norm_num [oneV, FVal.value]
theorem halfV_value : halfV.value = -1 / 2 := by norm_num [halfV, FVal.value]
theorem zeroV_value (neg : Bool) : (zeroV neg).value = 0 := by simp [zeroV, FVal.value]

theorem witness_ElementsComputed_values : (∃ x : FVal, x.finite = true ∧ x.value ≠ 0) ∧
    (∀ k < 3, ∃ x y : FVal, nth False [x = .inf true ∧ y ≠ .inf true, y = .inf false ∧ x ≠ .inf false, x.finite = true ∧ y.finite = true ∧ x.value < y.value] k ∧
      x ≠ .nan ∧ y ≠ .nan) ∧
    (∃ x y : FVal, x.finite = true ∧ y.finite = true ∧ x.value = y.value ∧ x.value ≠ 0) ∧
    ∃ x y : FVal, x.finite = true ∧ y.finite = true ∧ x.value = y.value ∧ x.value = 0 ∧ x.negative = true ∧ y.negative = false := by
  refine ⟨⟨oneV, rfl, by norm_num [oneV_value]⟩, fun k hk => ?_, ⟨oneV, oneV, rfl, rfl, rfl, by norm_num [oneV_value]⟩,
    zeroV true, zeroV false, rfl, rfl, by simp [zeroV_value], zeroV_value _, rfl, rfl⟩
  interval_cases k
  · exact ⟨.inf true, oneV, ⟨rfl, by decide⟩, by decide, by decide⟩
  · exact ⟨oneV, .inf false, ⟨rfl, by decide⟩, by decide, by decide⟩
  · exact ⟨halfV, oneV, ⟨rfl, rfl, by norm_num [oneV_value, halfV_value]⟩, by decide, by decide⟩

theorem witness_ElementsComputed_limit : ∃ x y : FVal, x.finite = true ∧ fp32.limit ≤ |x.value| ∧ y.finite = true ∧ y.value ≠ 0 ∧ |y.value| < fp32.limit := by
  have l : fp32.limit = 2 ^ 128 - 2 ^ 103 := by norm_num [Fmt.limit, fp32]
  exact ⟨.fin false 1 128, oneV, rfl, by rw [l]; norm_num [FVal.value, abs_of_pos], rfl, by norm_num [oneV_value], by rw [l, oneV_value]; norm_num⟩

theorem witness_ElementsComputed_refused : refuses working (if working.vecCoded (vec .fma 2) then none else some .formatInvalid) (vecReads (vec .fma 2)) (vecWrites (vec .fma 2)) ∧
    refuses working (if working.vecCoded { vec .fma 1 with c := far } then none else some .formatInvalid) (vecReads { vec .fma 1 with c := far }) (vecWrites { vec .fma 1 with c := far }) := by
  decide

theorem witness_ElementsComputed_op : (∃ (s : State) (v : VArgs), vecs s v ∧ s.vecCoded v = true ∧ v.op ≠ .convert ∧ v.op ≠ .cmp) ∧
    ∃ (s : State) (v : VArgs), vecs s v ∧ s.vecCoded v = true ∧ v.op = .cmp :=
  ⟨⟨working, vec .fma 1, lane_of (by decide) (by decide) (by decide), by decide⟩, working, vec .cmp 1, lane_of (by decide) (by decide) (by decide), by decide⟩

theorem witness_ElementsComputed_convert : ∃ (s : State) (v : VArgs), vecs s v ∧ s.vecCoded v = true ∧
    v.op = .convert ∧ (floatFmt v.ofmt).isSome = true := ⟨working, vec .convert 1, lane_of (by decide) (by decide) (by decide), by decide⟩

theorem witness_ElementsComputed_nonfinite : ∃ (s : State) (v : VArgs), vecs s v ∧
    s.vecCoded v = true ∧ v.op = .convert ∧ floatFmt v.ofmt = none ∧ (s.sourceVals v).all FVal.finite = false ∧ ((s.weir 0).task 0).evalClass = false ∧ s.st.run.isSome = true :=
  ⟨(withTensor 0).write 0x8000 (leBytes 4 0x7F800000), vec .convert 2, lane_of (by decide) (by decide) (by decide), by decide, by decide,
   by decide, by decide +kernel, by decide, rfl⟩

theorem witness_ElementsComputed_scaled : ∀ kind ∈ [0, 2], ∃ (s : State) (v : VArgs), vecs s v ∧ s.vecCoded v = true ∧
    v.op = .convert ∧ isBs v.ofmt = true ∧ (s.sourceVals v).all FVal.finite = true ∧ s.tensorKind v.tensor = kind ∧
    (v.dst + (packCodes v.ofmt (quantizeBlocks v.ofmt (recipeLimit v.ofmt (s.tensorKind v.tensor == 2)) (s.sourceVals v)).1).length ≤ v.scalePlane) := by
  intro kind h
  simp only [List.mem_cons, List.not_mem_nil, or_false] at h
  rcases h with rfl | rfl
  · exact ⟨withTensor 0, vec .convert 4, lane_of (by decide) (by decide) (by decide), by decide +kernel⟩
  · exact ⟨withTensor 2, vec .convert 4, lane_of (by decide) (by decide) (by decide), by decide +kernel⟩

theorem witness_ElementsComputed_integer : (∃ (s : State) (v : VArgs), vecs s v ∧ s.vecCoded v = true ∧
      v.op = .convert ∧ isInt v.ofmt = true ∧ s.evalTensor v.tensor = false ∧ (s.sourceVals v).all FVal.finite = true) ∧
    (∃ (s : State) (v : VArgs), vecs s v ∧ s.vecCoded v = true ∧ v.op = .convert ∧ isInt v.ofmt = true ∧ s.evalTensor v.tensor = true ∧ s.calibration v.tensor = [] ∧
      ((s.weir 0).task 0).evalClass = false ∧ (s.sourceVals v).all FVal.finite = true) ∧
    (∃ (s : State) (v : VArgs), vecs s v ∧ s.vecCoded v = true ∧ v.op = .convert ∧ isInt v.ofmt = true ∧ s.evalTensor v.tensor = true ∧ s.calibration v.tensor = [] ∧
      ((s.weir 0).task 0).evalClass = true ∧ (s.sourceVals v).all FVal.finite = true) ∧
    ∃ (s : State) (v : VArgs), vecs s v ∧ s.vecCoded v = true ∧ v.op = .convert ∧ isInt v.ofmt = true ∧ s.evalTensor v.tensor = true ∧ s.calibration v.tensor = [5] ∧
      (s.sourceVals v).all FVal.finite = true :=
  ⟨⟨withTensor 0, vec .convert 2, lane_of (by decide) (by decide) (by decide), by decide +kernel⟩,
   ⟨withTensor 3, vec .convert 3, lane_of (by decide) (by decide) (by decide), by decide +kernel⟩,
   ⟨evalClass (withTensor 3), vec .convert 3, lane_of (by decide) (by decide) (by decide), by decide +kernel⟩,
   { withTensor 3 with prog := (withTensor 3).prog.map fun p => { p with decl := { p.decl with calibN := 4 } }, st := { (withTensor 3).st with calib := (withTensor 3).st.calib.set [] 1 [5] } },
   vec .convert 2, lane_of (by decide) (by decide) (by decide), by decide +kernel⟩

/-- The ranges of VECTOR_REDUCTION of FP32 vectors. -/
def redReads (x n : Nat) : List Region := span x (fmtBytes 0 n) ++ span 0x8800 (fmtBytes 0 n)

/-- Whether a kernel allows a reduction of a length. -/
def redCode (s : State) (kernel n : Nat) : Option Status :=
  if (s.prog.bind fun p => p.decl.kernels[kernel]?).elim false fun q => q.vecRed && decide (n ≤ kernelLimit q) then none else some .indexRange

theorem witness_ReductionsStore_dot : (∃ ps g : List (FVal × FVal), 0 < g.length ∧ (∀ p ∈ g, p.1.finite = true ∧ p.2.finite = true) ∧ ps.length = 32 ∧ g.length = 32 ∧
      ∀ p ∈ ps, p.1.finite = true ∧ p.2.finite = true) ∧
    (∃ ps g : List (FVal × FVal), 0 < g.length ∧ (∀ p ∈ g, p.1.finite = true ∧ p.2.finite = true) ∧ ps.length = 0 ∧ g.length = 16 ∧ (fp32.decode (dotT7 ps).1).finite = true) ∧
    (∃ ps g : List (FVal × FVal), 0 < g.length ∧ (∀ p ∈ g, p.1.finite = true ∧ p.2.finite = true) ∧ ps.length = 16 ∧ g.length = 1 ∧ (fp32.decode (dotT7 ps).1).finite = false) ∧
    (∃ ps : List (FVal × FVal), ∃ p ∈ ps, p.1.noProduct p.2) ∧
    (∃ ps : List (FVal × FVal), (∃ p ∈ ps, p.1.infProduct p.2 false) ∧ ∃ p ∈ ps, p.1.infProduct p.2 true) ∧
    (∀ neg : Bool, ∃ ps : List (FVal × FVal), 0 < ps.length ∧ ps.length ≤ 16 ∧ (∃ p ∈ ps, p.1.infProduct p.2 neg) ∧ (¬ ∃ p ∈ ps, p.1.noProduct p.2) ∧
      ¬ ∃ p ∈ ps, p.1.infProduct p.2 (!neg)) ∧
    ∀ x ∈ [fp32.decode 0, .inf false, .inf true, .nan], ∃ qs : List (FVal × FVal), qs.length % 16 = 0 ∧ fp32.decode (dotT7 qs).1 = x := by
  have n : ∀ neg, ¬ FVal.noProduct (.inf neg) oneV := fun neg h => by
    rcases h with h | h | ⟨_, _, h⟩ | ⟨h, _⟩
    · cases h
    · cases h
    · exact absurd h (by norm_num [oneV_value])
    · cases h
  have i : ∀ neg, FVal.infProduct (.inf neg) oneV neg := fun neg => ⟨n neg, .inl rfl, by cases neg <;> rfl⟩
  have j : ∀ neg b, FVal.infProduct (.inf neg) oneV b → b = neg := fun neg b h => h.2.2.trans (by cases neg <;> rfl)
  refine ⟨⟨List.replicate 32 (oneV, oneV), List.replicate 32 (oneV, oneV), by decide⟩, ⟨[], List.replicate 16 (oneV, oneV), by decide +kernel⟩,
    ⟨List.replicate 16 (.inf false, oneV), [(oneV, oneV)], by decide +kernel⟩, ⟨[(.nan, oneV)], _, List.mem_singleton.mpr rfl, .inl rfl⟩,
    ⟨[(.inf false, oneV), (.inf true, oneV)], ⟨_, List.mem_cons_self, i false⟩, _, List.mem_cons_of_mem _ (List.mem_singleton.mpr rfl), i true⟩, fun neg =>
    ⟨[(.inf neg, oneV)], by simp, by simp, ⟨_, List.mem_singleton.mpr rfl, i neg⟩, by simp [n], ?_⟩, ?_⟩
  · rintro ⟨p, hp, h⟩
    rw [List.mem_singleton.mp hp] at h
    have := j _ _ h
    cases neg <;> cases this
  · intro x h
    simp only [List.mem_cons, List.not_mem_nil, or_false] at h
    rcases h with rfl | rfl | rfl | rfl
    · exact ⟨[], rfl, rfl⟩
    · exact ⟨List.replicate 16 (.inf false, oneV), rfl, by decide +kernel⟩
    · exact ⟨List.replicate 16 (.inf true, oneV), rfl, by decide +kernel⟩
    · exact ⟨List.replicate 16 (.nan, oneV), rfl, by decide +kernel⟩

theorem witness_ReductionsStore_partials : ∀ f ∈ [a48, fp32], (∃ a b : Nat, f.decode a = .nan ∨ f.decode b = .nan) ∧
    (∃ a b : Nat, f.decode a = .inf false ∧ f.decode b = .inf true) ∧ (∃ a b : Nat, (f.decode a).finite = true ∧ (f.decode b).finite = true) ∧
    ∃ l m : List Nat, l.length = 3 ∧ m.length = (l.length + 1) / 2 ∧ (∀ i, 2 * i + 1 < l.length → nth 0 m i = (combineParts (f == fp32) [nth 0 l (2 * i), nth 0 l (2 * i + 1)]).1) ∧
      nth 0 m (l.length / 2) = nth 0 l (l.length - 1) := by
  intro f h
  simp only [List.mem_cons, List.not_mem_nil, or_false] at h
  rcases h with rfl | rfl
  · exact ⟨⟨a48.nan, 0, by decide +kernel⟩, ⟨a48.inf false, a48.inf true, by decide +kernel⟩, ⟨0, 0, by decide +kernel⟩, [0, 0, 7], [(combineParts false [0, 0]).1, 7], rfl, rfl,
      fun i hi => by obtain rfl : i = 0 := by simp at hi; omega
                     rfl, rfl⟩
  · exact ⟨⟨fp32.nan, 0, by decide +kernel⟩, ⟨fp32.inf false, fp32.inf true, by decide +kernel⟩, ⟨0, 0, by decide +kernel⟩, [0, 0, 7], [(combineParts true [0, 0]).1, 7], rfl, rfl,
      fun i hi => by obtain rfl : i = 0 := by simp at hi; omega
                     rfl, rfl⟩

theorem witness_ReductionsStore_refused : refuses working (redCode working 1 1) (redReads 0x8000 1) (span 0x9000 4) ∧ refuses working (redCode working 0 65) (redReads 0x8000 65) (span 0x9000 4) ∧
    refuses working (redCode working 0 64) (redReads far 64) (span 0x9000 4) := by decide

/-- A kernel with two parts, its partials at 0xA000. -/
def parted : State :=
  { working with prog := some { program with
      decl := { decl with kernels := [{ (default : KernelDecl) with vecRed := true, maxK := 64, parts := some [32, 32] }] }
      place := { place with partials := [(0, { base := 0xA000, len := 12 })] } } }

theorem witness_ReductionsStore_reduce : (∃ (s : State) (k : KernelDecl) (n : Nat), (s.prog.bind fun p => p.decl.kernels[0]?) = some k ∧ k.vecRed = true ∧ k.parts = none ∧ n = kernelLimit k ∧
      s.lane 0 0 (redReads 0x8000 n) (span 0x9000 4)) ∧
    ∃ (s : State) (k : KernelDecl) (n : Nat) (r : Region), (s.prog.bind fun p => p.decl.kernels[0]?) = some k ∧ k.vecRed = true ∧ n = kernelLimit k ∧
      k.parts.map (fun l => { base := s.partialArea 0 0 l.length, len := fmtBytes 6 l.length : Region }) = some r ∧ 0x9000 + fmtBytes 0 1 ≤ r.base ∧
      s.lane 0 0 (redReads 0x8000 n) (span 0x9000 4) :=
  ⟨⟨working, nth default decl.kernels 0, 64, by decide, by decide, by decide, by decide, lane_of (by decide) (by decide) (by decide)⟩,
   parted, { (default : KernelDecl) with vecRed := true, maxK := 64, parts := some [32, 32] }, 64, ⟨0xA000, 12⟩, by decide, by decide, by decide, by decide, by decide,
   lane_of (by decide) (by decide) (by decide)⟩

theorem witness_ReductionsStore_combine : refuses working (if (2 == 0 || 2 == 1 || (2 == 6 && !working.t7)) then none else some .formatInvalid) [] [] ∧
    (∃ s : State, refuses s none (span far (fmtBytes 6 3)) (span 0x9000 (fmtBytes 6 3))) ∧
    ∃ (s : State) (n : Nat), s.t7 = false ∧ s.lane 0 0 ([0x8000, 0x8100].flatMap fun p => span p (fmtBytes 6 n)) (span 0x9000 (fmtBytes 6 n)) :=
  ⟨by decide, ⟨working, by decide⟩, working, 3, by decide, lane_of (by decide) (by decide) (by decide)⟩

/-- A core whose XM48 operand holds two values. -/
def holdingX : State := { working with gc := { cores with weir := cores.weir.map fun w => { w with xreg := [1, 2] } } }

theorem witness_Xm48Rounds : ∃ (s : State) (core slot a : Nat), (s.weir core).xreg.length = 2 ∧ s.lane core slot (span a (4 * (s.weir core).xreg.length)) [] ∧
    s.lane core slot (span a (6 * 2)) [] ∧ s.lane core slot [] (span a (6 * (s.weir core).xreg.length)) ∧
    s.lane core slot [] (span a (fmtBytes 1 (s.weir core).xreg.length)) :=
  ⟨holdingX, 0, 0, poolBase - 12, by decide, lane_of (by decide) (by decide) (by decide), lane_of (by decide) (by decide) (by decide),
   lane_of (by decide) (by decide) (by decide), lane_of (by decide) (by decide) (by decide)⟩

theorem witness_Xm48Rounds_refused : refuses holdingX none (span far 8) [] ∧ refuses holdingX none [] (span far 12) ∧ refuses holdingX none [] (span far (fmtBytes 1 2)) := by decide

theorem witness_RowsBinned_refused : refuses working (if 16777217 ≤ 16777216 then none else some .indexRange) [] [] ∧
    refuses working none (span far 4) (span 0x8000 4 ++ span 0x9000 136) := by decide

theorem witness_RowsBinned : ∃ (s : State) (core slot m counts perm starts : Nat), m ≤ 16777216 ∧
    s.lane core slot (span counts (4 * m)) (span perm (4 * m) ++ span starts 136) ∧ (perm + 4 * m ≤ starts ∨ starts + 136 ≤ perm) :=
  ⟨working, 0, 0, 16777216, 0x10000000, 0x20000000, 0x24000000, by decide, lane_of (by decide) (by decide) (by decide), by decide⟩

theorem witness_RowsBinned_counts : ∃ cs : List Nat, ∀ c ∈ cs, c < 2 ^ 32 := ⟨[0, 1, 2 ^ 32 - 1], by decide⟩

theorem witness_RowsScattered_refused : refuses working none (span far 16 ++ span 0x8100 4) (span 0x8200 16) := by decide

theorem witness_RowsScattered_good : ∃ (s : State) (m perm src rowBytes dst dstRows : Nat),
    s.lane 0 0 (span src (m * rowBytes) ++ span perm (4 * m)) (span dst (dstRows * rowBytes)) ∧
    (∀ p ∈ (List.range m).map (fun i => s.readNat (perm + 4 * i) 4), p < dstRows) ∧ src + m * rowBytes ≤ dst :=
  ⟨working, 2, 0x8000, 0x8100, 16, 0x8200, 1, lane_of (by decide) (by decide) (by decide), by decide, by decide⟩

theorem witness_RowsScattered_range : ∃ (s : State) (m perm src rowBytes dst dstRows : Nat) (r : StepRun),
    s.lane 0 0 (span src (m * rowBytes) ++ span perm (4 * m)) (span dst (dstRows * rowBytes)) ∧
    (∃ p ∈ (List.range m).map (fun i => s.readNat (perm + 4 * i) 4), dstRows ≤ p) ∧ ((s.weir 0).task 0).evalClass = false ∧ s.st.run = some r :=
  ⟨working.write 0x8000 (leBytes 4 1), 2, 0x8000, 0x8100, 16, 0x8200, 1, inStep .forward, lane_of (by decide) (by decide) (by decide), by decide, by decide, rfl⟩

/-- SP_ENCODE of one line of 32 BF16 zeros. -/
def spArgs : SpArgs := { fmt := 1, lines := 1, k := 32, src := 0x8000, srcStride := 64, form := 1, cap24 := false, dst := 0x9000, dstStride := 32 }

/-- Whether the operands of SP_ENCODE have a form. -/
def spCoded (a : SpArgs) : Bool := decide (1 ≤ a.fmt) && decide (a.fmt ≤ 5) && (a.form == 1 || (a.form == 2 && !a.cap24)) && a.dstStride % 16 == 0

/-- Its ranges and what it stores. -/
def spReads (a : SpArgs) : List Region := rowsRegion a.src a.lines a.srcStride (fmtBytes a.fmt a.k)
def spBytes (s : State) (a : SpArgs) : List (List Byte) :=
  (tileRows (s.rowCodes a.fmt a.src a.srcStride a.lines a.k)).map fun r => (tilePieces r).flatMap fun x => (encodeTile a.fmt a.form a.cap24 x).1

theorem witness_SparseStored_encode : (∀ a ∈ [{ spArgs with form := 2, cap24 := true }, { spArgs with dstStride := 40 }], spCoded a = false ∧
      refuses working (if spCoded a then none else some .formatInvalid) (spReads a) (headeredRegion a.dst a.lines a.dstStride)) ∧
    (∃ (s : State) (a : SpArgs), refuses s (if spCoded a then none else some .formatInvalid) (spReads a) (headeredRegion a.dst a.lines a.dstStride) ∧ spCoded a = true) ∧
    (∃ (s : State) (a : SpArgs), spCoded a = true ∧ s.lane 0 0 (spReads a) (headeredRegion a.dst a.lines a.dstStride) ∧ ∃ x ∈ spBytes s a, a.dstStride < x.length) ∧
    ∃ (s : State) (a : SpArgs), spCoded a = true ∧ s.lane 0 0 (spReads a) (headeredRegion a.dst a.lines a.dstStride) ∧ ∀ x ∈ spBytes s a, x.length ≤ a.dstStride :=
  ⟨by decide, ⟨working, { spArgs with src := far }, by decide⟩,
   ⟨working, { spArgs with dstStride := 0 }, by decide, lane_of (by decide) (by decide) (by decide), by decide +kernel⟩,
   working, spArgs, by decide, lane_of (by decide) (by decide) (by decide), by decide +kernel⟩

/-- MASK44 of a 4 × 4 array of FP32 zeros to BS8, with its transpose, pruned. -/
def maskArgs : MaskArgs :=
  { sfmt := 0, k := 4, n := 4, src := 0x8000, srcStride := 16, fmt := 4, dst := 0x9000, dstStride := 96, scales := 0xA000, tensor := 1,
    dstT := some 0xB000, dstTStride := 96, scalesT := 0xC000, tensorT := 1, prune := true }

/-- The code of MASK44's operands. -/
def maskPre (a : MaskArgs) : Option Status := if maskCoded a then (if maskFits a then none else some .indexRange) else some .formatInvalid

theorem witness_SparseStored_refused : ∀ x ∈ [({ maskArgs with fmt := 0 }, some Status.formatInvalid), ({ maskArgs with dstStride := 16 }, some .indexRange), ({ maskArgs with src := far }, none)],
    maskPre x.1 = x.2 ∧ refuses working (maskPre x.1) (rowsRegion x.1.src x.1.k x.1.srcStride (fmtBytes x.1.sfmt x.1.n)) (maskWrites x.1) := by decide

theorem witness_SparseStored_nonfinite : Masked.convert { lines := List.replicate 4 (List.replicate 4 .nan), codes := [[0]] } maskArgs.fmt 0 false = none := by decide +kernel

theorem witness_SparseStored_mask : ∀ x ∈ [(withTensor 2, maskArgs, true), (withTensor 3, { maskArgs with fmt := 2 }, false)], maskCoded x.2.1 = true ∧ maskFits x.2.1 = true ∧
    x.1.lane 0 0 (rowsRegion x.2.1.src x.2.1.k x.2.1.srcStride (fmtBytes x.2.1.sfmt x.2.1.n)) (maskWrites x.2.1) ∧
    (Masked.convert { lines := List.replicate 4 (List.replicate 4 (.fin false 0 0)), codes := [[0]] } x.2.1.fmt (x.1.intScale x.2.1.tensor x.2.1.fmt)
      (x.1.tensorKind x.2.1.tensor == 2)).isSome = true ∧ (isInt x.2.1.fmt && x.1.evalTensor x.2.1.tensor) = !x.2.2 := by
  intro x h
  simp only [List.mem_cons, List.not_mem_nil, or_false] at h
  rcases h with rfl | rfl
  · exact ⟨by decide, by decide, lane_of (by decide) (by decide) (by decide), by decide +kernel⟩
  · have z : ∀ c, (Masked.convert { lines := List.replicate 4 (List.replicate 4 (.fin false 0 0)), codes := [[0]] } 2 c false).isSome = true := fun c => rfl
    exact ⟨by decide, by decide, lane_of (by decide) (by decide) (by decide), z _, by decide +kernel⟩

/-- Draws of four FP32 values for a purpose of the program's own. -/
def draws : RngArgs := { tag := 0xFFFF, tensor := 0, first := 0, n := 4, bf16 := false, dst := 0x8000 }

/-- A number and a probability, and neither. -/
def one : W32 := 0x3F800000
def noNumber : W32 := 0x7FC00000

theorem witness_DrawsStored_refused : refuses working (if (numberOk noNumber && numberOk one) && tagOk draws.tag then none else some .formatInvalid) [] (span draws.dst (fmtBytes 0 4)) ∧
    refuses working (if probabilityOk 0x3F800001 && tagOk draws.tag then none else some .formatInvalid) [] (span draws.dst (fmtBytes 0 4)) ∧
    refuses working (if true && tagOk 2 then none else some .formatInvalid) [] (span draws.dst (fmtBytes 0 4)) ∧
    refuses working (if (probabilityOk one.toNat && numberOk one) && tagOk draws.tag then none else some .formatInvalid) (span far (fmtBytes 0 4)) (span draws.dst (fmtBytes 0 4)) := by decide

theorem witness_DrawsStored_values : (fp32.decode 0x3F800000).finite = true ∧ (fp32.decode 0x40000000).finite = true ∧
    (fp32.decode 0x40000000).value - (fp32.decode 0x3F800000).value ≠ 0 ∧ probabilityOk 0x3F800000 = true ∧ probabilityOk 0 = true := by
  have h : fp32.decode 0x3F800000 = .fin false (2 ^ 23) (-23) := by decide +kernel
  have k : fp32.decode 0x40000000 = .fin false (2 ^ 23) (-22) := by decide +kernel
  refine ⟨by rw [h]; rfl, by rw [k]; rfl, ?_, by decide +kernel, by decide +kernel⟩
  rw [h, k]
  norm_num [FVal.value]

theorem witness_DrawsStored_draw : ∃ (s : State) (r : RngArgs) (lo p : W32), tagOk r.tag = true ∧ s.lane 0 0 [] (span r.dst (fmtBytes 0 r.n)) ∧
    numberOk lo = true ∧ probabilityOk p.toNat = true := ⟨working, draws, 0, one, by decide, lane_of (by decide) (by decide) (by decide), by decide, by decide⟩

theorem witness_DrawsStored_dropout : ∃ (s : State) (r : RngArgs) (x : Nat), tagOk r.tag = true ∧ (probabilityOk one.toNat && numberOk one) = true ∧
    s.lane 0 0 (span x (fmtBytes 0 r.n)) (span r.dst (fmtBytes 0 r.n)) := ⟨working, draws, 0x9000, by decide, by decide, lane_of (by decide) (by decide) (by decide)⟩

theorem witness_DrawsStored_advance : (∃ (s : State) (tag tensor i : Nat), s.runs 0 0 = true ∧ s.workLive false = true ∧ ((s.weir 0).task 0).evalClass = false ∧
      s.streamOf tag tensor = some i) ∧
    ∃ (s : State) (tag tensor : Nat), s.runs 0 0 = true ∧ s.workLive false = true ∧ s.streamOf tag tensor = none :=
  ⟨⟨{ working with prog := some { program with decl := { decl with streams := [{ tag := 3, tensor := 1 }] } } }, 3, 1, 0, by decide⟩, working, 3, 1, by decide⟩

/-! ### Operands that WellFormed refuses -/


theorem test_wellFormed_power : WellFormed (.railFault 16 900) = false ∧ WellFormed (.railFault 15 900) = true ∧
    WellFormed (.smbusBridgeWrite 0xFFFFFF [0, 0]) = false ∧ WellFormed (.temperatureMeasurement (List.replicate 13 80)) = false ∧
    WellFormed (.interfaceLockLoss 256) = false := by decide

theorem test_wellFormed_rings : WellFormed (.join 64) = false ∧ WellFormed (.fenceRelease 64) = false ∧ WellFormed (.reloadRing 64 entry) = false ∧
    WellFormed (.reloadRing 63 [0]) = false ∧ WellFormed (.ringsCtlWrite 0 [[0]]) = false ∧ WellFormed (.step 64 []) = false ∧
    WellFormed (.loadProgram 64 [] none ⟨default, []⟩ []) = false ∧ WellFormed (.ringsCtlWrite 0 (List.replicate 65 (zeros 64))) = false ∧
    WellFormed (.doorbellPoll [] (2 ^ 32)) = false := by decide

theorem test_wellFormed_poll :
    WellFormed (.doorbellPoll [{ ring := 64, pi := 0, gen := 0, descs := [] }] 0) = false ∧
    WellFormed (.doorbellPoll [{ ring := 0, pi := 1, gen := 0, descs := [[0]] }] 0) = false ∧
    WellFormed (.doorbellPoll [{ ring := 1, pi := 0, gen := 0, descs := [] }, { ring := 1, pi := 0, gen := 0, descs := [] }] 0) = false := by decide

theorem test_wellFormed_messages : Msg.ok (msg 32 0 0 []) = false ∧ Msg.ok (msg 0 128 0 []) = false ∧ Msg.ok (msg 0 0 12 []) = false ∧
    Msg.ok { msg 0 0 0 [] with links := 16 } = false ∧ Msg.ok { msg 0 0 0 [] with src := 65536 } = false ∧ Msg.ok { msg 0 0 0 [] with dst := 65536 } = false ∧
    Msg.ok { msg 0 0 0 [] with id := 2 ^ 32 } = false ∧ WellFormed (.probe (msg 0 0 12 [])) = false := by decide

theorem test_wellFormed_message_operands : WellFormed (.sampleReq (msg 4 0 10 []) 16 []) = false ∧
    WellFormed (.sampleReq (msg 4 0 10 []) 0 [default]) = false ∧ WellFormed (.sampleReq (msg 4 0 12 []) 0 []) = false ∧
    WellFormed (.remoteReadReply (msg 2 0 10 []) (2 ^ 48)) = false ∧ WellFormed (.abort (msg 8 4 1 []) 4 0 0) = false ∧
    WellFormed (.abort (msg 8 4 1 []) 1 256 0) = false ∧ WellFormed (.abort (msg 8 4 1 []) 1 0 8192) = false ∧ WellFormed (.probeTimeout ⟨8192, default⟩) = false ∧ WellFormed (.failureReport ⟨(msg 1 2 12 []), default⟩) = false ∧ WellFormed (.remoteAcc ⟨(msg 3 0 12 []), []⟩) = false ∧
    WellFormed (.heartbeat 18 (msg 7 0 0 [])) = false ∧ WellFormed (.lostMessageReport 8192 0 ⟨0, false⟩) = false ∧ WellFormed (.lostMessageReport 0 12 ⟨0, false⟩) = false ∧
    WellFormed (.joinTraffic 16384 ⟨none, false⟩) = false := by decide

theorem test_wellFormed_ports : WellFormed (.portRetryTick 18) = false ∧ WellFormed (.flitReceive 0 ⟨[0], []⟩) = false ∧ WellFormed (.flitReceive 18 ⟨zeros 256, []⟩) = false ∧
    WellFormed (.laneDrop 18 0) = false ∧ WellFormed (.portTrainingCheck 0 (List.replicate 63 (zeros 64))) = false ∧
    WellFormed (.portTrainingCheck 0 (List.replicate 64 (zeros 63))) = false ∧ WellFormed (.portTrainingCheck 18 (List.replicate 64 (zeros 64))) = false ∧
    WellFormed (.portTrainingComplete 18 (lanes 8)) = false ∧ WellFormed (.portTrainingComplete 0 { lanes 8 with credits := [] }) = false ∧
    WellFormed (.diagTestEnd 18 (List.replicate 24 default)) = false ∧ WellFormed (.diagTestEnd 0 []) = false ∧ WellFormed (.diagMarginRead 0 []) = false := by decide

theorem test_wellFormed_reads : RawRead.ok (wrong (2 ^ 48) 10) = false ∧ RawRead.ok { wrong 0 10 with second := zeros 36 } = false ∧ RawRead.ok (wrong 0 9) = false ∧
    RawRead.ok { wrong 0 10 with tests := { again := [], copies := [] } } = false ∧
    RawRead.ok { wrong 0 10 with tests := { again := List.replicate 4 (clean 32 36), copies := [] } } = false ∧
    RawRead.ok { wrong 0 10 with tests := { again := List.replicate 4 (clean 0 10), copies := [] } } = false ∧
    RawRead.ok { wrong 0 10 with tests := { (wrong 0 10).tests with copies := [clean 0 10] } } = false ∧ RawRead.ok (wrong 0 10) = true ∧ RawRead.ok (wrong 0 36) = true ∧
    WellFormed (.patrolScrub ⟨(wrong 0 9), false⟩ false) = false ∧ WellFormed (.uncorrectableRead (wrong 0 9).toRawWords .step (wrong 0 9).tests) = false ∧ WellFormed (.wearLevelling 1 2 default) = false := by decide

theorem test_wellFormed_rings_more : WellFormed (.quiesce ⟨64, default⟩) = false ∧ WellFormed (.copy 64 ⟨[], none⟩) = false := by decide

theorem test_wellFormed_cores : WellFormed (.start (some 96) 0 0 0) = false ∧ WellFormed (.start none 96 0 0) = false ∧ WellFormed (.start none 0 64 0) = false ∧
    WellFormed (.end_ 96) = false ∧ WellFormed (.wait 96 0 false 0) = false ∧ WellFormed (.wait 0 0 false (2 ^ 32)) = false ∧ WellFormed (.signal 96 0 0 0) = false ∧
    WellFormed (.signal 0 0 64 0) = false ∧ WellFormed (.signal 0 0 0 32) = false ∧ WellFormed (.issue 96 .mc 0 0) = false ∧
    WellFormed (.issue 0 .mc (2 ^ 48) 0) = false ∧ WellFormed (.matmul 96 0) = false ∧ WellFormed (.matmul 0 16) = false ∧ WellFormed (.braidPlan 12) = false ∧
    WellFormed (.gather 96 []) = false ∧ WellFormed (.gather 0 [default]) = false ∧ WellFormed (.spill 96) = false ∧
    WellFormed (.xm48Add 0 64 0) = false := by decide

/-! ### Numbers: worked examples of the spec -/


/-- A dot product of BF16 codes to A48 and to FP32. -/
def dot (a b : List Nat) : Nat × Nat := let r := (dotFloat ((a.map bf16.decode).zip (b.map bf16.decode))).1; (r, (outputFloat false fp32 r).1)

/-- 02, "An oversized product and a NaN": cases A, B and C. -/
theorem test_matmul_oversized : dot [0x7F00, 0xFFA5, 0x3FC0, 0xFEFE] [0x4300, 0x3F80, 0x4040, 0x4300] = (0x7FF000000000, 0x7FC00000) ∧
    dot [0x7F00, 0x3F80, 0x3FC0, 0xFEFE] [0x4300, 0x3F80, 0x4040, 0x4300] = (0x4FC000000000, 0x7F000000) ∧
    dot [0x7F00, 0x3F80, 0x3FC0, 0x4000] [0x4300, 0x3F80, 0x4040, 0x4300] = (0x50A000000000, 0x7F800000) := by decide +kernel

/-- 02, "Why group boundaries are fixed". -/
theorem test_matmul_groups : (dot ([0x3F80, 0x2C80] ++ List.replicate 30 0 ++ [0x2C80]) (List.replicate 33 0x3F80)).1 = 0x3FE000000000 ∧
    (dot ([0x3F80, 0x2C80, 0x2C80] ++ List.replicate 30 0) (List.replicate 33 0x3F80)).1 = 0x3FE000000001 := by decide +kernel

/-- 02, "Zeros". -/
theorem test_reduction_zeros : dot [0x3F80, 0xBF80] [0x3F80, 0x3F80] = (0, 0) ∧ dot [0x8000] [0x3F80] = (0, 0) ∧ (dot [0x0000] [0xFF80]).2 = 0x7FC00000 := by decide +kernel

/-- 03, "Where native and T7 arithmetic part". -/
theorem test_reduction_t7 : (dot (0x3F80 :: List.replicate 63 0x3100) (List.replicate 64 0x3F80)).2 = 0x3F800001 ∧
    (dotT7 (((0x3F80 :: List.replicate 63 0x3100).map bf16.decode).zip ((List.replicate 64 0x3F80).map bf16.decode))).1 = 0x3F800000 := by decide +kernel

/-- 03, "An update below the FP32 unit": the master after one step, and its FP32 and BF16 roundings after 64. -/
theorem test_xm48_update : (xm48.addVals (xm48.decode 0x3F8000000000) (fp32.decode 0xB0800000)).1 = 0x3F7FFFFFFC00 ∧
    (fp32.ofVal (xm48.decode 0x3F7FFFFF0000)).1 = 0x3F7FFFFF ∧ (bf16.ofVal (xm48.decode 0x3F7FFFFF0000)).1 = 0x3F80 := by decide +kernel

/-- 03 R71: halved codes tie to even. -/
theorem test_spillway_halved : halved 1 127 = 64 ∧ halved 1 5 = 2 ∧ halved 1 (-128) = -64 := by decide

/-- 05, "One destination, five partials": 2 in A48, and 3 in order of arrival. -/
theorem test_braid_merge : (mergeTree false 6 ([0x53800000, 0x3F800000, 0xD3800000, 0x3F800000, 0x3F800000].map fun c => (a48.ofVal (fp32.decode c)).1)).1 = 0x400000000000 ∧
    (fp32.ofVal (a48.decode 0x400000000000)).1 = 0x40000000 := by decide +kernel

/-- The block of 05, "One block and its transpose", as BF16 codes. -/
def block44 : List (List Nat) := [[0x4040, 0x4000, 0x3F00, 0x3E80], [0x3E80, 0x3F00, 0x4000, 0x4040], [0x3FC0, 0x3E80, 0x3F80, 0x3F00], [0x3E80, 0x3FC0, 0x3F00, 0x3F80]]

/-- Its code, its record, and the transposed code. -/
theorem test_mask44 : mask44Code (block44.map fun r => r.map bf16.decode) = 10 ∧ transpose44 10 = 18 ∧
    recordBytes 1 10 (fun r c => nth 0 (nth [] block44 r) c) =
      [0x0A, 0x40, 0x40, 0x00, 0x40, 0x00, 0x40, 0x40, 0x40, 0xC0, 0x3F, 0x80, 0x3F, 0xC0, 0x3F, 0x80, 0x3F] := by decide +kernel

/-- 05 R119: rows of bins 2, 0, 3, 2. -/
theorem test_rowbin : binPerm [3, 0, 4, 2] = [2, 0, 3, 1] ∧ (binStarts [3, 0, 4, 2]).drop 29 = [0, 1, 3, 3, 4] := by decide +kernel

/-- 09, "One block raised and normalised". -/
theorem test_remoteAcc_block :
    let r := reduceBlock [([60, -63] ++ List.replicate 30 0, 0x72), ([40, 3] ++ List.replicate 30 0, 0x86), ([-50, 1] ++ List.replicate 30 0, 0x85)] (some 0x70)
    r.sums.take 2 = [3932176, 917488] ∧ r.scale = 0x74 ∧ r.raised = 5 ∧ r.start = 0x70 := by decide +kernel

/-! ### The sampler, the rings and the registers: worked examples of the spec -/


/-- 06, "One target, two hops": Floyd's selection, with the three U of the table. -/
theorem test_sampleReq_choose : choose (fun slot _ => { c0 := 0, c1 := nth 0 [0, 0xC0000000, 0x80000000, 0x20000000] slot, c2 := 0, c3 := 0 }) 1 5 3 = [0, 2, 3] := by
  decide

/-- The Ledger entries of slots 2 and 6 of that example. -/
theorem test_hopBatchSend_ledger :
    ledgerEntry 1 0 { took := some ({ (default : Edge) with nbr := 0x0018802C1, ts := 420 }, 1) } =
      [0xC1, 0x02, 0x88, 0x01, 0x00, 0xA4, 0x01, 0x00, 0x00, 0x00, 0x00, 0x01, 0x00, 0x00, 0x00, 0x00] ∧
    ledgerEntry 2 2 { took := some ({ (default : Edge) with nbr := 0x00243E908, ts := 390 }, 0) } =
      [0x08, 0xE9, 0x43, 0x02, 0x00, 0x86, 0x01, 0x00, 0x00, 0x00, 0x00, 0x00, 0x00, 0x10, 0x00, 0x40] := by decide

/-- 13, "A replayed step seen from the host": the completion of INDEX 30 in a ring of 16 slots, and the RECOVERY event 0x151. -/
theorem test_completion_example :
    completionEntry { status := .okRecovered, info := 0x2A31, step := 4093, replays := 1, rescaled := true } 3 30 4
        (leBytes 1 4 ++ leBytes 1 1 ++ zeros 6 ++ leBytes 8 0xFFD ++ zeros 48) false =
      [0xFD, 0x0F, 0, 0, 0, 0, 0, 0, 0x31, 0x2A, 0, 0, 0, 0, 0, 0, 0xFD, 0x0F, 0, 0, 0x1E, 0, 0, 0, 0x01, 0x01, 0x02, 0x00, 0x03, 0x00, 0x04, 0x00] ∧
    eventEntry 0x0003 0x151 10 (leBytes 4 4093 ++ leBytes 1 0 ++ leBytes 1 1 ++ leBytes 1 2 ++ leBytes 1 0 ++ leBytes 2 375) =
      [0x03, 0, 0, 0, 0x51, 0x01, 0, 0, 0xFD, 0x0F, 0, 0, 0x00, 0x01, 0x02, 0x00, 0x77, 0x01] ++ zeros 13 ++ [0x80] := by decide

/-- 15 R367: the examples of aliasing. -/
theorem test_registerWrite_aliases : canonical 0x00200 = 0x00000 ∧ canonical 0x80188 = 0x00188 ∧ canonical 0x01E00 = 0x01000 ∧ canonical 0x97E10 = 0x07010 := by decide

/-- 08, "A page retired during Gather", and 15, "The corrected count of one pseudo-channel". -/
theorem test_uncorrectableRead_channel : pseudoChannel 0x00317A4025C0 = 0x65 := by decide

/-- 14 R352: the example's 80C, clusters 2, 5, 8 and 11 with six cores enabled and the others with seven. -/
theorem test_load_core_map :
    let s := { State.reset with fuse := { State.reset.fuse with order := .c80, gcEn := BitVec.ofNat 96 0x3F7F7F3F7F7F3F7F7F3F7F7F } }
    nth 0 (s.coreMap 80) 74 = 9 * 8 + 6 ∧ nth 0 (s.coreMap 80) 77 = 10 * 8 + 6 := by decide +kernel

/-! ### Commands: one step -/


/-- What a command leaves. -/
def after (c : Instr) (s : State) : State :=
  match exec c s with
  | .next t => t
  | _ => s

/-- 13 R326: RING_GO takes up the ring. -/
theorem test_reloadRing : ((after (.reloadRing 0 entry) { base .ready with regs := { State.reset.regs with ringsCtl := .of 0x00010004 } }).ring 0).running = true := by decide

/-- 15 R378: a counter's holding register after a snapshot. -/
theorem test_ctrSnap : (after .ctrSnap { base .ready with ctr := { live := [(5, 7)], hold := [] } }).ctr.hold = [(5, 7)] := by decide

/-- 15 R377: an unmapped indirect read gives 0, sets UNMAPPED and advances ADDR, which wraps. -/
theorem test_indDataRead :
    let t := after .indDataRead { base .ready with regs := { State.reset.regs with indAddr := 0xFFFFFFFC } }
    t.regs.resp = some 0 ∧ t.regs.indStatus = 2 ∧ t.regs.indAddr = 0 := by decide

/-- 13 R341: QUIESCE in QUIESCED is refused with STATE_INVALID, 0x10, in byte 24 of the completion. -/
theorem test_quiesce_twice : ((after (.quiesce ⟨0, default⟩) (ringed (base .quiesced) (desc 0x0F []))).host.out.map fun w => match w with
    | .mem _ b => field b 24 1
    | .irq v => 1000 + v) = [0x10] := by decide

/-- 13 R343: COPY of four bytes stores them. -/
theorem test_copy : (after (.copy 0 ⟨[1, 2, 3, 4], none⟩) (ringed (base .ready) (desc 0x09 [(16, hostBuf), (24, leBytes 8 0x9000), (32, leBytes 8 4)]))).mem =
    [(0x9000, 1), (0x9001, 2), (0x9002, 3), (0x9003, 4)] := by decide +kernel

/-- 14 R355: START of an IDLE task on a busy core makes it READY; END then gives it the sequencer. -/
theorem test_start : ((after (.start none 0 1 9) working).weir 0).ready = [1] ∧ ((after (.start none 0 1 9) working).weir 0).running = some 0 := by decide

theorem test_end : ((after (.end_ 0) (after (.start none 0 1 9) working)).weir 0).running = some 1 := by decide

/-- 14 R357: WAIT for a flag that is set returns and clears it. -/
theorem test_signal_wait :
    let t := after (.wait 0 8 false 0) (after (.signal 0 0 0 3) working)
    ((t.weir 0).task 0).returned = 8 ∧ ((t.weir 0).task 0).flags = 0 ∧ (t.weir 0).running = some 0 := by decide

/-- 10 R239: CRC-32C of the ASCII digits 1 to 9 is 0xE3069283 under the convention of log entry 17. -/
theorem test_crc : crc32c [0x31, 0x32, 0x33, 0x34, 0x35, 0x36, 0x37, 0x38, 0x39] = 0xE3069283 := by decide +kernel

/-- A chosen word of no row: the table gives no row any bits. -/
theorem test_decodeTableWord : decodeTableWord 8 0 = none := by decide

end Sys2Proof.Tests
end

section
/-! SUPPORT. Starting tasks and bringing the Weirs to rest touch only the cores and the counters (14 R355-R362), and what
taking up a command and completing it at once leaves alone. -/

namespace Sys2Proof.Machine

open Sys2Proof

theorem State.coresOnly_refl (s : State) : s.coresOnly s := rfl

theorem State.coresOnly_iff (s t : State) : s.coresOnly t ↔ ∃ g c, t = { s with gc := g, ctr := c } := by
  constructor
  · intro h
    refine ⟨t.gc, t.ctr, ?_⟩
    rw [← (h : { t with gc := s.gc, ctr := s.ctr } = s)]
  · rintro ⟨g, c, rfl⟩
    rfl

theorem State.coresOnly_trans {s t u : State} (h : s.coresOnly t) (k : t.coresOnly u) : s.coresOnly u := by
  obtain ⟨g, c, rfl⟩ := (State.coresOnly_iff s t).mp h
  obtain ⟨g', c', rfl⟩ := (State.coresOnly_iff _ u).mp k
  exact (State.coresOnly_iff s _).mpr ⟨g', c', rfl⟩

theorem State.coresOnly_foldl {α : Type} (f : State → α → State) (h : ∀ (s : State) x, s.coresOnly (f s x)) (l : List α) (s : State) :
    s.coresOnly (l.foldl f s) := by
  induction l generalizing s with
  | nil => exact State.coresOnly_refl s
  | cons x t ih => exact State.coresOnly_trans (h s x) (ih (f s x))

theorem State.setWeir_coresOnly (s : State) (core : Nat) (w : Weir) : s.coresOnly (s.setWeir core w) := rfl

theorem State.dispatch_coresOnly (s : State) (core : Nat) : s.coresOnly (s.dispatch core) := by
  unfold State.dispatch
  dsimp only
  split <;> rfl

theorem State.tryStart_coresOnly {s t : State} {core slot : Nat} {arg : W32} (h : s.tryStart core slot arg = some t) : s.coresOnly t := by
  unfold State.tryStart at h
  dsimp only at h
  split at h
  · cases h; rfl
  · split at h
    · split at h
      · cases h; rfl
      · cases h
    · split at h
      · cases h; rfl
      · cases h

theorem State.trySetFlag_coresOnly {s t : State} {core slot flag : Nat} (h : s.trySetFlag core slot flag = some t) : s.coresOnly t := by
  unfold State.trySetFlag at h
  dsimp only at h
  split at h
  · cases h; rfl
  · split at h
    · split at h
      · cases h; rfl
      · cases h
    · cases h; rfl

theorem State.resume_coresOnly (s : State) (issuer : Option (Nat × Nat)) : s.coresOnly (s.resume issuer) := by
  cases issuer <;> rfl

theorem State.tryHeld_coresOnly {s t : State} {core : Nat} {x : HeldOp} (h : s.tryHeld core x = some t) : s.coresOnly t := by
  cases x with
  | flag i slot f =>
    obtain ⟨u, hu, rfl⟩ := Option.map_eq_some_iff.mp h
    exact State.coresOnly_trans (State.trySetFlag_coresOnly hu) (State.resume_coresOnly u _)
  | start i slot arg =>
    obtain ⟨u, hu, rfl⟩ := Option.map_eq_some_iff.mp h
    exact State.coresOnly_trans (State.tryStart_coresOnly hu) (State.resume_coresOnly u _)
  | resume slot =>
    simp only [State.tryHeld, Option.ite_none_right_eq_some] at h
    cases h.2
    rfl

theorem State.heldPass_coresOnly (s : State) (core : Nat) : s.coresOnly (s.heldPass core) := by
  refine State.coresOnly_trans (State.setWeir_coresOnly s core _) (State.coresOnly_foldl _ (fun t x => ?_) _ _)
  split
  · next u hu => exact State.tryHeld_coresOnly hu
  · rfl

theorem State.land_coresOnly (s : State) (r : Running) : s.coresOnly (s.land r) := by
  unfold State.land
  split
  · next t ht =>
    split at ht
    · cases ht
    · obtain ⟨g, c, rfl⟩ := (State.coresOnly_iff s t).mp (State.trySetFlag_coresOnly ht)
      rfl
  · split <;> rfl

theorem State.weirPass_coresOnly (s : State) (core : Nat) : s.coresOnly (s.weirPass core) :=
  State.coresOnly_trans (State.dispatch_coresOnly s core)
    (State.coresOnly_trans (State.coresOnly_foldl _ State.land_coresOnly _ _)
      (State.coresOnly_trans (State.heldPass_coresOnly _ core) (State.dispatch_coresOnly _ core)))

theorem State.settlePasses_coresOnly (s : State) (n : Nat) : s.coresOnly (s.settlePasses n) := by
  induction n generalizing s with
  | zero => exact State.coresOnly_refl s
  | succ n ih => exact State.coresOnly_trans (State.coresOnly_foldl _ State.weirPass_coresOnly _ s) (ih _)

theorem State.settleWeirs_coresOnly (s : State) : s.coresOnly s.settleWeirs := State.settlePasses_coresOnly s _

/-- START by the management processor. -/
theorem weirStart_coresOnly (s : State) (core slot : Nat) (arg : W32) : s.coresOnly (weirStart none core slot arg s) := by
  unfold weirStart
  split
  · rfl
  · split
    · next t ht => exact State.coresOnly_trans (State.tryStart_coresOnly ht) (State.settleWeirs_coresOnly t)
    · refine State.coresOnly_trans ?_ (State.settleWeirs_coresOnly _)
      rfl

theorem State.startTasks_coresOnly (s : State) (code : Nat) (arg : W32) : s.coresOnly (s.startTasks code arg) := by
  refine State.coresOnly_foldl _ (fun t core => State.coresOnly_foldl _ (fun u slot => ?_) _ t) _ s
  dsimp only
  split
  · exact weirStart_coresOnly u core slot arg
  · rfl

/-! ### What completing a command at once leaves alone -/

/-- As a command completes, a module leaves RUNNING at most, for LOADED. -/
theorem State.settle_ms_st (s : State) : s.settle.ms.st = s.ms.st ∨ (s.ms.st = .running ∧ s.settle.ms.st = .loaded) := by
  unfold State.settle
  split
  · next h => exact Or.inr ⟨h.1, by simp [State.enter, h.1, MState.enters]⟩
  · exact Or.inl rfl

theorem State.complete_hostOnly (s : State) (n : Nat) (c : Cpl) : s.hostOnly (s.complete n c) := by
  obtain ⟨h, m, e⟩ := State.complete_eq s n c
  have settled : ∀ x : State, x.ms = s.ms → x.settle.ms.st = s.ms.st ∨ (s.ms.st = .running ∧ x.settle.ms.st = .loaded) :=
    fun x hx => by rw [← hx]; exact State.settle_ms_st x
  refine ⟨by rw [e], ?_⟩
  unfold State.complete
  dsimp only
  split
  · exact Or.inl rfl
  · apply settled
    split <;> split <;> simp

/-- A command taken up that completes at once is answered, and changes nothing else. -/
theorem State.takenUp_complete {s : State} {n op : Nat} {d : List Byte} (h : s.takes n op d) (c : Cpl) :
    s.answered n d c ((s.takenUp n).complete n c) ∧ s.hostOnly ((s.takenUp n).complete n c) := by
  refine ⟨State.answered_complete s _ n d c h.1 rfl, ?_⟩
  obtain ⟨x, e⟩ := State.takenUp_eq s n
  rw [e]
  obtain ⟨hs, hm⟩ := State.complete_hostOnly { s with host := x } n c
  exact ⟨congrArg (fun u : State => { u with host := s.host }) hs, hm⟩

/-- Once an EVAL or EVIDENCE_EXPORT has been taken up the module is RUNNING, with the command in progress under its INDEX. -/
theorem State.startRunning_takenUp {s : State} {n op : Nat} {d : List Byte} (h : s.takes n op d) (ho : op = 0x05 ∨ op = 0x0D) :
    ∃ x, (s.takenUp n).startRunning = { s with host := x, ms := { s.ms with st := .running } } ∧
      (NMap.get Ring.stopped x.rings n).busy = some (s.nextIndex n, d) := by
  have hb := State.takenUp_busy s n d h.1
  obtain ⟨y, ey⟩ := State.takenUp_eq s n
  obtain ⟨x, m, e⟩ := State.startRunning_eq (s.takenUp n)
  have hr := State.startRunning_rings (s.takenUp n)
  have hm : (s.takenUp n).startRunning.ms.st = .running := by
    have hl : s.ms.st = .loaded ∨ s.ms.st = .running := by
      have := h.2.2.2.1
      rcases ho with rfl | rfl <;> cases hs : s.ms.st <;> simp_all [legal]
    rw [ey]
    rcases hl with hl | hl <;> simp [State.startRunning, State.enter, hl, MState.enters]
  rw [e] at hr hm
  refine ⟨x, ?_, ?_⟩
  · rw [e, ← hm, ey]
  · rw [hr]
    exact hb

end Sys2Proof.Machine
end

section
/-! SUPPORT. EVALs in progress: the order in which they stand, which of them has the cores, and what taking one up and closing a window leave
alone (01 R33, 12 R315, R316). -/

namespace Sys2Proof.Machine

open Sys2Proof

/-! ### The order of EVALs -/

/-- EVALs in progress as the cores have them: where there is a program (`p`), the first has begun unless it waits for its window. -/
def firstBegun (p : Bool) : List EvalRun → List EvalRun
  | [] => []
  | e :: es => { e with begun := e.begun || (p && !e.waits) } :: es

/-- EVALs in progress in the order of 12 R316, those that wait for their window last, as the cores then have them. -/
def evalOrder (p : Bool) (l : List EvalRun) : List EvalRun := firstBegun p (l.filter (!·.waits) ++ l.filter (·.waits))

/-- An EVAL as the close of the window after step `c` leaves it: one that waited for it draws. -/
def EvalRun.drawnAt (c : Nat) (e : EvalRun) : EvalRun := { e with drawing := e.drawing || (e.waits && e.pinned == c) }

theorem EvalRun.drawnAt_eq (c : Nat) (e : EvalRun) : e.drawnAt c = if e.waits && e.pinned == c then { e with drawing := true } else e := by
  unfold EvalRun.drawnAt
  split <;> simp [*]

theorem length_firstBegun (p : Bool) (l : List EvalRun) : (firstBegun p l).length = l.length := by cases l <;> rfl

theorem mem_firstBegun {p : Bool} {l : List EvalRun} {x : EvalRun} (h : x ∈ l) : ∃ b, { x with begun := b } ∈ firstBegun p l := by
  cases l with
  | nil => cases h
  | cons e es =>
    rcases List.mem_cons.mp h with rfl | h
    · exact ⟨_, List.mem_cons_self⟩
    · exact ⟨x.begun, List.mem_cons_of_mem _ h⟩

/-- Nothing but having begun tells an EVAL that the cores have from the one taken up. -/
theorem of_mem_firstBegun {p : Bool} {l : List EvalRun} {y : EvalRun} (h : y ∈ firstBegun p l) : ∃ x ∈ l, ∃ b, y = { x with begun := b } := by
  cases l with
  | nil => cases h
  | cons e es =>
    rcases List.mem_cons.mp h with rfl | h
    · exact ⟨e, List.mem_cons_self, _, rfl⟩
    · exact ⟨y, List.mem_cons_of_mem _ h, y.begun, rfl⟩

theorem firstBegun_head {l : List EvalRun} {x : EvalRun} (h : x ∈ (firstBegun true l).head?) (hw : x.waits = false) : x.begun = true := by
  cases l with
  | nil => cases h
  | cons e es =>
    obtain rfl : _ = x := Option.some.inj h
    have he : e.waits = false := hw
    simp [he]

theorem mem_inOrder {l : List EvalRun} {x : EvalRun} : x ∈ l.filter (!·.waits) ++ l.filter (·.waits) ↔ x ∈ l := by
  cases h : x.waits <;> simp [h]

theorem length_evalOrder (p : Bool) (l : List EvalRun) : (evalOrder p l).length = l.length := by
  have := (List.filter_append_perm (fun e : EvalRun => e.waits) l).length_eq
  rw [evalOrder, length_firstBegun, List.length_append, Nat.add_comm, ← List.length_append]
  exact this

theorem mem_evalOrder {p : Bool} {l : List EvalRun} {x : EvalRun} (h : x ∈ l) : ∃ b, { x with begun := b } ∈ evalOrder p l :=
  mem_firstBegun (mem_inOrder.mpr h)

theorem of_mem_evalOrder {p : Bool} {l : List EvalRun} {y : EvalRun} (h : y ∈ evalOrder p l) : ∃ x ∈ l, ∃ b, y = { x with begun := b } := by
  obtain ⟨x, hx, hy⟩ := of_mem_firstBegun h
  exact ⟨x, mem_inOrder.mp hx, hy⟩

/-! ### What EVALs may store -/

/-- On the way from `s` to `t` the module has stored nothing but in the attention areas of EVIDENCE_EXPORTs among `l`, and its host side and its state are as
they were. -/
def State.evalsMove (s : State) (l : List EvalRun) (t : State) : Prop := t.host = s.host ∧ t.ms = s.ms ∧ s.storesBut t (s.attention l)

theorem State.storesBut_of_mem {s t : State} {l : List Region} (hm : t.mem = s.mem) (hn : t.nor = s.nor) (hx : t.sermem = s.sermem) (hf : t.fuse = s.fuse)
    (hp : t.prog = s.prog) : s.storesBut t l := ⟨fun a _ => by rw [State.byte, hm], hn, hx, hf, hp⟩

/-- The attention areas of EVALs depend on the program and their specifications only. -/
theorem State.attention_mono {s : State} {k l : List EvalRun} (h : ∀ x ∈ k, ∃ y ∈ l, y.spec = x.spec) : s.attention k ⊆ s.attention l := by
  unfold State.attention
  cases s.prog with
  | none => exact List.Subset.refl _
  | some p =>
    intro r hr
    obtain ⟨x, hx, rfl⟩ := List.mem_map.mp hr
    obtain ⟨y, hy, e⟩ := h x hx
    exact List.mem_map.mpr ⟨y, hy, by rw [e]⟩

theorem State.attention_congr {s t : State} (h : t.prog = s.prog) (l : List EvalRun) : t.attention l = s.attention l := by
  simp only [State.attention, State.spec, State.decl, h]

theorem State.evalsMove_mono {s t : State} {k l : List EvalRun} (h : ∀ x ∈ k, ∃ y ∈ l, y.spec = x.spec) (m : s.evalsMove k t) : s.evalsMove l t := by
  obtain ⟨hh, hm, ho, hk⟩ := m
  exact ⟨hh, hm, fun a ha => ho a fun w hw => ha w (State.attention_mono h hw), hk⟩

theorem State.evalsMove_trans {s t u : State} {l : List EvalRun} (h : s.evalsMove l t) (k : t.evalsMove l u) : s.evalsMove l u := by
  obtain ⟨hh, hm, ho, hn, hx, hf, hp⟩ := h
  obtain ⟨kh, km, ko, kn, kx, kf, kp⟩ := k
  rw [State.attention_congr hp] at ko
  exact ⟨kh.trans hh, km.trans hm, fun a ha => (ko a ha).trans (ho a ha), kn.trans hn, kx.trans hx, kf.trans hf, kp.trans hp⟩

theorem State.evalsMove_of_coresOnly {s t : State} (h : s.coresOnly t) (l : List EvalRun) : s.evalsMove l t := by
  obtain ⟨g, c, rfl⟩ := (State.coresOnly_iff s t).mp h
  exact ⟨rfl, rfl, State.storesBut_of_mem rfl rfl rfl rfl rfl⟩

/-! ### The cores take up an EVAL -/

theorem length_flatMap_leBytes (n : Nat) (l : List Nat) : (l.flatMap (leBytes n)).length = n * l.length := by
  induction l with
  | nil => rfl
  | cons x t ih => rw [List.flatMap_cons, List.length_append, length_leBytes, ih, List.length_cons]; ring

/-- Blanking an attention area stores in that area only (12 R319). -/
theorem State.blankAttention_move (s : State) (p : Program) (e : EvalRun) (hp : s.prog = some p) : s.evalsMove [e] (s.blankAttention p e) := by
  refine ⟨rfl, rfl, fun a ha => ?_, rfl, rfl, rfl, rfl⟩
  apply State.byte_write_outside
  rw [length_flatMap_leBytes, List.length_replicate]
  simpa [State.attention, hp] using ha

/-- The first EVAL that does not wait has the cores; an EVIDENCE_EXPORT that takes them has its attention area blanked. -/
theorem State.startEval_spec (s : State) : s.evalsMove (s.st.evals.filter (·.evidence)) s.startEval ∧
    s.startEval.st = { s.st with evals := firstBegun s.prog.isSome s.st.evals } := by
  have stays : ∀ l, s.evalsMove l s := fun l => State.evalsMove_of_coresOnly (State.coresOnly_refl s) l
  unfold State.startEval
  split
  · next e es p he hp =>
    split
    · next h =>
      refine ⟨stays _, ?_⟩
      have hb : (e.begun || !e.waits) = e.begun := by revert h; cases e.waits <;> simp +contextual
      rw [he, hp, firstBegun, Option.isSome_some, Bool.true_and, hb, ← he]
    · next h =>
      obtain ⟨hw, -⟩ : e.waits = false ∧ e.begun = false := by simpa using h
      generalize hu : (if e.evidence then s.blankAttention p e else s) = u
      have hm : s.evalsMove (s.st.evals.filter (·.evidence)) u ∧ u.st = s.st := by
        rw [← hu, he]
        split
        · next hv => exact ⟨State.evalsMove_mono (fun x hx => ⟨x, by simp_all, rfl⟩) (s.blankAttention_move p e hp), rfl⟩
        · exact ⟨stays _, rfl⟩
      have hc := State.startTasks_coresOnly { u with st := { u.st with evals := { e with begun := true } :: es } } 6 (BitVec.ofNat 32 e.pinned)
      refine ⟨State.evalsMove_trans hm.1 (State.evalsMove_of_coresOnly (s := { u with st := _ }) hc _), ?_⟩
      obtain ⟨g, c, e'⟩ := (State.coresOnly_iff _ _).mp hc
      rw [e', he, hp, hm.2]
      simp [firstBegun, hw]
  · next hn =>
    refine ⟨stays _, ?_⟩
    cases he : s.st.evals with
    | nil => rw [firstBegun, ← he]
    | cons e es =>
      cases hp : s.prog with
      | none => simp [firstBegun, ← he]
      | some p => exact absurd hp (hn e es p he)

/-- EVALs put in order, and the cores with the first (12 R316). -/
theorem State.orderEvals_spec (s : State) (l : List EvalRun) : s.evalsMove (l.filter (·.evidence)) (s.orderEvals l) ∧
    (s.orderEvals l).st = { s.st with evals := evalOrder s.prog.isSome l } := by
  obtain ⟨hm, hs⟩ := State.startEval_spec { s with st := { s.st with evals := l.filter (!·.waits) ++ l.filter (·.waits) } }
  refine ⟨State.evalsMove_mono (fun x hx => ⟨x, ?_, rfl⟩) (s := s) hm, hs⟩
  obtain ⟨hx, he⟩ := List.mem_filter.mp hx
  exact List.mem_filter.mpr ⟨mem_inOrder.mp hx, he⟩

/-- The close of a window lets each EVIDENCE_EXPORT that waited for it draw. -/
theorem State.closeWindow_spec (s : State) (c v : Nat) : s.evalsMove s.st.evals (s.closeWindow c v) ∧
    (s.closeWindow c v).st.evals = evalOrder s.prog.isSome (s.st.evals.map (·.drawnAt c)) := by
  have hd : (s.st.evals.map fun e => if e.waits && e.pinned == c then { e with drawing := true } else e) = s.st.evals.map (·.drawnAt c) :=
    List.map_congr_left fun e _ => (e.drawnAt_eq c).symm
  unfold State.closeWindow
  dsimp only
  rw [hd]
  generalize hu : ({ s with st := { s.st with windowClosed := _ }, wd := _ } : State) = u
  obtain ⟨hm, hs⟩ := State.orderEvals_spec u (s.st.evals.map (·.drawnAt c))
  subst hu
  refine ⟨State.evalsMove_mono (s := s) (fun x hx => ?_) hm, congrArg StepState.evals hs⟩
  obtain ⟨e, he, rfl⟩ := List.mem_map.mp (List.mem_filter.mp hx).1
  exact ⟨e, he, rfl⟩

/-! ### Asking for a window to be closed -/

/-- Arriving at a barrier, and gathering at it, changes the barriers, the network side and the counters only. -/
theorem State.gatherBarrier_eq (s : State) (kind : Nat) : ∃ b n c, s.gatherBarrier kind = { s with bar := b, net := n, ctr := c } := by
  unfold State.gatherBarrier
  dsimp only
  split
  · exact ⟨s.bar, s.net, s.ctr, rfl⟩
  · have sent : ∀ m, ∃ b n c, (s.setBarrier kind { s.barrier kind with up := true }).send m = { s with bar := b, net := n, ctr := c } := fun m => by
      obtain ⟨n, c, e⟩ := State.send_eq (s.setBarrier kind { s.barrier kind with up := true }) m
      exact ⟨_, n, c, e⟩
    split
    · split
      · exact sent _
      · exact sent _
    · exact ⟨s.bar, s.net, s.ctr, rfl⟩

theorem State.arrive_eq (s : State) (kind step attempt value : Nat) :
    ∃ b n c, s.arrive kind step attempt value = { s with bar := b, net := n, ctr := c } := by
  obtain ⟨b, n, c, e⟩ := State.gatherBarrier_eq (s.setBarrier kind { s.barrier kind with own := some (step, attempt, value), up := false }) kind
  exact ⟨b, n, c, e⟩

theorem State.tryWindow_eq (s : State) : ∃ b n c w u, s.tryWindow = { s with bar := b, net := n, ctr := c, wd := w, st := { s.st with windowShut := u } } := by
  unfold State.tryWindow
  split
  · obtain ⟨b, n, c, e⟩ := State.arrive_eq { s with
      st := { s.st with windowShut := true }
      wd := if s.wd.isNone then some .window else s.wd } bWindow s.lastStep 0 (!s.st.applied.isEmpty).toNat
    exact ⟨b, n, c, _, true, e⟩
  · exact ⟨s.bar, s.net, s.ctr, s.wd, s.st.windowShut, rfl⟩

/-- While the window is open, asking for its barrier leaves the EVALs as they are. -/
theorem State.askWindow_open (s : State) (c : Nat) (l : List EvalRun) (h : s.windowBit c = none) :
    s.evalsMove l (s.askWindow c) ∧ (s.askWindow c).st.evals = s.st.evals := by
  unfold State.askWindow
  rw [h]
  dsimp only
  generalize hu : (if s.wd.isNone then { s with wd := some .window } else s) = u
  have hs : ∃ w, u = { s with wd := w } := by
    rw [← hu]
    split
    · exact ⟨_, rfl⟩
    · exact ⟨s.wd, rfl⟩
  obtain ⟨w, rfl⟩ := hs
  split
  · exact ⟨⟨rfl, rfl, State.storesBut_of_mem rfl rfl rfl rfl rfl⟩, rfl⟩
  · obtain ⟨n, k, e⟩ := State.sendAll_eq { s with wd := w } (State.others { s with wd := w }) fun o => mkMsg 6 bWindow 0 o (barrierBody c 0 2)
    rw [e]
    obtain ⟨b, n', k', w', x, e'⟩ := State.tryWindow_eq { s with wd := w, net := n, ctr := k, st := { s.st with windowAsked := true } }
    rw [e']
    exact ⟨⟨rfl, rfl, State.storesBut_of_mem rfl rfl rfl rfl rfl⟩, rfl⟩

/-- A window that is already closed is closed at once for an EVIDENCE_EXPORT that asks for it. -/
theorem State.askWindow_closed (s : State) (c : Nat) (v : Bool) (h : s.windowBit c = some v) : s.askWindow c = s.closeWindow c v.toNat := by
  rw [State.askWindow, h]

end Sys2Proof.Machine
end

section
/-! PROOFS. EVAL and EVIDENCE_EXPORT as they are taken up or refused (01 R33, R35, 12 R315, R316, 13 R343). -/

namespace Sys2Proof.Machine

open Sys2Proof

/-! ### One that is taken up -/

/-- The EVAL or EVIDENCE_EXPORT of ring `ring` as it is taken up, pinned to the step last completed. -/
def State.newEval (s : State) (ring tag spec : Nat) (targets : List Target) (evidence : Bool) : EvalRun where
  ring := ring
  tag := tag
  evidence := evidence
  pinned := s.pinNow
  spec := spec
  targets := targets
  epoch := s.st.epoch
  begun := false
  drawing := !evidence
  hop := 0
  asked := []
  attribution := false
  fault := none
  rescaled := false
  offsets := s.st.offsets
  batches := 0

/-- Command `d` of ring `n` is in progress on a RUNNING module, which has stored nothing but in the attention areas of the EVALs `l`. -/
def State.underway (s : State) (n : Nat) (d : List Byte) (l : List EvalRun) (t : State) : Prop :=
  t.ms.st = .running ∧ (t.ring n).busy = some (s.nextIndex n, d) ∧ s.storesBut t (s.attention l)

theorem State.underway_move {s t u : State} {n : Nat} {d : List Byte} {l : List EvalRun} (h : s.underway n d l t) (m : t.evalsMove l u) :
    s.underway n d l u := by
  obtain ⟨hr, hb, ho, hn, hx, hf, hp⟩ := h
  obtain ⟨mh, mm, mo, mn, mx, mf, mp⟩ := m
  rw [State.attention_congr hp] at mo
  exact ⟨by rw [mm, hr], by rw [State.ring, mh]; exact hb, fun a ha => (mo a ha).trans (ho a ha), mn.trans hn, mx.trans hx, mf.trans hf, mp.trans hp⟩

theorem State.underway_mono {s t : State} {n : Nat} {d : List Byte} {k l : List EvalRun} (h : ∀ x ∈ k, ∃ y ∈ l, y.spec = x.spec)
    (m : s.underway n d k t) : s.underway n d l t := by
  obtain ⟨hr, hb, ho, hk⟩ := m
  exact ⟨hr, hb, fun a ha => ho a fun w hw => ha w (State.attention_mono h hw), hk⟩

theorem State.underway_last {s t : State} {n : Nat} {d : List Byte} {l : List EvalRun} {e e' : EvalRun}
    (m : s.underway n d (l ++ [e]) t) (he : e'.spec = e.spec) : s.underway n d (l ++ [e']) t := by
  refine State.underway_mono (fun x hx => ?_) m
  rcases List.mem_append.mp hx with hx | hx
  · exact ⟨x, List.mem_append_left _ hx, rfl⟩
  · cases List.mem_singleton.mp hx
    exact ⟨e', by simp, he⟩

/-- One that is taken up is under way, and stands among the others in their order. -/
theorem State.beginEval_spec {s : State} {n op : Nat} {d : List Byte} (h : s.takes n op d) (ho : op = 0x05 ∨ op = 0x0D) (tag spec : Nat)
    (ts : List Target) (ev : Bool) :
    s.underway n d ((s.st.evals ++ [s.newEval n tag spec ts ev]).filter (·.evidence)) ((s.takenUp n).beginEval n tag spec ts ev) ∧
    ((s.takenUp n).beginEval n tag spec ts ev).st =
      { s.st with evals := evalOrder s.prog.isSome (s.st.evals ++ [s.newEval n tag spec ts ev]) } := by
  obtain ⟨x, ex, hb⟩ := State.startRunning_takenUp h ho
  obtain ⟨y, ey⟩ := State.takenUp_eq s n
  have e : (s.takenUp n).beginEval n tag spec ts ev =
      State.orderEvals { s with host := x, ms := { s.ms with st := .running } } (s.st.evals ++ [s.newEval n tag spec ts ev]) := by
    unfold State.beginEval
    rw [ex, ey]
    rfl
  rw [e]
  obtain ⟨hm, hs⟩ := State.orderEvals_spec { s with host := x, ms := { s.ms with st := .running } } (s.st.evals ++ [s.newEval n tag spec ts ev])
  have hv : ∀ l, s.underway n d l { s with host := x, ms := { s.ms with st := .running } } := fun _ => ⟨rfl, hb, State.storesBut_of_mem rfl rfl rfl rfl rfl⟩
  exact ⟨State.underway_move (hv _) hm, hs⟩

/-- Among the EVALs of a state, in their order, stand those that there were, and one more. -/
theorem State.taken_of_evalOrder {s t : State} {e : EvalRun} {l : List EvalRun} (ht : t.st.evals = evalOrder s.prog.isSome l)
    (hn : l.length = s.st.evals.length + 1) (hl : ∀ x ∈ s.st.evals, ∃ b q, { x with begun := b, drawing := q } ∈ l) (he : e ∈ t.st.evals) :
    s.taken t e := by
  refine ⟨he, by rw [ht, length_evalOrder, hn], fun x hx => ?_, fun hp x hx hw => ?_⟩
  · obtain ⟨b, q, hq⟩ := hl x hx
    obtain ⟨b', hb'⟩ := mem_evalOrder (p := s.prog.isSome) hq
    exact ⟨{ x with begun := b', drawing := q }, ht.symm ▸ hb', rfl⟩
  · rw [ht, hp] at hx
    exact firstBegun_head hx hw

/-- The same where the one more is the last that was put in order. -/
theorem State.taken_of_append {s t : State} {e : EvalRun} (ht : t.st.evals = evalOrder s.prog.isSome (s.st.evals ++ [e])) :
    ∃ b, s.taken t { e with begun := b } := by
  obtain ⟨b, hb⟩ := mem_evalOrder (p := s.prog.isSome) (List.mem_append_right s.st.evals (List.mem_singleton_self e))
  exact ⟨b, State.taken_of_evalOrder ht (by simp) (fun x hx => ⟨x.begun, x.drawing, List.mem_append_left _ hx⟩) (ht ▸ hb)⟩

/-! ### EVAL -/

section
variable {s : State} {n : Nat} {d host : List Byte} (h : s.takes n 0x05 d) (hm : s.evalMayBegin = true)
include h hm

theorem eval_refused {x : Status} (hx : s.evalRefused d host = some x) :
    eval n host s = (s.takenUp n).complete n { status := x, info := s.st.epoch, step := s.pinNow } := by
  obtain ⟨y, e⟩ := State.takenUp_eq s n
  have hx' : State.evalRefused { s with host := y } d host = some x := hx
  unfold eval
  rw [State.command_takes s n 0x05 d _ _ h (by simp [hm]), e]
  simp only [hx']
  rfl

theorem eval_accepted {b : List Byte} (hx : s.evalRefused d host = none) (hb : s.readBuffer (field d 16 8) (16 * field d 24 4) host = .ok b) :
    eval n host s = (s.takenUp n).beginEval n (descTag d) (bits (field d 28 1) 0 4) (targetsOf b) false := by
  obtain ⟨y, e⟩ := State.takenUp_eq s n
  have hx' : State.evalRefused { s with host := y } d host = none := hx
  have hb' : State.readBuffer { s with host := y } (field d 16 8) (16 * field d 24 4) host = .ok b := hb
  unfold eval
  rw [State.command_takes s n 0x05 d _ _ h (by simp [hm]), e]
  simp only [hx', hb']

/-- An EVAL that its own checks refuse ends with their code, pinned to the step last completed, with the graph epoch as INFO. -/
theorem eval_answers {x : Status} (hx : s.evalRefused d host = some x) :
    ∃ t, exec (.eval n host) s = .next t ∧ s.answered n d { status := x, info := s.st.epoch, step := s.pinNow } t ∧ s.hostOnly t :=
  ⟨_, congrArg Host.Outcome.next (eval_refused h hm hx), State.takenUp_complete h _⟩

/-- An EVAL that its checks accept draws at once, behind those in progress. -/
theorem eval_taken {b : List Byte} (hx : s.evalRefused d host = none) (hb : s.readBuffer (field d 16 8) (16 * field d 24 4) host = .ok b) :
    ∃ t c, exec (.eval n host) s = .next t ∧
      s.taken t { s.newEval n (descTag d) (bits (field d 28 1) 0 4) (targetsOf b) false with begun := c } ∧ s.underway n d s.st.evals t := by
  obtain ⟨hu, hs⟩ := State.beginEval_spec h (.inl rfl) (descTag d) (bits (field d 28 1) 0 4) (targetsOf b) false
  obtain ⟨c, hc⟩ := State.taken_of_append (congrArg StepState.evals hs)
  refine ⟨_, c, congrArg Host.Outcome.next (eval_accepted h hm hx hb), hc, State.underway_mono (fun x hx => ⟨x, ?_, rfl⟩) hu⟩
  obtain ⟨hx, he⟩ := List.mem_filter.mp hx
  rcases List.mem_append.mp hx with hx | hx
  · exact hx
  · cases List.mem_singleton.mp hx
    cases he

end

/-! ### EVIDENCE_EXPORT -/

section
variable {s : State} {n : Nat} {d : List Byte} (h : s.takes n 0x0D d) (hm : s.evalMayBegin = true)
include h hm

/-- An EVIDENCE_EXPORT whose calibration or targets are at fault ends with the code. -/
theorem evidenceExport_answers {x : Status}
    (hx : (if s.calibrated then s.targetFault (bits (field d 32 1) 0 4) (targetsOf (slice d 16 16)) else some .stateInvalid) = some x) :
    ∃ t, exec (.evidenceExport n) s = .next t ∧ s.answered n d { status := x, step := s.pinNow } t ∧ s.hostOnly t := by
  obtain ⟨y, e⟩ := State.takenUp_eq s n
  have hx' : (if State.calibrated { s with host := y } then State.targetFault { s with host := y } (bits (field d 32 1) 0 4)
    (targetsOf (slice d 16 16)) else some .stateInvalid) = some x := hx
  have he : evidenceExport n s = (s.takenUp n).complete n { status := x, step := s.pinNow } := by
    unfold evidenceExport
    rw [State.command_takes s n 0x0D d _ _ h (by simp [hm]), e]
    simp only [hx']
    rfl
  exact ⟨_, congrArg Host.Outcome.next he, State.takenUp_complete h _⟩

variable (hc : s.calibrated = true) {sp : SampSpec} {dc : Decl} (hsp : s.spec (bits (field d 32 1) 0 4) = some sp) (hdc : s.decl = some dc)
  (hf : s.targetFault (bits (field d 32 1) 0 4) (targetsOf (slice d 16 16)) = none)
include hc hsp hdc hf

/-- An EVIDENCE_EXPORT that its calibration and its targets let by is judged by the length of its buffer. -/
theorem evidenceExport_judged : evidenceExport n s =
    if field d 48 4 < evidenceBody dc s.inTables (slotCount (fanouts sp)) + 2420 then (s.takenUp n).complete n { status := .resourceShort, step := s.pinNow }
    else ((s.takenUp n).beginEval n (descTag d) (bits (field d 32 1) 0 4) (targetsOf (slice d 16 16)) true).askWindow s.pinNow := by
  obtain ⟨y, e⟩ := State.takenUp_eq s n
  have hc' : State.calibrated { s with host := y } = true := hc
  have hsp' : State.spec { s with host := y } (bits (field d 32 1) 0 4) = some sp := hsp
  have hdc' : State.decl { s with host := y } = some dc := hdc
  have hf' : State.targetFault { s with host := y } (bits (field d 32 1) 0 4) (targetsOf (slice d 16 16)) = none := hf
  unfold evidenceExport
  rw [State.command_takes s n 0x0D d _ _ h (by simp [hm]), e]
  simp only [hc', hsp', hdc', hf', if_true]
  rfl

theorem evidenceExport_short (hl : field d 48 4 < evidenceBody dc s.inTables (slotCount (fanouts sp)) + 2420) :
    ∃ t, exec (.evidenceExport n) s = .next t ∧ s.answered n d { status := .resourceShort, step := s.pinNow } t ∧ s.hostOnly t :=
  ⟨_, congrArg Host.Outcome.next ((evidenceExport_judged h hm hc hsp hdc hf).trans (if_pos hl)), State.takenUp_complete h _⟩

/-- An EVIDENCE_EXPORT that is taken up draws once the window after its step is closed. -/
theorem evidenceExport_taken (hl : evidenceBody dc s.inTables (slotCount (fanouts sp)) + 2420 ≤ field d 48 4) :
    ∃ t c, exec (.evidenceExport n) s = .next t ∧
      s.taken t { s.newEval n (descTag d) (bits (field d 32 1) 0 4) (targetsOf (slice d 16 16)) true with
        begun := c, drawing := (s.windowBit s.pinNow).isSome } ∧
      s.underway n d (s.st.evals ++ [s.newEval n (descTag d) (bits (field d 32 1) 0 4) (targetsOf (slice d 16 16)) true]) t := by
  have hx := (evidenceExport_judged h hm hc hsp hdc hf).trans (if_neg (Nat.not_lt.mpr hl))
  obtain ⟨hu, hs⟩ := State.beginEval_spec h (.inr rfl) (descTag d) (bits (field d 32 1) 0 4) (targetsOf (slice d 16 16)) true
  revert hx hu hs
  generalize he : s.newEval n (descTag d) (bits (field d 32 1) 0 4) (targetsOf (slice d 16 16)) true = e
  generalize State.beginEval _ _ _ _ _ _ = u
  intro hx hu hs
  have hu := State.underway_mono (l := s.st.evals ++ [e]) (fun x hx => ⟨x, List.mem_of_mem_filter hx, rfl⟩) hu
  have hev : u.st.evals = evalOrder s.prog.isSome (s.st.evals ++ [e]) := congrArg StepState.evals hs
  have hw : u.windowBit s.pinNow = s.windowBit s.pinNow := by rw [State.windowBit, hs]; rfl
  have hp : u.prog = s.prog := hu.2.2.2.2.2.2
  cases hv : s.windowBit s.pinNow with
  | none =>
    obtain ⟨hm', ha⟩ := u.askWindow_open s.pinNow (s.st.evals ++ [e]) (hw.trans hv)
    obtain ⟨c, ht⟩ := State.taken_of_append (ha.trans hev)
    subst he
    exact ⟨_, c, congrArg Host.Outcome.next hx, ht, State.underway_move hu hm'⟩
  | some v =>
    obtain ⟨hm', ha⟩ := u.closeWindow_spec s.pinNow v.toNat
    rw [← u.askWindow_closed s.pinNow v (hw.trans hv)] at hm' ha
    rw [hp] at ha
    have drawn : ∀ x ∈ s.st.evals ++ [e], ∃ b, EvalRun.drawnAt s.pinNow { x with begun := b } ∈ u.st.evals.map (·.drawnAt s.pinNow) := by
      intro x hx
      obtain ⟨b, hb⟩ := mem_evalOrder (p := s.prog.isSome) hx
      exact ⟨b, List.mem_map_of_mem (hev ▸ hb)⟩
    obtain ⟨b, hb⟩ := drawn e (by simp)
    obtain ⟨c, hc⟩ := mem_evalOrder (p := s.prog.isSome) hb
    rw [← ha] at hc
    refine ⟨_, c, congrArg Host.Outcome.next hx, State.taken_of_evalOrder ha ?_ ?_ ?_, State.underway_move hu (State.evalsMove_mono ?_ hm')⟩
    · rw [List.length_map, hev, length_evalOrder, List.length_append, List.length_singleton]
    · intro x hx
      obtain ⟨b, hb⟩ := drawn x (List.mem_append_left _ hx)
      exact ⟨_, _, hb⟩
    · subst he
      simpa [EvalRun.drawnAt, EvalRun.waits, State.newEval] using hc
    · intro x hx
      obtain ⟨y, hy, b, rfl⟩ := of_mem_evalOrder (hev ▸ hx)
      exact ⟨y, hy, rfl⟩

end

/-! ### The obligation -/

/-- Settles O27: the command is taken up by the checks that every command shares, its own checks decide between a completion and an EVAL in progress, and
an EVIDENCE_EXPORT draws only when the window after its step is found closed. -/
theorem evalsTaken : Obligations.EvalsTaken := by
  unfold Obligations.EvalsTaken
  intro s n d host hm
  refine ⟨fun h => ⟨fun hc => ?_, fun hc => ⟨fun x hx => ?_, ?_⟩⟩, fun h => ⟨fun hc => ?_, fun hc => ?_⟩⟩
  · exact eval_answers h hm (by simp [State.evalRefused, hc])
  · exact eval_answers h hm (by simp [State.evalRefused, hc, hx])
  · rintro b ts spec hb rfl rfl
    refine ⟨fun hf hl => ?_, fun hf hl => ?_, fun x hf => ?_⟩
    · obtain ⟨t, c, ht, hk, hr, hi, ho⟩ := eval_taken h hm (by simp [State.evalRefused, hc, hb, hf, hl]) hb
      exact ⟨t, _, ht, hk, rfl, rfl, rfl, rfl, rfl, rfl, rfl, rfl, rfl, rfl, hr, hi, ho⟩
    · exact eval_answers h hm (by simp [State.evalRefused, hc, hb, hf, hl])
    · exact eval_answers h hm (by simp [State.evalRefused, hc, hb, hf])
  · exact evidenceExport_answers h hm (by simp [hc])
  · rintro spec ts rfl rfl
    refine ⟨fun x hf => evidenceExport_answers h hm (by simp [hc, hf]), ?_⟩
    rintro sp dc len hsp hdc hf rfl
    refine ⟨fun hl => ?_, evidenceExport_short h hm hc hsp hdc hf⟩
    obtain ⟨t, c, ht, hk, hu⟩ := evidenceExport_taken h hm hc hsp hdc hf hl
    exact ⟨t, _, ht, hk, rfl, rfl, rfl, rfl, rfl, rfl, rfl, State.underway_last hu rfl⟩

end Sys2Proof.Machine
end

section
/-! PROOFS. Statements of the training step that a state outside their premises refutes (01 R12, R29, 11 R279, 13 R343). -/

namespace Sys2Proof.Machine

open Sys2Proof Sys2Proof.Tests

/-! ### The watchdog of a module that is not a member -/

/-- Rank 0 QUIESCED with a step that waits in Sample. -/
def quiescedInStep : State := { stepping (duo .quiesced) .sample with wd := some .sampleExchange }

/-- Refutes O43: a module that is live and no member reports nothing. Here it is QUIESCED with a step that waits in Sample; its watchdog's expiry is to be
reported to rank 0, and no message leaves. -/
theorem not_heartbeats : ¬ Obligations.Heartbeats := by
  unfold Obligations.Heartbeats
  intro h
  have hr : 0 ∈ quiescedInStep.reportTo := by decide
  obtain ⟨-, -, -, -, -, -, -, -, hw⟩ := h quiescedInStep
  obtain ⟨hw, -⟩ := hw .sampleExchange (by decide) (by decide) (by decide)
  obtain ⟨t, ht, -, -, -, -, -, he⟩ := hw (by decide) (.inl rfl)
  cases ht
  obtain ⟨m, hm, -⟩ := he 0 hr
  have silent : (watchdogExpiry quiescedInStep).net.sent = [] := by decide
  rw [silent] at hm
  cases hm

/-! ### A digest that has been told -/

/-- Rank 0 behind no step, whose part of the MODEL_HASH after it has been told already. -/
def toldDigest : State := { duo .loaded with st := { StepState.reset with hashes := [{ step := 0xFFFFFFFF, asked := false, told := true, digests := [], rows := [] }] } }

/-- A request for the part of the MODEL_HASH after the last step, before any. -/
def askDigest : Msg := msg 6 5 0 (leBytes 4 0xFFFFFFFF ++ zeros 4 ++ leBytes 8 4)

/-- Refutes O26: a member that has told its digest before the request for it comes does not send it again. Here rank 0 has told it, and nothing goes to
rank 1. -/
theorem not_programAndWindow : ¬ Obligations.ProgramAndWindow := by
  unfold Obligations.ProgramAndWindow
  rintro ⟨-, -, h⟩
  have hd : (toldDigest.rankDigest (toldDigest.hashRun 0xFFFFFFFF)).isSome = true := by decide +kernel
  obtain ⟨d, hd⟩ := Option.isSome_iff_exists.mp hd
  obtain ⟨-, h, -⟩ := h toldDigest askDigest 0xFFFFFFFF (by decide)
  obtain ⟨t, ht, he⟩ := h d (by decide) rfl rfl rfl (by decide) (by decide) (by decide) (by decide) hd
  cases ht
  obtain ⟨m, hm, -⟩ := he 1 (by decide)
  have silent : (barrierWindow askDigest toldDigest).net.sent = [] := by decide
  rw [silent] at hm
  cases hm

/-! ### An action behind a ring that stands twice in the map -/

/-- MIGRATE of one row of table 0. -/
def migrateOne : List Byte := actD 0x08 hostBuf none

/-- Ring 0 has a MIGRATE at its front; behind it in the map of rings stands an entry of the same number with a STEP. -/
def doubledRing : State :=
  { standing with host := { standing.host with rings := [(0, { Ring.stopped with running := true, ci := 1, queue := [migrateOne] }), (0, { Ring.stopped with queue := [desc 0x04 []] })] } }

/-- Refutes O28: the module does not stand idle at its boundary while any entry of the ring map holds a STEP, yet taking up a command drops a second entry of
its ring. Here the MIGRATE is decided at once, and does not wait. -/
theorem not_actionsWait : ¬ Obligations.ActionsWait := by
  unfold Obligations.ActionsWait
  intro h
  obtain ⟨-, h, -⟩ := h doubledRing 0 migrateOne (zeros 8) (zeros 8) _ rfl
  obtain ⟨-, h⟩ := h (takes_of rfl (by decide))
  obtain ⟨-, h, -⟩ := h (by decide)
  obtain ⟨t, a, ht, ha, -⟩ := h (by decide) (by decide)
  cases ht
  have none_waits : (migrate 0 (zeros 8) doubledRing).st.acts = [] := by decide
  rw [none_waits] at ha
  cases ha

end Sys2Proof.Machine
end

section
/-! PROOFS. When a command of the host waits, and which completion fences its ring (13 R332-R334, R339). -/

namespace Sys2Proof.Machine

open Sys2Proof

/-! ### Every command of the host is one row of the shared checks -/

/-- Each command of the host is `State.command` on its ring, with its opcode and the rest of its row. -/
theorem exec_hostCommand {c : Instr} {n op : Nat} (h : hostCommand c = some (n, op)) (s : State) :
    ∃ run, exec c s = .next (s.command n op (fun d => rowFor c d s) run) := by
  cases c <;> simp only [hostCommand, reduceCtorEq, Option.some.injEq, Prod.mk.injEq] at h <;> obtain ⟨rfl, rfl⟩ := h <;> exact ⟨_, rfl⟩

/-- With nothing in progress a command stays in its ring unless it may be dequeued and is the one of its row. -/
theorem State.command_stays_queued {s : State} {n op : Nat} {d : List Byte} {rest : List (List Byte)} {also : List Byte → Bool}
    {run : State → List Byte → State} (hb : (s.ring n).busy = none) (hq : (s.ring n).queue = d :: rest)
    (h : s.canDequeue n = false ∨ descOp d ≠ op ∨ also d = false) : s.command n op also run = s := by
  simp only [State.command, hb, hq]
  rcases h with h | h | h <;> simp [h]

/-- A command in progress goes on only as an exclusive one that waited and may be judged now. -/
theorem State.command_stays_busy {s : State} {n op i : Nat} {d : List Byte} {also : List Byte → Bool} {run : State → List Byte → State}
    (hb : (s.ring n).busy = some (i, d)) (h : (s.ring n).waits = false ∨ s.live = false ∨ descOp d ≠ op ∨ also d = false ∨ s.mayJudge n op = false) :
    s.command n op also run = s := by
  simp only [State.command, hb]
  rcases h with h | h | h | h | h <;> simp [h]

/-- A fenced ring gives up no command. -/
theorem State.canDequeue_fenced {s : State} {n : Nat} (h : (s.ring n).fenced = true) : s.canDequeue n = false := by simp [State.canDequeue, h]

/-- While an exclusive command is first in order, only its ring gives up a command (13 R334). -/
theorem State.canDequeue_behind {s : State} {n : Nat} {x : Nat × Nat} {l : List (Nat × Nat)} (h : s.host.excl = x :: l) (hx : x.1 ≠ n) :
    s.canDequeue n = false := by simp [State.canDequeue, h, hx]

/-! ### An exclusive command that waits (13 R334) -/

/-- An entry of another key stays in a map when a key is set. -/
theorem NMap.mem_set_of_ne {α : Type} [DecidableEq α] {d : α} {m : NMap α} {a : Nat} {x : α} {e : Nat × α} (h : e ∈ m) (he : e.1 ≠ a) :
    e ∈ NMap.set d m a x := by
  have hm : e ∈ NMap.erase m a := List.mem_filter.mpr ⟨h, by simpa using he⟩
  unfold NMap.set
  split
  · exact hm
  · exact (NMap.mem_insert _ _ _ _).mpr (.inr hm)

/-- Whether the other rings are idle does not depend on the ring itself. -/
theorem State.othersIdle_of_setRing {s : State} {n : Nat} {r : Ring} (h : (s.setRing n r).othersIdle n = true) : s.othersIdle n = true := by
  unfold State.othersIdle at h ⊢
  rw [List.all_eq_true] at h ⊢
  intro e he
  by_cases hn : e.1 = n
  · simp [hn]
  · exact h e (NMap.mem_set_of_ne he hn)

/-- Taking up its command does not let a ring judge it. -/
theorem State.mayJudge_setRing {s : State} {n op : Nat} {r : Ring} (h : s.mayJudge n op = false) : (s.setRing n r).mayJudge n op = false := by
  rw [← Bool.not_eq_true] at h ⊢
  intro hj
  apply h
  simp only [State.mayJudge, Bool.and_eq_true, Bool.or_eq_true] at hj ⊢
  exact ⟨hj.1.imp_right State.othersIdle_of_setRing, hj.2⟩

/-- An exclusive command that keeps the layout and may not be judged yet is taken up and waits. -/
theorem State.command_waits {s : State} {n op : Nat} {d : List Byte} {rest : List (List Byte)} {also : List Byte → Bool}
    {run : State → List Byte → State} (hb : (s.ring n).busy = none) (hq : (s.ring n).queue = d :: rest) (hc : s.canDequeue n = true)
    (ho : descOp d = op) (ha : also d = true) (hd : descOk d = true) (hj : s.mayJudge n op = false) :
    s.command n op also run = (s.dequeue n).setRing n { s.ring n with queue := rest, busy := some (s.nextIndex n, d), waits := true } := by
  have hi : s.nextIndex n = (s.ring n).ci - (s.ring n).queue.length := by rw [State.nextIndex, hb]; rfl
  have hu : s.dequeue n = s.setRing n { s.ring n with queue := rest, busy := some (s.nextIndex n, d) } := by
    rw [State.dequeue, hq, hi, hq]
  have hj' : (s.dequeue n).mayJudge n op = false := by rw [hu]; exact State.mayJudge_setRing hj
  simp only [State.command, hb, hq, hc, ho, ha, hd, hj', beq_self_eq_true, Bool.and_self, Bool.not_true, if_true, Bool.false_eq_true, if_false]
  rw [hu, State.ring_setRing]

/-! ### Fences (13 R339) -/

/-- A completion takes its command off its ring, fences the ring where the command has FENCE and the status is of another class than 0x0, and leaves every
other ring. -/
theorem State.complete_rings {s : State} {n i : Nat} {d : List Byte} (hb : (s.ring n).busy = some (i, d)) (ha : (s.ring n).again = none) (c : Cpl) :
    (s.complete n c).host.rings = (s.setRing n { s.ring n with
      busy := none, waits := false, fenced := (s.ring n).fenced || (descFence d && !succeeds c.status) }).host.rings := by
  simp only [State.complete, hb, ha, State.settle_rings]
  split <;> simp

/-- Settles O15: every command of the host is one row of the shared checks of 13 R333, whose branches say when it waits; a completion sets its own ring. -/
theorem hostWaits : Obligations.HostWaits := by
  unfold Obligations.HostWaits
  refine ⟨fun c s n op d rest hc => ?_, fun s n i d c hb ha => ?_⟩
  · obtain ⟨run, e⟩ := exec_hostCommand hc s
    rw [e]
    refine ⟨fun hb hq => ⟨fun h => congrArg _ (State.command_stays_queued hb hq ?_), fun h ho hr hd hj => ⟨_, rfl, ?_⟩⟩,
      fun i hb h => congrArg _ (State.command_stays_busy hb h)⟩
    · rcases h with h | h | ⟨x, l, hx, hn⟩ | h
      · exact .inl h
      · exact .inl (State.canDequeue_fenced h)
      · exact .inl (State.canDequeue_behind hx hn)
      · exact .inr h
    · rw [State.command_waits hb hq h ho hr hd hj]
      refine ⟨State.ring_setRing _ _ _, fun k hk => ?_, ?_⟩
      · rw [State.ring_setRing_ne _ _ _ _ hk.symm, State.dequeue, hq]
        exact State.ring_setRing_ne _ _ _ _ hk.symm
      · rw [State.dequeue, hq]
        rfl
  · have hr : ∀ k, (s.complete n c).ring k = (s.setRing n _).ring k := fun k => congrArg (NMap.get Ring.stopped · k) (State.complete_rings hb ha c)
    refine ⟨by rw [hr, State.ring_setRing], by rw [hr, State.ring_setRing], by rw [hr, State.ring_setRing], fun k hk => ?_⟩
    rw [hr, State.ring_setRing_ne _ _ _ _ hk.symm]

end Sys2Proof.Machine
end

section
/-! SUPPORT. What a message taken from the inbox, and a content fault of the step, leave alone (10 R248, 01 R26). -/

namespace Sys2Proof.Machine

open Sys2Proof

theorem State.sendCtrl_sent (s : State) (p : Nat) (nak : Bool) (cvc n : Nat) : (s.sendCtrl p nak cvc n).net.sent = s.net.sent := by
  rw [State.sendCtrl, State.idlePort_sent, State.onWire_sent]

/-- Returned credits are CTRL flits, no messages. -/
theorem State.releaseCredits_sent (s : State) (vc : Nat) : (s.releaseCredits vc).net.sent = s.net.sent := by
  unfold State.releaseCredits
  split
  · refine List.foldlRecOn (motive := fun t : State => t.net.sent = s.net.sent) _ _ rfl fun t ht p _ => ?_
    dsimp only
    split
    · exact ht
    · rw [State.sendCtrl_sent]
      exact ht
  · rfl

@[simp] theorem State.took_sent (s : State) (m : Msg) : (s.took m).net.sent = s.net.sent := State.releaseCredits_sent _ _

/-- What is sent after a message has been taken is sent after what was sent before it. -/
theorem State.emits_of_took {s t : State} {m x : Msg} (h : (s.took m).emits t x) : s.emits t x := by
  unfold State.emits at h ⊢
  rwa [State.took_sent] at h

/-- A member is live. -/
theorem State.live_of_member {s : State} (h : s.member = true) : s.live = true := by
  unfold State.member at h
  unfold State.live
  revert h
  cases s.on <;> cases s.ms.st <;> simp

/-- The first content fault of a step is kept, and reported over the network. -/
theorem State.stepFault_first {s : State} {r : StepRun} (h : s.st.run = some r) (hf : r.fault = none) (x : Status) :
    ∃ n c, s.stepFault x = { s with net := n, ctr := c, st := { s.st with run := some { r with fault := some x } } } := by
  obtain ⟨n, c, e⟩ := State.report_eq { s with st := { s.st with run := some { r with fault := some x } } } 3 0x07 x.code s.ms.position 0xFF 0xFF
  exact ⟨n, c, by simp only [State.stepFault, h, hf]; exact e⟩

/-- Without a step, or with a content fault already, a content fault changes nothing. -/
theorem State.stepFault_later {s : State} (h : s.st.run = none ∨ ∃ r, s.st.run = some r ∧ r.fault.isSome = true) (x : Status) : s.stepFault x = s := by
  rcases h with h | ⟨r, h, hf⟩
  · simp [State.stepFault, h]
  · simp [State.stepFault, h, hf]

end Sys2Proof.Machine
end

section
/-! PROOFS. Remote writes, reads and replies (08 R187, R188, 10 R246). -/

namespace Sys2Proof.Machine

open Sys2Proof

/-- An access beyond the rules of 08 R187 stores nothing, and is the content fault of a step that has none yet. -/
theorem State.took_stepFault (s : State) (m : Msg) (x : Status) :
    (∀ r, s.st.run = some r → r.fault = none → ∃ t, (.next ((s.took m).stepFault x) : Host.Outcome State Fault Refusal) = .next t ∧ s.storesSame t ∧ t.host = s.host ∧
      t.st.run = some { r with fault := some x }) ∧
    (s.st.run = none ∨ (∃ r, s.st.run = some r ∧ r.fault.isSome = true) → (.next ((s.took m).stepFault x) : Host.Outcome State Fault Refusal) = .next (s.took m)) := by
  obtain ⟨n, e⟩ := State.took_eq s m
  refine ⟨fun r hr hf => ?_, fun h => ?_⟩
  · obtain ⟨n', c, e'⟩ := State.stepFault_first (s := s.took m) (by rw [e]; exact hr) hf x
    rw [e', e]
    exact ⟨_, rfl, ⟨rfl, rfl, rfl, rfl, rfl⟩, rfl, rfl⟩
  · rw [State.stepFault_later (by rw [e]; exact h)]

/-- Bytes that arrive count for the layer of their group, and end at most its wait. -/
theorem State.layerArrives_eq (s : State) (vc src n : Nat) : ∃ w, (s.wd ≠ some .layerSlice → w = s.wd) ∧
    s.layerArrives vc src n =
      { s with
        wd := w
        ex :=
          { s.ex with
            slices := s.ex.slices ++
              if s.st.run.isSome && s.layerGroups.any fun x => x.vc == vc && x.members.contains src then [(vc, src, n)] else [] } } := by
  unfold State.layerArrives
  split
  · refine ⟨_, fun h => ?_, rfl⟩
    exact if_neg h
  · exact ⟨s.wd, fun _ => rfl, by rw [List.append_nil]⟩

/-- Bytes stored in one range leave the rest of memory. -/
theorem State.write_outside (s : State) (a : Nat) (b : List Byte) : s.outside (s.write a b) [{ base := a, len := b.length }] :=
  fun x h => s.byte_write_outside a b x (h _ (List.mem_singleton_self _))

section
variable {s : State} {m : Msg} (hm : s.member = true)
include hm

theorem remoteWrite_eq (ht : m.typ = 1) (ho : m.opc = 0) : remoteWrite m s =
    if s.globalOk (field m.body 0 8) && s.mach.rank == some (globalRank (field m.body 0 8)) &&
        s.remoteWrites (bits (field m.body 0 8) 0 48) (m.body.drop 8).length then
      ((s.took m).write (bits (field m.body 0 8) 0 48) (m.body.drop 8)).layerArrives m.vc m.src (m.body.drop 8).length
    else (s.took m).stepFault .indexRange := by
  obtain ⟨n, e⟩ := State.took_eq s m
  rw [remoteWrite, if_pos ⟨hm, ht, ho⟩, e]
  rfl

theorem remoteRead_eq (ht : m.typ = 2) (ho : m.opc = 0) (hr : m.resp = false) : remoteRead m s =
    if decide (field m.body 8 8 ≤ 65536) && s.globalOk (field m.body 0 8) && s.mach.rank == some (globalRank (field m.body 0 8)) &&
        s.remoteReads (bits (field m.body 0 8) 0 48) (field m.body 8 8) then
      (s.took m).send (mkMsg 2 0 m.vc m.src (s.read (bits (field m.body 0 8) 0 48) (field m.body 8 8)) true true)
    else (s.took m).stepFault .indexRange := by
  obtain ⟨n, e⟩ := State.took_eq s m
  rw [remoteRead, if_pos ⟨hm, ht, ho, hr⟩, e]
  refine if_congr ?_ rfl rfl
  rw [Bool.and_eq_true, Bool.and_eq_true, Bool.and_eq_true, decide_eq_true_iff, beq_iff_eq, and_assoc, and_assoc]
  rfl

theorem remoteReadReply_eq (ht : m.typ = 2) (hr : m.resp = true) (dst : Nat) : remoteReadReply m dst s =
    if s.dmaWrites dst m.body.length then (s.took m).write dst m.body else (s.took m).stepFault .indexRange := by
  obtain ⟨n, e⟩ := State.took_eq s m
  rw [remoteReadReply, if_pos ⟨hm, ht, hr⟩, e]
  rfl

end

/-- Settles O44: an access within the rules stores or sends exactly its data, any other is a content fault of the step. -/
theorem remoteAccesses : Obligations.RemoteAccesses := by
  unfold Obligations.RemoteAccesses
  rintro s m g hm rfl
  obtain ⟨n, e⟩ := State.took_eq s m
  refine ⟨?_, ?_, fun dst ht hr => ?_⟩
  · rintro ht ho ok rfl
    rw [show exec (.remoteWrite m) s = .next (remoteWrite m s) from rfl, remoteWrite_eq hm ht ho]
    refine ⟨fun hok => ?_, fun hok => ?_⟩
    · obtain ⟨w, hw, hl⟩ := State.layerArrives_eq ((s.took m).write (bits (field m.body 0 8) 0 48) (m.body.drop 8)) m.vc m.src (m.body.drop 8).length
      rw [if_pos hok, hl, e]
      rw [e] at hw
      exact ⟨_, rfl, State.read_write s _ _, State.write_outside s _ _, rfl, hw, rfl⟩
    · rw [hok]
      exact State.took_stepFault s m _
  · rintro ht ho hr n' ok rfl rfl
    rw [show exec (.remoteRead m) s = .next (remoteRead m s) from rfl, remoteRead_eq hm ht ho hr]
    refine ⟨fun hok => ?_, fun hok => ?_⟩
    · rw [if_pos hok]
      refine ⟨_, rfl, ?_, State.emits_of_took (m := m) (State.send_emits _ _ ?_)⟩
      · obtain ⟨n'', c, e'⟩ := State.send_eq (s.took m) (mkMsg 2 0 m.vc m.src (s.read (bits (field m.body 0 8) 0 48) (field m.body 8 8)) true true)
        rw [e', e]
        rfl
      · rw [e]
        exact State.live_of_member hm
    · rw [hok]
      exact State.took_stepFault s m _
  · rw [show exec (.remoteReadReply m dst) s = .next (remoteReadReply m dst s) from rfl, remoteReadReply_eq hm ht hr]
    refine ⟨fun hok => ?_, fun hok => ?_⟩
    · rw [if_pos hok, e]
      exact ⟨_, rfl, State.read_write s _ _, State.write_outside s _ _, rfl⟩
    · rw [hok]
      exact State.took_stepFault s m _

end Sys2Proof.Machine
end

section
/-! SUPPORT. The step-start barrier, the release of a barrier, and what a step that begins leaves alone (01 R12, 10 R264). -/

namespace Sys2Proof.Machine

open Sys2Proof

/-! ### Arriving and being released -/

theorem State.arriveStart_eq (s : State) : ∃ b n c w, s.arriveStart = { s with bar := b, net := n, ctr := c, wd := w } := by
  unfold State.arriveStart
  split
  · exact ⟨s.bar, s.net, s.ctr, s.wd, rfl⟩
  · next r _ =>
    split
    · obtain ⟨b, n, c, e⟩ := State.arrive_eq { s with wd := some .stepStart } bStepStart s.st.stepNo r.attempt (!s.st.applied.isEmpty).toNat
      exact ⟨b, n, c, _, e⟩
    · exact ⟨s.bar, s.net, s.ctr, s.wd, rfl⟩

/-- What a quiet boundary lets go on: the two barriers. -/
theorem State.tryBegin_eq (s : State) :
    ∃ b n c w u, s.tryBegin = { s with bar := b, net := n, ctr := c, wd := w, st := { s.st with windowShut := u } } := by
  obtain ⟨b, n, c, w, e⟩ := s.arriveStart_eq
  obtain ⟨b', n', c', w', u, e'⟩ := s.arriveStart.tryWindow_eq
  refine ⟨b', n', c', w', u, ?_⟩
  rw [State.tryBegin, e', e]

/-- A barrier of a kind that has been released: of what has arrived there, what came with another step number or ATTEMPT stays. -/
def State.releasedBar (s : State) (kind : Nat) (body : List Byte) : List Barrier :=
  (s.setBarrier kind { Barrier.none_ with
    kids := (s.barrier kind).kids.filter fun k => !(k.2.1 == field body 0 4 && k.2.2.1 == field body 4 1) }).bar

/-- The release of a barrier at which the module waits, but for FLOOR, ends the wait with the combined value. -/
theorem State.release_eq {s : State} {kind v : Nat} {body : List Byte} (hu : (s.barrier kind).up = true)
    (ho : (s.barrier kind).own = some (field body 0 4, field body 4 1, v)) (hk : kind ≠ bFloor) :
    ∃ n c, s.release kind body = some (field body 8 8, { s with net := n, ctr := c, bar := s.releasedBar kind body }) := by
  simp only [State.release, hu, ho, and_self, if_true, if_neg hk]
  exact ⟨_, _, congrArg (fun t => some (field body 8 8, t)) (State.sendAll_eq _ _ _).choose_spec.choose_spec⟩

/-- What the message that releases a barrier of the training step, the window's or the program's leaves to be done. -/
theorem State.barrierIn_released {s : State} {kind : Nat} {m : Msg} (h : s.releasedBy kind m) (hk : kind ≠ bFloor) :
    ∃ n c, s.barrierIn kind m = (some (field m.body 8 8), { s with net := n, ctr := c, bar := s.releasedBar kind m.body }) := by
  obtain ⟨hm, ht, ho, hr, hu, v, hown⟩ := h
  obtain ⟨x, e⟩ := State.took_eq s m
  have hon : s.on = true := by
    unfold State.member at hm
    rw [Bool.and_eq_true] at hm
    exact hm.1
  obtain ⟨n, c, e'⟩ := State.release_eq (s := { s with net := x }) hu hown hk
  refine ⟨n, c, ?_⟩
  unfold State.barrierIn
  rw [if_pos (by simp [hon, hm, ht, ho]), if_pos hr, e, e']
  rfl

end Sys2Proof.Machine
end

section
/-! PROOFS. A STEP is taken up, and the start barrier begins its Sample (01 R11-R16, R26, 13 R332). -/

namespace Sys2Proof.Machine

open Sys2Proof

/-! ### STEP -/

/-- A module that is LOADED or RUNNING and starts a command is RUNNING. -/
theorem State.startRunning_running {s : State} (h : s.ms.st = .loaded ∨ s.ms.st = .running) : s.startRunning.ms.st = .running := by
  rcases h with h | h <;> simp [State.startRunning, State.enter, h, MState.enters]

/-- A STEP is legal where it may run. -/
theorem legal_step {m : MState} (h : legal 0x04 m = .accept) : m = .loaded ∨ m = .running := by
  revert h
  cases m <;> decide

/-- A step taken up waits at the start barrier on a RUNNING module. -/
theorem State.takeStep_eq (s : State) (r : StepRun) (h : s.ms.st = .loaded ∨ s.ms.st = .running) : ∃ x b n c w u, s.takeStep r = { s with
      host := x, ms := { s.ms with st := .running }, recov := { s.recov with replays := r.replays }, bar := b, net := n, ctr := c, wd := w
      st := { s.st with run := some r, windowShut := u } } ∧ x.rings = s.host.rings := by
  obtain ⟨x, m, e⟩ := State.startRunning_eq { s with st := { s.st with run := some r }, recov := { s.recov with replays := r.replays } }
  have hm := State.startRunning_running (s := { s with st := { s.st with run := some r }, recov := { s.recov with replays := r.replays } }) h
  have hr := State.startRunning_rings { s with st := { s.st with run := some r }, recov := { s.recov with replays := r.replays } }
  rw [e] at hm hr
  cases (hm : m = .running)
  obtain ⟨b, n, c, w, u, e'⟩ := State.tryBegin_eq (State.startRunning { s with st := { s.st with run := some r }, recov := { s.recov with replays := r.replays } })
  exact ⟨x, b, n, c, w, u, by rw [State.takeStep, e', e], hr⟩

/-- A STEP of ring `n`, dequeued with its target list, that waits for those before it. -/
def waitingStep (n : Nat) (list : Except Status (List Byte)) : WaitingStep where
  ring := n
  bytes := list.toOption.getD []
  source := match list with
    | .ok _ => none
    | .error x => some x

section
variable {s : State} {n : Nat} {d : List Byte} (h : s.takes n 0x04 d)
include h

/-- A STEP that is taken up waits behind those before it, and starts when there is none. -/
theorem runStep_eq (host : List Byte) : ∃ x, s.takenUp n = { s with host := x } ∧ runStep n host s =
    State.followOn { s with
      host := x
      st := { s.st with waiting := s.st.waiting ++ [waitingStep n (s.readBuffer (field d 16 8) (16 * field d 24 4) host)] } } := by
  obtain ⟨x, e⟩ := State.takenUp_eq s n
  refine ⟨x, e, ?_⟩
  unfold runStep
  rw [State.command_takes s n 0x04 d _ _ h rfl, e]
  rfl

/-- A STEP behind none starts. -/
theorem runStep_first (host : List Byte) (hr : s.st.run = none) (hw : s.st.waiting = []) : ∃ x, s.takenUp n = { s with host := x } ∧
    runStep n host s = State.startStep { s with host := x } (waitingStep n (s.readBuffer (field d 16 8) (16 * field d 24 4) host)) := by
  obtain ⟨x, e, e'⟩ := runStep_eq h host
  refine ⟨x, e, ?_⟩
  rw [e', hw, ← (show { s.st with waiting := [] } = s.st by rw [← hw])]
  simp only [State.followOn, List.nil_append, List.length_singleton, State.nextSteps, hr]

/-- A STEP that starts passes the checks of its own, or is refused by them. -/
theorem startStep_takenUp {x : HostSide} (e : s.takenUp n = { s with host := x }) (list : Except Status (List Byte)) :
    State.startStep { s with host := x } (waitingStep n list) =
    if s.st.stepNo = 0xFFFFFFFF ∨ (descPin d = true ∧ descStepno d ≠ s.st.stepNo) then
      (s.takenUp n).complete n { status := .stateInvalid, step := s.st.stepNo }
    else State.takeStep { s with host := x } (s.newRun n (bits (field d 28 1) 0 4) (waitingStep n list).bytes (waitingStep n list).source) := by
  have hb := State.takenUp_busy s n d h.1
  rw [e] at hb ⊢
  have hf : s.recov.fallback = false := h.2.2.2.2.2.1 (.inl rfl)
  simp only [State.startStep, waitingStep, hb, hf, Bool.false_eq_true, if_false]
  rfl

theorem runStep_taken (host : List Byte) (hr : s.st.run = none) (hw : s.st.waiting = []) (hn : s.st.stepNo ≠ 0xFFFFFFFF)
    (hp : descPin d = true → descStepno d = s.st.stepNo) {r : StepRun}
    (hrun : r = s.newRun n (bits (field d 28 1) 0 4) (waitingStep n (s.readBuffer (field d 16 8) (16 * field d 24 4) host)).bytes
      (waitingStep n (s.readBuffer (field d 16 8) (16 * field d 24 4) host)).source) :
    ∃ t, exec (.step n host) s = .next t ∧ t.st.run = some r ∧ t.st.waiting = [] ∧ t.st.stepNo = s.st.stepNo ∧ t.ms.st = .running ∧
      (t.ring n).busy = some (s.nextIndex n, d) ∧ s.storesSame t := by
  obtain ⟨x, e, e'⟩ := runStep_first h host hr hw
  rw [startStep_takenUp h e, if_neg (by tauto), ← hrun] at e'
  obtain ⟨x', b, n', c, w, u, et, hx⟩ := State.takeStep_eq { s with host := x } r (legal_step h.2.2.2.1)
  rw [et] at e'
  have hb := State.takenUp_busy s n d h.1
  rw [e] at hb
  refine ⟨_, congrArg Host.Outcome.next e', rfl, hw, rfl, rfl, ?_, rfl, rfl, rfl, rfl, rfl⟩
  rw [State.ring, hx]
  exact hb

theorem runStep_refused (host : List Byte) (hr : s.st.run = none) (hw : s.st.waiting = [])
    (hn : s.st.stepNo = 0xFFFFFFFF ∨ (descPin d = true ∧ descStepno d ≠ s.st.stepNo)) :
    ∃ t, exec (.step n host) s = .next t ∧ s.answered n d { status := .stateInvalid, step := s.st.stepNo } t ∧ s.hostOnly t := by
  obtain ⟨x, e, e'⟩ := runStep_first h host hr hw
  rw [startStep_takenUp h e, if_pos hn] at e'
  exact ⟨_, congrArg Host.Outcome.next e', State.takenUp_complete h _⟩

theorem runStep_behind (host : List Byte) (hr : s.st.run.isSome = true) {w : WaitingStep}
    (hw : w = waitingStep n (s.readBuffer (field d 16 8) (16 * field d 24 4) host)) :
    ∃ t, exec (.step n host) s = .next t ∧ (t.ring n).busy = some (s.nextIndex n, d) ∧
      t.st = { s.st with waiting := s.st.waiting ++ [w] } ∧ s.hostOnly { t with st := s.st } := by
  obtain ⟨x, e, e'⟩ := runStep_eq h host
  have hb := State.takenUp_busy s n d h.1
  rw [e] at hb
  obtain ⟨r, hr⟩ := Option.isSome_iff_exists.mp hr
  have stays : ∀ k, ∀ t : State, t.st.run = some r → t.nextSteps k = t := fun k t ht => by cases k <;> simp [State.nextSteps, ht]
  subst hw
  exact ⟨_, congrArg Host.Outcome.next (e'.trans (stays _ _ hr)), hb, rfl, rfl, .inl rfl⟩

end

/-! ### The release of the start barrier -/

/-- Records invalidated change memory, and of the step's state the records that wait and the ring's head. -/
theorem State.trimRecords_eq (s : State) (step : Nat) :
    ∃ m l k, s.trimRecords step = { s with mem := m, st := { s.st with retPending := l, retHead := k } } := by
  have trimmed : ∀ l : List (Nat × Nat), ∃ m, l.foldl (fun s x => s.setValid x.1 false) s = { s with mem := m } := fun l =>
    List.foldlRecOn (motive := fun t : State => ∃ m, t = { s with mem := m }) l _ ⟨s.mem, rfl⟩ fun t ⟨m, ht⟩ x _ => by
      subst ht
      exact ⟨_, rfl⟩
  obtain ⟨m, e⟩ := trimmed (s.slotsFrom step)
  exact ⟨m, _, _, by rw [State.trimRecords, e]⟩

/-- Captures change memory only. -/
theorem State.capture_eq (s : State) (phase : Nat) : ∃ m, s.capture phase = { s with mem := m } := by
  unfold State.capture
  split
  · exact ⟨s.mem, rfl⟩
  · refine List.foldlRecOn (motive := fun t : State => ∃ m, t = { s with mem := m }) _ _ ⟨s.mem, rfl⟩ fun t ⟨m, ht⟩ x _ => ?_
    subst ht
    exact ⟨_, rfl⟩

theorem State.recallLedger_eq (s : State) (a : Nat) : ∃ m, s.recallLedger a = { s with mem := m } := by
  unfold State.recallLedger
  split
  · exact ⟨s.mem, rfl⟩
  · simp only [State.write]
    exact ⟨_, rfl⟩

theorem State.transient_eq (s : State) (cause : Nat) : ∃ n c, s.transient cause = { s with net := n, ctr := c } := by
  unfold State.transient
  split
  · exact State.report_eq _ _ _ _ _ _ _
  · exact ⟨s.net, s.ctr, rfl⟩

/-- A phase that begins changes the cores, the counters and the watchdog, and the phase of the step. -/
theorem State.enterPhase_eq (s : State) (p : Phase) (code : Nat) (w : Option WaitPoint) : ∃ g c, s.enterPhase p code w =
    { s with
      gc := g
      ctr := c
      wd := w.or (State.layerPoint { s with st := { s.st with run := s.st.run.map fun r => { r with phase := p } } })
      st := { s.st with run := s.st.run.map fun r => { r with phase := p } } } := by
  obtain ⟨g, c, e⟩ := (State.coresOnly_iff _ _).mp (State.startTasks_coresOnly (State.mk _ _ _ _ _ _ _ _ _ _ _ _ _ _ _ _ _ _ _ _ _ _ _ _ _ _) code (BitVec.ofNat 32 s.st.stepNo))
  exact ⟨g, c, e⟩

/-- The cores taken up by the EVAL that comes first. -/
theorem State.startEval_eq (s : State) : ∃ m g c l, s.startEval = { s with mem := m, gc := g, ctr := c, st := { s.st with evals := l } } := by
  unfold State.startEval
  split
  · next e es p _ _ =>
    split
    · exact ⟨s.mem, s.gc, s.ctr, s.st.evals, rfl⟩
    · have hu : ∃ m, (if e.evidence then s.blankAttention p e else s) = { s with mem := m } := by
        split
        · exact ⟨_, rfl⟩
        · exact ⟨s.mem, rfl⟩
      obtain ⟨m, e'⟩ := hu
      rw [e']
      obtain ⟨g, c, e''⟩ := (State.coresOnly_iff _ _).mp
        (State.startTasks_coresOnly { s with mem := m, st := { s.st with evals := { e with begun := true } :: es } } 6 (BitVec.ofNat 32 e.pinned))
      exact ⟨m, g, c, _, e''⟩
  · exact ⟨s.mem, s.gc, s.ctr, s.st.evals, rfl⟩

/-- Closing a window. -/
theorem State.closeWindow_eq (s : State) (c v : Nat) : ∃ m g k w x l, s.closeWindow c v =
    { s with mem := m, gc := g, ctr := k, wd := w, st := { s.st with windowClosed := x, evals := l } } := by
  obtain ⟨m, g, k, l, e⟩ := State.startEval_eq (State.mk _ _ _ _ _ _ _ _ _ _ _ _ _ _ _ _ _ _ _ _ _ _ _ _ _ _)
  exact ⟨m, g, k, _, _, l, e⟩

/-- A step as its Sample begins. -/
def StepRun.drawing (r : StepRun) (epoch : Nat) : StepRun :=
  { r with phase := Phase.sample, hop := 0, fault := none, rescaled := false, epoch := epoch }

/-- The start barrier's step as its Sample begins, before the module judges its targets. -/
def State.sampleOpened (s : State) (r : StepRun) : State :=
  State.openExchange { s with
    conf := .reset
    wd := some .sampleExchange
    recov := { s.recov with aborting := none }
    st := { s.st with
      run := some (r.drawing s.st.epoch)
      arrived := []
      installed := []
      landed := [] } }

/-- The module then draws, or finds a content fault, or goes on to Gather with the record that stands in place of Sample. -/
def State.sampleFrom (s : State) (r : StepRun) : State :=
  match r.record with
  | some a => ((s.recallLedger a).capture 0).enterPhase .gather 1 (some .gatherExchange)
  | none =>
    match r.source, s.targetFault r.spec r.targets with
    | some .memoryUncorrectable, _ => s.transient 0x01
    | some x, _ | none, some x => s.stepFault x
    | none, none => s.startTasks 0 (BitVec.ofNat 32 s.st.stepNo)

/-- The release of the start barrier closes the window, drops the records of later steps, and opens Sample. -/
theorem State.beginSample_eq {s : State} {r : StepRun} (hr : s.st.run = some r) (hp : r.phase = .waitStart) (v : Nat) :
    ∃ m g c w x l p i, s.beginSample v = State.sampleFrom (State.sampleOpened { s with
      mem := m, gc := g, ctr := c, wd := w
      st := { s.st with windowClosed := x, evals := l, retPending := p, retHead := i } } r) (r.drawing s.st.epoch) := by
  obtain ⟨m, g, k, w, x, l, e⟩ := s.closeWindow_eq s.lastStep v
  have trimmed : ∀ u : State, ∃ m l i k, (let y := if r.exec then u else u.trimRecords u.st.stepNo; if r.replays = 0 then y else y.count cReplays 1) =
      { u with mem := m, ctr := k, st := { u.st with retPending := l, retHead := i } } := fun u => by
    obtain ⟨m, l, i, e⟩ := u.trimRecords_eq u.st.stepNo
    rw [e]
    dsimp only
    split <;> split <;> exact ⟨_, _, _, _, rfl⟩
  obtain ⟨m', l', i, k', e'⟩ := trimmed (s.closeWindow s.lastStep v)
  have hn : (r.phase != .waitStart) = false := by rw [hp]; rfl
  refine ⟨m', g, k', w, x, l, l', i, ?_⟩
  unfold State.beginSample
  simp only [hr, hn, Bool.false_eq_true, if_false]
  dsimp only at e'
  rw [e', e]
  rfl

theorem State.sampleFrom_record {s : State} {r : StepRun} (h : r.record.isSome = true) : ∃ m g c, s.sampleFrom r = { s with
    mem := m, gc := g, ctr := c, wd := some .gatherExchange, st := { s.st with run := s.st.run.map fun r => { r with phase := .gather } } } := by
  obtain ⟨a, h⟩ := Option.isSome_iff_exists.mp h
  obtain ⟨m, e⟩ := s.recallLedger_eq a
  obtain ⟨m', e'⟩ := State.capture_eq (s.recallLedger a) 0
  obtain ⟨g, c, e''⟩ := State.enterPhase_eq ((s.recallLedger a).capture 0) .gather 1 (some .gatherExchange)
  refine ⟨m', g, c, ?_⟩
  rw [State.sampleFrom, h]
  dsimp only
  rw [e'', e', e]
  rfl

section
variable {s : State} {r : StepRun} (h : r.record = none)
include h

/-- With nothing wrong with its targets the step draws; one whose list lies on an unreadable flash page waits for its replay. -/
theorem State.sampleFrom_draws (hs : r.source = some .memoryUncorrectable ∨ (r.source = none ∧ s.targetFault r.spec r.targets = none)) :
    ∃ g n c, s.sampleFrom r = { s with gc := g, net := n, ctr := c } := by
  rcases hs with hs | ⟨hs, ht⟩
  · obtain ⟨n, c, e⟩ := s.transient_eq 0x01
    exact ⟨s.gc, n, c, by simp only [State.sampleFrom, h, hs, e]⟩
  · obtain ⟨g, c, e⟩ := (State.coresOnly_iff _ _).mp (s.startTasks_coresOnly 0 (BitVec.ofNat 32 s.st.stepNo))
    exact ⟨g, s.net, c, by simp only [State.sampleFrom, h, hs, ht, e]⟩

/-- A list that could not be read for its place, or that the specification refuses, is the step's content fault. -/
theorem State.sampleFrom_faults {x : Status} (hr : s.st.run = some r) (hf : r.fault = none)
    (hs : (r.source = some x ∧ x ≠ .memoryUncorrectable) ∨ (r.source = none ∧ s.targetFault r.spec r.targets = some x)) :
    ∃ n c, s.sampleFrom r = { s with net := n, ctr := c, st := { s.st with run := some { r with fault := some x } } } := by
  have e : s.sampleFrom r = s.stepFault x := by
    rcases hs with ⟨hs, hx⟩ | ⟨hs, ht⟩
    · simp only [State.sampleFrom, h, hs]
    · simp only [State.sampleFrom, h, hs, ht]
  rw [e]
  exact State.stepFault_first hr hf x

end

/-- After its first look at the step's targets the module has the step as `r`; its exchanges are as they were. -/
def State.sampleAs (u t : State) (r : StepRun) : Prop :=
  u.st.stepNo = t.st.stepNo ∧ u.conf = t.conf ∧ u.ex = t.ex ∧ u.wd = t.wd ∧ u.st.run = some r

/-- Settles O23: a STEP goes through the queue of STEPs that wait; the release of the start barrier opens the step's exchanges, and what it then finds of
its targets is all that decides how it goes on. -/
theorem stepBegins : Obligations.StepBegins := by
  unfold Obligations.StepBegins
  refine ⟨?_, ?_⟩
  · rintro s n d host spec list b source h rfl rfl hl
    have hw : b = (waitingStep n (s.readBuffer (field d 16 8) (16 * field d 24 4) host)).bytes ∧
        source = (waitingStep n (s.readBuffer (field d 16 8) (16 * field d 24 4) host)).source := by
      rcases hl with ⟨hl, rfl⟩ | ⟨x, hl, rfl, rfl⟩ <;> rw [hl] <;> exact ⟨rfl, rfl⟩
    obtain ⟨rfl, rfl⟩ := hw
    exact ⟨fun hr hw hn hp => runStep_taken h host hr hw hn hp rfl, fun hr hw hn => runStep_refused h host hr hw hn, fun hr => runStep_behind h host hr rfl⟩
  · rintro s m r r' hm hr hp rfl
    obtain ⟨n, c, e⟩ := State.barrierIn_released hm (by decide)
    obtain ⟨m', g, c', w, x, l, q, i, e'⟩ := State.beginSample_eq (s := { s with net := n, ctr := c, bar := s.releasedBar 0 m.body }) hr hp (field m.body 8 8)
    have hx : exec (.barrierStepStart m) s = .next (State.beginSample { s with net := n, ctr := c, bar := s.releasedBar 0 m.body } (field m.body 8 8)) := by
      show Host.Outcome.next (barrierStepStart m s) = _
      rw [barrierStepStart, show bStepStart = 0 from rfl, e]
    rw [hx, e']
    refine ⟨_, rfl, ?_⟩
    generalize ho : State.sampleOpened _ r = t
    have hn : t.st.stepNo = s.st.stepNo := by rw [← ho]; rfl
    have hc : t.conf = .reset ∧ t.ex.rounds = [] ∧ t.ex.slices = [] ∧ t.ex.scatter = [] := by rw [← ho]; exact ⟨rfl, rfl, rfl, rfl⟩
    have hw : t.wd = some .sampleExchange := by rw [← ho]; rfl
    have hrun : t.st.run = some (r.drawing s.st.epoch) := by rw [← ho]; rfl
    have hf : ∀ spec targets, t.targetFault spec targets = s.targetFault spec targets := by rw [← ho]; exact fun _ _ => rfl
    by_cases hrec : r.record = none
    · obtain ⟨u, hu⟩ : ∃ u, t.sampleFrom (r.drawing s.st.epoch) = u := ⟨_, rfl⟩
      have draws : r.source = some .memoryUncorrectable ∨ (r.source = none ∧ t.targetFault r.spec r.targets = none) →
          u.sampleAs t (r.drawing s.st.epoch) := fun hs => by
        obtain ⟨g', n', k, e''⟩ := State.sampleFrom_draws (r := r.drawing s.st.epoch) hrec hs
        rw [← hu, e'']
        exact ⟨rfl, rfl, rfl, rfl, hrun⟩
      have faults : ∀ x, (r.source = some x ∧ x ≠ .memoryUncorrectable) ∨ (r.source = none ∧ t.targetFault r.spec r.targets = some x) →
          u.sampleAs t { r.drawing s.st.epoch with fault := some x } := fun x hs => by
        obtain ⟨n', k, e''⟩ := State.sampleFrom_faults (r := r.drawing s.st.epoch) hrec hrun rfl hs
        rw [← hu, e'']
        exact ⟨rfl, rfl, rfl, rfl, rfl⟩
      have kept : ∃ r', u.sampleAs t r' := by
        cases hs : r.source with
        | none =>
          cases ht : t.targetFault r.spec r.targets with
          | none => exact ⟨_, draws (.inr ⟨hs, ht⟩)⟩
          | some x => exact ⟨_, faults x (.inr ⟨hs, ht⟩)⟩
        | some x =>
          by_cases hx : x = .memoryUncorrectable
          · exact ⟨_, draws (.inl (by rw [hs, hx]))⟩
          · exact ⟨_, faults x (.inl ⟨hs, hx⟩)⟩
      obtain ⟨r', kn, kc, ke, kw, -⟩ := kept
      obtain ⟨hc, hrounds, hslices, hscatter⟩ := hc
      have run_of : ∀ {r'}, u.sampleAs t r' → u.st.run = some r' := fun h => h.2.2.2.2
      rw [hu, kn, kc, ke, kw]
      refine ⟨hn, hc, hrounds, hslices, hscatter, fun _ => ⟨hw, fun hs ht => ?_, fun x hs ht => ?_, fun x hs hx => ?_, fun hs => ?_⟩,
        fun h => absurd h (by simp [hrec])⟩
      · exact run_of (draws (.inr ⟨hs, (hf _ _).trans ht⟩))
      · exact run_of (faults x (.inr ⟨hs, (hf _ _).trans ht⟩))
      · exact run_of (faults x (.inl ⟨hs, hx⟩))
      · exact run_of (draws (.inl hs))
    · obtain ⟨m'', g', k, e''⟩ := State.sampleFrom_record (s := t) (r := r.drawing s.st.epoch) (Option.isSome_iff_ne_none.mpr hrec)
      obtain ⟨hc, hrounds, hslices, hscatter⟩ := hc
      rw [e'']
      refine ⟨hn, hc, hrounds, hslices, hscatter, fun h => absurd h hrec, fun _ => ⟨rfl, ?_⟩⟩
      show Option.map _ t.st.run = _
      rw [hrun]
      rfl

end Sys2Proof.Machine
end

section
/-! SUPPORT. What the copies that a module sends its holders, and the commands that wait for them, leave alone (11 R276-R278, 07 R179). -/

namespace Sys2Proof.Machine

open Sys2Proof

/-! ### Nothing is lost on the way -/

/-- On the way from `s` to `t` no command is taken up and no completion lost, and what is sent is no batch of row traffic. -/
def State.goesOn (s t : State) : Prop :=
  (∀ n, (s.ring n).busy = none → (t.ring n).busy = none) ∧ (∀ a e, s.shows a e → t.shows a e) ∧
  ∃ l, t.net.sent = s.net.sent ++ l ∧ ∀ y ∈ l, y.typ ≠ 5

theorem State.goesOn_of_same {s t : State} (hh : t.host = s.host) (hn : t.net.sent = s.net.sent) : s.goesOn t := by
  refine ⟨fun n h => ?_, fun a e h => ?_, [], by simp [hn], by simp⟩
  · rw [State.ring, hh]
    exact h
  · rw [State.shows, hh]
    exact h

theorem State.goesOn_refl (s : State) : s.goesOn s := State.goesOn_of_same rfl rfl

theorem State.goesOn_trans {s t u : State} (h : s.goesOn t) (k : t.goesOn u) : s.goesOn u := by
  obtain ⟨hb, hs, l, hl, ht⟩ := h
  obtain ⟨kb, ks, l', kl, kt⟩ := k
  exact ⟨fun n hn => kb n (hb n hn), fun a e he => ks a e (hs a e he), l ++ l', by rw [kl, hl, List.append_assoc],
    fun y hy => (List.mem_append.mp hy).elim (ht y) (kt y)⟩

/-- A completion stays posted, and the command ended, whatever else goes on. -/
theorem State.ended_goesOn {s t u : State} {n : Nat} {c : Cpl} (h : s.ended n c t) (k : t.goesOn u) : s.ended n c u := by
  obtain ⟨i, d, hb, hp, he⟩ := h
  exact ⟨i, d, hb, k.2.1 _ _ hp, k.1 n he⟩

/-- What has been sent stays sent. -/
theorem State.emits_goesOn {s t u : State} {m : Msg} (h : s.emits t m) (k : t.goesOn u) : s.emits u m := by
  obtain ⟨x, hx, he⟩ := h
  obtain ⟨-, -, l, hl, -⟩ := k
  refine ⟨x, ?_, he⟩
  rw [hl, List.drop_append]
  exact List.mem_append_left _ hx

/-! ### The host side -/

theorem State.enter_goesOn (s : State) (m : MState) : s.goesOn (s.enter m) := by
  obtain ⟨h, x, e⟩ := s.enter_eq m
  refine ⟨fun n hn => ?_, fun a e' h' => State.enter_shows s m a e' h', [], by rw [e]; simp, by simp⟩
  rw [State.ring, State.enter_rings]
  exact hn

theorem State.startRunning_goesOn (s : State) : s.goesOn s.startRunning := by
  unfold State.startRunning
  split
  · exact s.enter_goesOn _
  · exact s.goesOn_refl

/-- Completing a command leaves every other ring's. -/
theorem State.complete_ring_ne {s : State} {n k : Nat} (c : Cpl) (h : n ≠ k) : ((s.complete n c).ring k) = s.ring k := by
  have loaded : ∀ (x : State) (go : Bool) (e : List Byte), (x.loadRing n go e).ring k = x.ring k := fun x go e => by
    unfold State.loadRing
    dsimp only
    split
    · split
      · exact State.ring_setRing_ne _ _ _ _ h
      · rw [State.ring, State.post_rings]
        exact State.ring_setRing_ne _ _ _ _ h
    · exact State.ring_setRing_ne _ _ _ _ h
  unfold State.complete
  dsimp only
  split
  · rfl
  · rw [State.ring, State.settle_rings]
    split
    · refine (loaded _ _ _).trans ?_
      rw [State.ring]
      split <;> simp only [State.post_rings, State.flush_rings] <;> exact State.ring_setRing_ne _ _ _ _ h
    · split <;> simp only [State.post_rings, State.flush_rings] <;> exact State.ring_setRing_ne _ _ _ _ h

/-- A completion loses no other. -/
theorem State.complete_keeps_shows (s : State) (n : Nat) (c : Cpl) {a : Nat} {e : List Byte} (h : s.shows a e) : (s.complete n c).shows a e := by
  unfold State.complete
  dsimp only
  split
  · exact h
  · apply State.settle_shows
    have flushed : ∀ x : State, x.host.out = s.host.out → (∃ y, x.host.held = s.host.held ++ y) → x.flush.shows a e := fun x ho ⟨y, hy⟩ => by
      apply State.flush_shows
      rcases h with h | ⟨q, h⟩
      · exact .inl (ho ▸ h)
      · exact .inr ⟨q, hy ▸ List.mem_append_left _ h⟩
    have loaded : ∀ x : State, x.shows a e → (match (s.ring n).again with
        | some e => x.loadRing n (s.ring n).go e
        | none => x).shows a e := fun x hx => by
      split
      · exact State.loadRing_shows _ _ _ _ _ _ hx
      · exact hx
    apply loaded
    split
    · exact State.post_shows _ _ _ _ _ (flushed _ rfl ⟨_, rfl⟩)
    · exact flushed _ rfl ⟨_, rfl⟩

theorem State.complete_goesOn (s : State) (n : Nat) (c : Cpl) : s.goesOn (s.complete n c) := by
  obtain ⟨h, m, e⟩ := s.complete_eq n c
  refine ⟨fun k hk => ?_, fun a e' he => s.complete_keeps_shows n c he, [], by rw [e]; simp, by simp⟩
  by_cases hn : n = k
  · subst hn
    exact State.complete_busy s n c
  · rw [State.complete_ring_ne c hn]
    exact hk

/-- A command in progress that completes has ended. -/
theorem State.complete_ended {s t : State} {n : Nat} {c : Cpl} (hr : t.ring n = s.ring n) (hb : (s.ring n).busy.isSome = true) :
    s.ended n c (t.complete n c) := by
  obtain ⟨⟨i, d⟩, hb⟩ := Option.isSome_iff_exists.mp hb
  refine ⟨i, d, hb, ?_, State.complete_busy t n c⟩
  have := State.complete_shows t n i d c (by rw [hr, hb])
  rw [hr] at this
  exact this

/-! ### Messages -/

/-- A report of a failure is a WRITE. -/
theorem State.report_adds (s : State) (cls cause status suspect port last : Nat) :
    ∃ l, (s.report cls cause status suspect port last).net.sent = s.net.sent ++ l ∧ ∀ y ∈ l, y.typ = 1 := by
  unfold State.report
  split
  · refine List.foldlRecOn (motive := fun t : State => ∃ l, t.net.sent = s.net.sent ++ l ∧ ∀ y ∈ l, y.typ = 1) _ _
      ⟨[], by simp, by simp⟩ fun t ⟨l, hl, hy⟩ r _ => ?_
    refine ⟨l ++ [(t.number (mkMsg 1 2 0 r (t.reportBody cls cause status suspect port last r))).1], ?_, ?_⟩
    · dsimp only
      split
      · show t.net.sent ++ _ = _
        rw [hl, List.append_assoc]
        rfl
      · rw [State.carry_sent]
        show t.net.sent ++ _ = _
        rw [hl, List.append_assoc]
        rfl
    · intro y h
      rcases List.mem_append.mp h with h | h
      · exact hy y h
      · cases List.mem_singleton.mp h
        rfl
  · exact ⟨[], by simp, by simp⟩

/-- Sending a message records it, and reports of its loss. -/
theorem State.send_adds (s : State) (m : Msg) : ∃ l, (s.send m).net.sent = s.net.sent ++ l ∧
    ∀ y ∈ l, (y.typ = m.typ ∧ y.body = m.body) ∨ y.typ = 1 := by
  have numbered : (s.number m).2.net.sent = s.net.sent ++ [(s.number m).1] := rfl
  have first : ∀ y ∈ [(s.number m).1], (y.typ = m.typ ∧ y.body = m.body) ∨ y.typ = 1 := fun y hy => by
    cases List.mem_singleton.mp hy
    exact .inl ⟨rfl, rfl⟩
  unfold State.send
  split
  · dsimp only
    split
    · exact ⟨[_], rfl, first⟩
    · unfold State.transmit
      split
      · obtain ⟨l, hl, hy⟩ := State.report_adds ((s.number m).2.count cRouteDiscard 1) 1 0x02 0 (s.number m).2.ms.position 0xFF 0xFF
        refine ⟨[(s.number m).1] ++ l, ?_, fun y h => (List.mem_append.mp h).elim (first y) fun h => .inr (hy y h)⟩
        rw [hl, ← List.append_assoc, ← numbered]
        rfl
      · exact ⟨[_], by rw [State.carry_sent]; exact numbered, first⟩
  · exact ⟨[], by simp, by simp⟩

theorem State.send_goesOn (s : State) {m : Msg} (h : m.typ ≠ 5) : s.goesOn (s.send m) := by
  obtain ⟨n, c, e⟩ := s.send_eq m
  obtain ⟨l, hl, hy⟩ := s.send_adds m
  refine ⟨fun k hk => by rw [e]; exact hk, fun a e' he => by rw [e]; exact he, l, hl, fun y hy' => ?_⟩
  rcases hy y hy' with ⟨hy, -⟩ | hy <;> rw [hy]
  · exact h
  · decide

/-! ### What the copies change -/

/-- `t` with what the copies and the commands that wait for them may change as it is in `s`. -/
def State.copiesAs (t s : State) : State :=
  { t with
    host := s.host
    ms := { t.ms with st := s.ms.st }
    net := s.net
    ctr := s.ctr
    bar := s.bar
    wd := s.wd
    mir := { t.mir with
      out := s.mir.out
      acks := s.mir.acks
      waiting := s.mir.waiting }
    st := { t.st with
      agreed := s.st.agreed
      optSteps := s.st.optSteps
      win := s.st.win
      winLog := s.st.winLog
      migMap := s.st.migMap
      migSlots := s.st.migSlots
      eddy := s.st.eddy
      eddySent := s.st.eddySent
      owed := s.st.owed
      owedMoves := s.st.owedMoves
      applied := s.st.applied
      windowShut := s.st.windowShut } }

/-- An applied action, whether or not it is acknowledged. -/
def Act.rested (a : Act) : Act := { a with waitAck := false }

/-- On the way from `s` to `t` copies have been sent or acknowledged: nothing is stored, and the actions applied are the same. With none no row moves. The
module may be LOADED. -/
def State.copies (s t : State) : Prop :=
  t.copiesAs s = s ∧ s.goesOn t ∧ t.st.applied.map Act.rested = s.st.applied.map Act.rested ∧
    (s.st.applied = [] → t.st.agreed = s.st.agreed ∧ t.st.optSteps = s.st.optSteps) ∧ (t.ms.st = s.ms.st ∨ t.ms.st = .loaded)

/-- Without an applied action there is none after the copies. -/
theorem State.applied_nil_of_rested {s t : State} (h : t.st.applied.map Act.rested = s.st.applied.map Act.rested) (hs : s.st.applied = []) :
    t.st.applied = [] := by
  rw [hs] at h
  exact List.map_eq_nil_iff.mp h

theorem State.copies_refl (s : State) : s.copies s := ⟨rfl, s.goesOn_refl, rfl, fun _ => ⟨rfl, rfl⟩, .inl rfl⟩

theorem State.copies_trans {s t u : State} (h : s.copies t) (k : t.copies u) : s.copies u := by
  obtain ⟨hs, hg, hr, ha, hm⟩ := h
  obtain ⟨ks, kg, kr, ka, km⟩ := k
  refine ⟨(congrArg (·.copiesAs s) ks).trans hs, State.goesOn_trans hg kg, kr.trans hr, fun h => ?_, km.elim (fun km => km ▸ hm) .inr⟩
  obtain ⟨hg, ho⟩ := ha h
  obtain ⟨kg, ko⟩ := ka (State.applied_nil_of_rested hr h)
  exact ⟨kg.trans hg, ko.trans ho⟩

theorem State.copies_foldl {α : Type} (f : State → α → State) (l : List α) (h : ∀ (s : State), ∀ x ∈ l, s.copies (f s x)) (s : State) : s.copies (l.foldl f s) :=
  List.foldlRecOn (motive := s.copies) l f s.copies_refl fun t ht x hx => State.copies_trans ht (h t x hx)

theorem State.enter_loaded (s : State) : (s.enter .loaded).ms.st = s.ms.st ∨ (s.enter .loaded).ms.st = .loaded := by
  unfold State.enter
  split
  · exact .inl rfl
  · obtain ⟨x, e⟩ := State.post_eq { s with ms := { s.ms with st := .loaded } } evState (leBytes 1 s.ms.st.code ++ leBytes 1 MState.loaded.code)
    exact .inr (by rw [e])

theorem State.enter_copies (s : State) : s.copies (s.enter .loaded) := by
  have hm := s.enter_loaded
  have hg := s.enter_goesOn .loaded
  obtain ⟨x, y, e⟩ := s.enter_eq .loaded
  rw [e] at hm hg ⊢
  exact ⟨rfl, hg, rfl, fun _ => ⟨rfl, rfl⟩, hm⟩

/-- A completion leaves the module in its state, or LOADED. -/
theorem State.complete_state (s : State) (n : Nat) (c : Cpl) : (s.complete n c).ms.st = s.ms.st ∨ (s.complete n c).ms.st = .loaded := by
  have settled : ∀ x : State, x.ms.st = s.ms.st → x.settle.ms.st = s.ms.st ∨ x.settle.ms.st = .loaded := fun x hx => by
    unfold State.settle
    split
    · exact hx ▸ x.enter_loaded
    · exact .inl hx
  unfold State.complete
  dsimp only
  split
  · exact .inl rfl
  · apply settled
    split
    · rw [State.loadRing_ms]
      split <;> simp
    · split <;> simp

theorem State.complete_copies (s : State) (n : Nat) (c : Cpl) : s.copies (s.complete n c) := by
  have hm := s.complete_state n c
  have hg := s.complete_goesOn n c
  obtain ⟨x, y, e⟩ := s.complete_eq n c
  rw [e] at hm hg ⊢
  exact ⟨rfl, hg, rfl, fun _ => ⟨rfl, rfl⟩, hm⟩

theorem State.send_copies (s : State) {m : Msg} (hm : m.typ ≠ 5) : s.copies (s.send m) := by
  have hg := s.send_goesOn hm
  obtain ⟨x, y, e⟩ := s.send_eq m
  rw [e] at hg ⊢
  exact ⟨rfl, hg, rfl, fun _ => ⟨rfl, rfl⟩, .inl rfl⟩

theorem State.sendAll_copies (s : State) (l : List Nat) {m : Nat → Msg} (hm : ∀ r, (m r).typ ≠ 5) : s.copies (s.sendAll l m) :=
  State.copies_foldl _ l (fun t r _ => t.send_copies (hm r)) s

theorem State.count_copies (s : State) (c n : Nat) : s.copies (s.count c n) := ⟨rfl, State.goesOn_of_same rfl rfl, rfl, fun _ => ⟨rfl, rfl⟩, .inl rfl⟩

/-! ### Arriving at a barrier -/

theorem State.gatherBarrier_copies (s : State) (kind : Nat) : s.copies (s.gatherBarrier kind) := by
  have set : ∀ b, s.copies (s.setBarrier kind b) := fun b => ⟨rfl, State.goesOn_of_same rfl rfl, rfl, fun _ => ⟨rfl, rfl⟩, .inl rfl⟩
  unfold State.gatherBarrier
  dsimp only
  split
  · exact s.copies_refl
  · split
    · split
      · exact State.copies_trans (set _) (State.send_copies _ (show 6 ≠ 5 by decide))
      · exact State.copies_trans (set _) (State.send_copies _ (show 6 ≠ 5 by decide))
    · exact s.copies_refl

theorem State.arrive_copies (s : State) (kind step attempt value : Nat) : s.copies (s.arrive kind step attempt value) :=
  State.copies_trans (t := s.setBarrier kind _) ⟨rfl, State.goesOn_of_same rfl rfl, rfl, fun _ => ⟨rfl, rfl⟩, .inl rfl⟩ (State.gatherBarrier_copies _ kind)

theorem State.arriveStart_copies (s : State) : s.copies s.arriveStart := by
  unfold State.arriveStart
  split
  · exact s.copies_refl
  · split
    · exact State.copies_trans (t := { s with wd := some .stepStart }) ⟨rfl, State.goesOn_of_same rfl rfl, rfl, fun _ => ⟨rfl, rfl⟩, .inl rfl⟩ (State.arrive_copies _ _ _ _ _)
    · exact s.copies_refl

theorem State.tryWindow_copies (s : State) : s.copies s.tryWindow := by
  unfold State.tryWindow
  split
  · exact State.copies_trans (t := { s with st := { s.st with windowShut := true }, wd := if s.wd.isNone then some .window else s.wd })
      ⟨rfl, State.goesOn_of_same rfl rfl, rfl, fun _ => ⟨rfl, rfl⟩, .inl rfl⟩ (State.arrive_copies _ _ _ _ _)
  · exact s.copies_refl

theorem State.tryBegin_copies (s : State) : s.copies s.tryBegin := State.copies_trans s.arriveStart_copies (State.tryWindow_copies _)

/-! ### A MIGRATE that is complete -/

theorem State.tellSpare_copies (s : State) {m : Msg} (hm : m.typ ≠ 5) : s.copies (s.tellSpare m) := by
  unfold State.tellSpare
  split
  · exact s.send_copies hm
  · exact s.copies_refl

/-- Map-install messages are WRITEs. -/
theorem typ_of_mem_mapMsgs {o kind : Nat} {rs : List MigRec} {m : Msg} (h : m ∈ mapMsgs o kind rs) : m.typ = 1 := by
  obtain ⟨l, -, rfl⟩ := List.mem_map.mp h
  rfl

/-- Rows that leave change the maps and counts of rows. -/
theorem State.leaveRows_copiesAs (s : State) (rs : List MigRec) : (s.leaveRows rs).copiesAs s = s ∧ (s.leaveRows rs).host = s.host ∧
    (s.leaveRows rs).net = s.net ∧ (s.leaveRows rs).st.applied = s.st.applied ∧ (s.leaveRows rs).ms = s.ms := by
  have left : ∀ (t : State) (r : MigRec), ((t.installEntry r).forgetRow (rowKey r.table r.row)).copiesAs t = t ∧
      ((t.installEntry r).forgetRow (rowKey r.table r.row)).host = t.host ∧ ((t.installEntry r).forgetRow (rowKey r.table r.row)).net = t.net ∧
      ((t.installEntry r).forgetRow (rowKey r.table r.row)).st.applied = t.st.applied ∧
      ((t.installEntry r).forgetRow (rowKey r.table r.row)).ms = t.ms := fun t r => by
    unfold State.installEntry
    dsimp only
    split <;> exact ⟨rfl, rfl, rfl, rfl, rfl⟩
  refine List.foldlRecOn (motive := fun t : State => t.copiesAs s = s ∧ t.host = s.host ∧ t.net = s.net ∧ t.st.applied = s.st.applied ∧ t.ms = s.ms) rs _
    ⟨rfl, rfl, rfl, rfl, rfl⟩ fun t ⟨ht, hh, hn, hp, hm⟩ r _ => ?_
  obtain ⟨ka, kh, kn, kp, km⟩ := left t r
  exact ⟨(congrArg (·.copiesAs s) ka).trans ht, kh.trans hh, kn.trans hn, kp.trans hp, km.trans hm⟩

/-- Every member hears of a MIGRATE that is complete, and its rows leave. -/
theorem State.tellMoved_copies (s : State) (ring : Nat) : s.copies (s.tellMoved ring) := by
  unfold State.tellMoved
  dsimp only
  generalize hrs : Option.elim _ _ _ = rs
  have left : s.copies (s.leaveRows rs) := by
    obtain ⟨ha, hh, hn, hp, hm⟩ := s.leaveRows_copiesAs rs
    refine ⟨ha, State.goesOn_of_same hh (by rw [hn]), by rw [hp], fun h => ?_, .inl (by rw [hm])⟩
    have : rs = [] := by rw [← hrs, h]; rfl
    subst this
    exact ⟨rfl, rfl⟩
  refine State.copies_trans left (State.copies_trans (State.count_copies _ cMigrateRows rs.length) (State.copies_trans ?_
    (State.copies_foldl _ _ (fun t m hm => t.tellSpare_copies (by rw [typ_of_mem_mapMsgs hm]; decide)) _)))
  exact State.copies_foldl _ _ (fun t o _ => State.copies_foldl _ _ (fun u m hm => u.send_copies (by rw [typ_of_mem_mapMsgs hm]; decide)) t) _

/-! ### Commands that waited for the holders -/

theorem State.finishWaiting_copies (s : State) (x : Nat × Nat × Nat) : s.copies (s.finishWaiting x) := by
  unfold State.finishWaiting
  dsimp only
  refine State.copies_trans ?_ (State.complete_copies _ _ _)
  have entered : s.copies (if ((s.ring x.1).busy).elim 0 (fun b => descOp b.2) = 0x02 then s.enter .loaded else s) := by
    split
    · exact s.enter_copies
    · exact s.copies_refl
  refine State.copies_trans entered ?_
  generalize (if ((s.ring x.1).busy).elim 0 (fun b => descOp b.2) = 0x02 then s.enter .loaded else s) = t
  split
  · exact t.tellMoved_copies _
  · exact t.copies_refl

/-- What waited for the holders completes. -/
theorem State.finishCopies_copies (s : State) : s.copies s.finishCopies := by
  unfold State.finishCopies
  split
  · dsimp only
    refine State.copies_trans ?_ (State.tryBegin_copies _)
    refine State.copies_trans ?_ (State.copies_foldl _ _ (fun t x _ => t.finishWaiting_copies x) _)
    refine State.copies_trans ?_ (State.sendAll_copies _ _ fun _ => show 1 ≠ 5 by decide)
    refine State.copies_trans ?_ (State.sendAll_copies _ _ fun _ => show 1 ≠ 5 by decide)
    refine ⟨rfl, State.goesOn_of_same rfl rfl, ?_, fun _ => ⟨rfl, rfl⟩, .inl rfl⟩
    exact List.map_map
  · exact s.copies_refl

/-! ### Streaming -/

theorem State.sendPart_copies (s : State) (opc part : Nat) : s.copies (s.sendPart opc part) := by
  unfold State.sendPart
  split
  · exact s.copies_refl
  · refine State.copies_trans (State.count_copies _ _ _) (State.copies_foldl _ _ (fun t m hm => t.send_copies ?_) _)
    rcases List.mem_append.mp hm with hm | hm
    · obtain ⟨x, -, rfl⟩ := List.mem_map.mp hm
      exact show 8 ≠ 5 by decide
    · cases List.mem_singleton.mp hm
      exact show 8 ≠ 5 by decide

theorem State.stream_copies (s : State) (opc : Nat) (runs : List (Nat × List Byte)) : s.copies (s.stream opc runs) := by
  unfold State.stream
  dsimp only
  refine State.copies_trans ?_ (State.copies_foldl _ _ (fun t p _ => t.sendPart_copies opc p) _)
  exact ⟨rfl, State.goesOn_of_same rfl rfl, rfl, fun _ => ⟨rfl, rfl⟩, .inl rfl⟩

/-- Copies of the boundary, with the region of the committed values brought up to date. -/
theorem State.copyWith_copies (s : State) (carried : List Byte) (touched : List Region) (waiting : List (Nat × Nat × Nat)) :
    (s.write s.tailRegion.base carried).copies (s.copyWith carried touched waiting) := by
  unfold State.copyWith
  exact State.copies_trans (State.copies_trans (t := State.write { s with mir := { s.mir with waiting := s.mir.waiting ++ waiting } } s.tailRegion.base carried)
    ⟨rfl, State.goesOn_of_same rfl rfl, rfl, fun _ => ⟨rfl, rfl⟩, .inl rfl⟩ (State.stream_copies _ _ _)) (State.finishCopies_copies _)

/-- With nothing touched only what waits is listed. -/
theorem State.copyBoundary_nil_copies (s : State) (waiting : List (Nat × Nat × Nat)) : s.copies (s.copyBoundary [] waiting) := by
  rw [State.copyBoundary, if_pos rfl]
  refine State.copies_trans ?_ (State.finishCopies_copies _)
  exact ⟨rfl, State.goesOn_of_same rfl rfl, rfl, fun _ => ⟨rfl, rfl⟩, .inl rfl⟩

theorem State.copyBoundary_copies (s : State) {touched : List Region} (h : touched ≠ []) (waiting : List (Nat × Nat × Nat)) :
    s.storeCarried.copies (s.copyBoundary touched waiting) := by
  rw [State.copyBoundary, if_neg h]
  exact s.copyWith_copies _ _ _

end Sys2Proof.Machine
end

section
/-! SUPPORT. Bytes stored one range after another, the work that a step leaves on the cores, and the STEPs behind one that has ended (01 R16-R23, 11 R272). -/

namespace Sys2Proof.Machine

open Sys2Proof

/-! ### Ranges stored one after another -/

/-- Runs of bytes stored in order. -/
def State.writeAll (s : State) (l : List (Nat × List Byte)) : State := l.foldl (fun s w => s.write w.1 w.2) s

@[simp] theorem State.writeAll_cons (s : State) (w : Nat × List Byte) (l : List (Nat × List Byte)) :
    s.writeAll (w :: l) = (s.write w.1 w.2).writeAll l := rfl

theorem State.writeAll_append (s : State) (k l : List (Nat × List Byte)) : s.writeAll (k ++ l) = (s.writeAll k).writeAll l := List.foldl_append

theorem State.writeAll_eq (s : State) (l : List (Nat × List Byte)) : s.writeAll l = { s with mem := (s.writeAll l).mem } := by
  induction l generalizing s with
  | nil => rfl
  | cons w t ih => exact ih (s.write w.1 w.2)

theorem State.writeAll_mem_congr {s t : State} {l : List (Nat × List Byte)} (h : s.mem = t.mem) : (s.writeAll l).mem = (t.writeAll l).mem := by
  induction l generalizing s t with
  | nil => exact h
  | cons w l ih => exact ih (congrArg (fun m => storeBytes 0 m w.1 w.2) h)

/-- Bytes that agree are read alike. -/
theorem State.read_congr {s t : State} {a n : Nat} (h : ∀ i < n, t.byte (a + i) = s.byte (a + i)) : t.read a n = s.read a n := by
  apply List.ext_getElem
  · simp
  · intro i h1 h2
    rw [getElem_bytesAt, getElem_bytesAt]
    exact h i (by simpa using h1)

theorem overlaps_eq_false {x y : Region} : overlaps x y = false ↔ x.len = 0 ∨ y.len = 0 ∨ y.base + y.len ≤ x.base ∨ x.base + x.len ≤ y.base := by
  simp only [overlaps, Bool.and_eq_false_iff, bne_eq_false_iff_eq, decide_eq_false_iff_not, Nat.not_lt]
  tauto

/-- A range stored leaves what is read elsewhere. -/
theorem State.read_write_disjoint {s : State} {a n : Nat} {w : Nat} {b : List Byte}
    (h : overlaps { base := a, len := n } { base := w, len := b.length } = false) : (s.write w b).read a n = s.read a n := by
  rw [overlaps_eq_false] at h
  dsimp only at h
  refine State.read_congr fun i hi => ?_
  rcases h with h | h | h
  · omega
  · rw [List.length_eq_zero_iff.mp h]
    rfl
  · exact s.byte_write_outside w b _ (by omega)

theorem State.read_writeAll_disjoint {s : State} {a n : Nat} {l : List (Nat × List Byte)}
    (h : ∀ y ∈ l, overlaps { base := a, len := n } { base := y.1, len := y.2.length } = false) : (s.writeAll l).read a n = s.read a n := by
  induction l generalizing s with
  | nil => rfl
  | cons w t ih =>
    rw [State.writeAll_cons, ih fun y hy => h y (List.mem_cons_of_mem w hy)]
    exact State.read_write_disjoint (h w List.mem_cons_self)

/-- A run that no later one overlaps stands as it was stored. -/
theorem State.read_writeAll {s : State} {l rest : List (Nat × List Byte)} {q : Nat × List Byte}
    (h : ∀ y ∈ rest, overlaps { base := q.1, len := q.2.length } { base := y.1, len := y.2.length } = false) :
    (s.writeAll (l ++ q :: rest)).read q.1 q.2.length = q.2 := by
  rw [State.writeAll_append, State.writeAll_cons, State.read_writeAll_disjoint h, State.read_write]

/-! ### Work dropped from the cores -/

theorem State.enqueueStalled_coresOnly (s : State) (core : Nat) : s.coresOnly (s.enqueueStalled core) := by
  refine State.coresOnly_trans (State.coresOnly_foldl _ (fun t d => ?_) _ s) (State.settleWeirs_coresOnly _)
  dsimp only
  split <;> rfl

theorem State.dropWork_coresOnly (s : State) (eval : Bool) : s.coresOnly (s.dropWork eval) :=
  State.coresOnly_trans (t := s.clearWork eval) rfl
    (State.coresOnly_trans (State.coresOnly_foldl _ State.enqueueStalled_coresOnly _ _) (State.settleWeirs_coresOnly _))

/-! ### The STEPs behind one that has ended -/

/-- `t` with what STEPs that start may change as it is in `s`. -/
def State.stepsAs (t s : State) : State :=
  { t with
    host := s.host
    ms := { t.ms with st := s.ms.st }
    net := s.net
    ctr := s.ctr
    bar := s.bar
    wd := s.wd
    recov := { t.recov with replays := s.recov.replays }
    st := { t.st with
      run := s.st.run
      waiting := s.st.waiting
      windowShut := s.st.windowShut } }

/-- On the way from `s` to `t` STEPs that waited have started or been refused. -/
def State.follows (s t : State) : Prop := t.stepsAs s = s ∧ s.goesOn t

theorem State.follows_trans {s t u : State} (h : s.follows t) (k : t.follows u) : s.follows u :=
  ⟨(congrArg (·.stepsAs s) k.1).trans h.1, State.goesOn_trans h.2 k.2⟩

theorem State.complete_follows (s : State) (n : Nat) (c : Cpl) : s.follows (s.complete n c) := by
  refine ⟨?_, s.complete_goesOn n c⟩
  obtain ⟨x, y, e⟩ := s.complete_eq n c
  rw [e]
  rfl

theorem State.takeStep_follows (s : State) (r : StepRun) : s.follows (s.takeStep r) := by
  have hs : s.goesOn { s with st := { s.st with run := some r }, recov := { s.recov with replays := r.replays } } := State.goesOn_of_same rfl rfl
  have hg := State.goesOn_trans hs (State.goesOn_trans (State.startRunning_goesOn _) (State.tryBegin_copies _).2.1)
  refine ⟨?_, hg⟩
  obtain ⟨x, m, e⟩ := State.startRunning_eq { s with st := { s.st with run := some r }, recov := { s.recov with replays := r.replays } }
  obtain ⟨b, n, c, w, u, e'⟩ := State.tryBegin_eq (State.startRunning { s with st := { s.st with run := some r }, recov := { s.recov with replays := r.replays } })
  rw [State.takeStep, e', e]
  rfl

theorem State.startStep_follows (s : State) (w : WaitingStep) : s.follows (s.startStep w) := by
  unfold State.startStep
  split
  · exact ⟨rfl, s.goesOn_refl⟩
  · split
    · exact s.complete_follows _ _
    · split
      · exact s.complete_follows _ _
      · exact s.takeStep_follows _

theorem State.nextSteps_follows (s : State) (n : Nat) : s.follows (s.nextSteps n) := by
  induction n generalizing s with
  | zero => exact ⟨rfl, s.goesOn_refl⟩
  | succ n ih =>
    unfold State.nextSteps
    split
    · refine State.follows_trans (State.follows_trans ?_ (State.startStep_follows _ _)) (ih _)
      exact ⟨rfl, State.goesOn_of_same rfl rfl⟩
    · exact ⟨rfl, s.goesOn_refl⟩

/-- The STEPs behind one that has ended start in their order. -/
theorem State.followOn_follows (s : State) : s.follows s.followOn := s.nextSteps_follows _

/-- Without a STEP that waits nothing follows. -/
theorem State.followOn_nil {s : State} (h : s.st.waiting = []) : s.followOn = s := by rw [State.followOn, h]; rfl

end Sys2Proof.Machine
end

section
/-! PROOFS. How a step ends: the finite AND and the commit point (01 R18-R26). -/

namespace Sys2Proof.Machine

open Sys2Proof

/-! ### Records, values and the end of a step -/

/-- A record stored changes memory, and of the step's state the records that wait and the ring's head. -/
theorem State.keepRecord_eq (s : State) (r : StepRun) (skipped : Bool) (deltas : List Byte) :
    ∃ m h p, s.keepRecord r skipped deltas = { s with mem := m, st := { s.st with retHead := h, retPending := p } } := by
  unfold State.keepRecord
  split
  · exact ⟨s.mem, s.st.retHead, s.st.retPending, rfl⟩
  · unfold State.storeRecord State.write
    exact ⟨_, _, _, rfl⟩

/-- A step that is over leaves the host side, memory, the network and the mirror as they are. -/
theorem State.closeStep_eq (s : State) : ∃ g c e t v, s.closeStep = { s with
    gc := g
    ctr := c
    ex := e
    tier := t
    recov := v
    wd := none
    conf := .reset
    st := { s.st with
      run := none
      undo := []
      lastAttempt := none
      owedReplays := 0
      applied := []
      refreshed := []
      windowOpen := true
      windowShut := false
      windowAsked := s.st.windowReqs.contains s.lastStep
      windowReqs := s.st.windowReqs.filter (· != s.lastStep)
      budgetSpent := false
      compacted := false } } := by
  obtain ⟨g, c, e⟩ := (State.coresOnly_iff _ _).mp (s.dropWork_coresOnly false)
  unfold State.closeStep State.clearExchange
  rw [e]
  exact ⟨g, c, _, _, _, rfl⟩

/-- The completion of a step that has ended. -/
def stepCpl (r : StepRun) (step : Nat) (skipped mism : Bool) : Cpl where
  status := endStatus r skipped
  info := if r.exec then 1 else r.epoch
  step := step
  replays := r.replays
  skipped := skipped
  rescaled := r.rescaled
  mismatch := mism

/-- A STEP completes with its step's figures, and nothing but the host side and the counters changes. -/
theorem State.completeStep_spec (s : State) (r : StepRun) (step : Nat) (skipped mism : Bool) :
    (∃ h m c, s.completeStep r step skipped mism = { s with host := h, ms := { s.ms with st := m }, ctr := c }) ∧
    ((s.ring r.ring).busy.isSome = true → s.ended r.ring (stepCpl r step skipped mism) (s.completeStep r step skipped mism)) := by
  have hu : ∃ c, (if mism then s.count cReplayMismatch 1 else s) = { s with ctr := c } := by
    split
    · exact ⟨_, rfl⟩
    · exact ⟨s.ctr, rfl⟩
  obtain ⟨c, hu⟩ := hu
  have e : s.completeStep r step skipped mism = State.complete { s with ctr := c } r.ring (stepCpl r step skipped mism) := by
    rw [State.completeStep, hu]
    rfl
  rw [e]
  obtain ⟨h, m, e'⟩ := State.complete_eq { s with ctr := c } r.ring (stepCpl r step skipped mism)
  exact ⟨⟨h, m, c, e'⟩, State.complete_ended rfl⟩

/-- What a step that has ended leaves: the step number, the stream offsets, the weights in force, the last committed and completed steps, the undo log, and
whether the boundary window is open. -/
def State.stepView (s : State) : Nat × List Nat × Bool × Option Nat × Option Nat × List (Nat × Byte) × Bool :=
  (s.st.stepNo, s.st.offsets, s.st.wEpoch, s.st.committed, s.st.completed, s.st.undo, s.st.windowOpen)

theorem State.stepView_copies {s t : State} (h : s.copies t) : t.stepView = s.stepView := by
  rw [← h.1]
  rfl

theorem State.stepView_follows {s t : State} (h : s.follows t) : t.stepView = s.stepView := by
  rw [← h.1]
  rfl

/-- Whether a command has ended depends on its ring as it was. -/
theorem State.ended_of_ring {s s' t : State} {n : Nat} {c : Cpl} (h : s'.ring n = s.ring n) (k : s'.ended n c t) : s.ended n c t := by
  simpa only [State.ended, State.posted, h] using k

/-- The end of a step, once its values are in place: the step is over, and its STEP has completed. -/
theorem State.over_spec (s : State) (r : StepRun) (step : Nat) (skipped mism : Bool) :
    (∃ m g c e t v w x, s.closeStep.completeStep r step skipped mism = { s with
      host := m, ms := { s.ms with st := g }, ctr := c, ex := e, tier := t, recov := v, gc := w, wd := none, conf := .reset
      st := { s.st with
        run := none
        undo := []
        lastAttempt := none
        owedReplays := 0
        applied := []
        refreshed := []
        windowOpen := true
        windowShut := false
        windowAsked := s.st.windowReqs.contains s.lastStep
        windowReqs := x
        budgetSpent := false
        compacted := false } }) ∧
    ((s.ring r.ring).busy.isSome = true → s.ended r.ring (stepCpl r step skipped mism) (s.closeStep.completeStep r step skipped mism)) := by
  obtain ⟨g, c, e, t, v, e'⟩ := s.closeStep_eq
  obtain ⟨⟨h, m, k, e''⟩, hd⟩ := State.completeStep_spec s.closeStep r step skipped mism
  have hr : s.closeStep.ring r.ring = s.ring r.ring := by rw [e']
  exact ⟨⟨h, m, k, e, t, v, g, s.st.windowReqs.filter (· != s.lastStep), by rw [e'', e']⟩, fun hb => State.ended_of_ring hr (hd (hr ▸ hb))⟩

/-! ### SKIPPED_NONFINITE -/

/-- A step without an update is over, with nothing of it applied but its step number and its stream offsets. -/
theorem State.skipPoint_spec {s : State} {r : StepRun} (hr : s.st.run = some r) : ∃ mism, (r.record = none → mism = false) ∧
    s.skipPoint.stepView = ((s.st.stepNo + 1) % 2 ^ 32, advanceOffsets s.st.offsets s.st.advances, s.st.wEpoch, s.st.committed, some s.st.stepNo, [], true) ∧
    (s.st.waiting = [] → s.skipPoint.st.run = none) ∧ s.skipPoint.st.optSteps = s.st.optSteps ∧ s.skipPoint.st.agreed = s.st.agreed ∧
    ((s.ring r.ring).busy.isSome = true → s.ended r.ring (stepCpl r s.st.stepNo true mism) s.skipPoint) := by
  refine ⟨s.mismatch r s.skippedDeltas, fun h => by rw [State.mismatch, h]; rfl, ?_⟩
  obtain ⟨m, h, p, e⟩ := s.keepRecord_eq r true s.skippedDeltas
  obtain ⟨⟨o, g, c, x, y, v, w, q, e'⟩, hd⟩ := State.over_spec { (s.keepRecord r true s.skippedDeltas).skippedValues with
    st := { (s.keepRecord r true s.skippedDeltas).skippedValues.st with completed := some s.st.stepNo } } r s.st.stepNo true (s.mismatch r s.skippedDeltas)
  generalize hu : State.completeStep _ r s.st.stepNo true (s.mismatch r s.skippedDeltas) = u at e' hd
  have hx : s.skipPoint = (if u.tailRegion.len = 0 then u else u.copyBoundary [u.tailRegion] []).followOn := by
    unfold State.skipPoint
    rw [hr]
    dsimp only
    rw [hu]
  have copied : ∃ u', u'.st = u.st ∧ u.goesOn u' ∧ u'.copies (if u.tailRegion.len = 0 then u else u.copyBoundary [u.tailRegion] []) := by
    split
    · exact ⟨u, rfl, u.goesOn_refl, u.copies_refl⟩
    · exact ⟨u.storeCarried, rfl, State.goesOn_of_same rfl rfl, u.copyBoundary_copies (List.cons_ne_nil _ _) _⟩
  obtain ⟨u', hst, hgo, hc⟩ := copied
  generalize (if u.tailRegion.len = 0 then u else u.copyBoundary [u.tailRegion] []) = t at hc hx
  have hf := t.followOn_follows
  rw [← hx] at hf
  have hv : u.stepView = ((s.st.stepNo + 1) % 2 ^ 32, advanceOffsets s.st.offsets s.st.advances, s.st.wEpoch, s.st.committed, some s.st.stepNo, [], true) ∧
      u.st.run = none ∧ u.st.waiting = s.st.waiting ∧ u.st.applied = [] ∧ u.st.optSteps = s.st.optSteps ∧ u.st.agreed = s.st.agreed := by
    rw [e', e]
    exact ⟨rfl, rfl, rfl, rfl, rfl, rfl⟩
  obtain ⟨hv, hrun, hw, ha, ho, hg⟩ := hv
  have ⟨_, _, _, hc', _⟩ := hc
  obtain ⟨kg, ko⟩ := hc' (hst ▸ ha)
  have kr : t.st.run = u'.st.run ∧ t.st.waiting = u'.st.waiting := by
    rw [← hc.1]
    exact ⟨rfl, rfl⟩
  have fo : s.skipPoint.st.optSteps = t.st.optSteps ∧ s.skipPoint.st.agreed = t.st.agreed := by
    rw [← hf.1]
    exact ⟨rfl, rfl⟩
  have hu' : u'.stepView = u.stepView := by rw [State.stepView, hst]; rfl
  refine ⟨?_, fun hn => ?_, ?_, ?_, fun hb => ?_⟩
  · rw [State.stepView_follows hf, State.stepView_copies hc, hu', hv]
  · rw [hx, State.followOn_nil (by rw [kr.2, hst, hw, hn]), kr.1, hst, hrun]
  · rw [fo.1, ko, hst, ho]
  · rw [fo.2, kg, hst, hg]
  · have hr' : (State.ring { (s.keepRecord r true s.skippedDeltas).skippedValues with
        st := { (s.keepRecord r true s.skippedDeltas).skippedValues.st with completed := some s.st.stepNo } } r.ring) = s.ring r.ring := by
      rw [e]
      rfl
    exact State.ended_goesOn (State.ended_of_ring hr' (hd (hr' ▸ hb))) (State.goesOn_trans hgo (State.goesOn_trans hc.2.1 hf.2))

/-! ### The commit point -/

/-- Runs applied to a held part are stored in its owner's region. -/
theorem State.applyRuns_snd (s : State) (x : MirPart) (l : List (Nat × List Byte)) :
    (s.applyRuns x l).2 = s.writeAll (l.map fun r => (s.mirrorBase x.owner + r.1, r.2)) ∧ (s.applyRuns x l).1.owner = x.owner := by
  induction l generalizing s x with
  | nil => exact ⟨rfl, rfl⟩
  | cons r t ih => exact ih (s.write (s.mirrorBase x.owner + r.1) r.2) _

/-- A held part whose pending deltas have been applied. -/
def State.applyPart (s : State) (x : MirPart) : State :=
  (s.applyRuns x x.pend).2.setHeld { (s.applyRuns x x.pend).1 with pend := [], last := none, acked := false }

/-- The held parts' pending deltas are stored in order, and then they have none. -/
theorem State.applyParts_spec (l : List MirPart) (s : State) :
    (l.foldl State.applyPart s).mem = (s.writeAll (l.flatMap fun x => x.pend.map fun r => (s.mirrorBase x.owner + r.1, r.2))).mem ∧
    l.foldl State.applyPart s = { s with mem := (l.foldl State.applyPart s).mem, mir := { s.mir with held := (l.foldl State.applyPart s).mir.held } } ∧
    ((∀ x ∈ s.mir.held, x ∈ l ∨ x.pend = []) → ∀ x ∈ (l.foldl State.applyPart s).mir.held, x.pend = []) := by
  induction l generalizing s with
  | nil => exact ⟨rfl, rfl, fun h x hx => (h x hx).resolve_left (List.not_mem_nil)⟩
  | cons y t ih =>
    obtain ⟨e, ho⟩ := s.applyRuns_snd y y.pend
    have e' := State.writeAll_eq s (y.pend.map fun r => (s.mirrorBase y.owner + r.1, r.2))
    have hm : ∃ h, s.applyPart y = { s with mem := (s.writeAll (y.pend.map fun r => (s.mirrorBase y.owner + r.1, r.2))).mem, mir := { s.mir with held := h } } ∧
        ∀ x ∈ h, x.pend = [] ∨ (x ∈ s.mir.held ∧ x ≠ y) := by
      refine ⟨_, by rw [State.applyPart, e, e']; rfl, fun x hx => ?_⟩
      rcases List.mem_append.mp hx with hx | hx
      · obtain ⟨hx, hn⟩ := List.mem_filter.mp hx
        refine .inr ⟨hx, fun h => ?_⟩
        subst h
        simp [ho] at hn
      · cases List.mem_singleton.mp hx
        exact .inl rfl
    obtain ⟨h, hp, hh⟩ := hm
    obtain ⟨i1, i2, i3⟩ := ih (s.applyPart y)
    rw [List.foldl_cons]
    refine ⟨?_, ?_, fun hs => i3 fun x hx => ?_⟩
    · rw [i1, List.flatMap_cons, State.writeAll_append, hp]
      exact State.writeAll_mem_congr rfl
    · rw [i2, hp]
    · rw [hp] at hx
      rcases hh x hx with hx | ⟨hx, hn⟩
      · exact .inr hx
      · rcases hs x hx with hx | hx
        · exact .inl ((List.mem_cons.mp hx).resolve_left hn)
        · exact .inr hx

/-- At the commit point the pending deltas of every held part are stored, in order. -/
theorem State.applyPending_spec (s : State) : ∃ h, s.applyPending = { s with mem := (s.writeAll s.pendingRuns).mem, mir := { s.mir with held := h } } ∧
    ∀ x ∈ h, x.pend = [] := by
  obtain ⟨hm, he, hp⟩ := State.applyParts_spec s.mir.held s
  have hm' : (s.mir.held.foldl State.applyPart s).mem = (s.writeAll s.pendingRuns).mem := hm
  exact ⟨_, hm' ▸ he, hp fun x hx => .inl hx⟩

/-- The release of the commit barrier is the commit point. -/
theorem State.commitPoint_spec {s : State} {r : StepRun} (hr : s.st.run = some r) (hp : r.phase = .prepared) : ∃ mism, (r.record = none → mism = false) ∧
    s.commitPoint.stepView = ((s.st.stepNo + 1) % 2 ^ 32, advanceOffsets s.st.offsets s.st.advances,
      (if s.slices.any (fun x => s.mach.rank == some x.owner) then !s.st.wEpoch else s.st.wEpoch), some s.st.stepNo, some s.st.stepNo, [], true) ∧
    (s.st.waiting = [] → s.commitPoint.st.run = none ∧ (∀ x ∈ s.commitPoint.mir.held, x.pend = []) ∧
      ∃ m : State, s.commitPoint.mem = (m.writeAll s.pendingRuns).mem) ∧
    ((s.ring r.ring).busy.isSome = true → s.ended r.ring (stepCpl r s.st.stepNo false mism) s.commitPoint) := by
  let deltas := deltaSection (s.imageRegions s.otherEpoch) s.mir.out
  refine ⟨s.mismatch r deltas, fun h => by rw [State.mismatch, h]; rfl, ?_⟩
  obtain ⟨m, h, p, e⟩ := s.keepRecord_eq r false deltas
  generalize hv : (s.keepRecord r false deltas).committedValues = v at *
  obtain ⟨g, ea, hpend⟩ := State.applyPending_spec { v with st := { v.st with
    wEpoch := if v.slices.any (fun x => v.mach.rank == some x.owner) then !v.st.wEpoch else v.st.wEpoch
    committed := some s.st.stepNo
    completed := some s.st.stepNo } }
  generalize ha : State.applyPending _ = a at ea
  obtain ⟨⟨o, i, c, x, y, w, z, q, e'⟩, hd⟩ := State.over_spec a r s.st.stepNo false (s.mismatch r deltas)
  generalize hu : a.closeStep.completeStep r s.st.stepNo false (s.mismatch r deltas) = u at e' hd
  have hx : s.commitPoint = u.followOn := by
    unfold State.commitPoint
    rw [hr]
    simp only [hp, bne_self_eq_false, Bool.false_eq_true, if_false]
    rw [hv, ha, hu]
  have hv' : v = ({ s with mem := m, st := { s.st with retHead := h, retPending := p } } : State).committedValues := by rw [← hv, e]
  have ended : u.stepView = ((s.st.stepNo + 1) % 2 ^ 32, advanceOffsets s.st.offsets s.st.advances,
      (if s.slices.any (fun x => s.mach.rank == some x.owner) then !s.st.wEpoch else s.st.wEpoch), some s.st.stepNo, some s.st.stepNo, [], true) ∧
      u.st.run = none ∧ u.st.waiting = s.st.waiting ∧ u.mir.held = g ∧ a.ring r.ring = s.ring r.ring := by
    rw [e', ea, hv']
    exact ⟨rfl, rfl, rfl, rfl, rfl⟩
  have stored : ∃ x : State, u.mem = (x.writeAll s.pendingRuns).mem := by
    refine ⟨v, ?_⟩
    rw [e', ea, hv']
    exact State.writeAll_mem_congr rfl
  obtain ⟨hview, hrun, hw, hheld, hring⟩ := ended
  have hf := u.followOn_follows
  rw [← hx] at hf
  refine ⟨(State.stepView_follows hf).trans hview, fun hn => ?_, fun hb => ?_⟩
  · rw [hx, State.followOn_nil (by rw [hw, hn])]
    exact ⟨hrun, hheld ▸ hpend, stored⟩
  · exact State.ended_goesOn (State.ended_of_ring hring (hd (hring ▸ hb))) hf.2

/-! ### The obligation -/

/-- The finite AND with its bit set takes the module to Commit. -/
theorem barrierFinite_set {s : State} {m : Msg} {r : StepRun} (h : s.releasedBy 1 m) (hr : s.st.run = some r) (hp : r.phase = .finite)
    (hv : field m.body 8 8 % 2 = 1) : ∃ t, exec (.barrierFinite m) s = .next t ∧ t.st.run = some { r with phase := .commit } ∧
      t.st.stepNo = s.st.stepNo ∧ t.st.wEpoch = s.st.wEpoch := by
  obtain ⟨n, c, e⟩ := State.barrierIn_released h (by decide)
  obtain ⟨x, e'⟩ := State.capture_eq { s with net := n, ctr := c, bar := s.releasedBar 1 m.body } 4
  obtain ⟨g, k, e''⟩ := State.enterPhase_eq (State.capture { s with net := n, ctr := c, bar := s.releasedBar 1 m.body } 4) .commit 5 none
  have hx : barrierFinite m s = (State.capture { s with net := n, ctr := c, bar := s.releasedBar 1 m.body } 4).enterPhase .commit 5 none := by
    rw [barrierFinite, show bFinite = 1 from rfl, e]
    simp [hr, hp, hv]
  refine ⟨_, congrArg Host.Outcome.next (hx.trans e''), ?_⟩
  rw [e']
  exact ⟨congrArg (Option.map fun r : StepRun => { r with phase := Phase.commit }) hr, rfl, rfl⟩

/-- Settles O25: the release of the finite AND and of the commit barrier each end in the same way, with the step's values in place before the step is over,
and its STEP completes before the next one starts. -/
theorem stepEnds : Obligations.StepEnds := by
  unfold Obligations.StepEnds
  refine ⟨fun s m r h hr hp => ⟨barrierFinite_set h hr hp, fun hv => ?_⟩, fun s m r h hr hp => ?_⟩
  · obtain ⟨n, c, e⟩ := State.barrierIn_released h (by decide)
    obtain ⟨x, e'⟩ := State.capture_eq { s with net := n, ctr := c, bar := s.releasedBar 1 m.body } 4
    obtain ⟨mism, hm, hview, hrun, ho, ha, hd⟩ := State.skipPoint_spec (s := { s with net := n, ctr := c, bar := s.releasedBar 1 m.body, mem := x }) hr
    have hx : barrierFinite m s = State.skipPoint { s with net := n, ctr := c, bar := s.releasedBar 1 m.body, mem := x } := by
      rw [barrierFinite, show bFinite = 1 from rfl, e]
      simp [hr, hp, hv, e']
    obtain ⟨h1, h2, h3, h4, h5, h6, h7⟩ := by simpa only [State.stepView, Prod.mk.injEq] using hview
    exact ⟨_, congrArg Host.Outcome.next hx, hrun, h1, h2, h3, h4, h5, ho, ha, h6, h7, fun hb => ⟨mism, hm, hd hb⟩⟩
  · obtain ⟨n, c, e⟩ := State.barrierIn_released h (by decide)
    obtain ⟨mism, hm, hview, hrun, hd⟩ := State.commitPoint_spec (s := { s with net := n, ctr := c, bar := s.releasedBar 2 m.body }) hr hp
    have hx : barrierCommit m s = State.commitPoint { s with net := n, ctr := c, bar := s.releasedBar 2 m.body } := by
      rw [barrierCommit, show bCommit = 2 from rfl, e]
    obtain ⟨h1, h2, h3, h4, h5, h6, h7⟩ := by simpa only [State.stepView, Prod.mk.injEq] using hview
    refine ⟨_, congrArg Host.Outcome.next hx, fun hw => (hrun hw).1, h1, h4, h5, h2, h6, h7, h3, fun hw => ?_, fun hb => ⟨mism, hm, hd hb⟩⟩
    obtain ⟨-, hpend, v, hmem⟩ := hrun hw
    refine ⟨hpend, fun l q rest hl hd => ?_⟩
    have hmem : (State.commitPoint _).mem = (v.writeAll s.pendingRuns).mem := hmem
    rw [State.read, hmem, hl]
    exact State.read_writeAll hd

end Sys2Proof.Machine
end

section
/-! SUPPORT. What boundary actions at their turn leave alone (01 R29, R30, 06 R137-R139, 07 R178-R185). -/

namespace Sys2Proof.Machine

open Sys2Proof

/-! ### Storing and counting -/

/-- On the way from `s` to `t` bytes have been stored and events counted. -/
def State.storesOnly (s t : State) : Prop := { t with mem := s.mem, ctr := s.ctr } = s

theorem State.storesOnly_trans {s t u : State} (h : s.storesOnly t) (k : t.storesOnly u) : s.storesOnly u :=
  (congrArg (fun x : State => ({ x with mem := s.mem, ctr := s.ctr } : State)) k).trans h

theorem State.storesOnly_iff (s t : State) : s.storesOnly t ↔ ∃ m c, t = { s with mem := m, ctr := c } := by
  constructor
  · intro h
    refine ⟨t.mem, t.ctr, ?_⟩
    rw [← (h : { t with mem := s.mem, ctr := s.ctr } = s)]
  · rintro ⟨m, c, rfl⟩
    rfl

theorem State.storesOnly_foldl {α : Type} (f : State → α → State) (h : ∀ (s : State) x, s.storesOnly (f s x)) (l : List α) (s : State) :
    s.storesOnly (l.foldl f s) :=
  List.foldlRecOn (motive := s.storesOnly) l f rfl fun t ht x _ => State.storesOnly_trans ht (h t x)

theorem State.storesOnly_write (s : State) (a : Nat) (b : List Byte) : s.storesOnly (s.write a b) := rfl
theorem State.storesOnly_count (s : State) (c n : Nat) : s.storesOnly (s.count c n) := rfl

theorem State.setEntry_storesOnly (s : State) (node : Nat) (r : RunEntry) : s.storesOnly (s.setEntry node r) := s.storesOnly_write _ _
theorem State.putRecords_storesOnly (s : State) (r : RunEntry) (es : List Edge) : s.storesOnly (s.putRecords r es) := s.storesOnly_write _ _

theorem State.countNarrow_storesOnly (s : State) (a n : Nat) : s.storesOnly (s.countNarrow a n) := by
  unfold State.countNarrow
  split
  · exact State.storesOnly_foldl _ (fun t x => t.storesOnly_count _ 1) _ s
  · rfl

/-! ### INGEST -/

theorem State.relocate_storesOnly {s t : State} {d : Decl} {node : Nat} (h : s.relocate d node = some t) : s.storesOnly t := by
  obtain ⟨a, -, rfl⟩ := Option.map_eq_some_iff.mp h
  exact State.storesOnly_trans (s.setEntry_storesOnly _ _) (State.putRecords_storesOnly _ _ _)

theorem State.insertOne_storesOnly {s t : State} {d : Decl} {r : IngestRec} (h : s.insertOne d r = some t) : s.storesOnly t := by
  obtain ⟨u, hu, rfl⟩ := Option.map_eq_some_iff.mp h
  have hs : s.storesOnly u := by
    split at hu
    · exact State.relocate_storesOnly hu
    · split at hu
      · obtain ⟨v, hv, rfl⟩ := Option.map_eq_some_iff.mp hu
        exact State.storesOnly_trans (State.relocate_storesOnly hv) (v.storesOnly_count _ 1)
      · cases hu
        rfl
  exact State.storesOnly_trans hs (State.storesOnly_trans (u.putRecords_storesOnly _ _) (State.storesOnly_trans (State.setEntry_storesOnly _ _ _) (State.storesOnly_count _ _ _)))

theorem State.deleteOne_storesOnly (s : State) (r : IngestRec) : s.storesOnly (s.deleteOne r) := by
  unfold State.deleteOne
  dsimp only
  split
  · exact State.storesOnly_trans (s.putRecords_storesOnly _ _) (State.storesOnly_trans (State.setEntry_storesOnly _ _ _) (State.storesOnly_count _ _ _))
  · exact s.storesOnly_count _ _

theorem State.ingestAll_storesOnly {s t : State} {d : Decl} {rs : List IngestRec} (h : s.ingestAll d rs = some t) : s.storesOnly t := by
  induction rs generalizing s with
  | nil =>
    cases h
    rfl
  | cons r rs ih =>
    obtain ⟨u, hu, hk⟩ := Option.bind_eq_some_iff.mp h
    refine State.storesOnly_trans ?_ (ih hk)
    split at hu
    · exact State.insertOne_storesOnly hu
    · cases hu
      exact s.deleteOne_storesOnly r

theorem State.rebuildAlias_storesOnly {s t : State} {d : Decl} {node : Nat} (h : s.rebuildAlias d node = some t) : s.storesOnly t := by
  unfold State.rebuildAlias at h
  dsimp only at h
  split at h
  · cases h
    exact s.setEntry_storesOnly _ _
  · obtain ⟨a, -, rfl⟩ := Option.map_eq_some_iff.mp h
    exact State.storesOnly_trans (s.setEntry_storesOnly _ _) (State.storesOnly_trans (State.setEntry_storesOnly _ _ _) (State.storesOnly_write _ _ _))

theorem State.rebuildAll_storesOnly {s t : State} {d : Decl} {l : List Nat} (h : s.rebuildAll d l = some t) : s.storesOnly t := by
  induction l generalizing s with
  | nil =>
    cases h
    rfl
  | cons n l ih =>
    obtain ⟨u, hu, hk⟩ := Option.bind_eq_some_iff.mp h
    exact State.storesOnly_trans (State.rebuildAlias_storesOnly hu) (ih hk)

/-- An INGEST that applies stores in the graph's region, counts, and raises the graph epoch. -/
theorem State.applyIngest_eq {s : State} {b : List Byte} {r : State × List Region} (h : s.applyIngest b = .ok r) :
    ∃ m c, r.1 = { s with mem := m, ctr := c, st := { s.st with epoch := (s.st.epoch + 1) % 2 ^ 64 } } := by
  unfold State.applyIngest at h
  split at h
  · cases h
  · dsimp only at h
    split at h
    · cases h
    · split at h
      · cases h
      · next t ht =>
        split at h
        · cases h
        · split at h
          · cases h
          · next u hu =>
            cases h
            obtain ⟨m, c, e⟩ := (State.storesOnly_iff _ _).mp (State.storesOnly_trans (State.ingestAll_storesOnly ht) (State.rebuildAll_storesOnly hu))
            exact ⟨m, c, by rw [e]⟩

/-! ### What the boundary's work changes -/

/-- `t` with what boundary actions at their turn, compaction and the refresh may change as it is in `s`. -/
def State.boundaryAs (t s : State) : State :=
  { t with
    host := s.host
    ms := { t.ms with st := s.ms.st }
    net := s.net
    ctr := s.ctr
    bar := s.bar
    wd := s.wd
    mem := s.mem
    mir := { t.mir with
      out := s.mir.out
      acks := s.mir.acks
      waiting := s.mir.waiting }
    st := { t.st with
      agreed := s.st.agreed
      optSteps := s.st.optSteps
      win := s.st.win
      winLog := s.st.winLog
      migMap := s.st.migMap
      migSlots := s.st.migSlots
      eddy := s.st.eddy
      eddySent := s.st.eddySent
      owed := s.st.owed
      owedMoves := s.st.owedMoves
      applied := s.st.applied
      windowShut := s.st.windowShut
      epoch := s.st.epoch
      localVer := s.st.localVer
      shadow := s.st.shadow
      acts := s.st.acts
      reserving := s.st.reserving
      reserveWait := s.st.reserveWait
      reserveBad := s.st.reserveBad
      windowOpen := s.st.windowOpen
      compacted := s.st.compacted } }

/-- On the way from `s` to `t` boundary actions have been decided, applied or undone, and their copies sent. -/
def State.boundary (s t : State) : Prop := t.boundaryAs s = s ∧ s.goesOn t

theorem State.boundary_refl (s : State) : s.boundary s := ⟨rfl, s.goesOn_refl⟩

theorem State.boundary_trans {s t u : State} (h : s.boundary t) (k : t.boundary u) : s.boundary u :=
  ⟨(congrArg (·.boundaryAs s) k.1).trans h.1, State.goesOn_trans h.2 k.2⟩

theorem State.boundary_foldl {α : Type} (f : State → α → State) (l : List α) (h : ∀ (s : State), ∀ x ∈ l, s.boundary (f s x)) (s : State) :
    s.boundary (l.foldl f s) :=
  List.foldlRecOn (motive := s.boundary) l f s.boundary_refl fun t ht x hx => State.boundary_trans ht (h t x hx)

theorem State.boundary_of_copies {s t : State} (h : s.copies t) : s.boundary t := ⟨congrArg (·.boundaryAs s) h.1, h.2.1⟩

theorem State.boundary_of_storesOnly {s t : State} (h : s.storesOnly t) : s.boundary t := by
  obtain ⟨m, c, rfl⟩ := (State.storesOnly_iff s t).mp h
  exact ⟨rfl, State.goesOn_of_same rfl rfl⟩

theorem State.startRunning_boundary (s : State) : s.boundary s.startRunning := by
  refine ⟨?_, s.startRunning_goesOn⟩
  obtain ⟨h, m, e⟩ := s.startRunning_eq
  rw [e]
  rfl

theorem State.copyBoundary_boundary (s : State) (touched : List Region) (waiting : List (Nat × Nat × Nat)) : s.boundary (s.copyBoundary touched waiting) := by
  by_cases h : touched = []
  · subst h
    exact State.boundary_of_copies (s.copyBoundary_nil_copies waiting)
  · exact State.boundary_trans (State.boundary_of_storesOnly (State.storesOnly_write s _ _)) (State.boundary_of_copies (s.copyBoundary_copies h waiting))

/-! ### Actions at their turn -/

theorem State.takeOff_boundary (s : State) (a : Act) : s.boundary (s.takeOff a) := ⟨rfl, State.goesOn_of_same rfl rfl⟩

theorem State.refuseAct_boundary (s : State) (a : Act) (x : Status) : s.boundary (s.refuseAct a x) := State.boundary_of_copies (s.complete_copies _ _)

theorem State.appliedAct_boundary (s : State) (a : Act) (touched : List Region) (info : Nat) : s.boundary (s.appliedAct a touched info) :=
  State.boundary_trans (t := { s with st := { s.st with windowOpen := true, applied := s.st.applied ++ [{ a with waitAck := true, info := info }] } })
    ⟨rfl, State.goesOn_of_same rfl rfl⟩ (State.copyBoundary_boundary _ _ _)

theorem State.turnIngest_boundary (s : State) (a : Act) : s.boundary (s.turnIngest a) := by
  unfold State.turnIngest
  split
  · exact s.refuseAct_boundary a _
  · next r hr =>
    obtain ⟨m, c, e⟩ := State.applyIngest_eq hr
    have hb : s.boundary r.1 := by
      rw [e]
      exact ⟨rfl, State.goesOn_of_same rfl rfl⟩
    exact State.boundary_trans hb (State.boundary_trans (State.startRunning_boundary _) (State.appliedAct_boundary _ _ _ _))

theorem State.sendMoves_copies (s : State) (dsts : List Nat) {f : Nat → List Msg} (h : ∀ o, ∀ m ∈ f o, m.typ ≠ 5) : s.copies (s.sendMoves dsts f) :=
  State.copies_foldl _ _ (fun t o _ => State.copies_foldl _ _ (fun u m hm => u.send_copies (h o m hm)) t) s

/-- A MIGRATE at its turn asks for room, or is decided. -/
theorem State.turnMigrate_boundary (s : State) (a : Act) : s.boundary (s.turnMigrate a) := by
  unfold State.turnMigrate
  split
  · exact State.boundary_trans (s.takeOff_boundary a) (State.refuseAct_boundary _ _ _)
  · dsimp only
    split
    · exact State.boundary_trans (s.takeOff_boundary a) (State.boundary_trans (State.startRunning_boundary _) (State.appliedAct_boundary _ _ _ _))
    · refine State.boundary_trans ?_ (State.boundary_of_copies (State.sendMoves_copies _ _ fun o m hm => ?_))
      · exact ⟨rfl, State.goesOn_of_same rfl rfl⟩
      · rw [typ_of_mem_mapMsgs hm]
        decide

theorem State.freeSlots_boundary (s : State) (t : Nat) (l : List Nat) : s.boundary (s.freeSlots t l) := ⟨rfl, State.goesOn_of_same rfl rfl⟩

theorem State.dropScales_boundary (s : State) (k : Nat) : s.boundary (s.dropScales k) := ⟨rfl, State.goesOn_of_same rfl rfl⟩

/-- New rows staged are stored in slots taken from the table's pool. -/
theorem State.stageAct_boundary (s : State) (a : Act) : s.boundary (s.stageAct a).2 := by
  unfold State.stageAct
  split
  · exact s.boundary_refl
  · next t ht =>
    dsimp only
    split
    · generalize hu : List.foldl _ s _ = u
      have hs : s.storesOnly u := by
        rw [← hu]
        exact State.storesOnly_foldl _ (fun v i => State.storesOnly_trans (v.storesOnly_write _ _) (State.countNarrow_storesOnly _ _ _)) _ s
      exact State.boundary_trans (State.boundary_of_storesOnly hs) ⟨rfl, State.goesOn_of_same rfl rfl⟩
    · exact s.boundary_refl

theorem State.restage_boundary (s : State) : s.boundary s.restage := by
  refine State.boundary_foldl _ _ (fun t a _ => ?_) s
  split
  · exact State.boundary_trans (t.stageAct_boundary a) ⟨rfl, State.goesOn_of_same rfl rfl⟩
  · exact t.boundary_refl

theorem State.flipRow_boundary (s : State) (t : TableDecl) (tab row slot : Nat) : s.boundary (s.flipRow t tab row slot) := by
  have hd : ∀ v, s.boundary ((s.setDir tab row slot v).freeSlots tab [s.slotOf tab row]) := fun v =>
    State.boundary_trans (State.boundary_of_storesOnly (s.storesOnly_write _ _)) (State.freeSlots_boundary _ _ _)
  unfold State.flipRow
  dsimp only
  split
  · exact State.boundary_trans (hd _) (State.boundary_trans (State.boundary_of_storesOnly (State.storesOnly_trans (State.storesOnly_write _ _ _)
      (State.storesOnly_write _ _ _))) (State.dropScales_boundary _ _))
  · exact hd _

theorem State.putRows_boundary (s : State) (a : Act) (t : TableDecl) : s.boundary (s.putRows a t).1 := by
  unfold State.putRows
  split
  · exact State.boundary_trans (State.boundary_foldl _ _ (fun u x _ => u.flipRow_boundary t a.table x.1 x.2) s)
      (State.boundary_trans (State.boundary_of_storesOnly (State.storesOnly_count _ _ _)) (State.restage_boundary _))
  · dsimp only
    generalize hu : List.foldl _ s _ = u
    have hs : s.storesOnly u := by
      rw [← hu]
      exact State.storesOnly_foldl _ (fun v i => v.storesOnly_write _ _) _ s
    exact State.boundary_trans (State.boundary_of_storesOnly hs) ⟨rfl, State.goesOn_of_same rfl rfl⟩

theorem State.turnReplace_boundary (s : State) (a : Act) : s.boundary (s.turnReplace a) := by
  unfold State.turnReplace
  split
  · exact s.refuseAct_boundary _ _
  · split
    · exact State.boundary_trans s.startRunning_boundary (State.boundary_trans (State.putRows_boundary _ _ _) (State.appliedAct_boundary _ _ _ _))
    · exact State.boundary_trans (s.freeSlots_boundary _ _) (State.boundary_trans (State.restage_boundary _) (State.refuseAct_boundary _ _ _))

theorem State.turn_boundary (s : State) (a : Act) : s.boundary (s.turn a) := by
  unfold State.turn
  split
  · exact State.boundary_trans (s.takeOff_boundary a) (State.turnIngest_boundary _ _)
  · exact s.turnMigrate_boundary a
  · exact State.boundary_trans (s.takeOff_boundary a) (State.turnReplace_boundary _ _)

/-- The actions that are due, in order. -/
theorem State.applyDue_boundary (s : State) (n : Nat) : s.boundary (s.applyDue n) := by
  induction n generalizing s with
  | zero => exact s.boundary_refl
  | succ n ih =>
    unfold State.applyDue
    split
    · exact s.boundary_refl
    · split
      · exact s.boundary_refl
      · split
        · exact s.boundary_refl
        · exact State.boundary_trans (s.turn_boundary _) (ih _)

theorem State.applyIdle_boundary (s : State) : s.boundary s.applyIdle := by
  unfold State.applyIdle
  split
  · exact s.applyDue_boundary _
  · exact s.boundary_refl

end Sys2Proof.Machine
end

section
/-! PROOFS. ABORT and ABORT_FINAL, and the restoring of retained state (01 R23-R28, 11 R272, R273). -/

namespace Sys2Proof.Machine

open Sys2Proof

/-! ### What Commit overwrote is written back -/

/-- The undo log of `t` holds, for every byte that differs from `s`, the byte of `s`. -/
def State.undoes (s t : State) : Prop :=
  (∀ e ∈ t.st.undo, e.2 = s.byte e.1) ∧ ∀ a, (∀ e ∈ t.st.undo, e.1 ≠ a) → t.byte a = s.byte a

/-- One byte stored in Commit keeps that, by the entry that the undo log takes for it. -/
theorem State.writeUndo_undoes {s t : State} (h : s.undoes t) (a : Nat) (b : List Byte) : s.undoes (t.writeUndo a b) := by
  induction b generalizing t a with
  | nil => exact h
  | cons x l ih =>
    obtain ⟨he, hb⟩ := h
    have other : ∀ c, a ≠ c → byteAt 0 (NMap.set 0 t.mem a x) c = t.byte c := fun c hc => NMap.get_set_ne 0 t.mem a c x hc
    refine ih ?_ (a + 1)
    dsimp only [State.undoes]
    split
    · next hu =>
      obtain ⟨e, hm, hk⟩ := List.any_eq_true.mp hu
      exact ⟨he, fun c hc => (other c fun h => hc e hm ((beq_iff_eq.mp hk).trans h)).trans (hb c hc)⟩
    · next hu =>
      have first : ∀ e ∈ t.st.undo, e.1 ≠ a := fun e hm hk => hu (List.any_eq_true.mpr ⟨e, hm, beq_iff_eq.mpr hk⟩)
      refine ⟨fun e hm => ?_, fun c hc => ?_⟩
      · rcases List.mem_cons.mp hm with rfl | hm
        · exact hb a first
        · exact he e hm
      · exact (other c (hc _ List.mem_cons_self)).trans (hb c fun e hm => hc e (List.mem_cons_of_mem _ hm))

/-- A log of bytes as they were in `s`, written back in any order, leaves no other byte. -/
theorem State.byte_writeBack_foldl {s : State} (l : List (Nat × Byte)) (t : State) (he : ∀ e ∈ l, e.2 = s.byte e.1) (a : Nat)
    (h : (∀ e ∈ l, e.1 ≠ a) → t.byte a = s.byte a) : (l.foldl (fun s e => s.write e.1 [e.2]) t).byte a = s.byte a := by
  induction l generalizing t with
  | nil => exact h (by simp)
  | cons e l ih =>
    refine ih (t.write e.1 [e.2]) (fun x hx => he x (List.mem_cons_of_mem _ hx)) fun hl => ?_
    by_cases ha : e.1 = a
    · have := t.byte_write_inside e.1 [e.2] 0 (by simp)
      rw [← ha]
      exact this.trans (he e List.mem_cons_self)
    · rw [State.byte_write_outside _ _ _ _ (by simp; omega)]
      exact h fun x hx => (List.mem_cons.mp hx).elim (fun h => h ▸ ha) (hl x)

theorem State.undoes_writeBack {s t : State} (h : s.undoes t) (a : Nat) : t.writeBack.byte a = s.byte a :=
  State.byte_writeBack_foldl t.st.undo t h.1 a (h.2 a)

theorem State.writeBack_eq (s : State) : ∃ m, s.writeBack = { s with mem := m } :=
  List.foldlRecOn (motive := fun t : State => ∃ m, t = { s with mem := m }) s.st.undo _ ⟨s.mem, rfl⟩ fun t ⟨m, ht⟩ x _ => by
    subst ht
    exact ⟨_, rfl⟩

/-- Writing back depends on memory and the log only. -/
theorem State.writeBack_mem_congr {s t : State} (hm : t.mem = s.mem) (hu : t.st.undo = s.st.undo) : t.writeBack.mem = s.writeBack.mem := by
  have fold : ∀ (l : List (Nat × Byte)) (x y : State), x.mem = y.mem →
      (l.foldl (fun s e => s.write e.1 [e.2]) x).mem = (l.foldl (fun s e => s.write e.1 [e.2]) y).mem := by
    intro l
    induction l with
    | nil => exact fun x y h => h
    | cons e l ih => exact fun x y h => ih _ _ (congrArg (fun m => storeBytes 0 m e.1 [e.2]) h)
  rw [State.writeBack, State.writeBack, hu]
  exact fold _ _ _ hm

/-! ### Retained state restored -/

theorem State.dropArrivals_eq (s : State) (attempt : Nat) : ∃ b, s.dropArrivals attempt = { s with bar := b } := ⟨_, rfl⟩

/-- What restoring retained state leaves: memory as the undo log has it, no pending delta, and of the step's state only what the attempt made is gone. -/
theorem State.restoreRetained_eq (s : State) (attempt : Nat) : ∃ g c b e h k o, s.restoreRetained attempt = { s with
      mem := s.writeBack.mem, gc := g, ctr := c, bar := b, ex := e, conf := .reset, wd := none
      mir := { s.mir with held := h, acks := k, out := o }
      st := { s.st with undo := [], advances := [], calibNow := [], agreedNew := [], named := [] } } ∧ ∀ x ∈ h, x.pend = [] ∧ x.last = none := by
  obtain ⟨g, c, e⟩ := (State.coresOnly_iff _ _).mp (s.dropWork_coresOnly false)
  obtain ⟨m, e'⟩ := State.writeBack_eq (s.dropWork false)
  have hm : s.writeBack.mem = m := by
    rw [← State.writeBack_mem_congr (s := s) (t := s.dropWork false) (by rw [e]) (by rw [e]), e']
  have dropped : ∀ x ∈ s.mir.held.map (fun x : MirPart => { x with pend := [], last := none, acked := false }), x.pend = [] ∧ x.last = none := by
    intro x hx
    obtain ⟨y, -, rfl⟩ := List.mem_map.mp hx
    exact ⟨rfl, rfl⟩
  obtain ⟨b, e''⟩ := State.dropArrivals_eq (s.dropWork false).writeBack attempt
  have base : ∃ x h, ((s.dropWork false).writeBack.dropArrivals attempt).clearExchange.dropPending =
      { s with mem := m, gc := g, ctr := c, bar := b, ex := x, mir := { s.mir with held := h } } ∧ ∀ x ∈ h, x.pend = [] ∧ x.last = none := by
    rw [e'', e', e]
    exact ⟨_, _, rfl, dropped⟩
  obtain ⟨x, h, hb, hp⟩ := base
  have acked : ∀ q : Bool, ∃ k o, (if q then { s.mir with held := h, acks := [], out := [] } else { s.mir with held := h }) =
      { s.mir with held := h, acks := k, out := o } := fun q => by cases q <;> exact ⟨_, _, rfl⟩
  obtain ⟨k, o, hk⟩ := acked (s.st.run.elim false fun r => r.phase == .mirror || r.phase == .prepared)
  refine ⟨g, c, b, x, h, k, o, ?_, hp⟩
  rw [← hk, hm, State.restoreRetained, hb]

/-! ### What is posted and sent -/

theorem State.emits_of_goesOn {s t u : State} {m : Msg} (h : s.goesOn t) (k : t.emits u m) : s.emits u m := by
  obtain ⟨x, hx, he⟩ := k
  obtain ⟨-, -, l, hl, -⟩ := h
  refine ⟨x, ?_, he⟩
  rw [hl, List.length_append, ← List.drop_drop] at hx
  exact List.mem_of_mem_drop hx

/-- An event among held entries is written to its ring or stays held. -/
theorem HostSide.emit_tells (l : List HeldEntry) (h : HostSide) (c : Nat) (p : List Byte) (hm : HeldEntry.event c p ∈ l) :
    HeldEntry.event c p ∈ (h.emit l).held ∨ ∃ a seq log2, HostWrite.mem a (eventEntry c seq log2 p) ∈ (h.emit l).out := by
  induction l generalizing h with
  | nil => cases hm
  | cons x t ih =>
    cases x with
    | event c' p' =>
      unfold HostSide.emit
      split
      · rcases List.mem_cons.mp hm with heq | ht
        · cases heq
          exact .inr ⟨_, _, _, HostSide.emit_out t _ _ (List.mem_append_right _ List.mem_cons_self)⟩
        · exact ih _ ht
      · exact .inl hm
    | completion a d q =>
      have ht : HeldEntry.event c p ∈ t := by simpa using hm
      unfold HostSide.emit
      exact ih _ ht

theorem State.post_tells (s : State) (c : Nat) (p : List Byte) : (s.post c p).tells c p := by
  have hm : HeldEntry.event c p ∈ s.host.held ++ [.event c p] := List.mem_append_right _ (List.mem_singleton_self _)
  unfold State.post State.flush
  split
  · exact HostSide.emit_tells _ _ c p hm
  · exact .inl hm

theorem State.post_goesOn (s : State) (c : Nat) (p : List Byte) : s.goesOn (s.post c p) := by
  obtain ⟨h, e⟩ := s.post_eq c p
  refine ⟨fun n hn => ?_, fun a e' he => s.post_shows c p a e' he, [], by rw [e]; simp, by simp⟩
  rw [State.ring, State.post_rings]
  exact hn

/-- An abort taken from the inbox, counted, and told to the spare. -/
theorem State.abortTaken_eq (s : State) {m : Msg} (ht : m.typ = 8) :
    ∃ n c, ((s.took m).count cAborts 1).tellSpare m = { s with net := n, ctr := c } ∧ s.goesOn { s with net := n, ctr := c } := by
  obtain ⟨x, e⟩ := s.took_eq m
  have hg := State.goesOn_trans (State.goesOn_of_same (by rw [e]) (s.took_sent m))
    (State.tellSpare_copies ((s.took m).count cAborts 1) (m := m) (by rw [ht]; decide)).2.1
  have he : ∃ n c, ((s.took m).count cAborts 1).tellSpare m = { s with net := n, ctr := c } := by
    rw [e]
    unfold State.tellSpare
    split
    · obtain ⟨n, c, e'⟩ := State.send_eq (State.count { s with net := x } cAborts 1) { m with dst := (State.count { s with net := x } cAborts 1).spareRank }
      exact ⟨n, c, e'⟩
    · exact ⟨_, _, rfl⟩
  obtain ⟨n, c, he⟩ := he
  exact ⟨n, c, he, he ▸ hg⟩

/-- The answer to a control message. -/
theorem State.answerControl_spec (s : State) (m : Msg) : (∃ n c, s.answerControl m = { s with net := n, ctr := c }) ∧ s.goesOn (s.answerControl m) ∧
    (s.live = true → s.emits (s.answerControl m) (controlMsg m.src (field m.body 0 4) (field m.body 4 1) cAck s.rank 0 0)) :=
  ⟨s.send_eq _, s.send_goesOn (show 8 ≠ 5 by decide), s.send_emits _⟩

theorem State.control_iff {s : State} {code : Nat} {m : Msg} (h : s.control code m = true) : s.member = true ∧ m.typ = 8 := by
  simp only [State.control, Bool.and_eq_true, beq_iff_eq] at h
  exact ⟨h.1.1.1.1, h.1.1.1.2⟩

/-- A spare keeps what an ABORT means for the rank that it may take. -/
theorem State.spareAborts_spec {s : State} (hk : s.mach.rank = none) (step attempt cls cause reporter : Nat) :
    ∃ x l k, s.spareAborts step attempt cls cause reporter = { s with host := x, st := { s.st with lastAttempt := l, owedReplays := k } } ∧
      s.goesOn (s.spareAborts step attempt cls cause reporter) ∧ l = some (step, attempt) ∧ (s.st.lastAttempt ≠ some (step, attempt) →
        k = (if s.st.lastAttempt.elim false (fun x => x.1 == step) then s.st.owedReplays else 0) + 1) := by
  unfold State.spareAborts
  by_cases hl : s.st.lastAttempt = some (step, attempt)
  · rw [if_pos (.inr hl)]
    exact ⟨s.host, _, _, rfl, s.goesOn_refl, hl, fun h => absurd hl h⟩
  · rw [if_neg (by simp [hk, hl]), State.postRecovery]
    generalize hu : State.mk _ _ _ _ _ _ _ _ _ _ _ _ _ _ _ _ _ _ _ _ _ _ _ _ _ _ = u
    obtain ⟨x, ex⟩ := u.post_eq evRecovery (leBytes 4 step ++ leBytes 1 attempt ++ leBytes 1 cls ++ leBytes 1 cause ++ zeros 1 ++ leBytes 2 reporter)
    have hg := u.post_goesOn evRecovery (leBytes 4 step ++ leBytes 1 attempt ++ leBytes 1 cls ++ leBytes 1 cause ++ zeros 1 ++ leBytes 2 reporter)
    rw [ex] at hg ⊢
    subst hu
    exact ⟨x, _, _, rfl, State.goesOn_trans (State.goesOn_of_same rfl rfl) hg, rfl, fun _ => rfl⟩

/-! ### ABORT -/

section
variable {s : State} {m : Msg} (h : s.control cAbort m = true)
include h

theorem abort_full (hf : s.holdFull = true) (cls cause reporter : Nat) : abort m cls cause reporter s = s := by simp [abort, h, hf]

/-- ABORT of the attempt in progress. -/
theorem abort_current (hf : s.holdFull = false) {r : StepRun} (hr : s.st.run = some r) (hs : field m.body 0 4 = s.st.stepNo)
    (ha : field m.body 4 1 = r.attempt) (cls cause reporter : Nat) : ∃ t, exec (.abort m cls cause reporter) s = .next t ∧
      s.emits t (controlMsg m.src (field m.body 0 4) (field m.body 4 1) cAck s.rank 0 0) ∧ t.nor = s.nor ∧ t.st.stepNo = s.st.stepNo ∧
      t.st.wEpoch = s.st.wEpoch ∧ t.st.committed = s.st.committed ∧ t.mem = s.writeBack.mem ∧ t.st.undo = [] ∧
      (∀ x ∈ t.mir.held, x.pend = [] ∧ x.last = none) ∧
      t.tells evRecovery (leBytes 4 (field m.body 0 4) ++ leBytes 1 (field m.body 4 1) ++ leBytes 1 cls ++ leBytes 1 cause ++ zeros 1 ++ leBytes 2 reporter) ∧
      t.st.run = some { r with phase := .waitStart, attempt := (r.attempt + 1) % 256, replays := r.replays + 1, hop := 0, fault := none, prior := r.fault, rescaled := false } := by
  obtain ⟨hm, ht⟩ := State.control_iff h
  obtain ⟨n, c, e, hg⟩ := s.abortTaken_eq ht
  obtain ⟨g, k, b, x, hh, ka, o, ev, hp⟩ := State.restoreRetained_eq { s with net := n, ctr := c } r.attempt
  rw [State.writeBack_mem_congr (s := s) (t := { s with net := n, ctr := c }) rfl rfl] at ev
  generalize hv : State.restoreRetained { s with net := n, ctr := c } r.attempt = v at ev
  obtain ⟨y, ew⟩ := v.post_eq evRecovery (leBytes 4 s.st.stepNo ++ leBytes 1 r.attempt ++ leBytes 1 cls ++ leBytes 1 cause ++ zeros 1 ++ leBytes 2 reporter)
  have tells := v.post_tells evRecovery (leBytes 4 s.st.stepNo ++ leBytes 1 r.attempt ++ leBytes 1 cls ++ leBytes 1 cause ++ zeros 1 ++ leBytes 2 reporter)
  have hgw := State.goesOn_trans (State.goesOn_trans hg (State.goesOn_of_same (t := v) (by rw [ev]) (by rw [ev])))
    (v.post_goesOn evRecovery (leBytes 4 s.st.stepNo ++ leBytes 1 r.attempt ++ leBytes 1 cls ++ leBytes 1 cause ++ zeros 1 ++ leBytes 2 reporter))
  generalize hw : v.post evRecovery _ = w at ew tells hgw
  obtain ⟨⟨n', c', ex⟩, -, hem⟩ := w.answerControl_spec m
  have hx : abort m cls cause reporter s = ((w.answerControl m).nextTry r).tryBegin := by
    unfold abort
    rw [if_neg (by simp [h, hf]), e]
    simp only [hr, hs, ha, and_self, if_true]
    rw [hv, State.postRecovery, hw]
  obtain ⟨b', n'', c'', wd, q, et⟩ := State.tryBegin_eq ((w.answerControl m).nextTry r)
  have hgt : (w.answerControl m).goesOn ((w.answerControl m).nextTry r).tryBegin :=
    State.goesOn_trans (State.goesOn_of_same rfl rfl) (State.tryBegin_copies ((w.answerControl m).nextTry r)).2.1
  have hl : w.live = true := by
    rw [ew, ev]
    exact State.live_of_member hm
  have hrank : w.rank = s.rank := by
    rw [ew, ev]
    rfl
  refine ⟨_, congrArg Host.Outcome.next hx, State.emits_of_goesOn hgw (State.emits_goesOn (hrank ▸ hem hl) hgt), ?_⟩
  rw [hs, ha, et, ex]
  have told : ∀ z : State, z.host = w.host → z.tells evRecovery (leBytes 4 s.st.stepNo ++ leBytes 1 r.attempt ++ leBytes 1 cls ++ leBytes 1 cause ++ zeros 1 ++ leBytes 2 reporter) :=
    fun z hz => by rw [State.tells, hz]; exact tells
  have kept : w.nor = s.nor ∧ w.st.stepNo = s.st.stepNo ∧ w.st.wEpoch = s.st.wEpoch ∧ w.st.committed = s.st.committed ∧ w.mem = s.writeBack.mem ∧
      w.st.undo = [] ∧ w.mir.held = hh := by
    rw [ew, ev]
    exact ⟨rfl, rfl, rfl, rfl, rfl, rfl, rfl⟩
  obtain ⟨k1, k2, k3, k4, k5, k6, k7⟩ := kept
  exact ⟨k1, k2, k3, k4, k5, k6, fun z hz => hp z (k7 ▸ hz), told _ rfl, rfl⟩

/-- ABORT of another attempt, or without a step on a member, is only answered. -/
theorem abort_other (hf : s.holdFull = false) (ho : ∀ r, s.st.run = some r → field m.body 0 4 ≠ s.st.stepNo ∨ field m.body 4 1 ≠ r.attempt)
    (hr : s.st.run.isSome = true ∨ s.mach.rank.isSome = true) (cls cause reporter : Nat) : ∃ t, exec (.abort m cls cause reporter) s = .next t ∧
      s.emits t (controlMsg m.src (field m.body 0 4) (field m.body 4 1) cAck s.rank 0 0) ∧ s.netOnly t := by
  obtain ⟨hm, ht⟩ := State.control_iff h
  obtain ⟨n, c, e, hg⟩ := s.abortTaken_eq ht
  obtain ⟨⟨n', c', ex⟩, -, hem⟩ := State.answerControl_spec { s with net := n, ctr := c } m
  have hx : abort m cls cause reporter s = State.answerControl { s with net := n, ctr := c } m := by
    unfold abort
    rw [if_neg (by simp [h, hf]), e]
    cases hs : s.st.run with
    | none =>
      have hr' : s.mach.rank.isSome = true := by simpa [hs] using hr
      simp [hs, State.spareAborts, hr']
    | some r =>
      have := ho r hs
      simp only [hs]
      rw [if_neg (by tauto)]
  exact ⟨_, congrArg Host.Outcome.next hx, State.emits_of_goesOn hg (hem (State.live_of_member hm)), by rw [ex]; rfl⟩

/-- A spare without a step counts an ABORT once. -/
theorem abort_spare (hf : s.holdFull = false) (hr : s.st.run = none) (hk : s.mach.rank = none) (cls cause reporter : Nat) :
    ∃ t, exec (.abort m cls cause reporter) s = .next t ∧ s.emits t (controlMsg m.src (field m.body 0 4) (field m.body 4 1) cAck s.rank 0 0) ∧
      (∃ l k, t.st = { s.st with lastAttempt := l, owedReplays := k }) ∧ s.storesSame t ∧ t.st.lastAttempt = some (field m.body 0 4, field m.body 4 1) ∧
      (s.st.lastAttempt ≠ some (field m.body 0 4, field m.body 4 1) →
        t.st.owedReplays = (if s.st.lastAttempt.elim false (fun x => x.1 == field m.body 0 4) then s.st.owedReplays else 0) + 1) := by
  obtain ⟨hm, ht⟩ := State.control_iff h
  obtain ⟨n, c, e, hg⟩ := s.abortTaken_eq ht
  obtain ⟨x, l, k, es, hgs, hl, hk'⟩ := State.spareAborts_spec (s := { s with net := n, ctr := c }) hk (field m.body 0 4) (field m.body 4 1) cls cause reporter
  generalize hu : State.spareAborts { s with net := n, ctr := c } (field m.body 0 4) (field m.body 4 1) cls cause reporter = u at es hgs
  obtain ⟨⟨n', c', ex⟩, -, hem⟩ := u.answerControl_spec m
  have hx : abort m cls cause reporter s = u.answerControl m := by
    unfold abort
    rw [if_neg (by simp [h, hf]), e]
    simp only [hr, hu]
  have hlive : u.live = true := by
    rw [es]
    exact State.live_of_member hm
  have hrank : u.rank = s.rank := by
    rw [es]
    rfl
  refine ⟨_, congrArg Host.Outcome.next hx, State.emits_of_goesOn (State.goesOn_trans hg hgs) (hrank ▸ hem hlive), ?_⟩
  rw [ex, es]
  exact ⟨⟨l, k, rfl⟩, ⟨rfl, rfl, rfl, rfl, rfl⟩, hl, hk'⟩

end

/-! ### ABORT_FINAL -/

/-- Boundary actions keep the step. -/
theorem State.boundary_kept {s t : State} (h : s.boundary t) : t.nor = s.nor ∧ t.st.stepNo = s.st.stepNo ∧ t.st.wEpoch = s.st.wEpoch ∧
    t.st.waiting = s.st.waiting ∧ t.st.run = s.st.run := by
  rw [← h.1]
  exact ⟨rfl, rfl, rfl, rfl, rfl⟩

/-- A STEP that starts stores nothing. -/
theorem State.follows_kept {s t : State} (h : s.follows t) : t.nor = s.nor ∧ t.st.stepNo = s.st.stepNo ∧ t.st.wEpoch = s.st.wEpoch ∧
    t.mem = s.mem ∧ t.mir = s.mir := by
  rw [← h.1]
  exact ⟨rfl, rfl, rfl, rfl, rfl⟩

/-- A step that ends without an update leaves the boundary to go on. -/
theorem State.dropStep_spec (s : State) (r : StepRun) (last : Option (Nat × Nat)) (c : Cpl) :
    (s.dropStep r last c).nor = s.nor ∧ (s.dropStep r last c).st.stepNo = s.st.stepNo ∧ (s.dropStep r last c).st.wEpoch = s.st.wEpoch ∧
    s.goesOn (s.dropStep r last c) ∧ (s.st.waiting = [] → (s.dropStep r last c).st.run = none) ∧
    (s.st.acts = [] → (s.dropStep r last c).mem = s.mem ∧ (s.dropStep r last c).mir.held = s.mir.held) ∧
    ((s.ring r.ring).busy.isSome = true → s.ended r.ring c (s.dropStep r last c)) := by
  unfold State.dropStep
  dsimp only
  generalize hu : State.mk _ _ _ _ _ _ _ _ _ _ _ _ _ _ _ _ _ _ _ _ _ _ _ _ _ _ = u
  have hsame : u.nor = s.nor ∧ u.st.stepNo = s.st.stepNo ∧ u.st.wEpoch = s.st.wEpoch ∧ s.goesOn u ∧ u.st.waiting = s.st.waiting ∧ u.st.run = none ∧
      u.st.acts = s.st.acts ∧ u.mem = s.mem ∧ u.mir.held = s.mir.held ∧ u.ring r.ring = s.ring r.ring := by
    rw [← hu]
    exact ⟨rfl, rfl, rfl, State.goesOn_of_same rfl rfl, rfl, rfl, rfl, rfl, rfl, rfl⟩
  obtain ⟨h1, h2, h3, hg, h4, h5, h6, h7, h8, h9⟩ := hsame
  obtain ⟨x, y, ec⟩ := u.complete_eq r.ring c
  have hd := State.complete_ended (s := s) (t := u) (n := r.ring) (c := c) h9
  have hgc := u.complete_goesOn r.ring c
  generalize u.complete r.ring c = v at ec hd hgc
  have hb := v.applyIdle_boundary
  have hidle : v.st.acts = [] → v.applyIdle = v := fun h => by
    unfold State.applyIdle
    rw [h]
    split <;> rfl
  have hf := v.applyIdle.followOn_follows
  have kept : v.applyIdle.nor = s.nor ∧ v.applyIdle.st.stepNo = s.st.stepNo ∧ v.applyIdle.st.wEpoch = s.st.wEpoch ∧ v.applyIdle.st.waiting = s.st.waiting ∧
      v.applyIdle.st.run = none := by
    obtain ⟨e1, e2, e3, e4, e5⟩ := State.boundary_kept hb
    rw [e1, e2, e3, e4, e5, ec]
    exact ⟨h1, h2, h3, h4, h5⟩
  obtain ⟨k1, k2, k3, k4, k5⟩ := kept
  obtain ⟨f1, f2, f3, f4, f5⟩ := State.follows_kept hf
  refine ⟨f1.trans k1, f2.trans k2, f3.trans k3, State.goesOn_trans hg (State.goesOn_trans hgc (State.goesOn_trans hb.2 hf.2)), fun hw => ?_, fun ha => ?_,
    fun hs => State.ended_goesOn (hd hs) (State.goesOn_trans hb.2 hf.2)⟩
  · rw [State.followOn_nil (k4.trans hw), k5]
  · rw [f4, f5, hidle (by rw [ec]; exact h6.trans ha), ec]
    exact ⟨h7, h8⟩

/-- The completion of a STEP that an ABORT_FINAL of an attempt ends. -/
def abortedCpl (s : State) (r : StepRun) (attempt : Nat) : Cpl where
  status := (faultIn r attempt).getD .stepAborted
  info := if r.exec then 1 else r.epoch
  step := s.st.stepNo
  replays := r.replays
  detector := (faultIn r attempt).isSome

section
variable {s : State} {m : Msg} (h : s.control cAbortFinal m = true)
include h

/-- ABORT_FINAL of the attempt in progress, or of the one that an ABORT has just ended. -/
theorem abortFinal_named {r : StepRun} (hr : s.st.run = some r) (hs : field m.body 0 4 = s.st.stepNo) (hn : finalNames r (field m.body 4 1) = true) :
    ∃ t, exec (.abortFinal m) s = .next t ∧ s.emits t (controlMsg m.src (field m.body 0 4) (field m.body 4 1) cAck s.rank 0 0) ∧ t.nor = s.nor ∧
      t.st.stepNo = s.st.stepNo ∧ t.st.wEpoch = s.st.wEpoch ∧ (s.st.waiting = [] → t.st.run = none) ∧
      (s.st.acts = [] → t.mem = s.writeBack.mem ∧ ∀ x ∈ t.mir.held, x.pend = [] ∧ x.last = none) ∧
      ((s.ring r.ring).busy.isSome = true → s.ended r.ring (abortedCpl s r (field m.body 4 1)) t) := by
  obtain ⟨hm, ht⟩ := State.control_iff h
  obtain ⟨n, c, e, hg⟩ := s.abortTaken_eq ht
  obtain ⟨g, k, b, x, hh, ka, o, ev, hp⟩ := State.restoreRetained_eq { s with net := n, ctr := c } r.attempt
  rw [State.writeBack_mem_congr (s := s) (t := { s with net := n, ctr := c }) rfl rfl] at ev
  generalize hv : State.restoreRetained { s with net := n, ctr := c } r.attempt = v at ev
  obtain ⟨⟨n', c', ex⟩, hgx, hem⟩ := v.answerControl_spec m
  have hgv := State.goesOn_trans hg (State.goesOn_of_same (t := v) (by rw [ev]) (by rw [ev]))
  have hx : abortFinal m s = (v.answerControl m).dropStep r (some (s.st.stepNo, field m.body 4 1)) (abortedCpl s r (field m.body 4 1)) := by
    unfold abortFinal
    rw [if_neg (by simp [h]), e]
    simp only [hr, hs, hn, decide_true, Bool.and_self, if_true, hv]
    rfl
  obtain ⟨d1, d2, d3, hd, drun, dmem, dended⟩ := State.dropStep_spec (v.answerControl m) r (some (s.st.stepNo, field m.body 4 1)) (abortedCpl s r (field m.body 4 1))
  have hl : v.live = true ∧ v.rank = s.rank := by
    rw [ev]
    exact ⟨State.live_of_member hm, rfl⟩
  have kept : (v.answerControl m).nor = s.nor ∧ (v.answerControl m).st.stepNo = s.st.stepNo ∧ (v.answerControl m).st.wEpoch = s.st.wEpoch ∧
      (v.answerControl m).st.waiting = s.st.waiting ∧ (v.answerControl m).st.acts = s.st.acts ∧ (v.answerControl m).mem = s.writeBack.mem ∧
      (v.answerControl m).mir.held = hh ∧ (v.answerControl m).ring r.ring = s.ring r.ring := by
    rw [ex, ev]
    exact ⟨rfl, rfl, rfl, rfl, rfl, rfl, rfl, rfl⟩
  obtain ⟨k1, k2, k3, k4, k5, k6, k7, k8⟩ := kept
  refine ⟨_, congrArg Host.Outcome.next hx, State.emits_of_goesOn hgv (State.emits_goesOn (hl.2 ▸ hem hl.1) hd), d1.trans k1, d2.trans k2, d3.trans k3,
    fun hw => drun (k4.trans hw), fun ha => ?_, fun hb => State.ended_of_ring k8 (dended (k8 ▸ hb))⟩
  obtain ⟨hmem, hheld⟩ := dmem (k5.trans ha)
  exact ⟨hmem.trans k6, fun y hy => hp y (by rwa [hheld, k7] at hy)⟩

/-- ABORT_FINAL of another attempt, or without a step on a member, is only answered. -/
theorem abortFinal_other (ho : ∀ r, s.st.run = some r → field m.body 0 4 ≠ s.st.stepNo ∨ finalNames r (field m.body 4 1) = false)
    (hr : s.st.run.isSome = true ∨ s.mach.rank.isSome = true) : ∃ t, exec (.abortFinal m) s = .next t ∧
      s.emits t (controlMsg m.src (field m.body 0 4) (field m.body 4 1) cAck s.rank 0 0) ∧ s.netOnly t := by
  obtain ⟨hm, ht⟩ := State.control_iff h
  obtain ⟨n, c, e, hg⟩ := s.abortTaken_eq ht
  obtain ⟨⟨n', c', ex⟩, -, hem⟩ := State.answerControl_spec { s with net := n, ctr := c } m
  have hx : abortFinal m s = State.answerControl { s with net := n, ctr := c } m := by
    unfold abortFinal
    rw [if_neg (by simp [h]), e]
    cases hs : s.st.run with
    | none =>
      have hr' : s.mach.rank.isSome = true := by simpa [hs] using hr
      simp [hs, State.spareDrops, hr']
    | some r =>
      have := ho r hs
      simp only [hs]
      rw [if_neg (by rw [Bool.and_eq_true, decide_eq_true_iff, Bool.eq_false_iff] at *; tauto)]
  exact ⟨_, congrArg Host.Outcome.next hx, State.emits_of_goesOn hg (hem (State.live_of_member hm)), by rw [ex]; rfl⟩

/-- A spare without a step owes no replay after ABORT_FINAL. -/
theorem abortFinal_spare (hr : s.st.run = none) (hk : s.mach.rank = none) : ∃ t, exec (.abortFinal m) s = .next t ∧
      s.emits t (controlMsg m.src (field m.body 0 4) (field m.body 4 1) cAck s.rank 0 0) ∧ s.storesSame t ∧
      t.st = { s.st with lastAttempt := some (field m.body 0 4, field m.body 4 1), owedReplays := 0 } := by
  obtain ⟨hm, ht⟩ := State.control_iff h
  obtain ⟨n, c, e, hg⟩ := s.abortTaken_eq ht
  obtain ⟨⟨n', c', ex⟩, -, hem⟩ := State.answerControl_spec
    { s with net := n, ctr := c, st := { s.st with lastAttempt := some (field m.body 0 4, field m.body 4 1), owedReplays := 0 } } m
  have hx : abortFinal m s = State.answerControl
      { s with net := n, ctr := c, st := { s.st with lastAttempt := some (field m.body 0 4, field m.body 4 1), owedReplays := 0 } } m := by
    unfold abortFinal
    rw [if_neg (by simp [h]), e]
    simp [hr, State.spareDrops, hk]
  refine ⟨_, congrArg Host.Outcome.next hx, State.emits_of_goesOn (State.goesOn_trans hg (State.goesOn_of_same rfl rfl)) (hem (State.live_of_member hm)), ?_⟩
  rw [ex]
  exact ⟨⟨rfl, rfl, rfl, rfl, rfl⟩, rfl⟩

end

/-! ### The obligation -/

theorem State.netOnly_kept {s t : State} (h : s.netOnly t) : t.nor = s.nor ∧ t.st = s.st := by
  rw [← (h : { t with net := s.net, ctr := s.ctr } = s)]
  exact ⟨rfl, rfl⟩

/-- Settles O38: every abort is answered; one that names the attempt in progress restores the bytes of the undo log first, whose entries are the bytes as
they were before Commit first stored to them. -/
theorem abortsReplay : Obligations.AbortsReplay := by
  unfold Obligations.AbortsReplay
  refine ⟨fun s m cls cause reporter step attempt hs ha => ⟨fun h => ⟨fun hf => congrArg Host.Outcome.next (abort_full h hf _ _ _), fun hf => ?_⟩, fun h => ?_⟩, ?_⟩
  · subst hs ha
    by_cases hn : ∃ r, s.st.run = some r ∧ field m.body 0 4 = s.st.stepNo ∧ field m.body 4 1 = r.attempt
    · obtain ⟨r, hr, hs, ha⟩ := hn
      obtain ⟨t, ht, h1, h2, h3, h4, h5, h6, h7, h8, h9, h10⟩ := abort_current h hf hr hs ha cls cause reporter
      refine ⟨t, ht, h1, h2, h3, h4, h5, fun r' hr' _ _ => ?_, fun ho => ?_, fun hr' => ?_⟩
      · cases hr.symm.trans hr'
        exact ⟨h6, h7, h8, h9, h10⟩
      · exact absurd (ho r hr) (by tauto)
      · rw [hr] at hr'
        cases hr'
    · have ho : ∀ r, s.st.run = some r → field m.body 0 4 ≠ s.st.stepNo ∨ field m.body 4 1 ≠ r.attempt := fun r hr => by
        by_contra hc
        exact hn ⟨r, hr, by tauto⟩
      by_cases hk : s.st.run.isSome = true ∨ s.mach.rank.isSome = true
      · obtain ⟨t, ht, h1, h2⟩ := abort_other h hf ho hk cls cause reporter
        obtain ⟨k1, k2⟩ := State.netOnly_kept h2
        refine ⟨t, ht, h1, k1, by rw [k2], by rw [k2], by rw [k2], fun r hr hs ha => absurd ⟨r, hr, hs, ha⟩ hn, fun _ _ => h2, fun h5 h6 => ?_⟩
        simp [h5, h6] at hk
      · obtain ⟨hr, hk'⟩ : s.st.run = none ∧ s.mach.rank = none := by simpa using hk
        obtain ⟨t, ht, h1, ⟨l, k, h2⟩, h3, h4, h5⟩ := abort_spare h hf hr hk' cls cause reporter
        refine ⟨t, ht, h1, h3.2.1, by rw [h2], by rw [h2], by rw [h2], fun r hr' hs ha => absurd ⟨r, hr', hs, ha⟩ hn, fun _ h6 => absurd h6 hk,
          fun _ _ => ⟨h3, by rw [h2]; exact hr, h4, h5⟩⟩
  · subst hs ha
    by_cases hn : ∃ r, s.st.run = some r ∧ field m.body 0 4 = s.st.stepNo ∧ finalNames r (field m.body 4 1) = true
    · obtain ⟨r, hr, hs, ha⟩ := hn
      obtain ⟨t, ht, h1, h2, h3, h4, h5, h6, h7⟩ := abortFinal_named h hr hs ha
      refine ⟨t, ht, h1, h2, h3, h4, fun r' hr' _ _ hb => ?_, fun ho => ?_, fun hr' => ?_⟩
      · cases hr.symm.trans hr'
        exact ⟨h5, h6, h7 hb⟩
      · exact absurd (ho r hr) (by rw [Bool.eq_false_iff]; tauto)
      · rw [hr] at hr'
        cases hr'
    · have ho : ∀ r, s.st.run = some r → field m.body 0 4 ≠ s.st.stepNo ∨ finalNames r (field m.body 4 1) = false := fun r hr => by
        by_contra hc
        rw [Bool.eq_false_iff] at hc
        exact hn ⟨r, hr, by tauto⟩
      by_cases hk : s.st.run.isSome = true ∨ s.mach.rank.isSome = true
      · obtain ⟨t, ht, h1, h2⟩ := abortFinal_other h ho hk
        obtain ⟨k1, k2⟩ := State.netOnly_kept h2
        refine ⟨t, ht, h1, k1, by rw [k2], by rw [k2], fun r hr hs ha => absurd ⟨r, hr, hs, ha⟩ hn, fun _ _ => h2, fun h5 h6 => ?_⟩
        simp [h5, h6] at hk
      · obtain ⟨hr, hk'⟩ : s.st.run = none ∧ s.mach.rank = none := by simpa using hk
        obtain ⟨t, ht, h1, h2, h3⟩ := abortFinal_spare h hr hk'
        refine ⟨t, ht, h1, h2.2.1, by rw [h3], by rw [h3], fun r hr' hs ha => absurd ⟨r, hr', hs, ha⟩ hn, fun _ h6 => absurd h6 hk,
          fun _ _ => ⟨h2, by rw [h3]; exact hr, by rw [h3], by rw [h3]⟩⟩
  · intro s writes hu a
    have logged : ∀ (l : List (Nat × List Byte)) (t : State), s.undoes t → s.undoes (l.foldl (fun s w => s.writeUndo w.1 w.2) t) := fun l => by
      induction l with
      | nil => exact fun t h => h
      | cons w l ih => exact fun t h => ih _ (State.writeUndo_undoes h w.1 w.2)
    exact State.undoes_writeBack (logged writes s ⟨fun e he => absurd he (by simp [hu]), fun _ _ => rfl⟩) a

end Sys2Proof.Machine
end

section
/-! SUPPORT. What the end of a phase and the ends of EVALs leave alone (01 R12, R18, R19, R33, 12 R318). -/

namespace Sys2Proof.Machine

open Sys2Proof

/-! ### Barriers and PREPARED -/

theorem State.barrier_setBarrier (s : State) {kind : Nat} (h : kind < 6) (b : Barrier) : (s.setBarrier kind b).barrier kind = b := by
  simp [State.barrier, State.setBarrier, h]

/-- Gathering at a barrier leaves the module's own arrival. -/
theorem State.gatherBarrier_own (s : State) {kind : Nat} (h : kind < 6) : ((s.gatherBarrier kind).barrier kind).own = (s.barrier kind).own := by
  have sent : ∀ m, (((s.setBarrier kind { s.barrier kind with up := true }).send m).barrier kind).own = (s.barrier kind).own := fun m => by
    obtain ⟨n, c, e⟩ := State.send_eq (s.setBarrier kind { s.barrier kind with up := true }) m
    rw [e]
    show ((s.setBarrier kind _).barrier kind).own = _
    rw [State.barrier_setBarrier _ h]
  unfold State.gatherBarrier
  dsimp only
  split
  · rfl
  · split
    · split
      · exact sent _
      · exact sent _
    · rfl

/-- A module that arrives at a barrier stands there with its step number, ATTEMPT and VALUE. -/
theorem State.arrive_own (s : State) {kind : Nat} (h : kind < 6) (step attempt value : Nat) :
    ((s.arrive kind step attempt value).barrier kind).own = some (step, attempt, value) := by
  rw [State.arrive, State.gatherBarrier_own _ h, State.barrier_setBarrier _ h]

theorem State.arrive_st (s : State) (kind step attempt value : Nat) : (s.arrive kind step attempt value).st = s.st := by
  obtain ⟨b, n, c, e⟩ := s.arrive_eq kind step attempt value
  rw [e]

/-- On the way from `s` to `t` the step and the barriers have stayed, or a step in Mirror has become PREPARED. -/
def State.runMoves (s t : State) : Prop :=
  (t.st.run = s.st.run ∧ t.bar = s.bar) ∨ ∃ r, s.st.run = some r ∧ r.phase = .mirror ∧ t.st.run = some { r with phase := .prepared }

theorem State.runMoves_trans {s t u : State} (h : s.runMoves t) (k : t.runMoves u) : s.runMoves u := by
  rcases h with ⟨hr, hb⟩ | ⟨r, hr, hp, ht⟩
  · rcases k with ⟨kr, kb⟩ | ⟨r, kr, kp, ku⟩
    · exact .inl ⟨kr.trans hr, kb.trans hb⟩
    · exact .inr ⟨r, hr ▸ kr, kp, ku⟩
  · rcases k with ⟨kr, -⟩ | ⟨r', kr, kp, -⟩
    · exact .inr ⟨r, hr, hp, kr.trans ht⟩
    · cases ht.symm.trans kr
      cases kp

/-- A step that is not in Mirror stays. -/
theorem State.runMoves_stays {s t : State} {r : StepRun} (h : s.runMoves t) (hr : s.st.run = some r) (hp : r.phase ≠ .mirror) :
    t.st.run = some r ∧ t.bar = s.bar := by
  rcases h with ⟨h, hb⟩ | ⟨r', h, hp', -⟩
  · exact ⟨h.trans hr, hb⟩
  · cases hr.symm.trans h
    exact absurd hp' hp

/-- PREPARED when nothing holds it back. -/
theorem State.tryPrepared_ready {s : State} {r : StepRun} (hr : s.st.run = some r) (hp : r.phase = .mirror) (ha : s.allAcked = true)
    (hl : s.st.retPending = []) (he : s.st.evals = []) (hh : s.st.hashes = []) :
    s.tryPrepared.st.run = some { r with phase := .prepared } ∧ (s.tryPrepared.barrier 2).own = some (s.st.stepNo, r.attempt, 0) := by
  have hc : (r.phase = .mirror && s.mir.acks.all (·.acked) && s.st.retPending.isEmpty && s.st.evals.isEmpty &&
      s.st.hashes.all (fun h => !h.asked || h.told)) = true := by
    rw [State.allAcked] at ha
    simp [hp, ha, hl, he, hh]
  unfold State.tryPrepared
  simp only [hr, hc, if_true]
  exact ⟨by rw [State.arrive_st], State.arrive_own _ (by decide) _ _ _⟩

/-- Deltas that wait to be acknowledged, or a record that is due, hold PREPARED back. -/
theorem State.tryPrepared_held {s : State} (h : s.allAcked = false ∨ s.st.retPending ≠ []) : s.tryPrepared = s := by
  unfold State.tryPrepared
  split
  · rfl
  · refine if_neg ?_
    rw [State.allAcked] at h
    rcases h with h | h <;> simp [h]

/-- Trying for PREPARED changes the barriers, the network side, the counters, the watchdog and the step's phase only. -/
theorem State.tryPrepared_eq (s : State) : ∃ b n c w x, s.tryPrepared = { s with bar := b, net := n, ctr := c, wd := w, st := { s.st with run := x } } := by
  unfold State.tryPrepared
  split
  · exact ⟨s.bar, s.net, s.ctr, s.wd, s.st.run, rfl⟩
  · next r _ =>
    split
    · obtain ⟨b, n, c, e⟩ := State.arrive_eq { s with st := { s.st with run := some { r with phase := .prepared } }, wd := some .commitBarrier }
        bCommit s.st.stepNo r.attempt 0
      exact ⟨b, n, c, _, _, e⟩
    · exact ⟨s.bar, s.net, s.ctr, s.wd, s.st.run, rfl⟩

theorem State.tryPrepared_goesOn (s : State) : s.goesOn s.tryPrepared := by
  unfold State.tryPrepared
  split
  · exact s.goesOn_refl
  · split
    · refine State.goesOn_trans ?_ (State.arrive_copies _ _ _ _ _).2.1
      exact State.goesOn_of_same rfl rfl
    · exact s.goesOn_refl

theorem State.tryPrepared_moves (s : State) : s.runMoves s.tryPrepared := by
  unfold State.tryPrepared
  split
  · exact .inl ⟨rfl, rfl⟩
  · next r hr =>
    split
    · next h =>
      have hp : r.phase = .mirror := by
        simp only [Bool.and_eq_true, decide_eq_true_eq] at h
        exact h.1.1.1.1
      exact .inr ⟨r, hr, hp, by rw [State.arrive_st]⟩
    · exact .inl ⟨rfl, rfl⟩

/-! ### The ends of EVALs, and MODEL_HASH -/

theorem State.sendAll_moves (s : State) (l : List Nat) (m : Nat → Msg) : s.runMoves (s.sendAll l m) := by
  obtain ⟨n, c, e⟩ := s.sendAll_eq l m
  exact .inl (by rw [e]; exact ⟨rfl, rfl⟩)

theorem State.complete_moves (s : State) (n : Nat) (c : Cpl) : s.runMoves (s.complete n c) := by
  obtain ⟨h, m, e⟩ := s.complete_eq n c
  exact .inl (by rw [e]; exact ⟨rfl, rfl⟩)

theorem State.coresOnly_moves {s t : State} (h : s.coresOnly t) : s.runMoves t := by
  obtain ⟨g, c, rfl⟩ := (State.coresOnly_iff s t).mp h
  exact .inl ⟨rfl, rfl⟩

theorem State.startEval_moves (s : State) : s.runMoves s.startEval := by
  obtain ⟨m, g, c, l, e⟩ := s.startEval_eq
  exact .inl (by rw [e]; exact ⟨rfl, rfl⟩)

/-- An EVAL as it is before its end completes: its work is off the cores, and it pins no step. -/
def State.evalDropped (s : State) (ring : Nat) : State :=
  let s := if (s.st.evals.head?.map (·.ring)) = some ring then s.dropWork true else s
  { s with st := { s.st with evals := s.st.evals.filter fun e => e.ring != ring } }

theorem State.endEval_eq (s : State) (ring : Nat) (c : Cpl) : s.endEval ring c = (((s.evalDropped ring).complete ring c).startEval).tryPrepared := rfl

theorem State.evalDropped_eq (s : State) (ring : Nat) : ∃ g c, s.evalDropped ring =
    { s with gc := g, ctr := c, st := { s.st with evals := s.st.evals.filter fun e => e.ring != ring } } := by
  unfold State.evalDropped
  dsimp only
  split
  · obtain ⟨g, c, e⟩ := (State.coresOnly_iff _ _).mp (s.dropWork_coresOnly true)
    exact ⟨g, c, by rw [e]⟩
  · exact ⟨s.gc, s.ctr, rfl⟩

theorem State.endEval_moves (s : State) (ring : Nat) (c : Cpl) : s.runMoves (s.endEval ring c) := by
  rw [State.endEval_eq]
  refine State.runMoves_trans ?_ (State.tryPrepared_moves _)
  refine State.runMoves_trans ?_ (State.startEval_moves _)
  refine State.runMoves_trans ?_ (State.complete_moves _ _ _)
  obtain ⟨g, k, e⟩ := s.evalDropped_eq ring
  exact .inl (by rw [e]; exact ⟨rfl, rfl⟩)

theorem State.raiseConf_moves (s : State) (f : AFlags) : s.runMoves (s.raiseConf f) := by
  have flag : ∀ (t : State) (p id : Nat) (a b : Bool), s.runMoves t → s.runMoves (t.countFlag p id a b) := fun t p id a b h => by
    unfold State.countFlag
    split
    · exact State.runMoves_trans h (.inl ⟨rfl, rfl⟩)
    · exact h
  exact flag _ _ _ _ _ (flag _ _ _ _ _ (flag _ _ _ _ _ (flag _ _ _ _ _ (.inl ⟨rfl, rfl⟩))))

theorem State.putBuffer_moves (s : State) (a : Nat) (b : List Byte) : s.runMoves (s.putBuffer a b) := by
  unfold State.putBuffer
  split <;> exact .inl ⟨rfl, rfl⟩

/-- A buffer that takes a result has it. -/
theorem State.writeBuffer_some {s t : State} {a : Nat} {b : List Byte} (h : s.writeBuffer a b = some t) : t = s.putBuffer a b := by
  unfold State.writeBuffer at h
  split at h
  · exact (Option.some.inj h).symm
  · cases h

theorem State.endEvidence_moves (s : State) (e : EvalRun) (d : Decl) (p : Placement) (hash : W256) (desc : List Byte) :
    s.runMoves (s.endEvidence e d p hash desc) := by
  unfold State.endEvidence
  split
  · exact s.endEval_moves _ _
  · next body f _ =>
    dsimp only
    split
    · exact s.endEval_moves _ _
    · next t ht =>
      rw [State.writeBuffer_some ht]
      exact State.runMoves_trans (s.raiseConf_moves f) (State.runMoves_trans (State.putBuffer_moves _ _ _) (State.endEval_moves _ _ _))

theorem State.endScores_moves (s : State) (e : EvalRun) (d : Decl) (p : Placement) (desc : List Byte) : s.runMoves (s.endScores e d p desc) := by
  unfold State.endScores
  split
  · exact s.endEval_moves _ _
  · next t ht =>
    rw [State.writeBuffer_some ht]
    exact State.runMoves_trans (State.putBuffer_moves _ _ _) (State.endEval_moves _ _ _)

theorem State.tryHash_moves (s : State) (c : Nat) : s.runMoves (s.tryHash c) := by
  unfold State.tryHash
  dsimp only
  split <;> exact .inl ⟨rfl, rfl⟩

theorem State.tryDigest_moves (s : State) (c : Nat) : s.runMoves (s.tryDigest c) := by
  unfold State.tryDigest
  dsimp only
  split
  · split
    · exact .inl ⟨rfl, rfl⟩
    · refine State.runMoves_trans ?_ (State.tryPrepared_moves _)
      refine State.runMoves_trans ?_ (State.tryHash_moves _ c)
      exact State.runMoves_trans (.inl ⟨rfl, rfl⟩) (State.sendAll_moves _ _ _)
  · exact .inl ⟨rfl, rfl⟩

theorem State.sendHome_moves (s : State) (c : Nat) (only : Option Nat) : s.runMoves (s.sendHome c only) := by
  refine List.foldlRecOn (motive := s.runMoves) _ _ (.inl ⟨rfl, rfl⟩) fun t ht e _ => ?_
  dsimp only
  split
  · split
    · refine State.runMoves_trans ht ?_
      generalize hashMsg _ _ _ _ = m
      obtain ⟨n, k, e⟩ := t.send_eq m
      exact .inl (by rw [e]; exact ⟨rfl, rfl⟩)
    · exact ht
  · exact ht

theorem State.askHash_moves (s : State) (c : Nat) : s.runMoves (s.askHash c) := by
  unfold State.askHash
  split
  · exact .inl ⟨rfl, rfl⟩
  · refine State.runMoves_trans (s.sendAll_moves s.others fun o => hashMsg o c 4 []) ?_
    unfold State.startHash
    dsimp only
    split
    · exact .inl ⟨rfl, rfl⟩
    · refine State.runMoves_trans ?_ (State.tryDigest_moves _ c)
      exact State.runMoves_trans (.inl ⟨rfl, rfl⟩) (State.sendHome_moves _ c none)

/-- The work of the EVAL on the cores leaves the step, but that one in Mirror may become PREPARED. -/
theorem State.evalPhaseEnd_moves (s : State) : s.runMoves s.evalPhaseEnd := by
  unfold State.evalPhaseEnd
  split
  · next e es p _ _ =>
    split
    · split <;> exact .inl ⟨rfl, rfl⟩
    · split
      · exact .inl ⟨rfl, rfl⟩
      · split
        · exact State.runMoves_trans (t := (s.setEval { e with attribution := true }).startGradient p) (.inl ⟨rfl, rfl⟩)
            (State.coresOnly_moves (State.startTasks_coresOnly _ _ _))
        · split
          · exact .inl ⟨rfl, rfl⟩
          · split
            · dsimp only
              split
              · split
                · exact State.runMoves_trans (s.askHash_moves _) (State.endEvidence_moves _ _ _ _ _ _)
                · exact s.askHash_moves _
              · exact s.askHash_moves _
            · exact s.endScores_moves _ _ _ _
  · exact .inl ⟨rfl, rfl⟩

/-- Without an EVAL there is no such work. -/
theorem State.evalPhaseEnd_nil {s : State} (h : s.st.evals = []) : s.evalPhaseEnd = s := by
  simp [State.evalPhaseEnd, h]

/-! ### What has been written to the host stays written -/

section
variable {w : HostWrite}

theorem State.post_out {s : State} (c : Nat) (p : List Byte) (h : w ∈ s.host.out) : w ∈ (s.post c p).host.out := by
  unfold State.post State.flush
  split
  · exact HostSide.emit_out _ _ w h
  · exact h

theorem State.settle_out {s : State} (h : w ∈ s.host.out) : w ∈ s.settle.host.out := by
  unfold State.settle
  split
  · unfold State.enter
    split
    · exact h
    · exact State.post_out _ _ h
  · exact h

theorem State.loadRing_out {s : State} (n : Nat) (go : Bool) (e : List Byte) (h : w ∈ s.host.out) : w ∈ (s.loadRing n go e).host.out := by
  unfold State.loadRing
  dsimp only
  split
  · split
    · exact h
    · exact State.post_out _ _ h
  · exact h

theorem State.complete_out {s : State} (n : Nat) (c : Cpl) (h : w ∈ s.host.out) : w ∈ (s.complete n c).host.out := by
  have flushed : ∀ x : State, x.host.out = s.host.out → w ∈ x.flush.host.out := fun x hx => by
    unfold State.flush
    split
    · exact HostSide.emit_out _ _ w (hx ▸ h)
    · exact hx ▸ h
  unfold State.complete
  dsimp only
  split
  · exact h
  · apply State.settle_out
    have loaded : ∀ x : State, w ∈ x.host.out → w ∈ (match (s.ring n).again with
        | some e => x.loadRing n (s.ring n).go e
        | none => x).host.out := fun x hx => by
      split
      · exact State.loadRing_out _ _ _ hx
      · exact hx
    apply loaded
    split
    · exact State.post_out _ _ (flushed _ rfl)
    · exact flushed _ rfl

end

/-! ### The end of Reduce -/

/-- All is reduced when every slice and every trained table that has rows here is. -/
theorem State.reducedAll_eq (s : State) : s.reducedAll = s.allReduced := by
  have hf : ∀ l : List SlicePlace, ((l.filter fun x => s.mach.rank == some x.owner).all fun x => s.conf.reduced.contains (kSlice, x.id)) =
      l.all fun x => s.mach.rank != some x.owner || s.conf.reduced.contains (kSlice, x.id) := fun l => by
    rw [List.all_filter]
    rfl
  rw [State.reducedAll, State.allReduced, hf]

/-- While something is not reduced, or a task of Reduce goes on, Reduce stays. -/
theorem State.reduceCheck_waits {s : State} {r : StepRun} (hr : s.st.run = some r)
    (h : r.fault ≠ none ∨ s.reducedAll = false ∨ s.classIdle false = false) : ∃ w, s.reduceCheck = { s with wd := w } := by
  unfold State.reduceCheck
  simp only [hr]
  split
  · next hc =>
    obtain ⟨-, hf, ha⟩ := hc
    rcases h with h | h | h
    · exact absurd hf h
    · exact absurd ha (by rw [h]; decide)
    · rw [if_neg (by rw [h]; decide)]
      exact ⟨_, rfl⟩
  · exact ⟨s.wd, rfl⟩

/-- With all reduced and every task ended the module arrives at the finite AND. -/
theorem State.reduceCheck_arrives {s : State} {r : StepRun} (hr : s.st.run = some r) (hp : r.phase = .reduce) (hf : r.fault = none)
    (ha : s.reducedAll = true) (hi : s.classIdle false = true) :
    s.reduceCheck.st.run = some { r with phase := .finite } ∧ (s.reduceCheck.barrier 1).own = some (s.st.stepNo, r.attempt, s.conf.finite.toNat) := by
  unfold State.reduceCheck
  simp only [hr, hp, hf, ha, hi, and_self, if_true]
  exact ⟨by rw [State.arrive_st], State.arrive_own _ (by decide) _ _ _⟩

theorem State.sendMsgs_eq (s : State) (l : List Msg) : ∃ n c, s.sendMsgs l = { s with net := n, ctr := c } :=
  List.foldlRecOn (motive := fun t : State => ∃ n c, t = { s with net := n, ctr := c }) l _ ⟨s.net, s.ctr, rfl⟩ fun t ⟨n, c, ht⟩ m _ => by
    obtain ⟨n', c', e⟩ := t.send_eq m
    rw [e, ht]
    exact ⟨_, _, rfl⟩

theorem State.keepSent_eq (s : State) : ∃ m, s.keepSent = { s with mem := m } := by
  have put : ∀ o : Option Program, ∃ m,
      (o.elim s fun p => s.write p.place.sent.base ((s.conf.sent.flatMap (·.body)).take p.place.sent.len)) = { s with mem := m } := fun o => by
    cases o <;> exact ⟨_, rfl⟩
  exact put s.prog

/-- Contributions sent are kept, and counted. -/
theorem State.sendContributions_eq {s : State} {l : List Msg} (h : s.contributions = some l) :
    ∃ m n c, s.sendContributions = { s with mem := m, net := n, ctr := c, conf := { s.conf with sent := l } } := by
  unfold State.sendContributions
  simp only [h]
  generalize hu : State.keepSent _ = u
  obtain ⟨m, e⟩ := State.keepSent_eq { s.count (cQuarry (quarryEngine 0) 4) (s.ex.scatter.filter fun c => c.owner != s.rank).length with
    conf := { s.conf with sent := l } }
  have e := hu.symm.trans e
  obtain ⟨n, c, e'⟩ := u.sendMsgs_eq l
  rw [e', e]
  exact ⟨m, n, c, rfl⟩

/-! ### Streaming a commit -/

theorem State.writeUndo_eq (s : State) (a : Nat) (b : List Byte) : ∃ m u, s.writeUndo a b = { s with mem := m, st := { s.st with undo := u } } := by
  induction b generalizing s a with
  | nil => exact ⟨s.mem, s.st.undo, rfl⟩
  | cons x t ih =>
    obtain ⟨m, u, e⟩ := ih _ _
    exact ⟨m, u, e⟩

theorem State.sendPart_eq (s : State) (opc part : Nat) : ∃ n c, s.sendPart opc part = { s with net := n, ctr := c } := by
  unfold State.sendPart
  split
  · exact ⟨s.net, s.ctr, rfl⟩
  · obtain ⟨n, c, e⟩ := State.sendMsgs_eq (s.count cMirrorBytes (runBytesTotal (runsIn part s.mir.out)))
      (partMsgs opc s.st.stepNo s.attempt part s.rank _ (runsIn part s.mir.out))
    exact ⟨n, c, e⟩

/-- Runs streamed: an acknowledgement is due of every holder. -/
theorem State.stream_eq (s : State) (opc : Nat) (runs : List (Nat × List Byte)) : ∃ n c k,
    s.stream opc runs = { s with net := n, ctr := c, mir := { s.mir with out := runs, acks := k } } ∧
      (s.holders s.rank = [] → k = []) ∧ (s.holders s.rank ≠ [] → k.all (·.acked) = false) := by
  have sent : ∀ (l : List Nat) (t : State), ∃ n c, l.foldl (fun t p => t.sendPart opc p) t = { t with net := n, ctr := c } := fun l t =>
    List.foldlRecOn (motive := fun u : State => ∃ n c, u = { t with net := n, ctr := c }) l _ ⟨t.net, t.ctr, rfl⟩ fun u ⟨n, c, hu⟩ p _ => by
      obtain ⟨n', c', e⟩ := u.sendPart_eq opc p
      rw [e, hu]
      exact ⟨_, _, rfl⟩
  unfold State.stream
  dsimp only
  obtain ⟨n, c, e⟩ := sent _ _
  refine ⟨n, c, _, e, fun h => by simp [h], fun h => ?_⟩
  have hl : 0 < (s.holders s.rank).length := List.length_pos_iff.mpr h
  rw [List.all_eq_false]
  refine ⟨_, List.mem_map.mpr ⟨0, ?_, rfl⟩, Bool.false_ne_true⟩
  simpa using hl

/-- Commit's values stored and streamed to the holders, with the step in Mirror. -/
def State.mirroring (s : State) (m : List Host.Cell) (u : List (Nat × Byte)) (n : Net) (c : Counters) (o : List (Nat × List Byte)) (k : List MirAck) : State :=
  { s with
    mem := m
    net := n
    ctr := c
    wd := some .commitBarrier
    mir := { s.mir with out := o, acks := k }
    st := { s.st with undo := u, run := s.st.run.map fun r => { r with phase := .mirror } } }

theorem State.startMirror_eq (s : State) : ∃ m u n c o k, s.startMirror = (s.mirroring m u n c o k).tryPrepared ∧
    (s.holders s.rank = [] → k = []) ∧ (s.holders s.rank ≠ [] → k.all (·.acked) = false) := by
  obtain ⟨m, u, e⟩ := s.writeUndo_eq s.tailRegion.base s.committedValues.carriedBytes
  unfold State.startMirror
  dsimp only
  rw [e]
  obtain ⟨n, c, k, e', hk⟩ := State.stream_eq { s with mem := m, st := { s.st with undo := u } } 0
    (State.runsOf _ (State.imageRegions _ _) (State.commitRanges _))
  rw [e']
  exact ⟨m, u, n, c, _, k, rfl, hk⟩

end Sys2Proof.Machine
end

section
/-! PROOFS. The phases of a step and of an EVAL follow one another (01 R12, R18, R19, R33, 12 R317, 14 R362). -/

namespace Sys2Proof.Machine

open Sys2Proof

/-! ### The phases of a step -/

/-- PHASE_END of a member with a program. -/
theorem exec_phaseEnd {s : State} (hm : s.member = true) (hp : s.prog.isSome = true) :
    exec .phaseEnd s = .next s.stepPhaseEnd.evalPhaseEnd := by
  rw [show exec .phaseEnd s = .next (phaseEnd s) from rfl, phaseEnd, if_pos (by simp [hm, hp])]

/-- PHASE_END with the step as its phase leaves it, where that is not in Mirror: the work of an EVAL does not change it. -/
theorem phaseEnd_run {s t : State} {r : StepRun} (hm : s.member = true) (hp : s.prog.isSome = true) (e : s.stepPhaseEnd = t) (hr : t.st.run = some r)
    (hn : r.phase ≠ .mirror) : ∃ u, exec .phaseEnd s = .next u ∧ u.st.run = some r ∧ u.bar = t.bar := by
  subst e
  exact ⟨_, exec_phaseEnd hm hp, State.runMoves_stays (State.evalPhaseEnd_moves _) hr hn⟩

theorem State.enterPhase_run {s : State} {r : StepRun} (h : s.st.run = some r) (k : Nat) (p : Phase) (code : Nat) (w : Option WaitPoint) :
    ((s.capture k).enterPhase p code w).st.run = some { r with phase := p } := by
  obtain ⟨m, e⟩ := s.capture_eq k
  obtain ⟨g, c, e'⟩ := (s.capture k).enterPhase_eq p code w
  rw [e', e, h]
  rfl

section
variable {s : State} {r : StepRun} (hr : s.st.run = some r) (hi : s.classIdle false = true)
include hr

theorem State.stepPhaseEnd_faulted (hf : r.fault.isSome = true) : s.stepPhaseEnd = s := by
  simp [State.stepPhaseEnd, hr, hf]

/-- A phase that gives way once a condition holds keeps on until then. -/
theorem State.run_givesWay (b : Bool) (k : Nat) (p : Phase) (code : Nat) (w : Option WaitPoint) :
    (if b then (s.capture k).enterPhase p code w else s).st.run = some (if b then { r with phase := p } else r) := by
  cases b
  · exact hr
  · exact State.enterPhase_run hr k p code w

/-- Backward sends the contributions as it gives way to Reduce. -/
theorem State.reduceFrom_run (hf : r.fault = none) (t : State) (e : t = s.reduceBegun.sendContributions.reduceCheck) :
    (s.reduceBegun.contributions = none → t.st.run = some { r with phase := .reduce, fault := some .formatInvalid }) ∧
    (s.reduceBegun.contributions.isSome = true → s.allReduced = false ∨ s.reduceBegun.classIdle false = false →
      t.st.run = some { r with phase := .reduce }) ∧
    (s.reduceBegun.contributions.isSome = true → s.allReduced = true → s.reduceBegun.classIdle false = true →
      t.st.run = some { r with phase := .finite } ∧ (t.barrier 1).own = some (s.st.stepNo, r.attempt, s.conf.finite.toNat)) := by
  have hb : s.reduceBegun.st.run = some { r with phase := .reduce } := State.enterPhase_run hr 3 .reduce 4 _
  refine ⟨fun hc => ?_, fun hc hw => ?_, fun hc ha hd => ?_⟩
  · obtain ⟨n, c, e'⟩ := State.stepFault_first hb hf .formatInvalid
    have ef : s.reduceBegun.sendContributions = s.reduceBegun.stepFault .formatInvalid := by
      unfold State.sendContributions
      rw [hc]
    rw [ef, e'] at e
    obtain ⟨w, e''⟩ := State.reduceCheck_waits (s := { s.reduceBegun with
      net := n, ctr := c, st := { s.reduceBegun.st with run := some { r with phase := .reduce, fault := some .formatInvalid } } }) rfl
      (.inl (Option.some_ne_none _))
    rw [e, e'']
  all_goals
    obtain ⟨l, hc⟩ := Option.isSome_iff_exists.mp hc
    obtain ⟨m, n, c, e'⟩ := State.sendContributions_eq hc
    have hr' : s.reduceBegun.sendContributions.st.run = some { r with phase := .reduce } := by rw [e']; exact hb
    have hi' : s.reduceBegun.sendContributions.classIdle false = s.reduceBegun.classIdle false := by rw [e']; rfl
    have ha' : s.reduceBegun.sendContributions.reducedAll = s.allReduced ∧ s.reduceBegun.sendContributions.st.stepNo = s.st.stepNo ∧
        s.reduceBegun.sendContributions.conf.finite = s.conf.finite := by
      obtain ⟨m', em⟩ := s.capture_eq 3
      obtain ⟨g, c', eg⟩ := (s.capture 3).enterPhase_eq .reduce 4 (some .reduction)
      rw [State.reducedAll_eq, e', State.reduceBegun, eg, em]
      exact ⟨rfl, rfl, rfl⟩
    obtain ⟨ha', hs, hv⟩ := ha'
  · obtain ⟨w, e''⟩ := State.reduceCheck_waits hr' (.inr (by rw [ha', hi']; exact hw))
    rw [e, e'']
    exact hr'
  · rw [e, ← hs, ← hv]
    exact State.reduceCheck_arrives (r := { r with phase := .reduce }) hr' rfl hf (ha'.trans ha) (hi'.trans hd)

/-- Commit gives way to Mirror, and Mirror at once to PREPARED when nothing holds it back. -/
theorem State.mirrorFrom_run (hf : r.fault = none) (t : State) (e : t = ((s.capture 5).startMirror).evalPhaseEnd) :
    ∃ r', t.st.run = some r' ∧ (r'.phase = .mirror ∨ r'.phase = .prepared) ∧ r'.attempt = r.attempt ∧ r'.fault = none ∧
      (s.holders s.rank = [] → s.st.retPending = [] → s.st.evals = [] → s.st.hashes = [] →
        t.st.run = some { r with phase := .prepared } ∧ (t.barrier 2).own = some (s.st.stepNo, r.attempt, 0)) ∧
      (s.holders s.rank ≠ [] ∨ s.st.retPending ≠ [] → s.st.evals = [] → t.st.run = some { r with phase := .mirror }) := by
  obtain ⟨m, em⟩ := s.capture_eq 5
  obtain ⟨m', u, n, c, o, k, es, hk, hk'⟩ := State.startMirror_eq (s.capture 5)
  have hh : (s.capture 5).holders (s.capture 5).rank = s.holders s.rank := by rw [em]; rfl
  rw [hh] at hk hk'
  generalize hx : State.mirroring (s.capture 5) m' u n c o k = x at es
  have kept : x.st.run = some { r with phase := .mirror } ∧ x.st.retPending = s.st.retPending ∧ x.st.evals = s.st.evals ∧ x.st.hashes = s.st.hashes ∧
      x.st.stepNo = s.st.stepNo ∧ x.mir.acks = k := by
    rw [← hx, em]
    exact ⟨congrArg (Option.map _) hr, rfl, rfl, rfl, rfl, rfl⟩
  obtain ⟨hxr, hl, he, hq, hn, ha⟩ := kept
  have moved : ∀ y : State, x.runMoves y → ∃ r', y.st.run = some r' ∧ (r'.phase = .mirror ∨ r'.phase = .prepared) ∧ r'.attempt = r.attempt ∧
      r'.fault = none := fun y hy => by
    rcases hy with ⟨hy, -⟩ | ⟨r', hy, -, hy'⟩
    · exact ⟨_, hy.trans hxr, .inl rfl, rfl, hf⟩
    · cases hxr.symm.trans hy
      exact ⟨_, hy', .inr rfl, rfl, hf⟩
  rw [es] at e
  obtain ⟨r', hr', hp', ha', hf'⟩ := moved t (e ▸ State.runMoves_trans x.tryPrepared_moves (State.evalPhaseEnd_moves _))
  have still : s.st.evals = [] → t = x.tryPrepared := fun h => by
    obtain ⟨b, n, c, w, y, ey⟩ := x.tryPrepared_eq
    rw [e, State.evalPhaseEnd_nil]
    rw [ey]
    exact he.trans h
  refine ⟨r', hr', hp', ha', hf', fun h1 h2 h3 h4 => ?_, fun h1 h2 => ?_⟩
  · rw [still h3, ← hn]
    exact State.tryPrepared_ready (r := { r with phase := .mirror }) hxr rfl (by rw [State.allAcked, ha, hk h1]; rfl) (hl.trans h2) (he.trans h3) (hq.trans h4)
  · rw [still h2, State.tryPrepared_held, hxr]
    rcases h1 with h1 | h1
    · exact .inl (by rw [State.allAcked, ha]; exact hk' h1)
    · exact .inr (hl ▸ h1)

include hi

/-- What the end of a phase is, while the content of the step has not failed. -/
theorem State.stepPhaseEnd_eq (hf : r.fault = none) : s.stepPhaseEnd = match r.phase with
    | .sample => if s.sampled then (s.capture 0).enterPhase .gather 1 (some .gatherExchange) else s
    | .gather => if s.gathered then (s.capture 1).enterPhase .forward 2 none else s
    | .forward => if !s.layerWaits then (s.capture 2).enterPhase .backward 3 none else s
    | .backward => if s.layerWaits then s else s.reduceBegun.sendContributions.reduceCheck
    | .reduce => s.reduceCheck
    | .commit => (s.capture 5).startMirror
    | _ => s := by
  simp only [State.stepPhaseEnd, hr, hf, hi]
  cases r.phase
  case forward => cases s.layerWaits <;> rfl
  all_goals simp [State.reduceBegun]

end

/-! ### The EVAL at the front -/

section
variable {s : State} (hw : s.st.run = none ∨ s.classIdle false = false)
include hw

/-- While the step has tasks, or there is none, no phase ends. -/
theorem State.stepPhaseEnd_waits : s.stepPhaseEnd = s := by
  unfold State.stepPhaseEnd
  rcases hw with h | h
  · rw [h]
  · split
    · rfl
    · exact if_pos (by simp [h])

theorem exec_phaseEnd_eval (hm : s.member = true) (hp : s.prog.isSome = true) : exec .phaseEnd s = .next s.evalPhaseEnd := by
  rw [exec_phaseEnd hm hp, State.stepPhaseEnd_waits hw]

end

section
variable {s : State} {e : EvalRun} {rest : List EvalRun} {p : Program} (hp : s.prog = some p) (he : s.st.evals = e :: rest)
include hp he

/-- An EVAL that draws starts its tasks once it has drawn every hop. -/
theorem State.evalPhaseEnd_drawing (hd : e.drawing = true) :
    s.evalPhaseEnd = if s.evalSampled then s.setEval { e with drawing := false } else s := by
  simp [State.evalPhaseEnd, hp, he, hd]

variable (hd : e.drawing = false) (hh : e.hop ≠ 0) (hi : s.classIdle true = true) (hl : ∀ l ∈ s.ex.lookups, l.eval = false)
include hd hh hi hl

/-- An EVAL whose tasks have ended: what follows. -/
theorem State.evalPhaseEnd_ended :
    (e.evidence = true → e.attribution = false → s.evalPhaseEnd =
      ((s.setEval { e with attribution := true }).startGradient p).startTasks 7 (BitVec.ofNat 32 e.pinned)) ∧
    (e.evidence = false → ∀ b, (s.ring e.ring).busy = some b → s.evalPhaseEnd = s.endScores e p.decl p.place b.2) := by
  have hg : (e.hop = 0 || !s.classIdle true || s.ex.lookups.any (·.eval)) = false := by
    have : s.ex.lookups.any (·.eval) = false := by simpa using hl
    simp [hh, hi, this]
  constructor
  · intro hv ha
    simp only [State.evalPhaseEnd, hp, he, hd, hg, hv, ha, Bool.false_eq_true, if_false, Bool.not_false, Bool.and_self, if_true]
  · intro hv b hb
    simp only [State.evalPhaseEnd, hp, he, hd, hg, hv, hb, Bool.false_eq_true, if_false, Bool.false_and]

end

/-- The first of the EVALs has the cores: none but the first has changed, and that in having begun only. -/
theorem firstBegun_rings (q : Bool) (l : List EvalRun) : (firstBegun q l).map (·.ring) = l.map (·.ring) := by
  cases l <;> rfl

/-- A result put into its buffer is in the buffer, and nowhere else. -/
theorem State.putBuffer_delivers (s : State) (a : Nat) (b : List Byte) : s.delivers (s.putBuffer a b) a b ∧ ∀ n, (s.putBuffer a b).ring n = s.ring n := by
  unfold State.putBuffer
  split
  · next h => exact ⟨⟨fun _ => List.mem_append_right _ (List.mem_singleton_self _), fun h' => absurd h h', fun _ _ => rfl⟩, fun _ => rfl⟩
  · next h =>
    refine ⟨⟨fun h' => absurd h' h, fun _ => State.read_write s _ _, fun x hx => ?_⟩, fun _ => rfl⟩
    exact s.byte_write_outside _ _ _ (by tauto)

theorem State.putBuffer_kept (s : State) (a : Nat) (b : List Byte) : (s.putBuffer a b).prog = s.prog ∧ (s.putBuffer a b).st = s.st := by
  unfold State.putBuffer
  split <;> exact ⟨rfl, rfl⟩

/-- The completion of an EVAL whose scores are in OUT. -/
def EvalRun.done (e : EvalRun) : Cpl where
  status := if e.rescaled then .okRescaled else .ok
  info := e.epoch
  step := e.pinned
  rescaled := e.rescaled

/-- What has been delivered stays delivered while memory does and nothing written to the host is lost. -/
theorem State.delivers_kept {s t u : State} {a : Nat} {b : List Byte} (h : s.delivers t a b) (hm : ∀ x, u.byte x = t.byte x)
    (ho : ∀ w ∈ t.host.out, w ∈ u.host.out) : s.delivers u a b := by
  obtain ⟨h1, h2, h3⟩ := h
  refine ⟨fun k => ho _ (h1 k), fun k => ?_, fun x hx => (hm x).trans (h3 x hx)⟩
  rw [← h2 k, h2 k]
  exact (State.read_congr fun i _ => hm _).trans (h2 k)

/-- The end of an EVAL: its command has ended, and the next in order has the cores. -/
theorem State.endEval_spec {s : State} {ring : Nat} {c : Cpl} (hp : s.prog.isSome = true) (hb : (s.ring ring).busy.isSome = true) :
    s.ended ring c (s.endEval ring c) ∧
    ((∀ x ∈ s.st.evals, x.ring ≠ ring → x.evidence = false) → ∀ x, (s.endEval ring c).byte x = s.byte x) ∧
    (∀ w ∈ s.host.out, w ∈ (s.endEval ring c).host.out) ∧
    (s.endEval ring c).st.evals = firstBegun true (s.st.evals.filter fun e => e.ring != ring) := by
  rw [State.endEval_eq]
  obtain ⟨g, k, e⟩ := s.evalDropped_eq ring
  generalize s.evalDropped ring = t at e
  have hd : s.ended ring c (t.complete ring c) := State.complete_ended (by rw [e]) hb
  have ho : ∀ w ∈ s.host.out, w ∈ (t.complete ring c).host.out := fun w hw => State.complete_out ring c (by rw [e]; exact hw)
  obtain ⟨h, m, e'⟩ := t.complete_eq ring c
  generalize t.complete ring c = u at e' hd ho
  obtain ⟨⟨hh, -, hmem, -⟩, hst⟩ := u.startEval_spec
  have hg : u.goesOn u.startEval := by
    obtain ⟨m, g, c, l, e⟩ := u.startEval_eq
    exact State.goesOn_of_same hh (by rw [e])
  have hv := u.startEval.tryPrepared_goesOn
  obtain ⟨b, n, k', w, y, e''⟩ := u.startEval.tryPrepared_eq
  have hu : u.mem = s.mem ∧ u.prog = s.prog ∧ u.st.evals = s.st.evals.filter fun e => e.ring != ring := by
    rw [e', e]
    exact ⟨rfl, rfl, rfl⟩
  obtain ⟨um, up, ue⟩ := hu
  refine ⟨State.ended_goesOn (State.ended_goesOn hd hg) hv, fun hx x => ?_, fun w hw => ?_, ?_⟩
  · have none : u.st.evals.filter (·.evidence) = [] := by
      rw [ue, List.filter_eq_nil_iff]
      intro x hx'
      obtain ⟨hx', hr⟩ := List.mem_filter.mp hx'
      simp [hx x hx' (by simpa using hr)]
    rw [none] at hmem
    rw [e'']
    refine (hmem x fun w hw => ?_).trans (by rw [State.byte, um])
    unfold State.attention at hw
    cases hq : u.prog <;> simp [hq] at hw
  · rw [e'']
    show w ∈ u.startEval.host.out
    rw [hh]
    exact ho w hw
  · rw [e'']
    show u.startEval.st.evals = _
    rw [hst, up, hp, ue]

/-- Settles O24: each phase gives way to the next under its condition, and the EVAL at the front goes on while no phase ends. -/
theorem phasesFollow : Obligations.PhasesFollow := by
  unfold Obligations.PhasesFollow
  constructor
  · intro s r hm hp hr hi
    have run : ∀ {t : State} {r' : StepRun}, t.st.run = some r' → r'.phase ≠ .mirror → s.stepPhaseEnd = t →
        ∃ u, exec .phaseEnd s = .next u ∧ u.st.run = some r' ∧ u.bar = t.bar := fun hr hn e => phaseEnd_run hm hp e hr hn
    refine ⟨fun hf => ?_, fun hf hn => ?_⟩
    · have ends := State.stepPhaseEnd_eq hr hi hf
      have gives : ∀ {b : Bool} {k : Nat} {p : Phase} {code : Nat} {w : Option WaitPoint}, r.phase ≠ .mirror → p ≠ .mirror →
          s.stepPhaseEnd = (if b then (s.capture k).enterPhase p code w else s) →
          ∃ u, exec .phaseEnd s = .next u ∧ u.st.run = some (if b then { r with phase := p } else r) := fun {b k p code w} hn hn' e => by
        obtain ⟨u, hu, hr', -⟩ := run (State.run_givesWay hr b k p code w) (by cases b <;> assumption) e
        exact ⟨u, hu, hr'⟩
      have kept : ∀ {r' : StepRun}, s.stepPhaseEnd.st.run = some r' → r'.phase ≠ .mirror →
          s.stepPhaseEnd.evalPhaseEnd.st.run = some r' ∧ s.stepPhaseEnd.evalPhaseEnd.bar = s.stepPhaseEnd.bar :=
        State.runMoves_stays (State.evalPhaseEnd_moves _)
      have arrived : ∀ {v : Option (Nat × Nat × Nat)},
          s.stepPhaseEnd.st.run = some { r with phase := .finite } ∧ (s.stepPhaseEnd.barrier 1).own = v →
          s.stepPhaseEnd.evalPhaseEnd.st.run = some { r with phase := .finite } ∧ (s.stepPhaseEnd.evalPhaseEnd.barrier 1).own = v := fun ⟨hx, ho⟩ => by
        obtain ⟨hx, hb⟩ := kept hx (by simp)
        exact ⟨hx, by rw [State.barrier, hb]; exact ho⟩
      refine ⟨fun h => ?_, fun h => ?_, fun h => ?_, fun h hl => ?_, fun h hl => ?_, fun h => ?_, fun h => ?_⟩ <;> rw [h] at ends
      · exact gives (by simp [h]) (by simp) ends
      · exact gives (by simp [h]) (by simp) ends
      · obtain ⟨u, hu, hr'⟩ := gives (by simp [h]) (by simp) ends
        exact ⟨u, hu, by rw [hr']; cases s.layerWaits <;> rfl⟩
      · obtain ⟨u, hu, hr', -⟩ := run hr (by simp [h]) (by rw [ends]; exact if_pos hl)
        exact ⟨u, hu, hr'⟩
      · rw [hl, if_neg Bool.false_ne_true] at ends
        obtain ⟨h1, h2, h3⟩ := State.reduceFrom_run hr hf _ ends
        exact ⟨_, exec_phaseEnd hm hp, fun hc => (kept (h1 hc) (by simp)).1, fun hc hx => (kept (h2 hc hx) (by simp)).1,
          fun hc ha hx => arrived (h3 hc ha hx)⟩
      · refine ⟨_, exec_phaseEnd hm hp, fun ha => ?_, fun ha => ?_⟩
        · obtain ⟨w, e⟩ := State.reduceCheck_waits hr (.inr (.inl (s.reducedAll_eq.trans ha)))
          exact (kept (by rw [ends, e]; exact hr) (by simp [h])).1
        · exact arrived (ends ▸ State.reduceCheck_arrives hr h hf (s.reducedAll_eq.trans ha) hi)
      · obtain ⟨r', hx⟩ := State.mirrorFrom_run hr hf _ rfl
        exact ⟨_, r', by rw [exec_phaseEnd hm hp, ends], hx⟩
    · obtain ⟨u, hu, hr', -⟩ := run hr hn (State.stepPhaseEnd_faulted hr hf)
      exact ⟨u, hu, hr'⟩
  · intro s e rest p hm hp he hw
    have ends := exec_phaseEnd_eval hw hm (by rw [hp]; rfl)
    refine ⟨fun hd hs => ?_, fun hd hs => ?_, fun hd hh hi hl hv ha => ?_, fun i d hd hh hi hl hv hb ht => ?_⟩
    · refine ⟨_, ends, ?_⟩
      rw [State.evalPhaseEnd_drawing hp he hd, if_pos hs]
      exact ⟨by rw [State.setEval, he]; rfl, rfl⟩
    · rw [ends, State.evalPhaseEnd_drawing hp he hd, if_neg (by rw [hs]; decide)]
    · refine ⟨_, ends, ?_⟩
      rw [(State.evalPhaseEnd_ended hp he hd hh hi hl).1 hv ha]
      obtain ⟨g, c, e'⟩ := (State.coresOnly_iff _ _).mp (State.startTasks_coresOnly ((s.setEval { e with attribution := true }).startGradient p) 7
        (BitVec.ofNat 32 e.pinned))
      rw [e']
      refine ⟨by rw [State.startGradient, State.setEval, he]; rfl, ?_, ?_⟩
      · exact State.read_write (s.setEval _) p.place.scoreGrad (leBytes 4 0x3F800000)
      · exact State.write_outside (s.setEval _) p.place.scoreGrad (leBytes 4 0x3F800000)
    · generalize hout : s.read p.place.score (p.decl.scoreBytes * e.targets.length) = out
      have hs : s.evalPhaseEnd = (s.putBuffer (field d 32 8) out).endEval e.ring e.done := by
        rw [(State.evalPhaseEnd_ended hp he hd hh hi hl).2 hv _ hb, State.endScores, State.writeBuffer, if_pos (by simpa using ht), hout]
        rfl
      obtain ⟨hdel, hring⟩ := s.putBuffer_delivers (field d 32 8) out
      have hk := s.putBuffer_kept (field d 32 8) out
      refine ⟨_, ends, ?_⟩
      rw [hs]
      generalize s.putBuffer (field d 32 8) out = t at hdel hring hk
      obtain ⟨h1, h2, h3, h4⟩ := State.endEval_spec (s := t) (ring := e.ring) (c := e.done) (by rw [hk.1, hp]; rfl) (by rw [hring, hb]; rfl)
      rw [hk.2] at h2 h4
      refine ⟨State.ended_of_ring (hring _) h1, fun hr => State.delivers_kept hdel (h2 fun x hx hn => ?_) h3, ?_, fun x hx => ?_⟩
      · rw [he] at hx
        rcases List.mem_cons.mp hx with rfl | hx
        · exact absurd rfl hn
        · exact hr x hx
      · rw [h4, firstBegun_rings, List.filter_map]
        rfl
      · rw [h4] at hx
        exact firstBegun_head hx

end Sys2Proof.Machine
end

section
/-! SUPPORT. Messages sent on the way, and the boundary window as it ends: compaction, the Eddy refresh, and the copies of both (01 R29, 06 R135, 07 R172,
11 R278). -/

namespace Sys2Proof.Machine

open Sys2Proof

/-! ### Messages sent on the way -/

/-- On the way from `s` to `t` messages have been sent, each of which has a property. -/
def State.adds (P : Msg → Prop) (s t : State) : Prop := ∃ l, t.net.sent = s.net.sent ++ l ∧ ∀ y ∈ l, P y

section
variable {P Q : Msg → Prop}

theorem State.adds_of_same {s t : State} (h : t.net.sent = s.net.sent) : s.adds P t := ⟨[], by simp [h], by simp⟩

theorem State.adds_trans {s t u : State} (h : s.adds P t) (k : t.adds P u) : s.adds P u := by
  obtain ⟨l, hl, hp⟩ := h
  obtain ⟨l', kl, kp⟩ := k
  exact ⟨l ++ l', by rw [kl, hl, List.append_assoc], fun y hy => (List.mem_append.mp hy).elim (hp y) (kp y)⟩

theorem State.adds_mono {s t : State} (h : s.adds P t) (hp : ∀ y, P y → Q y) : s.adds Q t := by
  obtain ⟨l, hl, hy⟩ := h
  exact ⟨l, hl, fun y hm => hp y (hy y hm)⟩

theorem State.adds_foldl {α : Type} (f : State → α → State) (l : List α) (h : ∀ (s : State), ∀ x ∈ l, s.adds P (f s x)) (s : State) :
    s.adds P (l.foldl f s) :=
  List.foldlRecOn (motive := s.adds P) l f (State.adds_of_same rfl) fun t ht x hx => State.adds_trans ht (h t x hx)

/-- All that is sent is new. -/
theorem State.adds_mem {s t : State} (h : s.adds P t) {y : Msg} (hy : y ∈ t.net.sent.drop s.net.sent.length) : P y := by
  obtain ⟨l, hl, hp⟩ := h
  rw [hl, List.drop_left] at hy
  exact hp y hy

/-- What is sent in between is sent. -/
theorem State.sent_mono {s s' t t' : State} (h : s.adds P s') (k : t.adds Q t') {x : Msg} (hx : x ∈ t.net.sent.drop s'.net.sent.length) :
    x ∈ t'.net.sent.drop s.net.sent.length := by
  obtain ⟨l, hl, -⟩ := h
  obtain ⟨l', kl, -⟩ := k
  rw [hl, List.length_append, ← List.drop_drop] at hx
  rw [kl, List.drop_append]
  exact List.mem_append_left _ (List.mem_of_mem_drop hx)

theorem State.emits_mono {s s' t t' : State} {m : Msg} (h : s.adds P s') (k : t.adds Q t') (e : s'.emits t m) : s.emits t' m := by
  obtain ⟨x, hx, he⟩ := e
  exact ⟨x, State.sent_mono h k hx, he⟩

theorem State.send_adds_of (s : State) {m : Msg} (h1 : ∀ y : Msg, y.typ = 1 → P y) (hm : ∀ y : Msg, y.typ = m.typ → y.body = m.body → P y) :
    s.adds P (s.send m) := by
  obtain ⟨l, hl, hy⟩ := s.send_adds m
  exact ⟨l, hl, fun y h => (hy y h).elim (fun h => hm y h.1 h.2) (h1 y)⟩

end

theorem State.sendMsgs_adds (s : State) (l : List Msg) : s.adds (fun _ => True) (s.sendMsgs l) :=
  State.adds_foldl _ l (fun t _ _ => t.send_adds_of (fun _ _ => trivial) fun _ _ _ => trivial) s

/-- Each of a list of messages that a live module sends has been sent. -/
theorem State.sendMsgs_emits {s : State} {l : List Msg} {m : Msg} (hl : s.live = true) (hm : m ∈ l) : s.emits (s.sendMsgs l) m := by
  induction l generalizing s with
  | nil => cases hm
  | cons x t ih =>
    have same : s.adds (fun _ => True) s := State.adds_of_same rfl
    rcases List.mem_cons.mp hm with rfl | hm
    · exact State.emits_mono same (State.sendMsgs_adds _ t) (s.send_emits _ hl)
    · have hs : (s.send x).live = true := by
        obtain ⟨n, c, e⟩ := s.send_eq x
        rw [e]
        exact hl
      refine State.emits_mono (s.send_adds_of (m := x) (fun _ _ => trivial) fun _ _ _ => trivial) (State.adds_of_same (P := fun _ => True) rfl) (ih hs hm)

/-! ### Copies that wait, and copies for which nothing waits -/

theorem State.finishCopies_held {s : State} (h : s.allAcked = false) : s.finishCopies = s := by simp [State.finishCopies, h]

/-- With no command that waits, acknowledged copies leave the host side and the maps of rows. -/
theorem State.finishCopies_quiet {s : State} (h : s.mir.waiting = []) : s.finishCopies.host = s.host ∧ s.finishCopies.st.migMap = s.st.migMap := by
  unfold State.finishCopies
  split
  · dsimp only
    rw [h, List.foldl_nil]
    generalize hu : State.sendAll _ s.st.owedMoves _ = u
    have hu' : u.host = s.host ∧ u.st.migMap = s.st.migMap := by
      obtain ⟨n, c, e⟩ := State.sendAll_eq _ _ _
      rw [← hu, e]
      exact ⟨rfl, rfl⟩
    generalize hv : State.sendAll u _ _ = v
    obtain ⟨n, c, e⟩ := State.sendAll_eq u _ _
    obtain ⟨b, n', c', w, x, e'⟩ := v.tryBegin_eq
    rw [e', ← hv, e]
    exact hu'
  · exact ⟨rfl, rfl⟩

/-- The copies of ranges that have changed wait while there is a holder. -/
theorem State.copyBoundary_held {s : State} {touched : List Region} (ht : touched ≠ []) (hh : s.holders s.rank ≠ []) (waiting : List (Nat × Nat × Nat)) :
    ∃ n c m, s.copyBoundary touched waiting = { s.storeCarried with net := n, ctr := c, mir := m } := by
  rw [State.copyBoundary, if_neg ht, State.copyWith]
  generalize hv : State.write _ _ _ = v
  obtain ⟨n, c, k, e, -, hk⟩ := v.stream_eq 3 (v.runsOf (v.imageRegions v.st.wEpoch) (touched ++ [v.tailRegion]))
  have hv' : v.holders v.rank = s.holders s.rank := by rw [← hv]; rfl
  dsimp only
  rw [State.finishCopies_held (by rw [e]; exact hk (hv' ▸ hh)), e, ← hv]
  exact ⟨n, c, _, rfl⟩

/-- Copies store the committed values, or nothing. -/
theorem State.copyBoundary_from (s : State) (touched : List Region) (waiting : List (Nat × Nat × Nat)) :
    ∃ w, (w = s ∨ w = s.storeCarried) ∧ w.copies (s.copyBoundary touched waiting) := by
  by_cases h : touched = []
  · subst h
    exact ⟨s, .inl rfl, s.copyBoundary_nil_copies waiting⟩
  · exact ⟨_, .inr rfl, s.copyBoundary_copies h waiting⟩

/-- Copies are no batch of row traffic. -/
theorem State.copyBoundary_adds (s : State) (touched : List Region) (waiting : List (Nat × Nat × Nat)) :
    s.adds (fun y => y.typ ≠ 5) (s.copyBoundary touched waiting) := by
  obtain ⟨w, hw, -, ⟨-, -, ha⟩, -⟩ := s.copyBoundary_from touched waiting
  refine State.adds_trans (State.adds_of_same ?_) ha
  rcases hw with rfl | rfl <;> rfl

/-- Copies for which no command waits leave the host side and the maps of rows. -/
theorem State.copyBoundary_quiet {s : State} (h : s.mir.waiting = []) (touched : List Region) :
    (s.copyBoundary touched []).host = s.host ∧ (s.copyBoundary touched []).st.migMap = s.st.migMap := by
  unfold State.copyBoundary
  split
  · exact State.finishCopies_quiet (s := { s with mir := { s.mir with waiting := s.mir.waiting ++ [] } }) (by rw [h]; rfl)
  · rw [State.copyWith]
    generalize hv : State.write _ _ _ = v
    obtain ⟨n, c, k, e, -, -⟩ := v.stream_eq 3 (v.runsOf (v.imageRegions v.st.wEpoch) (touched ++ [v.tailRegion]))
    rw [e]
    have hw : v.mir.waiting = [] ∧ v.host = s.host ∧ v.st.migMap = s.st.migMap := by
      rw [← hv]
      exact ⟨by show s.mir.waiting ++ [] = []; rw [h]; rfl, rfl, rfl⟩
    obtain ⟨hw, hh, hm⟩ := hw
    obtain ⟨kh, km⟩ := State.finishCopies_quiet (s := { v with
      net := n, ctr := c, mir := { v.mir with out := v.runsOf (v.imageRegions v.st.wEpoch) (touched ++ [v.tailRegion]), acks := k } }) hw
    exact ⟨kh.trans hh, km.trans hm⟩

/-! ### Compaction -/

/-- Compaction stores runs in ascending nodes, as many as its budget allows. -/
theorem State.compact_spec (s : State) (d : Decl) (l : List Nat) (n : Nat) :
    s.storesOnly (s.compact d l n).1 ∧ (s.compact d l n).2.Sublist l ∧ (s.compact d l n).2.length ≤ n := by
  induction l generalizing s n with
  | nil => exact ⟨rfl, List.Sublist.slnil, Nat.zero_le _⟩
  | cons x t ih =>
    cases n with
    | zero => exact ⟨rfl, List.nil_sublist _, Nat.le_refl _⟩
    | succ n =>
      unfold State.compact
      split
      · obtain ⟨h1, h2, h3⟩ := ih s (n + 1)
        exact ⟨h1, h2.cons _, h3⟩
      · next u hu =>
        have hr : s.storesOnly u := by
          split at hu
          · exact State.relocate_storesOnly hu
          · cases hu
        obtain ⟨h1, h2, h3⟩ := ih (u.count cCompactRuns 1) n
        exact ⟨State.storesOnly_trans hr (State.storesOnly_trans (State.storesOnly_count _ _ _) h1), h2.cons_cons _, Nat.succ_le_succ h3⟩

theorem State.compactNow_eq {s : State} {d : Decl} (hd : s.decl = some d) {k : Nat} {u : State} {runs : List Nat}
    (hc : s.compact d (ownedNodes d s.ranks s.rank) (s.relocations k) = (u, runs)) :
    s.compactNow k = if runs = [] then u else State.copyBoundary { u with st := { u.st with compacted := true } } (runs.flatMap u.nodeRegions) [] := by
  simp only [State.compactNow, hd, hc]

/-! ### What the end of the window changes -/

/-- `t` with what the end of a window, and the copies and commands that it lets go on, may change as it is in `s`. -/
def State.windowAs (t s : State) : State :=
  { t.copiesAs s with
    mem := s.mem
    st := { (t.copiesAs s).st with
      eddyAcks := s.st.eddyAcks
      compacted := s.st.compacted
      windowOpen := s.st.windowOpen } }

/-- On the way from `s` to `t` the window has ended, or gone on. -/
def State.windows (s t : State) : Prop :=
  t.windowAs s = s ∧ (∀ n, (s.ring n).busy = none → (t.ring n).busy = none) ∧ (∀ a e, s.shows a e → t.shows a e) ∧
    t.st.applied.map Act.rested = s.st.applied.map Act.rested ∧ (t.ms.st = s.ms.st ∨ t.ms.st = .loaded)

theorem State.windows_of_same {s t : State} (h : t.windowAs s = s) (hh : t.host = s.host) (ha : t.st.applied = s.st.applied) (hm : t.ms.st = s.ms.st) :
    s.windows t :=
  ⟨h, fun n hn => by rw [State.ring, hh]; exact hn, fun a e he => by rw [State.shows, hh]; exact he, by rw [ha], .inl hm⟩

theorem State.windows_refl (s : State) : s.windows s := State.windows_of_same rfl rfl rfl rfl

theorem State.windows_trans {s t u : State} (h : s.windows t) (k : t.windows u) : s.windows u := by
  obtain ⟨h1, h2, h3, h4, h5⟩ := h
  obtain ⟨k1, k2, k3, k4, k5⟩ := k
  exact ⟨(congrArg (·.windowAs s) k1).trans h1, fun n hn => k2 n (h2 n hn), fun a e he => k3 a e (h3 a e he), k4.trans h4, k5.elim (fun k => k ▸ h5) .inr⟩

theorem State.windows_of_copies {s t : State} (h : s.copies t) : s.windows t := by
  obtain ⟨h1, ⟨h2, h3, -⟩, h4, -, h5⟩ := h
  exact ⟨congrArg (·.windowAs s) h1, h2, h3, h4, h5⟩

theorem State.windows_of_storesOnly {s t : State} (h : s.storesOnly t) : s.windows t := by
  obtain ⟨m, c, rfl⟩ := (State.storesOnly_iff s t).mp h
  exact State.windows_of_same rfl rfl rfl rfl

/-- A command that has ended stays so while the window ends. -/
theorem State.ended_windows {s t u : State} {n : Nat} {c : Cpl} (h : s.ended n c t) (k : t.windows u) : s.ended n c u := by
  obtain ⟨i, d, hb, hp, he⟩ := h
  obtain ⟨-, k2, k3, -, -⟩ := k
  exact ⟨i, d, hb, k3 _ _ hp, k2 n he⟩

/-- What has been applied stays so. -/
theorem State.applied_windows {s t : State} (h : s.windows t) {x : Act} (hx : x ∈ s.st.applied) : ∃ y ∈ t.st.applied, y.rested = x.rested := by
  obtain ⟨-, -, -, h, -⟩ := h
  exact List.mem_map.mp (h ▸ List.mem_map_of_mem hx)

theorem State.copyBoundary_windows (s : State) (touched : List Region) (waiting : List (Nat × Nat × Nat)) : s.windows (s.copyBoundary touched waiting) := by
  obtain ⟨w, hw, hc⟩ := s.copyBoundary_from touched waiting
  refine State.windows_trans ?_ (State.windows_of_copies hc)
  rcases hw with rfl | rfl
  · exact w.windows_refl
  · exact State.windows_of_storesOnly (s.storesOnly_write _ _)

theorem State.compactNow_windows (s : State) (k : Nat) : s.windows (s.compactNow k) := by
  cases hd : s.decl with
  | none =>
    rw [State.compactNow, hd]
    exact s.windows_refl
  | some d =>
    obtain ⟨hs, -, -⟩ := s.compact_spec d (ownedNodes d s.ranks s.rank) (s.relocations k)
    rw [State.compactNow_eq hd rfl]
    refine State.windows_trans (State.windows_of_storesOnly hs) ?_
    split
    · exact State.windows_refl _
    · refine State.windows_trans ?_ (State.copyBoundary_windows _ _ _)
      exact State.windows_of_same rfl rfl rfl rfl

/-- Compaction with no command that waits for copies leaves the host side and the maps of rows. -/
theorem State.compactNow_quiet {s : State} (h : s.mir.waiting = []) (k : Nat) :
    (s.compactNow k).host = s.host ∧ (s.compactNow k).st.migMap = s.st.migMap := by
  cases hd : s.decl with
  | none =>
    rw [State.compactNow, hd]
    exact ⟨rfl, rfl⟩
  | some d =>
    obtain ⟨hs, -, -⟩ := s.compact_spec d (ownedNodes d s.ranks s.rank) (s.relocations k)
    rw [State.compactNow_eq hd rfl]
    obtain ⟨m, c, e⟩ := (State.storesOnly_iff _ _).mp hs
    rw [e]
    split
    · exact ⟨rfl, rfl⟩
    · exact State.copyBoundary_quiet (s := { s with mem := m, ctr := c, st := { s.st with compacted := true } }) h _

/-- Compaction sends no batch of row traffic. -/
theorem State.compactNow_adds (s : State) (k : Nat) : s.adds (fun y => y.typ ≠ 5) (s.compactNow k) := by
  cases hd : s.decl with
  | none =>
    rw [State.compactNow, hd]
    exact State.adds_of_same rfl
  | some d =>
    obtain ⟨hs, -, -⟩ := s.compact_spec d (ownedNodes d s.ranks s.rank) (s.relocations k)
    rw [State.compactNow_eq hd rfl]
    obtain ⟨m, c, e⟩ := (State.storesOnly_iff _ _).mp hs
    rw [e]
    split
    · exact State.adds_of_same rfl
    · refine State.adds_trans ?_ (State.copyBoundary_adds _ _ _)
      exact State.adds_of_same rfl

/-! ### The Eddy refresh -/

/-- Each reply packed lies in one of the messages. -/
theorem exists_packReplies {r : List Byte} {l : List (List Byte)} (h : r ∈ l) : ∃ x ∈ packReplies l, r <:+: x := by
  induction l with
  | nil => cases h
  | cons a t ih =>
    have later : r ∈ t → ∀ x rest, packReplies t = x :: rest → r <:+: x ∨ ∃ y ∈ rest, r <:+: y := fun ht x rest e => by
      obtain ⟨y, hy, hr⟩ := ih ht
      rw [e] at hy
      rcases List.mem_cons.mp hy with rfl | hy
      · exact .inl hr
      · exact .inr ⟨y, hy, hr⟩
    unfold packReplies
    split
    · next e =>
      rcases List.mem_cons.mp h with rfl | h
      · exact ⟨r, List.mem_singleton_self r, List.infix_refl r⟩
      · obtain ⟨y, hy, -⟩ := ih h
        rw [e] at hy
        cases hy
    · next x rest e =>
      split
      · next hx =>
        rcases List.mem_cons.mp h with rfl | h
        · exact ⟨r, List.mem_cons_self, List.infix_refl r⟩
        · rcases later h x rest e with hr | ⟨y, hy, hr⟩
          · subst hx
            exact ⟨a, List.mem_cons_self, (List.infix_nil.mp hr) ▸ List.nil_infix⟩
          · exact ⟨y, List.mem_cons_of_mem _ hy, hr⟩
      · split
        · rcases List.mem_cons.mp h with rfl | h
          · exact ⟨_, List.mem_cons_self, (List.prefix_append r x).isInfix⟩
          · rcases later h x rest e with hr | ⟨y, hy, hr⟩
            · exact ⟨_, List.mem_cons_self, hr.trans (List.suffix_append a x).isInfix⟩
            · exact ⟨y, List.mem_cons_of_mem _ hy, hr⟩
        · rcases List.mem_cons.mp h with rfl | h
          · exact ⟨r, List.mem_cons_self, List.infix_refl r⟩
          · rcases later h x rest e with hr | ⟨y, hy, hr⟩
            · exact ⟨x, List.mem_cons_of_mem _ List.mem_cons_self, hr⟩
            · exact ⟨y, List.mem_cons_of_mem _ (List.mem_cons_of_mem _ hy), hr⟩

theorem length_batchHeader (step attempt index : Nat) (eval : Bool) (tag : Nat) : (batchHeader step attempt index eval tag).length = 16 := by
  simp [batchHeader, zeros]

/-- The messages of a refresh. -/
theorem State.mem_refreshMsgs {s : State} {o : Nat} {drop : List Nat} {recs : List (List Byte)} {m : Msg} :
    m ∈ s.refreshMsgs o drop recs ↔ ∃ i < (packReplies ((drop.map fun k => lookupRecord k false) ++ recs)).length,
      mkMsg 5 1 10 o (batchHeader s.st.stepNo 0 0 false drop.length ++ nth [] (packReplies ((drop.map fun k => lookupRecord k false) ++ recs)) i) true
        (i + 1 == (packReplies ((drop.map fun k => lookupRecord k false) ++ recs)).length) = m := by
  simp only [State.refreshMsgs, List.mem_map, List.mem_range]

/-- A row dropped or sent lies in one of them. -/
theorem State.refreshMsgs_carry (s : State) (o : Nat) {drop : List Nat} {recs : List (List Byte)} {r : List Byte}
    (h : r ∈ (drop.map fun k => lookupRecord k false) ++ recs) : ∃ m ∈ s.refreshMsgs o drop recs,
      m.typ = 5 ∧ m.opc = 1 ∧ m.vc = 10 ∧ m.dst = o ∧ m.resp = true ∧ ∃ u v, m.body.drop 16 = u ++ r ++ v := by
  obtain ⟨x, hx, u, v, e⟩ := exists_packReplies h
  obtain ⟨i, hi, rfl⟩ := List.mem_iff_getElem.mp hx
  refine ⟨_, State.mem_refreshMsgs.mpr ⟨i, hi, rfl⟩, rfl, rfl, rfl, rfl, rfl, u, v, ?_⟩
  show List.drop 16 (_ ++ nth [] _ i) = _
  rw [List.drop_left' (length_batchHeader _ _ _ _ _), nth, List.getD_eq_getElem _ _ hi, e]

/-- Sending a refresh changes the network side, the counters and the acknowledgements awaited. -/
theorem State.sendRefresh_eq (s : State) (dsts drop keys : List Nat) : ∃ n c, s.sendRefresh dsts drop keys =
    { s with net := n, ctr := c, st := { s.st with eddyAcks := s.st.eddyAcks ++ dsts.map fun o => (o, 1) } } := by
  have sent : ∀ recs, ∃ n c, dsts.foldl (fun t o => t.sendMsgs (t.refreshMsgs o drop recs)) s = { s with net := n, ctr := c } := fun recs =>
    List.foldlRecOn (motive := fun t : State => ∃ n c, t = { s with net := n, ctr := c }) dsts _ ⟨s.net, s.ctr, rfl⟩ fun t ⟨n, c, ht⟩ o _ => by
      obtain ⟨n', c', e⟩ := t.sendMsgs_eq (t.refreshMsgs o drop recs)
      rw [e, ht]
      exact ⟨_, _, rfl⟩
  unfold State.sendRefresh
  dsimp only
  obtain ⟨n, c, e⟩ := sent _
  rw [e]
  exact ⟨n, _, rfl⟩

/-- Each member of a list is sent the rows dropped and those sent. -/
theorem State.sendRefresh_sends {s : State} (hl : s.live = true) {dsts drop keys : List Nat} {o : Nat} (ho : o ∈ dsts) {r : List Byte}
    (hr : r ∈ (drop.map fun k => lookupRecord k false) ++ keys.map fun k => refreshRecord k (s.replicaValue k)) :
    s.refreshes (s.sendRefresh dsts drop keys) o r := by
  have adds : ∀ (l : List Nat) (recs : List (List Byte)) (t : State),
      t.adds (fun _ => True) (l.foldl (fun t o => t.sendMsgs (t.refreshMsgs o drop recs)) t) := fun l recs t =>
    State.adds_foldl _ l (fun t o _ => t.sendMsgs_adds _) t
  obtain ⟨l, l', rfl⟩ := List.append_of_mem ho
  have all : ∀ recs, r ∈ (drop.map fun k => lookupRecord k false) ++ recs →
      ∃ m, s.emits ((l ++ o :: l').foldl (fun t o => t.sendMsgs (t.refreshMsgs o drop recs)) s) m ∧
        m.typ = 5 ∧ m.opc = 1 ∧ m.vc = 10 ∧ m.dst = o ∧ m.resp = true ∧ ∃ u v, m.body.drop 16 = u ++ r ++ v := fun recs hr => by
    have live : ∀ t : State, t.live = true → (l.foldl (fun t o => t.sendMsgs (t.refreshMsgs o drop recs)) t).live = true := fun t ht =>
      List.foldlRecOn (motive := fun u : State => u.live = true) l _ ht fun u hu o _ => by
        obtain ⟨n, c, e⟩ := u.sendMsgs_eq (u.refreshMsgs o drop recs)
        rw [e]
        exact hu
    rw [List.foldl_append, List.foldl_cons]
    have hu := live s hl
    have ha := adds l recs s
    generalize l.foldl (fun t o => t.sendMsgs (t.refreshMsgs o drop recs)) s = u at hu ha
    obtain ⟨m, hm, hx⟩ := u.refreshMsgs_carry o hr
    exact ⟨m, State.emits_mono ha (adds l' recs _) (State.sendMsgs_emits hu hm), hx⟩
  obtain ⟨m, ⟨x, hx, e1, e2, e3, e4, e5, -, e7⟩, h1, h2, h3, h4, h5, h6⟩ := all _ hr
  exact ⟨x, hx, e1.trans h1, e2.trans h2, e3.trans h3, e4.trans h4, e5.trans h5, e7 ▸ h6⟩

/-- With no row to drop or send every member is sent an empty batch. -/
theorem State.sendRefresh_empty (s : State) (dsts : List Nat) : s.adds (fun y => y.typ = 5 → y.body.length = 16) (s.sendRefresh dsts [] []) := by
  have sent : ∀ t : State, ∀ o, t.adds (fun y => y.typ = 5 → y.body.length = 16) (t.sendMsgs (t.refreshMsgs o [] [])) := fun t o => by
    refine State.adds_foldl _ _ (fun u m hm => u.send_adds_of (fun y hy h => ?_) fun y _ hb _ => ?_) t
    · rw [hy] at h
      cases h
    · obtain ⟨i, hi, rfl⟩ := State.mem_refreshMsgs.mp hm
      have : i = 0 := by simpa [packReplies] using hi
      rw [hb, this]
      simp [mkMsg, length_batchHeader, packReplies, nth]
  exact State.adds_trans (State.adds_foldl (fun t o => t.sendMsgs (t.refreshMsgs o [] [])) dsts (fun t o _ => sent t o) s) (State.adds_of_same rfl)

/-- The values sent last, once the refresh has gone. -/
def State.sentNow (s : State) : NMap (List Byte) :=
  s.hotRows.foldl (fun m k => NMap.put m k (s.replicaValue k)) (s.st.eddySent.filter fun e => s.hotRows.contains e.1)

/-- The refresh of this module's replicated rows. -/
theorem State.refreshEddy_eq (s : State) : ∃ n c, s.refreshEddy = { s with
    net := n, ctr := c, st := { s.st with eddyAcks := s.st.eddyAcks ++ s.others.map fun o => (o, 1), eddySent := s.sentNow } } := by
  unfold State.refreshEddy
  dsimp only
  obtain ⟨n, c, e⟩ := s.sendRefresh_eq s.others ((s.st.eddySent.map (·.1)).filter fun k => !s.hotRows.contains k)
    (s.hotRows.filter fun k => s.st.eddySent.find k != some (s.replicaValue k))
  rw [e]
  exact ⟨n, c, rfl⟩

theorem State.refreshEddy_sent (s : State) : s.refreshEddy.net = (s.sendRefresh s.others ((s.st.eddySent.map (·.1)).filter fun k => !s.hotRows.contains k)
    (s.hotRows.filter fun k => s.st.eddySent.find k != some (s.replicaValue k))).net := rfl

/-- Every other member is sent each selected row whose value is new, and each row no longer selected. -/
theorem State.refreshEddy_sends {s : State} (hl : s.live = true) {o : Nat} (ho : o ∈ s.others) :
    (∀ x ∈ s.hotRows, s.st.eddySent.find x ≠ some (s.replicaValue x) → s.refreshes s.refreshEddy o (refreshRecord x (s.replicaValue x))) ∧
    (∀ x ∈ s.st.eddySent, x.1 ∉ s.hotRows → s.refreshes s.refreshEddy o (lookupRecord x.1 false)) := by
  refine ⟨fun x hx hn => ?_, fun x hx hn => ?_⟩ <;> unfold State.refreshes <;> rw [State.refreshEddy_sent] <;> refine State.sendRefresh_sends hl ho ?_
  · refine List.mem_append_right _ (List.mem_map_of_mem (List.mem_filter.mpr ⟨hx, ?_⟩))
    simpa using hn
  · refine List.mem_append_left _ (List.mem_map_of_mem (f := fun k => lookupRecord k false) (List.mem_filter.mpr ⟨List.mem_map_of_mem hx, ?_⟩))
    simpa using hn

/-- With every selected row as last sent, and every row last sent selected, the batches are empty. -/
theorem State.refreshEddy_empty {s : State} (h : ∀ x ∈ s.hotRows, s.st.eddySent.find x = some (s.replicaValue x))
    (k : ∀ x ∈ s.st.eddySent, x.1 ∈ s.hotRows) :
    s.adds (fun y => y.typ = 5 → y.body.length = 16) s.refreshEddy := by
  have hd : ((s.st.eddySent.map (·.1)).filter fun k => !s.hotRows.contains k) = [] := by
    rw [List.filter_eq_nil_iff]
    intro x hx
    obtain ⟨e, he, rfl⟩ := List.mem_map.mp hx
    simpa using k e he
  have hs : (s.hotRows.filter fun k => s.st.eddySent.find k != some (s.replicaValue k)) = [] := by
    rw [List.filter_eq_nil_iff]
    intro x hx
    simpa using h x hx
  unfold State.adds
  rw [State.refreshEddy_sent, hd, hs]
  exact s.sendRefresh_empty s.others

theorem State.refreshEddy_windows (s : State) : s.windows s.refreshEddy := by
  obtain ⟨n, c, e⟩ := s.refreshEddy_eq
  rw [e]
  exact State.windows_of_same rfl rfl rfl rfl

/-! ### The end of the window -/

/-- A window that has ended. -/
def State.windowDone (s : State) : State := { s with st := { s.st with windowOpen := false } }

theorem State.windowDone_windows (s : State) : s.windows s.windowDone := State.windows_of_same rfl rfl rfl rfl

/-- The window when nothing is due: it ends but for an EVAL that draws, or where it has ended the module goes on to the barriers. -/
def State.windowOn (s : State) (k : Nat) : State :=
  if s.st.windowOpen then
    if s.evalDraws then s
    else ((s.compactNow k).refreshEddy).windowDone.tryBegin
  else s.tryBegin

theorem State.windowOn_windows (s : State) (k : Nat) : s.windows (s.windowOn k) := by
  unfold State.windowOn
  split
  · split
    · exact s.windows_refl
    · refine State.windows_trans ?_ (State.windows_of_copies (State.tryBegin_copies _))
      exact State.windows_trans (State.windows_trans (s.compactNow_windows k) (State.refreshEddy_windows _)) (State.windowDone_windows _)
  · exact State.windows_of_copies s.tryBegin_copies

theorem State.tryBegin_quiet (s : State) : s.tryBegin.host = s.host ∧ s.tryBegin.st.migMap = s.st.migMap := by
  obtain ⟨b, n, c, w, u, e⟩ := s.tryBegin_eq
  rw [e]
  exact ⟨rfl, rfl⟩

/-- With no command that waits for copies the end of the window leaves the host side and the maps of rows. -/
theorem State.windowOn_quiet {s : State} (h : s.mir.waiting = []) (k : Nat) : (s.windowOn k).host = s.host ∧ (s.windowOn k).st.migMap = s.st.migMap := by
  unfold State.windowOn
  split
  · split
    · exact ⟨rfl, rfl⟩
    · obtain ⟨hh, hm⟩ := State.compactNow_quiet h k
      generalize s.compactNow k = v at hh hm
      obtain ⟨n, c, e⟩ := v.refreshEddy_eq
      obtain ⟨kh, km⟩ := v.refreshEddy.windowDone.tryBegin_quiet
      rw [e] at kh km ⊢
      exact ⟨kh.trans hh, km.trans hm⟩
  · exact s.tryBegin_quiet

/-- BOUNDARY_WINDOW of a member at a boundary: the actions that are due, then the rest of the window unless something still waits. -/
theorem exec_boundaryWindow {s : State} (hm : s.member = true) (hp : s.prog.isSome = true) (hb : s.atBoundary = true) (k : Nat) :
    exec (.boundaryWindow k) s = .next
      (if (s.applyDue s.st.acts.length).st.applied.any (·.waitAck) || (s.applyDue s.st.acts.length).st.acts.any (s.applyDue s.st.acts.length).dueAct then
        s.applyDue s.st.acts.length
      else (s.applyDue s.st.acts.length).windowOn k) := by
  rw [show exec (.boundaryWindow k) s = .next (boundaryWindow k s) from rfl, boundaryWindow, if_neg (by simp [hm, hp, hb])]
  rfl

end Sys2Proof.Machine
end

section
/-! SUPPORT. Bytes read in parts, BF16 values as FP32 masters, lists in groups, and a row flipped to its shadow slot (02 R41, R48, 07 R155, R185). -/

namespace Sys2Proof.Machine

open Sys2Proof

/-! ### Bytes and numbers read in parts -/

theorem State.read_append (s : State) (a m n : Nat) : s.read a (m + n) = s.read a m ++ s.read (a + m) n := by
  apply List.ext_getElem
  · simp
  · intro i h1 h2
    rw [getElem_bytesAt]
    by_cases hi : i < m
    · rw [List.getElem_append_left (by simpa using hi), getElem_bytesAt]
    · rw [List.getElem_append_right (by simpa using hi), getElem_bytesAt, length_bytesAt]
      congr 1
      omega

/-- A part of what is read. -/
theorem State.slice_read (s : State) {a n o k : Nat} (h : o + k ≤ n) : slice (s.read a n) o k = s.read (a + o) k := by
  obtain ⟨r, rfl⟩ := Nat.exists_eq_add_of_le h
  rw [slice, State.read_append s a (o + k) r, State.read_append s a o k, List.append_assoc, List.drop_left' (length_bytesAt _ _ _ _),
    List.take_left' (length_bytesAt _ _ _ _)]

theorem State.field_read (s : State) {a n o k : Nat} (h : o + k ≤ n) : field (s.read a n) o k = s.readNat (a + o) k :=
  congrArg leNat (s.slice_read h)

theorem leNat_lt (b : List Byte) : leNat b < 256 ^ b.length := by
  induction b with
  | nil => exact Nat.one_pos
  | cons x t ih =>
    have := x.isLt
    simp only [leNat, List.length_cons, pow_succ]
    omega

/-- A piece of equally long pieces. -/
theorem slice_flatMap {α : Type} (f : α → List Byte) {k : Nat} (l : List α) (h : ∀ x ∈ l, (f x).length = k) (i : Nat) (hi : i < l.length) :
    slice (l.flatMap f) (k * i) k = f l[i] := by
  induction l generalizing i with
  | nil => cases hi
  | cons x t ih =>
    have hx := h x List.mem_cons_self
    rw [List.flatMap_cons, slice]
    cases i with
    | zero =>
      rw [Nat.mul_zero, List.drop_zero, List.take_left' hx]
      rfl
    | succ i =>
      rw [Nat.mul_succ, Nat.add_comm, ← List.drop_drop, List.drop_left' hx]
      exact ih (fun y hy => h y (List.mem_cons_of_mem _ hy)) i (by simpa using hi)

/-! ### BF16 as FP32 -/

/-- The value of a normal code. -/
theorem Fmt.decode_normal {f : Fmt} {c : Nat} (h0 : c / 2 ^ f.fbits % 2 ^ f.ebits ≠ 0) (h1 : c / 2 ^ f.fbits % 2 ^ f.ebits ≠ f.emax) :
    f.decode c = .fin (c / f.signBit % 2 == 1) (2 ^ f.fbits + c % 2 ^ f.fbits) (((c / 2 ^ f.fbits % 2 ^ f.ebits : Nat) : Int) - f.bias - f.fbits) := by
  unfold Fmt.decode
  dsimp only
  rw [if_neg h1, if_neg h0]

/-- An eight-bit significand with a normal exponent is exact in FP32. -/
theorem fp32_round_normal (neg : Bool) {m e : Nat} (hm : m < 128) (h0 : 0 < e) (h1 : e < 255) :
    fp32.round neg (128 + m) ((e : Int) - 127 - 7) = ((if neg then 2 ^ 31 else 0) + 65536 * (128 * e + m), false) := by
  have hl : Nat.log2 (128 + m) = 7 := by
    rw [Nat.log2_eq_iff (by omega)]
    omega
  have hb : leadingBit (128 + m) ((e : Int) - 127 - 7) = e - 127 := by
    rw [leadingBit, hl]
    omega
  have ht : max ((e : Int) - 127) (1 - (127 : Nat)) = e - 127 := by omega
  have hk : inUnits (128 + m) ((e : Int) - 127 - 7) ((e : Int) - 127 - (23 : Nat)) = (128 + m) * 65536 := by
    rw [inUnits, if_pos (by omega), show ((e : Int) - 127 - 7 - ((e : Int) - 127 - (23 : Nat))).toNat = 16 by omega]
    norm_num
  have hc : ((e : Int) - 127 - (1 - (127 : Nat))).toNat * 2 ^ 23 + (128 + m) * 65536 = 65536 * (128 * e + m) := by
    rw [show ((e : Int) - 127 - (1 - (127 : Nat))).toNat = e - 1 by omega]
    omega
  unfold Fmt.round
  rw [if_neg (by omega), hb]
  simp only [fp32, Fmt.emax, Fmt.zero, Fmt.signBit, ht, hk, hc]
  rw [if_neg (by omega)]

/-- A normal BF16 code is an FP32 code with its fraction filled up with zeros. -/
theorem fp32_ofVal_bf16 {c : Nat} (hc : c < 65536) (h0 : 0 < bits c 7 8) (h1 : bits c 7 8 < 255) : (fp32.ofVal (bf16.decode c)).1 = 65536 * c := by
  have hd : bf16.decode c = .fin (c / 2 ^ 15 % 2 == 1) (128 + c % 128) (((c / 2 ^ 7 % 2 ^ 8 : Nat) : Int) - 127 - 7) :=
    Fmt.decode_normal (Nat.pos_iff_ne_zero.mp h0) (Nat.ne_of_lt h1)
  have hr := fp32_round_normal (c / 2 ^ 15 % 2 == 1) (Nat.mod_lt c (by decide : 128 > 0)) h0 h1
  rw [hd]
  show (fp32.round _ _ _).1 = _
  rw [show ((c / 2 ^ 7 % 2 ^ 8 : Nat) : Int) = (bits c 7 8 : Nat) from rfl, hr]
  simp only [bits, beq_iff_eq]
  split <;> omega

/-! ### Lists in groups -/

theorem exists_chunksOf {α : Type} {n : Nat} (hn : 0 < n) {x : α} (fuel : Nat) {l : List α} (hl : l.length ≤ fuel) (hx : x ∈ l) :
    ∃ g ∈ chunksOf n fuel l, x ∈ g := by
  induction fuel generalizing l with
  | zero =>
    rw [List.length_eq_zero_iff.mp (Nat.le_zero.mp hl)] at hx
    cases hx
  | succ fuel ih =>
    have hp : 0 < l.length := List.length_pos_of_mem hx
    rw [chunksOf, if_neg (by simpa using List.ne_nil_of_mem hx)]
    rw [← List.take_append_drop n l] at hx
    rcases List.mem_append.mp hx with hx | hx
    · exact ⟨_, List.mem_cons_self, hx⟩
    · obtain ⟨g, hg, hx⟩ := ih (by rw [List.length_drop]; omega) hx
      exact ⟨g, List.mem_cons_of_mem _ hg, hx⟩

theorem exists_groupsOf {α : Type} {n : Nat} (hn : 0 < n) {x : α} {l : List α} (hx : x ∈ l) : ∃ g ∈ groupsOf n l, x ∈ g :=
  exists_chunksOf hn l.length (Nat.le_refl _) hx

/-! ### Ranges that do not overlap -/

theorem overlaps_comm (x y : Region) : overlaps x y = overlaps y x := by
  rw [Bool.eq_iff_iff]
  simp only [overlaps, Bool.and_eq_true, bne_iff_ne, decide_eq_true_eq]
  tauto

/-- The range of a run of bytes. -/
def runRegion (q : Nat × List Byte) : Region := { base := q.1, len := q.2.length }

/-- Runs stored in ranges that do not overlap stand as they were stored. -/
theorem State.read_writeAll_of_pairwise (s : State) {l : List (Nat × List Byte)} (h : l.Pairwise fun x y => overlaps (runRegion x) (runRegion y) = false)
    {q : Nat × List Byte} (hq : q ∈ l) : (s.writeAll l).read q.1 q.2.length = q.2 := by
  obtain ⟨k, rest, rfl⟩ := List.append_of_mem hq
  exact State.read_writeAll fun y hy => (List.pairwise_cons.mp (List.pairwise_append.mp h).2.1).1 y hy

/-! ### A row flipped to its shadow slot -/

/-- The master elements of a row, one after another. -/
theorem State.length_mastersFrom (s : State) (row : List Byte) (width : Nat) : (s.mastersFrom row width).length = s.masterBytes * width := by
  have sum : ∀ (f : Nat → List Byte) (k : Nat) (l : List Nat), (∀ c, (f c).length = k) → (l.flatMap f).length = k * l.length := fun f k l h => by
    induction l with
    | nil => rfl
    | cons x t ih => rw [List.flatMap_cons, List.length_append, h, ih, List.length_cons]; ring
  have hw : (elemCodes 1 row width).length = width := by simp [elemCodes]
  unfold State.mastersFrom State.masterBytes
  cases s.t7
  · exact (sum _ 6 _ fun c => by simp).trans (by rw [hw]; rfl)
  · exact (sum _ 4 _ fun c => by simp).trans (by rw [hw]; rfl)

/-- In T7-exact mode a master element is the FP32 code of its BF16 element. -/
theorem State.slice_mastersFrom {s : State} (h : s.t7 = true) (row : List Byte) {width i : Nat} (hi : i < width) :
    slice (s.mastersFrom row width) (4 * i) 4 = leBytes 4 (fp32.ofVal (bf16.decode (field row (2 * i) 2))).1 := by
  have hl : i < (elemCodes 1 row width).length := by simpa [elemCodes] using hi
  unfold State.mastersFrom
  simp only [h, if_true]
  rw [slice_flatMap (fun c => leBytes 4 (fp32.ofVal (bf16.decode c)).1) _ (fun _ _ => length_leBytes _ _) i hl]
  have hc : (elemCodes 1 row width)[i] = field row (2 * i) 2 := by
    simp only [elemCodes, List.getElem_map, List.getElem_range]
    show field row (i * 2) 2 = _
    rw [Nat.mul_comm]
  rw [hc]

/-- What a flip stores: the directory entry, and for a trained row its master and moments. -/
def State.flipWrites (s : State) (td : TableDecl) (tab row slot : Nat) : List (Nat × List Byte) :=
  (s.dirAddr tab row, leBytes 6 slot ++ leBytes 2 ((s.versionOf tab row + 1) % 65536)) ::
    if td.train then [((s.masterOf tab row).base, s.mastersFrom (s.read slot (tabRowBytes td)) td.width),
      ((s.momentsOf tab row).base, zeros (s.momentsOf tab row).len)] else []

/-- A trained row's master and moments stored, and its agreed scales dropped. -/
theorem State.writes_dropScales (v : State) (a b : Nat × List Byte) (k : Nat) : ∃ g, ((v.write a.1 a.2).write b.1 b.2).dropScales k =
    { v with mem := (v.writeAll [a, b]).mem, st := { v.st with agreed := g } } := ⟨_, rfl⟩

/-- A flip changes memory, the table's shadow slots and the agreed scales. -/
theorem State.flipRow_eq {s : State} {td : TableDecl} {tab row slot : Nat}
    (h : overlaps { base := slot, len := tabRowBytes td } { base := s.dirAddr tab row, len := 8 } = false) : ∃ f g,
    s.flipRow td tab row slot = { s with mem := (s.writeAll (s.flipWrites td tab row slot)).mem, st := { s.st with shadow := f, agreed := g } } := by
  have hs : (s.setDir tab row slot ((s.versionOf tab row + 1) % 65536)).read slot (tabRowBytes td) = s.read slot (tabRowBytes td) :=
    State.read_write_disjoint (b := leBytes 6 slot ++ leBytes 2 ((s.versionOf tab row + 1) % 65536)) (by simpa using h)
  have hd : ∃ v f, (s.setDir tab row slot ((s.versionOf tab row + 1) % 65536)).freeSlots tab [s.slotOf tab row] = v ∧
      v = { s with mem := (s.setDir tab row slot ((s.versionOf tab row + 1) % 65536)).mem, st := { s.st with shadow := f } } := ⟨_, _, rfl, rfl⟩
  obtain ⟨v, f, hd, e⟩ := hd
  have hr : v.read slot (tabRowBytes td) = s.read slot (tabRowBytes td) := by rw [e]; exact hs
  have hk : v.masterOf tab row = s.masterOf tab row ∧ v.momentsOf tab row = s.momentsOf tab row ∧
      v.mastersFrom (s.read slot (tabRowBytes td)) td.width = s.mastersFrom (s.read slot (tabRowBytes td)) td.width := by
    rw [e]
    exact ⟨rfl, rfl, rfl⟩
  obtain ⟨hm, ho, hx⟩ := hk
  have hw : ∀ l, (v.writeAll l).mem = ((s.setDir tab row slot ((s.versionOf tab row + 1) % 65536)).writeAll l).mem := fun l =>
    State.writeAll_mem_congr (by rw [e])
  unfold State.flipRow State.flipWrites
  rw [State.writeAll_cons]
  dsimp only
  rw [hd]
  split
  · rw [hr, hm, ho, hx]
    obtain ⟨g, e'⟩ := v.writes_dropScales ((s.masterOf tab row).base, s.mastersFrom (s.read slot (tabRowBytes td)) td.width)
      ((s.momentsOf tab row).base, zeros (s.momentsOf tab row).len) (rowKey tab row)
    refine ⟨f, g, e'.trans ?_⟩
    rw [hw, e]
    rfl
  · exact ⟨f, s.st.agreed, e⟩

end Sys2Proof.Machine
end

section
/-! PROOFS. The boundary window: the actions that fall due, compaction, the Eddy refresh, and the retention record (01 R25, R29, 06 R135, 07 R172-R185). -/

namespace Sys2Proof.Machine

open Sys2Proof

/-! ### What falls due -/

/-- While an applied action waits to be acknowledged nothing is applied. -/
theorem State.applyDue_waits {s : State} (h : ∃ a ∈ s.st.applied, a.waitAck = true) (n : Nat) : s.applyDue n = s := by
  have : s.st.applied.any (·.waitAck) = true := List.any_eq_true.mpr h
  cases n <;> simp [State.applyDue, this]

/-- Without an action that is due nothing is applied. -/
theorem State.applyDue_none {s : State} (h : ∀ a ∈ s.st.acts, s.dueAct a = false) (n : Nat) : s.applyDue n = s := by
  have hn : s.nextAct = none := by
    have : s.st.acts.filter s.dueAct = [] := List.filter_eq_nil_iff.mpr fun a ha => by simp [h a ha]
    rw [State.nextAct, this]
    rfl
  cases n <;> simp [State.applyDue, hn]

/-- One action that is due comes to its turn. -/
theorem State.applyDue_one {s : State} {a : Act} (hw : ∀ x ∈ s.st.applied, x.waitAck = false) (hr : s.st.reserving = none) (ha : s.st.acts = [a])
    (hd : s.dueAct a = true) (hx : (a.kind == 1 && s.evalDraws) = false) : s.applyDue s.st.acts.length = s.turn a := by
  have hn : s.nextAct = some a := by
    rw [State.nextAct, ha, List.filter_cons_of_pos hd]
    rfl
  have hv : s.st.applied.any (·.waitAck) = false := by simpa using hw
  rw [ha]
  show s.applyDue 1 = _
  simp [State.applyDue, hv, hr, hn, hx]

/-- BOUNDARY_WINDOW with one action due: its turn, and then what is left of the window unless something waits. -/
theorem exec_boundaryWindow_one {s : State} {a : Act} (hm : s.member = true) (hp : s.prog.isSome = true) (hb : s.atBoundary = true) (k : Nat)
    (hw : ∀ x ∈ s.st.applied, x.waitAck = false) (hr : s.st.reserving = none) (ha : s.st.acts = [a]) (hd : s.dueAct a = true)
    (hx : (a.kind == 1 && s.evalDraws) = false) : ∃ t, exec (.boundaryWindow k) s = .next t ∧ (s.turn a).windows t ∧
      ((s.turn a).st.applied.any (·.waitAck) = true ∨ (s.turn a).st.acts.any (s.turn a).dueAct = true → t = s.turn a) ∧
      ((s.turn a).mir.waiting = [] → t.st.migMap = (s.turn a).st.migMap) := by
  have he := exec_boundaryWindow hm hp hb k
  rw [State.applyDue_one hw hr ha hd hx] at he
  generalize s.turn a = u at he
  refine ⟨_, he, ?_⟩
  split
  · exact ⟨u.windows_refl, fun _ => rfl, fun _ => rfl⟩
  · next h => exact ⟨u.windowOn_windows k, fun h' => absurd (by simpa using h') h, fun h' => (State.windowOn_quiet h' k).2⟩

/-! ### Nothing is due -/

/-- What the end of the window leaves. -/
theorem State.windows_kept {s t : State} (h : s.windows t) : t.st.stepNo = s.st.stepNo ∧ t.st.committed = s.st.committed ∧ t.st.acts = s.st.acts ∧
    t.st.epoch = s.st.epoch ∧ t.st.localVer = s.st.localVer ∧ t.others = s.others ∧ t.tailRegion = s.tailRegion ∧ (s.live = true → t.live = true) := by
  obtain ⟨h, -, -, -, hm⟩ := h
  have hon : t.on = s.on := show (t.windowAs s).on = s.on from congrArg _ h
  refine ⟨congrArg (·.st.stepNo) h, congrArg (·.st.committed) h, congrArg (·.st.acts) h, congrArg (·.st.epoch) h, congrArg (·.st.localVer) h,
    show (t.windowAs s).others = s.others from congrArg _ h, show (t.windowAs s).tailRegion = s.tailRegion from congrArg _ h, fun hl => ?_⟩
  unfold State.live at hl ⊢
  rw [hon]
  rcases hm with hm | hm <;> rw [hm]
  · exact hl
  · simp only [Bool.and_eq_true] at hl
    simp [hl.1.1]

theorem State.refreshes_mono {P Q : Msg → Prop} {s s' t t' : State} {o : Nat} {r : List Byte} (h : s.adds P s') (k : t.adds Q t') (e : s'.refreshes t o r) :
    s.refreshes t' o r := by
  obtain ⟨x, hx, he⟩ := e
  exact ⟨x, State.sent_mono h k hx, he⟩

/-- Compaction: the runs relocated, and device memory as they leave it but for the committed values. -/
theorem State.compactNow_spec {s u v : State} {d : Decl} {k : Nat} {runs : List Nat} (hd : s.decl = some d)
    (hc : s.compact d (ownedNodes d s.ranks s.rank) (s.relocations k) = (u, runs)) (hv : v = s.compactNow k) :
    (runs = [] → v = u) ∧ u.outside v [s.tailRegion] ∧ runs.Sublist (ownedNodes d s.ranks s.rank) ∧ runs.length ≤ s.relocations k := by
  obtain ⟨hs, h1, h2⟩ := s.compact_spec d (ownedNodes d s.ranks s.rank) (s.relocations k)
  rw [hc] at hs h1 h2
  rw [State.compactNow_eq hd hc] at hv
  refine ⟨fun h => by rw [hv, if_pos h], ?_, h1, h2⟩
  have ht : u.tailRegion = s.tailRegion := by
    obtain ⟨m, c, e⟩ := (State.storesOnly_iff _ _).mp hs
    rw [show u = _ from e]
    rfl
  split at hv
  · subst hv
    exact fun _ _ => rfl
  · obtain ⟨w, hw, ⟨he, -⟩⟩ := State.copyBoundary_from { u with st := { u.st with compacted := true } } (runs.flatMap u.nodeRegions) []
    rw [← hv] at he
    have hm : v.mem = w.mem := show (v.copiesAs w).mem = w.mem from congrArg _ he
    intro a ha
    rw [State.byte, hm]
    rcases hw with rfl | rfl
    · rfl
    · refine State.byte_write_outside _ _ _ a ?_
      rw [State.carriedBytes, length_fit]
      exact ht ▸ ha _ (List.mem_singleton_self _)

section
variable {s : State} (k : Nat)

section
variable (hm : s.member = true) (hp : s.prog.isSome = true) (hb : s.atBoundary = true)
include hm hp hb

theorem boundaryWindow_unacked (h : ∃ a ∈ s.st.applied, a.waitAck = true) : exec (.boundaryWindow k) s = .next s := by
  have hv : s.st.applied.any (·.waitAck) = true := List.any_eq_true.mpr h
  rw [exec_boundaryWindow hm hp hb, State.applyDue_waits h, hv]
  rfl

theorem boundaryWindow_idle (hw : ∀ a ∈ s.st.applied, a.waitAck = false) (hn : ∀ a ∈ s.st.acts, s.dueAct a = false) :
    exec (.boundaryWindow k) s = .next (s.windowOn k) := by
  have hv : (s.st.applied.any (·.waitAck) || s.st.acts.any s.dueAct) = false := by simpa using ⟨hw, hn⟩
  rw [exec_boundaryWindow hm hp hb, State.applyDue_none hn, hv]
  rfl

end

/-- The window ends: compaction, and then the Eddy refresh. -/
theorem windowOn_ends (hm : s.member = true) (ho : s.st.windowOpen = true) (he : s.evalDraws = false) {t : State} (ht : t = s.windowOn k) :
    t.st.windowOpen = false ∧ t.st.stepNo = s.st.stepNo ∧ t.st.committed = s.st.committed ∧ t.st.acts = s.st.acts ∧
    (s.mir.waiting = [] → t.host = s.host) ∧ ∀ d u runs v, s.decl = some d → s.compact d (ownedNodes d s.ranks s.rank) (s.relocations k) = (u, runs) →
      v = s.compactNow k → t.mem = v.mem ∧ (runs = [] → v = u) ∧ u.outside v [s.tailRegion] ∧
        runs.Sublist ((ownedNodes d s.ranks s.rank)) ∧ runs.length ≤ s.relocations k ∧
        ∀ o ∈ s.others, (o, 1) ∈ t.st.eddyAcks ∧
          (∀ x ∈ v.hotRows, v.st.eddySent.find x ≠ some (v.replicaValue x) → s.refreshes t o (refreshRecord x (v.replicaValue x))) ∧
          (∀ x ∈ v.st.eddySent, x.1 ∉ v.hotRows → s.refreshes t o (lookupRecord x.1 false)) ∧
          ((∀ x ∈ v.hotRows, v.st.eddySent.find x = some (v.replicaValue x)) → (∀ x ∈ v.st.eddySent, x.1 ∈ v.hotRows) →
            ∀ y ∈ t.net.sent.drop s.net.sent.length, y.typ = 5 → y.body.length = 16) := by
  obtain ⟨k1, k2, k3, -⟩ := State.windows_kept (ht ▸ s.windowOn_windows k)
  have hq : s.mir.waiting = [] → t.host = s.host := fun h => ht ▸ (State.windowOn_quiet h k).1
  rw [State.windowOn, if_pos ho, if_neg (by simp [he])] at ht
  have hvw := s.compactNow_windows k
  have hva := s.compactNow_adds k
  generalize hv : s.compactNow k = v at ht hvw hva
  obtain ⟨-, -, -, -, -, vo, -, vl⟩ := State.windows_kept hvw
  obtain ⟨n, c, e⟩ := v.refreshEddy_eq
  have hd := (State.tryBegin_copies v.refreshEddy.windowDone).2.1.2.2
  have hend : v.refreshEddy.adds (fun y => y.typ ≠ 5) t := ht ▸ hd
  obtain ⟨b, n', c', w, x, e'⟩ := v.refreshEddy.windowDone.tryBegin_eq
  have hts : t.st.windowOpen = false ∧ t.mem = v.mem ∧ t.st.eddyAcks = v.st.eddyAcks ++ v.others.map fun o => (o, 1) := by
    rw [ht, e', e]
    exact ⟨rfl, rfl, rfl⟩
  obtain ⟨tw, tm, ta⟩ := hts
  refine ⟨tw, k1, k2, k3, hq, fun d u runs v' hd hc hv' => ?_⟩
  obtain ⟨c1, c2, c3, c4⟩ := State.compactNow_spec hd hc (hv'.trans hv.symm)
  subst hv'
  refine ⟨tm, c1, c2, c3, c4, fun o ho => ?_⟩
  obtain ⟨s1, s2⟩ := State.refreshEddy_sends (vl (State.live_of_member hm)) (vo ▸ ho)
  refine ⟨?_, fun x hx hn => State.refreshes_mono hva hend (s1 x hx hn), fun x hx hn => State.refreshes_mono hva hend (s2 x hx hn), fun h1 h2 y hy => ?_⟩
  · rw [ta, vo]
    exact List.mem_append_right _ (List.mem_map_of_mem ho)
  · exact State.adds_mem (State.adds_trans (State.adds_mono hva fun y h h' => absurd h' h)
      (State.adds_trans (State.refreshEddy_empty h1 h2) (State.adds_mono hend fun y h h' => absurd h' h))) hy

/-- Where the window has ended before, the module goes on to the barriers. -/
theorem windowOn_ended (ho : s.st.windowOpen = false) {t : State} (ht : t = s.windowOn k) :
    t.st.windowOpen = false ∧ t.st.stepNo = s.st.stepNo ∧ s.storesSame t ∧ t.host = s.host := by
  rw [State.windowOn, if_neg (by simp [ho])] at ht
  obtain ⟨b, n, c, w, u, e⟩ := s.tryBegin_eq
  rw [ht, e]
  exact ⟨ho, rfl, ⟨rfl, rfl, rfl, rfl, rfl⟩, rfl⟩

end

/-! ### INGEST at its turn -/

/-- The same state with another list of pending actions. -/
def State.withActs (s : State) (l : List Act) : State := { s with st := { s.st with acts := l } }

section
variable (s : State) (l : List Act) (d : Decl)

theorem State.write_withActs (a : Nat) (b : List Byte) : (s.withActs l).write a b = (s.write a b).withActs l := rfl
theorem State.count_withActs (c n : Nat) : (s.withActs l).count c n = (s.count c n).withActs l := rfl
theorem State.setEntry_withActs (n : Nat) (r : RunEntry) : (s.withActs l).setEntry n r = (s.setEntry n r).withActs l := rfl
theorem State.putRecords_withActs (r : RunEntry) (es : List Edge) : (s.withActs l).putRecords r es = (s.putRecords r es).withActs l := rfl
theorem State.entry_withActs (n : Nat) : (s.withActs l).entry n = s.entry n := rfl
theorem State.runRecords_withActs (r : RunEntry) : (s.withActs l).runRecords r = s.runRecords r := rfl
theorem State.graphFit_withActs (n align : Nat) : (s.withActs l).graphFit d n align = s.graphFit d n align := rfl

theorem State.relocate_withActs (n : Nat) : (s.withActs l).relocate d n = (s.relocate d n).map (·.withActs l) := by
  simp only [State.relocate, State.entry_withActs, State.runRecords_withActs, State.graphFit_withActs, State.setEntry_withActs, State.putRecords_withActs,
    Option.map_map]
  rfl

theorem State.rebuildAlias_withActs (n : Nat) : (s.withActs l).rebuildAlias d n = (s.rebuildAlias d n).map (·.withActs l) := by
  simp only [State.rebuildAlias, State.entry_withActs, State.runRecords_withActs, State.setEntry_withActs, State.graphFit_withActs, State.write_withActs]
  by_cases h : (!hasWeighted d || (liveRecords (s.runRecords (s.entry n))).isEmpty) = true
  · simp only [h, if_true, Option.map_some]
  · simp only [h, Bool.false_eq_true, if_false, Option.map_map]
    rfl

theorem State.rebuildAll_withActs (ns : List Nat) : (s.withActs l).rebuildAll d ns = (s.rebuildAll d ns).map (·.withActs l) := by
  induction ns generalizing s with
  | nil => rfl
  | cons n t ih =>
    rw [State.rebuildAll, State.rebuildAll, State.rebuildAlias_withActs]
    cases s.rebuildAlias d n with
    | none => rfl
    | some u => exact ih u

/-- Room for an INSERT: the run as it is, allocated or relocated. -/
def State.insertRoom (s : State) (d : Decl) (r : IngestRec) : Option State :=
  if (s.entry r.src).cap = 0 then s.relocate d r.src
  else if (s.entry r.src).len = (s.entry r.src).cap then (s.relocate d r.src).map fun t => t.count cIngestRelocate 1
  else some s

/-- The record put into its run. -/
def State.inserted (t : State) (r : IngestRec) : State :=
  State.count (State.setEntry (t.putRecords (t.entry r.src) (insertEdge r.edge (t.runRecords (t.entry r.src)))) r.src
    { t.entry r.src with len := (t.entry r.src).len + 1, live := (t.entry r.src).live + 1 }) cIngestRecords 1

theorem State.insertOne_eq (r : IngestRec) : s.insertOne d r = (s.insertRoom d r).map (·.inserted r) := rfl

theorem State.inserted_withActs (r : IngestRec) : (s.withActs l).inserted r = (s.inserted r).withActs l := by
  rw [State.inserted, State.entry_withActs, State.runRecords_withActs, State.putRecords_withActs, State.setEntry_withActs, State.count_withActs]
  rfl

theorem State.insertRoom_withActs (r : IngestRec) : (s.withActs l).insertRoom d r = (s.insertRoom d r).map (·.withActs l) := by
  unfold State.insertRoom
  rw [State.entry_withActs, State.relocate_withActs]
  generalize s.relocate d r.src = o
  split
  · rfl
  · split
    · cases o <;> rfl
    · rfl

theorem State.insertOne_withActs (r : IngestRec) : (s.withActs l).insertOne d r = (s.insertOne d r).map (·.withActs l) := by
  rw [State.insertOne_eq, State.insertOne_eq, State.insertRoom_withActs, Option.map_map, Option.map_map]
  exact Option.map_congr fun u _ => u.inserted_withActs l r

theorem State.deleteOne_withActs (r : IngestRec) : (s.withActs l).deleteOne r = (s.deleteOne r).withActs l := by
  simp only [State.deleteOne, State.entry_withActs, State.runRecords_withActs, State.putRecords_withActs, State.setEntry_withActs, State.count_withActs]
  split <;> rfl

theorem State.ingestAll_withActs (rs : List IngestRec) : (s.withActs l).ingestAll d rs = (s.ingestAll d rs).map (·.withActs l) := by
  induction rs generalizing s with
  | nil => rfl
  | cons r t ih =>
    rw [State.ingestAll, State.ingestAll, State.insertOne_withActs, State.deleteOne_withActs]
    split
    · cases s.insertOne d r with
      | none => rfl
      | some u => exact ih u
    · exact ih (s.deleteOne r)

/-- Whether a batch can be applied does not depend on the actions that are pending. -/
theorem State.applyIngest_withActs (b : List Byte) : (s.withActs l).applyIngest b = (s.applyIngest b).map fun r => (r.1.withActs l, r.2) := by
  have hd : (s.withActs l).decl = s.decl := rfl
  unfold State.applyIngest
  rw [hd]
  cases s.decl with
  | none => rfl
  | some d =>
    dsimp only
    rw [show (s.withActs l).ingestCheck d = s.ingestCheck d from rfl, State.ingestAll_withActs]
    cases s.ingestCheck d (ingestRecords b) with
    | some x => rfl
    | none =>
      cases s.ingestAll d (ingestRecords b) with
      | none => rfl
      | some u =>
        simp only [Option.map_some, State.entry_withActs, State.runRecords_withActs, State.rebuildAll_withActs]
        rw [show (u.withActs l).tsOk = u.tsOk from rfl]
        split
        · rfl
        · generalize State.rebuildAll _ _ _ = w
          cases w <;> rfl

end

theorem State.takeOff_one {s : State} {a : Act} (h : s.st.acts = [a]) : s.takeOff a = s.withActs [] := by
  rw [State.takeOff, h, List.erase_cons_head]
  rfl

/-- An action applied stands among those applied, and its copies have been sent. -/
theorem State.appliedAct_spec (s : State) (a : Act) (touched : List Region) (info : Nat) :
    (s.appliedAct a touched info).st.epoch = s.st.epoch ∧ (s.appliedAct a touched info).st.acts = s.st.acts ∧
    (s.appliedAct a touched info).st.localVer = s.st.localVer ∧
    ∃ y ∈ (s.appliedAct a touched info).st.applied, y.rested = Act.rested { a with info := info } := by
  have hw := State.copyBoundary_windows { s with st := { s.st with
    windowOpen := true
    applied := s.st.applied ++ [{ a with waitAck := true, info := info }] } } touched [(a.ring, info, s.st.stepNo)]
  obtain ⟨-, -, h1, h2, h3, -⟩ := State.windows_kept hw
  obtain ⟨y, hy, he⟩ := State.applied_windows hw (x := { a with waitAck := true, info := info }) (List.mem_append_right _ (List.mem_singleton_self _))
  exact ⟨h2, h1, h3, y, hy, he⟩

/-- An action refused at its turn has ended, and nothing but the host side has changed. -/
theorem State.refuseAct_spec (s : State) (a : Act) (x : Status) : (∃ h m, s.refuseAct a x = { s with host := h, ms := { s.ms with st := m } }) ∧
    ((s.ring a.ring).busy.isSome = true → s.ended a.ring { status := x, step := s.st.stepNo } (s.refuseAct a x)) :=
  ⟨s.complete_eq _ _, State.complete_ended rfl⟩

/-! ### Rooms asked for -/

/-- Messages sent to a list of members, one member after another. -/
theorem State.sendMoves_eq (s : State) (dsts : List Nat) (f : Nat → List Msg) : s.sendMoves dsts f = s.sendMsgs (dsts.flatMap f) := by
  rw [State.sendMoves, State.sendMsgs, List.foldl_flatMap]

theorem mem_distinct {l : List Nat} {x : Nat} : x ∈ distinct l ↔ x ∈ l := by
  have fold : ∀ (l a : List Nat), x ∈ l.foldl (fun a x => if a.contains x then a else x :: a) a ↔ x ∈ a ∨ x ∈ l := fun l => by
    induction l with
    | nil => simp
    | cons y t ih =>
      intro a
      rw [List.foldl_cons, ih, List.mem_cons]
      split
      · next h =>
        have hy : y ∈ a := by simpa using h
        constructor
        · tauto
        · rintro (h | rfl | h)
          · exact .inl h
          · exact .inl hy
          · exact .inr h
      · rw [List.mem_cons]
        tauto
  rw [distinct, List.mem_reverse, fold]
  simp

/-- A row that is to move is in a message to its destination that asks for room. -/
theorem exists_roomMsgs {rs : List MigRec} {r : MigRec} (h : r ∈ rs) : r.dst ∈ destinations rs ∧ ∃ m ∈ roomMsgs rs r.dst,
    m.typ = 1 ∧ m.opc = 5 ∧ m.vc = 0 ∧ m.dst = r.dst ∧ m.resp = false ∧ field m.body 8 8 = 4 ∧ ∃ u v, m.body.drop 16 = u ++ migBytes r ++ v := by
  obtain ⟨g, hg, hr⟩ := exists_groupsOf (n := 8000) (by decide) (List.mem_filter (p := fun x : MigRec => x.dst == r.dst).mpr ⟨h, beq_self_eq_true r.dst⟩)
  refine ⟨mem_distinct.mpr (List.mem_map_of_mem h), _, List.mem_map.mpr ⟨g, hg, rfl⟩, rfl, rfl, rfl, rfl, rfl, ?_, ?_⟩
  · show leNat (((leBytes 8 (r.dst * 2 ^ 48) ++ leBytes 8 4 ++ g.flatMap migBytes).drop 8).take 8) = 4
    rw [List.append_assoc, List.drop_left' (length_leBytes _ _), List.take_left' (length_leBytes _ _)]
    rfl
  · obtain ⟨l, l', rfl⟩ := List.append_of_mem hr
    refine ⟨l.flatMap migBytes, l'.flatMap migBytes, ?_⟩
    show (leBytes 8 (r.dst * 2 ^ 48) ++ leBytes 8 4 ++ (l ++ r :: l').flatMap migBytes).drop 16 = _
    rw [List.drop_left' (by simp), List.flatMap_append, List.flatMap_cons, List.append_assoc]

/-- A MIGRATE that moves rows asks for room for them, and no more. -/
theorem State.turnMigrate_asks {s : State} {a : Act} (h : s.migrateCheck (migRecs a.payload) = none) (hn : s.moving a.payload ≠ []) :
    ∃ n c, s.turnMigrate a = { s with net := n, ctr := c, st := { s.st with
        reserving := some a
        reserveWait := (destinations (s.moving a.payload)).flatMap fun o => (roomMsgs (s.moving a.payload) o).map fun _ => o
        reserveBad := false } } ∧
      (s.live = true → ∀ m ∈ (destinations (s.moving a.payload)).flatMap (roomMsgs (s.moving a.payload)), s.emits (s.turnMigrate a) m) := by
  unfold State.turnMigrate
  rw [h]
  dsimp only
  rw [if_neg hn, State.sendMoves_eq]
  generalize hv : State.mk _ _ _ _ _ _ _ _ _ _ _ _ _ _ _ _ _ _ _ _ _ _ _ _ _ _ = v
  obtain ⟨n, c, e⟩ := v.sendMsgs_eq ((destinations (s.moving a.payload)).flatMap (roomMsgs (s.moving a.payload)))
  refine ⟨n, c, ?_, fun hl m hm => ?_⟩
  · rw [e, ← hv]
  · have hs : s.adds (fun _ => True) v := State.adds_of_same (by rw [← hv])
    have hl' : v.live = true := by
      rw [← hv]
      exact hl
    exact State.emits_mono hs (State.adds_of_same (P := fun _ => True) rfl) (State.sendMsgs_emits hl' hm)

/-! ### INGEST and MIGRATE at their turn -/

section
variable {s : State} {a : Act} (hm : s.member = true) (hp : s.prog.isSome = true) (hb : s.atBoundary = true) (k : Nat)
  (hw : ∀ x ∈ s.st.applied, x.waitAck = false) (hr : s.st.reserving = none) (ha : s.st.acts = [a]) (hd : s.dueAct a = true)
include hm hp hb hw hr ha hd

/-- INGEST at its turn is refused, or applied. -/
theorem boundaryWindow_ingest (hk : a.kind = 1) (he : s.evalDraws = false) :
    (∀ x, s.applyIngest a.payload = .error x → (s.ring a.ring).busy.isSome = true →
      ∃ t, exec (.boundaryWindow k) s = .next t ∧ s.ended a.ring { status := x, step := s.st.stepNo } t ∧ t.st.acts = [] ∧ t.st.epoch = s.st.epoch) ∧
    (∀ r, s.applyIngest a.payload = .ok r → ∃ t, exec (.boundaryWindow k) s = .next t ∧ t.st.epoch = (s.st.epoch + 1) % 2 ^ 64 ∧ t.st.acts = [] ∧
      ∃ x ∈ t.st.applied, x.ring = a.ring ∧ x.kind = 1 ∧ x.payload = a.payload) := by
  obtain ⟨t, ht, hwin, -⟩ := exec_boundaryWindow_one hm hp hb k hw hr ha hd (by simp [he])
  obtain ⟨-, -, k1, k2, -⟩ := State.windows_kept hwin
  have hi := s.applyIngest_withActs [] a.payload
  have turn : s.turn a = (s.withActs []).turnIngest a := by
    rw [State.turn, hk, ← State.takeOff_one ha]
    rfl
  refine ⟨fun x hx hbusy => ⟨t, ht, ?_⟩, fun r hx => ⟨t, ht, ?_⟩⟩ <;> rw [hx] at hi
  · have hu : s.turn a = (s.withActs []).refuseAct a x := by
      rw [turn, State.turnIngest, hi]
      rfl
    obtain ⟨⟨h, m, e⟩, hend⟩ := (s.withActs []).refuseAct_spec a x
    rw [hu] at hwin k1 k2
    refine ⟨State.ended_windows (State.ended_of_ring (s' := s.withActs []) rfl (hend hbusy)) hwin, ?_, ?_⟩
    · rw [k1, e]
      rfl
    · rw [k2, e]
      rfl
  · have hu : s.turn a = (r.1.withActs []).startRunning.appliedAct a r.2 (r.1.withActs []).st.epoch := by
      rw [turn, State.turnIngest, hi]
      rfl
    obtain ⟨m, c, er⟩ := State.applyIngest_eq hx
    obtain ⟨h, q, es⟩ := (r.1.withActs []).startRunning_eq
    obtain ⟨a1, a2, -, y, hy, hyr⟩ := (r.1.withActs []).startRunning.appliedAct_spec a r.2 (r.1.withActs []).st.epoch
    rw [hu] at hwin k1 k2
    obtain ⟨z, hz, hzr⟩ := State.applied_windows hwin hy
    refine ⟨?_, ?_, z, hz, ?_⟩
    · rw [k2, a1, es, er]
      rfl
    · rw [k1, a2, es]
      rfl
    · have hz' : z.rested = Act.rested { a with info := (r.1.withActs []).st.epoch } := hzr.trans hyr
      exact ⟨show z.rested.ring = _ by rw [hz']; rfl, show z.rested.kind = _ by rw [hz']; exact hk, show z.rested.payload = _ by rw [hz']; rfl⟩

/-- MIGRATE at its turn is refused, or asks each destination for room. -/
theorem boundaryWindow_migrate (hk : a.kind = 2) :
    (∀ x, s.migrateCheck (migRecs a.payload) = some x → (s.ring a.ring).busy.isSome = true →
      ∃ t, exec (.boundaryWindow k) s = .next t ∧ s.ended a.ring { status := x, step := s.st.stepNo } t ∧ t.st.acts = [] ∧
        (s.mir.waiting = [] → t.st.migMap = s.st.migMap)) ∧
    (s.migrateCheck (migRecs a.payload) = none → s.moving a.payload ≠ [] → ∃ t, exec (.boundaryWindow k) s = .next t ∧ t.st.acts = [a] ∧
      t.st.reserving = some a ∧ t.st.windowOpen = s.st.windowOpen ∧ s.asksRoom a.payload t) := by
  obtain ⟨t, ht, hwin, hstay, hquiet⟩ := exec_boundaryWindow_one hm hp hb k hw hr ha hd (by simp [hk])
  obtain ⟨-, -, k1, -⟩ := State.windows_kept hwin
  have turn : s.turn a = s.turnMigrate a := by
    rw [State.turn, hk]
    rfl
  refine ⟨fun x hx hbusy => ⟨t, ht, ?_⟩, fun hx hne => ⟨t, ht, ?_⟩⟩
  · have hu : s.turn a = (s.withActs []).refuseAct a x := by rw [turn, State.turnMigrate, hx, State.takeOff_one ha]
    obtain ⟨⟨h, m, e⟩, hend⟩ := (s.withActs []).refuseAct_spec a x
    rw [hu] at hwin k1 hquiet
    refine ⟨State.ended_windows (State.ended_of_ring (s' := s.withActs []) rfl (hend hbusy)) hwin, ?_, fun h' => ?_⟩
    · rw [k1, e]
      rfl
    · rw [e] at hquiet
      exact hquiet h'
  · obtain ⟨n, c, hu, hs⟩ := State.turnMigrate_asks hx hne
    rw [← turn] at hu hs
    have hdue : (s.turn a).st.acts.any (s.turn a).dueAct = true := by
      rw [hu]
      show s.st.acts.any s.dueAct = true
      simp [ha, hd]
    rw [hstay (.inr hdue)]
    refine ⟨by rw [hu]; exact ha, by rw [hu], by rw [hu], ?_, by rw [hu], fun r hr => ?_⟩
    · rw [hu]
      exact ⟨rfl, rfl, rfl, rfl, rfl⟩
    · obtain ⟨h1, m, h2, h3⟩ := exists_roomMsgs hr
      obtain ⟨x, hx, e1, e2, e3, e4, e5, -, e7⟩ := hs (State.live_of_member hm) m (List.mem_flatMap.mpr ⟨r.dst, h1, h2⟩)
      obtain ⟨m1, m2, m3, m4, m5, m6, m7⟩ := h3
      refine ⟨?_, x, hx, e1.trans m1, e2.trans m2, e3.trans m3, e4.trans m4, e5.trans m5, e7 ▸ m6, e7 ▸ m7⟩
      rw [hu]
      exact List.mem_flatMap.mpr ⟨r.dst, h1, List.mem_map.mpr ⟨m, h2, rfl⟩⟩

end

/-! ### TABLE_REPLACE at its turn -/

/-- Without a pending action no action waits for shadow slots. -/
theorem State.restage_nil {s : State} (h : s.st.acts = []) : s.restage = s := by
  rw [State.restage, h]
  rfl

/-- A row that this module does not own refuses the action. -/
theorem State.turnReplace_refused {s : State} {a : Act} {td : TableDecl} (ht : s.table a.table = some td) (hs : td.sharded = true) (ha : s.st.acts = [])
    (hx : ∃ x ∈ a.staged, s.owns a.table x.1 = false ∨ rowKey a.table x.1 ∈ s.st.arrived) :
    s.turnReplace a = (s.freeSlots a.table (a.staged.map (·.2))).refuseAct a .indexRange := by
  have hc : (!td.sharded || a.staged.all fun x => s.owns a.table x.1 && !s.st.arrived.contains (rowKey a.table x.1)) = false := by
    obtain ⟨x, hx, hb⟩ := hx
    rw [hs, Bool.not_true, Bool.false_or, List.all_eq_false]
    refine ⟨x, hx, ?_⟩
    rcases hb with hb | hb <;> simp [hb]
  unfold State.turnReplace
  rw [ht]
  dsimp only
  rw [hc]
  exact congrArg (State.refuseAct · a .indexRange) (State.restage_nil (s := s.freeSlots a.table (a.staged.map (·.2))) ha)

/-- On the way from `s` to `v` rows have been put in place: memory, the counters, the host side and the state of the module, and of the tables the shadow
slots, agreed scales and VERSIONs. -/
def State.putsOnly (s v : State) : Prop :=
  { v with
    mem := s.mem
    ctr := s.ctr
    host := s.host
    ms := { v.ms with st := s.ms.st }
    st := { v.st with
      shadow := s.st.shadow
      agreed := s.st.agreed
      localVer := s.st.localVer } } = s

/-- Rows put stand in memory, the committed values behind them, and their action among those applied. -/
def State.rowsPut (s : State) (writes : List (Nat × List Byte)) (a : Act) (info : Nat) (t : State) : Prop :=
  ∃ b, b.length = s.tailRegion.len ∧ t.mem = (s.writeAll (writes ++ [(s.tailRegion.base, b)])).mem ∧
    (∀ tab row, t.dirAddr tab row = s.dirAddr tab row) ∧ { a with waitAck := true, info := info } ∈ t.st.applied

/-- An action that has put rows waits for the holders. -/
theorem State.appliedAct_rowsPut {s v : State} {writes : List (Nat × List Byte)} {a : Act} {touched : List Region} {info : Nat} (ht : touched ≠ [])
    (hh : s.holders s.rank ≠ []) (hm : v.mem = (s.writeAll writes).mem) (hk : s.putsOnly v) : s.rowsPut writes a info (v.appliedAct a touched info) := by
  have hv : v.holders v.rank = s.holders s.rank := by rw [← hk]; rfl
  have hr : v.tailRegion = s.tailRegion := by rw [← hk]; rfl
  have hd : ∀ tab row, v.dirAddr tab row = s.dirAddr tab row := fun tab row => by rw [← hk]; rfl
  obtain ⟨n, c, q, e⟩ := State.copyBoundary_held (s := { v with st := { v.st with
    windowOpen := true
    applied := v.st.applied ++ [{ a with waitAck := true, info := info }] } }) ht (hv ▸ hh) [(a.ring, info, v.st.stepNo)]
  refine ⟨v.carriedBytes, ?_, ?_, fun tab row => ?_, ?_⟩
  · rw [State.carriedBytes, length_fit, hr]
  · rw [State.writeAll_append, ← hr, State.appliedAct, e]
    exact State.writeAll_mem_congr (l := [(v.tailRegion.base, v.carriedBytes)]) hm
  · rw [State.appliedAct, e]
    exact hd tab row
  · rw [State.appliedAct, e]
    exact List.mem_append_right _ (List.mem_singleton_self _)

/-- One row of a SHARDED table that this module owns is flipped to its staged slot. -/
theorem State.turnReplace_flip {s : State} {a : Act} {td : TableDecl} {row slot : Nat} (ht : s.table a.table = some td) (hs : td.sharded = true)
    (ha : s.st.acts = []) (hst : a.staged = [(row, slot)]) (ho : s.owns a.table row = true) (hn : rowKey a.table row ∉ s.st.arrived)
    (hh : s.holders s.rank ≠ []) (hd : overlaps { base := slot, len := tabRowBytes td } { base := s.dirAddr a.table row, len := 8 } = false) :
    s.rowsPut (s.flipWrites td a.table row slot) a 1 (s.turnReplace a) := by
  have hc : (!td.sharded || a.staged.all fun x => s.owns a.table x.1 && !s.st.arrived.contains (rowKey a.table x.1)) = true := by
    simp [hst, ho, hn]
  obtain ⟨h, m, e⟩ := s.startRunning_eq
  obtain ⟨f, g, e'⟩ := State.flipRow_eq (s := { s with host := h, ms := { s.ms with st := m } }) hd
  generalize hw : State.flipRow _ td a.table row slot = w at e'
  have hwa : w.st.acts = [] := by
    rw [e']
    exact ha
  have hwm : w.mem = (s.writeAll (s.flipWrites td a.table row slot)).mem := by
    rw [e']
    exact State.writeAll_mem_congr (s := { s with host := h, ms := { s.ms with st := m } }) rfl
  have hwk : s.putsOnly w := by
    rw [e']
    rfl
  have hput : s.startRunning.putRows a td = (w.count cTableReplaceRows 1, w.rowRegions td a.table row ++ []) := by
    unfold State.putRows
    rw [if_pos hs, hst, List.foldl_cons, List.foldl_nil, e, hw]
    exact congrArg (·, w.rowRegions td a.table row ++ []) (State.restage_nil (s := w.count cTableReplaceRows 1) hwa)
  unfold State.turnReplace
  rw [ht]
  dsimp only
  rw [hc, if_pos rfl, if_pos hs, if_pos hs, hput, hst]
  exact State.appliedAct_rowsPut (v := w.count cTableReplaceRows 1) (by simp [State.rowRegions]) hh hwm hwk

/-- The rows of a LOCAL table's range, as they lie at their source. -/
def State.localWrites (s : State) (td : TableDecl) (a : Act) : List (Nat × List Byte) :=
  (List.range a.count).map fun i => (s.localSlot a.table (a.first + i), s.read (a.src + i * tabRowBytes td) (tabRowBytes td))

theorem State.foldl_write_localSlot (s : State) (tab first : Nat) (f : Nat → List Byte) (l : List Nat) :
    l.foldl (fun s i => s.write (s.localSlot tab (first + i)) (f i)) s = s.writeAll (l.map fun i => (s.localSlot tab (first + i), f i)) := by
  induction l generalizing s with
  | nil => rfl
  | cons i t ih => exact ih (s.write (s.localSlot tab (first + i)) (f i))

/-- A LOCAL table's rows are copied in from their source. -/
theorem State.turnReplace_local {s : State} {a : Act} {td : TableDecl} (ht : s.table a.table = some td) (hs : td.sharded = false)
    (hp : a.payload.length = 16) :
    (s.turnReplace a).st.localVer.get 0 a.table = (s.st.localVer.get 0 a.table + 1) % 65536 ∧
    (s.holders s.rank ≠ [] → a.count ≠ 0 → s.rowsPut (s.localWrites td a) { a with payload := a.payload ++ s.read a.src (a.count * tabRowBytes td) } a.count
      (s.turnReplace a)) := by
  obtain ⟨h, m, e⟩ := s.startRunning_eq
  generalize ha' : ({ a with payload := a.payload ++ s.read a.src (a.count * tabRowBytes td) } : Act) = a'
  have hk : a'.table = a.table ∧ a'.first = a.first ∧ a'.count = a.count := by
    rw [← ha']
    exact ⟨rfl, rfl, rfl⟩
  obtain ⟨k1, k2, k3⟩ := hk
  have hrow : ∀ i ∈ List.range a.count, a'.newRow (tabRowBytes td) i = s.read (a.src + i * tabRowBytes td) (tabRowBytes td) := fun i hi => by
    rw [← ha']
    show slice (a.payload ++ _) (16 + i * tabRowBytes td) (tabRowBytes td) = _
    rw [slice, ← List.drop_drop, List.drop_left' hp]
    refine State.slice_read s ?_
    have := Nat.mul_le_mul_right (tabRowBytes td) (Nat.succ_le_of_lt (List.mem_range.mp hi))
    rwa [Nat.succ_mul] at this
  have hfold : (List.range a'.count).foldl (fun s i => s.write (s.localSlot a'.table (a'.first + i)) (a'.newRow (tabRowBytes td) i)) s.startRunning =
      s.startRunning.writeAll (s.localWrites td a) := by
    rw [State.foldl_write_localSlot, k1, k2, k3, e]
    refine congrArg _ (List.map_congr_left fun i hi => ?_)
    rw [hrow i hi]
    rfl
  have hw : ∃ w, s.startRunning.writeAll (s.localWrites td a) = w ∧
      w = { s with host := h, ms := { s.ms with st := m }, mem := (s.writeAll (s.localWrites td a)).mem } := by
    refine ⟨_, rfl, ?_⟩
    rw [State.writeAll_eq, State.writeAll_mem_congr (t := s) (by rw [e]), e]
  obtain ⟨w, hw, ew⟩ := hw
  have hput : ∃ l, (a.count ≠ 0 → l ≠ []) ∧ s.startRunning.putRows a' td =
      (({ w with st := { w.st with localVer := w.st.localVer.set 0 a.table ((w.st.localVer.get 0 a.table + 1) % 65536) } } : State).count
        cTableReplaceRows a.count, l) := by
    unfold State.putRows
    rw [if_neg (by simp [hs]), hfold, hw, k1, k2, k3]
    refine ⟨_, fun hc => ?_, rfl⟩
    rw [if_neg hc]
    exact List.cons_ne_nil _ _
  obtain ⟨l, hl, hput⟩ := hput
  generalize hv : State.count { w with st := { w.st with localVer := w.st.localVer.set 0 a.table ((w.st.localVer.get 0 a.table + 1) % 65536) } }
    cTableReplaceRows a.count = v at hput
  have hturn : s.turnReplace a = v.appliedAct a' l a.count := by
    unfold State.turnReplace
    rw [ht]
    dsimp only
    rw [if_pos (by simp [hs]), if_neg (by simp [hs]), if_neg (by simp [hs]), ha', hput, k3]
  rw [hturn]
  refine ⟨?_, fun hh hc => State.appliedAct_rowsPut (hl hc) hh ?_ ?_⟩
  · obtain ⟨-, -, h3, -⟩ := v.appliedAct_spec a' l a.count
    rw [h3, ← hv, ew]
    exact NMap.get_set_self _ _ _ _
  · rw [← hv, ew]
    rfl
  · rw [← hv, ew]
    rfl

/-- The ranges of a flip: directory entry, slot, committed values, and of a trained row its master and moments. -/
def State.flipAreas (s : State) (td : TableDecl) (tab row slot : Nat) : List Region :=
  [{ base := s.dirAddr tab row, len := 8 }, { base := slot, len := tabRowBytes td }, s.tailRegion] ++
    if td.train then [s.masterOf tab row, s.momentsOf tab row] else []

/-- A row of BF16 elements has two bytes an element. -/
theorem tabRowBytes_bf16 {td : TableDecl} (h : td.fmt = 1) : tabRowBytes td = 2 * td.width := by
  rw [tabRowBytes, h, if_neg (by decide)]
  simp only [fmtBytes, fmtBits, ceilDiv]
  omega

section
variable {s : State} {td : TableDecl} {tab row slot : Nat} {b : List Byte} (ht : s.table tab = some td) (hb : b.length = s.tailRegion.len)
  (hp : (s.flipAreas td tab row slot).Pairwise fun x y => overlaps x y = false)
include ht hb hp

/-- What a flip stores lies in ranges that do not overlap, nor does one of them the slot. -/
theorem State.flipWrites_pairwise : ((s.flipWrites td tab row slot ++ [(s.tailRegion.base, b)]).Pairwise fun x y => overlaps (runRegion x) (runRegion y) = false) ∧
    ∀ y ∈ s.flipWrites td tab row slot ++ [(s.tailRegion.base, b)], overlaps { base := slot, len := tabRowBytes td } (runRegion y) = false := by
  have hr : (s.flipWrites td tab row slot ++ [(s.tailRegion.base, b)]).map runRegion =
      ({ base := s.dirAddr tab row, len := 8 } :: if td.train then [s.masterOf tab row, s.momentsOf tab row] else []) ++ [s.tailRegion] := by
    have hx : (s.mastersFrom (s.read slot (tabRowBytes td)) td.width).length = (s.masterOf tab row).len := by
      rw [State.length_mastersFrom, State.masterOf, ht]
      rfl
    have hz : (zeros (s.momentsOf tab row).len).length = (s.momentsOf tab row).len := List.length_replicate
    unfold State.flipWrites
    cases td.train <;> simp [runRegion, hb, hx, hz]
  have hp := hp.perm (l' := { base := slot, len := tabRowBytes td } ::
    (({ base := s.dirAddr tab row, len := 8 } :: if td.train then [s.masterOf tab row, s.momentsOf tab row] else []) ++ [s.tailRegion]))
    (by
      refine (List.Perm.swap _ _ _).trans (List.Perm.cons _ (List.Perm.cons _ ?_))
      exact (List.perm_append_singleton _ _).symm) fun {x y} h => (overlaps_comm y x).trans h
  rw [← hr, List.pairwise_cons, List.pairwise_map] at hp
  exact ⟨hp.2, fun y hy => hp.1 _ (List.mem_map_of_mem hy)⟩

/-- What a row reads as after its flip. -/
theorem State.flipWrites_read {t : State} (hm : t.mem = (s.writeAll (s.flipWrites td tab row slot ++ [(s.tailRegion.base, b)])).mem)
    (hd : t.dirAddr tab row = s.dirAddr tab row) (hs : slot < 2 ^ 48) :
    t.slotOf tab row = slot ∧ t.versionOf tab row = (s.versionOf tab row + 1) % 65536 ∧ t.read slot (tabRowBytes td) = s.read slot (tabRowBytes td) ∧
    (td.train = true → (∀ b ∈ t.read (s.momentsOf tab row).base (s.momentsOf tab row).len, b = 0) ∧
      (s.t7 = true → td.fmt = 1 → ∀ i < td.width, ∀ c, c = s.readNat (slot + 2 * i) 2 → 0 < bits c 7 8 → bits c 7 8 < 255 →
        t.readNat ((s.masterOf tab row).base + 4 * i) 4 = 65536 * c)) := by
  obtain ⟨hw, hsl⟩ := State.flipWrites_pairwise ht hb hp
  have put : ∀ q ∈ s.flipWrites td tab row slot ++ [(s.tailRegion.base, b)], t.read q.1 q.2.length = q.2 := fun q hq => by
    rw [State.read, hm]
    exact State.read_writeAll_of_pairwise s hw hq
  have hentry := put _ (List.mem_append_left _ List.mem_cons_self)
  dsimp only at hentry
  rw [List.length_append, length_leBytes, length_leBytes, State.read_append] at hentry
  obtain ⟨he1, he2⟩ := List.append_inj hentry (by simp)
  refine ⟨?_, ?_, ?_, fun htr => ⟨?_, fun h7 hf i hi c hc h0 h1 => ?_⟩⟩
  · rw [State.slotOf, hd, State.readNat, he1, leNat_leBytes_of_lt _ _ (by omega)]
  · rw [State.versionOf, hd, State.readNat, he2, leNat_leBytes_of_lt _ _ (show _ < 65536 from Nat.mod_lt _ (by decide))]
  · rw [State.read, hm]
    exact State.read_writeAll_disjoint hsl
  · have hz := put ((s.momentsOf tab row).base, zeros (s.momentsOf tab row).len) (List.mem_append_left _ (by simp [State.flipWrites, htr]))
    dsimp only at hz
    rw [show (zeros (s.momentsOf tab row).len).length = _ from List.length_replicate] at hz
    rw [hz]
    exact fun b hb => List.eq_of_mem_replicate hb
  · have hx := put ((s.masterOf tab row).base, s.mastersFrom (s.read slot (tabRowBytes td)) td.width) (List.mem_append_left _ (by simp [State.flipWrites, htr]))
    dsimp only at hx
    have hl : 4 * i + 4 ≤ (s.mastersFrom (s.read slot (tabRowBytes td)) td.width).length := by
      rw [State.length_mastersFrom, State.masterBytes, if_pos h7]
      omega
    have hrow : field (s.read slot (tabRowBytes td)) (2 * i) 2 = c := by
      rw [hc, State.field_read s (by rw [tabRowBytes_bf16 hf]; omega)]
    have hlt : c < 65536 := by
      rw [hc]
      exact (leNat_lt _).trans_eq (by rw [length_bytesAt]; rfl)
    rw [State.readNat, ← State.slice_read t hl, hx, State.slice_mastersFrom h7 _ hi, hrow, fp32_ofVal_bf16 hlt h0 h1,
      leNat_leBytes_of_lt _ _ (by omega)]

end

theorem tabRowBytes_le (td : TableDecl) : tabRowBytes td ≤ tabSlotLen td := by
  simp only [tabSlotLen, roundUp, ceilDiv]
  omega

/-- The rows of a LOCAL table copied in stand as they were at their source. -/
theorem State.localWrites_read {s t : State} {td : TableDecl} {a : Act} {b : List Byte} (ht : s.table a.table = some td) (hb : b.length = s.tailRegion.len)
    (ho : overlaps { base := s.localSlot a.table a.first, len := tabSlotLen td * a.count } s.tailRegion = false)
    (hm : t.mem = (s.writeAll (s.localWrites td a ++ [(s.tailRegion.base, b)])).mem) {i : Nat} (hi : i < a.count) :
    t.read (s.localSlot a.table (a.first + i)) (tabRowBytes td) = s.read (a.src + i * tabRowBytes td) (tabRowBytes td) := by
  have hslot : ∀ r, s.localSlot a.table (a.first + r) = s.localSlot a.table a.first + tabSlotLen td * r := fun r => by
    simp only [State.localSlot, ht, Option.elim_some]
    ring
  have hle := tabRowBytes_le td
  have hw : (s.localWrites td a ++ [(s.tailRegion.base, b)]).Pairwise fun x y => overlaps (runRegion x) (runRegion y) = false := by
    rw [List.pairwise_append]
    refine ⟨?_, List.pairwise_singleton _ _, fun x hx y hy => ?_⟩
    · rw [State.localWrites, List.pairwise_map]
      refine List.pairwise_lt_range.imp fun {i j} hij => overlaps_eq_false.mpr (.inr (.inr (.inr ?_)))
      simp only [runRegion, length_bytesAt, hslot]
      have := Nat.mul_le_mul_left (tabSlotLen td) (Nat.succ_le_of_lt hij)
      rw [Nat.mul_succ] at this
      omega
    · obtain ⟨j, hj, rfl⟩ := List.mem_map.mp hx
      cases List.mem_singleton.mp hy
      have hj := Nat.mul_le_mul_left (tabSlotLen td) (Nat.succ_le_of_lt (List.mem_range.mp hj))
      rw [Nat.mul_succ] at hj
      rw [overlaps_eq_false] at ho ⊢
      simp only [runRegion, length_bytesAt, hslot, hb] at ho ⊢
      omega
  have hq := State.read_writeAll_of_pairwise s hw (q := (s.localSlot a.table (a.first + i), s.read (a.src + i * tabRowBytes td) (tabRowBytes td)))
    (List.mem_append_left _ (List.mem_map.mpr ⟨i, List.mem_range.mpr hi, rfl⟩))
  dsimp only at hq
  rw [length_bytesAt] at hq
  rw [State.read, hm]
  exact hq

section
variable {s : State} {a : Act} (hm : s.member = true) (hp : s.prog.isSome = true) (hb : s.atBoundary = true) (k : Nat)
  (hw : ∀ x ∈ s.st.applied, x.waitAck = false) (hr : s.st.reserving = none) (ha : s.st.acts = [a]) (hd : s.dueAct a = true) (hk : a.kind = 3)
include hm hp hb hw hr ha hd hk

/-- TABLE_REPLACE at its turn, and the rest of the window, which stops while the holders have not acknowledged the rows. -/
theorem boundaryWindow_replace : ∃ t, exec (.boundaryWindow k) s = .next t ∧ ((s.withActs []).turnReplace a).windows t ∧
    ∀ writes a' info, (s.withActs []).rowsPut writes a' info ((s.withActs []).turnReplace a) → t = (s.withActs []).turnReplace a := by
  obtain ⟨t, ht, hwin, hstay, -⟩ := exec_boundaryWindow_one hm hp hb k hw hr ha hd (by simp [hk])
  have turn : s.turn a = (s.withActs []).turnReplace a := by
    rw [State.turn, hk, ← State.takeOff_one ha]
    rfl
  rw [turn] at hwin hstay
  exact ⟨t, ht, hwin, fun writes a' info ⟨b, _, _, _, hx⟩ => hstay (.inl (List.any_eq_true.mpr ⟨_, hx, rfl⟩))⟩

variable {td : TableDecl} (htd : s.table a.table = some td)
include htd

theorem boundaryWindow_replace_refused (hs : td.sharded = true) (hx : ∃ x ∈ a.staged, s.owns a.table x.1 = false ∨ rowKey a.table x.1 ∈ s.st.arrived)
    (hbusy : (s.ring a.ring).busy.isSome = true) :
    ∃ t, exec (.boundaryWindow k) s = .next t ∧ s.ended a.ring { status := .indexRange, step := s.st.stepNo } t := by
  obtain ⟨t, ht, hwin, -⟩ := boundaryWindow_replace hm hp hb k hw hr ha hd hk
  rw [State.turnReplace_refused (s := s.withActs []) htd hs rfl hx] at hwin
  obtain ⟨-, hend⟩ := State.refuseAct_spec ((s.withActs []).freeSlots a.table (a.staged.map (·.2))) a .indexRange
  exact ⟨t, ht, State.ended_windows (State.ended_of_ring (s' := (s.withActs []).freeSlots a.table (a.staged.map (·.2))) rfl (hend hbusy)) hwin⟩

variable (hh : s.holders s.rank ≠ [])
include hh

theorem boundaryWindow_replace_flip {row slot : Nat} (hs : td.sharded = true) (hst : a.staged = [(row, slot)]) (ho : s.owns a.table row = true)
    (hn : rowKey a.table row ∉ s.st.arrived) (hslot : slot < 2 ^ 48) (hpw : (s.flipAreas td a.table row slot).Pairwise fun x y => overlaps x y = false) :
    ∃ t, exec (.boundaryWindow k) s = .next t ∧ t.slotOf a.table row = slot ∧ t.versionOf a.table row = (s.versionOf a.table row + 1) % 65536 ∧
      t.read slot (tabRowBytes td) = s.read slot (tabRowBytes td) ∧
      (td.train = true → (∀ b ∈ t.read (s.momentsOf a.table row).base (s.momentsOf a.table row).len, b = 0) ∧
        (s.t7 = true → td.fmt = 1 → ∀ i < td.width, ∀ c, c = s.readNat (slot + 2 * i) 2 → 0 < bits c 7 8 → bits c 7 8 < 255 →
          t.readNat ((s.masterOf a.table row).base + 4 * i) 4 = 65536 * c)) ∧
      ∃ x ∈ t.st.applied, x.ring = a.ring ∧ x.waitAck = true ∧ x.info = 1 := by
  obtain ⟨t, ht, -, hstay⟩ := boundaryWindow_replace hm hp hb k hw hr ha hd hk
  have hov : overlaps { base := slot, len := tabRowBytes td } { base := s.dirAddr a.table row, len := 8 } = false := by
    rw [overlaps_comm]
    exact (List.pairwise_cons.mp hpw).1 _ List.mem_cons_self
  have hput := State.turnReplace_flip (s := s.withActs []) htd hs rfl hst ho hn hh hov
  rw [← hstay _ _ _ hput] at hput
  obtain ⟨b, hbl, hmem, hdir, hx⟩ := hput
  have hmem' : t.mem = (s.writeAll (s.flipWrites td a.table row slot ++ [(s.tailRegion.base, b)])).mem :=
    hmem.trans (State.writeAll_mem_congr (s := s.withActs []) (t := s) rfl)
  obtain ⟨h1, h2, h3, h4⟩ := State.flipWrites_read htd hbl hpw hmem' (hdir _ _) hslot
  exact ⟨t, ht, h1, h2, h3, h4, _, hx, rfl, rfl, rfl⟩

theorem boundaryWindow_replace_local (hs : td.sharded = false) (hl : a.payload.length = 16)
    (ho : overlaps { base := s.localSlot a.table a.first, len := tabSlotLen td * a.count } s.tailRegion = false) :
    ∃ t, exec (.boundaryWindow k) s = .next t ∧
      (∀ i < a.count, t.read (s.localSlot a.table (a.first + i)) (tabRowBytes td) = s.read (a.src + i * tabRowBytes td) (tabRowBytes td)) ∧
      t.st.localVer.get 0 a.table = (s.st.localVer.get 0 a.table + 1) % 65536 := by
  obtain ⟨t, ht, hwin, hstay⟩ := boundaryWindow_replace hm hp hb k hw hr ha hd hk
  obtain ⟨-, -, -, -, hv, -⟩ := State.windows_kept hwin
  obtain ⟨hver, hput⟩ := State.turnReplace_local (s := s.withActs []) htd hs hl
  refine ⟨t, ht, fun i hi => ?_, by rw [hv, hver]; rfl⟩
  have hput := hput hh (Nat.ne_of_gt (Nat.zero_lt_of_lt hi))
  rw [← hstay _ _ _ hput] at hput
  obtain ⟨b, hbl, hmem, -⟩ := hput
  exact State.localWrites_read htd hbl ho (hmem.trans (State.writeAll_mem_congr (s := s.withActs []) (t := s) rfl)) hi

end

/-! ### The retention record -/

/-- A halt leaves what is stored and the step's state. -/
theorem State.halt_keeps (s : State) (reason cause : Nat) : (s.halt reason cause).mem = s.mem ∧ (s.halt reason cause).st = s.st := by
  by_cases h : s.live = true
  · obtain ⟨x, e⟩ := s.halt_eq reason cause h
    rw [e]
    exact ⟨rfl, rfl⟩
  · have hn : ¬ (s.on ∧ s.ms.st ≠ .rom ∧ s.ms.st ≠ .halted) := fun ⟨h1, h2, h3⟩ => h (by simp [State.live, h1, h2, h3])
    rw [State.halt, if_neg hn]
    exact ⟨rfl, rfl⟩

/-- A block that is retired leaves what is stored and the step's state. -/
theorem State.badBlocks_keeps (s : State) (bad : Option FlashBlocks) : (s.badBlocks bad).mem = s.mem ∧ (s.badBlocks bad).st = s.st ∧
    (bad = none → s.badBlocks bad = s) := by
  cases bad with
  | none => exact ⟨rfl, rfl, fun _ => rfl⟩
  | some f =>
    have hk : (s.badBlocks (some f)).mem = s.mem ∧ (s.badBlocks (some f)).st = s.st := by
      show (s.flashBlocks f).mem = s.mem ∧ (s.flashBlocks f).st = s.st
      unfold State.flashBlocks
      dsimp only
      split
      · unfold State.tierFault
        split
        · exact State.halt_keeps _ 0x2 0x34
        · exact ⟨rfl, rfl⟩
      · exact ⟨rfl, rfl⟩
    exact ⟨hk.1, hk.2, fun h => by cases h⟩

/-- A retention record that is complete in flash is VALID, and no longer waited for. -/
theorem exec_retentionRecordWritten {s : State} {step i : Nat} (bad : Option FlashBlocks) (hl : s.live = true) (hp : s.prog.isSome = true)
    (hf : s.st.retPending.find? (fun x => x.1 == step) = some (step, i)) :
    ∃ t, exec (.retentionRecordWritten ⟨step, bad⟩) s = .next t ∧ t.st.retPending = (s.st.retPending.filter fun y => y.1 != step) ∧
      t.byte (s.recEntry i + 4) = 1 ∧ (∀ a, a ≠ s.recEntry i + 4 → t.byte a = s.byte a) ∧ (bad = none → t.host = s.host) := by
  have he : exec (.retentionRecordWritten ⟨step, bad⟩) s = .next ((State.tryPrepared { s.setValid i true with
      st := { (s.setValid i true).st with retPending := (s.setValid i true).st.retPending.filter fun y => y.1 != step } }).badBlocks bad) := by
    show Host.Outcome.next (retentionRecordWritten step bad s) = _
    rw [retentionRecordWritten, if_pos (by simp [hl, hp]), hf]
  generalize hv : State.mk _ _ _ _ _ _ _ _ _ _ _ _ _ _ _ _ _ _ _ _ _ _ _ _ _ _ = v at he
  obtain ⟨b, n, c, w, x, ep⟩ := v.tryPrepared_eq
  obtain ⟨hm, hst, hb⟩ := v.tryPrepared.badBlocks_keeps bad
  have hmem : (v.tryPrepared.badBlocks bad).mem = (s.write (s.recEntry i + 4) [1]).mem := by
    rw [hm, ep, ← hv]
    rfl
  refine ⟨_, he, ?_, ?_, fun a ha => ?_, fun h => ?_⟩
  · rw [hst, ep, ← hv]
    rfl
  · rw [State.byte, hmem]
    exact s.byte_write_inside (s.recEntry i + 4) [1] 0 (by simp)
  · rw [State.byte, hmem]
    exact s.byte_write_outside (s.recEntry i + 4) [1] a (by simp; omega)
  · rw [hb h, ep, ← hv]
    rfl

/-- Settles O29: what is due is applied or refused, nothing due ends the window, and a record complete in flash becomes VALID. -/
theorem windowEnds : Obligations.WindowEnds := by
  unfold Obligations.WindowEnds
  intro s k hp
  refine ⟨fun hm hb => ⟨fun h => boundaryWindow_unacked k hm hp hb h, fun hw hn => ?_,
      fun a hw hr ha hd => ⟨fun hk he => ?_, fun hk => ?_, fun hk hh td htd => ?_⟩⟩,
    fun hm hb => ?_, fun step bad hl => ⟨fun i hf => exec_retentionRecordWritten bad hl hp hf, fun hf => ?_⟩⟩
  · have he := boundaryWindow_idle k hm hp hb hw hn
    refine ⟨fun ho hv => ?_, fun ho hv => ⟨_, he, windowOn_ends k hm ho hv rfl⟩, fun ho => ⟨_, he, windowOn_ended k ho rfl⟩⟩
    rw [he, State.windowOn, if_pos ho, if_pos hv]
  · exact boundaryWindow_ingest hm hp hb k hw hr ha hd hk he
  · exact boundaryWindow_migrate hm hp hb k hw hr ha hd hk
  · refine ⟨fun hs hx hbusy => boundaryWindow_replace_refused hm hp hb k hw hr ha hd hk htd hs hx hbusy, ?_,
      fun hs hl ho => boundaryWindow_replace_local hm hp hb k hw hr ha hd hk htd hh hs hl ho⟩
    rintro row slot areas hs hst ho hn hslot rfl hpw
    exact boundaryWindow_replace_flip hm hp hb k hw hr ha hd hk htd hh hs hst ho hn hslot hpw
  · show Host.Outcome.next (compactionBudgetExpired s) = _
    rw [compactionBudgetExpired, if_pos (by simp [hm, hp, hb])]
  · show Host.Outcome.next (retentionRecordWritten step bad s) = _
    rw [retentionRecordWritten, if_pos (by simp [hl, hp]), hf]

end Sys2Proof.Machine
end

section
/-! SUPPORT. Packed codes (02 R44, R45). -/

namespace Sys2Proof.Machine

open Sys2Proof

/-! ### Two's complement -/

/-- Two's complement is the balanced remainder modulo 2^n. -/
theorem signed_eq_bmod {n : Nat} (hn : 0 < n) (c : Nat) : signed n c = Int.bmod c (2 ^ n) := by
  have hp : 2 ^ n = 2 * 2 ^ (n - 1) := by rw [← pow_succ', Nat.sub_add_cancel hn]
  rw [signed, Int.bmod_def]
  norm_cast
  rw [show (2 ^ n + 1) / 2 = 2 ^ (n - 1) by omega]

/-- The integers of `n` bits. -/
theorem signed_range {n : Nat} (hn : 0 < n) (c : Nat) : -(2 ^ (n - 1) : Int) ≤ signed n c ∧ signed n c < 2 ^ (n - 1) := by
  have hp : 2 ^ n = 2 * 2 ^ (n - 1) := by rw [← pow_succ', Nat.sub_add_cancel hn]
  have hl := Int.le_bmod (x := c) (m := 2 ^ n) (by positivity)
  have hu := Int.bmod_lt (x := c) (m := 2 ^ n) (by positivity)
  rw [signed_eq_bmod hn]
  zify at hp
  push_cast at hl hu
  omega

/-- An integer of `n` bits is read back from its code. -/
theorem signed_intCode {n : Nat} (hn : 0 < n) {v : Int} (h : -(2 ^ (n - 1) : Int) ≤ v) (h' : v < 2 ^ (n - 1)) : signed n (intCode n v) = v := by
  have hp : (2 : Int) ^ n = 2 * 2 ^ (n - 1) := by rw [← pow_succ', Nat.sub_add_cancel hn]
  have hc : (intCode n v : Int) = v % (2 ^ n : Nat) := by
    rw [intCode, Int.toNat_of_nonneg (Int.emod_nonneg _ (by positivity))]
    norm_cast
  rw [signed_eq_bmod hn, hc, Int.emod_bmod]
  exact Int.bmod_eq_of_le (by push_cast; omega) (by push_cast; omega)

/-! ### Elements of a packed row -/

/-- Byte `j` of a little-endian number. -/
theorem getElem?_leBytes {n j : Nat} (h : j < n) (v : Nat) : (leBytes n v)[j]? = some (BitVec.ofNat 8 (v / 256 ^ j)) := by
  induction n generalizing v j with
  | zero => cases h
  | succ n ih =>
    cases j with
    | zero => simp [leBytes]
    | succ j => rw [leBytes, List.getElem?_cons_succ, ih (Nat.lt_of_succ_lt_succ h), Nat.div_div_eq_div_mul, pow_succ']

/-- One byte of a row, as a number. -/
theorem field_one {row : List Byte} {i : Nat} (h : i < row.length) : field row i 1 = (nth 0 row i).toNat := by
  rw [field, List.drop_eq_getElem_cons h, nth, List.getD_eq_getElem _ _ h]
  rfl

/-- A 48-bit format packs six bytes an element (02 R44). -/
theorem packCodes_six {fmt : Nat} (hf : fmt = 6 ∨ fmt = 8) (cs : List Nat) : packCodes fmt cs = cs.flatMap (leBytes 6) := by
  rcases hf with rfl | rfl <;> rfl

/-- Element `i` of a row of a 48-bit format takes the bytes from 6 × i on. -/
theorem elemCode_six {fmt : Nat} (hf : fmt = 6 ∨ fmt = 8) (row : List Byte) (i : Nat) : elemCode fmt row i = leNat (slice row (6 * i) 6) := by
  rw [Nat.mul_comm]
  rcases hf with rfl | rfl <;> rfl

theorem fmtBytes_six {fmt : Nat} (hf : fmt = 6 ∨ fmt = 8) (n : Nat) : fmtBytes fmt n = 6 * n := by
  rcases hf with rfl | rfl <;> simp only [fmtBytes, fmtBits, ceilDiv] <;> omega

/-- Codes of a 48-bit format are read back from their row. -/
theorem elemCodes_packCodes {fmt : Nat} (hf : fmt = 6 ∨ fmt = 8) {cs : List Nat} (hc : ∀ c ∈ cs, c < 2 ^ 48) :
    elemCodes fmt (packCodes fmt cs) cs.length = cs := by
  refine List.ext_getElem (by simp [elemCodes]) fun i _ hi => ?_
  have hs := slice_flatMap (leBytes 6) cs (fun x _ => length_leBytes 6 x) i hi
  simp only [elemCodes, List.getElem_map, List.getElem_range]
  rw [elemCode_six hf, packCodes_six hf, hs,
    leNat_leBytes_of_lt 6 _ (hc _ (List.getElem_mem hi))]

/-- The bytes of element `i` of a row of a 48-bit format. -/
theorem getElem?_packCodes {fmt : Nat} (hf : fmt = 6 ∨ fmt = 8) (cs : List Nat) {i j : Nat} (hi : i < cs.length) (hj : j < 6) :
    (packCodes fmt cs)[6 * i + j]? = some (BitVec.ofNat 8 (nth 0 cs i / 256 ^ j)) := by
  have hs := slice_flatMap (leBytes 6) cs (fun x _ => length_leBytes 6 x) i hi
  rw [packCodes_six hf, ← List.getElem?_drop, ← List.getElem?_take_of_lt hj]
  rw [slice] at hs
  rw [hs, getElem?_leBytes hj, nth, List.getD_eq_getElem _ _ hi]

/-- A row of 48-bit codes stored and read (02 R44). -/
theorem State.write_packCodes (s : State) (a : Nat) {fmt : Nat} (hf : fmt = 6 ∨ fmt = 8) {cs : List Nat} (hc : ∀ c ∈ cs, c < 2 ^ 48) :
    (packCodes fmt cs).length = 6 * cs.length ∧ (s.write a (packCodes fmt cs)).codesAt fmt a cs.length = cs ∧
    ∀ i < cs.length, ∀ j < 6, (s.write a (packCodes fmt cs)).byte (a + 6 * i + j) = BitVec.ofNat 8 (nth 0 cs i / 256 ^ j) := by
  have hl : (packCodes fmt cs).length = 6 * cs.length := by rw [packCodes_six hf, length_flatMap_leBytes]
  refine ⟨hl, ?_, fun i hi j hj => ?_⟩
  · rw [State.codesAt, fmtBytes_six hf, ← hl, State.read_write, elemCodes_packCodes hf hc]
  · obtain ⟨hk, he⟩ := List.getElem?_eq_some_iff.mp (getElem?_packCodes hf cs hi hj)
    rw [Nat.add_assoc, State.byte_write_inside s a _ _ hk, he]

/-- The two elements of a byte of a four-bit format, the even one in the low half (02 R45). -/
theorem elemCode_four {fmt : Nat} (hf : fmt = 3 ∨ fmt = 5) {row : List Byte} {i : Nat} (hi : i < row.length) :
    elemCode fmt row (2 * i) = bits (nth 0 row i).toNat 0 4 ∧ elemCode fmt row (2 * i + 1) = bits (nth 0 row i).toNat 4 4 := by
  have hb : fmtBits fmt = 4 := by rcases hf with rfl | rfl <;> rfl
  constructor
  · rw [elemCode, if_pos hb, show 2 * i / 2 = i by omega, show 2 * i % 2 = 0 by omega, field_one hi]
  · rw [elemCode, if_pos hb, show (2 * i + 1) / 2 = i by omega, show (2 * i + 1) % 2 = 1 by omega, field_one hi]

/-- Settles O53: a 48-bit code is stored as six bytes and read back; integer codes are two's complement; a byte holds two four-bit elements. -/
theorem codesPacked : Obligations.CodesPacked := by
  unfold Obligations.CodesPacked
  refine ⟨fun s a fmt cs hf hc => s.write_packCodes a hf hc, fun v => ⟨fun h h' => ?_, fun h h' => ?_, fun h h' => ?_⟩, fun c => ?_,
    fun row fmt i hf hi => elemCode_four hf hi⟩
  · exact signed_intCode (n := 8) (by decide) (by omega) (by omega)
  · exact signed_intCode (n := 4) (by decide) (by omega) (by omega)
  · exact signed_intCode (n := 32) (by decide) (by omega) (by omega)
  · have h8 := signed_range (n := 8) (by decide) c
    have h4 := signed_range (n := 4) (by decide) c
    refine ⟨rfl, rfl, h8.1, ?_, h4.1, ?_⟩
    · exact Int.le_of_lt_add_one h8.2
    · exact Int.le_of_lt_add_one h4.2

end Sys2Proof.Machine
end

section
/-! SUPPORT. A vector operation that an EVAL's task is refused ends the EVAL, and the EVAL's end stores something where an EVIDENCE_EXPORT comes next:
it takes the cores, and its attention area is blanked (12 R319). `State.failsWith` has all that is stored as it was. -/

namespace Sys2Proof.Machine

open Sys2Proof Sys2Proof.Tests

/-- A range against the rules of 08 R187 ends a vector operation with INDEX_RANGE. -/
theorem State.vector_refused {s : State} {core slot : Nat} {reads writes : List Region} (act : State → Task → State)
    (hr : (s.runs core slot && s.workLive ((s.weir core).task slot).evalClass) = true)
    (hf : (reads.all (fun r => s.coreReads (s.physical core) r.base r.len) && writes.all fun r => s.coreWrites (s.physical core) r.base r.len) = false) :
    s.vector core slot reads writes act = s.workFault ((s.weir core).task slot).evalClass .indexRange := by
  rw [State.vector]
  dsimp only
  rw [hr, if_neg (by decide), hf, if_neg (by decide)]

/-- An EVIDENCE_EXPORT whose boundary window has closed, and which another EVAL keeps from the cores. -/
def waitingExport : EvalRun := { evalRun true 0 with ring := 1, evidence := true, begun := false }

/-- Task 0 of the first core runs for an EVAL on ring 0. An EVIDENCE_EXPORT on ring 1 comes next, its attention area at 0xB000. -/
def exportNext : State :=
  let s := evalClass { solo .running with gc := cores }
  { s with
    host := { s.host with rings := s.host.rings ++ [(1, { Ring.stopped with running := true, ci := 1, busy := some (0, exportD 3 1000000) })] }
    prog := some { program with decl := { decl with attLayers := 1, attHeads := 1 }, place := { place with attention := 0xB000 } }
    st := { s.st with evals := s.st.evals ++ [waitingExport] } }

theorem exportNext_runs : (exportNext.runs 0 0 && exportNext.workLive ((exportNext.weir 0).task 0).evalClass) = true := by decide

/-- The end of the EVAL blanks the attention area of the EVIDENCE_EXPORT behind it. -/
theorem exportNext_stores : (exportNext.workFault true .indexRange).byte 0xB003 ≠ exportNext.byte 0xB003 := by decide +kernel

/-- A refusal of that task's operation for a range is no `State.laneRefuses`. -/
theorem exportNext_not_laneRefuses {pre : Option Status} {reads writes : List Region} {c : Instr} {act : State → Task → State} (hp : pre = none)
    (hf : (reads.all (fun r => exportNext.coreReads (exportNext.physical 0) r.base r.len) &&
      writes.all fun r => exportNext.coreWrites (exportNext.physical 0) r.base r.len) = false)
    (he : exec c exportNext = .next (exportNext.vector 0 0 reads writes act)) : ¬ exportNext.laneRefuses 0 0 pre reads writes c := by
  rintro ⟨-, h⟩
  obtain ⟨t, ht, ⟨hm, -⟩, -⟩ := h exportNext_runs .indexRange (.inr ⟨hp, hf, rfl⟩)
  rw [he, State.vector_refused act exportNext_runs hf] at ht
  rw [← Host.Outcome.next.inj ht] at hm
  exact exportNext_stores (congrArg (byteAt 0 · 0xB003) hm)

/-- Operands that have a form leave an element-wise operation to its ranges. -/
theorem exec_vectorElementwise {s : State} {core slot : Nat} {v : VArgs} (hr : (s.runs core slot && s.workLive ((s.weir core).task slot).evalClass) = true)
    (hv : s.vecCoded v = true) : exec (.vectorElementwise core slot v) s = .next (s.vector core slot (vecReads v) (vecWrites v) fun s t =>
      if v.op = .convert then s.convert core slot t.evalClass v else s.arithmetic core slot v) := by
  show Host.Outcome.next (vectorElementwise core slot v s) = _
  simp only [vectorElementwise, hr, hv, Bool.not_true, Bool.false_eq_true, if_false]

/-- A target format that SPLIT_K_COMBINE has leaves it to its ranges. -/
theorem exec_splitKCombine {s : State} {core slot n ofmt dst : Nat} {parts : List Nat}
    (hr : (s.runs core slot && s.workLive ((s.weir core).task slot).evalClass) = true)
    (hv : (ofmt == 0 || ofmt == 1 || (ofmt == 6 && !s.t7)) = true) : ∃ act, exec (.splitKCombine core slot parts n ofmt dst) s =
      .next (s.vector core slot (parts.flatMap fun p => span p (fmtBytes (if s.t7 then 0 else 6) n)) (span dst (fmtBytes ofmt n)) act) := by
  show ∃ act, Host.Outcome.next (splitKCombine core slot parts n ofmt dst s) = _
  rw [State.t7] at hv
  simp only [splitKCombine, hr, hv, Bool.not_true, Bool.false_eq_true, if_false]
  exact ⟨_, rfl⟩

/-- Refutes O54: a source in flash, against 08 R187, ends the EVAL that an addition is for, and the attention area of the EVIDENCE_EXPORT that comes next
is blanked, where nothing stored was to change. -/
theorem not_elementsComputed : ¬ Obligations.ElementsComputed := by
  unfold Obligations.ElementsComputed
  rintro ⟨-, -, -, h⟩
  obtain ⟨h, -⟩ := h exportNext 0 0 { vec .add 0 with a := far } _ rfl
  exact exportNext_not_laneRefuses (by decide) (by decide) (exec_vectorElementwise exportNext_runs (by decide)) h

/-- Refutes O55: partials in flash, against 08 R187, end the EVAL that a SPLIT_K_COMBINE is for, and the attention area of the EVIDENCE_EXPORT that comes
next is blanked, where nothing stored was to change. -/
theorem not_reductionsStore : ¬ Obligations.ReductionsStore := by
  unfold Obligations.ReductionsStore
  rintro ⟨-, -, -, -, -, -, h⟩
  obtain ⟨-, h⟩ := h exportNext 0 0 1 0x9000
  obtain ⟨h, -⟩ := h [far] _ 0 rfl
  obtain ⟨act, he⟩ := exec_splitKCombine (n := 1) (ofmt := 0) (dst := 0x9000) (parts := [far]) exportNext_runs (by decide)
  exact exportNext_not_laneRefuses (by decide) (by decide) he h

/-- Refutes O56: an XM48_LOAD from flash, against 08 R187, ends the EVAL that it is for, and the attention area of the EVIDENCE_EXPORT that comes next is
blanked, where nothing stored was to change. -/
theorem not_xm48Rounds : ¬ Obligations.Xm48Rounds := by
  unfold Obligations.Xm48Rounds
  rintro ⟨-, h⟩
  obtain ⟨-, h, -⟩ := h exportNext 0 0 far _ rfl
  obtain ⟨h, -⟩ := h 1
  exact exportNext_not_laneRefuses rfl (by decide) rfl h

end Sys2Proof.Machine
end

section
/-! SUPPORT. A matrix tile or a sparse encoding that an EVAL's task is refused ends the EVAL, and the attention area of an EVIDENCE_EXPORT that comes next
is blanked (12 R319). `State.failsWith` has all that is stored as it was. -/

namespace Sys2Proof.Machine

open Sys2Proof Sys2Proof.Tests

/-- Work that failed with a code has left every byte of device memory as it was. -/
theorem State.failsWith.byte_eq {s t : State} {eval : Bool} {x : Status} (h : s.failsWith eval x t) (a : Nat) : t.byte a = s.byte a := by
  obtain ⟨⟨hm, -⟩, -⟩ := h
  exact congrArg (byteAt 0 · a) hm

/-- MATMUL runs a tile that is no split-K part (04 R86). -/
theorem exec_matmul (core gang : Nat) (s : State) : exec (.matmul core gang) s = .next (s.tile core gang false) := rfl

/-- A tile that a check of 04 R93 refuses leaves its queue, and its work ends with the code. -/
theorem State.tile_refused {s : State} {core gang : Nat} {part : Bool} {q : QDesc} {x : Status} (hq : s.nextTile core gang = some q)
    (hl : (s.hasCore core && s.workLive q.eval && (tileDesc q.bytes).part == part) = true) (hx : s.tileCheck (tileDesc q.bytes) q = some x) :
    s.tile core gang part = s.failDesc q x := by
  rw [State.tile, hq]
  dsimp only
  rw [hl, if_neg (by decide), hx]

/-- A tile of the EVAL whose output format, 9, is undefined (04 R93). -/
def refusedTile : QDesc := { tileQ 1 9 0 0 with eval := true }

/-- The tile queued for the EVAL that an EVIDENCE_EXPORT comes after. -/
def exportBehindTile : State := withDesc exportNext refusedTile

theorem exportBehindTile_taken : tileTaken exportBehindTile refusedTile false ∧
    exportBehindTile.tileCheck (tileDesc refusedTile.bytes) refusedTile = some .formatInvalid := by decide +kernel

/-- The end of the EVAL blanks the attention area of the EVIDENCE_EXPORT behind it. -/
theorem exportBehindTile_stores : (exportBehindTile.failDesc refusedTile .formatInvalid).byte 0xB003 ≠ exportBehindTile.byte 0xB003 := by decide +kernel

/-- Refutes O51: a MATMUL of an EVAL, its output format undefined, is refused and ends the EVAL; the attention area of the EVIDENCE_EXPORT that comes
next is blanked, where nothing stored was to change. -/
theorem not_tilesRun : ¬ Obligations.TilesRun := by
  unfold Obligations.TilesRun
  rintro ⟨h, -, -⟩
  obtain ⟨⟨hq, hl⟩, hx⟩ := exportBehindTile_taken
  obtain ⟨-, h⟩ := h exportBehindTile 0 0 false (.matmul 0 0) rfl
  obtain ⟨-, h⟩ := h refusedTile _ hq rfl
  obtain ⟨h, -⟩ := h hl
  obtain ⟨t, ht, hf⟩ := h _ hx
  rw [exec_matmul, State.tile_refused hq hl hx] at ht
  rw [← Host.Outcome.next.inj ht] at hf
  exact exportBehindTile_stores (hf.byte_eq 0xB003)

/-- Operands that have a form leave SP_ENCODE to its ranges. -/
theorem exec_spEncode {s : State} {core slot : Nat} {a : SpArgs} (hr : (s.runs core slot && s.workLive ((s.weir core).task slot).evalClass) = true)
    (ha : (decide (1 ≤ a.fmt) && decide (a.fmt ≤ 5) && (a.form == 1 || (a.form == 2 && !a.cap24)) && a.dstStride % 16 == 0) = true) :
    ∃ act, exec (.spEncode core slot a) s =
      .next (s.vector core slot (rowsRegion a.src a.lines a.srcStride (fmtBytes a.fmt a.k)) (headeredRegion a.dst a.lines a.dstStride) act) := by
  show ∃ act, Host.Outcome.next (spEncode core slot a s) = _
  simp only [spEncode, hr, ha, Bool.not_true, Bool.false_eq_true, if_false]
  exact ⟨_, rfl⟩

/-- Refutes O59: a source in flash, against 08 R187, ends the EVAL that an SP_ENCODE is for, and the attention area of the EVIDENCE_EXPORT that comes
next is blanked, where nothing stored was to change. -/
theorem not_sparseStored : ¬ Obligations.SparseStored := by
  unfold Obligations.SparseStored
  intro h
  obtain ⟨h, -⟩ := h exportNext 0 0 _ rfl
  obtain ⟨h, -⟩ := h { spArgs with src := far } _ _ _ _ rfl rfl rfl rfl
  obtain ⟨act, he⟩ := exec_spEncode (a := { spArgs with src := far }) exportNext_runs (by decide)
  exact exportNext_not_laneRefuses (by decide) (by decide) he h

end Sys2Proof.Machine
end

section
/-! SUPPORT. An ISSUE of an EVAL's task from outside its core's SRAM ends the EVAL, and the attention area of an EVIDENCE_EXPORT that comes next is blanked
(12 R319). QUARRY_DONE passes over a gather whose rows are still on their way (07 R163, R166). -/

namespace Sys2Proof.Machine

open Sys2Proof Sys2Proof.Tests

/-- ISSUE from an address outside the core's own SRAM ends the work of the task with INDEX_RANGE (08 R187). -/
theorem exec_issue_outside {s : State} {core slot : Nat} {unit : UnitKind} {addr : Nat} (kernel : Nat) (hr : s.runningTask core = some slot)
    (hp : s.placeOfRange addr (unitDescBytes unit) ≠ .sram (s.physical core)) :
    exec (.issue core unit addr kernel) s = .next (s.workFault ((s.weir core).task slot).evalClass .indexRange) := by
  show Host.Outcome.next (weirIssue core unit addr kernel s) = _
  rw [weirIssue, hr]
  dsimp only
  rw [if_neg hp]

theorem exportNext_runningTask : exportNext.runningTask 0 = some 0 := by decide

theorem exportNext_evalClass : ((exportNext.weir 0).task 0).evalClass = true := by decide

/-- Refutes O49: a descriptor that the task of an EVAL issues from flash is outside its core's SRAM and ends the EVAL; the attention area of the
EVIDENCE_EXPORT that comes next is blanked, where nothing stored was to change. -/
theorem not_tasksReach : ¬ Obligations.TasksReach := by
  unfold Obligations.TasksReach
  intro h
  obtain ⟨-, -, h, -⟩ := h exportNext 0 0
  have hp : exportNext.placeOfRange far (unitDescBytes .mc) ≠ .sram (exportNext.physical 0) := by decide
  obtain ⟨h, -⟩ := h .mc far 0 _ exportNext_runningTask rfl
  obtain ⟨t, ht, hf⟩ := h hp
  rw [exec_issue_outside 0 exportNext_runningTask hp, exportNext_evalClass] at ht
  rw [← Host.Outcome.next.inj ht] at hf
  exact exportNext_stores (hf.byte_eq 0xB003)

/-- QUARRY_DONE does nothing while every gather in progress on its core waits for a row. -/
theorem exec_quarryDone_waiting {s : State} {core : Nat} (h : ∀ r ∈ s.gc.busy, r.unit = .quarry → r.core = core → s.gatherWaits r = true) :
    exec (.quarryDone core) s = .next s := by
  have hn : s.gc.busy.find? (fun r => (r.unit == .quarry && r.core == core && !s.gatherWaits r) && !r.done && s.hasCore r.core) = none := by
    rw [List.find?_eq_none]
    intro r hr
    simp only [Bool.and_eq_true, beq_iff_eq, Bool.not_eq_true']
    rintro ⟨⟨⟨⟨hu, hc⟩, hw⟩, -⟩, -⟩
    rw [h r hr hu hc] at hw
    cases hw
  show Host.Outcome.next (quarryDone core s) = _
  rw [quarryDone, State.finishDesc, hn]

/-- A gather of one row to 0x9000, in progress. -/
def gathering : Running := { going .quarry with writes := [{ base := 0x9000, len := 64 }] }

/-- Its row has been asked of rank 1, which has not replied. -/
def rowOnItsWay : State :=
  { working with
    gc := { cores with busy := [gathering] }
    ex := { working.ex with lookups := [{ (default : Lookup) with owner := 1, dst := 0x9000, asked := true }] } }

theorem rowOnItsWay_waits : ∀ r ∈ rowOnItsWay.gc.busy, r.unit = .quarry → r.core = 0 → rowOnItsWay.gatherWaits r = true := by decide

/-- The gather is the oldest descriptor in progress of Quarry on its core. -/
theorem rowOnItsWay_oldest : rowOnItsWay.oldest (fun x => x.unit == .quarry && x.core == 0) gathering :=
  ⟨by decide, rest_of (by decide) (by decide), by decide⟩

/-- Refutes O50: QUARRY_DONE leaves the oldest gather in progress, whose row is on its way from its owner, where it is. -/
theorem not_unitsComplete : ¬ Obligations.UnitsComplete := by
  unfold Obligations.UnitsComplete
  intro h
  obtain ⟨-, h⟩ := h rowOnItsWay 0 0 (.quarryDone 0) _ (.inr (.inr (.inl ⟨rfl, rfl⟩)))
  obtain ⟨t, ht, -, hb, -⟩ := (h gathering).1 rowOnItsWay_oldest
  rw [exec_quarryDone_waiting rowOnItsWay_waits] at ht
  rw [← Host.Outcome.next.inj ht] at hb
  exact absurd hb (by decide)

end Sys2Proof.Machine
end

section
/-! SUPPORT. A ROWBIN or ROWSCATTER that an EVAL's task is refused, and a descriptor of the Tailrace that an EVAL's task queued and a check refuses, end the
EVAL, and the attention area of an EVIDENCE_EXPORT that comes next is blanked (12 R319). -/

namespace Sys2Proof.Machine

open Sys2Proof Sys2Proof.Tests

/-- A number of rows within the limit leaves ROWBIN to its ranges. -/
theorem exec_rowbin {s : State} {core slot counts m perm starts : Nat}
    (hr : (s.runs core slot && s.workLive ((s.weir core).task slot).evalClass) = true) (hm : m ≤ 16777216) :
    ∃ act, exec (.rowbin core slot counts m perm starts) s =
      .next (s.vector core slot (span counts (4 * m)) (span perm (4 * m) ++ span starts 136) act) := by
  show ∃ act, Host.Outcome.next (rowbin core slot counts m perm starts s) = _
  simp only [rowbin, hr, Nat.not_lt.mpr hm, Bool.not_true, Bool.false_eq_true, if_false]
  exact ⟨_, rfl⟩

/-- Refutes O57: counts in flash, against 08 R187, end the EVAL that a ROWBIN of one row is for, and the attention area of the EVIDENCE_EXPORT that comes
next is blanked, where nothing stored was to change. -/
theorem not_rowsBinned : ¬ Obligations.RowsBinned := by
  unfold Obligations.RowsBinned
  rintro ⟨-, -, -, h⟩
  obtain ⟨h, -⟩ := h exportNext 0 0 1 far 0x8000 0x9000 []
  obtain ⟨act, he⟩ := exec_rowbin (counts := far) (m := 1) (perm := 0x8000) (starts := 0x9000) exportNext_runs (by decide)
  exact exportNext_not_laneRefuses (by decide) (by decide) he h

/-- Refutes O58: a source in flash, against 08 R187, ends the EVAL that a ROWSCATTER of one row is for, and the attention area of the EVIDENCE_EXPORT that
comes next is blanked, where nothing stored was to change. -/
theorem not_rowsScattered : ¬ Obligations.RowsScattered := by
  unfold Obligations.RowsScattered
  intro h
  obtain ⟨h, -⟩ := h exportNext 0 0 1 0x8100 far 16 0x8200 1 []
  exact exportNext_not_laneRefuses rfl (by decide) rfl h

/-- SPILL takes a descriptor of the Tailrace that copies to its area (14 R365). -/
theorem exec_spill (core : Nat) (s : State) : exec (.spill core) s = .next (s.tailrace core false) := rfl

/-- A descriptor of the Tailrace that a check of 14 R365 refuses leaves its queue, and its work ends with the code. -/
theorem State.tailrace_refused {s : State} {core : Nat} {fill : Bool} {q : QDesc} {x : Status}
    (hq : s.nextDesc (fun x => x.unit == .tailrace && s.tailClear x) = some q)
    (hl : (q.core == core && s.hasCore core && s.workLive q.eval && ((tailDesc q.bytes).op == 2) == fill) = true)
    (hx : s.tailCheck q (tailDesc q.bytes) = some x) : s.tailrace core fill = s.failDesc q x := by
  rw [State.tailrace, hq]
  dsimp only
  rw [hl, if_neg (by decide), hx]

/-- A SPILL of the EVAL to the 256 bytes after the Tailrace area (14 R365). -/
def refusedSpill : QDesc :=
  { queued .tailrace (laid 32 [(0, 8, 1), (8, 6, sramBase), (0x10, 6, 65536), (0x18, 4, 256)]) with eval := true }

/-- The SPILL queued for the EVAL that an EVIDENCE_EXPORT comes after. -/
def exportBehindSpill : State := withDesc exportNext refusedSpill

theorem exportBehindSpill_taken : tails exportBehindSpill refusedSpill false ∧
    exportBehindSpill.tailCheck refusedSpill (tailDesc refusedSpill.bytes) = some .indexRange := by decide +kernel

/-- The end of the EVAL blanks the attention area of the EVIDENCE_EXPORT behind it. -/
theorem exportBehindSpill_stores : (exportBehindSpill.failDesc refusedSpill .indexRange).byte 0xB003 ≠ exportBehindSpill.byte 0xB003 := by decide +kernel

/-- Refutes O52: a SPILL of an EVAL beyond the Tailrace area is refused and ends the EVAL; the attention area of the EVIDENCE_EXPORT that comes next is
blanked, where nothing stored was to change. -/
theorem not_braidAndTailrace : ¬ Obligations.BraidAndTailrace := by
  unfold Obligations.BraidAndTailrace
  rintro ⟨-, -, h⟩
  obtain ⟨⟨hq, hl⟩, hx⟩ := exportBehindSpill_taken
  obtain ⟨-, h⟩ := h exportBehindSpill 0 false (.spill 0) _ rfl rfl
  obtain ⟨-, h⟩ := h refusedSpill _ hq rfl
  obtain ⟨h, -⟩ := h hl
  obtain ⟨t, ht, hf⟩ := h _ hx
  rw [exec_spill, State.tailrace_refused hq hl hx] at ht
  rw [← Host.Outcome.next.inj ht] at hf
  exact exportBehindSpill_stores (hf.byte_eq 0xB003)

end Sys2Proof.Machine
end

section
/-! SUPPORT. Runs of edges: edges inserted and deleted, and records and node-table entries as bytes (06 R130-R138). -/

namespace Sys2Proof.Machine

open Sys2Proof

/-! ### Edges inserted and deleted -/

theorem insertEdge_eq (e : Edge) (es : List Edge) :
    insertEdge e es = es.filter (fun x => decide (x.ts ≤ e.ts)) ++ e :: es.filter fun x => decide (e.ts < x.ts) :=
  List.append_assoc _ [e] _

theorem insertEdge_perm (e : Edge) (es : List Edge) : (insertEdge e es).Perm (e :: es) := by
  have later : (fun x : Edge => decide (e.ts < x.ts)) = fun x => !decide (x.ts ≤ e.ts) := by
    funext x
    simp only [← Nat.not_le, decide_not]
  rw [insertEdge_eq, later]
  exact List.perm_middle.trans ((List.filter_append_perm _ es).cons e)

theorem insertEdge_pairwise (e : Edge) {es : List Edge} (h : es.Pairwise fun a b => a.ts ≤ b.ts) :
    (insertEdge e es).Pairwise fun a b => a.ts ≤ b.ts := by
  rw [insertEdge_eq, List.pairwise_append, List.pairwise_cons]
  refine ⟨h.filter _, ⟨fun x hx => ?_, h.filter _⟩, fun x hx y hy => ?_⟩
  · exact Nat.le_of_lt (of_decide_eq_true (List.mem_filter.mp hx).2)
  · have hx : x.ts ≤ e.ts := of_decide_eq_true (List.mem_filter.mp hx).2
    rcases List.mem_cons.mp hy with rfl | hy
    · exact hx
    · exact hx.trans (Nat.le_of_lt (of_decide_eq_true (List.mem_filter.mp hy).2))

/-- An edge with DEAD set. -/
def Edge.killed (e : Edge) : Edge := { e with flags := e.flags + 2 ^ 15 }

theorem Edge.killed_dead {e : Edge} (h : e.dead = false) : e.killed.dead = true := by
  show (e.flags + 2 ^ 15).testBit 15 = true
  rw [Nat.add_comm, Nat.testBit_two_pow_add_eq, show e.flags.testBit 15 = false from h]
  rfl

/-- A deletion sets DEAD on one live record. -/
theorem deleteEdge_eq {e : Edge} {es es' : List Edge} (h : deleteEdge e es = some es') :
    ∃ pre x post, es = pre ++ x :: post ∧ es' = pre ++ x.killed :: post ∧ x.dead = false := by
  induction es generalizing es' with
  | nil => cases h
  | cons y t ih =>
    unfold deleteEdge at h
    split at h
    · next hy =>
      simp only [Bool.and_eq_true, Bool.not_eq_true'] at hy
      exact ⟨[], y, t, rfl, (Option.some.inj h).symm, hy.1.1.1⟩
    · obtain ⟨t', ht, rfl⟩ := Option.map_eq_some_iff.mp h
      obtain ⟨pre, x, post, rfl, rfl, hx⟩ := ih ht
      exact ⟨y :: pre, x, post, rfl, rfl, hx⟩

theorem deleteEdge_live {e : Edge} {es es' : List Edge} (h : deleteEdge e es = some es') :
    (liveRecords es').length + 1 = (liveRecords es).length := by
  obtain ⟨pre, x, post, rfl, rfl, hx⟩ := deleteEdge_eq h
  simp [liveRecords, hx, Edge.killed_dead hx, Nat.add_assoc]

theorem deleteEdge_fields {e : Edge} {es es' : List Edge} (h : deleteEdge e es = some es') :
    es'.map (fun x => (x.nbr, x.ts, x.etype, x.weight)) = es.map fun x => (x.nbr, x.ts, x.etype, x.weight) := by
  obtain ⟨pre, x, post, rfl, rfl, -⟩ := deleteEdge_eq h
  simp [Edge.killed]

/-! ### Records and entries as bytes -/

theorem field_lt (b : List Byte) (o n : Nat) : field b o n < 256 ^ n :=
  (leNat_lt _).trans_le (Nat.pow_le_pow_right (by decide) (List.length_take_le n _))

/-- The bytes of a field. -/
theorem leBytes_field {b : List Byte} {o n : Nat} (h : o + n ≤ b.length) : leBytes n (field b o n) = slice b o n := by
  have hl : (slice b o n).length = n := by simp [slice]; omega
  have := leBytes_leNat (slice b o n)
  rwa [hl] at this

@[simp] theorem length_edgeBytes (e : Edge) : (edgeBytes e).length = 16 := by simp [edgeBytes]

@[simp] theorem length_flatMap_edgeBytes (es : List Edge) : (es.flatMap edgeBytes).length = 16 * es.length := by
  induction es with
  | nil => rfl
  | cons e t ih => rw [List.flatMap_cons, List.length_append, ih, length_edgeBytes, List.length_cons]; omega

@[simp] theorem length_runEntryBytes (r : RunEntry) : (runEntryBytes r).length = 32 := by simp [runEntryBytes, zeros]

/-- The bytes of a list from one place on, in two parts. -/
theorem slice_append_drop (b : List Byte) (o n : Nat) : slice b o n ++ b.drop (o + n) = b.drop o := by
  rw [slice, ← List.drop_drop, List.take_append_drop]

/-- A record is stored as the bytes it was read from. -/
theorem edgeBytes_edgeOf {b : List Byte} (h : b.length = 16) : edgeBytes (edgeOf b) = b := by
  have last : slice b 14 2 = b.drop 14 := List.take_of_length_le (by simp [h])
  simp (disch := omega) only [edgeBytes, edgeOf, leBytes_field, last, List.append_assoc]
  rw [slice_append_drop b 12 2, slice_append_drop b 11 1, slice_append_drop b 5 6, slice_append_drop b 0 5, List.drop_zero]

theorem runEntryOf_lt (b : List Byte) : (runEntryOf b).live < 2 ^ 32 ∧ (runEntryOf b).alias_ < 2 ^ 48 :=
  ⟨(field_lt b 16 4).trans_eq (by norm_num), (field_lt b 20 6).trans_eq (by norm_num)⟩

/-- An entry whose fields fit is read back from its bytes. -/
theorem runEntryOf_runEntryBytes {r : RunEntry} (ha : r.addr < 2 ^ 48) (hl : r.len < 2 ^ 32) (hc : r.cap < 2 ^ 32) (hv : r.live < 2 ^ 32)
    (hp : r.alias_ < 2 ^ 48) : runEntryOf (runEntryBytes r) = r := by
  have fits : ∀ {n v : Nat}, v < 2 ^ (8 * n) → leNat (leBytes n v) = v := fun {n v} h =>
    leNat_leBytes_of_lt n v (by rwa [show (256 : Nat) = 2 ^ 8 from rfl, ← pow_mul])
  have past : ∀ {n k v : Nat}, n ≤ k → (leBytes n v).drop k = [] := fun {n k v} h => List.drop_of_length_le (by simpa using h)
  simp [runEntryOf, runEntryBytes, field, zeros, List.drop_append, past, fits (n := 6) ha, fits (n := 4) hl, fits (n := 4) hc,
    fits (n := 4) hv, fits (n := 6) hp]

end Sys2Proof.Machine
end

section
/-! PROOFS. Runs stay in order, a relocated run keeps its live records and disturbs no other, and no draw sees the future (06 R133, R134, R138, R141, R142,
R145, R147). -/

namespace Sys2Proof.Machine

open Sys2Proof

/-! ### Relocation (06 R133, R134) -/

theorem within_iff {r : Region} {a n : Nat} : within r a n = true ↔ r.base ≤ a ∧ a + n ≤ r.base + r.len := by
  rw [within, Bool.and_eq_true, decide_eq_true_iff, decide_eq_true_iff]

/-- A part of a range overlaps no part of one that the range does not overlap. -/
theorem overlaps_of_within {r q : Region} {p n k : Nat} (hw : within r p n = true) (ho : overlaps r q = false) (hk : k ≤ q.len) :
    overlaps { base := p, len := n } { base := q.base, len := k } = false := by
  rw [within_iff] at hw
  rw [overlaps_eq_false] at ho ⊢
  dsimp only
  omega

theorem roundUp_mod (a b : Nat) : roundUp a b % b = 0 := Nat.mul_mod_left _ b

/-- A fold that keeps what it has or takes the next ends with one of the list, or with what it began with. -/
theorem mem_of_foldl_option {α : Type} {f : Option α → α → Option α} (hf : ∀ o x a, f o x = some a → a = x ∨ o = some a) (l : List α) (o : Option α) {a : α}
    (h : l.foldl f o = some a) : a ∈ l ∨ o = some a := by
  induction l generalizing o with
  | nil => exact .inr h
  | cons x t ih =>
    rcases ih _ h with h | h
    · exact .inl (List.mem_cons_of_mem _ h)
    · exact (hf o x a h).imp_left fun e => List.mem_cons.mpr (.inl e)

/-- Room that is found lies on a multiple in the region, clear of every range in use. -/
theorem State.graphFit_spec {s : State} {d : Decl} {len align a : Nat} (h : s.graphFit d len align = some a) :
    a % align = 0 ∧ within s.graphRegion a len = true ∧ ∀ r ∈ s.graphUsed d, overlaps r { base := a, len := len } = false := by
  have least := mem_of_foldl_option (by
    intro o x b hb
    cases o with
    | none => exact .inl (Option.some.inj hb).symm
    | some y =>
      rw [← Option.some.inj hb]
      exact (Nat.le_total y x).symm.imp (fun hy => Nat.min_eq_right hy) fun hy => by rw [Nat.min_eq_left hy]) _ _ h
  obtain ⟨hm, hp⟩ := List.mem_filter.mp (least.resolve_right nofun)
  obtain ⟨b, -, rfl⟩ := List.mem_map.mp hm
  rw [Bool.and_eq_true, List.all_eq_true] at hp
  refine ⟨roundUp_mod b align, hp.1, fun r hr => ?_⟩
  by_cases hl : r.len = 0
  · exact overlaps_eq_false.mpr (.inl hl)
  · simpa using hp.2 r (List.mem_filter.mpr ⟨hr, by simpa using hl⟩)

/-- The table of the nodes that a module owns. -/
def State.nodeTable (s : State) (d : Decl) : Region := { base := s.graphRegion.base, len := 32 * (ownedNodes d s.ranks s.rank).length }

/-- The space of an entry's run. -/
def RunEntry.space (r : RunEntry) : Region := { base := r.addr, len := 16 * r.cap }

theorem State.nodeTable_mem_graphUsed (s : State) (d : Decl) : s.nodeTable d ∈ s.graphUsed d := List.mem_cons_self

theorem State.space_mem_graphUsed {s : State} {d : Decl} {y : Nat} (h : y ∈ ownedNodes d s.ranks s.rank) : (s.entry y).space ∈ s.graphUsed d :=
  List.mem_cons_of_mem _ (List.mem_flatMap.mpr ⟨y, h, List.mem_cons_self⟩)

theorem length_le_capFor (n : Nat) : n ≤ capFor n := by
  simp only [capFor, roundUp, ceilDiv]
  omega

/-- The entry of a run relocated to an address. -/
def RunEntry.movedTo (r : RunEntry) (a : Nat) (live : List Edge) : RunEntry := { r with addr := a, len := live.length, cap := capFor live.length }

/-- The live records stored at an address, and the entry of their run. -/
def State.moveRun (s : State) (x a : Nat) (live : List Edge) : State :=
  (s.write (s.entryAddr x) (runEntryBytes ((s.entry x).movedTo a live))).write a (live.flatMap edgeBytes)

theorem runRecords_of_stored (s : State) (a : Nat) {es : List Edge} (h : ∀ e ∈ es, edgeOf (edgeBytes e) = e) {r : RunEntry} (ha : r.addr = a)
    (hl : r.len = es.length) : (s.write a (es.flatMap edgeBytes)).runRecords r = es := by
  apply List.ext_getElem
  · simp [State.runRecords, hl]
  · intro i h1 h2
    have stored := s.read_write a (es.flatMap edgeBytes)
    rw [length_flatMap_edgeBytes] at stored
    simp only [State.runRecords, List.getElem_map, List.getElem_range, ha]
    rw [← State.slice_read _ (n := 16 * es.length) (by omega), stored, slice_flatMap edgeBytes es (fun e _ => length_edgeBytes e) i h2]
    exact h _ (List.getElem_mem h2)

/-- Every record of a run is stored as the bytes it was read from. -/
theorem State.edgeOf_edgeBytes_runRecords {s : State} {r : RunEntry} {e : Edge} (h : e ∈ s.runRecords r) : edgeOf (edgeBytes e) = e := by
  obtain ⟨i, -, rfl⟩ := List.mem_map.mp h
  rw [edgeBytes_edgeOf (length_bytesAt _ _ _ _)]

/-- A store outside a run's space leaves its records. -/
theorem State.runRecords_write {s : State} {a : Nat} {b : List Byte} {r : RunEntry} (hl : r.len ≤ r.cap)
    (h : overlaps r.space { base := a, len := b.length } = false) : (s.write a b).runRecords r = s.runRecords r := by
  refine List.map_congr_left fun i hi => congrArg edgeOf (State.read_write_disjoint ?_)
  have hi := List.mem_range.mp hi
  have inside : within r.space (r.addr + 16 * i) 16 = true := within_iff.mpr (by dsimp only [RunEntry.space]; omega)
  exact overlaps_of_within inside h (Nat.le_refl _)

theorem State.entry_write {s : State} {a : Nat} {b : List Byte} {x : Nat}
    (h : overlaps { base := s.entryAddr x, len := 32 } { base := a, len := b.length } = false) : (s.write a b).entry x = s.entry x :=
  congrArg runEntryOf (State.read_write_disjoint h)

theorem State.entry_write_entry (s : State) (x : Nat) {r : RunEntry} (h : runEntryOf (runEntryBytes r) = r) :
    (s.write (s.entryAddr x) (runEntryBytes r)).entry x = r := by
  have stored := s.read_write (s.entryAddr x) (runEntryBytes r)
  rw [length_runEntryBytes] at stored
  exact (congrArg runEntryOf stored).trans h

section
variable {s u : State} {d : Decl} {x : Nat} (h : s.relocate d x = some u)
include h

/-- A relocation stores the live records in room that it has found, and the entry. -/
theorem State.relocate_eq : ∃ a live, live = liveRecords (s.runRecords (s.entry x)) ∧ s.graphFit d (16 * capFor live.length) 256 = some a ∧
    u = s.moveRun x a live := by
  obtain ⟨a, ha, rfl⟩ := Option.map_eq_some_iff.mp h
  exact ⟨a, _, rfl, ha, rfl⟩

/-- Its entry names the room, and the records there are the run's live records. -/
theorem State.relocate_moved (hw : within (s.nodeTable d) (s.entryAddr x) 32 = true)
    (hb : s.graphRegion.base + s.graphRegion.len ≤ 2 ^ 40) (hl : s.graphRegion.len < 2 ^ 36) :
    ∃ a live, live = liveRecords (s.runRecords (s.entry x)) ∧ u.entry x = (s.entry x).movedTo a live ∧ a % 256 = 0 ∧
      within s.graphRegion a (16 * capFor live.length) = true ∧ u.runRecords (u.entry x) = live := by
  obtain ⟨a, live, hlive, hfit, rfl⟩ := State.relocate_eq h
  obtain ⟨hmod, hin, hclear⟩ := State.graphFit_spec hfit
  have hcap := length_le_capFor live.length
  have hsize := within_iff.mp hin
  have kept : overlaps { base := s.entryAddr x, len := 32 } { base := a, len := (live.flatMap edgeBytes).length } = false :=
    overlaps_of_within hw (hclear _ (s.nodeTable_mem_graphUsed d)) (by rw [length_flatMap_edgeBytes]; exact Nat.mul_le_mul_left 16 hcap)
  have fits : runEntryOf (runEntryBytes ((s.entry x).movedTo a live)) = (s.entry x).movedTo a live := by
    obtain ⟨hv, hp⟩ := runEntryOf_lt (s.read (s.entryAddr x) 32)
    refine runEntryOf_runEntryBytes ?_ ?_ ?_ hv hp <;> dsimp only [RunEntry.movedTo] <;> omega
  have entered : (s.moveRun x a live).entry x = (s.entry x).movedTo a live :=
    (State.entry_write (s := s.write _ _) kept).trans (s.entry_write_entry x fits)
  refine ⟨a, live, hlive, entered, hmod, hin, ?_⟩
  rw [entered]
  refine runRecords_of_stored _ a (fun e he => ?_) rfl rfl
  rw [hlive] at he
  exact State.edgeOf_edgeBytes_runRecords (List.mem_of_mem_filter he)

/-- Another node's entry and run stay, where they lie apart from the entry. -/
theorem State.relocate_others {y : Nat} (hy : y ∈ ownedNodes d s.ranks s.rank) (hw : within (s.nodeTable d) (s.entryAddr y) 32 = true)
    (he : overlaps { base := s.entryAddr x, len := 32 } { base := s.entryAddr y, len := 32 } = false)
    (hr : overlaps { base := s.entryAddr x, len := 32 } (s.entry y).space = false) (hc : (s.entry y).len ≤ (s.entry y).cap) :
    u.entry y = s.entry y ∧ u.runRecords (u.entry y) = s.runRecords (s.entry y) := by
  obtain ⟨a, live, -, hfit, rfl⟩ := State.relocate_eq h
  obtain ⟨-, -, hclear⟩ := State.graphFit_spec hfit
  have hsize : (live.flatMap edgeBytes).length ≤ 16 * capFor live.length := by
    rw [length_flatMap_edgeBytes]
    exact Nat.mul_le_mul_left 16 (length_le_capFor _)
  have whole : within (s.entry y).space (s.entry y).addr (16 * (s.entry y).cap) = true := within_iff.mpr ⟨Nat.le_refl _, Nat.le_refl _⟩
  have hrun := overlaps_of_within whole (hclear _ (State.space_mem_graphUsed hy)) hsize
  have hentry := overlaps_of_within hw (hclear _ (s.nodeTable_mem_graphUsed d)) hsize
  have entered : (s.moveRun x a live).entry y = s.entry y :=
    (State.entry_write (s := s.write _ _) hentry).trans (State.entry_write (by rw [length_runEntryBytes, overlaps_comm]; exact he))
  refine ⟨entered, ?_⟩
  rw [entered, State.moveRun, State.runRecords_write hc hrun, State.runRecords_write hc (by rw [length_runEntryBytes, overlaps_comm]; exact hr)]

end

/-! ### Draws (06 R141, R142, R147) -/

theorem mem_of_mem_withEseq {live : List Edge} {x : Edge × Nat} (h : x ∈ withEseq live) : x.1 ∈ live := by
  obtain ⟨i, hi, rfl⟩ := List.mem_map.mp h
  have hi := List.mem_range.mp hi
  show live.getD i default ∈ live
  rw [List.getD_eq_getElem _ _ hi]
  exact List.getElem_mem hi

theorem mem_eligible {h : Hop} {tb : Nat} {live : List Edge} {x : Edge × Nat} (hx : x ∈ eligible h tb live) :
    x.1 ∈ live ∧ x.1.ts < tb ∧ h.typeMask.getLsbD x.1.etype = true ∧ (h.mode = .temporalWindow → tb - h.window ≤ x.1.ts) := by
  obtain ⟨hx, hp⟩ := List.mem_filter.mp hx
  simp only [Bool.and_eq_true, Bool.or_eq_true, bne_iff_ne, decide_eq_true_eq] at hp
  obtain ⟨⟨ht, hm⟩, hw⟩ := hp
  exact ⟨mem_of_mem_withEseq hx, ht, hm, fun he => hw.resolve_left fun hn => hn he⟩

/-- A child takes none but some records. -/
def Child.takesOf (es : List (Edge × Nat)) (c : Child) : Prop := ∀ x, c.took = some x → x ∈ es

theorem length_fillChildren (f : Nat) (l : List Child) : (fillChildren f l).length = f := by simp [fillChildren]

theorem fillChildren_takesOf {es : List (Edge × Nat)} {f : Nat} {l : List Child} (h : ∀ c ∈ l, c.takesOf es) : ∀ c ∈ fillChildren f l, c.takesOf es := by
  intro c hc
  rcases List.mem_append.mp (List.mem_of_mem_take hc) with hc | hc
  · exact h c hc
  · rw [List.eq_of_mem_replicate hc]
    intro x hx
    cases hx

theorem weightedFall_mem {u : Nat} {es : List (Edge × Nat)} {x : Edge × Nat} (h : weightedFall u es = some x) : x ∈ es := by
  obtain ⟨i, -, hi⟩ := Option.bind_eq_some_iff.mp h
  exact List.mem_of_getElem? hi

theorem weightedChild_takesOf (gen : DrawGen) (slot : Nat) (table : List (Nat × Nat)) (live es : List (Edge × Nat)) (fuel a : Nat) :
    (weightedChild gen slot table live es fuel a).takesOf es := by
  induction fuel generalizing a with
  | zero =>
    intro x hx
    unfold weightedChild at hx
    split at hx
    · next y hy => exact Option.some.inj hx ▸ weightedFall_mem hy
    · cases hx
  | succ fuel ih =>
    unfold weightedChild
    dsimp only
    split
    · split
      · next hy =>
        intro x hx
        rw [← Option.some.inj hx]
        exact List.contains_iff_mem.mp (Bool.and_eq_true_iff.mp hy).1
      · exact ih _
    · exact ih _

/-- Whatever the hop's rule, its children take eligible records. -/
theorem drawChildren_takesOf (h : Hop) (tb slot : Nat) (gen : DrawGen) (table : List (Nat × Nat)) (live : List Edge) :
    ∀ c ∈ drawChildren h tb slot gen table live, c.takesOf (eligible h tb live) := by
  have empty : ∀ c ∈ ([] : List Child), c.takesOf (eligible h tb live) := fun c hc => by cases hc
  have listed : ∀ (l : List (Edge × Nat)) (g : Edge × Nat → Child), l ⊆ eligible h tb live → (∀ x, (g x).took = some x) →
      ∀ c ∈ l.map g, c.takesOf (eligible h tb live) := fun l g hl hg c hc x hx => by
    obtain ⟨y, hy, rfl⟩ := List.mem_map.mp hc
    exact Option.some.inj ((hg y).symm.trans hx) ▸ hl hy
  have picked : ∀ (l : List Nat) (i : Nat → Nat), ∀ c ∈ l.map (fun j => ({ took := (eligible h tb live)[i j]? } : Child)), c.takesOf (eligible h tb live) :=
    fun l i c hc x hx => by
      obtain ⟨j, -, rfl⟩ := List.mem_map.mp hc
      exact List.mem_of_getElem? hx
  unfold drawChildren
  dsimp only
  split
  case h_1 | h_2 =>
    split
    · split
      · exact fillChildren_takesOf empty
      · exact fillChildren_takesOf (picked _ _)
    · split
      · exact fillChildren_takesOf (listed _ _ (List.Subset.refl _) fun _ => rfl)
      · exact fillChildren_takesOf (picked _ id)
  case h_3 =>
    split
    · exact fillChildren_takesOf empty
    · refine fillChildren_takesOf fun c hc => ?_
      obtain ⟨j, -, rfl⟩ := List.mem_map.mp hc
      exact weightedChild_takesOf _ _ _ _ _ _ _
  case h_4 => exact fillChildren_takesOf (listed _ _ (fun x hx => List.mem_of_mem_drop (List.mem_reverse.mp hx)) fun _ => rfl)
  case h_5 =>
    split
    · exact fillChildren_takesOf (listed _ _ (List.Subset.refl _) fun _ => rfl)
    · exact fillChildren_takesOf (listed _ _ (fun x hx => List.mem_of_mem_drop hx) fun _ => rfl)

theorem length_drawChildren (h : Hop) (tb slot : Nat) (gen : DrawGen) (table : List (Nat × Nat)) (live : List Edge) :
    (drawChildren h tb slot gen table live).length = h.fanout := by
  unfold drawChildren
  dsimp only
  repeat' split
  all_goals exact length_fillChildren _ _

/-! ### The obligation -/

/-- Settles O31: an insertion is two filters with the edge between; a relocation finds room clear of every range in use; every rule of a hop takes from the
eligible records. -/
theorem runsAndDraws : Obligations.RunsAndDraws := by
  unfold Obligations.RunsAndDraws
  refine ⟨fun e es => ⟨insertEdge_pairwise e, insertEdge_perm e es, ⟨_, _, insertEdge_eq e es, fun x hx => ?_, fun x hx => ?_⟩,
      fun es' h => ⟨deleteEdge_live h, deleteEdge_fields h⟩⟩, ?_, ?_, fun h tb slot gen table live => length_drawChildren _ _ _ _ _ _⟩
  · exact of_decide_eq_true (List.mem_filter.mp hx).2
  · exact of_decide_eq_true (List.mem_filter.mp hx).2
  · rintro s u d x live table h - - rfl rfl hw hb hl -
    obtain ⟨a, live, rfl, he, hmod, hin, hrun⟩ := State.relocate_moved h hw hb hl
    refine ⟨by rw [he]; rfl, by rw [he]; exact hmod, by rw [he]; exact hin, hrun, fun y hy hne hyw hoe hor hc => State.relocate_others h hy hyw hoe hor hc⟩
  · intro h tb slot gen table es c hc x hx
    obtain ⟨hl, ht, hm, hwin⟩ := mem_eligible (drawChildren_takesOf _ _ _ _ _ _ c hc x hx)
    obtain ⟨hl, hd⟩ := List.mem_filter.mp hl
    exact ⟨hl, by simpa using hd, ht, hm, hwin⟩

end Sys2Proof.Machine
end

section
/-! SUPPORT. What a load places, and the copies for which a load waits (14 R350, 11 R278). -/

namespace Sys2Proof.Machine

open Sys2Proof

/-! ### What a load places -/

/-- On the way from `s` to `t` bytes have been stored, shadow slots laid out, and boundary actions staged again. -/
def State.placesOnly (s t : State) : Prop :=
  { t with mem := s.mem, ctr := s.ctr, st := { t.st with shadow := s.st.shadow, acts := s.st.acts } } = s

theorem State.placesOnly_refl (s : State) : s.placesOnly s := rfl

theorem State.placesOnly_trans {s t u : State} (h : s.placesOnly t) (k : t.placesOnly u) : s.placesOnly u :=
  (congrArg (fun x : State => ({ x with
    mem := s.mem, ctr := s.ctr, st := { x.st with shadow := s.st.shadow, acts := s.st.acts } } : State)) k).trans h

theorem State.placesOnly_iff (s t : State) : s.placesOnly t ↔
    ∃ m c h a, t = { s with mem := m, ctr := c, st := { s.st with shadow := h, acts := a } } := by
  constructor
  · intro h
    refine ⟨t.mem, t.ctr, t.st.shadow, t.st.acts, ?_⟩
    rw [← (h : { t with mem := s.mem, ctr := s.ctr, st := { t.st with shadow := s.st.shadow, acts := s.st.acts } } = s)]
  · rintro ⟨m, c, h, a, rfl⟩
    rfl

/-- Each of a list placed behind what has been placed. -/
theorem State.placesOnly_foldl {α : Type} {f : State → α → State} (h : ∀ (s : State) x, s.placesOnly (f s x)) (l : List α) {s t : State}
    (ht : s.placesOnly t) : s.placesOnly (l.foldl f t) :=
  List.foldlRecOn (motive := s.placesOnly) l f ht fun t ht x _ => State.placesOnly_trans ht (h t x)

theorem State.placesOnly_of_storesOnly {s t : State} (h : s.storesOnly t) : s.placesOnly t := by
  obtain ⟨m, c, rfl⟩ := (State.storesOnly_iff s t).mp h
  rfl

/-- Stores for each of a list. -/
theorem State.storesOnly_writes {α : Type} (a : State → α → Nat) (b : State → α → List Byte) (l : List α) (s : State) :
    s.storesOnly (l.foldl (fun s x => s.write (a s x) (b s x)) s) :=
  State.storesOnly_foldl _ (fun t x => t.storesOnly_write (a t x) (b t x)) l s

theorem State.clearMirrors_storesOnly (s : State) : s.storesOnly s.clearMirrors := State.storesOnly_writes _ _ _ s

theorem State.clearRing_storesOnly (s : State) : s.storesOnly s.clearRing := State.storesOnly_writes _ _ _ s

theorem State.putAll_storesOnly (s : State) (l : List (Nat × List Byte)) : s.storesOnly (s.putAll l) := State.storesOnly_writes _ _ _ s

theorem State.placeRows_storesOnly (s : State) (t : Nat) (td : TableDecl) : s.storesOnly (s.placeRows t td) := State.storesOnly_writes _ _ _ s

theorem State.placeState_placesOnly (s : State) : s.placesOnly s.placeState := by
  unfold State.placeState
  dsimp only
  refine State.placesOnly_foldl (fun t x => ?_) _ (State.placesOnly_foldl (fun t x => ?_) _ (State.placesOnly_foldl (fun t x => ?_) _
    (State.placesOnly_foldl (fun t x => ?_) _ (State.placesOnly_of_storesOnly (State.storesOnly_writes _ _ _ _)))))
  · split
    · exact State.placesOnly_of_storesOnly (State.storesOnly_writes _ _ _ _)
    · rfl
  · exact State.placesOnly_of_storesOnly (t.storesOnly_write _ _)
  · rfl
  · split
    · exact State.placesOnly_of_storesOnly (t.placeRows_storesOnly _ _)
    · rfl

theorem State.deriveWork_storesOnly (s : State) : s.storesOnly s.deriveWork := by
  unfold State.deriveWork
  dsimp only
  refine State.storesOnly_trans (State.storesOnly_foldl _ (fun t x => ?_) _ _) (State.storesOnly_foldl _ (fun t x => ?_) _ _)
  · exact State.storesOnly_trans (State.storesOnly_trans (t.storesOnly_write _ _) (State.storesOnly_write _ _ _)) (State.storesOnly_write _ _ _)
  · split
    · exact State.storesOnly_writes _ _ _ _
    · rfl

theorem State.stageAct_placesOnly (s : State) (a : Act) : s.placesOnly (s.stageAct a).2 := by
  unfold State.stageAct
  split
  · rfl
  · dsimp only
    split
    · refine State.placesOnly_trans (State.placesOnly_of_storesOnly (State.storesOnly_foldl _ (fun v i => ?_) _ s)) rfl
      exact State.storesOnly_trans (v.storesOnly_write _ _) (State.countNarrow_storesOnly _ _ _)
    · rfl

theorem State.restage_placesOnly (s : State) : s.placesOnly s.restage := by
  refine State.placesOnly_foldl (fun t a => ?_) _ s.placesOnly_refl
  split
  · exact State.placesOnly_trans (t.stageAct_placesOnly a) rfl
  · rfl

/-! ### The program in place -/

/-- The state as a load has put its program in place of what was loaded, before anything is placed. -/
def State.programSet (s : State) (w : LoadWait) : State :=
  let t := s.installProgram (w.prog.withShared w.inits)
  if s.verdictOf s.spareRank == some (w.prog.hash, true) then { t with recov := { t.recov with noSpare := false } } else t

theorem State.dropOwnArrivals_eq (s : State) : ∃ b, s.dropOwnArrivals = { s with bar := b } :=
  List.foldlRecOn (motive := fun t : State => ∃ b, t = { s with bar := b }) _ _ ⟨s.bar, rfl⟩ fun t ⟨b, h⟩ _ _ => by
    subst h
    exact ⟨_, rfl⟩

/-- What a program that is put in place leaves of the state before. -/
structure State.Replaced (s : State) (p : Program) (t : State) : Prop where
  prog : t.prog = some p
  stepNo : t.st.stepNo = p.first
  fallback : t.recov.fallback = false
  loadWait : t.loadWait = none
  nor : t.nor = s.nor
  fuse : t.fuse = s.fuse
  mir : t.mir = .reset
  host : t.host = s.host
  ms : t.ms = s.ms
  rank : t.mach.rank = s.mach.rank

theorem State.installProgram_replaces (s : State) (p : Program) : s.Replaced p (s.installProgram p) := by
  have before : ∃ u : State, s.installProgram p = u.clearRing ∧ s.Replaced p u := by
    obtain ⟨m, c, e⟩ := (State.storesOnly_iff _ _).mp s.clearRing_storesOnly
    obtain ⟨b, eb⟩ := State.dropOwnArrivals_eq { s with mem := m, ctr := c }
    unfold State.installProgram
    rw [e, eb]
    exact ⟨_, rfl, rfl, rfl, rfl, rfl, rfl, rfl, rfl, rfl, rfl, rfl⟩
  obtain ⟨u, e, h⟩ := before
  obtain ⟨m, c, eu⟩ := (State.storesOnly_iff _ _).mp u.clearRing_storesOnly
  rw [e, eu]
  exact ⟨h.prog, h.stepNo, h.fallback, h.loadWait, h.nor, h.fuse, h.mir, h.host, h.ms, h.rank⟩

theorem State.programSet_replaces (s : State) (w : LoadWait) : s.Replaced (w.prog.withShared w.inits) (s.programSet w) := by
  have h := s.installProgram_replaces (w.prog.withShared w.inits)
  unfold State.programSet
  dsimp only
  split
  · exact ⟨h.prog, h.stepNo, h.fallback, h.loadWait, h.nor, h.fuse, h.mir, h.host, h.ms, h.rank⟩
  · exact h

/-- Placing keeps what is known of the program. -/
theorem State.Replaced.places {s t v : State} {p : Program} (h : s.Replaced p t) (hv : t.placesOnly v) : s.Replaced p v := by
  obtain ⟨m, c, sh, ac, rfl⟩ := (State.placesOnly_iff _ _).mp hv
  exact ⟨h.prog, h.stepNo, h.fallback, h.loadWait, h.nor, h.fuse, h.mir, h.host, h.ms, h.rank⟩

/-- What a load that is agreed places: everything on a member, on a spare only what every module alike has. -/
def State.loadPlaced (s : State) (w : LoadWait) : State :=
  let t := s.programSet w
  if t.mach.rank.isNone then t.putAll (w.prog.sharedBytes w.inits)
  else (t.clearMirrors.placeState.putAll (w.prog.sharedBytes w.inits)).deriveWork.restage

theorem State.loadPlaced_replaces (s : State) (w : LoadWait) : s.Replaced (w.prog.withShared w.inits) (s.loadPlaced w) := by
  refine (s.programSet_replaces w).places ?_
  unfold State.loadPlaced
  dsimp only
  split
  · exact State.placesOnly_of_storesOnly (State.putAll_storesOnly _ _)
  · exact State.placesOnly_trans (State.placesOnly_of_storesOnly (State.clearMirrors_storesOnly _)) (State.placesOnly_trans (State.placeState_placesOnly _)
      (State.placesOnly_trans (State.placesOnly_of_storesOnly (State.putAll_storesOnly _ _))
        (State.placesOnly_trans (State.placesOnly_of_storesOnly (State.deriveWork_storesOnly _)) (State.restage_placesOnly _))))

/-- It ends with copies of what it has placed. -/
theorem State.finishLoad_eq (s : State) (w : LoadWait) : ∃ touched, (s.mach.rank = none → touched = []) ∧
    s.finishLoad w = (s.loadPlaced w).copyBoundary touched [(w.ring, hashInfo w.prog.hash, 0)] := by
  have hr := (s.programSet_replaces w).rank
  have shape : s.finishLoad w = if (s.programSet w).mach.rank.isNone then
        ((s.programSet w).putAll (w.prog.sharedBytes w.inits)).copyBoundary [] [(w.ring, hashInfo w.prog.hash, 0)]
      else
        let v := (((s.programSet w).clearMirrors.placeState.putAll (w.prog.sharedBytes w.inits)).deriveWork.restage)
        v.copyBoundary (v.imageRegions v.st.wEpoch) [(w.ring, hashInfo w.prog.hash, 0)] := rfl
  rw [shape]
  by_cases hn : (s.programSet w).mach.rank.isNone = true
  · exact ⟨[], fun _ => rfl, by simp only [State.loadPlaced, hn, if_true]⟩
  · exact ⟨(s.loadPlaced w).imageRegions (s.loadPlaced w).st.wEpoch, fun h => absurd (by rw [hr, h]; rfl) hn,
      by simp only [State.loadPlaced, hn, Bool.false_eq_true, if_false]⟩

/-- A load that is agreed puts its program in place. -/
theorem State.finishLoad_places (s : State) (w : LoadWait) : (s.finishLoad w).prog = some (w.prog.withShared w.inits) ∧
    (s.finishLoad w).st.stepNo = w.prog.first ∧ (s.finishLoad w).recov.fallback = false ∧ (s.finishLoad w).loadWait = none ∧
    (s.finishLoad w).nor = s.nor ∧ (s.finishLoad w).fuse = s.fuse := by
  have h := s.loadPlaced_replaces w
  obtain ⟨touched, -, e⟩ := s.finishLoad_eq w
  obtain ⟨hc, -⟩ := (s.loadPlaced w).copyBoundary_boundary touched [(w.ring, hashInfo w.prog.hash, 0)]
  rw [← e] at hc
  exact ⟨(congrArg State.prog hc).trans h.prog, (congrArg (·.st.stepNo) hc).trans h.stepNo, (congrArg (·.recov.fallback) hc).trans h.fallback,
    (congrArg State.loadWait hc).trans h.loadWait, (congrArg State.nor hc).trans h.nor, (congrArg State.fuse hc).trans h.fuse⟩

/-! ### The copies of a load without a holder -/

/-- A load that waits for no other copies completes in LOADED. -/
theorem State.finishCopies_load {s : State} {n info i : Nat} {d : List Byte} (ha : s.allAcked = true) (hw : s.mir.waiting = [(n, info, 0)])
    (hb : (s.ring n).busy = some (i, d)) (ho : descOp d = 0x02) (hm : s.ms.st = .joined ∨ s.ms.st = .loaded) :
    s.finishCopies.ms.st = .loaded ∧ s.ended n { status := .ok, info := info } s.finishCopies := by
  unfold State.finishCopies
  rw [if_pos ha]
  dsimp only
  rw [hw]
  generalize hu : State.sendAll _ (if s.st.eddyAcks.isEmpty then s.st.owed else []) _ = u
  have hu' : u.host = s.host ∧ u.ms = s.ms := by
    obtain ⟨n1, c1, e1⟩ := State.sendAll_eq _ s.st.owedMoves _
    rw [← hu, e1]
    obtain ⟨n2, c2, e2⟩ := State.sendAll_eq _ _ _
    rw [e2]
    exact ⟨rfl, rfl⟩
  obtain ⟨hh, hms⟩ := hu'
  have hring : (u.enter .loaded).ring n = s.ring n := by
    show NMap.get _ (u.enter .loaded).host.rings n = NMap.get _ s.host.rings n
    rw [State.enter_rings, hh]
  have hop : ((u.ring n).busy).elim 0 (fun b => descOp b.2) = 0x02 := by
    rw [State.ring, hh, ← State.ring, hb]
    exact ho
  have hst : (u.enter .loaded).ms.st = .loaded := by
    rcases hm with hm | hm <;> simp [State.enter, hms, hm, MState.enters]
  have waited : [(n, info, 0)].foldl State.finishWaiting u = (u.enter .loaded).complete n { status := .ok, info := info } := by
    simp [State.finishWaiting, hop]
  rw [waited]
  have hdone : ((u.enter .loaded).complete n { status := .ok, info := info }).ms.st = .loaded := by
    rw [State.complete_ms _ _ _ (by rw [hst]; decide), hst]
  refine ⟨?_, State.ended_goesOn (State.complete_ended hring (by rw [hb]; rfl)) (State.tryBegin_copies _).2.1⟩
  obtain ⟨b, n', c, w, x, e⟩ := State.tryBegin_eq ((u.enter .loaded).complete n { status := .ok, info := info })
  rw [e]
  exact hdone

/-- Copies without a holder need no acknowledgement. -/
theorem State.copyBoundary_load {s : State} {n info i : Nat} {d : List Byte} (hr : s.mir = .reset) {touched : List Region}
    (hh : touched = [] ∨ s.holders s.rank = []) (hb : (s.ring n).busy = some (i, d)) (ho : descOp d = 0x02) (hm : s.ms.st = .joined ∨ s.ms.st = .loaded) :
    (s.copyBoundary touched [(n, info, 0)]).ms.st = .loaded ∧ s.ended n { status := .ok, info := info } (s.copyBoundary touched [(n, info, 0)]) := by
  unfold State.copyBoundary
  split
  · exact State.finishCopies_load (s := { s with mir := { s.mir with waiting := s.mir.waiting ++ [(n, info, 0)] } }) (by rw [hr]; rfl) (by rw [hr]; rfl) hb ho hm
  · next ht =>
    rw [State.copyWith]
    generalize hv : State.write _ _ _ = v
    obtain ⟨x, c, k, e, hk, -⟩ := v.stream_eq 3 (v.runsOf (v.imageRegions v.st.wEpoch) (touched ++ [v.tailRegion]))
    have hv' : v.mir.waiting = [(n, info, 0)] ∧ v.host = s.host ∧ v.ms = s.ms ∧ v.holders v.rank = s.holders s.rank := by
      rw [← hv]
      exact ⟨by show s.mir.waiting ++ _ = _; rw [hr]; rfl, rfl, rfl, rfl⟩
    obtain ⟨hw, hhost, hms, hhold⟩ := hv'
    have hk := hk (hhold ▸ hh.resolve_left ht)
    rw [e]
    have hring : v.ring n = s.ring n := by rw [State.ring, hhost]
    obtain ⟨h1, h2⟩ := State.finishCopies_load (s := { v with
      net := x, ctr := c, mir := { v.mir with out := v.runsOf (v.imageRegions v.st.wEpoch) (touched ++ [v.tailRegion]), acks := k } })
      (info := info) (by show k.all _ = true; rw [hk]; rfl) hw (hring ▸ hb) ho (hms ▸ hm)
    exact ⟨h1, State.ended_of_ring hring h2⟩

/-- A load agreed on a module without a holder completes in LOADED. -/
theorem State.finishLoad_completes {s : State} {w : LoadWait} {i : Nat} {d : List Byte} (hh : s.mach.rank = none ∨ s.holders s.rank = [])
    (hb : (s.ring w.ring).busy = some (i, d)) (ho : descOp d = 0x02) (hm : s.ms.st = .joined ∨ s.ms.st = .loaded) :
    (s.finishLoad w).ms.st = .loaded ∧ s.ended w.ring { status := .ok, info := hashInfo w.prog.hash } (s.finishLoad w) := by
  have h := s.loadPlaced_replaces w
  obtain ⟨touched, ht, e⟩ := s.finishLoad_eq w
  rw [e]
  generalize s.loadPlaced w = v at h
  have vhold : v.holders v.rank = s.holders s.rank := by
    simp only [State.holders, State.rankAt, State.homePosition, State.rank, h.ms, h.rank]
  have vring : v.ring w.ring = s.ring w.ring := by rw [State.ring, h.host]
  obtain ⟨h1, h2⟩ := State.copyBoundary_load (info := hashInfo w.prog.hash) h.mir (hh.imp ht fun k => vhold ▸ k) (vring ▸ hb) ho (h.ms ▸ hm)
  exact ⟨h1, State.ended_of_ring vring h2⟩

end Sys2Proof.Machine
end

section
/-! PROOFS. LOAD_PROGRAM, and the verdicts of its sled (14 R349-R351). -/

namespace Sys2Proof.Machine

open Sys2Proof

/-! ### Verdicts -/

/-- A verdict sent to several is sent to each of them. -/
theorem State.sendAll_emits {s : State} {l : List Nat} {m : Nat → Msg} (hl : s.live = true) {r : Nat} (hr : r ∈ l) : s.emits (s.sendAll l m) (m r) := by
  have e : s.sendAll l m = s.sendMsgs (l.map m) := List.foldl_map.symm
  rw [e]
  exact State.sendMsgs_emits hl (List.mem_map_of_mem hr)

/-- A load goes on while a peer's verdict is awaited and none refuses. -/
theorem State.tryLoad_waits {s : State} {w : LoadWait} (h : s.loadWait = some w) (hp : s.verdictPeers ≠ []) (hv : s.mach.verdicts = []) : s.tryLoad = s := by
  obtain ⟨r, t, hr⟩ := List.exists_cons_of_ne_nil hp
  simp [State.tryLoad, h, hr, State.verdictOf, hv]

/-- A refusal ends it. -/
theorem State.tryLoad_refused {s : State} {w : LoadWait} (h : s.loadWait = some w) {r : Nat} (hr : r ∈ s.verdictPeers) {v : W256 × Bool}
    (hv : s.verdictOf r = some v) (hn : v ≠ (w.prog.hash, true)) : s.tryLoad = s.failLoad w.ring := by
  have refused : ((s.verdictPeers.map s.verdictOf).any fun x => x.elim false fun x => x != (w.prog.hash, true)) = true := by
    rw [List.any_eq_true]
    exact ⟨some v, List.mem_map.mpr ⟨r, hr, hv⟩, by simpa using hn⟩
  simp only [State.tryLoad, h, refused, if_true]

/-- With every peer agreed the program is put in place. -/
theorem State.tryLoad_agreed {s : State} {w : LoadWait} (h : s.loadWait = some w) (hv : ∀ r ∈ s.verdictPeers, s.verdictOf r = some (w.prog.hash, true)) :
    s.tryLoad = s.finishLoad w := by
  have refused : ((s.verdictPeers.map s.verdictOf).any fun x => x.elim false fun x => x != (w.prog.hash, true)) = false := by
    rw [List.any_eq_false]
    intro x hx
    obtain ⟨r, hr, rfl⟩ := List.mem_map.mp hx
    simp [hv r hr]
  have agreed : ((s.verdictPeers.map s.verdictOf).all (·.isSome)) = true := by
    rw [List.all_eq_true]
    intro x hx
    obtain ⟨r, hr, rfl⟩ := List.mem_map.mp hx
    simp [hv r hr]
  simp only [State.tryLoad, h, refused, agreed, if_true, Bool.false_eq_true, if_false]

/-! ### LOAD_PROGRAM -/

/-- The state in which a load that has told its verdict awaits the others'. -/
def State.loadAwaits (s : State) (w : LoadWait) : State :=
  { s.sendVerdict w.prog.hash true with
    loadWait := some w
    wd := some .load }

theorem State.loadAwaits_eq (s : State) (w : LoadWait) : ∃ x c, s.loadAwaits w = { s with net := x, ctr := c, loadWait := some w, wd := some .load } := by
  obtain ⟨x, c, e⟩ := s.sendAll_eq s.verdictPeers (verdictMsg w.prog.hash true)
  unfold State.loadAwaits State.sendVerdict
  rw [e]
  exact ⟨x, c, rfl⟩

/-- What ended in the state in which a command has been taken up has answered it. -/
theorem State.answered_of_ended {s u t : State} {n : Nat} {d : List Byte} {c : Cpl} (h : s.upNext n d) (hu : u.ring n = (s.takenUp n).ring n)
    (e : u.ended n c t) : s.answered n d c t := by
  obtain ⟨i, d', hb, hp, hn⟩ := e
  rw [hu, State.takenUp_busy s n d h] at hb
  obtain ⟨rfl, rfl⟩ := Prod.mk.inj (Option.some.inj hb)
  refine ⟨?_, hn⟩
  have hc : (u.ring n).ctx = (s.ring n).ctx := by rw [hu, State.takenUp_ctx]
  unfold State.posted at hp ⊢
  rwa [hc] at hp

theorem State.live_of_upNext {s : State} {n : Nat} {d : List Byte} (h : s.upNext n d) : s.live = true := by
  rcases h with ⟨-, h⟩ | ⟨-, -, h⟩
  · simp only [State.canDequeue, Bool.and_eq_true] at h
    exact h.1.1.1.1
  · exact h

section
variable {s : State} {n : Nat} {d host b : List Byte} {dc : Decl} {p : Placement} {inits : InitWrites} {sp : List (Nat × Placement)} {q : Program}
  (h : s.takes n 0x02 d)
include h

/-- A buffer that cannot be read. -/
theorem loadProgram_unread {x : Status} (hx : s.readBuffer (field d 16 8) (field d 24 8) host = .error x) :
    exec (.loadProgram n host (some dc) ⟨p, sp⟩ inits) s = .next ((s.takenUp n).complete n { status := x }) := by
  obtain ⟨y, e⟩ := s.takenUp_eq n
  have hx' : (s.takenUp n).readBuffer (field d 16 8) (field d 24 8) host = .error x := by rw [e]; exact hx
  show Host.Outcome.next (loadProgram n host (some dc) p inits sp s) = _
  simp only [loadProgram, State.command_takes s n 0x02 d (fun _ => true) _ h rfl, hx']

variable (hb : s.readBuffer (field d 16 8) (field d 24 8) host = .ok b) (hq : q = programOf b (field d 32 8) (field d 40 4) dc p sp)
include hb hq

/-- An image that fails a check, or whose INIT is malformed, is refused at once. -/
theorem loadProgram_refused {x : Status} (hx : s.loadCheck b (slice d 48 16) (some dc) p sp = some x ∨
      (s.loadCheck b (slice d 48 16) (some dc) p sp = none ∧ (s.initCovers dc p q.t7 inits && inits.all (s.initWrites p)) = false ∧ x = .formatInvalid)) :
    exec (.loadProgram n host (some dc) ⟨p, sp⟩ inits) s = .next (((s.takenUp n).sendVerdict q.hash false).complete n { status := x }) := by
  obtain ⟨y, e⟩ := s.takenUp_eq n
  have hb' : (s.takenUp n).readBuffer (field d 16 8) (field d 24 8) host = .ok b := by rw [e]; exact hb
  show Host.Outcome.next (loadProgram n host (some dc) p inits sp s) = _
  subst hq
  rcases hx with hx | ⟨hx, hi, rfl⟩
  · have hx' : (s.takenUp n).loadCheck b (slice d 48 16) (some dc) p sp = some x := by rw [e]; exact hx
    simp only [loadProgram, State.command_takes s n 0x02 d (fun _ => true) _ h rfl, hb', hx']
    rfl
  · have hx' : (s.takenUp n).loadCheck b (slice d 48 16) (some dc) p sp = none := by rw [e]; exact hx
    have hi' : (!(s.takenUp n).initCovers dc p (bits (field b 7 1) 0 1 == 1) inits || !inits.all ((s.takenUp n).initWrites p)) = true := by
      rw [← Bool.not_and, Bool.not_eq_true', e]
      exact hi
    simp only [loadProgram, State.command_takes s n 0x02 d (fun _ => true) _ h rfl, hb', hx', hi', if_true]
    rfl

/-- One that passes is agreed on with the sled. -/
theorem loadProgram_judged (hx : s.loadCheck b (slice d 48 16) (some dc) p sp = none)
    (hi : (s.initCovers dc p q.t7 inits && inits.all (s.initWrites p)) = true) :
    exec (.loadProgram n host (some dc) ⟨p, sp⟩ inits) s = .next ((s.takenUp n).loadAwaits { ring := n, prog := q, inits := inits }).tryLoad := by
  obtain ⟨y, e⟩ := s.takenUp_eq n
  have hb' : (s.takenUp n).readBuffer (field d 16 8) (field d 24 8) host = .ok b := by rw [e]; exact hb
  have hx' : (s.takenUp n).loadCheck b (slice d 48 16) (some dc) p sp = none := by rw [e]; exact hx
  have hi' : (!(s.takenUp n).initCovers dc p (bits (field b 7 1) 0 1 == 1) inits || !inits.all ((s.takenUp n).initWrites p)) = false := by
    rw [← Bool.not_and, Bool.not_eq_false', e]
    subst hq
    exact hi
  show Host.Outcome.next (loadProgram n host (some dc) p inits sp s) = _
  subst hq
  simp only [loadProgram, State.command_takes s n 0x02 d (fun _ => true) _ h rfl, hb', hx', hi', Bool.false_eq_true, if_false]
  rfl

end

/-- A refusal sends the verdict and completes; nothing else changes. -/
theorem State.verdict_complete {s : State} {n op : Nat} {d : List Byte} (h : s.takes n op d) (hash : W256) (ok : Bool) (c : Cpl) :
    s.answered n d c (((s.takenUp n).sendVerdict hash ok).complete n c) ∧
    s.hostOnly { ((s.takenUp n).sendVerdict hash ok).complete n c with net := s.net, ctr := s.ctr } := by
  obtain ⟨y, ey⟩ := s.takenUp_eq n
  obtain ⟨x, k, e⟩ := State.sendAll_eq (s.takenUp n) (s.takenUp n).verdictPeers (verdictMsg hash ok)
  have e : (s.takenUp n).sendVerdict hash ok = { s.takenUp n with net := x, ctr := k } := e
  rw [e]
  refine ⟨State.answered_complete s _ n d c h.1 rfl, ?_⟩
  obtain ⟨hs, hm⟩ := State.complete_hostOnly { s.takenUp n with net := x, ctr := k } n c
  rw [ey] at hs hm ⊢
  exact ⟨congrArg (fun u : State => { u with host := s.host, net := s.net, ctr := s.ctr }) hs, hm⟩

theorem State.takenUp_loadAwaits (s : State) (n : Nat) (w : LoadWait) : ∃ y x c, (s.takenUp n).loadAwaits w =
    { s with host := y, net := x, ctr := c, loadWait := some w, wd := some .load } ∧ NMap.get Ring.stopped y.rings n = (s.takenUp n).ring n := by
  obtain ⟨y, ey⟩ := s.takenUp_eq n
  obtain ⟨x, c, e⟩ := (s.takenUp n).loadAwaits_eq w
  rw [e, ey]
  exact ⟨y, x, c, rfl, rfl⟩

theorem legal_load {m : MState} (h : legal 0x02 m = .accept) : m = .joined ∨ m = .loaded := by
  cases m <;> simp_all [legal]

section
variable {s : State} {n : Nat} {d : List Byte} (h : s.takes n 0x02 d) (w : LoadWait)
include h

/-- Without another of its sled to agree with, a load puts its program in place at once. -/
theorem State.loadAwaits_alone (hw : w.ring = n) (hp : s.verdictPeers = []) : ∃ t, ((s.takenUp n).loadAwaits w).tryLoad = t ∧
    t.prog = some (w.prog.withShared w.inits) ∧ t.st.stepNo = w.prog.first ∧ t.recov.fallback = false ∧ t.loadWait = none ∧ t.nor = s.nor ∧
    t.fuse = s.fuse ∧ (s.mach.rank = none ∨ s.holders s.rank = [] → t.ms.st = .loaded ∧ s.answered n d { status := .ok, info := hashInfo w.prog.hash } t) := by
  subst hw
  obtain ⟨hup, hop, -, hlegal, -⟩ := h
  obtain ⟨y, x, c, e, hring⟩ := s.takenUp_loadAwaits w.ring w
  rw [e]
  generalize hu : ({ s with host := y, net := x, ctr := c, loadWait := some w, wd := some .load } : State) = u
  have kept : u.loadWait = some w ∧ u.verdictPeers = [] ∧ u.nor = s.nor ∧ u.fuse = s.fuse ∧ u.ms = s.ms ∧ u.mach.rank = s.mach.rank ∧
      u.holders u.rank = s.holders s.rank ∧ u.ring w.ring = (s.takenUp w.ring).ring w.ring := by
    rw [← hu]
    exact ⟨rfl, hp, rfl, rfl, rfl, rfl, rfl, hring⟩
  obtain ⟨hl, hp, hn, hf, hms, hr, hh, hring⟩ := kept
  rw [State.tryLoad_agreed hl (by rw [hp]; nofun)]
  obtain ⟨h1, h2, h3, h4, h5, h6⟩ := u.finishLoad_places w
  refine ⟨_, rfl, h1, h2, h3, h4, h5.trans hn, h6.trans hf, fun hc => ?_⟩
  obtain ⟨hst, hend⟩ := State.finishLoad_completes (s := u) (w := w) (by rw [hr, hh]; exact hc) (hring ▸ s.takenUp_busy w.ring d hup) hop
    (hms ▸ legal_load hlegal)
  exact ⟨hst, State.answered_of_ended hup hring hend⟩

/-- With another, the load waits in progress, and its verdict has gone to each. -/
theorem State.loadAwaits_peers (hp : s.verdictPeers ≠ []) (hv : s.mach.verdicts = []) : ∃ t, ((s.takenUp n).loadAwaits w).tryLoad = t ∧
    t.loadWait = some w ∧ (t.ring n).busy = some (s.nextIndex n, d) ∧ t.wd = some .load ∧ s.storesSame t ∧ s.stepSame t ∧
    ∀ r ∈ s.verdictPeers, s.emits t (verdictMsg w.prog.hash true r) := by
  obtain ⟨y, ey⟩ := s.takenUp_eq n
  have hlive : (s.takenUp n).live = true := by
    have live := State.live_of_upNext h.1
    rw [ey]
    exact live
  have told : ∀ r ∈ s.verdictPeers, s.emits ((s.takenUp n).loadAwaits w) (verdictMsg w.prog.hash true r) := fun r hr => by
    have hr' : r ∈ (s.takenUp n).verdictPeers := by rw [ey]; exact hr
    have sent := State.sendAll_emits (m := verdictMsg w.prog.hash true) hlive hr'
    have hn : (s.takenUp n).net = s.net := by rw [ey]
    unfold State.emits at sent ⊢
    rwa [hn] at sent
  obtain ⟨y, x, c, e, hring⟩ := s.takenUp_loadAwaits n w
  rw [e] at told ⊢
  refine ⟨_, State.tryLoad_waits rfl hp hv, rfl, ?_, rfl, ⟨rfl, rfl, rfl, rfl, rfl⟩, ⟨rfl, rfl, rfl, rfl⟩, told⟩
  exact (congrArg Ring.busy hring).trans (s.takenUp_busy n d h.1)

end

/-! ### LOAD_VERDICT -/

/-- The state in which a verdict has been taken from the inbox and kept. -/
def State.heard (s : State) (m : Msg) : State :=
  { s.took m with mach := { (s.took m).mach with
    verdicts := ((s.took m).mach.verdicts.filter fun (x : Nat × W256 × Bool) => x.1 != m.src) ++
      [(m.src, digestOf (slice m.body 8 32), field m.body 40 8 == 1)] } }

theorem State.heard_eq (s : State) (m : Msg) : ∃ x v, s.heard m = { s with net := x, mach := { s.mach with verdicts := v } } := by
  obtain ⟨x, e⟩ := s.took_eq m
  unfold State.heard
  rw [e]
  exact ⟨x, _, rfl⟩

/-- The verdict kept is its sender's. -/
theorem State.verdictOf_heard (s : State) (m : Msg) :
    (s.heard m).verdictOf m.src = some (digestOf (slice m.body 8 32), field m.body 40 8 == 1) := by
  have earlier : (((s.took m).mach.verdicts.filter fun (x : Nat × W256 × Bool) => x.1 != m.src).find? fun v => v.1 == m.src) = none := by
    rw [List.find?_eq_none]
    intro x hx
    simpa using (List.mem_filter.mp hx).2
  unfold State.verdictOf State.heard
  rw [List.find?_append, earlier]
  simp

section
variable {s : State} {m : Msg} {w : LoadWait} (hl : s.loadWait = some w)
include hl

theorem exec_loadVerdict (hm : s.member = true) (ht : m.typ = 1) (ho : m.opc = 3) (hv : m.vc = 0) : exec (.loadVerdict m) s = .next (s.heard m).tryLoad := by
  have waiting : (s.heard m).loadWait.isSome = true := by
    obtain ⟨x, v, e⟩ := s.heard_eq m
    rw [e]
    exact Option.isSome_of_eq_some hl
  show Host.Outcome.next (loadVerdict m s) = _
  unfold loadVerdict
  rw [if_neg (by simp [hm, ht, ho, hv])]
  exact congrArg _ (if_pos waiting)

/-- A refusal, or a verdict on another program, ends the load. -/
theorem State.heard_refused (hp : m.src ∈ s.verdictPeers) (hb : (s.ring w.ring).busy.isSome = true)
    (hr : field m.body 40 8 ≠ 1 ∨ digestOf (slice m.body 8 32) ≠ w.prog.hash) : ∃ t, (s.heard m).tryLoad = t ∧
    s.ended w.ring { status := .resourceShort } t ∧ t.loadWait = none ∧ s.storesSame t ∧ s.stepSame t := by
  obtain ⟨x, v, e⟩ := s.heard_eq m
  have waits : (s.heard m).loadWait = some w := by rw [e]; exact hl
  have peer : m.src ∈ (s.heard m).verdictPeers := by rw [e]; exact hp
  rw [State.tryLoad_refused waits peer (s.verdictOf_heard m) (by simpa [imp_iff_not_or, or_comm] using hr)]
  generalize hu : ({ s with net := x, loadWait := none, wd := none, mach := { s.mach with verdicts := [] } } : State) = u
  have failed : (s.heard m).failLoad w.ring = u.complete w.ring { status := .resourceShort } := by
    rw [e, ← hu]
    rfl
  have hring : u.ring w.ring = s.ring w.ring := by rw [← hu]
  refine ⟨_, failed, State.complete_ended hring hb, ?_⟩
  obtain ⟨y, k, ec⟩ := u.complete_eq w.ring { status := .resourceShort }
  rw [ec, ← hu]
  exact ⟨rfl, ⟨rfl, rfl, rfl, rfl, rfl⟩, rfl, rfl, rfl, rfl⟩

/-- The last verdict that agrees puts the program in place. -/
theorem State.heard_agreed (hp : s.verdictPeers = [m.src]) (hf : field m.body 40 8 = 1) (hh : digestOf (slice m.body 8 32) = w.prog.hash) :
    ∃ t, (s.heard m).tryLoad = t ∧ t.prog = some (w.prog.withShared w.inits) ∧ t.st.stepNo = w.prog.first ∧ t.recov.fallback = false ∧
      t.loadWait = none ∧ t.nor = s.nor ∧ t.fuse = s.fuse := by
  obtain ⟨x, v, e⟩ := s.heard_eq m
  have waits : (s.heard m).loadWait = some w := by rw [e]; exact hl
  have peers : (s.heard m).verdictPeers = [m.src] := by rw [e]; exact hp
  have verdict := s.verdictOf_heard m
  rw [hf, hh] at verdict
  have agreed : ∀ r ∈ (s.heard m).verdictPeers, (s.heard m).verdictOf r = some (w.prog.hash, true) := fun r hr => by
    rw [peers] at hr
    rw [List.mem_singleton.mp hr]
    exact verdict
  rw [State.tryLoad_agreed waits agreed, e]
  exact ⟨_, rfl, State.finishLoad_places _ w⟩

end

/-! ### The obligation -/

/-- Settles O20: the shared checks take the command up, its own refuse it or tell the sled that it is agreed, and the load goes on as the verdicts are in. -/
theorem loading : Obligations.Loading := by
  unfold Obligations.Loading
  intro s
  refine ⟨fun n d host dc p inits sp h => ⟨fun x hx => ?_, fun b q hb hq => ⟨fun x hx => ?_, fun hx hi => ⟨fun hp => ?_, fun hp hv => ?_⟩⟩⟩,
    fun m w i e hm ht ho hv hl hs hb => ⟨fun hr => ?_, fun hp hf hh => ?_⟩⟩
  · exact ⟨_, loadProgram_unread h hx, State.takenUp_complete h _⟩
  · exact ⟨_, loadProgram_refused h hb hq hx, State.verdict_complete h _ _ _⟩
  · obtain ⟨t, et, h1, h2, h3, h4⟩ := State.loadAwaits_alone h { ring := n, prog := q, inits := inits } rfl hp
    exact ⟨t, et ▸ loadProgram_judged h hb hq hx hi, h1, h2.trans (congrArg Program.first hq), h3, h4⟩
  · obtain ⟨t, et, h1⟩ := State.loadAwaits_peers h { ring := n, prog := q, inits := inits } hp hv
    exact ⟨t, et ▸ loadProgram_judged h hb hq hx hi, h1⟩
  · obtain ⟨t, et, h1⟩ := State.heard_refused hl hs (Option.isSome_of_eq_some hb) hr
    exact ⟨t, et ▸ exec_loadVerdict hl hm ht ho hv, h1⟩
  · obtain ⟨t, et, h1⟩ := State.heard_agreed hl hp hf hh
    exact ⟨t, et ▸ exec_loadVerdict hl hm ht ho hv, h1⟩

end Sys2Proof.Machine
end

section
/-! PROOFS. What is kept of a sample-request batch is answered as it is kept (06 R149, R150). -/

namespace Sys2Proof.Machine

open Sys2Proof Sys2Proof.Tests

/-- The first message of a batch: its one request, for the children of node 1, has 2^19 in the bytes of PARENT, which has 19 bits. -/
def keptRequest : Msg := msg 4 0 10 ((sampleBody 1 1).set 29 8)

/-- The last message of that batch, which asks for nothing more. -/
def emptyLast : Msg := { msg 4 0 10 ((sampleBody 1 1).take 16) false true with id := 1 }

/-- A step in Sample whose module has kept the first message. -/
def keepingRequest : State := { stepping (duo .running) .sample with ex := { Exchange.reset with parts := [keptRequest] } }

/-- The whole batch passes the statement's checks, which judge the last message alone, and its one request is the kept one, of a parent that no child record
can name. -/
theorem keepingRequest_whole : ((keepingRequest.took emptyLast).batchIn emptyLast).1 = some [keptRequest, emptyLast] ∧
    groupsOf 20 (batchBytes [keptRequest, emptyLast]) = [keptRequest.body.drop 16] ∧ field (keptRequest.body.drop 16) 11 3 = 2 ^ 19 ∧
    (liveRecords (keepingRequest.runRecords (keepingRequest.entry (field (keptRequest.body.drop 16) 0 5)))).length < 2 ^ 19 := by decide +kernel

/-- Refutes O32: nothing says that a message kept of a batch has been judged. Here the kept one asks for the children of a parent whose number needs 20 bits,
so that no child has that parent in its 19 bits, and the batch is answered as the last message completes it. -/
theorem not_sampleExchange : ¬ Obligations.SampleExchange := by
  intro h
  obtain ⟨hw, hr, hp, hl⟩ := keepingRequest_whole
  obtain ⟨-, -, -, request, -⟩ := h keepingRequest (by decide) (by decide)
  obtain ⟨-, judged⟩ := request emptyLast 0 (nth default decl.specs 0) decl [] rfl rfl (by decide) rfl (by decide)
  obtain ⟨-, -, whole⟩ := judged true (by decide) (by decide)
  obtain ⟨answered, -⟩ := whole rfl (by rw [hw]; rfl)
  obtain ⟨t, -, -, -, -, -, reply⟩ := answered rfl
  obtain ⟨x, -, -, -, -, -, -, children⟩ := reply _ _ _ _ hw hr rfl rfl hl
  obtain ⟨parent, -⟩ := children 0 (by decide) _ rfl
  have range : bits (field (slice (x.body.drop 16) (24 * 0) 24) 11 5) 19 19 < 2 ^ 19 := Nat.mod_lt _ (by decide)
  omega

end Sys2Proof.Machine
end

section
/-! SUPPORT. A descriptor of Quarry that an EVAL's task queued and a check refuses ends the EVAL, and the attention area of an EVIDENCE_EXPORT that comes
next is blanked (12 R319). -/

namespace Sys2Proof.Machine

open Sys2Proof Sys2Proof.Tests

/-- A descriptor of Quarry that a check of 07 R161 refuses leaves its queue, and its work ends with the code. -/
theorem State.quarry_refused {s : State} {core op : Nat} {q : QDesc} {x : Status} (reads : State → Bool → Bool × State)
    (hq : s.nextDesc (fun x => x.unit == .quarry && s.quarryClear x) = some q)
    (hl : (q.core == core && s.hasCore core && s.workLive q.eval && (if op = 3 then (quarryDesc q.bytes).op == 3
      else if op = 2 then (quarryDesc q.bytes).op == 2 else (quarryDesc q.bytes).op != 2 && (quarryDesc q.bytes).op != 3)) = true)
    (hx : s.quarryCheck q (quarryDesc q.bytes) = some x) : s.quarry core op reads = s.failDesc q x := by
  rw [State.quarry, hq]
  dsimp only
  rw [hl, if_neg (by decide), hx]

/-- A ROUND_CLOSE of the EVAL for round 7, which the program does not declare (07 R161). -/
def refusedClose : QDesc := { queued .quarry (laid 64 [(0, 8, 3 + 7 * 2 ^ 12)]) with eval := true }

/-- The ROUND_CLOSE queued for the EVAL that an EVIDENCE_EXPORT comes after. -/
def exportBehindClose : State := withDesc exportNext refusedClose

theorem exportBehindClose_taken :
    exportBehindClose.nextDesc (fun x => x.unit == .quarry && exportBehindClose.quarryClear x) = some refusedClose ∧
    (exportBehindClose.hasCore 0 && exportBehindClose.workLive true) = true ∧ (quarryDesc refusedClose.bytes).op = 3 ∧
    exportBehindClose.quarryCheck refusedClose (quarryDesc refusedClose.bytes) = some .formatInvalid := by decide +kernel

/-- The end of the EVAL blanks the attention area of the EVIDENCE_EXPORT behind it. -/
theorem exportBehindClose_stores : (exportBehindClose.failDesc refusedClose .formatInvalid).byte 0xB003 ≠ exportBehindClose.byte 0xB003 := by decide +kernel

/-- ROUND_CLOSE takes a descriptor of Quarry that closes a round (07 R164). -/
theorem exec_roundClose (core : Nat) (s : State) : exec (.roundClose core) s = .next (s.quarry core 3 fun s _ => (true, s)) := rfl

/-- Refutes O33: a ROUND_CLOSE of an EVAL, its round undeclared, is refused and ends the EVAL; the attention area of the EVIDENCE_EXPORT that comes next is
blanked, where nothing stored was to change. -/
theorem not_quarryStarts : ¬ Obligations.QuarryStarts := by
  unfold Obligations.QuarryStarts
  rintro ⟨h, -⟩
  obtain ⟨hq, hl, ho, hx⟩ := exportBehindClose_taken
  obtain ⟨hcore, hwork⟩ := Bool.and_eq_true_iff.mp hl
  obtain ⟨refused, -⟩ := h exportBehindClose refusedClose 0 _ [] _ hq rfl hcore hwork rfl rfl
  obtain ⟨t, ht, ⟨hm, -⟩, -⟩ := refused _ hx
  rw [if_pos ho, exec_roundClose, State.quarry_refused _ hq (by rw [ho]; exact hl) hx] at ht
  rw [← Host.Outcome.next.inj ht] at hm
  exact exportBehindClose_stores (congrArg (byteAt 0 · 0xB003) hm)

end Sys2Proof.Machine
end

section
/-! SUPPORT. Batches taken in, rows delivered and events counted (07 R159, R163, 10 R241, R247). -/

namespace Sys2Proof.Machine

open Sys2Proof

/-! ### Batches (10 R247) -/

/-- A message of a batch is kept, or completes it. -/
theorem State.batchIn_eq (s : State) (m : Msg) : ∃ l, s.batchIn m = ((s.batchIn m).1, { s with ex := { s.ex with parts := l } }) ∧
    ((s.batchIn m).1 = none → m ∈ l) := by
  unfold State.batchIn
  dsimp only
  split
  · exact ⟨_, rfl, fun h => by cases h⟩
  · exact ⟨_, rfl, fun _ => by simp⟩

theorem State.netOnly_iff (s t : State) : s.netOnly t ↔ ∃ n c, t = { s with net := n, ctr := c } := by
  constructor
  · intro h
    refine ⟨t.net, t.ctr, ?_⟩
    rw [← (h : { t with net := s.net, ctr := s.ctr } = s)]
  · rintro ⟨n, c, rfl⟩
    rfl

theorem State.took_netOnly (s : State) (m : Msg) : s.netOnly (s.took m) := by
  obtain ⟨n, e⟩ := s.took_eq m
  exact (s.netOnly_iff _).mpr ⟨n, s.ctr, e⟩

/-- A message is discarded, which its source is told. -/
theorem State.discarded_netOnly (s : State) (m : Msg) : s.netOnly (s.discarded m) := by
  rw [State.netOnly_iff]
  unfold State.discarded
  split
  · exact ⟨s.net, s.ctr, rfl⟩
  · exact State.send_eq _ _

theorem State.netOnly_trans {s t u : State} (h : s.netOnly t) (k : t.netOnly u) : s.netOnly u :=
  (congrArg (fun x : State => ({ x with net := s.net, ctr := s.ctr } : State)) k).trans h

/-! ### Events counted -/

/-- The narrow accesses of a range are counted, and no more. -/
theorem State.countNarrow_eq (s : State) (a n : Nat) : ∃ c, s.countNarrow a n = { s with ctr := c } := by
  unfold State.countNarrow
  split
  · exact List.foldlRecOn (motive := fun t : State => ∃ c, t = { s with ctr := c }) _ _ ⟨s.ctr, rfl⟩ fun t ⟨c, ht⟩ x _ => by
      rw [ht]
      exact ⟨_, rfl⟩
  · exact ⟨s.ctr, rfl⟩

theorem State.countLocal_eq (s : State) (k slot n : Nat) : ∃ c, s.countLocal k slot n = { s with ctr := c } := by
  obtain ⟨c, e⟩ := (s.count (cQuarry (quarryEngine slot) k) 1).countNarrow_eq slot n
  exact ⟨c, e⟩

/-! ### A row delivered (07 R163) -/

/-- What a delivery stores: the row, then its VERSION where one is asked for. -/
def deliveryWrites (dst : Nat) (ver : Option Nat) (row : List Byte) (version : Nat) : List (Nat × List Byte) :=
  (dst, row) :: ver.elim [] fun a => [(a, leBytes 2 version)]

/-- A delivery changes memory and counters. -/
theorem State.deliver_eq (s : State) (dst : Nat) (ver : Option Nat) (row : List Byte) (version : Nat) : ∃ c,
    s.deliver dst ver row version = { s with mem := (s.writeAll (deliveryWrites dst ver row version)).mem, ctr := c } := by
  obtain ⟨c, e⟩ := (s.write dst row).countNarrow_eq dst row.length
  unfold State.deliver
  rw [e]
  cases ver with
  | none => exact ⟨c, rfl⟩
  | some a =>
    obtain ⟨c', e'⟩ := State.countNarrow_eq (State.write { s.write dst row with ctr := c } a (leBytes 2 version)) a 2
    exact ⟨c', e'⟩

/-- A row without a VERSION stands where it is delivered, and a VERSION in its place. -/
theorem State.deliver_read (s : State) (dst : Nat) (ver : Option Nat) (row : List Byte) (version : Nat) :
    (ver = none → (s.deliver dst ver row version).read dst row.length = row) ∧
    (∀ a, ver = some a → (s.deliver dst ver row version).read a 2 = leBytes 2 version) := by
  obtain ⟨c, e⟩ := s.deliver_eq dst ver row version
  rw [e]
  constructor
  · rintro rfl
    exact s.read_write dst row
  · rintro a rfl
    exact (s.write dst row).read_write a (leBytes 2 version)

/-- A delivery leaves every byte outside the row's place and its VERSION's. -/
theorem State.deliver_outside (s : State) {dst : Nat} {ver : Option Nat} {row : List Byte} (version : Nat) {a : Nat}
    (hr : a < dst ∨ dst + row.length ≤ a) (hv : ∀ v, ver = some v → a < v ∨ v + 2 ≤ a) :
    (s.deliver dst ver row version).byte a = s.byte a := by
  obtain ⟨c, e⟩ := s.deliver_eq dst ver row version
  have hrow : (s.write dst row).byte a = s.byte a := s.byte_write_outside dst row a hr
  rw [e]
  cases ver with
  | none => exact hrow
  | some v => exact ((s.write dst row).byte_write_outside v (leBytes 2 version) a (by simpa using hv v rfl)).trans hrow

/-! ### Keys of rows -/

theorem keyTable_rowKey {t r : Nat} (h : r < 2 ^ 40) : keyTable (rowKey t r) = t := by
  unfold keyTable rowKey
  omega

theorem keyRow_rowKey {t r : Nat} (h : r < 2 ^ 40) : keyRow (rowKey t r) = r := by
  unfold keyRow rowKey
  omega

end Sys2Proof.Machine
end

section
/-! PROOFS. Lookup batches answered by the owner, and their replies at the requester (07 R165-R167, R180). -/

namespace Sys2Proof.Machine

open Sys2Proof Sys2Proof.Tests

/-! ### The owner's side -/

section
variable {s : State} {m : Msg} (hm : s.member = true) (hp : s.prog.isSome = true) (ht : m.typ = 5) (ho : m.opc = 0) (hr : m.resp = false)
include hm hp ht ho hr

/-- A message of a lookup batch, one step: it is discarded, refused for its layout or its rows, kept, or completes its batch. -/
theorem exec_lookupBatch (hs : s.pulling = false) :
    (s.batchCurrent m.body = false → exec (.lookupBatch m) s = .next ((s.took m).discarded m)) ∧
    (s.batchCurrent m.body = true → lookupOk s m.body = false → exec (.lookupBatch m) s = .next ((s.took m).stepFault .formatInvalid)) ∧
    (s.batchCurrent m.body = true → lookupOk s m.body = true → ∀ t, ((s.took m).batchIn m = (none, t) → exec (.lookupBatch m) s = .next t) ∧
      ∀ b, (s.took m).batchIn m = (some b, t) → exec (.lookupBatch m) s = .next (t.answerLookups m (groupsOf 8 (batchBytes b)))) := by
  have start : (!(s.member && s.prog.isSome && m.typ == 5 && m.opc == 0 && !m.resp) || s.pulling) = false := by simp [hm, hp, ht, ho, hr, hs]
  obtain ⟨n, e⟩ := s.took_eq m
  have same : (s.took m).batchCurrent m.body = s.batchCurrent m.body ∧ (s.took m).requestOk = s.requestOk ∧ (s.took m).owns = s.owns := by
    rw [e]
    exact ⟨rfl, rfl, rfl⟩
  obtain ⟨current, request, owns⟩ := same
  have foreign : (!batchEval m.body && (groupsOf 8 (m.body.drop 16)).any fun r => !s.owns (field r 5 1) (field r 0 5)) =
      !(batchEval m.body || (groupsOf 8 (m.body.drop 16)).all fun r => s.owns (field r 5 1) (field r 0 5)) := by
    rw [Bool.not_or, List.not_all_eq_any_not]
  have step : exec (.lookupBatch m) s = .next (lookupBatch m s) := rfl
  simp only [step, lookupBatch, lookupOk, start, current, request, owns, foreign, Bool.false_eq_true, if_false]
  refine ⟨fun hc => by rw [hc]; rfl, fun hc hok => ?_, fun hc hok t => ?_⟩
  · rw [hc, if_neg (by decide)]
    rcases Bool.and_eq_false_iff.mp hok with hl | hl
    · rw [hl]
      rfl
    · rw [hl, if_pos (show (!false) = true from rfl), ite_self]
  · obtain ⟨hl, hw⟩ := Bool.and_eq_true_iff.mp hok
    rw [hc, hl, hw]
    exact ⟨fun hb => by rw [hb]; rfl, fun b hb => by rw [hb]; rfl⟩

end

/-- The messages of a reply, the last one marked. -/
def replyMsgs (m : Msg) (parts : List (List Byte)) : List Msg :=
  (List.range parts.length).map fun i => mkMsg 5 0 10 m.src (m.body.take 16 ++ nth [] parts i) true (i + 1 == parts.length)

/-- The last message of a reply that is not empty of messages. -/
theorem last_mem_replyMsgs {parts : List (List Byte)} (m : Msg) (h : parts ≠ []) : ∃ x ∈ replyMsgs m parts,
    x.typ = 5 ∧ x.opc = 0 ∧ x.dst = m.src ∧ x.resp = true ∧ x.last = true := by
  have hp : 0 < parts.length := List.length_pos_iff.mpr h
  refine ⟨_, List.mem_map.mpr ⟨parts.length - 1, List.mem_range.mpr (by omega), rfl⟩, rfl, rfl, rfl, rfl, ?_⟩
  simp only [mkMsg, beq_iff_eq]
  omega

theorem packReplies_ne_nil (l : List (List Byte)) : packReplies l ≠ [] := by
  cases l with
  | nil => simp [packReplies]
  | cons r t =>
    rw [packReplies]
    split
    · simp
    · split
      · simp
      · split <;> simp

theorem State.tryGathered_eq (s : State) : ∃ w, s.tryGathered = { s with wd := w } := by
  unfold State.tryGathered
  split
  · exact ⟨_, rfl⟩
  · exact ⟨s.wd, rfl⟩

/-- The rows of a batch named for their counts. -/
theorem State.nameRows_eq (s : State) (src : Nat) (recs : List (List Byte)) : ∃ l,
    recs.foldl (fun s r => s.nameRow (field r 5 1) (field r 0 5) src) s = { s with st := { s.st with named := l } } :=
  List.foldlRecOn (motive := fun t : State => ∃ l, t = { s with st := { s.st with named := l } }) recs _ ⟨s.st.named, rfl⟩ fun t ⟨l, ht⟩ r _ => by
    unfold State.nameRow
    split
    · exact ⟨_, by rw [ht]⟩
    · exact ⟨l, ht⟩

/-- The rows that a batch asks for counted at their slots. -/
theorem State.countAnswers_eq (s : State) (want : List (List Byte)) : ∃ c, want.foldl (fun s r =>
    if s.owns (field r 5 1) (field r 0 5) then
      s.countLocal 3 (s.slotOf (field r 5 1) (field r 0 5)) ((s.table (field r 5 1)).elim 0 tabRowBytes)
    else s) s = { s with ctr := c } :=
  List.foldlRecOn (motive := fun t : State => ∃ c, t = { s with ctr := c }) want _ ⟨s.ctr, rfl⟩ fun t ⟨c, ht⟩ r _ => by
    split
    · obtain ⟨c', e⟩ := t.countLocal_eq 3 (t.slotOf (field r 5 1) (field r 0 5)) ((t.table (field r 5 1)).elim 0 tabRowBytes)
      exact ⟨c', by rw [e, ht]⟩
    · exact ⟨c, ht⟩

/-- A whole batch is answered by a reply, once its rows are named and counted. -/
theorem State.answerLookups_eq (s : State) (m : Msg) (recs : List (List Byte)) : ∃ l c ps parts, parts ≠ [] ∧
    s.answerLookups m recs = State.tryGathered (State.sendMsgs
      { s with ctr := c, ex := { s.ex with batchesIn := ps }, st := { s.st with named := l } } (replyMsgs m parts)) := by
  have named : ∃ l, (if batchEval m.body then s else recs.foldl (fun s r => s.nameRow (field r 5 1) (field r 0 5) m.src) s) =
      { s with st := { s.st with named := l } } := by
    split
    · exact ⟨s.st.named, rfl⟩
    · exact s.nameRows_eq m.src recs
  obtain ⟨l, named⟩ := named
  obtain ⟨c, counted⟩ := State.countAnswers_eq { s with st := { s.st with named := l } } (recs.filter fun r => field r 6 1 == 0)
  have noted : ∀ u : State, ∃ ps, (if batchEval m.body then u else
      { u with ex := { u.ex with batchesIn := u.ex.batchesIn ++ [(m.src, field m.body 5 1)] } }) = { u with ex := { u.ex with batchesIn := ps } } := fun u => by
    split
    · exact ⟨u.ex.batchesIn, rfl⟩
    · exact ⟨_, rfl⟩
  obtain ⟨ps, noted⟩ := noted { s with ctr := c, st := { s.st with named := l } }
  refine ⟨l, c, ps, packReplies ((recs.filter fun r => field r 6 1 == 0).map (State.answerRow { s with ctr := c, st := { s.st with named := l } })),
    packReplies_ne_nil _, ?_⟩
  unfold State.answerLookups
  dsimp only
  rw [named, counted, noted]
  rfl

/-- An answered batch leaves all that is stored, the host side and the step in progress; the last message of its reply has been sent. -/
theorem State.answerLookups_spec {s : State} (hl : s.live = true) (m : Msg) (recs : List (List Byte)) :
    s.storesSame (s.answerLookups m recs) ∧ (s.answerLookups m recs).host = s.host ∧ (s.answerLookups m recs).st.run = s.st.run ∧
    ∃ x ∈ (s.answerLookups m recs).net.sent.drop s.net.sent.length, x.typ = 5 ∧ x.opc = 0 ∧ x.dst = m.src ∧ x.resp = true ∧ x.last = true := by
  obtain ⟨l, c, ps, parts, hne, e⟩ := s.answerLookups_eq m recs
  generalize hu : State.mk _ _ _ _ _ _ _ _ _ _ _ _ _ _ _ _ _ _ _ _ _ _ _ _ _ _ = u at e
  obtain ⟨x, hx, h1, h2, h3, h4, h5⟩ := last_mem_replyMsgs m hne
  obtain ⟨y, hy, k1, k2, -, k3, k4, k5, -⟩ := State.sendMsgs_emits (s := u) (by rw [← hu]; exact hl) hx
  obtain ⟨w, hw⟩ := (u.sendMsgs (replyMsgs m parts)).tryGathered_eq
  obtain ⟨n, c', hn⟩ := u.sendMsgs_eq (replyMsgs m parts)
  rw [hn] at hw hy
  rw [e, hn, hw, ← hu]
  rw [← hu] at hy
  exact ⟨⟨rfl, rfl, rfl, rfl, rfl⟩, rfl, rfl, y, hy, k1.trans h1, k2.trans h2, k3.trans h3, k4.trans h4, k5.trans h5⟩

/-! ### The requester's side -/

/-- The rows that a reply of a round is about, in the order in which they were asked. -/
def State.replyKeys (s : State) (eval : Bool) (src round : Nat) : List Nat :=
  (s.askedKeys src fun x => x.eval == eval && x.asked && !x.countOnly && x.round == round).map (·.1)

/-- What follows the records of a whole reply: an EVAL asks again for rows that have moved, a step no longer waits for the reply. -/
def State.afterReply (s : State) (eval : Bool) (src round : Nat) : State :=
  if eval then s.askEval else State.tryGathered { s with ex := { s.ex with repliesLeft := s.ex.repliesLeft.filter (· != (src, round)) } }

section
variable {s : State} {m : Msg} (hm : s.member = true) (hp : s.prog.isSome = true) (ht : m.typ = 5) (ho : m.opc = 0) (hr : m.resp = true)
include hm hp ht ho hr

/-- A message of a reply, one step: it is discarded, only taken, kept, or completes its batch. -/
theorem exec_lookupReply :
    (s.batchCurrent m.body = false → exec (.lookupReply m) s = .next ((s.took m).discarded m)) ∧
    (s.batchCurrent m.body = true → batchEval m.body = true → field m.body 8 8 ≠ s.evalTag ∨ field m.body 0 4 ≠ s.pinned →
      exec (.lookupReply m) s = .next (s.took m)) ∧
    (s.batchCurrent m.body = true → (batchEval m.body = true → field m.body 8 8 = s.evalTag ∧ field m.body 0 4 = s.pinned) → ∀ t,
      ((s.took m).batchIn m = (none, t) → exec (.lookupReply m) s = .next t) ∧
      ∀ b, (s.took m).batchIn m = (some b, t) → exec (.lookupReply m) s = .next
        ((t.fillReplies (batchEval m.body) m.src (field m.body 5 1) (t.replyKeys (batchEval m.body) m.src (field m.body 5 1)) (batchBytes b)).afterReply
          (batchEval m.body) m.src (field m.body 5 1))) := by
  have start : (!(s.member && s.prog.isSome && m.typ == 5 && m.opc == 0 && m.resp)) = false := by simp [hm, hp, ht, ho, hr]
  obtain ⟨n, e⟩ := s.took_eq m
  have same : (s.took m).batchCurrent m.body = s.batchCurrent m.body ∧ (s.took m).evalTag = s.evalTag ∧ (s.took m).pinned = s.pinned := by
    rw [e]
    exact ⟨rfl, rfl, rfl⟩
  obtain ⟨current, tag, pinned⟩ := same
  have step : exec (.lookupReply m) s = .next (lookupReply m s) := rfl
  simp only [step, lookupReply, start, current, tag, pinned, Bool.false_eq_true, if_false]
  refine ⟨fun hc => by rw [hc]; rfl, fun hc he hx => ?_, fun hc he t => ?_⟩
  · have other : (field m.body 8 8 == s.evalTag && field m.body 0 4 == s.pinned) = false := by
      rw [Bool.and_eq_false_iff]
      simpa using hx
    rw [hc, he, other]
    rfl
  · have own : (batchEval m.body && !(field m.body 8 8 == s.evalTag && field m.body 0 4 == s.pinned)) = false := by
      cases hb : batchEval m.body
      · rfl
      · simp [he hb]
    rw [hc, own]
    exact ⟨fun hb => by rw [hb]; rfl, fun b hb => by rw [hb]; rfl⟩

end

/-- The one lookup that a reply is about. -/
structure Lookup.awaits (l : Lookup) (eval : Bool) (src round : Nat) : Prop where
  owner : l.owner = src
  eval : l.eval = eval
  asked : l.asked = true
  row : l.countOnly = false
  round : l.round = round
  small : l.row < 2 ^ 40

theorem State.replyKeys_one {s : State} {l : Lookup} {eval : Bool} {src round : Nat} (hx : s.ex.lookups = [l]) (h : l.awaits eval src round) :
    s.replyKeys eval src round = [rowKey l.table l.row] := by
  simp [State.replyKeys, State.askedKeys, hx, h.owner, h.eval, h.asked, h.row, h.round, distinct]

section
variable {s : State} {l : Lookup} {eval : Bool} {src round : Nat} (hx : s.ex.lookups = [l]) (h : l.awaits eval src round) {b : List Byte}
include hx h

/-- The record of the one row asked for goes to its place, and nothing is asked for any more. -/
theorem State.fillReplies_row {td : TableDecl} (ht : s.table l.table = some td) (hb : bits (field b 2 1) 0 1 = 0) (hl : 8 ≤ b.length) :
    s.fillReplies eval src round [rowKey l.table l.row] b =
      let t := s.deliver l.dst l.ver (slice b 8 (tabRowBytes td)) (field b 0 2)
      { t with ex := { t.ex with lookups := [] } } := by
  have hex : (s.deliver l.dst l.ver (slice b 8 (tabRowBytes td)) (field b 0 2)).ex.lookups = [l] := by
    obtain ⟨c, e⟩ := s.deliver_eq l.dst l.ver (slice b 8 (tabRowBytes td)) (field b 0 2)
    rw [e]
    exact hx
  rw [State.fillReplies, if_neg (by omega)]
  simp [hb, keyTable_rowKey h.small, ht, hx, hex, h.owner, h.eval, h.asked, h.row, h.round, State.fillReplies]

/-- A row that has moved is to be asked of its owner in force. -/
theorem State.fillReplies_moved (hb : bits (field b 2 1) 0 1 = 1) (hl : 8 ≤ b.length) :
    s.fillReplies eval src round [rowKey l.table l.row] b =
      { s with ex := { s.ex with lookups := [{ l with owner := s.rowOwner l.table l.row, asked := false }] } } := by
  rw [State.fillReplies, if_neg (by omega)]
  simp [hb, keyTable_rowKey h.small, keyRow_rowKey h.small, hx, h.owner, h.eval, h.asked, h.row, h.round, State.fillReplies]

end

/-- With no lookup open nothing is asked, and only the replies that are left and the wait of Gather change. -/
theorem State.afterReply_eq {s : State} {eval : Bool} (src round : Nat) (h : eval = true → s.ex.lookups = []) : ∃ w l,
    s.afterReply eval src round = { s with wd := w, ex := { s.ex with repliesLeft := l } } := by
  cases eval with
  | true =>
    have none_asked : s.askEval = s := by simp [State.askEval, h rfl, distinct]
    exact ⟨s.wd, s.ex.repliesLeft, none_asked⟩
  | false =>
    obtain ⟨w, e⟩ := State.tryGathered_eq { s with ex := { s.ex with repliesLeft := s.ex.repliesLeft.filter (· != (src, round)) } }
    exact ⟨w, _, e⟩

/-! ### The obligation -/

/-- Settles O34: a message is discarded, refused, kept, or the last of its batch; a whole request batch is answered, and a whole reply about one row
delivers it or has it asked again. -/
theorem lookupExchange : Obligations.LookupExchange := by
  unfold Obligations.LookupExchange
  intro s m hm hp ht ho
  obtain ⟨n, e⟩ := s.took_eq m
  obtain ⟨parts, hin, hkept⟩ := (s.took m).batchIn_eq m
  generalize hv : State.mk _ _ _ _ _ _ _ _ _ _ _ _ _ _ _ _ _ _ _ _ _ _ _ _ _ _ = v at hin
  rw [e] at hv
  refine ⟨fun hr => ⟨fun hs => ?_, fun hs hc => ?_, ?_⟩, fun hr => ⟨fun hx => ?_, ?_⟩⟩
  · show Host.Outcome.next (lookupBatch m s) = _
    simp [lookupBatch, hs]
  · exact ⟨_, (exec_lookupBatch hm hp ht ho hr hs).1 hc, State.netOnly_trans (s.took_netOnly m) (State.discarded_netOnly _ m)⟩
  · rintro recs ok rfl rfl hs hc
    obtain ⟨-, refused, taken⟩ := exec_lookupBatch hm hp ht ho hr hs
    refine ⟨fun hok r hrun hf => ?_, fun hok hb => ?_, fun hok hb => ?_⟩
    · obtain ⟨n', c, ef⟩ := State.stepFault_first (s := s.took m) (by rw [e]; exact hrun) hf .formatInvalid
      rw [e] at ef
      refine ⟨_, refused hc hok, ?_⟩
      rw [e, ef]
      exact ⟨rfl, ⟨rfl, rfl, rfl, rfl, rfl⟩, rfl⟩
    · rw [hb] at hin
      refine ⟨v, (taken hc hok v).1 hin, ?_⟩
      rw [← hv]
      exact ⟨hkept hb, rfl, ⟨rfl, rfl, rfl, rfl, rfl⟩, rfl⟩
    · obtain ⟨b, hb⟩ := Option.isSome_iff_exists.mp hb
      rw [hb] at hin
      obtain ⟨h1, h2, h3, x, hx, h4⟩ := State.answerLookups_spec (s := v) (by rw [← hv]; exact State.live_of_member hm) m (groupsOf 8 (batchBytes b))
      have sent : v.net.sent = s.net.sent := by
        rw [← hv, ← s.took_sent m, e]
      rw [sent] at hx
      refine ⟨_, (taken hc hok v).2 b hin, ?_, ?_, ?_, x, hx, h4⟩
      · rw [← hv] at h1 ⊢
        exact h1
      · rw [h2, ← hv]
      · rw [h3, ← hv]
  · obtain ⟨discarded, stale, -⟩ := exec_lookupReply hm hp ht ho hr
    cases hc : s.batchCurrent m.body with
    | false => exact ⟨_, discarded hc, State.netOnly_trans (s.took_netOnly m) (State.discarded_netOnly _ m)⟩
    | true =>
      obtain ⟨he, hx⟩ := hx.resolve_left (by simp [hc])
      exact ⟨_, stale hc he hx, s.took_netOnly m⟩
  · rintro eval rfl hc he
    obtain ⟨-, -, taken⟩ := exec_lookupReply hm hp ht ho hr
    refine ⟨fun hb => ?_, ?_⟩
    · rw [hb] at hin
      refine ⟨v, (taken hc he v).1 hin, ?_⟩
      rw [← hv]
      exact ⟨hkept hb, rfl, ⟨rfl, rfl, rfl, rfl, rfl⟩, rfl⟩
    · rintro b r l td hb rfl hl howner heval hasked hcount hround hrow htd
      rw [hb] at hin
      have awaits : l.awaits (batchEval m.body) m.src (field m.body 5 1) := ⟨howner, heval, hasked, hcount, hround, hrow⟩
      have lookups : v.ex.lookups = [l] := by rw [← hv]; exact hl
      have table : v.table l.table = some td := by rw [← hv]; exact htd
      have step := (taken hc he v).2 b hin
      rw [State.replyKeys_one lookups awaits] at step
      refine ⟨fun hbit hlen => ?_, fun hbit hlen hstep => ?_⟩
      · rw [State.fillReplies_row lookups awaits table hbit (by omega)] at step
        have whole : (slice (batchBytes b) 8 (tabRowBytes td)).length = tabRowBytes td := by
          rw [slice, List.length_take, List.length_drop]
          omega
        obtain ⟨c, ed⟩ := v.deliver_eq l.dst l.ver (slice (batchBytes b) 8 (tabRowBytes td)) (field (batchBytes b) 0 2)
        obtain ⟨row, version⟩ := v.deliver_read l.dst l.ver (slice (batchBytes b) 8 (tabRowBytes td)) (field (batchBytes b) 0 2)
        have outside := fun a => v.deliver_outside (dst := l.dst) (ver := l.ver) (row := slice (batchBytes b) 8 (tabRowBytes td))
          (field (batchBytes b) 0 2) (a := a)
        rw [whole] at row outside
        generalize v.deliver l.dst l.ver (slice (batchBytes b) 8 (tabRowBytes td)) (field (batchBytes b) 0 2) = d at ed row version outside step
        obtain ⟨w, left, ea⟩ := State.afterReply_eq (s := { d with ex := { d.ex with lookups := [] } }) (eval := batchEval m.body) m.src
          (field m.body 5 1) fun _ => rfl
        rw [ea] at step
        refine ⟨_, step, rfl, row, version, ?_, ?_, fun a hr hv' => (outside a hr hv').trans ?_⟩
        · rw [ed, ← hv]
        · rw [ed, ← hv]
        · rw [← hv]
      · rw [State.fillReplies_moved lookups awaits hbit hlen] at step
        obtain ⟨w, left, ea⟩ := State.afterReply_eq (s := { v with ex := { v.ex with lookups := [{ l with owner := v.rowOwner l.table l.row, asked := false }] } })
          (eval := batchEval m.body) m.src (field m.body 5 1) fun h => by rw [hstep] at h; cases h
        rw [ea] at step
        refine ⟨_, step, ?_⟩
        rw [← hv]
        exact ⟨rfl, rfl, ⟨rfl, rfl, rfl, rfl, rfl⟩, rfl⟩

end Sys2Proof.Machine
end

section
/-! SUPPORT. Entries of maps that are found, owners of rows, and what the old owner and the destinations of a MIGRATE keep and say (07 R154, R178-R180, 11
R289). -/

namespace Sys2Proof.Machine

open Sys2Proof

/-! ### Entries that are found -/

section
variable {α : Type}

theorem NMap.find_erase_self (m : NMap α) (a : Nat) : (m.erase a).find a = none := by
  simp [NMap.find, NMap.erase, List.find?_eq_none]

theorem NMap.find_erase_ne (m : NMap α) {a b : Nat} (h : a ≠ b) : (m.erase a).find b = m.find b := by
  have key : (fun e : Nat × α => decide ((e.1 != a) = true ∧ (e.1 == b) = true)) = fun e => e.1 == b := by
    funext e
    by_cases hb : e.1 = b
    · simp [hb, h.symm]
    · simp [hb]
  rw [NMap.find, NMap.erase, List.find?_filter, key, NMap.find]

theorem NMap.find_insert (m : NMap α) (a b : Nat) (x : α) (h : ∀ e ∈ m, e.1 ≠ a) : (m.insert a x).find b = if a = b then some x else m.find b := by
  induction m with
  | nil => by_cases hb : a = b <;> simp [NMap.insert, NMap.find, hb]
  | cons e t ih =>
    obtain ⟨k, v⟩ := e
    have ih := ih fun e he => h e (List.mem_cons_of_mem _ he)
    have hk : k ≠ a := h (k, v) List.mem_cons_self
    simp only [NMap.find] at ih ⊢
    rw [NMap.insert]
    split
    · by_cases hb : a = b <;> simp [hb]
    · by_cases hkb : k = b
      · rw [List.find?_cons_of_pos (by simpa using hkb), if_neg (by omega), List.find?_cons_of_pos (by simpa using hkb)]
      · rw [List.find?_cons_of_neg (by simpa using hkb), ih, List.find?_cons_of_neg (by simpa using hkb)]

theorem NMap.find_put_self (m : NMap α) (a : Nat) (x : α) : (m.put a x).find a = some x := by
  rw [NMap.put, NMap.find_insert _ _ _ _ (NMap.keys_erase m a), if_pos rfl]

theorem NMap.find_put_ne (m : NMap α) {a b : Nat} (x : α) (h : a ≠ b) : (m.put a x).find b = m.find b := by
  rw [NMap.put, NMap.find_insert _ _ _ _ (NMap.keys_erase m a), if_neg h, NMap.find_erase_ne m h]

end

/-! ### Owners (07 R154) -/

/-- The rows of migration records fit their five bytes. -/
theorem row_lt_of_mem_migRecs {b : List Byte} {r : MigRec} (h : r ∈ migRecs b) : r.row < 2 ^ 40 := by
  obtain ⟨x, -, rfl⟩ := List.mem_map.mp h
  exact field_lt x 0 5

/-- With a row's owner installed, the map gives it to that owner and leaves every other row. -/
theorem State.rowOwner_mapWith {s t : State} {r : MigRec} (hr : r.row < 2 ^ 40) (ht : (s.table r.table).isSome = true)
    (hm : t.st.migMap = s.mapWith s.st.migMap (rowKey r.table r.row) r.dst) (hp : t.prog = s.prog) (hk : t.mach = s.mach) :
    t.rowOwner r.table r.row = r.dst ∧ ∀ x y, rowKey x y ≠ rowKey r.table r.row → t.rowOwner x y = s.rowOwner x y := by
  obtain ⟨td, ht⟩ := Option.isSome_iff_exists.mp ht
  have hd' : ∃ d, s.decl = some d := by
    unfold State.table at ht
    cases hd : s.decl with
    | none => rw [hd] at ht; cases ht
    | some d => exact ⟨d, rfl⟩
  obtain ⟨d, hd⟩ := hd'
  have home : s.home r.table r.row = homeOwner d s.ranks td r.row := by rw [State.home, hd, ht]
  have table : t.table = s.table := funext fun x => by rw [State.table, State.decl, hp]; rfl
  have decl : t.decl = s.decl := congrArg (Option.map Program.decl) hp
  have ranks : t.ranks = s.ranks := congrArg (fun x : Mach => x.ranks.length) hk
  unfold State.mapWith at hm
  rw [keyTable_rowKey hr, keyRow_rowKey hr, home] at hm
  split at hm <;> simp only [State.rowOwner, table, decl, ranks, hm]
  · next hh =>
    refine ⟨?_, fun x y hxy => by rw [NMap.find_erase_ne _ (Ne.symm hxy)]⟩
    rw [NMap.find_erase_self, hd, ht]
    exact hh
  · exact ⟨by rw [NMap.find_put_self], fun x y hxy => by rw [NMap.find_put_ne _ _ (Ne.symm hxy)]⟩

/-! ### What a migration's messages leave alone -/

/-- A migration's entries and rows that are dropped leave all that is stored, the host side, and room and announcements. -/
def State.dropsOnly (s t : State) : Prop :=
  s.storesSame t ∧ t.host = s.host ∧ t.st.reserved = s.st.reserved ∧ t.st.moves = s.st.moves

theorem State.dropsOnly_foldl {α : Type} (f : State → α → State) (h : ∀ s x, State.dropsOnly s (f s x)) (l : List α) (s : State) :
    s.dropsOnly (l.foldl f s) :=
  List.foldlRecOn (motive := s.dropsOnly) l f ⟨⟨rfl, rfl, rfl, rfl, rfl⟩, rfl, rfl, rfl⟩ fun t ⟨⟨h1, h2, h3, h4, h5⟩, h6, h7, h8⟩ x _ => by
    obtain ⟨⟨k1, k2, k3, k4, k5⟩, k6, k7, k8⟩ := h t x
    exact ⟨⟨k1.trans h1, k2.trans h2, k3.trans h3, k4.trans h4, k5.trans h5⟩, k6.trans h6, k7.trans h7, k8.trans h8⟩

/-- A migration that is undone keeps no room, is announced no more, and stores nothing. -/
theorem State.undoFrom_spec (s : State) (owners : List Nat) : s.storesSame (s.undoFrom owners) ∧ (s.undoFrom owners).host = s.host ∧
    (s.undoFrom owners).st.reserved = (s.st.reserved.filter fun e => !owners.contains e.1) ∧
    (s.undoFrom owners).st.moves = s.st.moves.filter fun x => !owners.contains x.1 := by
  unfold State.undoFrom
  dsimp only
  generalize hu : List.foldl (fun (s : State) (e : Nat × Nat) => s.forgetRow e.1) s _ = u
  have hu' : s.dropsOnly u := hu ▸ State.dropsOnly_foldl (fun (s : State) (e : Nat × Nat) => s.forgetRow e.1) (fun s x => ⟨⟨rfl, rfl, rfl, rfl, rfl⟩, rfl, rfl, rfl⟩) _ s
  generalize hv : List.foldl (fun (s : State) (e : Nat × Nat × Nat) => ({ s with st := { s.st with migMap := s.mapWith s.st.migMap e.1 e.2.1 } } : State)) u _ = v
  have hv' : u.dropsOnly v := hv ▸ State.dropsOnly_foldl (fun (s : State) (e : Nat × Nat × Nat) => { s with st := { s.st with migMap := s.mapWith s.st.migMap e.1 e.2.1 } }) (fun s x => ⟨⟨rfl, rfl, rfl, rfl, rfl⟩, rfl, rfl, rfl⟩) _ u
  obtain ⟨⟨h1, h2, h3, h4, h5⟩, h6, h7, h8⟩ := hu'
  obtain ⟨⟨k1, k2, k3, k4, k5⟩, k6, k7, k8⟩ := hv'
  exact ⟨⟨k1.trans h1, k2.trans h2, k3.trans h3, k4.trans h4, k5.trans h5⟩, k6.trans h6, by rw [← h7, ← k7], by rw [← h8, ← k8]⟩

theorem State.tellSpare_eq (s : State) (m : Msg) : ∃ n c, s.tellSpare m = { s with net := n, ctr := c } := by
  unfold State.tellSpare
  split
  · exact s.send_eq _
  · exact ⟨s.net, s.ctr, rfl⟩

theorem State.tellSpare_adds (s : State) (m : Msg) : s.adds (fun _ => True) (s.tellSpare m) := by
  unfold State.tellSpare
  split
  · exact s.send_adds_of (fun _ _ => trivial) fun _ _ _ => trivial
  · exact State.adds_of_same rfl

theorem State.sendAll_eq_sendMsgs (s : State) (l : List Nat) (m : Nat → Msg) : s.sendAll l m = s.sendMsgs (l.map m) := List.foldl_map.symm

/-- Commands that waited leave what is owed to old owners. -/
theorem State.finishWaiting_owed (s : State) (x : Nat × Nat × Nat) : (s.finishWaiting x).st.owed = s.st.owed := by
  have left : ∀ (rs : List MigRec) (u : State), (u.leaveRows rs).st.owed = u.st.owed := fun rs u =>
    List.foldlRecOn (motive := fun t : State => t.st.owed = u.st.owed) rs _ rfl fun t ht r _ => by
      rw [← ht]
      unfold State.installEntry
      dsimp only
      split <;> rfl
  have told : ∀ (ms : List Msg) (u : State), (ms.foldl State.tellSpare u).st = u.st := fun ms u =>
    List.foldlRecOn (motive := fun t : State => t.st = u.st) ms _ rfl fun t ht m _ => by
      obtain ⟨n, c, e⟩ := t.tellSpare_eq m
      rw [e]
      exact ht
  have heard : ∀ (os : List Nat) (f : Nat → List Msg) (u : State), (os.foldl (fun s o => (f o).foldl State.send s) u).st = u.st := fun os f u =>
    List.foldlRecOn (motive := fun t : State => t.st = u.st) os _ rfl fun t ht o _ => by
      obtain ⟨n, c, e⟩ := t.sendMsgs_eq (f o)
      rw [show (f o).foldl State.send t = t.sendMsgs (f o) from rfl, e]
      exact ht
  have moved : ∀ (u : State) (n : Nat), (u.tellMoved n).st.owed = u.st.owed := fun u n => by
    unfold State.tellMoved State.tellSpareAll
    dsimp only
    rw [told, heard]
    exact left _ u
  have entered : (if (s.ring x.1).busy.elim 0 (fun b => descOp b.2) = 0x02 then s.enter .loaded else s).st = s.st := by
    obtain ⟨h, y, e⟩ := s.enter_eq .loaded
    split
    · rw [e]
    · rfl
  unfold State.finishWaiting
  dsimp only
  rw [State.complete_st]
  split
  · rw [moved, entered]
  · rw [entered]

/-- An old owner that is owed word of its map entries is told it, or is owed it still. -/
theorem State.finishCopies_owed {s : State} (hl : s.live = true) {o : Nat} (ho : o ∈ s.st.owed) :
    o ∈ s.finishCopies.st.owed ∨ s.emits s.finishCopies { mapMsg o 1 [] with resp := true } := by
  have waited : ∀ (w : List (Nat × Nat × Nat)) (u : State), (w.foldl State.finishWaiting u).st.owed = u.st.owed := fun w u =>
    List.foldlRecOn (motive := fun t : State => t.st.owed = u.st.owed) w _ rfl fun t ht x _ => (t.finishWaiting_owed x).trans ht
  unfold State.finishCopies
  split
  · dsimp only
    generalize hu : State.mk _ _ _ _ _ _ _ _ _ _ _ _ _ _ _ _ _ _ _ _ _ _ _ _ _ _ = u
    obtain ⟨n, c, e⟩ := u.sendAll_eq s.st.owedMoves fun r => { mapMsg r 7 [] with resp := true }
    generalize hv : u.sendAll s.st.owedMoves (fun r => { mapMsg r 7 [] with resp := true }) = v
    have first : s.adds (fun _ => True) v := by
      rw [← hv, State.sendAll_eq_sendMsgs]
      exact State.adds_trans (State.adds_of_same (by rw [← hu])) (u.sendMsgs_adds _)
    rw [e] at hv
    by_cases he : s.st.eddyAcks.isEmpty = true
    · right
      rw [if_pos he]
      have last : (v.sendAll s.st.owed fun r => { mapMsg r 1 [] with resp := true }).goesOn
          ((s.mir.waiting.foldl State.finishWaiting (v.sendAll s.st.owed fun r => { mapMsg r 1 [] with resp := true })).tryBegin) :=
        (State.copies_trans (State.copies_foldl _ _ (fun t x _ => t.finishWaiting_copies x) _) (State.tryBegin_copies _)).2.1
      have sent := State.sendAll_emits (s := v) (m := fun r => { mapMsg r 1 [] with resp := true }) (by rw [← hv, ← hu]; exact hl) ho
      exact State.emits_mono first (State.adds_of_same (P := fun _ => True) rfl) (State.emits_goesOn sent last)
    · left
      rw [if_neg he]
      obtain ⟨b, n', c', w, x, et⟩ := (s.mir.waiting.foldl State.finishWaiting (v.sendAll [] fun r => { mapMsg r 1 [] with resp := true })).tryBegin_eq
      rw [et]
      show o ∈ (s.mir.waiting.foldl State.finishWaiting v).st.owed
      rw [waited, ← hv, ← hu]
      simpa [he] using ho
  · exact .inl ho

end Sys2Proof.Machine
end

section
/-! PROOFS. What a member does on another owner's messages of a MIGRATE: requests for room, map entries, its completion and its undoing (07 R154, R178,
R179). -/

namespace Sys2Proof.Machine

open Sys2Proof

/-! ### Map entries -/

/-- A map entry installed changes the map of owners, and replicas. -/
theorem State.installEntry_fields (s : State) (r : MigRec) : (s.installEntry r).st.migMap = s.mapWith s.st.migMap (rowKey r.table r.row) r.dst ∧
    (s.installEntry r).prog = s.prog ∧ (s.installEntry r).mach = s.mach ∧ (s.installEntry r).mir = s.mir := by
  unfold State.installEntry
  dsimp only
  split <;> exact ⟨rfl, rfl, rfl, rfl⟩

theorem State.refreshEddy_adds (s : State) : s.adds (fun _ => True) s.refreshEddy :=
  State.adds_trans (State.adds_foldl (fun t o => t.sendMsgs (t.refreshMsgs o _ _)) s.others (fun t _ _ => t.sendMsgs_adds _) s)
    (State.adds_of_same rfl)

/-- How many map entries of an old owner are installed. -/
def State.entriesFrom (s : State) (old : Nat) : Nat := (s.st.installed.filter fun e => e.2.1 == old).length

theorem State.tryInstalled_waits {s : State} {old : Nat} (h : (old, s.entriesFrom old) ∉ s.st.moves) : s.tryInstalled old = s := by
  unfold State.entriesFrom at h
  simp [State.tryInstalled, h]

/-- With all of a MIGRATE's map entries installed its owner is owed word of it; what waited for that goes on. -/
theorem State.tryInstalled_owes {s : State} {old : Nat} (h : (old, s.entriesFrom old) ∈ s.st.moves) : ∃ n c a e,
    s.tryInstalled old = State.finishCopies { s with net := n, ctr := c, st := { s.st with
      moves := s.st.moves.erase (old, s.entriesFrom old), owed := s.st.owed ++ [old], eddyAcks := a, eddySent := e } } ∧
    s.adds (fun _ => True) { s with net := n } := by
  unfold State.tryInstalled
  dsimp only
  rw [if_pos (by simpa [State.entriesFrom] using h)]
  split
  · generalize hu : State.mk _ _ _ _ _ _ _ _ _ _ _ _ _ _ _ _ _ _ _ _ _ _ _ _ _ _ = u
    obtain ⟨n, c, e⟩ := u.refreshEddy_eq
    obtain ⟨l, hl, hp⟩ := u.refreshEddy_adds
    rw [e] at hl ⊢
    rw [← hu] at hl ⊢
    exact ⟨n, c, _, _, rfl, l, hl, hp⟩
  · exact ⟨s.net, s.ctr, s.st.eddyAcks, s.st.eddySent, rfl, State.adds_of_same rfl⟩

/-- With no command that waits for copies, whether the entries are complete leaves the map of owners. -/
theorem State.tryInstalled_quiet {s : State} (h : s.mir.waiting = []) (old : Nat) : (s.tryInstalled old).st.migMap = s.st.migMap ∧
    (s.tryInstalled old).prog = s.prog ∧ (s.tryInstalled old).mach = s.mach := by
  by_cases hm : (old, s.entriesFrom old) ∈ s.st.moves
  · obtain ⟨n, c, a, e, hu, -⟩ := State.tryInstalled_owes hm
    generalize hv : State.mk _ _ _ _ _ _ _ _ _ _ _ _ _ _ _ _ _ _ _ _ _ _ _ _ _ _ = v at hu
    have quiet := (State.finishCopies_quiet (s := v) (by rw [← hv]; exact h)).2
    have same := v.finishCopies_copies.1
    rw [hu, quiet]
    refine ⟨by rw [← hv], (congrArg (·.prog) same).trans ?_, (congrArg (·.mach) same).trans ?_⟩ <;> rw [← hv]
  · rw [State.tryInstalled_waits hm]
    exact ⟨rfl, rfl, rfl⟩

/-! ### Room for rows -/

/-- The rows of a table that lie in its migration area, or for which room is kept there. -/
def State.areaTaken (s : State) (t : Nat) : Nat :=
  (s.st.migSlots.filter fun e => keyTable e.1 == t).length +
    (s.st.reserved.filter fun e => keyTable e.2 == t && s.home (keyTable e.2) (keyRow e.2) != s.rank).length

/-- There is room for one more row of another home exactly if the migration area is not taken up. -/
theorem State.roomFor_one {s : State} {r : MigRec} {td : TableDecl} (hr : r.row < 2 ^ 40) (ht : s.table r.table = some td)
    (hh : s.home r.table r.row ≠ s.rank) : s.roomFor [r] = decide (s.areaTaken r.table < td.migArea) := by
  have kept : (s.st.reserved.filter fun e => keyTable e.2 == r.table && decide (s.home (keyTable e.2) (keyRow e.2) ≠ s.rank)) =
      s.st.reserved.filter fun e => keyTable e.2 == r.table && s.home (keyTable e.2) (keyRow e.2) != s.rank :=
    List.filter_congr fun e _ => by simp [bne, beq_eq_decide]
  have one : ([r].filter fun x => x.table == r.table && decide (s.home (keyTable (rowKey x.table x.row)) (keyRow (rowKey x.table x.row)) ≠ s.rank)).length = 1 := by
    simp [keyTable_rowKey hr, keyRow_rowKey hr, hh]
  unfold State.roomFor State.areaTaken
  simp only [List.all_cons, List.all_nil, Bool.and_true, ht, Option.elim_some, kept, one, decide_eq_decide]
  omega

/-- A destination keeps room for one row of another home where it has it, and says so. -/
theorem State.keepRoom_one {s : State} (hl : s.live = true) {src : Nat} {r : MigRec} {td : TableDecl} (hr : r.row < 2 ^ 40)
    (ht : s.table r.table = some td) (hh : s.home r.table r.row ≠ s.rank) : ∃ n c,
    s.keepRoom src [r] = { s with net := n, ctr := c, st := { s.st with
      reserved := if s.areaTaken r.table < td.migArea then s.st.reserved ++ [(src, rowKey r.table r.row)] else s.st.reserved } } ∧
    s.emits (s.keepRoom src [r]) { mapMsg src 5 (leBytes 8 (if s.areaTaken r.table < td.migArea then 1 else 0)) with resp := true } := by
  unfold State.keepRoom
  rw [State.roomFor_one hr ht hh]
  by_cases h : s.areaTaken r.table < td.migArea
  · simp only [h, decide_true, if_true]
    generalize hu : State.mk _ _ _ _ _ _ _ _ _ _ _ _ _ _ _ _ _ _ _ _ _ _ _ _ _ _ = u
    obtain ⟨n, c, e⟩ := u.send_eq { mapMsg src 5 (leBytes 8 true.toNat) with resp := true }
    refine ⟨n, c, by rw [e, ← hu]; rfl, State.emits_mono (State.adds_of_same (P := fun _ => True) ?_) (State.adds_of_same (P := fun _ => True) rfl)
      (u.send_emits _ ?_)⟩
    · rw [← hu]
    · rw [← hu]
      exact hl
  · simp only [h, decide_false, if_false, Bool.false_eq_true]
    obtain ⟨n, c, e⟩ := s.send_eq { mapMsg src 5 (leBytes 8 false.toNat) with resp := true }
    exact ⟨n, c, e, s.send_emits _ hl⟩

/-! ### The requests -/

section
variable (s : State) {m : Msg}

theorem State.installMap_entries (h : field m.body 8 8 = 0) :
    s.installMap m = ((migRecs (m.body.drop 16)).foldl State.install s).tryInstalled m.src := by
  unfold State.installMap
  rw [h]
  rfl

theorem State.installMap_number (h : field m.body 8 8 = 3) :
    s.installMap m = State.tryInstalled { s with st := { s.st with moves := s.st.moves ++ [(m.src, field (m.body.drop 16) 0 8)] } } m.src := by
  unfold State.installMap
  rw [h]
  rfl

theorem State.installMap_room (h : field m.body 8 8 = 4) : s.installMap m = s.keepRoom m.src (migRecs (m.body.drop 16)) := by
  unfold State.installMap
  rw [h]
  rfl

theorem State.installMap_undone (h : field m.body 8 8 = 6) : s.installMap m = s.undoFrom [field (m.body.drop 16) 0 8] := by
  unfold State.installMap
  rw [h]
  rfl

end

section
variable {s : State} {m : Msg} (hm : s.member = true) (hp : s.prog.isSome = true) (ht : m.typ = 1) (ho : m.opc = 5) (hv : m.vc = 0) (hr : m.resp = false)
include hm hp ht ho hv hr

/-- A request of a migration is taken, of which a spare may be told, and acted on. -/
theorem exec_migrateMapInstall_request : ∃ n c, exec (.migrateMapInstall m) s = .next (State.installMap { s with net := n, ctr := c } m) ∧
    s.adds (fun _ => True) { s with net := n } := by
  have step : exec (.migrateMapInstall m) s = .next (migrateMapInstall m s) := rfl
  have taken : s.adds (fun _ => True) (s.took m) := State.adds_of_same (s.took_sent m)
  obtain ⟨n, e⟩ := s.took_eq m
  rw [step, migrateMapInstall, if_neg (by simp [hm, hp]), if_neg (by simp [ht]), if_pos (by simp [ht, ho, hv])]
  dsimp only
  rw [hr, if_neg (by decide)]
  split
  · exact ⟨n, s.ctr, by rw [e], by rw [e] at taken; exact taken⟩
  · obtain ⟨n', c, e'⟩ := (s.took m).tellSpare_eq m
    have told := State.adds_trans taken ((s.took m).tellSpare_adds m)
    rw [e', e] at told
    exact ⟨n', c, by rw [e', e], told⟩

/-- A map entry gives its row to the new owner, and no other row to another. -/
theorem migrateMapInstall_entry {r : MigRec} (hk : field m.body 8 8 = 0) (h1 : migRecs (m.body.drop 16) = [r]) (htab : (s.table r.table).isSome = true)
    (hi : ∀ e ∈ s.st.installed, e.1 ≠ rowKey r.table r.row) (hw : s.mir.waiting = []) : ∃ t, exec (.migrateMapInstall m) s = .next t ∧
    t.rowOwner r.table r.row = r.dst ∧ ∀ x y, rowKey x y ≠ rowKey r.table r.row → t.rowOwner x y = s.rowOwner x y := by
  have hrow : r.row < 2 ^ 40 := row_lt_of_mem_migRecs (b := m.body.drop 16) (by simp [h1])
  obtain ⟨n, c, step, -⟩ := exec_migrateMapInstall_request hm hp ht ho hv hr
  have fresh : (s.st.installed.any fun e => e.1 == rowKey r.table r.row && e.2.2 == r.dst) = false := by
    rw [List.any_eq_false]
    intro e he
    simp [hi e he]
  rw [State.installMap_entries _ hk, h1, List.foldl_cons, List.foldl_nil, State.install] at step
  dsimp only at step
  rw [fresh, if_neg (by decide)] at step
  generalize hu : State.mk _ _ _ _ _ _ _ _ _ _ _ _ _ _ _ _ _ _ _ _ _ _ _ _ _ _ = u at step
  obtain ⟨f1, f2, f3, f4⟩ := u.installEntry_fields r
  obtain ⟨k1, k2, k3⟩ := State.tryInstalled_quiet (s := u.installEntry r) (by rw [f4, ← hu]; exact hw) m.src
  refine ⟨_, step, State.rowOwner_mapWith hrow htab (k1.trans (f1.trans ?_)) (k2.trans (f2.trans ?_)) (k3.trans (f3.trans ?_))⟩ <;> rw [← hu]
  rfl

/-- The number of a MIGRATE's map entries is kept until they are installed; then their owner is told, or is owed it. -/
theorem migrateMapInstall_count {k : Nat} (hk : field m.body 8 8 = 3) (hn : k = field m.body 16 8) :
    ((m.src, s.entriesFrom m.src) ∉ s.st.moves ++ [(m.src, k)] →
      ∃ t, exec (.migrateMapInstall m) s = .next t ∧ t.st.moves = s.st.moves ++ [(m.src, k)] ∧ s.storesSame t ∧ t.host = s.host) ∧
    (s.entriesFrom m.src = k →
      ∃ t, exec (.migrateMapInstall m) s = .next t ∧ (m.src ∈ t.st.owed ∨ s.emits t { mapMsg m.src 1 [] with resp := true })) := by
  obtain ⟨n, c, step, added⟩ := exec_migrateMapInstall_request hm hp ht ho hv hr
  have number : field (m.body.drop 16) 0 8 = k := by rw [hn, field, field, List.drop_drop]
  rw [State.installMap_number _ hk, number] at step
  generalize hu : State.mk _ _ _ _ _ _ _ _ _ _ _ _ _ _ _ _ _ _ _ _ _ _ _ _ _ _ = u at step
  have count : u.entriesFrom m.src = s.entriesFrom m.src := by rw [← hu]; rfl
  have moves : u.st.moves = s.st.moves ++ [(m.src, k)] := by rw [← hu]
  refine ⟨fun h => ?_, fun h => ?_⟩
  · rw [State.tryInstalled_waits (by rw [count, moves]; exact h)] at step
    refine ⟨u, step, moves, ?_, by rw [← hu]⟩
    rw [← hu]
    exact ⟨rfl, rfl, rfl, rfl, rfl⟩
  · obtain ⟨n', c', a, e, eq, added'⟩ := State.tryInstalled_owes (s := u) (old := m.src) (by rw [count, moves, h]; simp)
    rw [eq] at step
    refine ⟨_, step, ?_⟩
    generalize hw : State.mk _ _ _ _ _ _ _ _ _ _ _ _ _ _ _ _ _ _ _ _ _ _ _ _ _ _ = w
    have live : w.live = true := by rw [← hw, ← hu]; exact State.live_of_member hm
    refine (State.finishCopies_owed (o := m.src) live (by rw [← hw]; simp)).imp_right fun sent => ?_
    refine State.emits_mono (State.adds_trans added (State.adds_trans (t := w) ?_ (State.adds_of_same (P := fun _ => True) rfl)))
      (State.adds_of_same (P := fun _ => True) rfl) sent
    rw [← hw, ← hu] at *
    exact added'

/-- A request for room for a row of another home is answered, and room is kept where the migration area has it. -/
theorem migrateMapInstall_room {r : MigRec} {td : TableDecl} (hk : field m.body 8 8 = 4) (h1 : migRecs (m.body.drop 16) = [r])
    (htab : s.table r.table = some td) (hh : s.home r.table r.row ≠ s.rank) : ∃ t, exec (.migrateMapInstall m) s = .next t ∧ s.storesSame t ∧
    t.host = s.host ∧ t.st.reserved = (if s.areaTaken r.table < td.migArea then s.st.reserved ++ [(m.src, rowKey r.table r.row)] else s.st.reserved) ∧
    s.emits t { mapMsg m.src 5 (leBytes 8 (if s.areaTaken r.table < td.migArea then 1 else 0)) with resp := true } := by
  have hrow : r.row < 2 ^ 40 := row_lt_of_mem_migRecs (b := m.body.drop 16) (by simp [h1])
  obtain ⟨n, c, step, added⟩ := exec_migrateMapInstall_request hm hp ht ho hv hr
  rw [State.installMap_room _ hk, h1] at step
  generalize hu : State.mk _ _ _ _ _ _ _ _ _ _ _ _ _ _ _ _ _ _ _ _ _ _ _ _ _ _ = u at step
  have live : u.live = true := by rw [← hu]; exact State.live_of_member hm
  obtain ⟨n', c', eq, sent⟩ := State.keepRoom_one live (src := m.src) (r := r) (td := td) hrow (by rw [← hu]; exact htab) (by rw [← hu]; exact hh)
  have area : u.areaTaken r.table = s.areaTaken r.table := by rw [← hu]; rfl
  rw [area] at eq sent
  refine ⟨_, step, ?_, ?_, ?_, State.emits_mono (State.adds_trans added (State.adds_of_same (P := fun _ => True) (by rw [← hu])))
    (State.adds_of_same (P := fun _ => True) rfl) sent⟩ <;> rw [eq, ← hu]
  exact ⟨rfl, rfl, rfl, rfl, rfl⟩

/-- A MIGRATE that is undone keeps no room here. -/
theorem migrateMapInstall_undone (hk : field m.body 8 8 = 6) : ∃ t, exec (.migrateMapInstall m) s = .next t ∧ s.storesSame t ∧ t.host = s.host ∧
    t.st.reserved = (s.st.reserved.filter fun e => e.1 != field m.body 16 8) ∧ t.st.moves = s.st.moves.filter fun e => e.1 != field m.body 16 8 := by
  obtain ⟨n, c, step, -⟩ := exec_migrateMapInstall_request hm hp ht ho hv hr
  have owner : field (m.body.drop 16) 0 8 = field m.body 16 8 := by rw [field, field, List.drop_drop]
  have other : ∀ x, (!List.contains [field m.body 16 8] x) = (x != field m.body 16 8) := fun x => by simp [bne, beq_eq_decide]
  rw [State.installMap_undone _ hk, owner] at step
  obtain ⟨h1, h2, h3, h4⟩ := State.undoFrom_spec { s with net := n, ctr := c } [field m.body 16 8]
  simp only [other] at h3 h4
  exact ⟨_, step, h1, h2, h3, h4⟩

/-- A message that a MIGRATE is complete leaves its entries complete. -/
theorem migrateMapInstall_complete (h0 : field m.body 8 8 ≠ 0) (h3 : field m.body 8 8 ≠ 3) (h4 : field m.body 8 8 ≠ 4) (h6 : field m.body 8 8 ≠ 6) :
    ∃ t, exec (.migrateMapInstall m) s = .next t ∧
      t.st.installed = (s.st.installed.filter fun e => !((migRecs (m.body.drop 16)).map fun r => rowKey r.table r.row).contains e.1) ∧
      s.storesSame t ∧ t.host = s.host := by
  obtain ⟨n, c, step, -⟩ := exec_migrateMapInstall_request hm hp ht ho hv hr
  refine ⟨_, step, ?_⟩
  unfold State.installMap
  dsimp only
  split
  · exact absurd ‹_› h0
  · exact absurd ‹_› h3
  · exact absurd ‹_› h4
  · exact absurd ‹_› h6
  · exact ⟨rfl, ⟨rfl, rfl, rfl, rfl, rfl⟩, rfl⟩

end

end Sys2Proof.Machine
end

section
/-! PROOFS. What the owner of rows does on the answers to its MIGRATE: room at the destinations, rows mirrored there, map entries installed (07 R178-R180). -/

namespace Sys2Proof.Machine

open Sys2Proof

/-! ### Bytes one after another -/

/-- A piece behind another is counted from the end of that. -/
theorem slice_skip {a c : List Byte} {k : Nat} (o n : Nat) (h : a.length = k) : slice (a ++ c) (k + o) n = slice c o n := by
  rw [slice, slice, ← List.drop_drop, List.drop_left' h]

/-- The piece that comes first. -/
theorem slice_first {b : List Byte} (c : List Byte) {n : Nat} (h : b.length = n) : slice (b ++ c) 0 n = b := by
  rw [slice, List.drop_zero, List.take_left' h]

theorem length_migBytes (r : MigRec) : (migBytes r).length = 8 := by simp [migBytes]

/-- What a row's message carries before the row's bytes: the access window, the optimizer's steps and the log. -/
def State.rowCounts (s : State) (k : Nat) : List Byte := leBytes 4 (s.st.win.get 0 k) ++ leBytes 8 (s.st.optSteps.get 0 k) ++ (s.logCounts k).flatMap (leBytes 2)

theorem State.length_rowCounts (s : State) (k : Nat) : (s.rowCounts k).length = 140 := by
  simp [State.rowCounts, State.logCounts, List.length_flatMap, Function.comp_def]

/-- The body of a message with a row's state: the header, the record, and then the row's VERSION, bytes, and a trained row's master and moments, each in
its place (log entry 43). -/
theorem State.rowState_places (s : State) (td : TableDecl) (r : MigRec) {b : List Byte}
    (h : b = batchHeader s.st.stepNo 0 0 false 0 ++ migBytes r ++ s.rowState td r.table r.row) :
    field b 5 1 = 0 ∧ slice b 16 8 = migBytes r ∧ slice b 24 2 = leBytes 2 (s.versionOf r.table r.row) ∧
    slice b 166 (tabRowBytes td) = s.read (s.slotOf r.table r.row) (tabRowBytes td) ∧
    ∀ ma mo, td.train = true → ma = s.masterOf r.table r.row → mo = s.momentsOf r.table r.row →
      slice b (166 + tabRowBytes td) (ma.len + mo.len) = s.read ma.base ma.len ++ s.read mo.base mo.len := by
  have head := length_batchHeader s.st.stepNo 0 0 false 0
  have mig := length_migBytes r
  have counts := s.length_rowCounts (rowKey r.table r.row)
  have parts : b = batchHeader s.st.stepNo 0 0 false 0 ++ (migBytes r ++ (leBytes 2 (s.versionOf r.table r.row) ++ (s.rowCounts (rowKey r.table r.row) ++
      (s.read (s.slotOf r.table r.row) (tabRowBytes td) ++ ((if td.train then s.read (s.masterOf r.table r.row).base (s.masterOf r.table r.row).len ++
        s.read (s.momentsOf r.table r.row).base (s.momentsOf r.table r.row).len else []) ++ (s.rowScales td (rowKey r.table r.row)).flatMap (leBytes 2)))))) := by
    rw [h]
    simp only [State.rowState, State.rowCounts, List.append_assoc]
  refine ⟨?_, ?_, ?_, ?_, fun ma mo ht hma hmo => ?_⟩
  · rw [h]
    simp [field, batchHeader, leBytes, leNat]
  · rw [parts]
    exact (slice_skip 0 8 head).trans (slice_first _ mig)
  · rw [parts]
    exact (slice_skip 8 2 head).trans ((slice_skip 0 2 mig).trans (slice_first _ (length_leBytes _ _)))
  · rw [parts]
    exact (slice_skip 150 _ head).trans ((slice_skip 142 _ mig).trans ((slice_skip 140 _ (length_leBytes _ _)).trans ((slice_skip 0 _ counts).trans
      (slice_first _ (length_bytesAt _ _ _ _)))))
  · subst hma hmo
    rw [parts, if_pos ht, show 166 + tabRowBytes td = 16 + (150 + tabRowBytes td) by omega, slice_skip _ _ head,
      show 150 + tabRowBytes td = 8 + (142 + tabRowBytes td) by omega, slice_skip _ _ mig,
      show 142 + tabRowBytes td = 2 + (140 + tabRowBytes td) by omega, slice_skip _ _ (length_leBytes _ _), slice_skip _ _ counts]
    exact (slice_skip 0 _ (length_bytesAt _ _ _ _)).trans (slice_first _ (by simp))

/-- The message that carries a row to its new owner. -/
def State.rowMsg (s : State) (td : TableDecl) (r : MigRec) : Msg :=
  mkMsg 5 2 10 r.dst (batchHeader s.st.stepNo 0 0 false 0 ++ migBytes r ++ s.rowState td r.table r.row)

theorem State.rowMsg_mem {s : State} {rs : List MigRec} {r : MigRec} {td : TableDecl} (hr : r ∈ rs) (ht : s.table r.table = some td) :
    s.rowMsg td r ∈ s.rowMsgs false rs r.dst := by
  refine List.mem_map.mpr ⟨r, List.mem_filter.mpr ⟨hr, beq_self_eq_true r.dst⟩, ?_⟩
  rw [ht]
  rfl

theorem mem_destinations {rs : List MigRec} {r : MigRec} (h : r ∈ rs) : r.dst ∈ destinations rs := mem_distinct.mpr (List.mem_map_of_mem h)

/-! ### Answers for room -/

/-- The step that a destination's answer for room takes. -/
def State.roomHeard (s : State) (src : Nat) (ok : Bool) : State :=
  { s with st := { s.st with reserveWait := s.st.reserveWait.erase src, reserveBad := s.st.reserveBad || !ok } }

/-- Every destination has answered. -/
def State.roomDone (s : State) (src : Nat) (ok : Bool) : State :=
  { s with st := { s.st with reserveWait := s.st.reserveWait.erase src, reserveBad := s.st.reserveBad || !ok, reserving := none } }

/-- A MIGRATE without room at a destination: no room is kept anywhere, and it has no effect. -/
def State.refuseMoves (s : State) (a : Act) : State := ((s.freeRoom (destinations (s.moving a.payload))).takeOff a).refuseAct a .resourceShort

theorem State.roomAnswered_unasked {s : State} {src : Nat} (ok : Bool) (h : s.st.reserving = none ∨ src ∉ s.st.reserveWait) : s.roomAnswered src ok = s := by
  unfold State.roomAnswered
  split
  · rfl
  · next a ha =>
    rw [if_pos]
    simpa using h.resolve_left (by simp [ha])

section
variable {s : State} {a : Act} {src : Nat} {ok : Bool} (ha : s.st.reserving = some a) (hs : src ∈ s.st.reserveWait)
include ha hs

theorem State.roomAnswered_waits (h : s.st.reserveWait.erase src ≠ []) : s.roomAnswered src ok = s.roomHeard src ok := by
  rw [State.roomAnswered, ha]
  dsimp only
  rw [if_neg (by simpa using hs), if_pos h]
  rfl

/-- With the last answer at the boundary, a MIGRATE is refused or its rows move. -/
theorem State.roomAnswered_last (h : s.st.reserveWait.erase src = []) (hb : s.atBoundary = true) : s.roomAnswered src ok =
    if s.st.reserveBad || !ok then (((s.roomDone src ok).refuseMoves a).applyDue ((s.roomDone src ok).refuseMoves a).st.acts.length).tryBegin
    else (s.roomDone src ok).startMoves a := by
  have bound : (s.roomDone src ok).atBoundary = true := hb
  rw [State.roomAnswered, ha]
  dsimp only
  rw [if_neg (by simpa using hs), if_neg (not_not.mpr h)]
  show (if (!(s.roomDone src ok).atBoundary) = true then _ else _) = _
  rw [bound, if_neg (by decide)]
  rfl

end

/-- Messages of a migration sent to members change the network side and the counters. -/
theorem State.freeRoom_eq (s : State) (l : List Nat) : ∃ n c, s.freeRoom l = { s with net := n, ctr := c } := by
  rw [State.freeRoom, State.sendMoves_eq]
  exact s.sendMsgs_eq _

/-- A MIGRATE that is refused for want of room completes, and every destination hears that it keeps none. -/
theorem State.refuseMoves_spec {s : State} {a : Act} (hl : s.live = true) (ha : s.st.acts = [a]) (hb : (s.ring a.ring).busy.isSome = true) :
    (s.refuseMoves a).st.reserving = s.st.reserving ∧ (s.refuseMoves a).st.acts = [] ∧
    s.ended a.ring { status := .resourceShort, step := s.st.stepNo } (s.refuseMoves a) ∧
    ∀ r ∈ s.moving a.payload, s.emits (s.refuseMoves a) (mapMsg r.dst 6 (leBytes 8 s.rank)) := by
  have told : ∀ r ∈ s.moving a.payload, s.emits (s.freeRoom (destinations (s.moving a.payload))) (mapMsg r.dst 6 (leBytes 8 s.rank)) := fun r hr => by
    rw [State.freeRoom, State.sendMoves_eq]
    exact State.sendMsgs_emits hl (List.mem_flatMap.mpr ⟨r.dst, mem_destinations hr, List.mem_singleton.mpr rfl⟩)
  obtain ⟨n, c, e⟩ := s.freeRoom_eq (destinations (s.moving a.payload))
  unfold State.refuseMoves
  generalize hu : (s.freeRoom (destinations (s.moving a.payload))).takeOff a = u
  have told' : ∀ r ∈ s.moving a.payload, s.emits u (mapMsg r.dst 6 (leBytes 8 s.rank)) := by rw [← hu]; exact told
  obtain ⟨⟨h, g, er⟩, ended⟩ := u.refuseAct_spec a .resourceShort
  have same : u.ring a.ring = s.ring a.ring ∧ u.st.stepNo = s.st.stepNo ∧ u.st.reserving = s.st.reserving ∧ u.st.acts = s.st.acts.erase a := by
    rw [← hu, e]
    exact ⟨rfl, rfl, rfl, rfl⟩
  obtain ⟨ring, number, reserving, acts⟩ := same
  rw [ring, number] at ended
  refine ⟨?_, ?_, State.ended_of_ring ring (ended hb), fun r hr => State.emits_goesOn (told' r hr) (u.refuseAct_boundary a .resourceShort).2⟩
  · rw [er]
    exact reserving
  · rw [er]
    exact acts.trans (by rw [ha, List.erase_cons_head])

/-- A module that is LOADED and starts to run is live. -/
theorem State.startRunning_live {s : State} (h : s.live = true) : s.startRunning.live = true := by
  unfold State.startRunning
  split
  · next hl =>
    obtain ⟨x, e⟩ := State.post_eq { s with ms := { s.ms with st := .running } } evState (leBytes 1 s.ms.st.code ++ leBytes 1 MState.running.code)
    rw [State.enter, if_neg (by rw [hl]; decide), e]
    simp only [State.live, Bool.and_eq_true] at h ⊢
    obtain ⟨⟨on, -⟩, -⟩ := h
    exact ⟨⟨on, rfl⟩, rfl⟩
  · exact h

/-- Rows that move: each is sent to its destination, which is then awaited, and the MIGRATE stands among the actions applied. -/
theorem State.startMoves_spec {s : State} {a : Act} (hl : s.live = true) : s.storesSame (s.startMoves a) ∧
    (s.startMoves a).st.reserving = s.st.reserving ∧ (s.startMoves a).st.acts = s.st.acts.erase a ∧
    (s.startMoves a).st.moveWait = destinations (s.moving a.payload) ∧
    (∃ x ∈ (s.startMoves a).st.applied, x.ring = a.ring ∧ x.payload = a.payload ∧ x.waitAck = true) ∧
    ∀ r ∈ s.moving a.payload, ∀ td, s.table r.table = some td → s.emits (s.startMoves a) (s.rowMsg td r) := by
  obtain ⟨h, g, e⟩ := (s.takeOff a).startRunning_eq
  have running : (s.takeOff a).startRunning.live = true := State.startRunning_live hl
  unfold State.startMoves
  dsimp only
  rw [State.sendMoves_eq]
  generalize hu : State.mk _ _ _ _ _ _ _ _ _ _ _ _ _ _ _ _ _ _ _ _ _ _ _ _ _ _ = u
  obtain ⟨n, c, es⟩ := u.sendMsgs_eq ((destinations (s.moving a.payload)).flatMap ((s.takeOff a).startRunning.rowMsgs false (s.moving a.payload)))
  have live : u.live = true := by rw [← hu]; exact running
  have sent : ∀ r ∈ s.moving a.payload, ∀ td, s.table r.table = some td → s.emits
      (u.sendMsgs ((destinations (s.moving a.payload)).flatMap ((s.takeOff a).startRunning.rowMsgs false (s.moving a.payload)))) (s.rowMsg td r) :=
    fun r hr td ht => by
      have row : s.rowMsg td r ∈ (s.takeOff a).startRunning.rowMsgs false (s.moving a.payload) r.dst := by
        rw [e]
        exact State.rowMsg_mem hr ht
      refine State.emits_mono (State.adds_of_same (P := fun _ => True) ?_) (State.adds_of_same (P := fun _ => True) rfl)
        (State.sendMsgs_emits live (List.mem_flatMap.mpr ⟨r.dst, mem_destinations hr, row⟩))
      rw [← hu, e]
      rfl
  refine ⟨?_, ?_, ?_, ?_, ?_, sent⟩ <;> rw [es, ← hu, e]
  · exact ⟨rfl, rfl, rfl, rfl, rfl⟩
  · rfl
  · rfl
  · exact ⟨_, List.mem_append_right _ (List.mem_singleton.mpr rfl), rfl, rfl, rfl⟩

/-! ### Rows mirrored, and map entries installed -/

/-- The MIGRATE whose rows are on their way. -/
def State.migrationOut (s : State) : Option Act := s.st.applied.find? fun x => x.kind == 2 && x.waitAck

theorem State.tellSpareAll_eq (s : State) (ms : List Msg) : ∃ n c, s.tellSpareAll ms = { s with net := n, ctr := c } :=
  List.foldlRecOn (motive := fun t : State => ∃ n c, t = { s with net := n, ctr := c }) ms _ ⟨s.net, s.ctr, rfl⟩ fun t ⟨n, c, ht⟩ m _ => by
    obtain ⟨n', c', e⟩ := t.tellSpare_eq m
    rw [e, ht]
    exact ⟨_, _, rfl⟩

/-- Every other member is told the map entries of the MIGRATE and their number. -/
theorem State.sendEntries_spec (s : State) : (∃ n c w, s.sendEntries = { s with net := n, ctr := c, st := { s.st with installWait := w } }) ∧
    ∀ a, s.migrationOut = some a → s.sendEntries.st.installWait = s.others ∧
      (s.live = true → ∀ o ∈ s.others, ∀ x ∈ entryMsgs (s.moving a.payload) o, s.emits s.sendEntries x) := by
  unfold State.sendEntries State.migrationOut
  split
  · next hn => exact ⟨⟨s.net, s.ctr, s.st.installWait, rfl⟩, fun a ha => by rw [hn] at ha; cases ha⟩
  · next b hb =>
    dsimp only
    rw [State.sendMoves_eq]
    generalize hu : State.mk _ _ _ _ _ _ _ _ _ _ _ _ _ _ _ _ _ _ _ _ _ _ _ _ _ _ = u
    obtain ⟨n, c, e⟩ := u.sendMsgs_eq (s.others.flatMap (entryMsgs (s.moving b.payload)))
    obtain ⟨n', c', e'⟩ := (u.sendMsgs (s.others.flatMap (entryMsgs (s.moving b.payload)))).tellSpareAll_eq (mapMsgs s.spareRank 0 (s.moving b.payload))
    refine ⟨⟨n', c', s.others, by rw [e', e, ← hu]⟩, fun a ha => ⟨by rw [e', e, ← hu], fun hl o ho x hx => ?_⟩⟩
    rw [hb] at ha
    cases ha
    have live : u.live = true := by rw [← hu]; exact hl
    have told := State.adds_foldl (P := fun _ => True) State.tellSpare (mapMsgs s.spareRank 0 (s.moving b.payload)) (fun t m _ => t.tellSpare_adds m)
      (u.sendMsgs (s.others.flatMap (entryMsgs (s.moving b.payload))))
    exact State.emits_mono (State.adds_of_same (P := fun _ => True) (by rw [← hu])) told
      (State.sendMsgs_emits live (List.mem_flatMap.mpr ⟨o, ho, hx⟩))

/-- Copies of what has changed wait while there is a holder, with what waits for them. -/
theorem State.copyWith_waiting {s : State} (h : s.holders s.rank ≠ []) (carried : List Byte) (touched : List Region) (w : List (Nat × Nat × Nat)) :
    (s.copyWith carried touched w).mir.waiting = s.mir.waiting ++ w := by
  rw [State.copyWith]
  dsimp only
  generalize hv : State.write _ _ _ = v
  obtain ⟨n, c, k, e, -, hk⟩ := v.stream_eq 3 (v.runsOf (v.imageRegions v.st.wEpoch) (touched ++ [v.tailRegion]))
  have hv' : v.holders v.rank = s.holders s.rank := by rw [← hv]; rfl
  rw [State.finishCopies_held (by rw [e]; exact hk (hv' ▸ h)), e, ← hv]
  rfl

/-- With every map entry installed the rows leave with the copies that the holders acknowledge; who is awaited does not change. -/
theorem State.endMigrate_spec (s : State) : s.endMigrate.st.installWait = s.st.installWait ∧ ∀ a, s.migrationOut = some a → s.holders s.rank ≠ [] →
    (a.ring, (s.moving a.payload).length, s.st.stepNo) ∈ s.endMigrate.mir.waiting := by
  unfold State.endMigrate State.migrationOut
  split
  · next hn => exact ⟨rfl, fun a ha => by rw [hn] at ha; cases ha⟩
  · next b hb =>
    refine ⟨congrArg (·.st.installWait) (s.copyWith_copies _ [] _).1, fun a ha hh => ?_⟩
    rw [hb] at ha
    cases ha
    rw [State.copyWith_waiting hh]
    simp

/-! ### The answers -/

/-- A destination that has mirrored its rows is awaited no longer. -/
def State.rowsMirrored (s : State) (src : Nat) : State := { s with st := { s.st with moveWait := s.st.moveWait.filter (· != src) } }

/-- A member that has installed the map entries is awaited no longer. -/
def State.entriesInstalled (s : State) (src : Nat) : State := { s with st := { s.st with installWait := s.st.installWait.filter (· != src) } }

section
variable (s : State) {m : Msg}

theorem State.moveAnswered_room (h : field m.body 8 8 = 5) : s.moveAnswered m = s.roomAnswered m.src (field m.body 16 8 == 1) := by
  unfold State.moveAnswered
  rw [h]
  rfl

theorem State.moveAnswered_unawaited (h : (field m.body 8 8 = 7 ∧ m.src ∉ s.st.moveWait) ∨
    (field m.body 8 8 ≠ 5 ∧ field m.body 8 8 ≠ 7 ∧ m.src ∉ s.st.installWait)) : s.moveAnswered m = s := by
  unfold State.moveAnswered
  rcases h with ⟨hk, hw⟩ | ⟨h5, h7, hw⟩
  · rw [hk]
    exact if_neg (by simpa using hw)
  · split
    · exact absurd ‹_› h5
    · exact absurd ‹_› h7
    · exact if_neg (by simpa using hw)

theorem State.moveAnswered_mirrored (h : field m.body 8 8 = 7) (hw : m.src ∈ s.st.moveWait) : s.moveAnswered m =
    if (s.rowsMirrored m.src).st.moveWait = [] then (s.rowsMirrored m.src).sendEntries else s.rowsMirrored m.src := by
  unfold State.moveAnswered
  rw [h]
  exact if_pos (by simpa using hw)

theorem State.moveAnswered_installed (h5 : field m.body 8 8 ≠ 5) (h7 : field m.body 8 8 ≠ 7) (hw : m.src ∈ s.st.installWait) : s.moveAnswered m =
    if (s.entriesInstalled m.src).st.installWait = [] then (s.entriesInstalled m.src).endMigrate else s.entriesInstalled m.src := by
  unfold State.moveAnswered
  split
  · exact absurd ‹_› h5
  · exact absurd ‹_› h7
  · exact if_pos (by simpa using hw)

end

section
variable {s : State} {m : Msg} (hm : s.member = true) (hp : s.prog.isSome = true) (ht : m.typ = 1) (ho : m.opc = 5) (hv : m.vc = 0) (hr : m.resp = true)
include hm hp ht ho hv hr

/-- An answer of a migration is taken and acted on. -/
theorem exec_migrateMapInstall_answer : exec (.migrateMapInstall m) s = .next ((s.took m).moveAnswered m) := by
  have step : exec (.migrateMapInstall m) s = .next (migrateMapInstall m s) := rfl
  rw [step, migrateMapInstall, if_neg (by simp [hm, hp]), if_neg (by simp [ht]), if_pos (by simp [ht, ho, hv])]
  exact congrArg Host.Outcome.next (if_pos hr)

/-- An answer that is not awaited is only taken. -/
theorem migrateMapInstall_unawaited (h : (field m.body 8 8 = 5 ∧ (s.st.reserving = none ∨ m.src ∉ s.st.reserveWait)) ∨
    (field m.body 8 8 = 7 ∧ m.src ∉ s.st.moveWait) ∨ (field m.body 8 8 ≠ 5 ∧ field m.body 8 8 ≠ 7 ∧ m.src ∉ s.st.installWait)) :
    ∃ t, exec (.migrateMapInstall m) s = .next t ∧ s.netOnly t := by
  refine ⟨_, exec_migrateMapInstall_answer hm hp ht ho hv hr, ?_⟩
  have taken := s.took_netOnly m
  obtain ⟨n, e⟩ := s.took_eq m
  rcases h with ⟨hk, h⟩ | h
  · rw [State.moveAnswered_room _ hk, State.roomAnswered_unasked _ (by rw [e]; exact h)]
    exact taken
  · rw [State.moveAnswered_unawaited _ (by rw [e]; exact h)]
    exact taken

section
variable {a : Act} (hk : field m.body 8 8 = 5) (ha : s.st.reserving = some a) (hs : m.src ∈ s.st.reserveWait)
include hk ha hs

/-- While another destination is to answer, its answer is noted. -/
theorem migrateMapInstall_roomWaits (h : s.st.reserveWait.erase m.src ≠ []) : ∃ t, exec (.migrateMapInstall m) s = .next t ∧ t.st.reserving = some a ∧
    t.st.reserveWait = s.st.reserveWait.erase m.src ∧ t.st.reserveBad = (s.st.reserveBad || field m.body 16 8 != 1) ∧ s.storesSame t ∧ t.host = s.host := by
  refine ⟨_, exec_migrateMapInstall_answer hm hp ht ho hv hr, ?_⟩
  obtain ⟨n, e⟩ := s.took_eq m
  rw [e, State.moveAnswered_room _ hk, State.roomAnswered_waits (s := { s with net := n }) ha hs h]
  exact ⟨ha, rfl, rfl, ⟨rfl, rfl, rfl, rfl, rfl⟩, rfl⟩

/-- Without room at a destination the MIGRATE completes with RESOURCE_SHORT, and no destination keeps any. -/
theorem migrateMapInstall_noRoom (h : s.st.reserveWait.erase m.src = []) (hb : s.atBoundary = true)
    (hbad : (s.st.reserveBad || field m.body 16 8 != 1) = true) (hacts : s.st.acts = [a]) (hbusy : (s.ring a.ring).busy.isSome = true) :
    ∃ t, exec (.migrateMapInstall m) s = .next t ∧ t.st.reserving = none ∧ s.ended a.ring { status := .resourceShort, step := s.st.stepNo } t ∧
      t.st.acts = [] ∧ ∀ r ∈ s.moving a.payload, s.emits t (mapMsg r.dst 6 (leBytes 8 s.rank)) := by
  have step := exec_migrateMapInstall_answer hm hp ht ho hv hr
  have taken : s.adds (fun _ => True) (s.took m) := State.adds_of_same (s.took_sent m)
  obtain ⟨n, e⟩ := s.took_eq m
  rw [e] at step taken
  rw [State.moveAnswered_room _ hk, State.roomAnswered_last (s := { s with net := n }) ha hs h hb] at step
  rw [if_pos (show (({ s with net := n } : State).st.reserveBad || !(field m.body 16 8 == 1)) = true from hbad)] at step
  generalize hu : State.roomDone _ _ _ = u at step
  obtain ⟨reserving, acts, ended, sent⟩ := State.refuseMoves_spec (s := u) (a := a) (by rw [← hu]; exact State.live_of_member hm)
    (by rw [← hu]; exact hacts) (by rw [← hu]; exact hbusy)
  rw [acts] at step
  obtain ⟨b, n', c, w, x, et⟩ := (u.refuseMoves a).tryBegin_eq
  have goes := (u.refuseMoves a).tryBegin_copies.2.1
  refine ⟨_, step, ?_, State.ended_of_ring (s' := u) (by rw [← hu]; rfl) (State.ended_goesOn ?_ goes), ?_, fun r hmem => ?_⟩
  · show (u.refuseMoves a).tryBegin.st.reserving = none
    rw [et]
    exact reserving.trans (by rw [← hu]; rfl)
  · rw [← hu] at ended ⊢
    exact ended
  · show (u.refuseMoves a).tryBegin.st.acts = []
    rw [et]
    exact acts
  · have first : s.adds (fun _ => True) u := by rw [← hu]; exact taken
    refine State.emits_mono first (State.adds_of_same (P := fun _ => True) rfl) (State.emits_goesOn ?_ goes)
    rw [← hu] at sent ⊢
    exact sent r hmem

/-- With room everywhere each row goes to its destination with its state. -/
theorem migrateMapInstall_rowsGo (h : s.st.reserveWait.erase m.src = []) (hb : s.atBoundary = true)
    (hbad : (s.st.reserveBad || field m.body 16 8 != 1) = false) :
    ∃ t, exec (.migrateMapInstall m) s = .next t ∧ t.st.reserving = none ∧ t.st.acts = s.st.acts.erase a ∧ s.storesSame t ∧
      (∃ x ∈ t.st.applied, x.ring = a.ring ∧ x.payload = a.payload ∧ x.waitAck = true) ∧
      ∀ r ∈ s.moving a.payload, ∀ td, s.table r.table = some td → r.dst ∈ t.st.moveWait ∧ s.emits t (s.rowMsg td r) := by
  have step := exec_migrateMapInstall_answer hm hp ht ho hv hr
  have taken : s.adds (fun _ => True) (s.took m) := State.adds_of_same (s.took_sent m)
  obtain ⟨n, e⟩ := s.took_eq m
  rw [e] at step taken
  rw [State.moveAnswered_room _ hk, State.roomAnswered_last (s := { s with net := n }) ha hs h hb,
    if_neg (by rw [Bool.not_eq_true]; exact hbad)] at step
  generalize hu : State.roomDone _ _ _ = u at step
  obtain ⟨stores, reserving, acts, wait, applied, sent⟩ := State.startMoves_spec (s := u) (a := a) (by rw [← hu]; exact State.live_of_member hm)
  refine ⟨_, step, reserving.trans (by rw [← hu]; rfl), acts.trans (by rw [← hu]; rfl), ?_, applied, fun r hmem td htd => ⟨?_, ?_⟩⟩
  · rw [← hu] at stores ⊢
    exact stores
  · rw [wait, ← hu]
    exact mem_destinations hmem
  · have first : s.adds (fun _ => True) u := by rw [← hu]; exact taken
    refine State.emits_mono first (State.adds_of_same (P := fun _ => True) rfl) ?_
    rw [← hu] at sent ⊢
    exact sent r hmem td htd

end

/-- A destination that has mirrored its rows is awaited no longer; with the last, every member is sent the map entries. -/
theorem migrateMapInstall_mirrored (hk : field m.body 8 8 = 7) (hs : m.src ∈ s.st.moveWait) : ∃ t, exec (.migrateMapInstall m) s = .next t ∧
    t.st.moveWait = s.st.moveWait.filter (· != m.src) ∧ s.storesSame t ∧ t.host = s.host ∧
    ∀ a, t.st.moveWait = [] → s.migrationOut = some a → t.st.installWait = s.others ∧
      ∀ o ∈ s.others, ∀ x ∈ entryMsgs (s.moving a.payload) o, s.emits t x := by
  have step := exec_migrateMapInstall_answer hm hp ht ho hv hr
  have taken : s.adds (fun _ => True) (s.took m) := State.adds_of_same (s.took_sent m)
  obtain ⟨n, e⟩ := s.took_eq m
  rw [e] at step taken
  rw [State.moveAnswered_mirrored _ hk (show m.src ∈ ({ s with net := n } : State).st.moveWait from hs)] at step
  generalize hu : State.rowsMirrored _ _ = u at step
  have wait : u.st.moveWait = s.st.moveWait.filter (· != m.src) := by rw [← hu]; rfl
  refine ⟨_, step, ?_⟩
  split
  · next hnil =>
    obtain ⟨⟨n', c, w, et⟩, told⟩ := u.sendEntries_spec
    refine ⟨by rw [et]; exact wait, ?_, by rw [et, ← hu]; rfl, fun a _ ha => ?_⟩
    · rw [et, ← hu]
      exact ⟨rfl, rfl, rfl, rfl, rfl⟩
    · obtain ⟨all, sent⟩ := told a (by rw [← hu]; exact ha)
      have first : s.adds (fun _ => True) u := by rw [← hu]; exact taken
      refine ⟨all.trans (by rw [← hu]; rfl), fun o hmem x hx => State.emits_mono first (State.adds_of_same (P := fun _ => True) rfl)
        (sent ?_ o ?_ x ?_)⟩ <;> rw [← hu]
      · exact State.live_of_member hm
      · exact hmem
      · exact hx
  · next hne =>
    refine ⟨wait, ?_, by rw [← hu]; rfl, fun a hnil => absurd (wait ▸ hnil) hne⟩
    rw [← hu]
    exact ⟨rfl, rfl, rfl, rfl, rfl⟩

/-- A member that has installed the map entries is awaited no longer; with the last, the rows leave. -/
theorem migrateMapInstall_installed (h5 : field m.body 8 8 ≠ 5) (h7 : field m.body 8 8 ≠ 7) (hs : m.src ∈ s.st.installWait) :
    ∃ t, exec (.migrateMapInstall m) s = .next t ∧ t.st.installWait = s.st.installWait.filter (· != m.src) ∧
    (t.st.installWait ≠ [] → s.storesSame t ∧ t.host = s.host) ∧
    ∀ a, t.st.installWait = [] → s.holders s.rank ≠ [] → s.migrationOut = some a →
      (a.ring, (s.moving a.payload).length, s.st.stepNo) ∈ t.mir.waiting := by
  have step := exec_migrateMapInstall_answer hm hp ht ho hv hr
  obtain ⟨n, e⟩ := s.took_eq m
  rw [e] at step
  rw [State.moveAnswered_installed _ h5 h7 (show m.src ∈ ({ s with net := n } : State).st.installWait from hs)] at step
  generalize hu : State.entriesInstalled _ _ = u at step
  have wait : u.st.installWait = s.st.installWait.filter (· != m.src) := by rw [← hu]; rfl
  refine ⟨_, step, ?_⟩
  split
  · next hnil =>
    obtain ⟨same, waits⟩ := u.endMigrate_spec
    refine ⟨same.trans wait, fun hne => absurd (same.trans hnil) hne, fun a _ hh ha => ?_⟩
    have left := waits a (by rw [← hu]; exact ha) (by rw [← hu]; exact hh)
    rw [← hu] at left ⊢
    exact left
  · next hne =>
    refine ⟨wait, fun _ => ⟨?_, by rw [← hu]; rfl⟩, fun a hnil => absurd hnil hne⟩
    rw [← hu]
    exact ⟨rfl, rfl, rfl, rfl, rfl⟩

end

end Sys2Proof.Machine
end

section
/-! PROOFS. Rows that arrive at their new owner: where they are put, and what is stored of them (07 R179, log entry 43). -/

namespace Sys2Proof.Machine

open Sys2Proof

/-! ### Bytes stored in ranges -/

/-- The run that stores bytes at the start of a range. -/
def rangeRun (e : Region × List Byte) : Nat × List Byte := (e.1.base, e.2)

theorem overlaps_mono {x y x' y' : Region} (h : overlaps x y = false) (hx : x'.base = x.base ∧ x'.len ≤ x.len) (hy : y'.base = y.base ∧ y'.len ≤ y.len) :
    overlaps x' y' = false := by
  rw [overlaps_eq_false] at h ⊢
  omega

/-- Bytes stored in ranges that do not overlap stand as they were stored. -/
theorem State.read_rangeRuns {s t : State} {l : List (Region × List Byte)} (hm : t.mem = (s.writeAll (l.map rangeRun)).mem)
    (hl : ∀ e ∈ l, e.2.length ≤ e.1.len) (hp : (l.map Prod.fst).Pairwise fun x y => overlaps x y = false) {e : Region × List Byte} (he : e ∈ l) :
    t.read e.1.base e.2.length = e.2 := by
  have runs : (l.map rangeRun).Pairwise fun x y => overlaps (runRegion x) (runRegion y) = false := by
    rw [List.pairwise_map] at hp ⊢
    exact hp.imp_of_mem fun {x y} hx hy h => overlaps_mono (x := x.1) (y := y.1) h ⟨rfl, hl x hx⟩ ⟨rfl, hl y hy⟩
  rw [State.read, hm]
  exact State.read_writeAll_of_pairwise s runs (List.mem_map_of_mem (f := rangeRun) he)

theorem length_slice_le (b : List Byte) (o n : Nat) : (slice b o n).length ≤ n := List.length_take_le n _

theorem length_slice {b : List Byte} {o n : Nat} (h : o + n ≤ b.length) : (slice b o n).length = n := by
  rw [slice, List.length_take, List.length_drop]
  omega

theorem slice_append_slice (b : List Byte) (o m n : Nat) : slice b o m ++ slice b (o + m) n = slice b o (m + n) := by
  rw [slice, slice, slice, List.take_add, List.drop_drop]

/-! ### A row put in place -/

/-- The places in the migration area with that of an arriving row. -/
def State.placedSlots (s : State) (r : MigRec) : NMap Nat :=
  if s.mach.rank = some (s.home r.table r.row) then s.st.migSlots else s.st.migSlots.put (rowKey r.table r.row) (s.freeMigSlot r.table)

/-- The place of an arriving row is chosen. -/
def State.placed (s : State) (r : MigRec) : State := { s with st := { s.st with migSlots := s.placedSlots r } }

theorem State.placeRow_eq (s : State) (r : MigRec) : s.placeRow r = (s.placed r, (s.placed r).slotOf r.table r.row) := by
  unfold State.placeRow State.placed State.placedSlots
  dsimp only
  split <;> rfl

/-- What an arriving row stores: its directory entry, its bytes, and a trained row's master and moments. -/
def State.rowParts (s : State) (td : TableDecl) (r : MigRec) (b : List Byte) : List (Region × List Byte) :=
  [({ base := s.dirAddr r.table r.row, len := 8 }, leBytes 6 (s.slotOf r.table r.row) ++ leBytes 2 (field b 0 2)),
    ({ base := s.slotOf r.table r.row, len := tabRowBytes td }, slice b 142 (tabRowBytes td))] ++
  if td.train then
    [(s.masterOf r.table r.row, slice b (142 + tabRowBytes td) (s.masterOf r.table r.row).len),
      (s.momentsOf r.table r.row, slice b (142 + tabRowBytes td + (s.masterOf r.table r.row).len) (s.momentsOf r.table r.row).len)]
  else []

theorem State.rowParts_regions (s : State) (td : TableDecl) (r : MigRec) (b : List Byte) :
    (s.rowParts td r b).map Prod.fst = s.rowRegions td r.table r.row := by
  unfold State.rowParts State.rowRegions
  cases td.train <;> rfl

theorem State.rowParts_fit {s : State} {td : TableDecl} {r : MigRec} {b : List Byte} : ∀ e ∈ s.rowParts td r b, e.2.length ≤ e.1.len := by
  unfold State.rowParts
  cases td.train <;> simp [length_slice_le]

/-- What an arriving row stores, a trained row's master and moments behind its entry and bytes. -/
theorem State.writeAll_rowParts (p : State) (td : TableDecl) (r : MigRec) (b : List Byte) {w : State}
    (hw : (p.setDir r.table r.row (p.slotOf r.table r.row) (field b 0 2)).write (p.slotOf r.table r.row) (slice b 142 (tabRowBytes td)) = w) :
    (if td.train then (w.write (w.masterOf r.table r.row).base (slice b (142 + tabRowBytes td) (w.masterOf r.table r.row).len)).write
      (w.momentsOf r.table r.row).base (slice b (142 + tabRowBytes td + (w.masterOf r.table r.row).len) (w.momentsOf r.table r.row).len) else w) =
    p.writeAll ((p.rowParts td r b).map rangeRun) := by
  have master : w.masterOf r.table r.row = p.masterOf r.table r.row := by rw [← hw]; rfl
  have moments : w.momentsOf r.table r.row = p.momentsOf r.table r.row := by rw [← hw]; rfl
  rw [master, moments, State.rowParts, List.map_append, State.writeAll_append]
  have first : p.writeAll (List.map rangeRun [({ base := p.dirAddr r.table r.row, len := 8 }, leBytes 6 (p.slotOf r.table r.row) ++ leBytes 2 (field b 0 2)),
    ({ base := p.slotOf r.table r.row, len := tabRowBytes td }, slice b 142 (tabRowBytes td))]) = w := hw
  rw [first]
  split <;> rfl

/-- A row of `src` is put in place and its room is taken up. -/
def State.landing (s : State) (src : Nat) (td : TableDecl) (r : MigRec) (b : List Byte) : State :=
  { s.takeRow td r b with st := { (s.takeRow td r b).st with
    landed := (s.takeRow td r b).st.landed ++ [(rowKey r.table r.row, src)]
    reserved := (s.takeRow td r b).st.reserved.erase (src, rowKey r.table r.row) } }

/-- A row put in place changes memory, and of the step's state its place, that it has arrived and from whom, room, and its counts. -/
theorem State.landing_eq (s : State) (src : Nat) (td : TableDecl) (r : MigRec) (b : List Byte) : ∃ x : StepState,
    s.landing src td r b = { s with mem := ((s.placed r).writeAll (((s.placed r).rowParts td r b).map rangeRun)).mem, st := x } ∧
    x.migSlots = s.placedSlots r ∧ x.arrived = rowKey r.table r.row :: s.st.arrived ∧ x.landed = s.st.landed ++ [(rowKey r.table r.row, src)] ∧
    x.reserved = s.st.reserved.erase (src, rowKey r.table r.row) := by
  unfold State.landing State.takeRow
  dsimp only
  rw [s.placeRow_eq r]
  dsimp only
  rw [(s.placed r).writeAll_rowParts td r b rfl, State.writeAll_eq]
  exact ⟨_, rfl, rfl, rfl, rfl, rfl⟩

/-- A row that lands is put in place; with the last of its old owner's the rows of that owner are copied to the holders. -/
theorem State.landRow_eq {s : State} {td : TableDecl} {r : MigRec} (ht : s.table r.table = some td) (src : Nat) (b : List Byte) : s.landRow src r b =
    if (s.landing src td r b).st.reserved.any (fun e => e.1 == src) then s.landing src td r b
    else State.copyBoundary { s.landing src td r b with st := { (s.landing src td r b).st with owedMoves := (s.landing src td r b).st.owedMoves ++ [src] } }
      ((s.landing src td r b).arrivedFrom src) [] := by
  unfold State.landRow
  rw [ht]
  rfl

/-- A row from `src` has landed: what is stored, the committed values behind it, and what the module keeps of it. -/
structure State.rowLanded (s : State) (src : Nat) (td : TableDecl) (r : MigRec) (b : List Byte) (t : State) : Prop where
  mem : ∃ c : List Byte, c.length ≤ s.tailRegion.len ∧
    t.mem = ((s.placed r).writeAll (((s.placed r).rowParts td r b ++ [(s.tailRegion, c)]).map rangeRun)).mem
  dir : t.dirAddr r.table r.row = (s.placed r).dirAddr r.table r.row
  arrived : rowKey r.table r.row ∈ t.st.arrived
  landed : (rowKey r.table r.row, src) ∈ t.st.landed
  reserved : t.st.reserved = s.st.reserved.erase (src, rowKey r.table r.row)
  owed : (∀ e ∈ s.st.reserved.erase (src, rowKey r.table r.row), e.1 ≠ src) → src ∈ t.st.owedMoves

/-- The ranges of a row that has come from an owner are among those that arrived from it. -/
theorem State.arrivedFrom_ne_nil {s : State} {src tab row : Nat} {td : TableDecl} (hrow : row < 2 ^ 40) (ht : s.table tab = some td)
    (h : (rowKey tab row, src) ∈ s.st.landed) : s.arrivedFrom src ≠ [] := by
  have some_range : ({ base := s.dirAddr tab row, len := 8 } : Region) ∈ s.arrivedFrom src := by
    refine List.mem_flatMap.mpr ⟨_, List.mem_filter.mpr ⟨h, beq_self_eq_true src⟩, ?_⟩
    rw [keyTable_rowKey hrow, keyRow_rowKey hrow, ht]
    exact List.mem_cons_self
  exact List.ne_nil_of_mem some_range

/-- A row that arrives has landed. -/
theorem State.landRow_rowLanded {s : State} {src : Nat} {td : TableDecl} {r : MigRec} {b : List Byte} (hrow : r.row < 2 ^ 40)
    (ht : s.table r.table = some td) (hh : s.holders s.rank ≠ []) : s.rowLanded src td r b (s.landRow src r b) := by
  obtain ⟨x, e, slots, arrived, landed, reserved⟩ := s.landing_eq src td r b
  have has : (rowKey r.table r.row, src) ∈ x.landed := by rw [landed]; exact List.mem_append_right _ (List.mem_singleton_self _)
  have here : rowKey r.table r.row ∈ x.arrived := by rw [arrived]; exact List.mem_cons_self
  have dir : (s.landing src td r b).dirAddr r.table r.row = (s.placed r).dirAddr r.table r.row := by
    rw [e]
    simp only [State.dirAddr, State.dirIndex, slots]
    rfl
  rw [State.landRow_eq ht]
  generalize s.landing src td r b = u at e dir
  split
  · next hany =>
    obtain ⟨y, hy, same⟩ := List.any_eq_true.mp hany
    rw [e] at hy
    refine ⟨⟨[], Nat.zero_le _, ?_⟩, dir, by rw [e]; exact here, by rw [e]; exact has, by rw [e]; exact reserved,
      fun h => absurd (beq_iff_eq.mp same) (h y (reserved ▸ hy))⟩
    rw [List.map_append, State.writeAll_append, e]
    rfl
  · obtain ⟨n, c, k, ec⟩ := State.copyBoundary_held (s := { u with st := { u.st with owedMoves := u.st.owedMoves ++ [src] } })
      (u.arrivedFrom_ne_nil (src := src) hrow (by rw [e]; exact ht) (by rw [e]; exact has)) (by rw [e]; exact hh) []
    rw [ec]
    refine ⟨⟨u.carriedBytes, ?_, ?_⟩, dir, ?_, ?_, ?_, fun _ => List.mem_append_right _ (List.mem_singleton_self _)⟩
    · rw [State.carriedBytes, length_fit, e]
      rfl
    · have tail : u.tailRegion = s.tailRegion := by rw [e]; rfl
      rw [List.map_append, State.writeAll_append, ← tail]
      exact State.writeAll_mem_congr (l := [(u.tailRegion.base, u.carriedBytes)]) (by rw [e])
    all_goals rw [e]
    · exact here
    · exact has
    · exact reserved

/-- What is stored of a row that has landed: its VERSION, its bytes, and a trained row's master and moments, as they were sent. -/
theorem State.rowLanded.read {s t : State} {src : Nat} {td : TableDecl} {r : MigRec} {b : List Byte} (h : s.rowLanded src td r b t)
    (hp : ((s.placed r).rowRegions td r.table r.row ++ [s.tailRegion]).Pairwise fun x y => overlaps x y = false) :
    t.versionOf r.table r.row = field b 0 2 ∧
    (142 + tabRowBytes td ≤ b.length → t.read ((s.placed r).slotOf r.table r.row) (tabRowBytes td) = slice b 142 (tabRowBytes td)) ∧
    (td.train = true → ∀ ma mo, ma = (s.placed r).masterOf r.table r.row → mo = (s.placed r).momentsOf r.table r.row →
      142 + tabRowBytes td + ma.len + mo.len ≤ b.length →
        t.read ma.base ma.len ++ t.read mo.base mo.len = slice b (142 + tabRowBytes td) (ma.len + mo.len)) := by
  obtain ⟨c, hc, hm⟩ := h.mem
  have put : ∀ e ∈ (s.placed r).rowParts td r b, t.read e.1.base e.2.length = e.2 := fun e he => by
    refine State.read_rangeRuns hm (fun e he => ?_) ?_ (List.mem_append_left _ he)
    · rcases List.mem_append.mp he with he | he
      · exact State.rowParts_fit e he
      · rw [List.mem_singleton.mp he]
        exact hc
    · rw [List.map_append, State.rowParts_regions]
      exact hp
  have entry := put _ (List.mem_append_left _ List.mem_cons_self)
  have row := put _ (List.mem_append_left _ (List.mem_cons_of_mem _ List.mem_cons_self))
  dsimp only at entry row
  rw [List.length_append, length_leBytes, length_leBytes, State.read_append] at entry
  refine ⟨?_, fun hl => ?_, fun htr ma mo hma hmo hl => ?_⟩
  · rw [State.versionOf, h.dir, State.readNat, (List.append_inj entry (by simp)).2, leNat_leBytes_of_lt _ _ (field_lt b 0 2)]
  · rw [length_slice hl] at row
    exact row
  · have master := put (ma, slice b (142 + tabRowBytes td) ma.len) (by simp [State.rowParts, htr, hma])
    have moments := put (mo, slice b (142 + tabRowBytes td + ma.len) mo.len) (by simp [State.rowParts, htr, hma, hmo])
    dsimp only at master moments
    rw [length_slice (by omega)] at master moments
    rw [master, moments, slice_append_slice]

/-! ### The message -/

section
variable {s : State} {m : Msg} {r : MigRec} {td : TableDecl} (hm : s.member = true) (hp : s.prog.isSome = true) (ht : m.typ = 5) (ho : m.opc = 2)
  (hv : m.vc = 10) (h1 : migRecs (slice m.body 16 8) = [r])
include hm hp ht ho hv

/-- Rows wait until this module has reached the boundary. -/
theorem migrateMapInstall_rowEarly (h : ∃ x, s.st.run = some x ∧ x.phase ≠ .waitStart) : exec (.migrateMapInstall m) s = .next s := by
  obtain ⟨x, hx, hph⟩ := h
  have step : exec (.migrateMapInstall m) s = .next (migrateMapInstall m s) := rfl
  rw [step, migrateMapInstall, if_neg (by simp [hm, hp]), if_pos (by simp [ht, ho, hv]), if_pos (by simp [hx, hph])]

variable (h : ∀ x, s.st.run = some x → x.phase = .waitStart)
include h1 h

/-- At the boundary a row's message is taken, and the row lands if room is kept for it. -/
theorem exec_migrateMapInstall_row : exec (.migrateMapInstall m) s = .next
    (if field m.body 5 1 == 1 || s.st.reserved.contains (m.src, rowKey r.table r.row) then (s.took m).landRow m.src r (m.body.drop 24) else s.took m) := by
  have step : exec (.migrateMapInstall m) s = .next (migrateMapInstall m s) := rfl
  have bound : s.st.run.elim true (fun x => x.phase == .waitStart) = true := by
    cases hr : s.st.run with
    | none => rfl
    | some x => simp [h x hr]
  obtain ⟨n, e⟩ := s.took_eq m
  rw [step, migrateMapInstall, if_neg (by simp [hm, hp]), if_pos (by simp [ht, ho, hv]), bound, if_neg (by decide), h1, e]
  rfl

/-- A row for which no room is kept is only taken. -/
theorem migrateMapInstall_rowUnkept (hf : field m.body 5 1 ≠ 1) (hk : (m.src, rowKey r.table r.row) ∉ s.st.reserved) :
    ∃ t, exec (.migrateMapInstall m) s = .next t ∧ s.netOnly t := by
  refine ⟨_, exec_migrateMapInstall_row hm hp ht ho hv h1 h, ?_⟩
  rw [if_neg (by simp [hf, hk])]
  exact s.took_netOnly m

/-- A row for which room is kept lands. -/
theorem migrateMapInstall_rowLands (htab : s.table r.table = some td) (hk : field m.body 5 1 = 1 ∨ (m.src, rowKey r.table r.row) ∈ s.st.reserved)
    (hh : s.holders s.rank ≠ []) : ∃ t, exec (.migrateMapInstall m) s = .next t ∧ s.rowLanded m.src td r (m.body.drop 24) t := by
  have hrow : r.row < 2 ^ 40 := row_lt_of_mem_migRecs (b := slice m.body 16 8) (by simp [h1])
  refine ⟨_, exec_migrateMapInstall_row hm hp ht ho hv h1 h, ?_⟩
  rw [if_pos (by simpa using hk)]
  obtain ⟨n, e⟩ := s.took_eq m
  rw [e]
  obtain ⟨⟨c, hc, mem⟩, dir, arrived, landed, reserved, owed⟩ := State.landRow_rowLanded (s := { s with net := n }) (src := m.src) (b := m.body.drop 24) hrow htab hh
  exact ⟨⟨c, hc, mem.trans (State.writeAll_mem_congr rfl)⟩, dir, arrived, landed, reserved, owed⟩

end

end Sys2Proof.Machine
end

section
/-! PROOFS. The Eddy refresh at the members that keep replicas, and its acknowledgement (07 R172, 11 R281, log entry 46). -/

namespace Sys2Proof.Machine

open Sys2Proof

/-! ### Replicas -/

/-- The row that a refresh record names. -/
def recordKey (r : List Byte) : Nat := rowKey (field r 5 1) (field r 0 5)

/-- Replicas written change nothing else. -/
theorem State.takeRefresh_eq (s : State) (src fuel : Nat) (b : List Byte) : ∃ e, s.takeRefresh src fuel b = { s with st := { s.st with eddy := e } } := by
  induction fuel generalizing s b with
  | zero => exact ⟨s.st.eddy, rfl⟩
  | succ fuel ih =>
    rw [State.takeRefresh]
    split
    · exact ⟨s.st.eddy, rfl⟩
    · dsimp only
      split
      · exact ⟨s.st.eddy, rfl⟩
      · obtain ⟨e, he⟩ := ih _ _
        exact ⟨e, he⟩

theorem State.takeRefresh_short (s : State) (src fuel : Nat) {b : List Byte} (h : b.length < 8) : s.takeRefresh src fuel b = s := by
  cases fuel with
  | zero => rfl
  | succ fuel => rw [State.takeRefresh, if_pos h]

/-- One record makes its replica present with its owner, VERSION and bytes. -/
theorem State.takeRefresh_one {s : State} {src : Nat} {b : List Byte} {td : TableDecl} (ht : s.table (field b 5 1) = some td)
    (hb : b.length = 8 + roundUp (tabRowBytes td) 8) : (s.takeRefresh src b.length b).st.eddy.find (recordKey b) =
      some { src := src, bytes := slice b 8 (tabRowBytes td), version := field b 6 2, present := true } := by
  obtain ⟨fuel, hf⟩ : ∃ fuel, b.length = fuel + 1 := ⟨b.length - 1, by omega⟩
  have rest : (b.drop (8 + roundUp (tabRowBytes td) 8)).length < 8 := by rw [List.length_drop]; omega
  rw [hf, State.takeRefresh, if_neg (by omega), ht]
  dsimp only
  rw [State.takeRefresh_short _ _ _ rest]
  exact NMap.find_put_self _ _ _

/-- A replica dropped, if there is one. -/
def State.dropRow (s : State) (r : List Byte) : State :=
  if (s.st.eddy.find (recordKey r)).isSome then State.count { s with st := { s.st with eddy := s.st.eddy.erase (recordKey r) } } cEddyDrops 1 else s

theorem State.dropRow_eq (s : State) (r : List Byte) : ∃ c e, s.dropRow r = { s with ctr := c, st := { s.st with eddy := e } } := by
  unfold State.dropRow
  split
  · exact ⟨_, _, rfl⟩
  · exact ⟨s.ctr, s.st.eddy, rfl⟩

/-- A replica that is dropped, or was absent, is absent. -/
theorem State.dropRow_absent {s : State} {r : List Byte} {k : Nat} (h : k = recordKey r ∨ s.st.eddy.find k = none) : (s.dropRow r).st.eddy.find k = none := by
  unfold State.dropRow
  split
  · by_cases hk : recordKey r = k
    · rw [← hk]
      exact NMap.find_erase_self _ _
    · exact (NMap.find_erase_ne _ hk).trans (h.resolve_left (Ne.symm hk))
  · next hn =>
    rcases h with rfl | h
    · exact Option.not_isSome_iff_eq_none.mp hn
    · exact h

/-- Replicas dropped change counters and nothing else. -/
theorem State.dropRows_eq (s : State) (recs : List (List Byte)) : ∃ c e, s.dropRows recs = { s with ctr := c, st := { s.st with eddy := e } } :=
  List.foldlRecOn (motive := fun t : State => ∃ c e, t = { s with ctr := c, st := { s.st with eddy := e } }) recs State.dropRow ⟨s.ctr, s.st.eddy, rfl⟩
    fun t ⟨c, e, ht⟩ r _ => by
      obtain ⟨c', e', hr⟩ := t.dropRow_eq r
      exact ⟨c', e', by rw [hr, ht]⟩

/-- Every replica named to be dropped is absent afterwards. -/
theorem State.dropRows_absent (s : State) {recs : List (List Byte)} {k : Nat} (h : (∃ r ∈ recs, k = recordKey r) ∨ s.st.eddy.find k = none) :
    (s.dropRows recs).st.eddy.find k = none := by
  show (recs.foldl State.dropRow s).st.eddy.find k = none
  induction recs generalizing s with
  | nil =>
    obtain ⟨r, hr, -⟩ | h := h
    · cases hr
    · exact h
  | cons x t ih =>
    refine ih (s.dropRow x) ?_
    obtain ⟨r, hr, hk⟩ | h := h
    · rcases List.mem_cons.mp hr with rfl | hr
      · exact .inr (State.dropRow_absent (.inl hk))
      · exact .inl ⟨r, hr, hk⟩
    · exact .inr (State.dropRow_absent (.inr h))

/-! ### A refresh -/

/-- The replicas of a whole refresh dropped and written. -/
def State.refreshTaken (s : State) (m : Msg) (l : List Msg) : State :=
  (s.dropRows (groupsOf 8 ((batchBytes l).take (8 * field m.body 8 8)))).takeRefresh m.src (batchBytes l).length ((batchBytes l).drop (8 * field m.body 8 8))

theorem State.refreshTaken_eq (s : State) (m : Msg) (l : List Msg) : ∃ c e, s.refreshTaken m l = { s with ctr := c, st := { s.st with eddy := e } } := by
  obtain ⟨c, e, hd⟩ := s.dropRows_eq (groupsOf 8 ((batchBytes l).take (8 * field m.body 8 8)))
  obtain ⟨e', ht⟩ := State.takeRefresh_eq (s.dropRows (groupsOf 8 ((batchBytes l).take (8 * field m.body 8 8)))) m.src (batchBytes l).length
    ((batchBytes l).drop (8 * field m.body 8 8))
  exact ⟨c, e', by rw [State.refreshTaken, ht, hd]⟩

section
variable {s : State} {m : Msg} {b : List Byte} (hb : b = m.body.drop 16)
include hb

theorem batchBytes_one : batchBytes [m] = b := by rw [hb]; exact List.append_nil _

theorem State.refreshTaken_present {td : TableDecl} (h0 : field m.body 8 8 = 0) (ht : s.table (field b 5 1) = some td)
    (hl : b.length = 8 + roundUp (tabRowBytes td) 8) : (s.refreshTaken m [m]).st.eddy.find (recordKey b) =
      some { src := m.src, bytes := slice b 8 (tabRowBytes td), version := field b 6 2, present := true } := by
  rw [State.refreshTaken, batchBytes_one hb, h0]
  exact State.takeRefresh_one ht hl

theorem State.refreshTaken_absent (hl : 8 * field m.body 8 8 = b.length) {r : List Byte} (hr : r ∈ groupsOf 8 b) :
    (s.refreshTaken m [m]).st.eddy.find (recordKey r) = none := by
  rw [State.refreshTaken, batchBytes_one hb, hl, List.take_length, State.takeRefresh_short _ _ _ (by simp)]
  exact s.dropRows_absent (.inl ⟨r, hr, rfl⟩)

end

theorem mem_insertOnce (x : Nat) (l : List Nat) : x ∈ insertOnce x l := by
  induction l with
  | nil => exact List.mem_singleton_self x
  | cons a t ih =>
    rw [insertOnce]
    split
    · exact List.mem_cons_self
    · split
      · next h => exact h ▸ List.mem_cons_self
      · exact List.mem_cons_of_mem _ ih

/-- The refresh of an owner is over here. -/
def State.refreshOver (s : State) (src : Nat) : State :=
  { s with st := { s.st with refreshed := insertOnce src s.st.refreshed, refreshWait := s.st.refreshWait.filter (· != src) } }

/-- A refresh of another boundary waits. -/
theorem eddyRefreshRecord_other {s : State} {m : Msg} (hf : field m.body 0 4 ≠ s.st.stepNo) : exec (.eddyRefreshRecord m) s = .next s := by
  have step : exec (.eddyRefreshRecord m) s = .next (eddyRefreshRecord m s) := rfl
  rw [step, eddyRefreshRecord, if_pos (by simp [hf])]

section
variable {s : State} {m : Msg} (hm : s.member = true) (hp : s.prog.isSome = true) (ht : m.typ = 5) (ho : m.opc = 1)
include hm hp ht ho

section
variable (hr : m.resp = true) (hf : field m.body 0 4 = s.st.stepNo)
include hr hf

/-- A refresh that is not whole yet is kept. -/
theorem eddyRefreshRecord_kept (h : ((s.took m).batchIn m).1 = none) : ∃ t, exec (.eddyRefreshRecord m) s = .next t ∧ m ∈ t.ex.parts ∧ t.st = s.st ∧
    s.storesSame t ∧ t.host = s.host := by
  have step : exec (.eddyRefreshRecord m) s = .next (eddyRefreshRecord m s) := rfl
  obtain ⟨n, e⟩ := s.took_eq m
  obtain ⟨l, hl, has⟩ := (s.took m).batchIn_eq m
  refine ⟨_, step, ?_⟩
  rw [eddyRefreshRecord, if_neg (by simp [hm, hp, ht, ho, hr, hf]), hl, h, e]
  exact ⟨has h, rfl, ⟨rfl, rfl, rfl, rfl, rfl⟩, rfl⟩

/-- A whole refresh writes its replicas, is over here, and is acknowledged. -/
theorem eddyRefreshRecord_whole {l : List Msg} (h : ((s.took m).batchIn m).1 = some l) : ∃ t, exec (.eddyRefreshRecord m) s = .next t ∧ s.storesSame t ∧
    t.host = s.host ∧ s.emits t (mkMsg 5 1 10 m.src (m.body.take 16)) ∧ m.src ∈ t.st.refreshed ∧ m.src ∉ t.st.refreshWait ∧
    ∃ u : State, u.table = s.table ∧ t.st.eddy = (u.refreshTaken m l).st.eddy := by
  have step : exec (.eddyRefreshRecord m) s = .next (eddyRefreshRecord m s) := rfl
  have sent := s.took_sent m
  obtain ⟨n, e⟩ := s.took_eq m
  obtain ⟨k, hk, -⟩ := (s.took m).batchIn_eq m
  rw [e] at sent
  rw [h, e] at hk
  generalize hu : ({ ({ s with net := n } : State) with ex := { s.ex with parts := k } } : State) = u at hk
  have eq : eddyRefreshRecord m s = (((u.refreshTaken m l).refreshOver m.src).send (mkMsg 5 1 10 m.src (m.body.take 16))).tryBegin := by
    rw [eddyRefreshRecord, if_neg (by simp [hm, hp, ht, ho, hr, hf]), e, hk]
    rfl
  obtain ⟨c, y, hy⟩ := u.refreshTaken_eq m l
  have table : u.table = s.table := by rw [← hu]; rfl
  have live : ((u.refreshTaken m l).refreshOver m.src).live = true := by rw [hy, ← hu]; exact State.live_of_member hm
  have said := State.send_emits ((u.refreshTaken m l).refreshOver m.src) (mkMsg 5 1 10 m.src (m.body.take 16)) live
  obtain ⟨n', c', es⟩ := ((u.refreshTaken m l).refreshOver m.src).send_eq (mkMsg 5 1 10 m.src (m.body.take 16))
  have goes := (((u.refreshTaken m l).refreshOver m.src).send (mkMsg 5 1 10 m.src (m.body.take 16))).tryBegin_copies.2.1
  obtain ⟨b, n'', c'', w, x, et⟩ := (((u.refreshTaken m l).refreshOver m.src).send (mkMsg 5 1 10 m.src (m.body.take 16))).tryBegin_eq
  have eddy : (((u.refreshTaken m l).refreshOver m.src).send (mkMsg 5 1 10 m.src (m.body.take 16))).tryBegin.st.eddy = (u.refreshTaken m l).st.eddy := by
    rw [et, es]
    rfl
  refine ⟨_, step, ?_⟩
  rw [eq]
  refine ⟨?_, ?_, State.emits_mono (State.adds_of_same (P := fun _ => True) ?_) (State.adds_of_same (P := fun _ => True) rfl)
    (State.emits_goesOn said goes), ?_, ?_, u, table, eddy⟩
  · rw [et, es, hy, ← hu]
    exact ⟨rfl, rfl, rfl, rfl, rfl⟩
  · rw [et, es, hy, ← hu]
    rfl
  · rw [hy, ← hu]
    exact sent
  · rw [et, es]
    exact mem_insertOnce _ _
  · rw [et, es]
    simp [State.refreshOver]

end

section
variable (hr : m.resp = false)
include hr

theorem exec_eddyRefreshAck : exec (.eddyRefreshAck m) s = .next (if field m.body 5 1 = 2 then (s.took m).sendRefresh [m.src] [] ((s.took m).st.eddySent.map (·.1))
    else State.finishCopies { s.took m with st := { (s.took m).st with eddyAcks := (s.took m).st.eddyAcks.erase (m.src, 1) } }) := by
  have step : exec (.eddyRefreshAck m) s = .next (eddyRefreshAck m s) := rfl
  rw [step, eddyRefreshAck, if_neg (by simp [hm, hp, ht, ho, hr])]

/-- A member that has acknowledged is awaited no longer. -/
theorem eddyRefreshAck_heard (hf : field m.body 5 1 ≠ 2) : ∃ t, exec (.eddyRefreshAck m) s = .next t ∧ t.st.eddyAcks = s.st.eddyAcks.erase (m.src, 1) ∧
    s.storesSame t ∧ (s.mir.waiting = [] → t.host = s.host) := by
  refine ⟨_, exec_eddyRefreshAck hm hp ht ho hr, ?_⟩
  obtain ⟨n, e⟩ := s.took_eq m
  rw [if_neg hf, e]
  generalize hu : State.mk _ _ _ _ _ _ _ _ _ _ _ _ _ _ _ _ _ _ _ _ _ _ _ _ _ _ = u
  have same := u.finishCopies_copies.1
  refine ⟨(congrArg (·.st.eddyAcks) same).trans (by rw [← hu]), ⟨(congrArg (·.mem) same).trans ?_, (congrArg (·.nor) same).trans ?_,
    (congrArg (·.sermem) same).trans ?_, (congrArg (·.fuse) same).trans ?_, (congrArg (·.prog) same).trans ?_⟩, fun hw => ?host⟩
  case host => exact (State.finishCopies_quiet (s := u) (by rw [← hu]; exact hw)).1.trans (by rw [← hu])
  all_goals rw [← hu]

/-- A spare that asks for a refresh is sent every replica, and awaited. -/
theorem eddyRefreshAck_asked (hf : field m.body 5 1 = 2) : ∃ t, exec (.eddyRefreshAck m) s = .next t ∧ t.st.eddyAcks = s.st.eddyAcks ++ [(m.src, 1)] ∧
    s.storesSame t ∧ t.host = s.host := by
  refine ⟨_, exec_eddyRefreshAck hm hp ht ho hr, ?_⟩
  rw [if_pos hf]
  obtain ⟨n', c, e'⟩ := (s.took m).sendRefresh_eq [m.src] [] ((s.took m).st.eddySent.map (·.1))
  obtain ⟨n, e⟩ := s.took_eq m
  rw [e', e]
  exact ⟨rfl, ⟨rfl, rfl, rfl, rfl, rfl⟩, rfl⟩

end

end

end Sys2Proof.Machine
end

section
/-! PROOFS. The messages at the boundary together (07 R154, R172, R178-R180, 11 R281). -/

namespace Sys2Proof.Machine

open Sys2Proof

/-- A row's message that was sent carries the row: its record, VERSION, bytes, and a trained row's master and moments. -/
theorem State.emits_rowMsg {s t : State} {td : TableDecl} {r : MigRec} (h : s.emits t (s.rowMsg td r)) :
    ∃ y ∈ t.net.sent.drop s.net.sent.length, y.typ = 5 ∧ y.opc = 2 ∧ y.vc = 10 ∧ y.dst = r.dst ∧ field y.body 5 1 = 0 ∧
      slice y.body 16 8 = migBytes r ∧ slice y.body 24 2 = leBytes 2 (s.versionOf r.table r.row) ∧
      slice y.body 166 (tabRowBytes td) = s.read (s.slotOf r.table r.row) (tabRowBytes td) ∧
      ∀ ma mo, td.train = true → ma = s.masterOf r.table r.row → mo = s.momentsOf r.table r.row →
        slice y.body (166 + tabRowBytes td) (ma.len + mo.len) = s.read ma.base ma.len ++ s.read mo.base mo.len := by
  obtain ⟨y, hy, typ, opc, vc, dst, -, -, body⟩ := h
  exact ⟨y, hy, typ, opc, vc, dst, s.rowState_places td r body⟩

/-- Settles O30: by the message's kind, each by the lemma that says what its answer or its effect is. -/
theorem boundaryMessages : Obligations.BoundaryMessages := by
  unfold Obligations.BoundaryMessages
  refine ⟨fun s m hm hp => ⟨fun ht ho hv hr kind hk => ?requests, fun ht ho hv hr kind hk => ?answers,
    fun r td p b ht ho hv h1 htab hpl hb => ?rows⟩, fun s m b hm hp ht ho hb => ?eddy⟩
  case requests =>
    subst hk
    refine ⟨fun r h0 h1 htab hi hw => migrateMapInstall_entry hm hp ht ho hv hr h0 h1 htab hi hw, fun k n h3 hn hc => ?_, fun r td kept h4 h1 htab hh hc => ?_,
      fun h6 => migrateMapInstall_undone hm hp ht ho hv hr h6, fun h0 h3 h4 h6 => migrateMapInstall_complete hm hp ht ho hv hr h0 h3 h4 h6⟩
    · subst hc
      exact migrateMapInstall_count hm hp ht ho hv hr h3 hn
    · subst hc
      exact migrateMapInstall_room hm hp ht ho hv hr h4 h1 htab hh
  case answers =>
    subst hk
    refine ⟨fun a left bad h5 ha hs hl hbad => ?_, fun h5 h => migrateMapInstall_unawaited hm hp ht ho hv hr (.inl ⟨h5, h⟩), fun h7 hs => ?_,
      fun h7 hs => migrateMapInstall_unawaited hm hp ht ho hv hr (.inr (.inl ⟨h7, hs⟩)),
      fun h5 h7 hs => migrateMapInstall_installed hm hp ht ho hv hr h5 h7 hs,
      fun h5 h7 hs => migrateMapInstall_unawaited hm hp ht ho hv hr (.inr (.inr ⟨h5, h7, hs⟩))⟩
    · subst hl hbad
      refine ⟨fun h => migrateMapInstall_roomWaits hm hp ht ho hv hr h5 ha hs h,
        fun h hb hbad hacts hbusy => migrateMapInstall_noRoom hm hp ht ho hv hr h5 ha hs h hb hbad hacts hbusy,
        fun h hb hbad => ?_⟩
      obtain ⟨t, step, reserving, acts, stores, applied, rows⟩ := migrateMapInstall_rowsGo hm hp ht ho hv hr h5 ha hs h hb hbad
      exact ⟨t, step, reserving, acts, stores, applied, fun r hmem td htd => ⟨(rows r hmem td htd).1, State.emits_rowMsg (rows r hmem td htd).2⟩⟩
    · obtain ⟨t, step, wait, stores, host, told⟩ := migrateMapInstall_mirrored hm hp ht ho hv hr h7 hs
      refine ⟨t, step, wait, stores, host, fun a hnil ha => ?_⟩
      obtain ⟨all, sent⟩ := told a hnil ha
      exact ⟨all, fun o hmem => ⟨sent o hmem _ (List.mem_append_right _ (List.mem_singleton_self _)),
        fun x hx => sent o hmem x (List.mem_append_left _ hx)⟩⟩
  case rows =>
    rw [State.placeRow_eq] at hpl
    subst hpl hb
    refine ⟨fun h => migrateMapInstall_rowEarly hm hp ht ho hv h, fun h => ⟨fun hf hk => migrateMapInstall_rowUnkept hm hp ht ho hv h1 h hf hk,
      fun hk hh hpair => ?_⟩⟩
    obtain ⟨t, step, landed⟩ := migrateMapInstall_rowLands hm hp ht ho hv h1 h htab hk hh
    obtain ⟨version, bytes, trained⟩ := landed.read hpair
    exact ⟨t, step, landed.arrived, landed.landed, landed.reserved, version, bytes, trained, landed.owed⟩
  case eddy =>
    refine ⟨fun hr hf => ⟨fun h => eddyRefreshRecord_kept hm hp ht ho hr hf h, fun l h => ?_⟩, fun _ hf => eddyRefreshRecord_other hf,
      fun hr hf => eddyRefreshAck_heard hm hp ht ho hr hf, fun hr hf => eddyRefreshAck_asked hm hp ht ho hr hf⟩
    obtain ⟨t, step, stores, host, said, ended, left, u, table, eddy⟩ := eddyRefreshRecord_whole hm hp ht ho hr hf h
    refine ⟨t, step, stores, host, said, ended, left, fun td h1 h0 htab hl => ?_, fun h1 hl r hmem => ?_⟩ <;> rw [eddy, h1]
    · exact State.refreshTaken_present hb h0 (table ▸ htab) hl
    · exact State.refreshTaken_absent hb hl hmem

end Sys2Proof.Machine
end

section
/-! SUPPORT. A draw that an EVAL's task is refused ends the EVAL, and the attention area of an EVIDENCE_EXPORT that comes next is blanked (12 R319).
`State.failsWith` has all that is stored as it was. -/

namespace Sys2Proof.Machine

open Sys2Proof Sys2Proof.Tests

/-- Parameters and a tag that may be drawn with leave a draw to its ranges (12 R298, R303). -/
theorem State.rng_judged {s : State} {core slot : Nat} {r : RngArgs} {ok : Bool}
    (hr : (s.runs core slot && s.workLive ((s.weir core).task slot).evalClass) = true) (hok : (ok && tagOk r.tag) = true) (reads : List Region)
    (value : State → Nat → GenState → Nat × AFlags) :
    ∃ act, s.rng core slot r ok reads value = s.vector core slot reads (span r.dst (fmtBytes (if r.bf16 then 1 else 0) r.n)) act := by
  rw [State.rng]
  dsimp only
  rw [hr, if_neg (by decide), hok, if_neg (by decide)]
  exact ⟨_, rfl⟩

/-- Parameters that are numbers and a tag that may be drawn with leave RNG_UNIFORM to its ranges. -/
theorem exec_rngUniform {s : State} {core slot : Nat} {r : RngArgs} {lo hi : W32}
    (hr : (s.runs core slot && s.workLive ((s.weir core).task slot).evalClass) = true) (hok : (numberOk lo && numberOk hi && tagOk r.tag) = true) :
    ∃ act, exec (.rngUniform core slot r lo hi) s = .next (s.vector core slot [] (span r.dst (fmtBytes (if r.bf16 then 1 else 0) r.n)) act) := by
  obtain ⟨act, he⟩ := State.rng_judged hr hok [] fun _ _ g => uniformValue g lo.toNat hi.toNat
  exact ⟨act, congrArg Host.Outcome.next he⟩

/-- One FP32 value drawn into flash. -/
def drawToFlash : RngArgs := { tag := 3, tensor := 0, first := 0, n := 1, bf16 := false, dst := far }

/-- Refutes O60: a uniform draw into flash, against 08 R187, ends the EVAL that it is for, and the attention area of the EVIDENCE_EXPORT that comes next is
blanked, where nothing stored was to change. -/
theorem not_drawsStored : ¬ Obligations.DrawsStored := by
  unfold Obligations.DrawsStored
  rintro ⟨-, -, -, h⟩
  obtain ⟨h, -⟩ := h exportNext 0 0 drawToFlash _ _ rfl rfl
  obtain ⟨h, -⟩ := h (.rngUniform 0 0 drawToFlash 0 0) _ _ (.inl ⟨0, 0, rfl, rfl, rfl⟩)
  obtain ⟨act, he⟩ := exec_rngUniform (r := drawToFlash) (lo := 0) (hi := 0) exportNext_runs (by decide)
  exact exportNext_not_laneRefuses (by decide) (by decide) he h

end Sys2Proof.Machine
end

section
/-! SUPPORT. The byte stores' canonical form (log entry 5) is kept by every function of the model that gives a state: each lemma says so of one function,
through the lemmas of the functions that it is made of. Bytes change in few places only: a store, with or without the undo log, a reset, the ROM's copy
of the serial memory, the image slot, and the sled's bridge. -/

namespace Sys2Proof.Machine

open Sys2Proof

/-- An update of what is no byte store keeps their form. -/
theorem State.storesOk.keep {s : State} (hs : s.storesOk)
    {pwr fuse slotOpen ms regs ctr ind host tier mach prog loadWait st ex conf wd bar mir recov net gc free pending} :
    State.storesOk ⟨pwr, fuse, s.nor, slotOpen, s.sermem, ms, regs, ctr, ind, host, s.mem, tier, mach, prog, loadWait, st, ex, conf, wd, bar, mir, recov, net,
      gc, free, pending⟩ := hs

/-- So does whatever leaves the stores alone. -/
theorem State.storesOk.congr {s t : State} (hs : s.storesOk) (h : t.mem = s.mem ∧ t.nor = s.nor ∧ t.sermem = s.sermem) : t.storesOk := by
  obtain ⟨hm, hn, hr⟩ := h
  rw [State.storesOk, hm, hn, hr]
  exact hs

theorem State.storesOk.ite {c : Prop} [Decidable c] {s t : State} (hs : s.storesOk) (ht : t.storesOk) : (if c then s else t).storesOk := by
  split
  · exact hs
  · exact ht

theorem State.storesOk.iteFst {α : Type} {c : Prop} [Decidable c] {p q : State × α} (hp : p.1.storesOk) (hq : q.1.storesOk) :
    (if c then p else q).1.storesOk := by
  split
  · exact hp
  · exact hq

theorem State.storesOk.iteSnd {α : Type} {c : Prop} [Decidable c] {p q : α × State} (hp : p.2.storesOk) (hq : q.2.storesOk) :
    (if c then p else q).2.storesOk := by
  split
  · exact hp
  · exact hq

theorem State.storesOk.foldl {α : Type} {f : State → α → State} {l : List α} {s : State} (hs : s.storesOk) (hf : ∀ s x, s.storesOk → (f s x).storesOk) :
    (l.foldl f s).storesOk := by
  induction l generalizing s with
  | nil => exact hs
  | cons x l ih => exact ih (hf s x hs)

/-- Every store into device memory keeps the form. -/
theorem State.storesOk.write {s : State} (hs : s.storesOk) {a : Nat} {b : List Byte} : (s.write a b).storesOk := ⟨s.write_wf a b hs.1, hs.2⟩

theorem State.storesOk.writeUndo {s : State} (hs : s.storesOk) {a : Nat} {b : List Byte} : (s.writeUndo a b).storesOk := by
  induction b generalizing s a with
  | nil => exact hs
  | cons x t ih =>
    rw [State.writeUndo]
    apply ih
    exact ⟨NMap.wf_set 0 s.mem a x hs.1, hs.2⟩

theorem State.storesOk.foldlFst {α β : Type} {f : State × β → α → State × β} {l : List α} {p : State × β} (hs : p.1.storesOk)
    (hf : ∀ p x, p.1.storesOk → (f p x).1.storesOk) : (l.foldl f p).1.storesOk := by
  induction l generalizing p with
  | nil => exact hs
  | cons x l ih => exact ih (hf p x hs)

theorem State.storesOk.foldlSnd {α β : Type} {f : β × State → α → β × State} {l : List α} {p : β × State} (hs : p.2.storesOk)
    (hf : ∀ p x, p.2.storesOk → (f p x).2.storesOk) : (l.foldl f p).2.storesOk := by
  induction l generalizing p with
  | nil => exact hs
  | cons x l ih => exact ih (hf p x hs)

theorem State.storesOk.elim {α : Type} {o : Option α} {f : α → State} {s : State} (hs : s.storesOk) (hf : ∀ x, (f x).storesOk) : (o.elim s f).storesOk := by
  cases o with
  | none => exact hs
  | some x => exact hf x

/-- An answer that is given is in the form. -/
theorem State.storesOk.of_some {s t : State} (hs : s.storesOk) (e : some s = some t) : t.storesOk := Option.some.inj e ▸ hs

theorem State.storesOk.snd {α : Type} {p : α × State} (h : p.2.storesOk) {a : α} {s : State} (e : p = (a, s)) : s.storesOk := by
  subst e
  exact h

variable {s : State}

/-! ### State -/

theorem State.reset_storesOk : State.reset.storesOk :=
  ⟨State.reset_wf, ⟨List.Pairwise.nil, by simp [State.reset]⟩, ⟨List.Pairwise.nil, by simp [State.reset]⟩⟩

/-! ### Ops -/

theorem State.storesOk.when (hs : s.storesOk) {c : Bool} {f : State → State} (hf : ∀ s, s.storesOk → (f s).storesOk) : (s.when c f).storesOk :=
  (hf s hs).ite hs

theorem State.storesOk.takeFree (hs : s.storesOk) {w : Nat} : (s.takeFree w).2.storesOk := hs.keep
theorem State.storesOk.setCounter (hs : s.storesOk) {i : Nat} {v : W64} : (s.setCounter i v).storesOk := hs.keep
theorem State.storesOk.count (hs : s.storesOk) {i n : Nat} : (s.count i n).storesOk := hs.setCounter

/-! ### Flags -/

theorem State.storesOk.countFlag (hs : s.storesOk) {phys k : Nat} {was now : Bool} : (s.countFlag phys k was now).storesOk := hs.count.ite hs
theorem State.storesOk.setWeir (hs : s.storesOk) {core : Nat} {w : Weir} : (s.setWeir core w).storesOk := hs.keep
theorem State.storesOk.setTask (hs : s.storesOk) {core slot : Nat} {t : Task} : (s.setTask core slot t).storesOk := hs.setWeir
theorem State.storesOk.clearWork (hs : s.storesOk) {eval : Bool} : (s.clearWork eval).storesOk := hs.keep

theorem State.storesOk.raise (hs : s.storesOk) {core slot : Nat} {f : AFlags} : (s.raise core slot f).storesOk :=
  hs.countFlag.countFlag.countFlag.countFlag.setTask

theorem State.storesOk.raiseConf (hs : s.storesOk) {f : AFlags} : (s.raiseConf f).storesOk := hs.countFlag.countFlag.countFlag.countFlag

/-! ### Rings -/

theorem State.storesOk.flush (hs : s.storesOk) : s.flush.storesOk := hs.keep.ite hs
theorem State.storesOk.post (hs : s.storesOk) {code : Nat} {payload : List Byte} : (s.post code payload).storesOk := hs.keep.flush
theorem State.storesOk.enter (hs : s.storesOk) {m : MState} : (s.enter m).storesOk := hs.ite hs.keep.post
theorem State.storesOk.setRing (hs : s.storesOk) {n : Nat} {r : Ring} : (s.setRing n r).storesOk := hs.keep

theorem State.storesOk.loadRing (hs : s.storesOk) {n : Nat} {go : Bool} {e : List Byte} : (s.loadRing n go e).storesOk :=
  (hs.setRing.ite hs.setRing.post).ite hs.setRing

theorem State.storesOk.takeRing (hs : s.storesOk) {n : Nat} {go : Bool} {e : List Byte} : (s.takeRing n go e).storesOk := by
  unfold State.takeRing
  dsimp only
  split
  · exact hs.keep.setRing
  · exact hs.keep.loadRing

theorem State.storesOk.takeEvents (hs : s.storesOk) : s.takeEvents.storesOk := hs.keep.flush.ite hs.keep.post
theorem State.storesOk.takeAll (hs : s.storesOk) {table : List (List Byte)} : (s.takeAll table).storesOk := hs.takeEvents.foldl (fun _ _ h => h.takeRing)
theorem State.storesOk.settle (hs : s.storesOk) : s.settle.storesOk := hs.enter.ite hs
theorem State.storesOk.startRunning (hs : s.storesOk) : s.startRunning.storesOk := hs.enter.ite hs

theorem State.storesOk.complete (hs : s.storesOk) {n : Nat} {c : Cpl} : (s.complete n c).storesOk :=
  hs.congr ⟨s.complete_mem n c, s.complete_nor n c, s.complete_sermem n c⟩

theorem State.storesOk.failAll (hs : s.storesOk) {x : Status} : (s.failAll x).storesOk := hs.foldl fun _ _ h => by
  split
  · exact h.ite h.complete
  · exact h

theorem State.storesOk.halt (hs : s.storesOk) {reason cause : Nat} : (s.halt reason cause).storesOk := hs.keep.failAll.post.ite hs
theorem State.storesOk.parityHalt (hs : s.storesOk) {offset space : Nat} : (s.parityHalt offset space).storesOk := hs.post.halt.ite hs

theorem State.storesOk.reading (hs : s.storesOk) {l : List (Nat × RwReg)} {f : State → State} (hf : ∀ s, s.storesOk → (f s).storesOk) :
    (s.reading l f).storesOk := by
  unfold State.reading
  split
  · exact hs.parityHalt
  · exact hf s hs

theorem State.storesOk.takeUp (hs : s.storesOk) {table : List (List Byte)} : (s.takeUp table).storesOk := hs.reading (fun _ h => h.takeAll)

theorem State.storesOk.tierFault (hs : s.storesOk) {t : Tier} : (s.tierFault t).storesOk := by
  unfold State.tierFault
  split
  · split <;> exact hs.keep.halt
  · exact hs

theorem State.storesOk.dequeue (hs : s.storesOk) {n : Nat} : (s.dequeue n).storesOk := by
  unfold State.dequeue
  dsimp only
  split
  · exact hs
  · exact hs.setRing

theorem State.storesOk.judge (hs : s.storesOk) {n op : Nat} {run : State → List Byte → State} {d : List Byte}
    (hr : ∀ s d, s.storesOk → (run s d).storesOk) : (s.judge n op run d).storesOk := hs.complete.ite (hs.complete.ite (hs.complete.ite (hr s d hs)))

theorem State.storesOk.command (hs : s.storesOk) {n op : Nat} {also : List Byte → Bool} {run : State → List Byte → State}
    (hr : ∀ s d, s.storesOk → (run s d).storesOk) : (s.command n op also run).storesOk := by
  unfold State.command
  dsimp only
  split
  · exact (hs.setRing.judge hr).ite hs
  · exact hs
  · exact (hs.dequeue.complete.ite ((hs.dequeue.judge hr).ite hs.dequeue.setRing)).ite hs

theorem State.storesOk.rejectRing (hs : s.storesOk) {n fuel : Nat} : (s.rejectRing n fuel).storesOk := by
  induction fuel generalizing s with
  | zero => exact hs
  | succ fuel ih =>
    unfold State.rejectRing
    split
    · exact hs
    · exact (ih hs.dequeue.complete).ite hs

theorem State.storesOk.rejectAll (hs : s.storesOk) : s.rejectAll.storesOk := hs.foldl (fun _ _ h => h.rejectRing)

/-! ### Power -/

theorem State.storesOk.cutClaim (hs : s.storesOk) : s.cutClaim.storesOk := by
  unfold State.cutClaim
  split
  · exact hs
  · exact hs.takeFree.ite hs.takeFree.keep

theorem State.storesOk.moduleReset (hs : s.storesOk) : s.moduleReset.storesOk := by
  obtain ⟨hm, hn, hr⟩ := hs.cutClaim
  exact ⟨NMap.wf_filter 0 _ _ hm, hn, hr⟩

theorem State.storesOk.powerOff (hs : s.storesOk) {applied tripped : Bool} : (s.powerOff applied tripped).storesOk := hs.moduleReset.keep
theorem State.storesOk.shutdown (hs : s.storesOk) : s.shutdown.storesOk := hs.powerOff.ite hs
theorem inputApplied_storesOk (hs : s.storesOk) {mv : Nat} : (inputApplied mv s).storesOk := hs.keep.ite hs
theorem powerGood_storesOk (hs : s.storesOk) : (powerGood s).storesOk := hs.moduleReset.keep.ite hs
theorem inputTrip_storesOk (hs : s.storesOk) {mv : Nat} : (inputTrip mv s).storesOk := hs.ite (hs.keep.ite (hs.powerOff.ite hs.powerOff))
theorem powerLoss_storesOk (hs : s.storesOk) : (powerLoss s).storesOk := hs.powerOff
theorem railFault_storesOk (hs : s.storesOk) {rail mv : Nat} : (railFault rail mv s).storesOk := hs.shutdown.ite hs
theorem refclkLinkLoss_storesOk (hs : s.storesOk) : (refclkLinkLoss s).storesOk := hs.shutdown.ite hs
theorem pcieLinkDown_storesOk (hs : s.storesOk) : (pcieLinkDown s).storesOk := hs.keep
theorem pcieLinkUp_storesOk (hs : s.storesOk) : (pcieLinkUp s).storesOk := hs.keep.flush.ite hs
theorem perstAssert_storesOk (hs : s.storesOk) : (perstAssert s).storesOk := hs.keep.moduleReset.ite hs.keep
theorem State.storesOk.measure (hs : s.storesOk) {sensor half : Nat} : (s.measure sensor half).storesOk := hs.keep.ite hs.keep.post
theorem State.storesOk.measureAll (hs : s.storesOk) {half : List Nat} : (s.measureAll half).storesOk := hs.foldl (fun _ _ h => h.measure)

theorem temperatureMeasurement_storesOk (hs : s.storesOk) {half : List Nat} : (temperatureMeasurement half s).storesOk :=
  (hs.measureAll.shutdown.ite (hs.measureAll.halt.ite hs.measureAll)).ite hs

theorem powerCapTick_storesOk (hs : s.storesOk) {watts mv : Nat} : (powerCapTick watts mv s).storesOk := (hs.keep.parityHalt.ite hs.keep.keep).ite hs

/-! ### Boot -/

theorem State.storesOk.claim (hs : s.storesOk) {slot : Nat} {h : W256} : (s.claim slot h).storesOk := hs.keep

theorem State.storesOk.checkOwner (hs : s.storesOk) {t : State} (ht : s.checkOwner = some t) : t.storesOk := by
  unfold State.checkOwner at ht
  dsimp only at ht
  repeat' split at ht
  · exact nomatch ht
  · exact hs.claim.of_some ht
  · exact nomatch ht
  · exact hs.of_some ht
  · exact nomatch ht
  · exact nomatch ht
  · exact nomatch ht
  · exact hs.of_some ht
  · exact hs.claim.of_some ht
  · exact nomatch ht

theorem State.storesOk.bootHalt (hs : s.storesOk) {reason stage cause : Nat} : (s.bootHalt reason stage cause).storesOk := hs.keep.enter

theorem State.storesOk.applyDeferred (hs : s.storesOk) : s.applyDeferred.storesOk := hs.keep.foldl fun _ _ h => by
  split
  · exact h.reading (fun _ h' => h'.takeUp.ite h')
  · exact h.reading (fun _ h' => h'.takeEvents)
  · exact h.reading (fun _ h' => h'.takeRing)
  · exact h.setRing

theorem State.storesOk.bootRom (hs : s.storesOk) : s.bootRom.storesOk := by
  obtain ⟨hm, hn, -⟩ := hs
  have hs : State.storesOk { s with sermem := s.nor, ms := { s.ms with stage := 0x02, detail := 0 } } := ⟨hm, hn, hn⟩
  unfold State.bootRom
  dsimp only
  refine hs.bootHalt.ite (hs.keep.bootHalt.ite ?_)
  split
  · exact hs.keep.bootHalt
  · next t ht =>
    have ht := hs.keep.checkOwner ht
    refine ht.bootHalt.ite (ht.bootHalt.ite (ht.bootHalt.ite (ht.bootHalt.ite ?_)))
    split
    · exact ht.bootHalt
    · refine ht.bootHalt.ite (ht.bootHalt.ite ?_)
      split
      · exact ht.keep.enter.applyDeferred
      · exact ht.keep

theorem State.storesOk.bootFrom (hs : s.storesOk) {straps : BitVec 14} : (s.bootFrom straps).storesOk := hs.keep.bootRom
theorem perstDeassert_storesOk (hs : s.storesOk) {straps : BitVec 14} : (perstDeassert straps s).storesOk := (hs.keep.bootFrom.ite hs.keep).ite hs
theorem rootPllLock_storesOk (hs : s.storesOk) {straps : BitVec 14} : (rootPllLock straps s).storesOk := hs.bootFrom.ite hs

theorem State.storesOk.loadBlocks (hs : s.storesOk) : s.loadBlocks.storesOk := by
  unfold State.loadBlocks
  dsimp only
  split <;> exact hs.keep

theorem State.storesOk.startPorts (hs : s.storesOk) : s.startPorts.storesOk := hs.keep

theorem firmwareStageDone_storesOk (hs : s.storesOk) {ok : Bool} {trained : Nat} {badLanes : List (Nat × List Nat)} {table : List (List Byte)} :
    (firmwareStageDone ok trained badLanes table s).storesOk := by
  unfold firmwareStageDone
  split
  · split
    · exact hs.keep.ite hs.keep.bootHalt
    · exact hs.keep.loadBlocks.ite hs.keep.bootHalt
    · exact hs.keep.startPorts.ite hs.keep.bootHalt
    · exact (hs.keep.enter.applyDeferred.reading (fun _ h => h.takeUp.ite h)).ite hs.keep.enter.applyDeferred
    · exact hs
  · exact hs

theorem recoveryRestart_storesOk (hs : s.storesOk) : (recoveryRestart s).storesOk := hs.enter.keep.bootRom.ite hs

theorem smbusBridgeWrite_storesOk (hs : s.storesOk) {off : Nat} {data : List Byte} : (smbusBridgeWrite off data s).storesOk :=
  State.storesOk.ite ⟨hs.1, wf_storeBytes _ _ _ _ hs.2.1, hs.2.2⟩ hs

/-! ### Registers -/

theorem State.storesOk.answer (hs : s.storesOk) {v : Nat} : (s.answer v).storesOk := hs.keep
theorem State.storesOk.setPort (hs : s.storesOk) {p : Nat} {x : Port} : (s.setPort p x).storesOk := hs.keep

theorem State.storesOk.writeRw (hs : s.storesOk) {off : Nat} {val : W32} : (s.writeRw off val).storesOk := by
  unfold State.writeRw
  split
  · exact hs
  · exact hs.ite (hs.keep.ite hs.keep)

theorem State.storesOk.orDefer (hs : s.storesOk) {d : Deferred} {f : State → State} (hf : ∀ s, s.storesOk → (f s).storesOk) :
    (s.orDefer d f).storesOk := hs.keep.ite (hf s hs)

theorem State.storesOk.writeRingsCtl (hs : s.storesOk) {val : W32} {table : List (List Byte)} : (s.writeRingsCtl val table).storesOk :=
  hs.ite ((hs.writeRw.orDefer (fun _ h => h.takeUp)).ite hs.writeRw)

theorem State.storesOk.reloadEvents (hs : s.storesOk) : s.reloadEvents.storesOk := hs.orDefer (fun _ h => h.reading (fun _ h' => h'.takeEvents))

theorem State.storesOk.reloadRing (hs : s.storesOk) {n : Nat} {entry : List Byte} : (s.reloadRing n entry).storesOk :=
  hs.orDefer (fun _ h => h.reading (fun _ h' => h'.takeRing))

theorem State.storesOk.releaseFence (hs : s.storesOk) {n : Nat} : (s.releaseFence n).storesOk := hs.orDefer (fun _ h => h.setRing)

theorem State.storesOk.writeReload (hs : s.storesOk) {val : W32} {entry : List Byte} : (s.writeReload val entry).storesOk :=
  (hs.reloadEvents.ite hs).reloadRing.ite (hs.reloadEvents.ite hs)

theorem State.storesOk.snapshot (hs : s.storesOk) : s.snapshot.storesOk := hs.keep
theorem State.storesOk.writeCfgCheck (hs : s.storesOk) {val : W32} : (s.writeCfgCheck val).storesOk := hs.keep.ite hs
theorem State.storesOk.measured (hs : s.storesOk) {lo hi : Nat} : (s.measured lo hi).2.storesOk := hs.takeFree (w := 32)
theorem State.storesOk.checkerRuns (hs : s.storesOk) {l : Nat} : (s.checkerRuns l).storesOk := hs.takeFree.takeFree.keep.ite hs

theorem State.storesOk.indValue (hs : s.storesOk) {a : Nat} : (s.indValue a).2.storesOk := by
  unfold State.indValue
  dsimp only
  repeat' split
  any_goals exact hs
  all_goals exact hs.checkerRuns

theorem State.storesOk.indAdvance (hs : s.storesOk) : s.indAdvance.storesOk := hs.keep
theorem State.storesOk.indFlag (hs : s.storesOk) {b : BitVec 3} : (s.indFlag b).storesOk := hs.keep
theorem State.storesOk.indRead (hs : s.storesOk) : s.indRead.storesOk := hs.indValue.answer.indAdvance.ite hs.indFlag.answer.indAdvance

theorem State.storesOk.indStore (hs : s.storesOk) {a : Nat} {val : W32} : (s.indStore a val).storesOk := by
  unfold State.indStore
  split
  · exact hs.keep
  · exact hs.keep
  · exact hs

theorem State.storesOk.checkerAt (hs : s.storesOk) {a : Nat} : (s.checkerAt a).storesOk := by
  unfold State.checkerAt
  split
  · exact hs.checkerRuns
  · exact hs

theorem State.storesOk.indWrite (hs : s.storesOk) {val : W32} : (s.indWrite val).storesOk :=
  (((hs.checkerAt.indStore.ite hs).ite hs.indFlag).ite ((hs.checkerAt.indStore.ite hs).ite hs.indFlag).indFlag).indAdvance

theorem State.storesOk.writeReg (hs : s.storesOk) {off : Nat} {val : W32} {table : List (List Byte)} : (s.writeReg off val table).storesOk := by
  unfold State.writeReg
  split
  · exact hs.writeCfgCheck
  · exact hs.writeRingsCtl
  · exact hs.writeReload
  · exact hs.releaseFence.ite hs
  · exact hs.keep
  · exact hs.indWrite
  · exact hs.keep
  · exact hs.snapshot.ite hs
  · exact hs.keep
  · exact hs.writeRw

theorem State.storesOk.pollRing (hs : s.storesOk) {x : DoorbellRead} : (s.pollRing x).storesOk :=
  ((hs.ite hs.setRing.post).ite (hs.ite hs.setRing.keep)).ite hs

theorem doorbellPoll_storesOk (hs : s.storesOk) {recs : List DoorbellRead} {consumed : Nat} : (doorbellPoll recs consumed s).storesOk :=
  ((hs.keep.flush.reading (fun _ h => ((h.foldl (fun _ _ h' => h'.pollRing)).ite h).rejectAll)).ite hs.keep.flush).ite hs

/-! ### Link -/

theorem State.storesOk.putFlit (hs : s.storesOk) {p : Nat} {f : List Byte} : (s.putFlit p f).storesOk := hs.setPort.keep
theorem State.storesOk.onWire (hs : s.storesOk) {p : Nat} {fs : List (List Byte)} : (s.onWire p fs).storesOk := hs.ite (hs.foldl (fun _ _ h => h.putFlit))
theorem State.storesOk.idlePort (hs : s.storesOk) {p : Nat} : (s.idlePort p).storesOk := hs.ite hs.setPort.keep
theorem State.storesOk.pumpPort (hs : s.storesOk) {p : Nat} : (s.pumpPort p).storesOk := hs.setPort.onWire.idlePort.ite hs
theorem State.storesOk.sendCtrl (hs : s.storesOk) {p : Nat} {nak : Bool} {cvc ccount : Nat} : (s.sendCtrl p nak cvc ccount).storesOk := hs.onWire.idlePort
theorem State.storesOk.returnCredit (hs : s.storesOk) {p vc : Nat} : (s.returnCredit p vc).storesOk := hs.sendCtrl.ite hs.setPort

theorem State.storesOk.releaseCredits (hs : s.storesOk) {vc : Nat} : (s.releaseCredits vc).storesOk :=
  (hs.foldl (fun _ _ h => h.ite h.setPort.sendCtrl)).ite hs

theorem State.storesOk.number (hs : s.storesOk) {m : Msg} : (s.number m).2.storesOk := hs.keep
theorem State.storesOk.toPort (hs : s.storesOk) {p : Nat} {m : Msg} : (s.toPort p m).storesOk := hs.setPort.pumpPort
theorem State.storesOk.holdUnrouted (hs : s.storesOk) {m : Msg} : (s.holdUnrouted m).storesOk := hs.keep.count

theorem State.storesOk.carry (hs : s.storesOk) {m : Msg} : (s.carry m).storesOk := by
  unfold State.carry
  split
  · exact hs.toPort
  · exact hs.holdUnrouted

theorem State.storesOk.deliverOwn (hs : s.storesOk) {m : Msg} : (s.deliverOwn m).storesOk := hs.keep

theorem State.storesOk.report (hs : s.storesOk) {cls cause status suspect port last : Nat} : (s.report cls cause status suspect port last).storesOk :=
  (hs.foldl (fun _ _ h => h.number.deliverOwn.ite h.number.carry)).ite hs

theorem State.storesOk.transmit (hs : s.storesOk) {m : Msg} : (s.transmit m).storesOk := hs.count.report.ite hs.carry
theorem State.storesOk.send (hs : s.storesOk) {m : Msg} : (s.send m).storesOk := (hs.number.deliverOwn.ite hs.number.transmit).ite hs
theorem State.storesOk.sendAway (hs : s.storesOk) {m : Msg} : (s.sendAway m).storesOk := hs.number.transmit.ite hs
theorem State.storesOk.sendAll (hs : s.storesOk) {ranks : List Nat} {m : Nat → Msg} : (s.sendAll ranks m).storesOk := hs.foldl (fun _ _ h => h.send)
theorem State.storesOk.took (hs : s.storesOk) {m : Msg} : (s.took m).storesOk := hs.keep.releaseCredits
theorem State.storesOk.discarded (hs : s.storesOk) {m : Msg} : (s.discarded m).storesOk := hs.ite hs.keep.send
theorem State.storesOk.resend (hs : s.storesOk) {m : Msg} : (s.resend m).storesOk := hs.transmit.ite hs.send
theorem State.storesOk.retryUnrouted (hs : s.storesOk) : s.retryUnrouted.storesOk := hs.keep.foldl (fun _ _ h => h.resend)

/-! ### Address Map -/

theorem State.storesOk.putBuffer (hs : s.storesOk) {a : Nat} {b : List Byte} : (s.putBuffer a b).storesOk := hs.keep.ite hs.write

theorem State.storesOk.writeBuffer (hs : s.storesOk) {a : Nat} {b : List Byte} {t : State} (ht : s.writeBuffer a b = some t) : t.storesOk := by
  unfold State.writeBuffer at ht
  split at ht
  · exact hs.putBuffer.of_some ht
  · exact nomatch ht

/-! ### Barrier -/

theorem State.storesOk.setBarrier (hs : s.storesOk) {kind : Nat} {b : Barrier} : (s.setBarrier kind b).storesOk := hs.keep

theorem State.storesOk.gatherBarrier (hs : s.storesOk) {kind : Nat} : (s.gatherBarrier kind).storesOk := by
  unfold State.gatherBarrier
  dsimp only
  split
  · exact hs
  · exact (hs.setBarrier.send.ite hs.setBarrier.send).ite hs

theorem State.storesOk.arrive (hs : s.storesOk) {kind step attempt value : Nat} : (s.arrive kind step attempt value).storesOk := hs.setBarrier.gatherBarrier
theorem State.storesOk.formFloor (hs : s.storesOk) : s.formFloor.storesOk := hs.arrive
theorem State.storesOk.spareGone (hs : s.storesOk) {pos : Nat} : (s.spareGone pos).storesOk := hs.keep.formFloor
theorem State.storesOk.tellSpare (hs : s.storesOk) {m : Msg} : (s.tellSpare m).storesOk := hs.send.ite hs
theorem State.storesOk.kidArrives (hs : s.storesOk) {kind src : Nat} {body : List Byte} : (s.kidArrives kind src body).storesOk := hs.setBarrier.gatherBarrier

theorem State.storesOk.release (hs : s.storesOk) {kind : Nat} {body : List Byte} {p : Nat × State} (hp : s.release kind body = some p) :
    p.2.storesOk := by
  unfold State.release at hp
  dsimp only at hp
  split at hp
  · exact nomatch hp
  · split at hp
    · rw [← Option.some.inj hp]
      exact hs.setBarrier.keep.sendAll
    · exact nomatch hp

theorem State.storesOk.barrierIn (hs : s.storesOk) {kind : Nat} {m : Msg} : (s.barrierIn kind m).2.storesOk := by
  unfold State.barrierIn
  dsimp only
  split
  · split
    · split
      · next hr => exact hs.took.release hr
      · exact hs.took
    · exact hs.took.kidArrives
  · exact hs

theorem State.storesOk.tryPrepared (hs : s.storesOk) : s.tryPrepared.storesOk := by
  unfold State.tryPrepared
  split
  · exact hs
  · exact hs.keep.arrive.ite hs

/-! ### Graph -/

theorem State.storesOk.setEntry (hs : s.storesOk) {node : Nat} {r : RunEntry} : (s.setEntry node r).storesOk := hs.write
theorem State.storesOk.putRecords (hs : s.storesOk) {r : RunEntry} {es : List Edge} : (s.putRecords r es).storesOk := hs.write

theorem State.storesOk.relocate (hs : s.storesOk) {d : Decl} {node : Nat} {t : State} (ht : s.relocate d node = some t) : t.storesOk := by
  obtain ⟨a, -, rfl⟩ := Option.map_eq_some_iff.mp ht
  exact hs.setEntry.putRecords

theorem State.storesOk.compact (hs : s.storesOk) {d : Decl} {l : List Nat} {n : Nat} : (s.compact d l n).1.storesOk := by
  induction l generalizing s n with
  | nil => exact hs
  | cons x l ih =>
    cases n with
    | zero => exact hs
    | succ n =>
      unfold State.compact
      split
      · exact ih hs
      · next hu =>
        split at hu
        · exact ih (hs.relocate hu).count
        · exact nomatch hu

theorem State.storesOk.rebuildAlias (hs : s.storesOk) {d : Decl} {node : Nat} {t : State} (ht : s.rebuildAlias d node = some t) :
    t.storesOk := by
  unfold State.rebuildAlias at ht
  dsimp only at ht
  split at ht
  · exact hs.setEntry.of_some ht
  · obtain ⟨a, -, rfl⟩ := Option.map_eq_some_iff.mp ht
    exact hs.setEntry.setEntry.write

theorem State.storesOk.insertOne (hs : s.storesOk) {d : Decl} {r : IngestRec} {t : State} (ht : s.insertOne d r = some t) : t.storesOk := by
  obtain ⟨u, hu, rfl⟩ := Option.map_eq_some_iff.mp ht
  refine State.storesOk.count (State.storesOk.setEntry (State.storesOk.putRecords ?_))
  split at hu
  · exact hs.relocate hu
  · split at hu
    · obtain ⟨v, hv, rfl⟩ := Option.map_eq_some_iff.mp hu
      exact (hs.relocate hv).count
    · exact hs.of_some hu

theorem State.storesOk.deleteOne (hs : s.storesOk) {r : IngestRec} : (s.deleteOne r).storesOk := by
  unfold State.deleteOne
  dsimp only
  split
  · exact hs.putRecords.setEntry.count
  · exact hs.count

theorem State.storesOk.ingestAll (hs : s.storesOk) {d : Decl} {l : List IngestRec} {t : State} (ht : s.ingestAll d l = some t) : t.storesOk := by
  induction l generalizing s with
  | nil => exact hs.of_some ht
  | cons r l ih =>
    obtain ⟨u, hu, ht⟩ := Option.bind_eq_some_iff.mp ht
    refine ih ?_ ht
    split at hu
    · exact hs.insertOne hu
    · exact hs.deleteOne.of_some hu

theorem State.storesOk.rebuildAll (hs : s.storesOk) {d : Decl} {l : List Nat} {t : State} (ht : s.rebuildAll d l = some t) : t.storesOk := by
  induction l generalizing s with
  | nil => exact hs.of_some ht
  | cons r l ih =>
    obtain ⟨u, hu, ht⟩ := Option.bind_eq_some_iff.mp ht
    exact ih (hs.rebuildAlias hu) ht

theorem State.storesOk.applyIngest (hs : s.storesOk) {b : List Byte} {p : State × List Region} (hp : s.applyIngest b = .ok p) :
    p.1.storesOk := by
  unfold State.applyIngest at hp
  dsimp only at hp
  repeat' split at hp
  · exact nomatch hp
  · exact nomatch hp
  · exact nomatch hp
  · exact nomatch hp
  · exact nomatch hp
  · next hu _ _ _ ht =>
    rw [← Except.ok.inj hp]
    exact ((hs.ingestAll hu).rebuildAll ht).keep

/-! ### Ready List -/

theorem State.storesOk.dispatch (hs : s.storesOk) {core : Nat} : (s.dispatch core).storesOk := by
  unfold State.dispatch
  dsimp only
  split
  · exact hs.setWeir.count
  · exact hs

theorem State.storesOk.trySetFlag (hs : s.storesOk) {core slot flag : Nat} {t : State} (ht : s.trySetFlag core slot flag = some t) :
    t.storesOk := by
  unfold State.trySetFlag at ht
  dsimp only at ht
  repeat' split at ht
  · exact hs.count.of_some ht
  · exact hs.setWeir.of_some ht
  · exact nomatch ht
  · exact hs.setTask.of_some ht

theorem State.storesOk.tryStart (hs : s.storesOk) {core slot : Nat} {arg : W32} {t : State} (ht : s.tryStart core slot arg = some t) :
    t.storesOk := by
  unfold State.tryStart at ht
  dsimp only at ht
  repeat' split at ht
  · exact hs.of_some ht
  · exact hs.setWeir.of_some ht
  · exact nomatch ht
  · exact hs.setTask.of_some ht
  · exact nomatch ht

theorem State.storesOk.resume (hs : s.storesOk) {issuer : Option (Nat × Nat)} : (s.resume issuer).storesOk := by
  unfold State.resume
  split
  · exact hs
  · exact hs.setWeir

theorem State.storesOk.tryHeld (hs : s.storesOk) {core : Nat} {x : HeldOp} {t : State} (ht : s.tryHeld core x = some t) : t.storesOk := by
  cases x with
  | flag i slot f =>
    obtain ⟨u, hu, rfl⟩ := Option.map_eq_some_iff.mp ht
    exact (hs.trySetFlag hu).resume
  | start i slot arg =>
    obtain ⟨u, hu, rfl⟩ := Option.map_eq_some_iff.mp ht
    exact (hs.tryStart hu).resume
  | resume slot =>
    rw [State.tryHeld] at ht
    split at ht
    · exact hs.setWeir.of_some ht
    · exact nomatch ht

theorem State.storesOk.heldPass (hs : s.storesOk) {core : Nat} : (s.heldPass core).storesOk := hs.setWeir.foldl fun _ _ h => by
  split
  · next t ht => exact (h.tryHeld ht)
  · exact h.setWeir

theorem State.storesOk.land (hs : s.storesOk) {r : Running} : (s.land r).storesOk := by
  unfold State.land
  split
  · next t ht =>
    split at ht
    · exact nomatch ht
    · exact (hs.trySetFlag ht).keep
  · exact hs.ite hs.keep

theorem State.storesOk.landPass (hs : s.storesOk) {core : Nat} : (s.landPass core).storesOk := hs.foldl (fun _ _ h => h.land)
theorem State.storesOk.weirPass (hs : s.storesOk) {core : Nat} : (s.weirPass core).storesOk := hs.dispatch.landPass.heldPass.dispatch

theorem State.storesOk.settlePasses (hs : s.storesOk) {n : Nat} : (s.settlePasses n).storesOk := by
  induction n generalizing s with
  | zero => exact hs
  | succ n ih => exact ih (hs.foldl fun _ _ h => h.weirPass)

theorem State.storesOk.settleWeirs (hs : s.storesOk) : s.settleWeirs.storesOk := hs.settlePasses
theorem State.storesOk.enqueue (hs : s.storesOk) {d : QDesc} : (s.enqueue d).storesOk := hs.keep

theorem State.storesOk.enqueueStalled (hs : s.storesOk) {core : Nat} : (s.enqueueStalled core).storesOk :=
  (hs.foldl (fun _ _ h => h.setWeir.enqueue.ite h)).settleWeirs

theorem State.storesOk.dropWork (hs : s.storesOk) {eval : Bool} : (s.dropWork eval).storesOk :=
  (hs.clearWork.foldl (fun _ _ h => h.enqueueStalled)).settleWeirs

theorem State.storesOk.leave (hs : s.storesOk) {core slot : Nat} {st : TaskSt} {f : Task → Task} : (s.leave core slot st f).storesOk := hs.setWeir
theorem State.storesOk.hold (hs : s.storesOk) {issuer : Nat × Nat} {core : Nat} {h : HeldOp} : (s.hold issuer core h).storesOk := hs.leave.setWeir

theorem weirStart_storesOk (hs : s.storesOk) {issuer : Option Nat} {core slot : Nat} {arg : W32} : (weirStart issuer core slot arg s).storesOk := by
  unfold weirStart
  split
  · exact hs
  · split
    · next t ht => exact (hs.tryStart ht).settleWeirs.ite hs
    · split
      · exact hs.setWeir.count.settleWeirs
      · split
        · exact hs.hold.count.settleWeirs
        · exact hs

theorem State.storesOk.startTasks (hs : s.storesOk) {code : Nat} {arg : W32} : (s.startTasks code arg).storesOk :=
  hs.foldl (fun _ _ h => h.foldl (fun _ _ h' => (weirStart_storesOk h').ite h'))

/-! ### Faults -/

theorem State.storesOk.transient (hs : s.storesOk) {cause : Nat} : (s.transient cause).storesOk := hs.report.ite hs

theorem State.storesOk.stepFault (hs : s.storesOk) {x : Status} : (s.stepFault x).storesOk := by
  unfold State.stepFault
  split
  · exact hs
  · exact hs.ite hs.keep.report

theorem State.storesOk.blankAttention (hs : s.storesOk) {p : Program} {e : EvalRun} : (s.blankAttention p e).storesOk := hs.write

theorem State.storesOk.startEval (hs : s.storesOk) : s.startEval.storesOk := by
  unfold State.startEval
  split
  · exact hs.ite (hs.blankAttention.ite hs).keep.startTasks
  · exact hs

theorem State.storesOk.orderEvals (hs : s.storesOk) {l : List EvalRun} : (s.orderEvals l).storesOk := hs.keep.startEval

theorem State.storesOk.endEval (hs : s.storesOk) {ring : Nat} {c : Cpl} : (s.endEval ring c).storesOk :=
  (hs.dropWork.ite hs).keep.complete.startEval.tryPrepared

theorem State.storesOk.evalFault (hs : s.storesOk) {x : Status} : (s.evalFault x).storesOk := by
  unfold State.evalFault
  split
  · exact hs
  · exact hs.endEval

theorem State.storesOk.workFault (hs : s.storesOk) {eval : Bool} {x : Status} : (s.workFault eval x).storesOk := hs.evalFault.ite hs.stepFault

theorem State.storesOk.markRescaled (hs : s.storesOk) {eval : Bool} : (s.markRescaled eval).storesOk := by
  unfold State.markRescaled
  split
  · split
    · exact hs
    · exact hs.keep
  · exact hs.keep

theorem State.storesOk.keepBlocks (hs : s.storesOk) : s.keepBlocks.storesOk := hs.keep

theorem State.storesOk.flashBlocks (hs : s.storesOk) {f : FlashBlocks} : (s.flashBlocks f).storesOk :=
  hs.keep.setCounter.keepBlocks.keep.tierFault.ite hs.keep.setCounter.keepBlocks

theorem State.storesOk.badBlocks (hs : s.storesOk) {bad : Option FlashBlocks} : (s.badBlocks bad).storesOk := hs.elim fun _ => hs.flashBlocks

/-! ### Weir -/

theorem weirEnd_storesOk (hs : s.storesOk) {core : Nat} : (weirEnd core s).storesOk := by
  unfold weirEnd
  split
  · exact hs
  · dsimp only
    split
    · exact hs.leave.settleWeirs
    · refine State.storesOk.settleWeirs ?_
      cases h : State.tryStart _ _ _ _ with
      | none => exact hs.leave.setWeir
      | some t => exact hs.leave.tryStart h

theorem weirWait_storesOk (hs : s.storesOk) {core : Nat} {mask : BitVec 32} {all : Bool} {timer : Nat} : (weirWait core mask all timer s).storesOk := by
  unfold weirWait
  split
  · exact hs
  · exact hs.setTask.ite hs.leave.settleWeirs

theorem weirSignal_storesOk (hs : s.storesOk) {issuer core slot flag : Nat} : (weirSignal issuer core slot flag s).storesOk := by
  unfold weirSignal
  split
  · exact hs
  · split
    · exact hs
    · split
      · next t ht => exact (hs.trySetFlag ht).settleWeirs
      · exact hs.hold.settleWeirs

theorem weirYield_storesOk (hs : s.storesOk) {core : Nat} : (weirYield core s).storesOk := by
  unfold weirYield
  split
  · exact hs
  · exact hs.leave.setWeir.settleWeirs.ite hs.hold.settleWeirs

theorem weirTimerExpiry_storesOk (hs : s.storesOk) {core slot : Nat} : (weirTimerExpiry core slot s).storesOk := hs.count.transient.ite hs

theorem weirIssue_storesOk (hs : s.storesOk) {core : Nat} {unit : UnitKind} {addr kernel : Nat} : (weirIssue core unit addr kernel s).storesOk := by
  unfold weirIssue
  split
  · exact hs
  · exact (hs.enqueue.ite hs.leave.setWeir.settleWeirs).ite hs.workFault

theorem State.storesOk.unqueue (hs : s.storesOk) {d : QDesc} : (s.unqueue d).storesOk := hs.keep.enqueueStalled
theorem State.storesOk.failDesc (hs : s.storesOk) {d : QDesc} {x : Status} : (s.failDesc d x).storesOk := hs.unqueue.workFault

theorem State.storesOk.startDesc (hs : s.storesOk) {d : QDesc} {flag : Nat} {reads writes : List Region} : (s.startDesc d flag reads writes).storesOk :=
  hs.keep.unqueue

theorem State.storesOk.finishDesc (hs : s.storesOk) {p : Running → Bool} : (s.finishDesc p).storesOk := by
  unfold State.finishDesc
  split
  · exact hs
  · exact hs.land.settleWeirs

/-! ### Operands -/

theorem State.storesOk.recordMagnitude (hs : s.storesOk) {eval : Bool} {tensor m : Nat} : (s.recordMagnitude eval tensor m).storesOk := hs.keep.ite hs

/-! ### Sparse -/

theorem sparseHeaderScan_storesOk (hs : s.storesOk) {core gang : Nat} : (sparseHeaderScan core gang s).storesOk := by
  unfold sparseHeaderScan
  split
  · exact hs
  · dsimp only
    split
    · exact hs
    · split
      · exact hs.failDesc
      · exact hs.reading fun _ h => by
          split
          · exact h.failDesc
          · exact h.keep.count

/-! ### Vector Unit -/

theorem State.storesOk.vector (hs : s.storesOk) {core slot : Nat} {reads writes : List Region} {act : State → Task → State}
    (ha : ∀ s t, s.storesOk → (act s t).storesOk) : (s.vector core slot reads writes act).storesOk := hs.ite ((ha s _ hs).ite hs.workFault)

theorem State.storesOk.putBytes (hs : s.storesOk) {a : Nat} {b : List Byte} : (s.putBytes a b).storesOk := hs.writeUndo.ite hs.write
theorem State.storesOk.arithmetic (hs : s.storesOk) {core slot : Nat} {v : VArgs} : (s.arithmetic core slot v).storesOk := hs.putBytes.raise

theorem State.storesOk.convertWhole (hs : s.storesOk) {core slot : Nat} {v : VArgs} {scale : Nat} {vs : List FVal} :
    (s.convertWhole core slot v scale vs).storesOk := hs.putBytes.raise

theorem State.storesOk.convertInt (hs : s.storesOk) {core slot : Nat} {eval : Bool} {v : VArgs} {vs : List FVal} :
    (s.convertInt core slot eval v vs).storesOk := (hs.recordMagnitude.ite hs).convertWhole

theorem State.storesOk.convertBlocks (hs : s.storesOk) {core slot : Nat} {v : VArgs} {vs : List FVal} : (s.convertBlocks core slot v vs).storesOk :=
  hs.putBytes.putBytes.raise

theorem State.storesOk.convert (hs : s.storesOk) {core slot : Nat} {eval : Bool} {v : VArgs} : (s.convert core slot eval v).storesOk := by
  unfold State.convert
  dsimp only
  split
  · exact hs.putBytes.raise
  · exact hs.workFault.ite (hs.convertBlocks.ite hs.convertInt)

theorem vectorElementwise_storesOk (hs : s.storesOk) {core slot : Nat} {v : VArgs} : (vectorElementwise core slot v s).storesOk :=
  hs.ite (hs.workFault.ite (hs.vector (fun _ _ h => h.convert.ite h.arithmetic)))

theorem State.storesOk.keepPartials (hs : s.storesOk) {core kernel : Nat} {parts : Option (List Nat)} {rs : List (Nat × AFlags)} :
    (s.keepPartials core kernel parts rs).storesOk := by
  unfold State.keepPartials
  split
  · exact hs
  · exact hs.write

theorem vectorReduction_storesOk (hs : s.storesOk) {core slot kernel x : Nat} {y : Option Nat} {bf16In : Bool} {n : Nat} {bf16Out : Bool} {dst : Nat} :
    (vectorReduction core slot kernel x y bf16In n bf16Out dst s).storesOk :=
  hs.ite (hs.workFault.ite (hs.vector (fun _ _ h => h.keepPartials.putBytes.raise)))

theorem splitKCombine_storesOk (hs : s.storesOk) {core slot : Nat} {parts : List Nat} {n ofmt dst : Nat} :
    (splitKCombine core slot parts n ofmt dst s).storesOk := hs.ite (hs.workFault.ite (hs.vector (fun _ _ h => h.putBytes.raise)))

theorem State.storesOk.setXreg (hs : s.storesOk) {core : Nat} {x : List Nat} : (s.setXreg core x).storesOk := hs.setWeir

theorem State.storesOk.xm48Op (hs : s.storesOk) {core slot a : Nat} {f : FVal → FVal → Nat × AFlags} : (s.xm48Op core slot a f).storesOk :=
  hs.vector (fun _ _ h => h.setXreg.raise)

theorem xm48Add_storesOk (hs : s.storesOk) {core slot d : Nat} : (xm48Add core slot d s).storesOk := hs.xm48Op
theorem xm48Mul_storesOk (hs : s.storesOk) {core slot c : Nat} : (xm48Mul core slot c s).storesOk := hs.xm48Op
theorem xm48Load_storesOk (hs : s.storesOk) {core slot addr n : Nat} : (xm48Load core slot addr n s).storesOk := hs.vector (fun _ _ h => h.setXreg)
theorem xm48Store_storesOk (hs : s.storesOk) {core slot addr : Nat} : (xm48Store core slot addr s).storesOk := hs.vector (fun _ _ h => h.putBytes)

theorem xm48Convert_storesOk (hs : s.storesOk) {core slot : Nat} {toBf16 : Bool} {addr : Nat} : (xm48Convert core slot toBf16 addr s).storesOk :=
  hs.vector (fun _ _ h => h.putBytes.raise)

/-! ### Binning -/

theorem spEncode_storesOk (hs : s.storesOk) {core slot : Nat} {a : SpArgs} : (spEncode core slot a s).storesOk :=
  hs.ite (hs.workFault.ite (hs.vector (fun _ _ h => h.workFault.ite (h.foldl (fun _ _ h' => h'.putBytes)).count)))

theorem State.storesOk.put44 (hs : s.storesOk) {fmt dst stride scales : Nat} {codes : List (List Nat)} {r : List (List Nat) × List (List Nat) × AFlags} :
    (s.put44 fmt dst stride scales codes r).storesOk := (hs.foldl (fun _ _ h => h.putBytes)).putBytes.ite (hs.foldl (fun _ _ h => h.putBytes))

theorem State.storesOk.pruned (hs : s.storesOk) {a : MaskArgs} {codes : List (List Nat)} : (s.pruned a codes).storesOk :=
  hs.foldl (fun _ _ h => h.foldl (fun _ _ h' => h'.ite h'.putBytes))

theorem State.storesOk.recordMasked (hs : s.storesOk) {eval : Bool} {fmt tensor : Nat} {m : Masked} : (s.recordMasked eval fmt tensor m).storesOk :=
  hs.recordMagnitude.ite hs

theorem mask44_storesOk (hs : s.storesOk) {core slot : Nat} {a : MaskArgs} : (mask44 core slot a s).storesOk :=
  hs.ite (hs.workFault.ite (hs.workFault.ite (hs.vector fun _ _ h => by
  dsimp only
  split
  · exact (((h.recordMasked.recordMasked.ite h.recordMasked).put44.elim fun _ => (h.recordMasked.recordMasked.ite h.recordMasked).put44.put44).pruned.ite
      ((h.recordMasked.recordMasked.ite h.recordMasked).put44.elim fun _ => (h.recordMasked.recordMasked.ite h.recordMasked).put44.put44)).raise
  · exact h.workFault)))

theorem rowbin_storesOk (hs : s.storesOk) {core slot counts m perm starts : Nat} : (rowbin core slot counts m perm starts s).storesOk :=
  hs.ite (hs.workFault.ite (hs.vector (fun _ _ h => h.putBytes.putBytes)))

theorem rowscatter_storesOk (hs : s.storesOk) {core slot src rowBytes m perm dst dstRows : Nat} :
    (rowscatter core slot src rowBytes m perm dst dstRows s).storesOk := hs.vector (fun _ _ h => h.workFault.ite (h.foldl (fun _ _ h' => h'.putBytes)))

/-! ### Braid -/

theorem State.storesOk.runPlan (hs : s.storesOk) {cluster : Nat} {q : QDesc} {d : BraidDesc} : (s.runPlan cluster q d).storesOk := by
  unfold State.runPlan
  dsimp only
  split
  · exact hs.failDesc
  · exact hs.write.count.startDesc

theorem State.storesOk.runMerge (hs : s.storesOk) {cluster : Nat} {q : QDesc} {d : BraidDesc} : (s.runMerge cluster q d).storesOk :=
  (hs.foldl (fun _ _ h => h.write)).count.raise.startDesc.ite hs.failDesc

theorem State.storesOk.braid (hs : s.storesOk) {cluster : Nat} {merge : Bool} : (s.braid cluster merge).storesOk := by
  unfold State.braid
  split
  · exact hs
  · dsimp only
    split
    · exact hs
    · split
      · exact hs.failDesc
      · exact (hs.runMerge.ite hs.runPlan).ite hs

theorem braidDone_storesOk (hs : s.storesOk) {cluster : Nat} : (braidDone cluster s).storesOk := hs.finishDesc

/-! ### Ecc -/

theorem State.storesOk.countPin (hs : s.storesOk) {pc pin : Nat} : (s.countPin pc pin).storesOk := (hs.keep.count.ite hs.keep.keep.count).ite hs.keep

theorem State.storesOk.readBurst (hs : s.storesOk) {r : RawWords} : (s.readBurst r).2.storesOk := by
  unfold State.readBurst
  dsimp only
  split
  · exact hs
  · exact hs
  · exact hs.count
  · exact hs.count.write.foldl fun _ _ h => h.ite h.countPin
  · exact hs

theorem State.storesOk.dramChannel (hs : s.storesOk) : s.dramChannel.2.storesOk := hs.takeFree (w := 5)

theorem State.storesOk.readWord (hs : s.storesOk) {r : RawWords} : (s.readWord r).2.storesOk := by
  unfold State.readWord
  split
  · split
    · exact hs.dramChannel.keep.count.write
    · exact hs.dramChannel.keep.count.write
    · exact hs.count.write
  · exact hs
  · exact hs

theorem State.storesOk.rawRead (hs : s.storesOk) {r : RawWords} : (s.rawRead r).2.storesOk := by
  unfold State.rawRead
  split
  · exact hs.readBurst
  · exact hs.readBurst
  · exact hs.readWord

/-! ### Tables -/

theorem State.storesOk.setDir (hs : s.storesOk) {t row slot version : Nat} : (s.setDir t row slot version).storesOk := hs.write
theorem State.storesOk.countNames (hs : s.storesOk) : s.countNames.storesOk := hs.keep
theorem State.storesOk.nameRow (hs : s.storesOk) {t row requester : Nat} : (s.nameRow t row requester).storesOk := hs.keep.ite hs

/-! ### Quarry -/

theorem State.storesOk.sendMsgs (hs : s.storesOk) {ms : List Msg} : (s.sendMsgs ms).storesOk := hs.foldl (fun _ _ h => h.send)

theorem State.storesOk.batchIn (hs : s.storesOk) {m : Msg} : (s.batchIn m).2.storesOk := by
  unfold State.batchIn
  dsimp only
  split <;> exact hs.keep

theorem State.storesOk.countNarrow (hs : s.storesOk) {a n : Nat} : (s.countNarrow a n).storesOk := (hs.foldl (fun _ _ h => h.count)).ite hs

theorem State.storesOk.countSearch (hs : s.storesOk) {entry : Nat} {searched : List Region} : (s.countSearch entry searched).storesOk :=
  hs.count.foldl (fun _ _ h => h.takeFree.count)

theorem State.storesOk.countLocal (hs : s.storesOk) {k slot n : Nat} : (s.countLocal k slot n).storesOk := hs.count.countNarrow

theorem State.storesOk.deliver (hs : s.storesOk) {dst : Nat} {ver : Option Nat} {row : List Byte} {version : Nat} :
    (s.deliver dst ver row version).storesOk := by
  unfold State.deliver
  dsimp only
  split
  · exact hs.write.countNarrow.write.countNarrow
  · exact hs.write.countNarrow

theorem State.storesOk.gatherOne (hs : s.storesOk) {eval : Bool} {d : QuarryDesc} {t : TableDecl} {i id : Nat} :
    (s.gatherOne eval d t i id).storesOk := by
  unfold State.gatherOne
  dsimp only
  refine hs.deliver.ite (hs.deliver.countLocal.ite ?_)
  split
  · exact (hs.deliver.count.ite hs.deliver.count.keep).ite hs.keep
  · exact hs.keep

theorem State.storesOk.tryGathered (hs : s.storesOk) : s.tryGathered.storesOk := hs.keep.ite hs

theorem State.storesOk.sendRound (hs : s.storesOk) {r : Nat} : (s.sendRound r).storesOk :=
  (hs.foldl (fun _ _ h => (h.foldl (fun _ _ h' => h'.ite h'.count)).sendMsgs)).keep.tryGathered

theorem State.storesOk.countBatch (hs : s.storesOk) : s.countBatch.storesOk := by
  unfold State.countBatch
  split
  · exact hs
  · exact hs.keep

theorem State.storesOk.askEval (hs : s.storesOk) : s.askEval.storesOk := hs.ite (hs.foldl (fun _ _ h => h.count.sendMsgs)).keep.countBatch

theorem State.storesOk.runGather (hs : s.storesOk) {eval : Bool} {d : QuarryDesc} : (s.runGather eval d).storesOk := by
  unfold State.runGather
  split
  · exact hs
  · exact (hs.foldl (fun _ _ h => h.gatherOne)).askEval.ite (hs.foldl (fun _ _ h => h.gatherOne))

theorem State.storesOk.runScatter (hs : s.storesOk) {eval : Bool} {d : QuarryDesc} : (s.runScatter eval d).storesOk :=
  hs.ite (hs.foldl (fun _ _ h => h.ite h.countNarrow)).keep

theorem State.storesOk.closeRound (hs : s.storesOk) {eval : Bool} {core round : Nat} : (s.closeRound eval core round).storesOk :=
  hs.ite (hs.keep.sendRound.ite hs.keep)

theorem State.storesOk.quarry (hs : s.storesOk) {core op : Nat} {reads : State → Bool → Bool × State}
    (hr : ∀ s e, s.storesOk → (reads s e).2.storesOk) : (s.quarry core op reads).storesOk := by
  unfold State.quarry
  split
  · exact hs
  · dsimp only
    refine hs.ite ?_
    split
    · exact hs.failDesc
    · refine State.storesOk.ite ?_ hs
      split
      · next hu => exact (hr _ _ hs).snd hu
      · next hu =>
        have h := (hr _ _ hs).snd hu
        exact (h.runGather.ite (h.runScatter.ite h.closeRound)).startDesc

theorem quarryDone_storesOk (hs : s.storesOk) {core : Nat} : (quarryDone core s).storesOk := hs.finishDesc

theorem State.storesOk.answerLookups (hs : s.storesOk) {m : Msg} {recs : List (List Byte)} : (s.answerLookups m recs).storesOk :=
  (((hs.ite (hs.foldl (fun _ _ h => h.nameRow))).foldl (fun _ _ h => h.countLocal.ite h)).ite ((hs.ite (hs.foldl (fun _ _ h => h.nameRow))).foldl (fun _ _ h
    => h.countLocal.ite h)).keep).sendMsgs.tryGathered

theorem lookupBatch_storesOk (hs : s.storesOk) {m : Msg} : (lookupBatch m s).storesOk := by
  unfold lookupBatch
  split
  · exact hs
  · dsimp only
    split
    · exact hs.took.discarded
    · split
      · exact hs.took.stepFault
      · split
        · exact hs.took.stepFault
        · split
          · next t ht => exact (hs.took.batchIn.snd ht)
          · next _ t ht => exact (hs.took.batchIn.snd ht).answerLookups

theorem State.storesOk.fillReplies (hs : s.storesOk) {eval : Bool} {src round : Nat} {keys : List Nat} {b : List Byte} :
    (s.fillReplies eval src round keys b).storesOk := by
  induction keys generalizing s b with
  | nil => exact hs
  | cons k keys ih =>
    unfold State.fillReplies
    exact hs.ite ((ih hs.keep).ite (ih (hs.foldl fun _ _ h => h.deliver).keep))

theorem lookupReply_storesOk (hs : s.storesOk) {m : Msg} : (lookupReply m s).storesOk := by
  unfold lookupReply
  split
  · exact hs
  · dsimp only
    split
    · exact hs.took.discarded
    · split
      · exact hs.took
      · split
        · next t ht => exact (hs.took.batchIn.snd ht)
        · next _ t ht => exact (hs.took.batchIn.snd ht).fillReplies.askEval.ite (hs.took.batchIn.snd ht).fillReplies.keep.tryGathered

/-! ### Confluence -/

theorem State.storesOk.keepSent (hs : s.storesOk) : s.keepSent.storesOk := hs.elim fun _ => hs.write

theorem State.storesOk.sendContributions (hs : s.storesOk) : s.sendContributions.storesOk := by
  unfold State.sendContributions
  split
  · exact hs.stepFault
  · exact hs.count.keep.keepSent.sendMsgs

theorem confRerequest_storesOk (hs : s.storesOk) {m : Msg} : (confRerequest m s).storesOk := hs.ite (hs.took.sendMsgs.ite hs.took)
theorem State.storesOk.putBlock (hs : s.storesOk) {a n : Nat} {b : BlockResult} : (s.putBlock a n b).storesOk := hs.write.write
theorem State.storesOk.noteBlock (hs : s.storesOk) {key n : Nat} {b : BlockResult} : (s.noteBlock key n b).storesOk := hs.keep.ite hs.keep.count.markRescaled
theorem State.storesOk.noteSums (hs : s.storesOk) {rs : List (Nat × AFlags)} : (s.noteSums rs).storesOk := hs.keep

theorem State.storesOk.reduceSlice (hs : s.storesOk) {x : SlicePlace} {from_ : Payloads} : (s.reduceSlice x from_).storesOk :=
  (hs.count.count.foldl (fun _ _ h => h.putBlock.noteBlock)).ite hs.count.count.write.noteSums.raiseConf

theorem State.storesOk.putRowSum (hs : s.storesOk) {id row : Nat} {t : TableDecl} {b : List Byte} : (s.putRowSum id row t b).storesOk := by
  unfold State.putRowSum
  dsimp only
  split
  · exact hs.keep.write
  · exact hs.keep

theorem State.storesOk.reduceRow (hs : s.storesOk) {id row : Nat} {t : TableDecl} {gs : List (List Byte)} :
    (s.reduceRow id row t gs).1.storesOk := by
  unfold State.reduceRow
  split
  · split
    · exact hs.stepFault
    · exact hs.putRowSum.foldl fun _ _ h => h.noteBlock
  · exact hs.putRowSum.noteSums

theorem State.storesOk.reduceTable (hs : s.storesOk) {id : Nat} {l : Payloads} : (s.reduceTable id l).storesOk := by
  unfold State.reduceTable
  split
  · exact hs
  · refine State.storesOk.raiseConf (State.storesOk.foldlFst ?_ fun _ _ h => ?_)
    · exact hs.count.count
    · exact h.reduceRow

theorem State.storesOk.rerequest (hs : s.storesOk) {kind id src : Nat} : (s.rerequest kind id src).storesOk := hs.keep.count.send

theorem State.storesOk.aggregateFailed (hs : s.storesOk) {kind id : Nat} {from_ : Payloads} : (s.aggregateFailed kind id from_).storesOk :=
  hs.count.transient.ite (hs.count.keep.foldl (fun _ _ h => h.rerequest))

theorem State.storesOk.tryReduce (hs : s.storesOk) {kind id : Nat} {reads : List AdderRead} : (s.tryReduce kind id reads).storesOk := by
  unfold State.tryReduce
  refine State.storesOk.ite (State.storesOk.ite (State.storesOk.ite ?_ hs.keep.reduceTable) hs.aggregateFailed) hs
  split
  · exact hs.keep.reduceSlice
  · exact hs.keep

theorem State.storesOk.reduceCheck (hs : s.storesOk) : s.reduceCheck.storesOk := by
  unfold State.reduceCheck
  split
  · exact hs
  · exact (hs.keep.arrive.ite hs.keep).ite hs

theorem State.storesOk.replaced (hs : s.storesOk) {x : Seg} : (s.replaced x).storesOk := hs.keep
theorem State.storesOk.settled (hs : s.storesOk) {kind id src : Nat} : (s.settled kind id src).storesOk := hs.keep
theorem State.storesOk.reject (hs : s.storesOk) {kind id src : Nat} : (s.reject kind id src).storesOk := hs.count.transient.ite hs.count.rerequest
theorem State.storesOk.keepStaged (hs : s.storesOk) : s.keepStaged.storesOk := hs.elim fun _ => hs.write

theorem State.storesOk.stage (hs : s.storesOk) {x : Seg} {reads : List AdderRead} : (s.stage x reads).storesOk := by
  unfold State.stage
  dsimp only
  refine hs.replaced.stepFault.ite (State.storesOk.ite (State.storesOk.ite ?_ ?_) ?_)
  · split
    · exact hs.replaced.keep.keepStaged.stepFault
    · exact hs.replaced.keep.keepStaged.settled.tryReduce.reduceCheck
  · exact hs.replaced.keep.keepStaged.reject
  · exact hs.replaced.keep.keepStaged

theorem remoteAcc_storesOk (hs : s.storesOk) {m : Msg} {reads : List AdderRead} : (remoteAcc m reads s).storesOk := by
  unfold remoteAcc
  split
  · exact hs
  · dsimp only
    split
    · exact hs.took.count
    · split
      · exact hs.took
      · split
        · exact hs.took.stepFault
        · split
          · exact hs.took.count.ite hs.took.stepFault
          · exact hs.took.stepFault.ite hs.took.stage

/-! ### Committed -/

theorem State.storesOk.committedValues (hs : s.storesOk) : s.committedValues.storesOk := hs.keep.countNames
theorem State.storesOk.skippedValues (hs : s.storesOk) : s.skippedValues.storesOk := hs.keep.countNames
theorem State.storesOk.takeCarried (hs : s.storesOk) {l : List Nat} : (s.takeCarried l).storesOk := hs.keep
theorem State.storesOk.storeCarried (hs : s.storesOk) : s.storeCarried.storesOk := hs.write
theorem State.storesOk.loadCarried (hs : s.storesOk) : s.loadCarried.storesOk := hs.ite hs.takeCarried
theorem State.storesOk.dropScales (hs : s.storesOk) {k : Nat} : (s.dropScales k).storesOk := hs.keep
theorem State.storesOk.forgetRow (hs : s.storesOk) {k : Nat} : (s.forgetRow k).storesOk := hs.keep.dropScales

/-! ### Sampler -/

theorem State.storesOk.putLedger (hs : s.storesOk) {eval : Bool} {i : Nat} {l : List (List Byte)} : (s.putLedger eval i l).storesOk := by
  induction l generalizing s i with
  | nil => exact hs
  | cons x l ih => exact ih hs.write.write

theorem State.storesOk.putChildren (hs : s.storesOk) {eval : Bool} {fs : List Nat} {i h parent : Nat} {cs : List (List Byte)} :
    (s.putChildren eval fs i h parent cs).storesOk := (hs.ite hs.count).putLedger

theorem State.storesOk.drawParent (hs : s.storesOk) {d : Decl} {hop : Hop} {node tb slot0 lti c2 spec : Nat} {eval : Bool} :
    (s.drawParent d hop node tb slot0 lti c2 spec eval).2.storesOk := by
  unfold State.drawParent
  dsimp only
  refine State.storesOk.countSearch (State.storesOk.ite (State.storesOk.count ?_) ?_)
  all_goals exact (hs.count.count.ite hs.count).count

theorem State.storesOk.sampleParent (hs : s.storesOk) {d : Decl} {sp : SampSpec} {w : Sampling} {t : Target} {i h parent : Nat} :
    (s.sampleParent d sp w t i h parent).1.storesOk := by
  unfold State.sampleParent
  dsimp only
  exact State.storesOk.iteFst hs.putChildren (State.storesOk.iteFst hs.drawParent.putChildren hs.count)

theorem State.storesOk.sampleHop (hs : s.storesOk) {d : Decl} {sp : SampSpec} {w : Sampling} {targets : List Target} {h : Nat} :
    (s.sampleHop d sp w targets h).1.storesOk := hs.foldlFst fun _ _ h => h.foldlFst fun _ _ h => h.sampleParent

theorem State.storesOk.trySampled (hs : s.storesOk) : s.trySampled.storesOk := hs.keep.ite hs

theorem State.storesOk.stepHop (hs : s.storesOk) {r : StepRun} {d : Decl} {sp : SampSpec} {h : Nat} : (s.stepHop r d sp h).storesOk :=
  (hs.sampleHop.keep.foldl (fun _ _ h => h.sendMsgs)).trySampled

theorem State.storesOk.evalHop (hs : s.storesOk) {e : EvalRun} {d : Decl} {sp : SampSpec} {h : Nat} : (s.evalHop e d sp h).storesOk := by
  unfold State.evalHop
  dsimp only
  split
  · exact hs.sampleHop.foldl fun _ _ h => h.sendMsgs
  · exact hs.sampleHop.keep.foldl fun _ _ h => h.sendMsgs

theorem State.storesOk.evalNext (hs : s.storesOk) {d : Decl} {hop : Nat} : (s.evalNext d hop).storesOk := by
  unfold State.evalNext
  split
  · exact hs
  · split
    · split
      · exact hs.evalHop.ite hs
      · exact hs
    · exact hs

theorem hopBatchSend_storesOk (hs : s.storesOk) {hop : Nat} : (hopBatchSend hop s).storesOk := by
  unfold hopBatchSend
  split
  · exact hs
  · split
    · split
      · split
        · exact hs.stepHop.ite hs
        · exact hs
      · exact hs.evalNext
    · exact hs.evalNext
    · exact hs

theorem State.storesOk.answerSample (hs : s.storesOk) {d : Decl} {sp : SampSpec} {spec h c2 : Nat} {eval : Bool} {r : List Byte} :
    (s.answerSample d sp spec h c2 eval r).2.storesOk := hs.drawParent.count

theorem State.storesOk.answerSamples (hs : s.storesOk) {d : Decl} {sp : SampSpec} {spec : Nat} {m : Msg} {recs : List (List Byte)} :
    (s.answerSamples d sp spec m recs).storesOk := by
  refine State.storesOk.sendMsgs (State.storesOk.foldlSnd (p := ([], s)) hs fun _ _ h => ?_)
  exact h.answerSample

theorem sampleReq_storesOk (hs : s.storesOk) {m : Msg} {spec : Nat} {reads : State → Bool → Bool × State}
    (hr : ∀ s e, s.storesOk → (reads s e).2.storesOk) : (sampleReq m spec reads s).storesOk := by
  unfold sampleReq
  split
  · exact hs
  · split
    · dsimp only
      refine hs.took.discarded.ite (hs.took.stepFault.ite ?_)
      split
      · next ht => exact hs.took.batchIn.snd ht
      · next ht =>
        have h := hs.took.batchIn.snd ht
        split
        · next hu => exact (hr _ _ h).snd hu
        · next hu => exact ((hr _ _ h).snd hu).answerSamples
    · exact hs

theorem State.storesOk.fillSamples (hs : s.storesOk) {eval : Bool} {fs : List Nat} {f : Nat} {l : List Nat} {b : List Byte} :
    (s.fillSamples eval fs f l b).2.storesOk := by
  induction l generalizing s b with
  | nil => exact hs
  | cons i l ih =>
    unfold State.fillSamples
    split
    · exact hs
    · exact ih (hs.ite hs.count).putLedger

theorem State.storesOk.evalSamples (hs : s.storesOk) {fs : List Nat} {m : Msg} {b : List Byte} : (s.evalSamples fs m b).storesOk := by
  unfold State.evalSamples
  split
  · exact hs
  · dsimp only
    split
    · exact hs.fillSamples
    · exact hs.fillSamples.keep

theorem State.storesOk.stepSamples (hs : s.storesOk) {fs : List Nat} {m : Msg} {b : List Byte} : (s.stepSamples fs m b).storesOk :=
  hs.fillSamples.keep.trySampled

theorem sampleReply_storesOk (hs : s.storesOk) {m : Msg} : (sampleReply m s).storesOk := by
  unfold sampleReply
  split
  · exact hs
  · dsimp only
    split
    · exact hs.took.ite hs.took.discarded
    · split
      · next t ht => exact (hs.took.batchIn.snd ht)
      · next _ t ht => exact (hs.took.batchIn.snd ht).evalSamples.ite (hs.took.batchIn.snd ht).stepSamples

/-! ### Mirror -/

theorem State.storesOk.putImage (hs : s.storesOk) {rs : List Region} {o : Nat} {b : List Byte} : (s.putImage rs o b).storesOk := hs.foldl fun _ _ h => by
  split
  · exact h.write
  · exact h

theorem State.storesOk.sendPart (hs : s.storesOk) {opc part : Nat} : (s.sendPart opc part).storesOk := by
  unfold State.sendPart
  split
  · exact hs
  · exact hs.count.foldl (fun _ _ h => h.send)

theorem State.storesOk.stream (hs : s.storesOk) {opc : Nat} {runs : List (Nat × List Byte)} : (s.stream opc runs).storesOk :=
  hs.keep.foldl (fun _ _ h => h.sendPart)

theorem State.storesOk.arriveStart (hs : s.storesOk) : s.arriveStart.storesOk := by
  unfold State.arriveStart
  split
  · exact hs
  · exact hs.keep.arrive.ite hs

theorem State.storesOk.tryWindow (hs : s.storesOk) : s.tryWindow.storesOk := hs.keep.arrive.ite hs
theorem State.storesOk.tryBegin (hs : s.storesOk) : s.tryBegin.storesOk := hs.arriveStart.tryWindow
theorem State.storesOk.tellSpareAll (hs : s.storesOk) {ms : List Msg} : (s.tellSpareAll ms).storesOk := hs.foldl (fun _ _ h => h.tellSpare)
theorem State.storesOk.installEntry (hs : s.storesOk) {r : MigRec} : (s.installEntry r).storesOk := hs.keep.count.ite hs.keep
theorem State.storesOk.leaveRows (hs : s.storesOk) {rs : List MigRec} : (s.leaveRows rs).storesOk := hs.foldl (fun _ _ h => h.installEntry.forgetRow)

theorem State.storesOk.tellMoved (hs : s.storesOk) {ring : Nat} : (s.tellMoved ring).storesOk :=
  (hs.leaveRows.count.foldl (fun _ _ h => h.foldl (fun _ _ h' => h'.send))).tellSpareAll

theorem State.storesOk.finishWaiting (hs : s.storesOk) {x : Nat × Nat × Nat} : (s.finishWaiting x).storesOk :=
  ((hs.enter.ite hs).tellMoved.ite (hs.enter.ite hs)).complete

theorem State.storesOk.finishCopies (hs : s.storesOk) : s.finishCopies.storesOk :=
  (hs.keep.sendAll.sendAll.foldl (fun _ _ h => h.finishWaiting)).tryBegin.ite hs

theorem State.storesOk.copyWith (hs : s.storesOk) {carried : List Byte} {touched : List Region} {waiting : List (Nat × Nat × Nat)} :
    (s.copyWith carried touched waiting).storesOk := hs.keep.write.stream.finishCopies

theorem State.storesOk.copyBoundary (hs : s.storesOk) {touched : List Region} {waiting : List (Nat × Nat × Nat)} :
    (s.copyBoundary touched waiting).storesOk := hs.keep.finishCopies.ite hs.copyWith

theorem State.storesOk.clearMirrors (hs : s.storesOk) : s.clearMirrors.storesOk := hs.foldl (fun _ _ h => h.write)
theorem State.storesOk.setHeld (hs : s.storesOk) {x : MirPart} : (s.setHeld x).storesOk := hs.keep

theorem State.storesOk.applyRuns (hs : s.storesOk) {x : MirPart} {l : List (Nat × List Byte)} : (s.applyRuns x l).2.storesOk := by
  induction l generalizing s x with
  | nil => exact hs
  | cons r l ih => exact ih hs.write

theorem State.storesOk.tryAck (hs : s.storesOk) {owner : Nat} : (s.tryAck owner).storesOk := hs.setHeld.send.ite hs
theorem mirrorStepDelta_storesOk (hs : s.storesOk) {m : Msg} : (mirrorStepDelta m s).storesOk := hs.ite (hs.took.ite hs.took.setHeld.tryAck)
theorem State.storesOk.applyPending (hs : s.storesOk) : s.applyPending.storesOk := hs.foldl (fun _ _ h => h.applyRuns.setHeld)
theorem State.storesOk.dropPending (hs : s.storesOk) : s.dropPending.storesOk := hs.keep
theorem State.storesOk.ackCopy (hs : s.storesOk) {owner step attempt : Nat} : (s.ackCopy owner step attempt).storesOk := hs.setHeld.send.ite hs

theorem mirrorBoundaryCopy_storesOk (hs : s.storesOk) {m : Msg} : (mirrorBoundaryCopy m s).storesOk := by
  unfold mirrorBoundaryCopy
  refine hs.ite (hs.took.ite ?_)
  dsimp only
  split
  · exact hs.took.setHeld.ackCopy
  · exact hs.took.applyRuns.setHeld.ackCopy

theorem State.storesOk.covered (hs : s.storesOk) {m : Msg} : (s.covered m).storesOk := hs.keep.ite hs

theorem mirrorAck_storesOk (hs : s.storesOk) {m : Msg} : (mirrorAck m s).storesOk := by
  unfold mirrorAck
  split
  · exact hs
  · dsimp only
    split
    · exact hs.took.covered
    · exact hs.took.covered.ite ((hs.took.covered.keep.tryPrepared.ite hs.took.covered.keep.finishCopies).ite
        (hs.took.covered.transient.ite hs.took.covered.keep.count.sendPart))

theorem State.storesOk.sendHeld (hs : s.storesOk) {dst owner off len : Nat} : (s.sendHeld dst owner off len).storesOk := hs.foldl (fun _ _ h => h.send)
theorem mirrorPullRequest_storesOk (hs : s.storesOk) {m : Msg} : (mirrorPullRequest m s).storesOk := hs.ite ((hs.took.ite hs.took.count).sendHeld.ite hs.took)
theorem State.storesOk.askPull (hs : s.storesOk) {part holder : Nat} : (s.askPull part holder).storesOk := hs.send
theorem State.storesOk.copySlices (hs : s.storesOk) : s.copySlices.storesOk := hs.foldl (fun _ _ h => h.ite h.write)
theorem State.storesOk.dropStrays (hs : s.storesOk) : s.dropStrays.storesOk := hs.foldl (fun _ _ h => h.forgetRow)
theorem State.storesOk.joinReplicas (hs : s.storesOk) : s.joinReplicas.storesOk := hs.sendAll.keep
theorem State.storesOk.setPull (hs : s.storesOk) {x : Pull} : (s.setPull x).storesOk := hs.keep

theorem State.storesOk.endPull (hs : s.storesOk) {x : Pull} {sum : Nat} : (s.endPull x sum).storesOk :=
  (hs.setPull.loadCarried.dropStrays.copySlices.joinReplicas.tryBegin.ite hs.setPull).ite (hs.report.ite hs.setPull.askPull)

theorem State.storesOk.endHandover (hs : s.storesOk) {owner : Nat} : (s.endHandover owner).storesOk := hs.setHeld.keep.tryAck.ackCopy

theorem mirrorPullReply_storesOk (hs : s.storesOk) {m : Msg} : (mirrorPullReply m s).storesOk := by
  unfold mirrorPullReply
  split
  · exact hs
  · dsimp only
    split
    · split
      · exact hs.took
      · exact hs.took.keep.tryBegin.ite (hs.took.endPull.ite (hs.took.putImage.ite hs.took.putImage.count))
    · exact (hs.took.endHandover.ite hs.took.applyRuns.setHeld.count).ite hs.took

/-! ### Join -/

theorem State.storesOk.tryForm (hs : s.storesOk) : s.tryForm.storesOk := hs.arrive.ite hs
theorem join_storesOk (hs : s.storesOk) {ring : Nat} : (join ring s).storesOk := hs.command (fun _ _ h => h.keep.keep.sendAll.tryForm)

theorem State.storesOk.dropJoin (hs : s.storesOk) {x : Status} : (s.dropJoin x).storesOk := by
  unfold State.dropJoin
  split
  · exact hs
  · exact hs.setBarrier.keep.complete

theorem joinTimeout_storesOk (hs : s.storesOk) : (joinTimeout s).storesOk := hs.dropJoin.ite hs
theorem State.storesOk.learn (hs : s.storesOk) {i : JoinInfo} : (s.learn i).storesOk := hs.keep.keep.dropJoin.ite hs.keep.keep
theorem State.storesOk.welcome1 (hs : s.storesOk) {pos : Nat} : (s.welcome1 pos).storesOk := hs.ite (hs.keep.send.ite hs.keep).arrive

theorem joinTraffic_storesOk (hs : s.storesOk) {pos : Nat} {info : Option JoinInfo} {left : Bool} : (joinTraffic pos info left s).storesOk :=
  hs.ite (((hs.keep.ite hs.keep.keep).spareGone.ite (hs.keep.ite hs.keep.keep)).ite (((hs.keep.ite hs.keep.keep).welcome1.ite (hs.keep.ite hs.keep.keep)).ite
    ((hs.keep.ite hs.keep.keep).elim fun _ => (hs.keep.ite hs.keep.keep).learn).tryForm))

theorem barrierFloor_storesOk (hs : s.storesOk) {m : Msg} : (barrierFloor m s).storesOk := by
  unfold barrierFloor
  split
  · next ht => exact hs.barrierIn.snd ht
  · next ht =>
    have h := hs.barrierIn.snd ht
    dsimp only
    refine hs.ite ?_
    split
    · exact h.keep.ite h.keep.post
    · exact (h.keep.ite h.keep.post).keep.complete.enter

/-! ### Rng -/

theorem State.storesOk.rng (hs : s.storesOk) {core slot : Nat} {r : RngArgs} {ok : Bool} {reads : List Region}
    {value : State → Nat → GenState → Nat × AFlags} : (s.rng core slot r ok reads value).storesOk :=
  hs.ite (hs.workFault.ite (hs.vector fun _ _ h => h.putBytes.raise.count))

theorem rngUniform_storesOk (hs : s.storesOk) {core slot : Nat} {r : RngArgs} {lo hi : W32} : (rngUniform core slot r lo hi s).storesOk := hs.rng
theorem rngBernoulli_storesOk (hs : s.storesOk) {core slot : Nat} {r : RngArgs} {p : W32} : (rngBernoulli core slot r p s).storesOk := hs.rng

theorem rngDropout_storesOk (hs : s.storesOk) {core slot : Nat} {r : RngArgs} {p scale : W32} {x : Nat} : (rngDropout core slot r p scale x s).storesOk := by
  unfold rngDropout
  exact hs.rng

theorem rngNormalBm_storesOk (hs : s.storesOk) {core slot : Nat} {r : RngArgs} {mean std : W32} : (rngNormalBm core slot r mean std s).storesOk := hs.rng
theorem rngNormalTab_storesOk (hs : s.storesOk) {core slot : Nat} {r : RngArgs} {mean std : W32} : (rngNormalTab core slot r mean std s).storesOk := hs.rng

theorem rngAdvance_storesOk (hs : s.storesOk) {core slot tag tensor : Nat} {amount : W32} : (rngAdvance core slot tag tensor amount s).storesOk := by
  unfold rngAdvance
  dsimp only
  split
  · split
    · exact hs.keep
    · exact hs
  · exact hs

/-! ### Firmware -/

theorem wf_eraseSlot {m : NMap Byte} (hm : NMap.wf (0xFF : Byte) m) : NMap.wf (0xFF : Byte) (eraseSlot m) := NMap.wf_filter _ m _ hm

theorem wf_programSlot {m : NMap Byte} (hm : NMap.wf (0xFF : Byte) m) {image : List Byte} {n : Nat} : NMap.wf (0xFF : Byte) (programSlot m image n) :=
  wf_storeBytes _ _ _ _ (wf_eraseSlot hm)

theorem wf_foldl_set {l m : NMap Byte} (hm : NMap.wf (0xFF : Byte) m) : NMap.wf (0xFF : Byte) (l.foldl (fun m e => m.set 0xFF e.1 e.2) m) := by
  induction l generalizing m with
  | nil => exact hm
  | cons e l ih => exact ih (NMap.wf_set _ m e.1 e.2 hm)

theorem State.storesOk.mirrorSlot (hs : s.storesOk) : s.mirrorSlot.storesOk := by
  obtain ⟨hm, hn, hr⟩ := hs
  exact ⟨hm, hn, wf_foldl_set (wf_eraseSlot hr)⟩

theorem State.storesOk.pushImage (hs : s.storesOk) {ring : Nat} {image : List Byte} {fin : PushEnd} :
    (s.pushImage ring image fin).storesOk := by
  obtain ⟨hm, hn, hr⟩ := hs
  cases fin with
  | done =>
    have h : State.storesOk { s with nor := programSlot s.nor image image.length, slotOpen := false } := ⟨hm, wf_programSlot hn, hr⟩
    exact h.mirrorSlot.complete.keep.ite h.mirrorSlot.complete
  | sectorFails k =>
    apply State.storesOk.complete
    refine ⟨hm, ?_, hr⟩
    apply wf_storeBytes
    exact wf_programSlot hn
  | cut n => exact ⟨hm, wf_programSlot hn, hr⟩

theorem fwPush_storesOk (hs : s.storesOk) {ring : Nat} {host : List Byte} {fin : PushEnd} : (fwPush ring host fin s).storesOk := hs.command fun _ _ h => by
  dsimp only
  split
  · exact h.complete
  · split
    · exact h.complete
    · exact h.complete.ite (h.complete.ite h.pushImage)

theorem attest_storesOk (hs : s.storesOk) {ring : Nat} : (attest ring s).storesOk := hs.command fun _ _ h => by
  split
  · exact h.complete
  · split
    · exact h.complete
    · next t ht => exact (h.writeBuffer ht).complete

/-! ### Evidence -/

theorem State.storesOk.beginEval (hs : s.storesOk) {ring tag spec : Nat} {targets : List Target} {evidence : Bool} :
    (s.beginEval ring tag spec targets evidence).storesOk := hs.startRunning.orderEvals

theorem eval_storesOk (hs : s.storesOk) {ring : Nat} {host : List Byte} : (eval ring host s).storesOk := hs.command fun _ _ h => by
  split
  · exact h.complete
  · exact h.complete
  · exact h.beginEval

theorem State.storesOk.closeWindow (hs : s.storesOk) {c v : Nat} : (s.closeWindow c v).storesOk := hs.keep.orderEvals

theorem State.storesOk.askWindow (hs : s.storesOk) {c : Nat} : (s.askWindow c).storesOk := by
  unfold State.askWindow
  split
  · exact hs.closeWindow
  · exact (hs.keep.ite hs).ite (hs.keep.ite hs).sendAll.keep.tryWindow

theorem evidenceExport_storesOk (hs : s.storesOk) {ring : Nat} : (evidenceExport ring s).storesOk := hs.command fun _ _ h => by
  dsimp only
  split
  · exact h.complete
  · exact h.complete.ite h.beginEval.askWindow
  · exact h.complete

theorem State.storesOk.setHash (hs : s.storesOk) {h : HashRun} : (s.setHash h).storesOk := hs.keep
theorem State.storesOk.tryHash (hs : s.storesOk) {c : Nat} : (s.tryHash c).storesOk := hs.keep.ite hs

theorem State.storesOk.tryDigest (hs : s.storesOk) {c : Nat} : (s.tryDigest c).storesOk := by
  unfold State.tryDigest
  dsimp only
  split
  · split
    · exact hs
    · exact hs.setHash.sendAll.tryHash.tryPrepared
  · exact hs

theorem State.storesOk.sendHome (hs : s.storesOk) {c : Nat} {only : Option Nat} : (s.sendHome c only).storesOk := hs.foldl fun _ _ h => by
  dsimp only
  split
  · exact h.send.ite h
  · exact h

theorem State.storesOk.startHash (hs : s.storesOk) {c : Nat} : (s.startHash c).storesOk := hs.ite hs.setHash.sendHome.tryDigest
theorem State.storesOk.askHash (hs : s.storesOk) {c : Nat} : (s.askHash c).storesOk := hs.ite hs.sendAll.startHash

theorem State.storesOk.remindHash (hs : s.storesOk) {r : Nat} : (s.remindHash r).storesOk := hs.foldl fun _ _ h => by
  refine State.storesOk.ite (State.storesOk.sendHome ?_) h
  split
  · exact h.send.send
  · exact h.send

theorem State.storesOk.hashIn (hs : s.storesOk) {m : Msg} {c v : Nat} : (s.hashIn m c v).storesOk :=
  hs.startHash.ite (hs.ite (hs.setHash.tryHash.ite hs.setHash.tryDigest))

theorem State.storesOk.endEvidence (hs : s.storesOk) {e : EvalRun} {d : Decl} {p : Placement} {hash : W256} {desc : List Byte} :
    (s.endEvidence e d p hash desc).storesOk := by
  unfold State.endEvidence
  split
  · exact hs.endEval
  · dsimp only
    split
    · exact hs.endEval
    · next t ht => exact (hs.raiseConf.writeBuffer ht).endEval

theorem State.storesOk.endScores (hs : s.storesOk) {e : EvalRun} {d : Decl} {p : Placement} {desc : List Byte} : (s.endScores e d p desc).storesOk := by
  unfold State.endScores
  split
  · exact hs.endEval
  · next t ht => exact (hs.writeBuffer ht).endEval

theorem State.storesOk.setEval (hs : s.storesOk) {e : EvalRun} : (s.setEval e).storesOk := hs.keep
theorem State.storesOk.startGradient (hs : s.storesOk) {p : Program} : (s.startGradient p).storesOk := hs.write

theorem State.storesOk.evalPhaseEnd (hs : s.storesOk) : s.evalPhaseEnd.storesOk := by
  unfold State.evalPhaseEnd
  split
  · split
    · exact hs.setEval.ite hs
    · split
      · exact hs
      · split
        · exact hs.setEval.startGradient.startTasks
        · split
          · exact hs
          · split
            · dsimp only
              split
              · exact hs.askHash.endEvidence.ite hs.askHash
              · exact hs.askHash
            · exact hs.endScores
  · exact hs

theorem State.storesOk.resumeExport (hs : s.storesOk) : s.resumeExport.storesOk := hs.evalPhaseEnd.ite hs

theorem barrierWindow_storesOk (hs : s.storesOk) {m : Msg} : (barrierWindow m s).storesOk := by
  unfold barrierWindow
  dsimp only
  split
  · exact hs.took.hashIn.resumeExport.ite (hs.took.keep.tryWindow.ite (hs.took.keep.ite hs.took))
  · split
    · next _ t ht => exact (hs.barrierIn.snd ht).closeWindow
    · next t ht => exact (hs.barrierIn.snd ht)

/-! ### Layer Slice -/

theorem State.storesOk.layerArrives (hs : s.storesOk) {vc src n : Nat} : (s.layerArrives vc src n).storesOk := hs.keep.keep.ite hs

/-! ### Window -/

theorem State.storesOk.refuseAct (hs : s.storesOk) {a : Act} {x : Status} : (s.refuseAct a x).storesOk := hs.complete

theorem State.storesOk.appliedAct (hs : s.storesOk) {a : Act} {touched : List Region} {info : Nat} : (s.appliedAct a touched info).storesOk :=
  hs.keep.copyBoundary

theorem State.storesOk.turnIngest (hs : s.storesOk) {a : Act} : (s.turnIngest a).storesOk := by
  unfold State.turnIngest
  split
  · exact hs.refuseAct
  · next hr => exact (hs.applyIngest hr).startRunning.appliedAct

theorem State.storesOk.stageAct (hs : s.storesOk) {a : Act} : (s.stageAct a).2.storesOk := by
  unfold State.stageAct
  split
  · exact hs
  · dsimp only
    split
    · exact (hs.foldl fun _ _ h => h.write.countNarrow).keep
    · exact hs

theorem State.storesOk.freeSlots (hs : s.storesOk) {t : Nat} {slots : List Nat} : (s.freeSlots t slots).storesOk := hs.keep
theorem State.storesOk.restage (hs : s.storesOk) : s.restage.storesOk := hs.foldl (fun _ _ h => h.stageAct.keep.ite h)

theorem State.storesOk.flipRow (hs : s.storesOk) {t : TableDecl} {tab row slot : Nat} : (s.flipRow t tab row slot).storesOk :=
  hs.setDir.freeSlots.write.write.dropScales.ite hs.setDir.freeSlots

theorem State.storesOk.putRows (hs : s.storesOk) {a : Act} {t : TableDecl} : (s.putRows a t).1.storesOk := by
  unfold State.putRows
  split
  · exact (hs.foldl fun _ _ h => h.flipRow).count.restage
  · exact (hs.foldl fun _ _ h => h.write).keep.count

theorem State.storesOk.turnReplace (hs : s.storesOk) {a : Act} : (s.turnReplace a).storesOk := by
  unfold State.turnReplace
  split
  · exact hs.refuseAct
  · exact hs.startRunning.putRows.appliedAct.ite hs.freeSlots.restage.refuseAct

theorem State.storesOk.sendMoves (hs : s.storesOk) {dsts : List Nat} {f : Nat → List Msg} : (s.sendMoves dsts f).storesOk :=
  hs.foldl (fun _ _ h => h.foldl (fun _ _ h' => h'.send))

theorem State.storesOk.takeOff (hs : s.storesOk) {a : Act} : (s.takeOff a).storesOk := hs.keep
theorem State.storesOk.freeRoom (hs : s.storesOk) {dsts : List Nat} : (s.freeRoom dsts).storesOk := hs.sendMoves

theorem State.storesOk.turnMigrate (hs : s.storesOk) {a : Act} : (s.turnMigrate a).storesOk := by
  unfold State.turnMigrate
  split
  · exact hs.takeOff.refuseAct
  · exact hs.takeOff.startRunning.appliedAct.ite hs.keep.sendMoves

theorem State.storesOk.startMoves (hs : s.storesOk) {a : Act} : (s.startMoves a).storesOk := hs.takeOff.startRunning.keep.sendMoves

theorem State.storesOk.sendEntries (hs : s.storesOk) : s.sendEntries.storesOk := by
  unfold State.sendEntries
  split
  · exact hs
  · exact hs.keep.sendMoves.tellSpareAll

theorem State.storesOk.placeRow (hs : s.storesOk) {r : MigRec} : (s.placeRow r).1.storesOk := hs.ite hs.keep
theorem State.storesOk.keepRoom (hs : s.storesOk) {src : Nat} {rs : List MigRec} : (s.keepRoom src rs).storesOk := (hs.keep.ite hs).send

theorem State.storesOk.takeRow (hs : s.storesOk) {t : TableDecl} {r : MigRec} {b : List Byte} : (s.takeRow t r b).storesOk :=
  (hs.placeRow.setDir.write.write.write.ite hs.placeRow.setDir.write).keep

theorem State.storesOk.install (hs : s.storesOk) {r : MigRec} : (s.install r).storesOk := hs.ite hs.keep.installEntry

theorem State.storesOk.landRow (hs : s.storesOk) {src : Nat} {r : MigRec} {b : List Byte} : (s.landRow src r b).storesOk := by
  unfold State.landRow
  split
  · exact hs
  · exact hs.takeRow.keep.ite hs.takeRow.keep.keep.copyBoundary

theorem State.storesOk.undoFrom (hs : s.storesOk) {owners : List Nat} : (s.undoFrom owners).storesOk :=
  ((hs.foldl (fun _ _ h => h.forgetRow)).foldl (fun _ _ h => h.keep)).keep

theorem State.storesOk.sendRefresh (hs : s.storesOk) {dsts drop keys : List Nat} : (s.sendRefresh dsts drop keys).storesOk :=
  (hs.foldl (fun _ _ h => h.sendMsgs)).keep.count

theorem State.storesOk.refreshEddy (hs : s.storesOk) : s.refreshEddy.storesOk := hs.sendRefresh.keep
theorem State.storesOk.tryInstalled (hs : s.storesOk) {old : Nat} : (s.tryInstalled old).storesOk := (hs.keep.refreshEddy.ite hs.keep).finishCopies.ite hs

theorem State.storesOk.endMigrate (hs : s.storesOk) : s.endMigrate.storesOk := by
  unfold State.endMigrate
  split
  · exact hs
  · exact hs.copyWith

theorem State.storesOk.installMap (hs : s.storesOk) {m : Msg} : (s.installMap m).storesOk := by
  unfold State.installMap
  dsimp only
  split
  · exact (hs.foldl (fun _ _ h => h.install)).tryInstalled
  · exact hs.keep.tryInstalled
  · exact hs.keepRoom
  · exact hs.undoFrom
  · exact hs.keep

theorem State.storesOk.turn (hs : s.storesOk) {a : Act} : (s.turn a).storesOk := by
  unfold State.turn
  split
  · exact hs.takeOff.turnIngest
  · exact hs.turnMigrate
  · exact hs.takeOff.turnReplace

theorem State.storesOk.applyDue (hs : s.storesOk) {n : Nat} : (s.applyDue n).storesOk := by
  induction n generalizing s with
  | zero => exact hs
  | succ n ih =>
    unfold State.applyDue
    split
    · exact hs
    · split
      · exact hs
      · exact hs.ite (ih hs.turn)

theorem State.storesOk.roomAnswered (hs : s.storesOk) {src : Nat} {ok : Bool} : (s.roomAnswered src ok).storesOk := by
  unfold State.roomAnswered
  split
  · exact hs
  · exact hs.ite (hs.keep.ite (hs.keep.keep.freeRoom.ite (hs.keep.keep.freeRoom.takeOff.refuseAct.applyDue.tryBegin.ite hs.keep.keep.startMoves)))

theorem State.storesOk.moveAnswered (hs : s.storesOk) {m : Msg} : (s.moveAnswered m).storesOk := by
  unfold State.moveAnswered
  split
  · exact hs.roomAnswered
  · exact (hs.keep.sendEntries.ite hs.keep).ite hs
  · exact (hs.keep.endMigrate.ite hs.keep).ite hs

theorem migrateMapInstall_storesOk (hs : s.storesOk) {m : Msg} : (migrateMapInstall m s).storesOk :=
  hs.ite ((hs.ite (hs.took.foldl (fun _ _ h => h.landRow.ite h))).ite ((hs.took.moveAnswered.ite (hs.took.installMap.ite hs.took.tellSpare.installMap)).ite
    hs))

theorem State.storesOk.applyIdle (hs : s.storesOk) : s.applyIdle.storesOk := hs.applyDue.ite hs
theorem State.storesOk.queueAct (hs : s.storesOk) {d : List Byte} {a : Act} : (s.queueAct d a).storesOk := hs.complete.ite hs.keep.applyIdle

theorem ingest_storesOk (hs : s.storesOk) {ring : Nat} {host : List Byte} : (ingest ring host s).storesOk := hs.command fun _ _ h => by
  split
  · exact h.complete
  · exact h.queueAct

theorem migrate_storesOk (hs : s.storesOk) {ring : Nat} {host : List Byte} : (migrate ring host s).storesOk := hs.command fun _ _ h => by
  split
  · exact h.complete
  · exact h.queueAct

theorem tableReplace_storesOk (hs : s.storesOk) {ring : Nat} : (tableReplace ring s).storesOk :=
  hs.command fun s d h => by
    dsimp only
    split
    · exact h.complete
    · refine h.complete.ite (h.complete.ite (h.complete.ite ?_))
      split
      · exact h.stageAct.queueAct
      · exact h.queueAct

theorem State.storesOk.compactNow (hs : s.storesOk) {n : Nat} : (s.compactNow n).storesOk := by
  unfold State.compactNow
  split
  · exact hs
  · exact hs.compact.ite hs.compact.keep.copyBoundary

theorem boundaryWindow_storesOk (hs : s.storesOk) {relocations : Nat} : (boundaryWindow relocations s).storesOk :=
  hs.ite (hs.applyDue.ite ((hs.applyDue.ite hs.applyDue.compactNow.refreshEddy.keep.tryBegin).ite hs.applyDue.tryBegin))

theorem compactionBudgetExpired_storesOk (hs : s.storesOk) : (compactionBudgetExpired s).storesOk := hs.keep.ite hs

theorem State.storesOk.takeRefresh (hs : s.storesOk) {src fuel : Nat} {b : List Byte} : (s.takeRefresh src fuel b).storesOk := by
  induction fuel generalizing s b with
  | zero => exact hs
  | succ fuel ih =>
    unfold State.takeRefresh
    split
    · exact hs
    · dsimp only
      split
      · exact hs
      · exact ih hs.keep

theorem State.storesOk.dropRows (hs : s.storesOk) {recs : List (List Byte)} : (s.dropRows recs).storesOk := hs.foldl (fun _ _ h => h.keep.count.ite h)

theorem eddyRefreshRecord_storesOk (hs : s.storesOk) {m : Msg} : (eddyRefreshRecord m s).storesOk := by
  unfold eddyRefreshRecord
  split
  · exact hs
  · split
    · next t ht => exact (hs.took.batchIn.snd ht)
    · next _ t ht => exact (hs.took.batchIn.snd ht).dropRows.takeRefresh.keep.send.tryBegin

theorem eddyRefreshAck_storesOk (hs : s.storesOk) {m : Msg} : (eddyRefreshAck m s).storesOk := hs.ite (hs.took.sendRefresh.ite hs.took.keep.finishCopies)

/-! ### Record -/

theorem State.storesOk.setValid (hs : s.storesOk) {i : Nat} {v : Bool} : (s.setValid i v).storesOk := hs.write
theorem State.storesOk.trimRecords (hs : s.storesOk) {step : Nat} : (s.trimRecords step).storesOk := (hs.foldl (fun _ _ h => h.setValid)).keep
theorem State.storesOk.storeRecord (hs : s.storesOk) {step : Nat} {b : List Byte} : (s.storeRecord step b).storesOk := hs.write.write.keep

theorem State.storesOk.reapply (hs : s.storesOk) {a : Act} : (s.reapply a).1.storesOk := by
  unfold State.reapply
  split
  · split
    · next hr => exact hs.applyIngest hr
    · exact hs
  · exact hs.sendMoves.leaveRows.count
  · dsimp only
    split
    · exact hs
    · refine State.storesOk.putRows ?_
      split
      · exact hs.stageAct
      · exact hs

theorem State.storesOk.applyBoundary (hs : s.storesOk) {r : RecView} : (s.applyBoundary r).1.storesOk := hs.foldlFst fun _ _ h => h.reapply.keep

theorem State.storesOk.applyDeltas (hs : s.storesOk) {rs : List Region} {fuel : Nat} {b : List Byte} : (s.applyDeltas rs fuel b).1.storesOk := by
  induction fuel generalizing s b with
  | zero => exact hs
  | succ fuel ih =>
    unfold State.applyDeltas
    split
    · exact hs
    · dsimp only
      split
      · exact hs
      · exact ih hs.write

theorem retentionRecordWritten_storesOk (hs : s.storesOk) {step : Nat} {bad : Option FlashBlocks} : (retentionRecordWritten step bad s).storesOk := by
  unfold retentionRecordWritten
  split
  · split
    · exact hs
    · exact hs.setValid.keep.tryPrepared.badBlocks
  · exact hs

/-! ### Step Flow -/

theorem State.storesOk.takeStep (hs : s.storesOk) {r : StepRun} : (s.takeStep r).storesOk := hs.keep.startRunning.tryBegin

theorem State.storesOk.startStep (hs : s.storesOk) {w : WaitingStep} : (s.startStep w).storesOk := by
  unfold State.startStep
  split
  · exact hs
  · exact hs.complete.ite (hs.complete.ite hs.takeStep)

theorem State.storesOk.nextSteps (hs : s.storesOk) {n : Nat} : (s.nextSteps n).storesOk := by
  induction n generalizing s with
  | zero => exact hs
  | succ n ih =>
    unfold State.nextSteps
    split
    · exact ih hs.keep.startStep
    · exact hs

theorem State.storesOk.followOn (hs : s.storesOk) : s.followOn.storesOk := hs.nextSteps
theorem runStep_storesOk (hs : s.storesOk) {ring : Nat} {host : List Byte} : (runStep ring host s).storesOk := hs.command (fun _ _ h => h.keep.followOn)
theorem State.storesOk.clearExchange (hs : s.storesOk) : s.clearExchange.storesOk := hs.keep
theorem State.storesOk.openExchange (hs : s.storesOk) : s.openExchange.storesOk := hs.clearExchange.keep

theorem State.storesOk.enterPhase (hs : s.storesOk) {p : Phase} {code : Nat} {w : Option WaitPoint} : (s.enterPhase p code w).storesOk :=
  hs.keep.keep.startTasks

theorem State.storesOk.capture (hs : s.storesOk) {phase : Nat} : (s.capture phase).storesOk := by
  unfold State.capture
  split
  · exact hs
  · exact hs.foldl (fun _ _ h => h.write)

theorem State.storesOk.recallLedger (hs : s.storesOk) {a : Nat} : (s.recallLedger a).storesOk := by
  unfold State.recallLedger
  split
  · exact hs
  · exact hs.write.write

theorem State.storesOk.beginSample (hs : s.storesOk) {v : Nat} : (s.beginSample v).storesOk := by
  unfold State.beginSample
  split
  · exact hs
  · split
    · exact hs
    · dsimp only
      split
      · exact ((hs.closeWindow.ite hs.closeWindow.trimRecords).ite
          (hs.closeWindow.ite hs.closeWindow.trimRecords).count).keep.openExchange.recallLedger.capture.enterPhase
      · split
        · exact ((hs.closeWindow.ite hs.closeWindow.trimRecords).ite (hs.closeWindow.ite hs.closeWindow.trimRecords).count).keep.openExchange.transient
        · exact ((hs.closeWindow.ite hs.closeWindow.trimRecords).ite (hs.closeWindow.ite hs.closeWindow.trimRecords).count).keep.openExchange.stepFault
        · exact ((hs.closeWindow.ite hs.closeWindow.trimRecords).ite (hs.closeWindow.ite hs.closeWindow.trimRecords).count).keep.openExchange.stepFault
        · exact ((hs.closeWindow.ite hs.closeWindow.trimRecords).ite (hs.closeWindow.ite hs.closeWindow.trimRecords).count).keep.openExchange.startTasks

theorem barrierStepStart_storesOk (hs : s.storesOk) {m : Msg} : (barrierStepStart m s).storesOk := by
  unfold barrierStepStart
  split
  · next _ t ht => exact (hs.barrierIn.snd ht).beginSample
  · next t ht => exact (hs.barrierIn.snd ht)

theorem State.storesOk.startMirror (hs : s.storesOk) : s.startMirror.storesOk := hs.writeUndo.stream.keep.tryPrepared

theorem State.storesOk.stepPhaseEnd (hs : s.storesOk) : s.stepPhaseEnd.storesOk := by
  unfold State.stepPhaseEnd
  split
  · exact hs
  · split
    · exact hs
    · split
      · exact hs.capture.enterPhase.ite hs
      · exact hs.capture.enterPhase.ite hs
      · exact hs.ite hs.capture.enterPhase
      · exact hs.ite hs.capture.enterPhase.sendContributions.reduceCheck
      · exact hs.reduceCheck
      · exact hs.capture.startMirror
      · exact hs

theorem phaseEnd_storesOk (hs : s.storesOk) : (phaseEnd s).storesOk := hs.stepPhaseEnd.evalPhaseEnd.ite hs
theorem State.storesOk.closeStep (hs : s.storesOk) : s.closeStep.storesOk := hs.dropWork.keep.clearExchange

theorem State.storesOk.keepRecord (hs : s.storesOk) {r : StepRun} {skipped : Bool} {deltas : List Byte} : (s.keepRecord r skipped deltas).storesOk :=
  hs.ite hs.storeRecord

theorem State.storesOk.completeStep (hs : s.storesOk) {r : StepRun} {step : Nat} {skipped mism : Bool} : (s.completeStep r step skipped mism).storesOk :=
  (hs.count.ite hs).complete

theorem State.storesOk.commitPoint (hs : s.storesOk) : s.commitPoint.storesOk := by
  unfold State.commitPoint
  split
  · exact hs
  · exact hs.ite hs.keepRecord.committedValues.keep.applyPending.closeStep.completeStep.followOn

theorem State.storesOk.skipPoint (hs : s.storesOk) : s.skipPoint.storesOk := by
  unfold State.skipPoint
  split
  · exact hs
  · exact (hs.keepRecord.skippedValues.keep.closeStep.completeStep.ite hs.keepRecord.skippedValues.keep.closeStep.completeStep.copyBoundary).followOn

theorem barrierFinite_storesOk (hs : s.storesOk) {m : Msg} : (barrierFinite m s).storesOk := by
  unfold barrierFinite
  split
  · next _ t ht => exact ((hs.barrierIn.snd ht).capture.enterPhase.ite (hs.barrierIn.snd ht).capture.skipPoint).ite (hs.barrierIn.snd ht)
  · next t ht => exact (hs.barrierIn.snd ht)

theorem barrierCommit_storesOk (hs : s.storesOk) {m : Msg} : (barrierCommit m s).storesOk := by
  unfold barrierCommit
  split
  · next _ t ht => exact (hs.barrierIn.snd ht).commitPoint
  · next t ht => exact (hs.barrierIn.snd ht)

theorem barrierProgram_storesOk (hs : s.storesOk) {m : Msg} : (barrierProgram m s).storesOk := by
  unfold barrierProgram
  split
  · exact hs.took.keep.arrive.ite hs
  · split
    · next _ t ht => exact (hs.barrierIn.snd ht).keep
    · next t ht => exact (hs.barrierIn.snd ht)

/-! ### Recovery -/

theorem State.storesOk.answerControl (hs : s.storesOk) {m : Msg} : (s.answerControl m).storesOk := hs.send
theorem State.storesOk.dropArrivals (hs : s.storesOk) {attempt : Nat} : (s.dropArrivals attempt).storesOk := hs.foldl (fun _ _ h => h.setBarrier)
theorem State.storesOk.writeBack (hs : s.storesOk) : s.writeBack.storesOk := hs.foldl (fun _ _ h => h.write)

theorem State.storesOk.restoreRetained (hs : s.storesOk) {attempt : Nat} : (s.restoreRetained attempt).storesOk :=
  hs.dropWork.writeBack.dropArrivals.clearExchange.dropPending.keep

theorem State.storesOk.postRecovery (hs : s.storesOk) {step attempt cls cause reporter : Nat} : (s.postRecovery step attempt cls cause reporter).storesOk :=
  hs.post

theorem State.storesOk.nextTry (hs : s.storesOk) {r : StepRun} : (s.nextTry r).storesOk := hs.keep

theorem State.storesOk.spareAborts (hs : s.storesOk) {step attempt cls cause reporter : Nat} : (s.spareAborts step attempt cls cause reporter).storesOk :=
  hs.ite hs.keep.postRecovery

theorem State.storesOk.spareDrops (hs : s.storesOk) {step attempt : Nat} : (s.spareDrops step attempt).storesOk := hs.ite hs.keep

theorem abort_storesOk (hs : s.storesOk) {m : Msg} {cls cause reporter : Nat} : (abort m cls cause reporter s).storesOk := by
  unfold abort
  split
  · exact hs
  · dsimp only
    split
    · exact hs.took.count.tellSpare.spareAborts.answerControl
    · exact hs.took.count.tellSpare.restoreRetained.postRecovery.answerControl.nextTry.tryBegin.ite hs.took.count.tellSpare.answerControl

theorem State.storesOk.dropStep (hs : s.storesOk) {r : StepRun} {last : Option (Nat × Nat)} {c : Cpl} : (s.dropStep r last c).storesOk :=
  hs.keep.complete.applyIdle.followOn

theorem abortFinal_storesOk (hs : s.storesOk) {m : Msg} : (abortFinal m s).storesOk := by
  unfold abortFinal
  split
  · exact hs
  · dsimp only
    split
    · exact hs.took.count.tellSpare.spareDrops.answerControl
    · exact hs.took.count.tellSpare.restoreRetained.answerControl.dropStep.ite hs.took.count.tellSpare.answerControl

theorem State.storesOk.sendSubstitute (hs : s.storesOk) {rank pos : Nat} : (s.sendSubstitute rank pos).storesOk := hs.sendAll.keep.sendAway.keep
theorem State.storesOk.sendFallback (hs : s.storesOk) : s.sendFallback.storesOk := hs.sendAll

theorem State.storesOk.coverLoss (hs : s.storesOk) {v : Survey} {rank : Nat} : (s.coverLoss v rank).storesOk := by
  unfold State.coverLoss
  split
  · exact hs.sendSubstitute
  · exact hs.sendFallback

theorem State.storesOk.tellAbort (hs : s.storesOk) {attempt code : Nat} : (s.tellAbort attempt code).storesOk := hs.keep.sendAll

theorem State.storesOk.sendAbort (hs : s.storesOk) {x : Report} {final : Bool} : (s.sendAbort x final).storesOk := by
  unfold State.sendAbort
  split
  · exact hs.tellAbort.ite hs
  · exact hs.ite hs.tellAbort

theorem State.storesOk.markLost (hs : s.storesOk) {q : Nat} : (s.markLost q).storesOk := hs.ite hs.keep
theorem State.storesOk.sendSpare (hs : s.storesOk) {pos : Nat} {m : Msg} : (s.sendSpare pos m).storesOk := hs.keep.send.keep
theorem State.storesOk.probe (hs : s.storesOk) {pos : Nat} : (s.probe pos).storesOk := hs.ite (hs.keep.send.ite (hs.keep.sendSpare.ite hs))

theorem State.storesOk.readingRecovery (hs : s.storesOk) {f : State → State} (hf : ∀ s, s.storesOk → (f s).storesOk) :
    (s.readingRecovery f).storesOk := hs.reading hf

theorem State.storesOk.act (hs : s.storesOk) {v : Survey} {x : Report} : (s.act v x).storesOk := hs.readingRecovery fun _ h => by
  split
  · exact h.sendAbort
  · exact h.sendAbort
  · dsimp only
    split
    · exact h.sendAbort.sendFallback
    · split
      · split
        · exact h.sendAbort
        · exact h.sendAbort.markLost.coverLoss
      · split
        · exact h.sendAbort.coverLoss.ite h.sendAbort.probe
        · exact h.sendAbort.probe
  · exact h

theorem State.storesOk.noteLost (hs : s.storesOk) {v : Survey} {x : Report} : (s.noteLost v x).storesOk := by
  unfold State.noteLost
  split
  · split
    · exact hs.markLost
    · exact hs.keep
  · exact hs

theorem failureReport_storesOk (hs : s.storesOk) {m : Msg} {v : Survey} : (failureReport m v s).storesOk :=
  hs.ite (hs.took.ite ((hs.took.keep.noteLost.sendAll.formFloor.ite hs.took.keep.noteLost).ite ((hs.took.keep.noteLost.sendAll.formFloor.ite
    hs.took.keep.noteLost).act.ite ((hs.took.keep.noteLost.sendAll.formFloor.ite hs.took.keep.noteLost).foldl (fun _ _ h => h.act)))))

theorem probe_storesOk (hs : s.storesOk) {m : Msg} : (probe m s).storesOk := hs.took.answerControl.ite hs
theorem recoveryAck_storesOk (hs : s.storesOk) {m : Msg} : (recoveryAck m s).storesOk := hs.took.keep.ite hs

theorem probeTimeout_storesOk (hs : s.storesOk) {rank : Nat} {v : Survey} : (probeTimeout rank v s).storesOk :=
  ((hs.readingRecovery (fun _ h => h.markLost.coverLoss)).ite hs.keep.sendAll.spareGone).ite hs

theorem State.storesOk.installRank (hs : s.storesOk) {rank pos : Nat} : (s.installRank rank pos).storesOk := hs.keep

theorem State.storesOk.postSubstituted (hs : s.storesOk) {rank old pos committed step : Nat} : (s.postSubstituted rank old pos committed step).storesOk :=
  hs.post

theorem State.storesOk.undoMigrations (hs : s.storesOk) {rank : Nat} : (s.undoMigrations rank).storesOk := hs.undoFrom
theorem State.storesOk.undoMine (hs : s.storesOk) {a : Act} : (s.undoMine a).storesOk := hs.takeOff.keep.freeRoom.complete

theorem State.storesOk.settleMigrate (hs : s.storesOk) {rank : Nat} : (s.settleMigrate rank).storesOk := by
  unfold State.settleMigrate
  split
  · exact hs
  · exact hs.undoMine.ite (hs.keep.endMigrate.ite hs.keep)

theorem State.storesOk.handOver (hs : s.storesOk) {rank : Nat} {planned : Bool} : (s.handOver rank planned).storesOk := by
  unfold State.handOver
  dsimp only
  split
  · exact hs
  · exact (hs.storeCarried.ite (hs.storeCarried.count.foldl (fun _ _ h => h.send))).keep.sendPart.ite ((hs.storeCarried.ite (hs.storeCarried.count.foldl
      (fun _ _ h => h.send))).keep.foldl (fun _ _ h => h.send))

theorem State.storesOk.dropReplicas (hs : s.storesOk) {rank : Nat} : (s.dropReplicas rank).storesOk := hs.ite hs.keep.count

theorem State.storesOk.memberSubstitutes (hs : s.storesOk) {rank : Nat} {planned : Bool} : (s.memberSubstitutes rank planned).storesOk :=
  hs.ite hs.undoMigrations.settleMigrate.dropReplicas.handOver

theorem State.storesOk.placeRank (hs : s.storesOk) {rank : Nat} : (s.placeRank rank).storesOk := by
  unfold State.placeRank
  split
  · exact hs
  · exact hs.keep.write

theorem State.storesOk.takeRank (hs : s.storesOk) {rank step attempt committed : Nat} : (s.takeRank rank step attempt committed).storesOk :=
  hs.undoMigrations.placeRank.keep.clearMirrors.keep.foldl (fun _ _ h => h.askPull)

theorem substitute_storesOk (hs : s.storesOk) {m : Msg} : (substitute m s).storesOk :=
  hs.ite (hs.took.halt.ite (hs.ite (hs.took.answerControl.ite ((hs.took.tellSpare.ite hs.took).installRank.count.takeRank.ite (hs.took.tellSpare.ite
    hs.took).installRank.count.memberSubstitutes.remindHash).postSubstituted.answerControl.formFloor.retryUnrouted.tryBegin)))

theorem State.storesOk.endWaiting (hs : s.storesOk) : s.endWaiting.storesOk := by
  unfold State.endWaiting
  dsimp only
  split
  · exact hs.undoFrom.keep.foldl fun _ _ h => h.complete
  · exact hs.undoMine.undoFrom.keep.foldl fun _ _ h => h.complete

theorem fallback_storesOk (hs : s.storesOk) {m : Msg} : (fallback m s).storesOk := by
  unfold fallback
  refine hs.ite (State.storesOk.answerControl (State.storesOk.endWaiting (State.storesOk.foldl ?_ fun _ _ h => h.endEval)))
  split
  · exact hs.took.tellSpare.count.keep.setBarrier
  · exact hs.took.tellSpare.count.keep.setBarrier.restoreRetained.dropStep

theorem State.storesOk.leaveMachine (hs : s.storesOk) {ring : Nat} : (s.leaveMachine ring).storesOk := hs.complete.enter.keep

theorem State.storesOk.handRank (hs : s.storesOk) {rank pos : Nat} : (s.handRank rank pos).storesOk :=
  hs.sendSubstitute.keep.foldl (fun _ _ h => h.count.foldl (fun _ _ h' => h'.sendAway))

theorem quiesce_storesOk (hs : s.storesOk) {ring : Nat} {v : Survey} : (quiesce ring v s).storesOk := hs.command fun _ _ h => by
  split
  · exact (h.sendAll.ite h).leaveMachine
  · exact h.readingRecovery fun _ h' => by
      split
      · exact h'.complete
      · exact h'.handRank.leaveMachine

/-! ### Memory Tiers -/

theorem State.storesOk.askPiece (hs : s.storesOk) {o n : Nat} : (s.askPiece o n).storesOk := by
  unfold State.askPiece
  dsimp only
  split
  · exact hs
  · exact hs.keep.send

theorem State.storesOk.rebuildPlain (hs : s.storesOk) {a n : Nat} : (s.rebuildPlain a n).storesOk := hs.takeFree.write
theorem State.storesOk.rebuild (hs : s.storesOk) {a n : Nat} : (s.rebuild a n).storesOk := hs.rebuildPlain.ite (hs.ite (hs.foldl (fun _ _ h => h.askPiece)))

theorem State.storesOk.testRead (hs : s.storesOk) {r : RawWords} : (s.testRead r).2.storesOk := by
  unfold State.testRead
  dsimp only
  split
  · exact hs.readBurst
  · exact hs.readBurst.count

theorem State.storesOk.testReads (hs : s.storesOk) {l : List RawWords} : (s.testReads l).2.storesOk := by
  induction l generalizing s with
  | nil => exact hs
  | cons r l ih => exact ih hs.testRead

theorem State.storesOk.retirePage (hs : s.storesOk) {a : Nat} {source : Bool} {copies : List RawWords} : (s.retirePage a source copies).storesOk := by
  unfold State.retirePage
  dsimp only
  split
  · exact hs.tierFault
  · exact hs.keep.count.testReads.foldl (fun _ _ h => h.rebuild)

theorem State.storesOk.failedBurst (hs : s.storesOk) {a : Nat} {inStep source : Bool} {tests : Retest} : (s.failedBurst a inStep source tests).storesOk :=
  hs.count.testReads.keep.count.ite hs.count.testReads.retirePage

theorem State.storesOk.failedWord (hs : s.storesOk) {a : Nat} {source : Bool} {counter : Nat} {t : Tier} : (s.failedWord a source counter t).storesOk :=
  hs.count.tierFault.ite (hs.count.keep.ite hs.count.keep.rebuild)

theorem State.storesOk.failedPage (hs : s.storesOk) {a : Nat} : (s.failedPage a).storesOk := hs.ite hs.keep.count

theorem State.storesOk.failedRead (hs : s.storesOk) {a : Nat} {inStep source : Bool} {tests : Retest} : (s.failedRead a inStep source tests).storesOk := by
  unfold State.failedRead
  split
  · exact hs.failedBurst
  · exact hs.failedBurst
  · exact hs.failedWord
  · exact hs.failedWord
  · exact hs.failedWord
  · exact hs.failedWord
  · exact hs.failedWord
  · exact hs.failedPage
  · exact hs

theorem State.storesOk.dropNext (hs : s.storesOk) {tag : Nat} : (s.dropNext tag).storesOk := by
  unfold State.dropNext
  split
  · exact hs
  · exact hs.command (fun _ _ h => h.complete)

theorem State.storesOk.dropAct (hs : s.storesOk) {tag : Nat} : (s.dropAct tag).storesOk := by
  unfold State.dropAct
  split
  · exact hs.dropNext
  · exact hs.keep.freeSlots.restage.complete

theorem State.storesOk.failCommand (hs : s.storesOk) {ring : Nat} : (s.failCommand ring).storesOk := by
  unfold State.failCommand
  split
  · split
    · exact hs
    · exact (hs.command (fun _ _ h => h.complete)).ite hs
  · split
    · exact hs
    · dsimp only
      split
      · exact hs.endEval
      · exact hs.restoreRetained.dropStep.ite hs.complete
      · exact hs.complete

theorem State.storesOk.readOutcome (hs : s.storesOk) {a : Nat} {why : ReadFor} : (s.readOutcome a why).storesOk := by
  unfold State.readOutcome
  split
  · exact hs.transient
  · exact hs.report.ite hs
  · exact hs.dropAct
  · exact hs.failCommand
  · exact hs.transient.ite hs

theorem State.storesOk.lostRead (hs : s.storesOk) {r : RawRead} {why : ReadFor} : (s.lostRead r why).storesOk := hs.failedRead.readOutcome.ite hs.failedRead

theorem State.storesOk.checkedRead (hs : s.storesOk) {r : RawRead} {why : ReadFor} : (s.checkedRead r why).2.storesOk := by
  have h : (if s.placeOf r.addr = .flash then (false, s) else s.rawRead r.toRawWords).2.storesOk := State.storesOk.iteSnd hs hs.rawRead
  exact State.storesOk.iteSnd h h.lostRead

theorem State.storesOk.checkedReads (hs : s.storesOk) {why : ReadFor} {l : List RawRead} : (s.checkedReads why l).2.storesOk := by
  induction l generalizing s with
  | nil => exact hs
  | cons r l ih =>
    unfold State.checkedReads
    dsimp only
    split
    · exact ih hs.checkedRead
    · exact hs.checkedRead

theorem uncorrectableRead_storesOk (hs : s.storesOk) {r : RawRead} {why : ReadFor} : (uncorrectableRead r why s).storesOk := hs.checkedRead.ite hs

theorem gather_storesOk (hs : s.storesOk) {core : Nat} {errs : List RawRead} : (gather core errs s).storesOk :=
  hs.quarry fun _ _ h => h.checkedReads

theorem sampleReqRead_storesOk (hs : s.storesOk) {m : Msg} {spec : Nat} {errs : List RawRead} : (sampleReqRead m spec errs s).storesOk :=
  sampleReq_storesOk hs fun _ _ h => h.checkedReads

theorem patrolScrub_storesOk (hs : s.storesOk) {r : RawRead} {passEnds stepData : Bool} : (patrolScrub r passEnds stepData s).storesOk := by
  unfold patrolScrub
  refine hs.ite (hs.parityHalt.ite (hs.ite ?_))
  dsimp only
  refine State.storesOk.ite (State.storesOk.keep ?_) ?_
  all_goals
    split
    · exact hs.checkedRead
    · exact hs.checkedRead
    · exact hs.checkedRead
    · exact hs

theorem flashGarbageCollection_storesOk (hs : s.storesOk) {freeBlocks : Nat} {f : FlashBlocks} : (flashGarbageCollection freeBlocks f s).storesOk :=
  hs.flashBlocks.ite hs

theorem wearLevelling_storesOk (hs : s.storesOk) {peMax peAvg : Nat} {f : FlashBlocks} : (wearLevelling peMax peAvg f s).storesOk :=
  hs.keep.setCounter.flashBlocks.ite hs

theorem readDisturbRefresh_storesOk (hs : s.storesOk) {reads : Nat} {f : FlashBlocks} : (readDisturbRefresh reads f s).storesOk := hs.flashBlocks.ite hs
theorem flashControllerTimeout_storesOk (hs : s.storesOk) : (flashControllerTimeout s).storesOk := hs.tierFault
theorem interfaceLockLoss_storesOk (hs : s.storesOk) {pc : Nat} : (interfaceLockLoss pc s).storesOk := hs.tierFault.ite hs
theorem dramLinkTrainingLoss_storesOk (hs : s.storesOk) : (dramLinkTrainingLoss s).storesOk := hs.tierFault

/-! ### Loader -/

theorem State.storesOk.sendVerdict (hs : s.storesOk) {hash : W256} {ok : Bool} : (s.sendVerdict hash ok).storesOk := hs.sendAll
theorem State.storesOk.placeRows (hs : s.storesOk) {t : Nat} {td : TableDecl} : (s.placeRows t td).storesOk := hs.foldl (fun _ _ h => h.write)

theorem State.storesOk.placeState (hs : s.storesOk) : s.placeState.storesOk :=
  ((((hs.foldl (fun _ _ h => h.write)).foldl (fun _ _ h => h.placeRows.ite h)).foldl (fun _ _ h => h.keep)).foldl (fun _ _ h => h.write)).foldl (fun _ _ h =>
    (h.foldl (fun _ _ h' => h'.write)).ite h)

theorem State.storesOk.deriveWork (hs : s.storesOk) : s.deriveWork.storesOk :=
  (hs.foldl (fun _ _ h => h.write.write.write)).foldl (fun _ _ h => (h.foldl (fun _ _ h' => h'.write)).ite h)

theorem State.storesOk.clearRing (hs : s.storesOk) : s.clearRing.storesOk := hs.foldl (fun _ _ h => h.setValid)
theorem State.storesOk.dropOwnArrivals (hs : s.storesOk) : s.dropOwnArrivals.storesOk := hs.foldl (fun _ _ h => h.setBarrier)
theorem State.storesOk.installProgram (hs : s.storesOk) {p : Program} : (s.installProgram p).storesOk := hs.clearRing.dropOwnArrivals.keep.clearRing
theorem State.storesOk.putAll (hs : s.storesOk) {l : List (Nat × List Byte)} : (s.putAll l).storesOk := hs.foldl (fun _ _ h => h.write)

theorem State.storesOk.finishLoad (hs : s.storesOk) {w : LoadWait} : (s.finishLoad w).storesOk :=
  (hs.installProgram.keep.ite hs.installProgram).putAll.copyBoundary.ite (hs.installProgram.keep.ite
    hs.installProgram).clearMirrors.placeState.putAll.deriveWork.restage.copyBoundary

theorem State.storesOk.failLoad (hs : s.storesOk) {ring : Nat} : (s.failLoad ring).storesOk := hs.keep.complete

theorem State.storesOk.tryLoad (hs : s.storesOk) : s.tryLoad.storesOk := by
  unfold State.tryLoad
  split
  · exact hs
  · exact hs.failLoad.ite (hs.finishLoad.ite hs)

theorem loadProgram_storesOk (hs : s.storesOk) {ring : Nat} {host : List Byte} {decl : Option Decl} {place : Placement} {inits : InitWrites} {spares : List
    (Nat × Placement)} :
    (loadProgram ring host decl place inits spares s).storesOk := hs.command fun _ _ h => by
  split
  · exact h.complete
  · split
    · exact h.sendVerdict.complete
    · exact h.complete
    · exact h.sendVerdict.complete.ite h.sendVerdict.keep.tryLoad

theorem loadVerdict_storesOk (hs : s.storesOk) {m : Msg} : (loadVerdict m s).storesOk :=
  hs.ite (hs.took.keep.tryLoad.ite (hs.took.keep.send.ite hs.took.keep))

theorem State.storesOk.startTimeout (hs : s.storesOk) : s.startTimeout.storesOk := by
  unfold State.startTimeout
  split
  · exact hs
  · exact hs.setBarrier.dropStep

theorem State.storesOk.windowTimeout (hs : s.storesOk) : s.windowTimeout.storesOk := hs.foldl (fun _ _ h => h.endEval)

theorem State.storesOk.expire (hs : s.storesOk) {w : WaitPoint} : (s.expire w).storesOk := by
  unfold State.expire
  split
  · exact hs.windowTimeout.startTimeout
  · exact hs.windowTimeout
  · exact hs.elim fun _ => hs.failLoad
  all_goals exact hs.transient

theorem watchdogExpiry_storesOk (hs : s.storesOk) : (watchdogExpiry s).storesOk := by
  unfold watchdogExpiry
  split
  · exact hs.reading (fun _ h => h.keep.count.expire)
  · exact hs

/-! ### Commands -/

theorem mapTensor_storesOk (hs : s.storesOk) {ring : Nat} : (mapTensor ring s).storesOk := hs.command fun _ _ h => by
  split
  · exact h.complete
  · split
    · dsimp only
      split
      · exact h.complete
      · split
        · exact h.complete
        · next t ht => exact (h.writeBuffer ht).complete
    · exact h.complete

theorem State.storesOk.rewritten (hs : s.storesOk) {a n : Nat} : (s.rewritten a n).storesOk := hs.keep

theorem copy_storesOk (hs : s.storesOk) {ring : Nat} {host : List Byte} {bad : Option FlashBlocks} : (copy ring host bad s).storesOk :=
  hs.command fun _ _ h => by
  dsimp only
  split
  · exact h.complete
  · split
    · exact h.complete
    · split
      · exact h.complete
      · split
        · exact h.complete
        · split
          · exact h.write.rewritten.complete.badBlocks.ite h.write.rewritten.complete
          · split
            · exact h.complete
            · next t ht => exact (h.writeBuffer ht).complete

theorem checkpoint_storesOk (hs : s.storesOk) {ring : Nat} : (checkpoint ring s).storesOk :=
  hs.command (fun _ _ h => h.complete.ite (h.complete.ite (h.complete.ite h.startRunning.storeCarried.putBuffer.complete)))

theorem State.storesOk.movedTo (hs : s.storesOk) {step epoch : Nat} : (s.movedTo step epoch).storesOk := hs.keep
theorem State.storesOk.takeSeed (hs : s.storesOk) {g : List Byte} : (s.takeSeed g).storesOk := hs.keep
theorem State.storesOk.restore (hs : s.storesOk) {b : List Byte} : (s.restore b).storesOk := hs.putImage.loadCarried.movedTo.takeSeed.keep.copySlices

theorem restoreContext_storesOk (hs : s.storesOk) {ring : Nat} {host : List Byte} : (restoreContext ring host s).storesOk := hs.command fun _ _ h => by
  split
  · exact h.complete
  · split
    · exact h.complete
    · exact h.startRunning.restore.copyBoundary

/-! ### Matrix -/

theorem State.storesOk.setMc (hs : s.storesOk) {core : Nat} {m : McState} : (s.setMc core m).storesOk := hs.keep
theorem State.storesOk.reshape (hs : s.storesOk) {core shape : Nat} : (s.reshape core shape).storesOk := hs.ite hs.setMc.count

theorem State.storesOk.loadB (hs : s.storesOk) {core : Nat} {d : TileDesc} {paths : List (List Bool)} {chunks : List (Nat × Nat)} :
    (s.loadB core d paths chunks).2.storesOk := by
  unfold State.loadB
  dsimp only
  split
  · exact hs
  · exact (hs.count.ite hs).setMc.ite (hs.count.ite hs)

theorem State.storesOk.stores (hs : s.storesOk) {l : List (Nat × List Byte)} : (s.stores l).storesOk := hs.foldl (fun _ _ h => h.write)

theorem State.storesOk.recordTile (hs : s.storesOk) {q : QDesc} {d : TileDesc} {m : Nat} : (s.recordTile q d m).storesOk :=
  hs.elim fun _ => hs.recordMagnitude

theorem State.storesOk.runTile (hs : s.storesOk) {q : QDesc} {d : TileDesc} : (s.runTile q d).storesOk := by
  unfold State.runTile
  dsimp only
  split
  · exact (hs.reshape.loadB.count.count.ite hs.reshape.loadB.count.count.count.count.markRescaled).raise.failDesc
  · exact (hs.reshape.loadB.count.count.ite hs.reshape.loadB.count.count.count.count.markRescaled).raise.recordTile.stores.startDesc

theorem State.storesOk.tile (hs : s.storesOk) {core gang : Nat} {part : Bool} : (s.tile core gang part).storesOk := by
  unfold State.tile
  split
  · exact hs
  · dsimp only
    split
    · exact hs
    · split
      · exact hs.failDesc
      · exact hs.ite (hs.setMc.ite hs.runTile)

theorem tileComplete_storesOk (hs : s.storesOk) {core gang : Nat} : (tileComplete core gang s).storesOk := hs.count.finishDesc.ite hs

/-! ### Ports -/

theorem State.storesOk.lostMessage (hs : s.storesOk) {m : Msg} : (s.lostMessage m).storesOk :=
  (hs.ite hs.send).report.ite ((hs.ite hs.send).resend.ite (hs.ite hs.send))

theorem State.storesOk.forward (hs : s.storesOk) {m : Msg} : (s.forward m).storesOk := hs.count.lostMessage.ite hs.transmit

theorem State.storesOk.loseFlits (hs : s.storesOk) {p : Nat} : (s.loseFlits p).storesOk :=
  (hs.setPort.count.foldl (fun _ _ h => h.lostMessage)).foldl (fun _ _ h => h.forward)

theorem State.storesOk.portDown (hs : s.storesOk) {p : Nat} : (s.portDown p).storesOk := hs.setPort.keep.loseFlits.report
theorem State.storesOk.startTraining (hs : s.storesOk) {p : Nat} : (s.startTraining p).storesOk := hs.setPort

theorem portTrainingCheck_storesOk (hs : s.storesOk) {p : Nat} {copies : List (List Byte)} : (portTrainingCheck p copies s).storesOk := by
  unfold portTrainingCheck
  dsimp only
  refine State.storesOk.ite ?_ hs
  split
  · exact hs.setPort
  · split
    · exact hs.keep.setPort
    · exact hs.keep.setPort.ite (hs.keep.ite hs.keep.setPort.post)

theorem State.storesOk.heartbeatOn (hs : s.storesOk) {p : Nat} : (s.heartbeatOn p).storesOk := hs.setPort.pumpPort
theorem State.storesOk.setLanes (hs : s.storesOk) {p : Nat} {passing active : BitVec 24} : (s.setLanes p passing active).storesOk := hs.keep
theorem State.storesOk.adaptLanes (hs : s.storesOk) {p : Nat} : (s.adaptLanes p).storesOk := hs.foldl (fun _ _ h => h.takeFree.keep)
theorem State.storesOk.replayPort (hs : s.storesOk) {p : Nat} : (s.replayPort p).storesOk := hs.ite hs.count.onWire.idlePort

theorem portTrainingComplete_storesOk (hs : s.storesOk) {p : Nat} {r : LaneTest} : (portTrainingComplete p r s).storesOk :=
  (hs.setPort.ite (hs.setPort.setLanes.adaptLanes.replayPort.ite hs.setPort.setLanes.adaptLanes).heartbeatOn.retryUnrouted).ite hs

theorem portTrainingTimeout_storesOk (hs : s.storesOk) {p : Nat} : (portTrainingTimeout p s).storesOk := hs.setPort.ite hs
theorem portRetryTick_storesOk (hs : s.storesOk) {p : Nat} : (portRetryTick p s).storesOk := hs.startTraining.ite hs
theorem State.storesOk.retrain (hs : s.storesOk) {p : Nat} : (s.retrain p).storesOk := hs.setPort.startTraining.count
theorem retrainTimeout_storesOk (hs : s.storesOk) {p : Nat} : (retrainTimeout p s).storesOk := hs.portDown.ite hs

theorem laneDrop_storesOk (hs : s.storesOk) {p : Nat} {passing : BitVec 24} : (laneDrop p passing s).storesOk :=
  (hs.portDown.ite (hs.ite ((hs.setPort.setLanes.ite hs.setPort.setLanes.replayPort).ite (hs.setPort.setLanes.ite hs.setPort.setLanes.replayPort).post))).ite
    hs

theorem State.storesOk.flitReturns (hs : s.storesOk) {p : Nat} {f : List Byte} : (s.flitReturns p f).storesOk :=
  (hs.setPort.retrain.ite hs.setPort.setPort.replayPort).ite hs.setPort.pumpPort

theorem State.storesOk.drainPort (hs : s.storesOk) {p : Nat} : (s.drainPort p).storesOk := hs.setPort.ite hs

theorem State.storesOk.messageIn (hs : s.storesOk) {vc : Nat} {b : List Byte} : (s.messageIn vc b).storesOk := by
  unfold State.messageIn
  split
  · exact hs
  · exact (hs.deliverOwn.ite hs.stepFault).ite (((hs.keep.deliverOwn.ite hs.keep.count).ite hs.stepFault).ite ((hs.count.lostMessage.ite hs.forward).ite hs))

theorem State.storesOk.dataFlit (hs : s.storesOk) {p : Nat} {f : List Byte} : (s.dataFlit p f).storesOk := (hs.setPort.messageIn.ite hs.setPort).returnCredit
theorem State.storesOk.nakFlit (hs : s.storesOk) {p : Nat} : (s.nakFlit p).storesOk := hs.setPort.sendCtrl

theorem flitReceive_storesOk (hs : s.storesOk) {p : Nat} {f : List Byte} {corrected : Bool} : (flitReceive p f corrected s).storesOk :=
  (hs.nakFlit.ite ((hs.ite hs.nakFlit).ite (hs.flitReturns.dataFlit.ite hs.flitReturns).drainPort)).ite hs

theorem heartbeatTick_storesOk (hs : s.storesOk) : (heartbeatTick s).storesOk := (hs.foldl (fun _ _ h => h.heartbeatOn.ite h)).ite hs
theorem heartbeat_storesOk (hs : s.storesOk) {p : Nat} {m : Msg} : (heartbeat p m s).storesOk := hs.took.setPort.ite hs
theorem portSilenceTimeout_storesOk (hs : s.storesOk) {p : Nat} : (portSilenceTimeout p s).storesOk := hs.portDown.ite hs
theorem allPortsDownTimeout_storesOk (hs : s.storesOk) : (allPortsDownTimeout s).storesOk := hs.halt.ite hs

theorem lostMessageReport_storesOk (hs : s.storesOk) {dst vc id : Nat} {discarded : Bool} : (lostMessageReport dst vc id discarded s).storesOk :=
  ((hs.keep.transient.ite hs.keep).foldl (fun _ _ h => h.resend)).ite hs

theorem remoteWrite_storesOk (hs : s.storesOk) {m : Msg} : (remoteWrite m s).storesOk := (hs.took.write.layerArrives.ite hs.took.stepFault).ite hs
theorem remoteRead_storesOk (hs : s.storesOk) {m : Msg} : (remoteRead m s).storesOk := (hs.took.send.ite hs.took.stepFault).ite hs
theorem remoteReadReply_storesOk (hs : s.storesOk) {m : Msg} {dst : Nat} : (remoteReadReply m dst s).storesOk := (hs.took.write.ite hs.took.stepFault).ite hs
theorem State.storesOk.moveWaiting (hs : s.storesOk) {p : Nat} : (s.moveWaiting p).storesOk := hs.setPort.foldl (fun _ _ h => h.forward)
theorem State.storesOk.setPattern (hs : s.storesOk) {p : Nat} {v : W32} : (s.setPattern p v).storesOk := hs.foldl (fun _ _ h => h.indStore)

theorem diagPrbsTest_storesOk (hs : s.storesOk) {ring : Nat} : (diagPrbsTest ring s).storesOk :=
  hs.command (fun _ _ h => h.complete.ite (h.complete.ite (h.setPattern.setPattern.setPort.moveWaiting.drainPort.ite h.setPattern.setPattern.setPort)))

theorem State.storesOk.setLaneCounts (hs : s.storesOk) {p : Nat} {lanes : List LaneReading} : (s.setLaneCounts p lanes).storesOk :=
  hs.foldl (fun _ _ h => h.keep)

theorem diagTestEnd_storesOk (hs : s.storesOk) {p : Nat} {lanes : List LaneReading} : (diagTestEnd p lanes s).storesOk := by
  unfold diagTestEnd
  dsimp only
  split
  · split
    · split
      · have h := (hs.setLaneCounts (p := p) (lanes := lanes)).setPattern (p := p) (v := 0)
        split
        · next t ht =>
          refine State.storesOk.complete (State.storesOk.writeBuffer ?_ ht)
          exact h.setPort.startTraining.ite h.setPort
        · exact (h.setPort.startTraining.ite h.setPort).complete
      · exact hs
    · exact hs
  · exact hs

theorem diagMarginRead_storesOk (hs : s.storesOk) {ring : Nat} {lanes : List LaneReading} : (diagMarginRead ring lanes s).storesOk :=
  hs.command fun s d h => by
    dsimp only
    refine h.complete.ite ?_
    split
    · next t ht => exact (State.storesOk.writeBuffer (h.foldl fun _ _ h => h.keep) ht).complete
    · exact (h.foldl fun _ _ h => h.keep).complete

/-! ### Replay -/

theorem State.storesOk.takeOffsets (hs : s.storesOk) {r : RecView} : (s.takeOffsets r).storesOk := hs.keep

theorem State.storesOk.rollStep (hs : s.storesOk) {r : RecView} : (s.rollStep r).1.storesOk :=
  State.storesOk.movedTo (hs.applyBoundary.takeOffsets.applyDeltas.ite hs.applyBoundary.takeOffsets.applyDeltas.loadCarried)

theorem State.storesOk.rollAll (hs : s.storesOk) {rs : List RecView} : (s.rollAll rs).1.storesOk := hs.foldlFst fun _ _ h => h.rollStep
theorem State.storesOk.rollThrough (hs : s.storesOk) {r : RecView} : (s.rollThrough r).1.storesOk := hs.applyBoundary.takeOffsets.keep
theorem State.storesOk.endRoll (hs : s.storesOk) {ring n : Nat} {touched : List Region} : (s.endRoll ring n touched).storesOk := hs.copySlices.copyBoundary

theorem replayRoll_storesOk (hs : s.storesOk) {ring : Nat} : (replayRoll ring s).storesOk := hs.command fun _ _ h => by
  split
  · exact h.complete
  · exact h.startRunning.rollAll.endRoll

theorem replayRollThrough_storesOk (hs : s.storesOk) {ring : Nat} : (replayRollThrough ring s).storesOk := hs.command fun _ _ h => by
  split
  · exact h.complete
  · dsimp only
    split
    · exact h.startRunning.rollAll.endRoll
    · exact h.startRunning.rollAll.rollThrough.endRoll

theorem replayExec_storesOk (hs : s.storesOk) {ring : Nat} {host : List Byte} : (replayExec ring host s).storesOk := hs.command fun _ _ h => by
  split
  · exact h.complete
  · split
    · exact h.complete
    · exact h.applyBoundary.takeOffsets.copyBoundary.takeStep.ite h.complete
    · exact h.complete

/-! ### Tailrace -/

theorem State.storesOk.tailrace (hs : s.storesOk) {core : Nat} {fill : Bool} : (s.tailrace core fill).storesOk := by
  unfold State.tailrace
  split
  · exact hs
  · dsimp only
    split
    · exact hs
    · split
      · exact hs.failDesc
      · exact (hs.write.count.ite hs.write.count).startDesc.ite hs

theorem tailraceDone_storesOk (hs : s.storesOk) {core : Nat} : (tailraceDone core s).storesOk := hs.finishDesc

/-! ### Idle -/

theorem idle_storesOk (hs : s.storesOk) : (idle s).storesOk := hs.keep.count.ite hs

/-! ### The machine -/

/-- What a command leaves is in the form. -/
theorem State.storesOk.of_next {s t : State} (hs : s.storesOk) (h : Host.Outcome.next s = (.next t : Host.Outcome State Fault Refusal)) : t.storesOk :=
  Host.Outcome.next.inj h ▸ hs

/-- Every command keeps the form. -/
theorem exec_storesOk {c : Instr} {t : State} (hs : s.storesOk) (h : exec c s = .next t) : t.storesOk := by
  cases c with
  | inputApplied => exact (inputApplied_storesOk hs).of_next h
  | powerGood => exact (powerGood_storesOk hs).of_next h
  | inputTrip => exact (inputTrip_storesOk hs).of_next h
  | powerLoss => exact (powerLoss_storesOk hs).of_next h
  | railFault => exact (railFault_storesOk hs).of_next h
  | refclkLinkLoss => exact (refclkLinkLoss_storesOk hs).of_next h
  | pcieLinkDown => exact (pcieLinkDown_storesOk hs).of_next h
  | pcieLinkUp => exact (pcieLinkUp_storesOk hs).of_next h
  | perstAssert => exact (perstAssert_storesOk hs).of_next h
  | perstDeassert => exact (perstDeassert_storesOk hs).of_next h
  | firmwareStageDone => exact (firmwareStageDone_storesOk hs).of_next h
  | recoveryRestart => exact (recoveryRestart_storesOk hs).of_next h
  | doorbellPoll => exact (doorbellPoll_storesOk hs).of_next h
  | ringsCtlWrite => exact (hs.when (fun _ h => h.writeRingsCtl)).of_next h
  | reloadEventRing => exact (hs.when (fun _ h => h.reloadEvents)).of_next h
  | reloadRing => exact (hs.when (fun _ h => h.reloadRing)).of_next h
  | fenceRelease => exact (hs.when (fun _ h => h.releaseFence)).of_next h
  | ctrSnap => exact (hs.when (fun _ h => h.snapshot)).of_next h
  | ctrDataHiRead => exact (hs.when (fun _ h => h.answer.keep)).of_next h
  | counterPairRead => exact (hs.when (fun _ h => h.answer.keep)).of_next h
  | indDataRead => exact (hs.when (fun _ h => h.indRead)).of_next h
  | indDataWrite => exact (hs.when (fun _ h => h.indWrite)).of_next h
  | indirectAccessTimeout => exact (hs.when (fun _ h => (h.indFlag.ite h.indFlag.answer).indAdvance)).of_next h
  | cfgCheckWrite => exact (hs.when (fun _ h => h.writeCfgCheck)).of_next h
  | registerWrite => exact (hs.when (fun _ h => h.writeReg)).of_next h
  | bar0UnsupportedRequest => exact (hs.when (fun _ h => h.keep)).of_next h
  | paritySweep =>
    refine State.storesOk.of_next ?_ h
    refine State.storesOk.ite (hs.ite hs.parityHalt) ?_
    split
    · exact hs.ite hs.parityHalt
    · exact hs
  | join => exact (join_storesOk hs).of_next h
  | joinTimeout => exact (joinTimeout_storesOk hs).of_next h
  | loadProgram => exact (loadProgram_storesOk hs).of_next h
  | loadVerdict => exact (loadVerdict_storesOk hs).of_next h
  | mapTensor => exact (mapTensor_storesOk hs).of_next h
  | step => exact (runStep_storesOk hs).of_next h
  | eval => exact (eval_storesOk hs).of_next h
  | ingest => exact (ingest_storesOk hs).of_next h
  | tableReplace => exact (tableReplace_storesOk hs).of_next h
  | migrate => exact (migrate_storesOk hs).of_next h
  | copy => exact (copy_storesOk hs).of_next h
  | checkpoint => exact (checkpoint_storesOk hs).of_next h
  | restoreContext => exact (restoreContext_storesOk hs).of_next h
  | replayRoll => exact (replayRoll_storesOk hs).of_next h
  | replayRollThrough => exact (replayRollThrough_storesOk hs).of_next h
  | replayExec => exact (replayExec_storesOk hs).of_next h
  | evidenceExport => exact (evidenceExport_storesOk hs).of_next h
  | diagPrbsTest => exact (diagPrbsTest_storesOk hs).of_next h
  | diagTestEnd => exact (diagTestEnd_storesOk hs).of_next h
  | diagMarginRead => exact (diagMarginRead_storesOk hs).of_next h
  | quiesce => exact (quiesce_storesOk hs).of_next h
  | fwPush => exact (fwPush_storesOk hs).of_next h
  | attest => exact (attest_storesOk hs).of_next h
  | phaseEnd => exact (phaseEnd_storesOk hs).of_next h
  | hopBatchSend => exact (hopBatchSend_storesOk hs).of_next h
  | sampleReq => exact (sampleReqRead_storesOk hs).of_next h
  | sampleReply => exact (sampleReply_storesOk hs).of_next h
  | lookupBatch => exact (lookupBatch_storesOk hs).of_next h
  | lookupReply => exact (lookupReply_storesOk hs).of_next h
  | eddyRefreshRecord => exact (eddyRefreshRecord_storesOk hs).of_next h
  | remoteAcc => exact (remoteAcc_storesOk hs).of_next h
  | confRerequest => exact (confRerequest_storesOk hs).of_next h
  | remoteWrite => exact (remoteWrite_storesOk hs).of_next h
  | remoteRead => exact (remoteRead_storesOk hs).of_next h
  | remoteReadReply => exact (remoteReadReply_storesOk hs).of_next h
  | barrierStepStart => exact (barrierStepStart_storesOk hs).of_next h
  | barrierFinite => exact (barrierFinite_storesOk hs).of_next h
  | barrierCommit => exact (barrierCommit_storesOk hs).of_next h
  | barrierFloor => exact (barrierFloor_storesOk hs).of_next h
  | barrierProgram => exact (barrierProgram_storesOk hs).of_next h
  | barrierWindow => exact (barrierWindow_storesOk hs).of_next h
  | boundaryWindow => exact (boundaryWindow_storesOk hs).of_next h
  | compactionBudgetExpired => exact (compactionBudgetExpired_storesOk hs).of_next h
  | migrateMapInstall => exact (migrateMapInstall_storesOk hs).of_next h
  | mirrorStepDelta => exact (mirrorStepDelta_storesOk hs).of_next h
  | mirrorAck => exact (mirrorAck_storesOk hs).of_next h
  | mirrorBoundaryCopy => exact (mirrorBoundaryCopy_storesOk hs).of_next h
  | mirrorPullRequest => exact (mirrorPullRequest_storesOk hs).of_next h
  | mirrorPullReply => exact (mirrorPullReply_storesOk hs).of_next h
  | retentionRecordWritten => exact (retentionRecordWritten_storesOk hs).of_next h
  | failureReport => exact (failureReport_storesOk hs).of_next h
  | abort => exact (abort_storesOk hs).of_next h
  | abortFinal => exact (abortFinal_storesOk hs).of_next h
  | substitute => exact (substitute_storesOk hs).of_next h
  | fallback => exact (fallback_storesOk hs).of_next h
  | probe => exact (probe_storesOk hs).of_next h
  | recoveryAck => exact (recoveryAck_storesOk hs).of_next h
  | probeTimeout => exact (probeTimeout_storesOk hs).of_next h
  | watchdogExpiry => exact (watchdogExpiry_storesOk hs).of_next h
  | heartbeatTick => exact (heartbeatTick_storesOk hs).of_next h
  | heartbeat => exact (heartbeat_storesOk hs).of_next h
  | portSilenceTimeout => exact (portSilenceTimeout_storesOk hs).of_next h
  | allPortsDownTimeout => exact (allPortsDownTimeout_storesOk hs).of_next h
  | flitReceive => exact (flitReceive_storesOk hs).of_next h
  | laneDrop => exact (laneDrop_storesOk hs).of_next h
  | retrainTimeout => exact (retrainTimeout_storesOk hs).of_next h
  | portRetryTick => exact (portRetryTick_storesOk hs).of_next h
  | portTrainingCheck => exact (portTrainingCheck_storesOk hs).of_next h
  | portTrainingComplete => exact (portTrainingComplete_storesOk hs).of_next h
  | portTrainingTimeout => exact (portTrainingTimeout_storesOk hs).of_next h
  | temperatureMeasurement => exact (temperatureMeasurement_storesOk hs).of_next h
  | powerCapTick => exact (powerCapTick_storesOk hs).of_next h
  | patrolScrub => exact (patrolScrub_storesOk hs).of_next h
  | uncorrectableRead => exact (uncorrectableRead_storesOk hs).of_next h
  | flashControllerTimeout => exact (flashControllerTimeout_storesOk hs).of_next h
  | flashGarbageCollection => exact (flashGarbageCollection_storesOk hs).of_next h
  | wearLevelling => exact (wearLevelling_storesOk hs).of_next h
  | readDisturbRefresh => exact (readDisturbRefresh_storesOk hs).of_next h
  | start => exact (weirStart_storesOk hs).of_next h
  | end_ => exact (weirEnd_storesOk hs).of_next h
  | wait => exact (weirWait_storesOk hs).of_next h
  | signal => exact (weirSignal_storesOk hs).of_next h
  | yield => exact (weirYield_storesOk hs).of_next h
  | issue => exact (weirIssue_storesOk hs).of_next h
  | weirTimerExpiry => exact (weirTimerExpiry_storesOk hs).of_next h
  | matmul => exact hs.tile.of_next h
  | matmulPart => exact hs.tile.of_next h
  | sparseHeaderScan => exact (sparseHeaderScan_storesOk hs).of_next h
  | tileComplete => exact (tileComplete_storesOk hs).of_next h
  | braidPlan => exact hs.braid.of_next h
  | braidMerge => exact hs.braid.of_next h
  | braidDone => exact (braidDone_storesOk hs).of_next h
  | gather => exact (gather_storesOk hs).of_next h
  | scatterGrad => exact (hs.quarry fun _ _ h => h).of_next h
  | roundClose => exact (hs.quarry fun _ _ h => h).of_next h
  | quarryDone => exact (quarryDone_storesOk hs).of_next h
  | spill => exact hs.tailrace.of_next h
  | fill => exact hs.tailrace.of_next h
  | tailraceDone => exact (tailraceDone_storesOk hs).of_next h
  | spEncode => exact (spEncode_storesOk hs).of_next h
  | mask44 => exact (mask44_storesOk hs).of_next h
  | rowbin => exact (rowbin_storesOk hs).of_next h
  | rowscatter => exact (rowscatter_storesOk hs).of_next h
  | rngUniform => exact (rngUniform_storesOk hs).of_next h
  | rngBernoulli => exact (rngBernoulli_storesOk hs).of_next h
  | rngDropout => exact (rngDropout_storesOk hs).of_next h
  | rngNormalBm => exact (rngNormalBm_storesOk hs).of_next h
  | rngNormalTab => exact (rngNormalTab_storesOk hs).of_next h
  | rngAdvance => exact (rngAdvance_storesOk hs).of_next h
  | vectorElementwise => exact (vectorElementwise_storesOk hs).of_next h
  | vectorReduction => exact (vectorReduction_storesOk hs).of_next h
  | splitKCombine => exact (splitKCombine_storesOk hs).of_next h
  | xm48Add => exact (xm48Add_storesOk hs).of_next h
  | xm48Mul => exact (xm48Mul_storesOk hs).of_next h
  | xm48Load => exact (xm48Load_storesOk hs).of_next h
  | xm48Store => exact (xm48Store_storesOk hs).of_next h
  | xm48Convert => exact (xm48Convert_storesOk hs).of_next h
  | interfaceLockLoss => exact (interfaceLockLoss_storesOk hs).of_next h
  | dramLinkTrainingLoss => exact (dramLinkTrainingLoss_storesOk hs).of_next h
  | smbusBridgeWrite => exact (smbusBridgeWrite_storesOk hs).of_next h
  | eddyRefreshAck => exact (eddyRefreshAck_storesOk hs).of_next h
  | lostMessageReport => exact (lostMessageReport_storesOk hs).of_next h
  | joinTraffic => exact (joinTraffic_storesOk hs).of_next h
  | rootPllLock => exact (rootPllLock_storesOk hs).of_next h

/-- Settles O4: one step idles or runs a command, and every command is made of functions that keep the form. -/
theorem storesCanonical : Obligations.StoresCanonical := by
  unfold Obligations.StoresCanonical
  intro s t hs h
  unfold step at h
  split at h
  · exact (idle_storesOk hs).of_next h
  · exact exec_storesOk hs.keep h

end Sys2Proof.Machine
end

section
/-! SUPPORT. Temperatures and the power cap (08 R201, 17 R413, R419): one sensor after the other takes its band; the module then shuts down, halts or goes
on. -/

namespace Sys2Proof.Machine

open Sys2Proof

/-! ### Elements of lists and maps -/

theorem length_setNth {α : Type} (l : List α) (i : Nat) (x : α) : (setNth l i x).length = l.length := by
  induction l generalizing i with
  | nil => rfl
  | cons a l ih =>
    cases i with
    | zero => rfl
    | succ i => exact congrArg (· + 1) (ih i)

theorem nth_setNth_self {α : Type} (d : α) {l : List α} {i : Nat} (h : i < l.length) (x : α) : nth d (setNth l i x) i = x := by
  induction l generalizing i with
  | nil => exact absurd h (Nat.not_lt_zero i)
  | cons a l ih =>
    cases i with
    | zero => rfl
    | succ i => exact ih (Nat.lt_of_succ_lt_succ h)

theorem nth_setNth_ne {α : Type} (d : α) (l : List α) {i j : Nat} (h : i ≠ j) (x : α) : nth d (setNth l i x) j = nth d l j := by
  induction l generalizing i j with
  | nil => rfl
  | cons a l ih =>
    cases i with
    | zero =>
      cases j with
      | zero => exact absurd rfl h
      | succ j => rfl
    | succ i =>
      cases j with
      | zero => rfl
      | succ j => exact ih fun e => h (congrArg (· + 1) e)

/-- An element set to what it is. -/
theorem setNth_nth {α : Type} (d : α) (l : List α) (i : Nat) : setNth l i (nth d l i) = l := by
  induction l generalizing i with
  | nil => rfl
  | cons a l ih =>
    cases i with
    | zero => rfl
    | succ i => exact congrArg (a :: ·) (ih i)

theorem nth_of_length_le {α : Type} (d : α) {l : List α} {i : Nat} (h : l.length ≤ i) : nth d l i = d := List.getD_eq_default l d h

/-- A key that a filter of keys lets through keeps its entry. -/
theorem NMap.get_filter_key {α : Type} (d : α) (m : NMap α) {p : Nat → Bool} {a : Nat} (h : p a = true) :
    NMap.get d (m.filter fun c => p c.1) a = m.get d a := by
  induction m with
  | nil => rfl
  | cons c m ih =>
    by_cases hp : p c.1 = true
    · rw [List.filter_cons, if_pos hp, NMap.get, NMap.get, ih]
    · have hc : c.1 ≠ a := fun e => hp (e ▸ h)
      rw [List.filter_cons, if_neg hp, NMap.get, if_neg hc, ih]

/-! ### Bands -/

/-- An edge counts: it has been reached, or it had been and the temperature is not 2 °C below it (08 R201). -/
def edgeHolds (old half : Nat) (e : Nat × Nat) : Prop := e.2 ≤ half ∨ (e.1 ≤ old ∧ e.2 < half + 4)

/-- The band of the last edge that counts. -/
def bandOf (old half b : Nat) (l : List (Nat × Nat)) : Nat := l.foldl (fun b e => if e.2 ≤ half ∨ (e.1 ≤ old ∧ e.2 < half + 4) then e.1 else b) b

theorem nextBand_eq (sensor old half : Nat) : nextBand sensor old half = bandOf old half 0 (bandEdges sensor) := rfl

theorem bandOf_cons (old half b : Nat) (e : Nat × Nat) (l : List (Nat × Nat)) [Decidable (edgeHolds old half e)] :
    bandOf old half b (e :: l) = bandOf old half (if edgeHolds old half e then e.1 else b) l := by
  rw [bandOf, List.foldl_cons, bandOf]
  congr 1
  unfold edgeHolds
  congr

/-- No band is below the start where no edge is. -/
theorem le_bandOf {old half b x : Nat} {l : List (Nat × Nat)} (hb : x ≤ b) (hl : ∀ e ∈ l, x ≤ e.1) : x ≤ bandOf old half b l := by
  induction l generalizing b with
  | nil => exact hb
  | cons e l ih =>
    classical
    rw [bandOf_cons]
    refine ih ?_ fun e he => hl e (List.mem_cons_of_mem _ he)
    split
    · exact hl e List.mem_cons_self
    · exact hb

/-- With edges that rise, an edge that counts is a lower bound. -/
theorem le_bandOf_of_holds {old half b : Nat} {l : List (Nat × Nat)} (hl : l.Pairwise fun a b => a.1 < b.1 ∧ a.2 < b.2) {e : Nat × Nat} (he : e ∈ l)
    (h : edgeHolds old half e) : e.1 ≤ bandOf old half b l := by
  induction l generalizing b with
  | nil => cases he
  | cons x l ih =>
    classical
    obtain ⟨hx, hl⟩ := List.pairwise_cons.mp hl
    rw [bandOf_cons]
    rcases List.mem_cons.mp he with rfl | he
    · rw [if_pos h]
      exact le_bandOf le_rfl fun y hy => (hx y hy).1.le
    · exact ih hl he

/-- A bound on the start and on every edge that counts is one on the band. -/
theorem bandOf_lt {old half b x : Nat} {l : List (Nat × Nat)} (hb : b < x) (hl : ∀ e ∈ l, edgeHolds old half e → e.1 < x) : bandOf old half b l < x := by
  induction l generalizing b with
  | nil => exact hb
  | cons e l ih =>
    classical
    rw [bandOf_cons]
    refine ih ?_ fun e he => hl e (List.mem_cons_of_mem _ he)
    split
    · next h => exact hl e List.mem_cons_self h
    · exact hb

/-- The edges of a sensor rise, and stand for levels above normal. -/
theorem bandEdges_rise (sensor : Nat) : (bandEdges sensor).Pairwise (fun a b => a.1 < b.1 ∧ a.2 < b.2) ∧ ∀ e ∈ bandEdges sensor, 0 < e.1 := by
  unfold bandEdges
  split
  · decide
  · split <;> decide

/-- Of two edges of a sensor the one at the lower temperature is that of the lower level. -/
theorem bandEdges_lt (sensor : Nat) : ∀ e ∈ bandEdges sensor, ∀ x ∈ bandEdges sensor, x.2 < e.2 → x.1 < e.1 := by
  unfold bandEdges
  split
  · decide
  · split <;> decide

/-- A band rises as soon as an edge is reached, and keeps it until 2 °C below it (08 R201). -/
theorem nextBand_edge {sensor : Nat} (old half : Nat) {e : Nat × Nat} (he : e ∈ bandEdges sensor) :
    (e.2 ≤ half → e.1 ≤ nextBand sensor old half) ∧ (e.1 ≤ old → e.2 < half + 4 → e.1 ≤ nextBand sensor old half) ∧
    (half + 4 ≤ e.2 → nextBand sensor old half < e.1) := by
  obtain ⟨hr, hpos⟩ := bandEdges_rise sensor
  refine ⟨fun h => le_bandOf_of_holds hr he (.inl h), fun h1 h2 => le_bandOf_of_holds hr he (.inr ⟨h1, h2⟩), fun h => ?_⟩
  refine bandOf_lt (hpos e he) fun x hx hh => bandEdges_lt sensor e he x hx ?_
  rcases hh with hh | ⟨-, hh⟩ <;> omega

/-! ### A sensor's measurement -/

/-- Writing held entries to the host leaves no more of them waiting. -/
theorem HostSide.emit_held (l : List HeldEntry) (h : HostSide) : (h.emit l).held.length ≤ l.length := by
  induction l generalizing h with
  | nil => exact Nat.zero_le _
  | cons x t ih =>
    cases x with
    | event c p =>
      unfold HostSide.emit
      split
      · exact (ih _).trans (Nat.le_succ _)
      · exact le_rfl
    | completion a d q => exact (ih _).trans (Nat.le_succ _)

/-- Posting an event leaves at most one more waiting. -/
theorem State.post_held (s : State) (c : Nat) (b : List Byte) : (s.post c b).host.held.length ≤ s.host.held.length + 1 := by
  have hl : (s.host.held ++ [HeldEntry.event c b]).length = s.host.held.length + 1 := List.length_append
  unfold State.post State.flush
  split
  · exact (HostSide.emit_held _ _).trans hl.le
  · exact hl.le

/-- The hold of events has room for one more while it holds fewer entries than it can. -/
theorem State.holdFull_of_lt {s : State} (h : s.host.held.length < 4096) : s.holdFull = false :=
  decide_eq_false (Nat.not_le.mpr ((List.length_filter_le _ _).trans_lt h))

/-- The band that a sensor's measurement leaves (08 R201; log entry 27). -/
def State.bandAfter (s : State) (i half : Nat) : Nat :=
  if s.holdFull && nextBand i (nth 0 s.tier.band i) half != 4 then nth 0 s.tier.band i else nextBand i (nth 0 s.tier.band i) half

/-- A sensor's reading and band set. -/
def State.sensed (s : State) (i half : Nat) : State :=
  { s with tier := { s.tier with tempHalf := setNth s.tier.tempHalf i (some half), band := setNth s.tier.band i (s.bandAfter i half) } }

/-- A measurement sets its sensor's reading and band, and posts an event where the band changes. -/
theorem State.measure_eq (s : State) (i half : Nat) : s.measure i half =
    if s.bandAfter i half = nth 0 s.tier.band i then s.sensed i half
    else (s.sensed i half).post evThermal (leBytes 1 i ++ leBytes 1 (nth 0 s.tier.band i) ++ leBytes 1 (s.bandAfter i half) ++ leBytes 1 (wholeDegrees half)) :=
  rfl

/-- Beyond its sensor's reading and band a measurement changes the host side only, where it leaves at most one more entry waiting. -/
theorem State.measure_host (s : State) (i half : Nat) : ∃ h, h.held.length ≤ s.host.held.length + 1 ∧ s.measure i half = { s.sensed i half with host := h } := by
  rw [State.measure_eq]
  split
  · exact ⟨s.host, Nat.le_succ _, rfl⟩
  · generalize leBytes 1 i ++ leBytes 1 (nth 0 s.tier.band i) ++ leBytes 1 (s.bandAfter i half) ++ leBytes 1 (wholeDegrees half) = p
    obtain ⟨h, e⟩ := (s.sensed i half).post_eq evThermal p
    have hh := (s.sensed i half).post_held evThermal p
    rw [e] at hh ⊢
    exact ⟨h, hh, rfl⟩

/-! ### Every sensor's -/

/-- Sensors measured one after the other. -/
def State.measures (s : State) (half : List Nat) (l : List Nat) : State := l.foldl (fun s i => s.measure i (nth 0 half i)) s

theorem State.measureAll_eq (s : State) (half : List Nat) : s.measureAll half = s.measures half (List.range 14) := rfl

theorem State.measures_cons (s : State) (half : List Nat) (i : Nat) (l : List Nat) : s.measures half (i :: l) = (s.measure i (nth 0 half i)).measures half l := rfl

/-- Measurements change readings, bands and the host side only. -/
theorem State.measures_eq (s : State) (half l : List Nat) :
    ∃ h th b, s.measures half l = { s with host := h, tier := { s.tier with tempHalf := th, band := b } } := by
  induction l generalizing s with
  | nil => exact ⟨s.host, s.tier.tempHalf, s.tier.band, rfl⟩
  | cons i l ih =>
    obtain ⟨h, -, e⟩ := s.measure_host i (nth 0 half i)
    obtain ⟨h', th, b, e'⟩ := ih (s.measure i (nth 0 half i))
    refine ⟨h', th, b, e'.trans ?_⟩
    rw [e]
    rfl

/-- A measurement's own element; the others stay. -/
theorem State.measure_tier (s : State) (i half : Nat) : (s.measure i half).tier.band = setNth s.tier.band i (s.bandAfter i half) ∧
    (s.measure i half).tier.tempHalf = setNth s.tier.tempHalf i (some half) := by
  obtain ⟨h, -, e⟩ := s.measure_host i half
  rw [e]
  exact ⟨rfl, rfl⟩

/-- A sensor that is not measured keeps its reading and band. -/
theorem State.measures_other (s : State) (half : List Nat) {l : List Nat} {j : Nat} (hj : j ∉ l) :
    nth 0 (s.measures half l).tier.band j = nth 0 s.tier.band j ∧ nth none (s.measures half l).tier.tempHalf j = nth none s.tier.tempHalf j := by
  induction l generalizing s with
  | nil => exact ⟨rfl, rfl⟩
  | cons i l ih =>
    obtain ⟨hb, ht⟩ := s.measure_tier i (nth 0 half i)
    obtain ⟨hij, hj⟩ := not_or.mp (List.mem_cons.not.mp hj)
    obtain ⟨h1, h2⟩ := ih (s.measure i (nth 0 half i)) hj
    refine ⟨h1.trans ?_, h2.trans ?_⟩
    · rw [hb, nth_setNth_ne _ _ (Ne.symm hij)]
    · rw [ht, nth_setNth_ne _ _ (Ne.symm hij)]

/-- A sensor that is measured once has its reading. -/
theorem State.measures_reading (s : State) (half : List Nat) {l : List Nat} (hl : l.Nodup) {j : Nat} (hj : j ∈ l) (hlen : j < s.tier.tempHalf.length) :
    nth none (s.measures half l).tier.tempHalf j = some (nth 0 half j) := by
  induction l generalizing s with
  | nil => cases hj
  | cons i l ih =>
    obtain ⟨hi, hl⟩ := List.nodup_cons.mp hl
    obtain ⟨-, ht⟩ := s.measure_tier i (nth 0 half i)
    rcases List.mem_cons.mp hj with rfl | hj
    · exact ((s.measure j (nth 0 half j)).measures_other half hi).2.trans (ht ▸ nth_setNth_self _ hlen _)
    · exact ih _ hl hj (ht ▸ (length_setNth _ _ _).symm ▸ hlen)

/-- And its band, where the hold of events has room or the band is the one that halts or shuts down (13 R337; log entry 27). -/
theorem State.measures_band (s : State) (half : List Nat) {l : List Nat} (hl : l.Nodup) {j : Nat} (hj : j ∈ l) (hlen : j < s.tier.band.length) {b : Nat}
    (hb : b = nextBand j (nth 0 s.tier.band j) (nth 0 half j)) (hroom : s.host.held.length + l.length ≤ 4096 ∨ b = 4) :
    nth 0 (s.measures half l).tier.band j = b := by
  induction l generalizing s with
  | nil => cases hj
  | cons i l ih =>
    obtain ⟨hi, hl⟩ := List.nodup_cons.mp hl
    obtain ⟨h, hheld, e⟩ := s.measure_host i (nth 0 half i)
    obtain ⟨hband, -⟩ := s.measure_tier i (nth 0 half i)
    rcases List.mem_cons.mp hj with rfl | hj
    · have hafter : s.bandAfter j (nth 0 half j) = b := by
        rw [State.bandAfter, ← hb]
        rcases hroom with hroom | h4
        · rw [State.holdFull_of_lt (lt_of_lt_of_le (Nat.lt_add_of_pos_right (Nat.succ_pos _)) hroom)]
          rfl
        · rw [h4, if_neg (by simp)]
      rw [State.measures_cons, ((s.measure j (nth 0 half j)).measures_other half hi).1, hband, nth_setNth_self _ hlen, hafter]
    · have hij : i ≠ j := fun c => hi (c ▸ hj)
      refine ih _ hl hj ?_ ?_ ?_
      · rw [hband, length_setNth]
        exact hlen
      · rw [hband, nth_setNth_ne _ _ hij]
        exact hb
      · refine hroom.imp_left fun hroom => ?_
        rw [List.length_cons] at hroom
        have hh : (s.measure i (nth 0 half i)).host.held.length ≤ s.host.held.length + 1 := e ▸ hheld
        exact (Nat.add_le_add_right hh _).trans (by omega)

/-- While the hold of events is full, a band that is neither at the level that halts or shuts down nor reaches it stays. -/
theorem State.measures_full (s : State) (half l : List Nat) (hf : s.holdFull = true) (hl : ∀ i ∈ l, nextBand i (nth 0 s.tier.band i) (nth 0 half i) ≠ 4) :
    (s.measures half l).tier.band = s.tier.band := by
  induction l generalizing s with
  | nil => rfl
  | cons i l ih =>
    have hafter : s.bandAfter i (nth 0 half i) = nth 0 s.tier.band i := by
      rw [State.bandAfter, hf, if_pos (by simpa using hl i List.mem_cons_self)]
    have he : s.measure i (nth 0 half i) = s.sensed i (nth 0 half i) := by rw [State.measure_eq, if_pos hafter]
    have hband : (s.measure i (nth 0 half i)).tier.band = s.tier.band := by
      rw [(s.measure_tier i _).1, hafter, setNth_nth]
    refine (ih (s.measure i (nth 0 half i)) ?_ ?_).trans hband
    · rw [he]
      exact hf
    · rw [hband]
      exact fun j hj => hl j (List.mem_cons_of_mem _ hj)

/-! ### What a shutdown keeps -/

/-- Cutting a claim of an owner slot short takes a free value and may leave the slot without its VALID byte and with less of its hash (16 R393). -/
theorem State.cutClaim_eq (s : State) : ∃ f n, s.cutClaim = { s with fuse := f, free := n } ∧ (s.ms.claimed = none → f = s.fuse) ∧
    ∀ i, s.ms.claimed = some i → f = s.fuse ∨
      ∃ m, f = { s.fuse with owners := setNth s.fuse.owners i { hash := (nth default s.fuse.owners i).hash &&& m, valid := 0 } } := by
  unfold State.cutClaim
  split
  · next h => exact ⟨s.fuse, s.free, rfl, fun _ => rfl, fun i hi => absurd (h.symm.trans hi) (by simp)⟩
  · next i h =>
    dsimp only
    split
    · exact ⟨s.fuse, s.free + 1, rfl, fun _ => rfl, fun _ _ => .inl rfl⟩
    · refine ⟨_, s.free + 1, rfl, fun hn => absurd (h.symm.trans hn) (by simp), fun j hj => .inr ?_⟩
      obtain rfl : i = j := Option.some.inj (h.symm.trans hj)
      exact ⟨_, rfl⟩

/-- What outlives a reset or a loss of power is kept by both (17 R418). -/
theorem State.kept_powerOff (s : State) (applied tripped : Bool) : s.kept (s.powerOff applied tripped) := by
  obtain ⟨f, n, e, hnone, hsome⟩ := s.cutClaim_eq
  unfold State.powerOff State.moduleReset
  rw [e]
  refine ⟨fun a ha => ?_, rfl, rfl, rfl, rfl, rfl, rfl, hnone, hsome⟩
  exact NMap.get_filter_key 0 s.mem (p := fun k => decide (flashBase ≤ k)) (decide_eq_true ha)

/-- A shutdown of a module whose rails are on removes them, and keeps what outlives it (17 R417). -/
theorem State.shutdown_off {s : State} (h : s.pwr.railsOn = true) :
    s.shutdown.pwr.railsOn = false ∧ s.shutdown.pwr.good = false ∧ s.shutdown.pwr.tripped = true ∧ s.kept s.shutdown := by
  unfold State.shutdown
  rw [if_pos h]
  exact ⟨rfl, rfl, rfl, s.kept_powerOff _ _⟩

/-- What is kept from a state is kept from one that differs in readings, bands and the host side only. -/
theorem State.kept_measures {s t : State} {half l : List Nat} (h : (s.measures half l).kept t) : s.kept t := by
  obtain ⟨x, th, b, e⟩ := s.measures_eq half l
  rw [e] at h
  exact h

/-- A running module that halts has halted for the reason, all that it stores as it was. -/
theorem State.haltedFor_halt {s : State} (reason cause : Nat) (h : s.live = true) : s.haltedFor reason (s.halt reason cause) := by
  obtain ⟨x, e⟩ := s.halt_eq reason cause h
  rw [e]
  exact ⟨rfl, rfl, ⟨rfl, rfl, rfl, rfl, rfl⟩, rfl, rfl⟩

/-- A register whose parity disagrees halts a running module with reason 0x1 (15 R383). -/
theorem State.haltedFor_parityHalt {s : State} (offset space : Nat) (h : s.live = true) : s.haltedFor 0x1 (s.parityHalt offset space) := by
  obtain ⟨x, e⟩ := s.post_eq evCfgParity (leBytes 4 offset ++ leBytes 1 space)
  unfold State.parityHalt
  rw [if_pos h, e]
  exact State.haltedFor_halt (s := { s with host := x }) 0x1 0x30 h

/-- A module that runs nothing does not halt. -/
theorem State.halt_dead {s : State} (reason cause : Nat) (h : s.live = false) : s.halt reason cause = s := by
  unfold State.halt
  refine if_neg fun c => ?_
  simp [State.live, c] at h

/-! ### A measurement of the module -/

theorem State.measures_length (s : State) (half l : List Nat) : (s.measures half l).tier.band.length = s.tier.band.length := by
  induction l generalizing s with
  | nil => rfl
  | cons i l ih => rw [State.measures_cons, ih, (s.measure_tier i _).1, length_setNth]

/-- A sensor of 8 to 13 is at its shutdown level. -/
def State.hot (s : State) : Prop := ∃ i < 6, nth 0 s.tier.band (i + 8) = 4

/-- A stack is at its fatal level. -/
def State.fatal (s : State) : Prop := ∃ i < 8, nth 0 s.tier.band i = 4

theorem State.hot_iff (s : State) : ((List.range 6).any fun i => nth 0 s.tier.band (i + 8) == 4) = true ↔ s.hot := by
  simp only [List.any_eq_true, List.mem_range, beq_iff_eq, State.hot]

theorem State.fatal_iff (s : State) : ((List.range 8).any fun i => nth 0 s.tier.band i == 4) = true ↔ s.fatal := by
  simp only [List.any_eq_true, List.mem_range, beq_iff_eq, State.fatal]

/-- What the sensors come to decides: a shutdown, a halt, or neither (17 R417, 08 R201). -/
theorem exec_temperatureMeasurement {s : State} (half : List Nat) (hon : s.on = true) :
    ((s.measureAll half).hot → exec (.temperatureMeasurement half) s = .next (s.measureAll half).shutdown) ∧
    (¬ (s.measureAll half).hot → (s.measureAll half).fatal → exec (.temperatureMeasurement half) s = .next ((s.measureAll half).halt 0x3 0x35)) ∧
    (¬ (s.measureAll half).hot → ¬ (s.measureAll half).fatal → exec (.temperatureMeasurement half) s = .next (s.measureAll half)) := by
  rw [show exec (.temperatureMeasurement half) s = .next (temperatureMeasurement half s) from rfl, temperatureMeasurement, if_pos hon]
  dsimp only
  rw [← State.hot_iff, ← State.fatal_iff]
  exact ⟨fun h => congrArg _ (if_pos h), fun h h' => congrArg _ ((if_neg h).trans (if_pos h')), fun h h' => congrArg _ ((if_neg h).trans (if_neg h'))⟩

section
variable {s : State} {half : List Nat} {band : Nat → Nat} (hband : ∀ i, band i = nextBand i (nth 0 s.tier.band i) (nth 0 half i))
include hband

/-- Each sensor has its band, where the hold has room for an event of each or the band is the one that halts or shuts down. -/
theorem State.measureAll_band {i : Nat} (hi : i < 14) (hlen : i < s.tier.band.length) (hroom : s.host.held.length + 14 ≤ 4096 ∨ band i = 4) :
    nth 0 (s.measureAll half).tier.band i = band i := by
  rw [State.measureAll_eq]
  refine s.measures_band half List.nodup_range (List.mem_range.mpr hi) hlen (hband i) ?_
  rw [List.length_range]
  exact hroom

/-- No sensor is at that level but by its band. -/
theorem State.measureAll_ne {i : Nat} (hi : i < 14) (hroom : s.host.held.length + 14 ≤ 4096) (h4 : band i ≠ 4) :
    nth 0 (s.measureAll half).tier.band i ≠ 4 := by
  by_cases hlen : i < s.tier.band.length
  · rw [State.measureAll_band hband hi hlen (.inl hroom)]
    exact h4
  · have hm := s.measures_length half (List.range 14)
    rw [State.measureAll_eq, nth_of_length_le 0 (hm.le.trans (Nat.le_of_not_lt hlen))]
    decide

/-- With room, the bands and readings are set, and the module goes on unless a sensor of a module that runs is at that level. -/
theorem temperature_measured (hon : s.on = true) (hroom : s.host.held.length + 14 ≤ 4096)
    (h : (∀ i < 14, band i ≠ 4) ∨ (s.live = false ∧ ∀ i < 6, band (i + 8) ≠ 4)) :
    ∃ t, exec (.temperatureMeasurement half) s = .next t ∧ (∀ i < 14, i < s.tier.band.length → nth 0 t.tier.band i = band i) ∧
      (∀ i < 14, i < s.tier.tempHalf.length → nth none t.tier.tempHalf i = some (nth 0 half i)) ∧ s.storesSame t ∧ s.stepSame t ∧ t.ms = s.ms := by
  obtain ⟨x, th, b, e⟩ := s.measures_eq half (List.range 14)
  have hgo : exec (.temperatureMeasurement half) s = .next (s.measureAll half) := by
    have hhot : ∀ i < 6, band (i + 8) ≠ 4 := h.elim (fun h i hi => h (i + 8) (by omega)) (·.2)
    have hsafe : ¬ (s.measureAll half).hot := fun ⟨i, hi, h4⟩ => State.measureAll_ne hband (by omega) hroom (hhot i hi) h4
    obtain ⟨-, hhalt, hgo⟩ := exec_temperatureMeasurement half hon
    by_cases hf : (s.measureAll half).fatal
    · rcases h with h | ⟨hlive, -⟩
      · obtain ⟨i, hi, h4⟩ := hf
        exact absurd h4 (State.measureAll_ne hband (by omega) hroom (h i (by omega)))
      · have hdead : (s.measureAll half).live = false := by
          rw [State.measureAll_eq, e]
          exact hlive
        rw [hhalt hsafe hf, State.halt_dead _ _ hdead]
    · exact hgo hsafe hf
  refine ⟨_, hgo, fun i hi hlen => State.measureAll_band hband hi hlen (.inl hroom), fun i hi hlen => ?_, ?_⟩
  · rw [State.measureAll_eq]
    exact s.measures_reading half List.nodup_range (List.mem_range.mpr hi) hlen
  · rw [State.measureAll_eq, e]
    exact ⟨⟨rfl, rfl, rfl, rfl, rfl⟩, ⟨rfl, rfl, rfl, rfl⟩, rfl⟩

/-- While the hold is full and no sensor is at that level, no band changes. -/
theorem temperature_full (hon : s.on = true) (hfull : s.holdFull = true) (h : ∀ i < 14, band i ≠ 4 ∧ nth 0 s.tier.band i ≠ 4) :
    ∃ t, exec (.temperatureMeasurement half) s = .next t ∧ t.tier.band = s.tier.band ∧ s.storesSame t ∧ s.stepSame t ∧ t.ms = s.ms := by
  obtain ⟨x, th, b, e⟩ := s.measures_eq half (List.range 14)
  have hsame : (s.measureAll half).tier.band = s.tier.band := by
    rw [State.measureAll_eq]
    exact s.measures_full half _ hfull fun i hi => hband i ▸ (h i (List.mem_range.mp hi)).1
  refine ⟨s.measureAll half, ?_, hsame, ?_⟩
  · refine (exec_temperatureMeasurement half hon).2.2 (fun ⟨i, hi, h4⟩ => ?_) fun ⟨i, hi, h4⟩ => ?_
    · exact (h (i + 8) (by omega)).2 (hsame ▸ h4)
    · exact (h i (by omega)).2 (hsame ▸ h4)
  · rw [State.measureAll_eq, e]
    exact ⟨⟨rfl, rfl, rfl, rfl, rfl⟩, ⟨rfl, rfl, rfl, rfl⟩, rfl⟩

/-- A sensor of 8 to 13 at its shutdown level removes the rails. -/
theorem temperature_shutsDown (hon : s.on = true) (h : ∃ i < 6, i + 8 < s.tier.band.length ∧ band (i + 8) = 4) (hrails : s.pwr.railsOn = true) :
    ∃ t, exec (.temperatureMeasurement half) s = .next t ∧ t.pwr.railsOn = false ∧ t.pwr.good = false ∧ t.pwr.tripped = true ∧ s.kept t := by
  obtain ⟨i, hi, hlen, h4⟩ := h
  obtain ⟨x, th, b, e⟩ := s.measures_eq half (List.range 14)
  have hm : (s.measureAll half).pwr.railsOn = true := by
    rw [State.measureAll_eq, e]
    exact hrails
  obtain ⟨hoff, hgood, htrip, hkept⟩ := State.shutdown_off hm
  refine ⟨(s.measureAll half).shutdown, ?_, hoff, hgood, htrip, State.kept_measures hkept⟩
  exact (exec_temperatureMeasurement half hon).1 ⟨i, hi, (State.measureAll_band hband (by omega) hlen (.inr h4)).trans h4⟩

/-- A stack at its fatal level halts a running module. -/
theorem temperature_halts (hon : s.on = true) (hroom : s.host.held.length + 14 ≤ 4096) (hsafe : ∀ i < 6, band (i + 8) ≠ 4)
    (h : ∃ i < 8, i < s.tier.band.length ∧ band i = 4) (hlive : s.live = true) :
    ∃ t, exec (.temperatureMeasurement half) s = .next t ∧ s.haltedFor 0x3 t := by
  obtain ⟨i, hi, hlen, h4⟩ := h
  obtain ⟨x, th, b, e⟩ := s.measures_eq half (List.range 14)
  refine ⟨(s.measureAll half).halt 0x3 0x35, ?_, ?_⟩
  · refine (exec_temperatureMeasurement half hon).2.1 (fun ⟨i, hi, h4⟩ => State.measureAll_ne hband (by omega) hroom (hsafe i hi) h4) ?_
    exact ⟨i, hi, (State.measureAll_band hband (by omega) hlen (.inr h4)).trans h4⟩
  · rw [State.measureAll_eq, e]
    exact State.haltedFor_halt _ _ hlive

end

/-! ### The power cap -/

/-- A tick whose register can be used refreshes the readings and moves the duty (17 R413, R419). -/
theorem exec_powerCapTick {s : State} (watts mv : Nat) (hon : s.on = true) (h : s.regs.pwrCap.ok = true ∨ s.live = false) :
    exec (.powerCapTick watts mv) s = .next { s with pwr := { s.pwr with
      pinW := watts % 2 ^ 16
      vinMv := mv % 2 ^ 16
      duty := if s.capInForce < watts then max 4 (s.pwr.duty - 1) else if watts + 50 < s.capInForce then min 16 (s.pwr.duty + 1) else s.pwr.duty } } := by
  show Host.Outcome.next (powerCapTick watts mv s) = _
  unfold powerCapTick
  rw [if_pos hon]
  refine congrArg Host.Outcome.next (if_neg fun ⟨hlive, hbad⟩ => ?_)
  rcases h with h | h
  · exact absurd (h.symm.trans hbad) (by decide)
  · exact absurd (h.symm.trans hlive) (by decide)

/-- A tick whose register's parity disagrees halts a running module (15 R383). -/
theorem powerCapTick_halts {s : State} (watts mv : Nat) (hon : s.on = true) (h : s.regs.pwrCap.ok = false) (hlive : s.live = true) :
    ∃ t, exec (.powerCapTick watts mv) s = .next t ∧ s.haltedFor 0x1 t := by
  refine ⟨powerCapTick watts mv s, rfl, ?_⟩
  unfold powerCapTick
  rw [if_pos hon]
  dsimp only
  rw [if_pos ⟨hlive, h⟩]
  exact State.haltedFor_parityHalt (s := { s with pwr := { s.pwr with pinW := watts % 2 ^ 16, vinMv := mv % 2 ^ 16 } }) 0x04014 0 hlive

/-- Settles O9: what the bands come to decides between a shutdown, a halt and neither; the bands follow their edges; and a tick of the power cap moves the
duty. -/
theorem temperatureAndPower : Obligations.TemperatureAndPower := by
  unfold Obligations.TemperatureAndPower
  refine ⟨fun s half band hon hband => ⟨temperature_measured hband hon, temperature_full hband hon, temperature_shutsDown hband hon,
    temperature_halts hband hon⟩, fun sensor old half e he => nextBand_edge old half he, fun s watts mv hon => ⟨fun h => ?_, powerCapTick_halts watts mv hon⟩⟩
  refine ⟨_, exec_powerCapTick watts mv hon h, rfl, rfl, fun hover => if_pos hover, fun hunder => ?_, fun hle hge => ?_, rfl⟩
  · exact (if_neg (by omega)).trans (if_pos hunder)
  · exact (if_neg (by omega)).trans (if_neg (by omega))

end Sys2Proof.Machine
end

section
/-! SUPPORT. Tier faults end the commands in progress but a STEP, ring by ring; the flash translation layer shows the blocks that it leaves (08 R208, R209,
R211, 13 R335). -/

namespace Sys2Proof.Machine

open Sys2Proof

/-! ### The commands that a halt ends (13 R335) -/

/-- The command in progress on a ring, unless it is a STEP, ends with a status. -/
def State.failRing (x : Status) (s : State) (n : Nat) : State :=
  match (s.ring n).busy with
  | some b => if descOp b.2 = 0x04 then s else s.complete n { status := x, info := (s.cutShort n b.2).2, step := (s.cutShort n b.2).1 }
  | none => s

theorem State.failAll_rings (s : State) (x : Status) : s.failAll x = (s.host.rings.map (·.1)).foldl (State.failRing x) s := rfl

theorem State.failRing_idle {x : Status} {s : State} {n : Nat} (h : (s.ring n).busy = none) : s.failRing x n = s := by
  unfold State.failRing
  rw [h]

theorem State.failRing_step {x : Status} {s : State} {n i : Nat} {d : List Byte} (h : (s.ring n).busy = some (i, d)) (hd : descOp d = 0x04) :
    s.failRing x n = s := by
  unfold State.failRing
  rw [h]
  exact if_pos hd

theorem State.failRing_other {x : Status} {s : State} {n i : Nat} {d : List Byte} (h : (s.ring n).busy = some (i, d)) (hd : descOp d ≠ 0x04) :
    s.failRing x n = s.complete n { status := x, info := (s.cutShort n d).2, step := (s.cutShort n d).1 } := by
  unfold State.failRing
  rw [h]
  exact if_neg hd

/-- Ending one ring's command leaves the other rings and the step's state, and loses no completion. -/
theorem State.failRing_keeps (x : Status) (s : State) (n : Nat) :
    (∀ k, n ≠ k → (s.failRing x n).ring k = s.ring k) ∧ (s.failRing x n).st = s.st ∧ s.goesOn (s.failRing x n) := by
  unfold State.failRing
  split
  · split
    · exact ⟨fun _ _ => rfl, rfl, s.goesOn_refl⟩
    · exact ⟨fun k hk => State.complete_ring_ne _ hk, State.complete_st _ _ _, s.complete_goesOn _ _⟩
  · exact ⟨fun _ _ => rfl, rfl, s.goesOn_refl⟩

theorem State.failRings_goesOn (x : Status) (s : State) (l : List Nat) : s.goesOn (l.foldl (State.failRing x) s) := by
  induction l generalizing s with
  | nil => exact s.goesOn_refl
  | cons n l ih => exact State.goesOn_trans (State.failRing_keeps x s n).2.2 (ih _)

/-- STEP and INFO of a command cut short depend on its ring and the step's state only. -/
theorem State.cutShort_congr {s t : State} {n : Nat} (hr : t.ring n = s.ring n) (hs : t.st = s.st) (d : List Byte) : t.cutShort n d = s.cutShort n d := by
  unfold State.cutShort State.applying
  rw [hr, hs]

theorem State.ended_congr {s t u : State} {n : Nat} {c : Cpl} (hr : t.ring n = s.ring n) (h : t.ended n c u) : s.ended n c u := by
  obtain ⟨i, d, hb, hp, he⟩ := h
  rw [State.posted, hr] at hp
  exact ⟨i, d, hr ▸ hb, hp, he⟩

/-- Each command in progress but a STEP ends, with the figures of a command cut short. -/
theorem State.failRings_ended {x : Status} {s : State} {l : List Nat} {n i : Nat} {d : List Byte} (hn : n ∈ l) (hb : (s.ring n).busy = some (i, d))
    (hd : descOp d ≠ 0x04) :
    s.ended n { status := x, info := (s.cutShort n d).2, step := (s.cutShort n d).1 } (l.foldl (State.failRing x) s) := by
  induction l generalizing s with
  | nil => cases hn
  | cons k l ih =>
    obtain ⟨hring, hst, -⟩ := State.failRing_keeps x s k
    by_cases hk : k = n
    · subst hk
      rw [List.foldl_cons, State.failRing_other hb hd]
      exact State.ended_goesOn (State.complete_ended rfl (by rw [hb]; rfl)) (State.failRings_goesOn x _ l)
    · have hr := hring n hk
      have hc := State.cutShort_congr hr hst d
      have h := ih ((List.mem_cons.mp hn).resolve_left (Ne.symm hk)) (hr ▸ hb)
      rw [hc] at h
      exact State.ended_congr hr h

/-- A STEP stays in progress. -/
theorem State.failRings_step {x : Status} {s : State} {n i : Nat} {d : List Byte} (l : List Nat) (hb : (s.ring n).busy = some (i, d)) (hd : descOp d = 0x04) :
    (l.foldl (State.failRing x) s).ring n = s.ring n := by
  induction l generalizing s with
  | nil => rfl
  | cons k l ih =>
    by_cases hk : k = n
    · subst hk
      rw [List.foldl_cons, State.failRing_step hb hd]
      exact ih hb
    · have hr := (State.failRing_keeps x s k).1 n hk
      exact (ih (hr ▸ hb)).trans hr

/-- Where nothing but STEPs is in progress, nothing happens. -/
theorem State.failRings_steps {x : Status} {s : State} (l : List Nat) (h : ∀ n i d, (s.ring n).busy = some (i, d) → descOp d = 0x04) :
    l.foldl (State.failRing x) s = s := by
  induction l with
  | nil => rfl
  | cons k l ih =>
    have hk : s.failRing x k = s := by
      cases hb : (s.ring k).busy with
      | none => exact State.failRing_idle hb
      | some b => exact State.failRing_step hb (h k b.1 b.2 hb)
    rw [List.foldl_cons, hk, ih]

/-- A ring with a command in progress is one of those taken up. -/
theorem State.ring_mem {s : State} {n : Nat} {b : Nat × List Byte} (h : (s.ring n).busy = some b) : n ∈ s.host.rings.map (·.1) := by
  by_contra hn
  have hd : ∀ m : NMap Ring, n ∉ m.map (·.1) → NMap.get Ring.stopped m n = Ring.stopped := by
    intro m hm
    induction m with
    | nil => rfl
    | cons c m ih =>
      obtain ⟨h1, h2⟩ := not_or.mp (List.mem_cons.not.mp hm)
      rw [NMap.get, if_neg (Ne.symm h1), ih h2]
  rw [State.ring, hd _ hn] at h
  cases h

/-! ### Tier faults (08 R211) -/

/-- A tier's bit of mem.tier_status set. -/
def Tiers.failed (t : Tiers) : Tier → Tiers
  | .hbm => { t with hbmFault := true }
  | .dram => { t with dramFault := true }
  | .sram => { t with sramFault := true }
  | .flash => { t with flashFault := true }

/-- A tier fault of a running module sets the tier's bit and halts the module. -/
theorem State.tierFault_halts {s : State} (x : Tier) (h : s.live = true) :
    s.haltedFor 0x2 (s.tierFault x) ∧ (s.tierFault x).tier = s.tier.failed x := by
  have hh : ∀ (u : Tiers) (cause : Nat), s.haltedFor 0x2 (State.halt { s with tier := u } 0x2 cause) ∧ (State.halt { s with tier := u } 0x2 cause).tier = u := by
    intro u cause
    refine ⟨State.haltedFor_halt (s := { s with tier := u }) 0x2 cause h, ?_⟩
    obtain ⟨y, e⟩ := State.halt_eq { s with tier := u } 0x2 cause h
    rw [e]
  unfold State.tierFault
  rw [if_pos h]
  cases x <;> exact hh _ _

/-- It ends the commands in progress but a STEP with TIER_FAULT, and then posts the change of state. -/
theorem State.tierFault_posts {s : State} (x : Tier) (h : s.live = true) :
    ∃ m p, s.tierFault x = (State.failAll { s with tier := s.tier.failed x, ms := m } .tierFault).post evState p := by
  have hh : ∀ (u : Tiers) (cause : Nat), ∃ m p, State.halt { s with tier := u } 0x2 cause =
      (State.failAll { s with tier := u, ms := m } .tierFault).post evState p := by
    intro u cause
    unfold State.live at h
    simp only [Bool.and_eq_true, bne_iff_ne, ne_eq] at h
    obtain ⟨⟨hon, hrom⟩, hhalted⟩ := h
    unfold State.halt
    rw [if_pos ⟨hon, hrom, hhalted⟩]
    exact ⟨_, _, rfl⟩
  unfold State.tierFault
  rw [if_pos h]
  cases x <;> exact hh _ _

/-- An event posted with nothing waiting is all that is written, and no completion waits. -/
theorem State.post_alone {s : State} (h : s.host.held = []) (c : Nat) (p : List Byte) : (∀ a x q, HeldEntry.completion a x q ∉ (s.post c p).host.held) ∧
    ∀ a x, HostWrite.mem a x ∈ (s.post c p).host.out → HostWrite.mem a x ∈ s.host.out ∨ ∃ seq log2 y, x = eventEntry c seq log2 y := by
  unfold State.post State.flush
  rw [h, List.nil_append]
  split
  · unfold HostSide.emit
    dsimp only
    split
    · refine ⟨fun a x q hq => absurd hq (List.not_mem_nil), fun a x hx => ?_⟩
      rcases List.mem_append.mp hx with hx | hx
      · exact .inl hx
      · simp only [List.mem_cons, HostWrite.mem.injEq, reduceCtorEq, List.not_mem_nil, or_false] at hx
        exact .inr ⟨_, _, _, hx.2⟩
    · exact ⟨fun a x q hq => by simp at hq, fun a x hx => .inl hx⟩
  · exact ⟨fun a x q hq => by simp at hq, fun a x hx => .inl hx⟩

section
variable {s : State} (x : Tier) (hlive : s.live = true)
include hlive

theorem State.tierFault_ends {n i : Nat} {d : List Byte} (hb : (s.ring n).busy = some (i, d)) (hd : descOp d ≠ 0x04) :
    s.ended n { status := .tierFault, info := (s.cutShort n d).2, step := (s.cutShort n d).1 } (s.tierFault x) := by
  obtain ⟨m, p, e⟩ := State.tierFault_posts x hlive
  rw [e, State.failAll_rings]
  have h := State.failRings_ended (x := .tierFault) (s := { s with tier := s.tier.failed x, ms := m }) (State.ring_mem hb) hb hd
  exact State.ended_goesOn (s := s) h (State.post_goesOn _ _ _)

theorem State.tierFault_step {n i : Nat} {d : List Byte} (hb : (s.ring n).busy = some (i, d)) (hd : descOp d = 0x04) :
    ((s.tierFault x).ring n).busy = some (i, d) := by
  obtain ⟨m, p, e⟩ := State.tierFault_posts x hlive
  rw [e, State.ring, State.post_rings, State.failAll_rings]
  have h := State.failRings_step (x := .tierFault) (s := { s with tier := s.tier.failed x, ms := m }) (s.host.rings.map (·.1)) hb hd
  exact (congrArg Ring.busy h).trans hb

theorem State.tierFault_silent (hsteps : ∀ n i d, (s.ring n).busy = some (i, d) → descOp d = 0x04) (hheld : s.host.held = []) :
    (∀ a y q, HeldEntry.completion a y q ∉ (s.tierFault x).host.held) ∧
    ∀ a y, HostWrite.mem a y ∈ (s.tierFault x).host.out → HostWrite.mem a y ∈ s.host.out ∨ ∃ seq log2 z, y = eventEntry evState seq log2 z := by
  obtain ⟨m, p, e⟩ := State.tierFault_posts x hlive
  rw [e, State.failAll_rings, State.failRings_steps (s := { s with tier := s.tier.failed x, ms := m }) _ hsteps]
  exact State.post_alone (s := { s with tier := s.tier.failed x, ms := m }) hheld evState p

end

/-! ### The flash translation layer (08 R207-R209) -/

/-- What flash shows of the blocks left. -/
def State.showBlocks (s : State) (f : FlashBlocks) : State :=
  (State.setCounter { s with ind := { s.ind with
    flashGood := BitVec.ofNat 32 f.good
    flashSpare := BitVec.ofNat 32 f.spare } } cFlashSpare (BitVec.ofNat 64 f.spare)).keepBlocks

/-- With 1 % of the blocks left as replacements, flash only shows them. -/
theorem State.flashBlocks_shows {s : State} {f : FlashBlocks} (h : f.raw ≤ f.spare * 100) : s.flashBlocks f = s.showBlocks f := if_neg (Nat.not_lt.mpr h)

/-- With fewer, flash is read-only, which is a tier fault. -/
theorem State.flashBlocks_halts {s : State} {f : FlashBlocks} (h : f.spare * 100 < f.raw) (hlive : s.live = true) :
    s.haltedFor 0x2 (s.flashBlocks f) ∧ (s.flashBlocks f).tier.flashRo = true ∧ (s.flashBlocks f).tier.flashFault = true := by
  rw [State.flashBlocks, if_pos h]
  obtain ⟨hh, ht⟩ := State.tierFault_halts (s := { s.showBlocks f with tier := { (s.showBlocks f).tier with flashRo := true } }) .flash hlive
  rw [State.showBlocks] at hh ht
  exact ⟨hh, congrArg Tiers.flashRo ht, congrArg Tiers.flashFault ht⟩

/-- The blocks shown. -/
theorem State.showBlocks_shows (s : State) (f : FlashBlocks) : (s.showBlocks f).ind.flashGood = BitVec.ofNat 32 f.good ∧
    (s.showBlocks f).ind.flashSpare = BitVec.ofNat 32 f.spare ∧ (s.showBlocks f).counter cFlashSpare = BitVec.ofNat 64 f.spare ∧
    { s.showBlocks f with ind := s.ind, ctr := s.ctr, tier := { (s.showBlocks f).tier with blocks := s.tier.blocks } } = s :=
  ⟨rfl, rfl, NMap.get_set_self _ _ _ _, rfl⟩

/-- The program/erase counts shown. -/
def State.showWear (s : State) (peMax peAvg : Nat) : State :=
  State.setCounter { s with ind := { s.ind with
    flashPeMax := BitVec.ofNat 32 peMax
    flashPeAvg := BitVec.ofNat 32 peAvg } } cFlashPe (BitVec.ofNat 64 peAvg)

/-- The blocks are shown beside the counts. -/
theorem State.showBlocks_wear (s : State) (peMax peAvg : Nat) (f : FlashBlocks) : ((s.showWear peMax peAvg).showBlocks f).ind.flashPeMax = BitVec.ofNat 32 peMax ∧
    ((s.showWear peMax peAvg).showBlocks f).ind.flashPeAvg = BitVec.ofNat 32 peAvg ∧
    ((s.showWear peMax peAvg).showBlocks f).counter cFlashPe = BitVec.ofNat 64 peAvg :=
  ⟨rfl, rfl, (NMap.get_set_ne _ _ _ _ _ (by decide)).trans (NMap.get_set_self _ _ _ _)⟩

/-- Garbage collection acts below 2 % of free blocks. -/
theorem exec_flashGarbageCollection {s : State} (n : Nat) (f : FlashBlocks) (h : s.live = true) :
    exec (.flashGarbageCollection n f) s = .next (if n * 100 < 2 * f.raw then s.flashBlocks f else s) := by
  show Host.Outcome.next (flashGarbageCollection n f s) = _
  rw [flashGarbageCollection, h, Bool.true_and]
  simp only [decide_eq_true_eq]

/-- Wear levelling acts beyond 500 cycles above the average. -/
theorem exec_wearLevelling {s : State} (n k : Nat) (f : FlashBlocks) (h : s.live = true) :
    exec (.wearLevelling n k f) s = .next (if k + 500 < n then (s.showWear n k).flashBlocks f else s) := by
  show Host.Outcome.next (wearLevelling n k f s) = _
  rw [wearLevelling, h, Bool.true_and]
  simp only [decide_eq_true_eq, State.showWear]

/-- A refresh acts from 50,000 reads on. -/
theorem exec_readDisturbRefresh {s : State} (n : Nat) (f : FlashBlocks) (h : s.live = true) :
    exec (.readDisturbRefresh n f) s = .next (if 50000 ≤ n then s.flashBlocks f else s) := by
  show Host.Outcome.next (readDisturbRefresh n f s) = _
  rw [readDisturbRefresh, h, Bool.true_and]
  simp only [decide_eq_true_eq]

/-- The commands by which a tier fails outright. -/
theorem exec_tierFault {s : State} {c : Instr} {n : Nat} (hc : c = .flashControllerTimeout ∨ (n < 256 ∧ c = .interfaceLockLoss n) ∨ c = .dramLinkTrainingLoss) :
    ∃ x, exec c s = .next (s.tierFault x) := by
  rcases hc with rfl | ⟨hn, rfl⟩ | rfl
  · exact ⟨.flash, rfl⟩
  · exact ⟨.hbm, congrArg Host.Outcome.next (if_pos hn)⟩
  · exact ⟨.dram, rfl⟩

/-- The commands of the translation layer beyond their limits: with the counts shown by wear levelling, the blocks left. -/
theorem exec_flashWork {s : State} {c : Instr} {f : FlashBlocks} {n k : Nat} (hlive : s.live = true)
    (hc : c = .flashGarbageCollection n f ∧ n * 100 < 2 * f.raw ∨ c = .wearLevelling n k f ∧ k + 500 < n ∨ c = .readDisturbRefresh n f ∧ 50000 ≤ n) :
    (exec c s = .next (s.flashBlocks f) ∧ c ≠ .wearLevelling n k f) ∨ exec c s = .next ((s.showWear n k).flashBlocks f) := by
  rcases hc with ⟨rfl, h⟩ | ⟨rfl, h⟩ | ⟨rfl, h⟩
  · exact .inl ⟨by rw [exec_flashGarbageCollection n f hlive, if_pos h], by simp⟩
  · exact .inr (by rw [exec_wearLevelling n k f hlive, if_pos h])
  · exact .inl ⟨by rw [exec_readDisturbRefresh n f hlive, if_pos h], by simp⟩

/-- Settles O46: a tier fault halts the module and ends ring after ring; the translation layer shows the blocks left, or fails its tier. -/
theorem tierFaults : Obligations.TierFaults := by
  unfold Obligations.TierFaults
  intro s f n k hlive
  refine ⟨?_, fun hn => ?_, ?_, fun c t hc he => ?_, fun h => ?_, fun h => ?_, fun h => ?_, fun c hc => ⟨fun hf => ?_, fun hf => ?_⟩⟩
  · obtain ⟨hh, ht⟩ := State.tierFault_halts .flash hlive
    exact ⟨_, rfl, hh, congrArg Tiers.flashFault ht⟩
  · obtain ⟨hh, ht⟩ := State.tierFault_halts .hbm hlive
    exact ⟨_, congrArg Host.Outcome.next (if_pos hn), hh, congrArg Tiers.hbmFault ht⟩
  · obtain ⟨hh, ht⟩ := State.tierFault_halts .dram hlive
    exact ⟨_, rfl, hh, congrArg Tiers.dramFault ht⟩
  · obtain ⟨x, hx⟩ := exec_tierFault hc
    obtain rfl : s.tierFault x = t := Host.Outcome.next.inj (hx.symm.trans he)
    exact ⟨fun r i d => State.tierFault_ends x hlive, fun r i d => State.tierFault_step x hlive, State.tierFault_silent x hlive⟩
  · rw [exec_flashGarbageCollection n f hlive, if_neg (Nat.not_lt.mpr h)]
  · rw [exec_wearLevelling n k f hlive, if_neg (Nat.not_lt.mpr h)]
  · rw [exec_readDisturbRefresh n f hlive, if_neg (Nat.not_le.mpr h)]
  · rcases exec_flashWork hlive hc with ⟨he, hw⟩ | he
    · obtain ⟨hgood, hspare, hctr, hrest⟩ := s.showBlocks_shows f
      exact ⟨_, he.trans (congrArg _ (State.flashBlocks_shows hf)), hgood, hspare, hctr, hrest, fun h => absurd h hw⟩
    · obtain ⟨hgood, hspare, hctr, -⟩ := (s.showWear n k).showBlocks_shows f
      exact ⟨_, he.trans (congrArg _ (State.flashBlocks_shows hf)), hgood, hspare, hctr, rfl, fun _ => s.showBlocks_wear n k f⟩
  · rcases exec_flashWork hlive hc with ⟨he, -⟩ | he
    · exact ⟨_, he, State.flashBlocks_halts hf hlive⟩
    · exact ⟨_, he, State.flashBlocks_halts (s := s.showWear n k) hf hlive⟩

end Sys2Proof.Machine
end

section
/-! PROOFS. What COPY stores and what it refuses (13 R343, 08 R187, R207). -/

namespace Sys2Proof.Machine

open Sys2Proof

/-! ### A flash block that fails on the way (08 R208) -/

/-- A tier fault loses nothing that has been posted or sent. -/
theorem State.tierFault_goesOn (s : State) (x : Tier) : s.goesOn (s.tierFault x) := by
  by_cases h : s.live = true
  · obtain ⟨m, p, e⟩ := State.tierFault_posts x h
    rw [e, State.failAll_rings]
    exact State.goesOn_trans (t := { s with tier := s.tier.failed x, ms := m }) (State.goesOn_of_same rfl rfl)
      (State.goesOn_trans (State.failRings_goesOn _ _ _) (State.post_goesOn _ _ _))
  · unfold State.tierFault
    rw [if_neg h]
    exact s.goesOn_refl

/-- No tier fault makes a flash page readable or unreadable. -/
theorem State.tierFault_unreadable (s : State) (x : Tier) : (s.tierFault x).tier.unreadable = s.tier.unreadable := by
  by_cases h : s.live = true
  · rw [(State.tierFault_halts x h).2]
    cases x <;> rfl
  · unfold State.tierFault
    rw [if_neg h]

/-- With less than 1 % of the blocks left as replacements, flash shows them, is read-only, and fails. -/
theorem State.flashBlocks_fails {s : State} {f : FlashBlocks} (h : f.spare * 100 < f.raw) :
    s.flashBlocks f = State.tierFault { s.showBlocks f with tier := { (s.showBlocks f).tier with flashRo := true } } .flash := if_pos h

theorem State.badBlocks_goesOn (s : State) (bad : Option FlashBlocks) : s.goesOn (s.badBlocks bad) := by
  cases bad with
  | none => exact s.goesOn_refl
  | some f =>
    show s.goesOn (s.flashBlocks f)
    by_cases h : f.spare * 100 < f.raw
    · rw [State.flashBlocks_fails h]
      exact State.goesOn_trans (t := { s.showBlocks f with tier := { (s.showBlocks f).tier with flashRo := true } }) (State.goesOn_of_same rfl rfl)
        (State.tierFault_goesOn _ _)
    · rw [State.flashBlocks_shows (Nat.le_of_not_lt h)]
      exact State.goesOn_of_same rfl rfl

theorem State.badBlocks_unreadable (s : State) (bad : Option FlashBlocks) : (s.badBlocks bad).tier.unreadable = s.tier.unreadable := by
  cases bad with
  | none => rfl
  | some f =>
    show (s.flashBlocks f).tier.unreadable = s.tier.unreadable
    by_cases h : f.spare * 100 < f.raw
    · rw [State.flashBlocks_fails h, State.tierFault_unreadable]
      rfl
    · rw [State.flashBlocks_shows (Nat.le_of_not_lt h)]
      rfl

/-! ### Buffers of a COPY -/

theorem bufSpace_of_bufOk {a : Nat} (h : bufOk a = true) : bufSpace a = 0 ∨ bufSpace a = 1 := by
  simp only [bufOk, Bool.or_eq_true, Bool.and_eq_true, beq_iff_eq] at h
  exact h.elim .inr fun h => .inl h.1

/-- A COPY whose fields are in order names host memory or device memory (13 R333, R343). -/
theorem copy_bufSpaces {d : List Byte} (ho : descOp d = 0x09) (hd : descOk d = true) :
    (bufSpace (field d 16 8) = 0 ∨ bufSpace (field d 16 8) = 1) ∧ (bufSpace (field d 24 8) = 0 ∨ bufSpace (field d 24 8) = 1) := by
  have h : fieldsOk d = true := by
    simp only [descOk, Bool.and_eq_true] at hd
    exact hd.2
  simp only [fieldsOk, ho, Bool.and_eq_true] at h
  exact ⟨bufSpace_of_bufOk h.1.2, bufSpace_of_bufOk h.2⟩

/-- What COPY may read, DMA engines may read. -/
theorem State.dmaReads_of_copyReads {s : State} {a n : Nat} (h : s.copyReads a n = true) : s.dmaReads a n = true := by
  unfold State.copyReads at h
  unfold State.dmaReads
  cases hp : s.placeOfRange a n <;> simp_all

/-- A buffer that has been read gives as many bytes as were asked for. -/
theorem State.length_readBuffer {s : State} {a n : Nat} {host b : List Byte} (h : s.readBuffer a n host = .ok b) : b.length = n := by
  unfold State.readBuffer at h
  split at h
  · cases h
    exact length_fit n host
  · split at h
    · next hn =>
      cases h
      exact hn.symm
    · split at h
      · cases h
      · split at h
        · cases h
        · cases h
          simp [State.read]

/-- A flash page in the way of a read that COPY may make. -/
theorem State.readBuffer_unreadable {s : State} {a n : Nat} (host : List Byte) (ha : bufSpace a = 0) (hn : n ≠ 0) (hr : s.copyReads (bufDa a) n = true)
    (hu : s.unreadable (bufDa a) n = true) : s.readBuffer a n host = .error .memoryUncorrectable := by
  simp [State.readBuffer, ha, hn, State.dmaReads_of_copyReads hr, hu]

/-! ### The branches of COPY -/

section
variable {s : State} {n : Nat} {d : List Byte} (host : List Byte) (bad : Option FlashBlocks) (h : s.takes n 0x09 d)
include h

/-- A source or destination that the rules of COPY exclude. -/
theorem exec_copy_refused
    (hx : (bufSpace (field d 16 8) = 1 ∧ bufSpace (field d 24 8) = 1) ∨
      (bufSpace (field d 16 8) = 0 ∧ field d 32 8 ≠ 0 ∧ s.copyReads (bufDa (field d 16 8)) (field d 32 8) = false) ∨
      (bufSpace (field d 24 8) = 0 ∧ field d 32 8 ≠ 0 ∧ s.copyWrites (bufDa (field d 24 8)) (field d 32 8) = false)) :
    exec (.copy n ⟨host, bad⟩) s = .next ((s.takenUp n).complete n { status := .indexRange }) := by
  have hr : ∀ a k, (s.takenUp n).copyReads a k = s.copyReads a k := fun a k => by obtain ⟨y, e⟩ := s.takenUp_eq n; rw [e]; rfl
  have hw : ∀ a k, (s.takenUp n).copyWrites a k = s.copyWrites a k := fun a k => by obtain ⟨y, e⟩ := s.takenUp_eq n; rw [e]; rfl
  show Host.Outcome.next (copy n host bad s) = _
  rw [copy, State.command_takes s n 0x09 d (fun _ => true) _ h rfl]
  simp only [hr, hw]
  congr 1
  by_cases h1 : bufSpace (field d 16 8) = 1 ∧ bufSpace (field d 24 8) = 1
  · exact if_pos h1
  · rw [if_neg h1]
    rcases hx with hx | hx | hx
    · exact absurd hx h1
    · exact if_pos hx
    · rw [if_pos hx, ite_self]

section
variable (hs : bufSpace (field d 16 8) = 0 ∨ bufSpace (field d 24 8) = 0)
  (hr : bufSpace (field d 16 8) = 0 → field d 32 8 ≠ 0 → s.copyReads (bufDa (field d 16 8)) (field d 32 8) = true)
  (hw : bufSpace (field d 24 8) = 0 → field d 32 8 ≠ 0 → s.copyWrites (bufDa (field d 24 8)) (field d 32 8) = true)
include hs hr hw

/-- A COPY that the rules allow goes by what reading its source gives. -/
theorem exec_copy_allowed : exec (.copy n ⟨host, bad⟩) s = .next (match s.readBuffer (field d 16 8) (field d 32 8) host with
    | .error x => (s.takenUp n).complete n { status := x }
    | .ok b =>
      if bufSpace (field d 24 8) = 0 then
        let t := (((s.takenUp n).write (bufDa (field d 24 8)) b).rewritten (bufDa (field d 24 8)) (field d 32 8)).complete n
          { status := .ok, info := field d 32 8 }
        if field d 32 8 ≠ 0 ∧ s.placeOf (bufDa (field d 24 8)) = .flash then t.badBlocks bad else t
      else
        match (s.takenUp n).writeBuffer (field d 24 8) b with
        | none => (s.takenUp n).complete n { status := .indexRange }
        | some t => t.complete n { status := .ok, info := field d 32 8 }) := by
  obtain ⟨y, e⟩ := s.takenUp_eq n
  have notHost : ¬ (bufSpace (field d 16 8) = 1 ∧ bufSpace (field d 24 8) = 1) := by omega
  have reads : ¬ (bufSpace (field d 16 8) = 0 ∧ field d 32 8 ≠ 0 ∧ (s.takenUp n).copyReads (bufDa (field d 16 8)) (field d 32 8) = false) :=
    fun ⟨h1, h2, h3⟩ => by
      rw [e] at h3
      exact Bool.false_ne_true (h3.symm.trans (hr h1 h2))
  have writes : ¬ (bufSpace (field d 24 8) = 0 ∧ field d 32 8 ≠ 0 ∧ (s.takenUp n).copyWrites (bufDa (field d 24 8)) (field d 32 8) = false) :=
    fun ⟨h1, h2, h3⟩ => by
      rw [e] at h3
      exact Bool.false_ne_true (h3.symm.trans (hw h1 h2))
  have buffer : (s.takenUp n).readBuffer (field d 16 8) (field d 32 8) host = s.readBuffer (field d 16 8) (field d 32 8) host := by rw [e]; rfl
  have place : (s.takenUp n).placeOf (bufDa (field d 24 8)) = s.placeOf (bufDa (field d 24 8)) := by rw [e]; rfl
  show Host.Outcome.next (copy n host bad s) = _
  rw [copy, State.command_takes s n 0x09 d (fun _ => true) _ h rfl]
  simp only [if_neg notHost, if_neg reads, if_neg writes, buffer, place] <;> rfl

/-- A source that cannot be read ends it. -/
theorem exec_copy_unread {x : Status} (hx : s.readBuffer (field d 16 8) (field d 32 8) host = .error x) :
    exec (.copy n ⟨host, bad⟩) s = .next ((s.takenUp n).complete n { status := x }) := by
  rw [exec_copy_allowed host bad h hs hr hw, hx]

variable {b : List Byte} (hb : s.readBuffer (field d 16 8) (field d 32 8) host = .ok b)
include hb

/-- To the host it puts the bytes into the buffer and completes. -/
theorem exec_copy_toHost (hd : bufSpace (field d 24 8) = 1) : exec (.copy n ⟨host, bad⟩) s =
    .next (((s.takenUp n).putBuffer (field d 24 8) b).complete n { status := .ok, info := field d 32 8 }) := by
  have put : (s.takenUp n).writeBuffer (field d 24 8) b = some ((s.takenUp n).putBuffer (field d 24 8) b) := by
    simp [State.writeBuffer, State.bufferTakes, hd]
  rw [exec_copy_allowed host bad h hs hr hw, hb]
  simp [hd, put]

/-- To the device it writes the bytes, makes the pages readable that it rewrites, completes, and may retire a flash block. -/
theorem exec_copy_toDevice (hd : bufSpace (field d 24 8) = 0) : ∃ x : Option FlashBlocks,
    (bad = none ∨ field d 32 8 = 0 ∨ bufSpace (field d 24 8) = 1 ∨ s.placeOf (bufDa (field d 24 8)) ≠ .flash → x = none) ∧
    exec (.copy n ⟨host, bad⟩) s = .next (State.badBlocks ((((s.takenUp n).write (bufDa (field d 24 8)) b).rewritten (bufDa (field d 24 8))
      (field d 32 8)).complete n { status := .ok, info := field d 32 8 }) x) := by
  rw [exec_copy_allowed host bad h hs hr hw, hb]
  simp only [hd, if_true]
  split
  · next hf =>
    refine ⟨bad, fun hx => ?_, rfl⟩
    rcases hx with hx | hx | hx | hx
    · exact hx
    · exact absurd hx hf.1
    · cases hx
    · exact absurd hf.2 hx
  · exact ⟨none, fun _ => rfl, rfl⟩

end

/-! ### What a COPY leaves -/

/-- Bytes put into a buffer of the host before the completion. -/
theorem State.putBuffer_complete {a : Nat} (ha : bufSpace a = 1) (b : List Byte) (c : Cpl) :
    s.answered n d c (((s.takenUp n).putBuffer a b).complete n c) ∧ s.delivers (((s.takenUp n).putBuffer a b).complete n c) a b ∧
    s.hostOnly (((s.takenUp n).putBuffer a b).complete n c) := by
  obtain ⟨y, e⟩ := s.takenUp_eq n
  have kept : (s.takenUp n).putBuffer a b = { s with host := { y with out := y.out ++ [.mem (bits a 0 62) b] } } := by
    rw [State.putBuffer, if_pos ha, e]
  have delivered : s.delivers ((s.takenUp n).putBuffer a b) a b := by
    rw [kept]
    exact ⟨fun _ => List.mem_append_right _ (List.mem_singleton_self _), fun h' => absurd ha h', fun _ _ => rfl⟩
  refine ⟨State.answered_complete s _ n d c h.1 (((s.takenUp n).putBuffer_delivers a b).2 n), ?_, ?_⟩
  · exact State.delivers_kept delivered (fun x => by simp [State.byte]) fun w hw => State.complete_out n c hw
  · rw [kept]
    obtain ⟨hs, hm⟩ := State.complete_hostOnly { s with host := { y with out := y.out ++ [.mem (bits a 0 62) b] } } n c
    exact ⟨congrArg (fun u : State => { u with host := s.host }) hs, hm⟩

/-- Bytes written to the device before the completion, whose flash pages become readable again; a block may be retired behind it. -/
theorem State.rewritten_complete {a k : Nat} {b : List Byte} (ha : bufSpace a = 0) (c : Cpl) (x : Option FlashBlocks) (t : State)
    (ht : t = State.badBlocks ((((s.takenUp n).write (bufDa a) b).rewritten (bufDa a) k).complete n c) x) :
    s.answered n d c t ∧ s.delivers t a b ∧ (∀ p ∈ t.tier.unreadable, p ∈ s.tier.unreadable) ∧
    (x = none → s.hostOnly { t with mem := s.mem, tier := s.tier }) := by
  obtain ⟨y, e⟩ := s.takenUp_eq n
  have hbusy : (((s.takenUp n).write (bufDa a) b).rewritten (bufDa a) k).ring n = (s.takenUp n).ring n := rfl
  generalize hu : ((s.takenUp n).write (bufDa a) b).rewritten (bufDa a) k = u at ht hbusy
  have ended : u.ended n c t := by
    rw [ht]
    refine State.ended_goesOn (State.complete_ended rfl ?_) (State.badBlocks_goesOn _ x)
    rw [hbusy, State.takenUp_busy s n d h.1]
    rfl
  have bytes : ∀ i, t.byte i = (s.write (bufDa a) b).byte i := fun i => by
    rw [ht, State.byte, (State.badBlocks_keeps _ x).1, State.complete_mem, ← hu, e]
    rfl
  refine ⟨State.answered_of_ended h.1 hbusy ended, ⟨fun h' => ?_, fun _ => ?_, fun i hi => ?_⟩, fun p hp => ?_, ?_⟩
  · rw [ha] at h'
    cases h'
  · exact (State.read_congr fun i _ => bytes _).trans (s.read_write _ _)
  · rw [bytes]
    refine s.byte_write_outside _ _ _ ?_
    omega
  · obtain ⟨_, _, e'⟩ := u.complete_eq n c
    rw [ht, State.badBlocks_unreadable, e', ← hu, e] at hp
    exact (List.mem_filter.mp hp).1
  · rintro rfl
    obtain ⟨hs, hm⟩ := State.complete_hostOnly u n c
    have hf : { u with host := s.host, mem := s.mem, tier := s.tier } = s := by rw [← hu, e]; rfl
    have hms : u.ms.st = s.ms.st := by rw [← hu, e]; rfl
    rw [hms] at hs hm
    subst ht
    exact ⟨(congrArg (fun v : State => { v with host := s.host, mem := s.mem, tier := s.tier }) hs).trans hf, hm⟩

end

/-- Settles O17: the rules of COPY decide first, then what reading the source gives, then where the bytes go. -/
theorem copyStores : Obligations.CopyStores := by
  unfold Obligations.CopyStores
  rintro s n src dst len d host bad h rfl rfl rfl
  refine ⟨fun hs hr hw => ⟨fun b hb => ?_, fun hsrc hlen hu => ?_⟩, fun hx => ?_⟩
  · rcases (copy_bufSpaces h.2.1 h.2.2.1).2 with hd | hd
    · obtain ⟨x, hx, he⟩ := exec_copy_toDevice host bad h hs hr hw hb hd
      obtain ⟨answered, delivered, pages, rest⟩ := State.rewritten_complete h hd _ x _ rfl
      exact ⟨_, he, answered, delivered, pages, fun hbad => rest (hx hbad)⟩
    · obtain ⟨answered, delivered, rest⟩ := State.putBuffer_complete h hd b { status := .ok, info := field d 32 8 }
      have tier := congrArg State.tier rest.1
      refine ⟨_, exec_copy_toHost host bad h hs hr hw hb hd, answered, delivered, fun p hp => ?_, fun _ => ⟨?_, rest.2⟩⟩
      · exact tier ▸ hp
      · exact congrArg (fun u : State => { u with mem := s.mem, tier := s.tier }) rest.1
  · have hread := State.readBuffer_unreadable host hsrc hlen (hr hsrc hlen) hu
    obtain ⟨answered, rest⟩ := State.takenUp_complete h { status := .memoryUncorrectable }
    exact ⟨_, exec_copy_unread host bad h hs hr hw hread, answered, rest⟩
  · obtain ⟨answered, rest⟩ := State.takenUp_complete h { status := .indexRange }
    exact ⟨_, exec_copy_refused host bad h hx, answered, rest⟩

end Sys2Proof.Machine
end

section
/-! PROOFS. A read that is lost while a module that is no member holds a step (08 R195, 01 R29). -/

namespace Sys2Proof.Machine

open Sys2Proof Sys2Proof.Tests

/-- A burst of HBM that does not decode, before four clean further reads: its page is kept. -/
def keptBurst : RawRead := lostAt 0 36 true

/-- The burst is lost, its page kept, and it serves the step of the QUIESCED module. -/
theorem keptBurst_lost : burst quiescedInStep keptBurst (servesStep .step) true := by decide +kernel

/-- No message leaves the QUIESCED module for it. -/
theorem keptBurst_silent : (uncorrectableRead keptBurst .step quiescedInStep).net.sent = [] := by decide +kernel

/-- Refutes O47: a module that is live and no member reports nothing. Here it is QUIESCED with a step that waits in Sample; a burst that serves the step is
lost and its page kept, which is to be reported to rank 1, and no message leaves. -/
theorem not_failedReads : ¬ Obligations.FailedReads := by
  unfold Obligations.FailedReads
  intro h
  obtain ⟨live, place, lost, reads, kept⟩ := keptBurst_lost
  obtain ⟨-, -, -, -, hbm, -⟩ := h quiescedInStep keptBurst live
  obtain ⟨onceKept, -⟩ := hbm .step _ place lost rfl true reads kept
  obtain ⟨t, ht, -, -, -, -, reported⟩ := onceKept rfl (.inl rfl)
  obtain ⟨m, hm, -⟩ := reported rfl rfl 1 (by decide)
  obtain rfl : uncorrectableRead keptBurst .step quiescedInStep = t := Host.Outcome.next.inj ht
  rw [keptBurst_silent] at hm
  cases hm

end Sys2Proof.Machine
end

section
/-! SUPPORT. What the operations of Confluence change: re-requests, the checks on addition, the sums of slices and rows, and the end of Reduce
(09 R213-R231). -/

namespace Sys2Proof.Machine

open Sys2Proof

/-! ### Staging and re-requests -/

/-- The state with a segment staged, in place of its failed copy (09 R215). -/
def State.withSegment (s : State) (x : Seg) : State :=
  { s.replaced x with conf := { (s.replaced x).conf with staged := (s.replaced x).conf.staged ++ [x] } }

/-- The staging region that the loader placed. -/
def State.stagingArea (s : State) : List Region := s.prog.elim [] fun p => [{ base := p.place.staging, len := p.decl.rxMax }]

theorem State.stagedBytes_withSegment (s : State) (x : Seg) : (s.withSegment x).stagedBytes = (s.replaced x).stagedBytes + x.payload.length := by
  simp only [State.stagedBytes, State.withSegment, List.map_append, List.sum_append, List.map_cons, List.map_nil, List.sum_singleton]
  omega

theorem length_stagedPayloads (s : State) : ((s.conf.staged ++ s.conf.failed).flatMap (·.payload)).length = s.stagedBytes := by
  rw [List.length_flatMap, State.stagedBytes]

/-- What is staged is stored in the staging region, and nowhere else when it has room. -/
theorem State.keepStaged_eq {s : State} (h : s.stagedBytes ≤ s.decl.elim 0 (·.rxMax)) : (∃ m, s.keepStaged = { s with mem := m }) ∧
    s.storesBut s.keepStaged s.stagingArea ∧
    ∀ p, s.prog = some p → s.keepStaged.read p.place.staging s.stagedBytes = (s.conf.staged ++ s.conf.failed).flatMap (·.payload) := by
  rcases Option.eq_none_or_eq_some s.prog with hp | ⟨p, hp⟩
  · have e : s.keepStaged = s := by rw [State.keepStaged, hp]; rfl
    rw [e]
    exact ⟨⟨s.mem, rfl⟩, ⟨fun _ _ => rfl, rfl, rfl, rfl, rfl⟩, fun q hq => nomatch hp.symm.trans hq⟩
  · have e : s.keepStaged = s.write p.place.staging ((s.conf.staged ++ s.conf.failed).flatMap (·.payload)) := by rw [State.keepStaged, hp]; rfl
    have hl := length_stagedPayloads s
    have fits : s.stagedBytes ≤ p.decl.rxMax := by simpa [State.decl, hp] using h
    rw [e]
    refine ⟨⟨_, rfl⟩, ⟨fun a ha => State.byte_write_outside _ _ _ _ ?_, rfl, rfl, rfl, rfl⟩, fun q hq => ?_⟩
    · have ha := ha { base := p.place.staging, len := p.decl.rxMax } (by simp [State.stagingArea, hp])
      dsimp only at ha
      omega
    · obtain rfl : p = q := Option.some.inj (hp.symm.trans hq)
      rw [← hl]
      exact State.read_write _ _ _

/-- A contribution asked for again leaves staging, its segments kept as the failed copy, and is noted (09 R215, R223). -/
theorem State.rerequest_eq (s : State) (kind id src : Nat) : ∃ n c, s.rerequest kind id src = { s with
    net := n
    ctr := c
    conf := { s.conf with
      staged := s.conf.staged.filter fun y => !(y.kind == kind && y.id == id && y.src == src)
      failed := s.conf.failed ++ s.conf.staged.filter fun y => y.kind == kind && y.id == id && y.src == src
      retried := (kind, id, src) :: s.conf.retried } } := by
  obtain ⟨n, c, e⟩ := State.send_eq (State.count { s with conf := _ } cConfRerequest 1)
    (mkMsg 2 1 0 src (leBytes 4 s.st.stepNo ++ leBytes 1 s.attempt ++ leBytes 1 kind ++ leBytes 2 src ++ leBytes 4 id ++ zeros 4))
  exact ⟨n, c, e⟩

/-- A re-request keeps every byte staged, but as a failed copy. -/
theorem State.rerequest_staged (s : State) (kind id src : Nat) : (s.rerequest kind id src).segsOf kind id src = [] ∧
    (s.rerequest kind id src).stagedBytes = s.stagedBytes := by
  obtain ⟨n, c, e⟩ := s.rerequest_eq kind id src
  rw [e]
  constructor
  · simp [State.segsOf]
  · have hp := ((List.filter_append_perm (fun y : Seg => y.kind == kind && y.id == id && y.src == src) s.conf.staged).map (·.payload.length)).sum_eq
    simp only [State.stagedBytes, List.map_append, List.sum_append] at hp ⊢
    omega

/-- The re-request goes to the contributor (09 R223, log entry 42). -/
theorem State.rerequest_emits {s : State} (hl : s.live = true) (kind id src : Nat) : s.emits (s.rerequest kind id src)
    (mkMsg 2 1 0 src (leBytes 4 s.st.stepNo ++ leBytes 1 s.attempt ++ leBytes 1 kind ++ leBytes 2 src ++ leBytes 4 id ++ zeros 4)) :=
  State.send_emits (State.count { s with conf := _ } cConfRerequest 1) _ hl

/-- Contributions asked for again in turn: each is noted, and nothing else changes but staging, the network side and the counters. -/
theorem State.foldl_rerequest_eq (kind id : Nat) (l : List (Nat × List Byte)) (s : State) : ∃ n c a b k, (∀ p ∈ l, (kind, id, p.1) ∈ k) ∧ s.conf.retried ⊆ k ∧
    l.foldl (fun s p => s.rerequest kind id p.1) s = { s with net := n, ctr := c, conf := { s.conf with staged := a, failed := b, retried := k } } := by
  induction l generalizing s with
  | nil => exact ⟨s.net, s.ctr, s.conf.staged, s.conf.failed, s.conf.retried, nofun, List.Subset.refl _, rfl⟩
  | cons p t ih =>
    obtain ⟨n, c, e⟩ := s.rerequest_eq kind id p.1
    obtain ⟨n', c', a, b, k, noted, kept, e'⟩ := ih (s.rerequest kind id p.1)
    rw [List.foldl_cons, e', e]
    rw [e] at kept
    refine ⟨n', c', a, b, k, fun q hq => ?_, fun y hy => kept (List.mem_cons_of_mem _ hy), rfl⟩
    rcases List.mem_cons.mp hq with rfl | hq
    · exact kept List.mem_cons_self
    · exact noted q hq

/-- When the sums on addition disagree for the first time, the contributions that disagree are asked for again (09 R224). -/
theorem State.aggregateFailed_eq {s : State} {kind id : Nat} {ps : Payloads} (hf : (kind, id) ∉ s.conf.aggFailed)
    (hb : ∃ p ∈ ps, (checksum p.2 != s.carriedSum kind id p.1) = true) : ∃ n c a b k,
    (∀ p ∈ ps, (checksum p.2 != s.carriedSum kind id p.1) = true → (kind, id, p.1) ∈ k) ∧
    s.aggregateFailed kind id ps = { s with
      net := n
      ctr := c
      conf := { s.conf with staged := a, failed := b, retried := k, aggFailed := (kind, id) :: s.conf.aggFailed } } := by
  obtain ⟨p, hp, hx⟩ := hb
  obtain ⟨n, c, a, b, k, noted, -, e⟩ := State.foldl_rerequest_eq kind id (ps.filter fun p => checksum p.2 != s.carriedSum kind id p.1)
    { s.count cConfAggFail 1 with conf := { s.conf with aggFailed := (kind, id) :: s.conf.aggFailed } }
  refine ⟨n, c, a, b, k, fun q hq hd => noted q (List.mem_filter.mpr ⟨hq, hd⟩), ?_⟩
  have again : (s.conf.aggFailed.contains (kind, id) || (ps.filter fun p => checksum p.2 != s.carriedSum kind id p.1).isEmpty) = false := by
    rw [Bool.or_eq_false_iff]
    exact ⟨by simpa using hf, List.isEmpty_eq_false_iff.mpr (List.ne_nil_of_mem (List.mem_filter.mpr ⟨hp, hx⟩))⟩
  have first : s.aggregateFailed kind id ps = (ps.filter fun p => checksum p.2 != s.carriedSum kind id p.1).foldl (fun s p => s.rerequest kind id p.1)
      { s.count cConfAggFail 1 with conf := { s.conf with aggFailed := (kind, id) :: s.conf.aggFailed } } := if_neg (ne_true_of_eq_false again)
  exact first.trans e

/-! ### Sums -/

/-- On the way from `s` to `t` only memory, the step, the sums and what waits or is sent have changed. -/
def State.sumsOnly (s t : State) : Prop :=
  { t with
    mem := s.mem
    st := s.st
    net := s.net
    ctr := s.ctr
    wd := s.wd
    bar := s.bar
    conf := { t.conf with rowSums := s.conf.rowSums, finite := s.conf.finite } } = s

theorem State.sumsOnly_refl (s : State) : s.sumsOnly s := rfl

theorem State.sumsOnly_iff (s t : State) : s.sumsOnly t ↔ ∃ m x n c w b l f, t =
    { s with mem := m, st := x, net := n, ctr := c, wd := w, bar := b, conf := { s.conf with rowSums := l, finite := f } } := by
  constructor
  · intro h
    refine ⟨t.mem, t.st, t.net, t.ctr, t.wd, t.bar, t.conf.rowSums, t.conf.finite, ?_⟩
    unfold State.sumsOnly at h
    rw [← h]
  · rintro ⟨m, x, n, c, w, b, l, f, rfl⟩
    rfl

theorem State.sumsOnly_trans {s t u : State} (h : s.sumsOnly t) (k : t.sumsOnly u) : s.sumsOnly u := by
  obtain ⟨m, x, n, c, w, b, l, f, rfl⟩ := (State.sumsOnly_iff _ _).mp h
  obtain ⟨m', x', n', c', w', b', l', f', rfl⟩ := (State.sumsOnly_iff _ _).mp k
  rfl

theorem State.sumsOnly_kept {s t : State} (h : s.sumsOnly t) : t.host = s.host ∧ t.prog = s.prog ∧ t.t7 = s.t7 ∧ t.conf.reduced = s.conf.reduced := by
  obtain ⟨m, x, n, c, w, b, l, f, rfl⟩ := (State.sumsOnly_iff _ _).mp h
  exact ⟨rfl, rfl, rfl, rfl⟩

theorem State.countFlag_eq (s : State) (p k : Nat) (a b : Bool) : ∃ c, s.countFlag p k a b = { s with ctr := c } := by
  unfold State.countFlag
  split
  · exact ⟨_, rfl⟩
  · exact ⟨s.ctr, rfl⟩

/-- The flags of a reduction change the counters only. -/
theorem State.raiseConf_eq (s : State) (f : AFlags) : ∃ c, s.raiseConf f = { s with ctr := c } := by
  unfold State.raiseConf
  obtain ⟨c1, e1⟩ := s.countFlag_eq (s.physical 0) 13 false f.nanOut
  obtain ⟨c2, e2⟩ := State.countFlag_eq { s with ctr := c1 } (s.physical 0) 14 false f.infOut
  obtain ⟨c3, e3⟩ := State.countFlag_eq { s with ctr := c2 } (s.physical 0) 15 false f.ovf
  obtain ⟨c4, e4⟩ := State.countFlag_eq { s with ctr := c3 } (s.physical 0) 16 false f.sat
  exact ⟨c4, by dsimp only; rw [e1, e2, e3, e4]⟩

theorem State.raiseConf_sumsOnly (s : State) (f : AFlags) : s.sumsOnly (s.raiseConf f) := by
  obtain ⟨c, e⟩ := s.raiseConf_eq f
  rw [e]
  rfl

theorem State.write_sumsOnly (s : State) (a : Nat) (b : List Byte) : s.sumsOnly (s.write a b) := rfl

theorem State.noteSums_sumsOnly (s : State) (rs : List (Nat × AFlags)) : s.sumsOnly (s.noteSums rs) := rfl

theorem State.noteBlock_sumsOnly (s : State) (key n : Nat) (b : BlockResult) : s.sumsOnly (s.noteBlock key n b) := by
  unfold State.noteBlock
  dsimp only
  split <;> rfl

theorem State.putRowSum_eq (s : State) (id row : Nat) (td : TableDecl) (b : List Byte) : ∃ m, s.putRowSum id row td b =
    { s with mem := m, conf := { s.conf with rowSums := s.conf.rowSums ++ [(id, row, b)] } } := by
  unfold State.putRowSum
  dsimp only
  split
  · exact ⟨_, rfl⟩
  · exact ⟨_, rfl⟩

theorem State.stepFault_sumsOnly (s : State) (x : Status) : s.sumsOnly (s.stepFault x) := by
  cases hr : s.st.run with
  | none => rw [State.stepFault_later (.inl hr)]; rfl
  | some r =>
    cases hf : r.fault with
    | none =>
      obtain ⟨n, c, e⟩ := State.stepFault_first hr hf x
      rw [e]
      rfl
    | some y => rw [State.stepFault_later (.inr ⟨r, hr, by rw [hf]; rfl⟩)]; rfl

theorem State.sumsOnly_foldl {α : Type} (f : State → α → State) (h : ∀ (s : State) y, s.sumsOnly (f s y)) (l : List α) (s : State) :
    s.sumsOnly (l.foldl f s) :=
  List.foldlRecOn (motive := s.sumsOnly) l f s.sumsOnly_refl fun t ht y _ => State.sumsOnly_trans ht (h t y)

/-- A slice reduced: its FP32 elements are summed and stored (09 R216, R219). -/
theorem State.reduceSlice_mem {s : State} {l : SlicePlace} (h : s.sliceBs8 l = false) (ps : Payloads) : (s.reduceSlice l ps).mem =
    (s.write l.result ((List.range l.count).flatMap fun i => leBytes 4 (reduceFp32 s.t7 (ps.map fun p => field p.2 (4 * i) 4)).1)).mem := by
  have fp32 : ¬ State.sliceBs8 ((s.count cConfContrib (ps.map (·.2)).length).count cConfAdds ((ps.map (·.2)).length * l.count)) l = true :=
    ne_true_of_eq_false h
  unfold State.reduceSlice
  dsimp only
  rw [if_neg fp32]
  generalize hu : State.noteSums _ _ = u
  obtain ⟨c, e⟩ := u.raiseConf_eq (AFlags.all _)
  rw [e, ← hu]
  simp only [State.noteSums, List.flatMap_map, List.map_map]
  rfl

theorem State.reduceSlice_sumsOnly (s : State) (l : SlicePlace) (ps : Payloads) : s.sumsOnly (s.reduceSlice l ps) := by
  have block : ∀ (t : State) a n k b, t.sumsOnly ((t.putBlock a n b).noteBlock k n b) := fun t a n k b =>
    State.sumsOnly_trans (t := t.putBlock a n b) rfl (State.noteBlock_sumsOnly _ k n b)
  unfold State.reduceSlice
  dsimp only
  split
  · exact State.sumsOnly_trans (t := (s.count _ _).count _ _) rfl (State.sumsOnly_foldl _ (fun t i => block t _ _ _ _) _ _)
  · exact State.sumsOnly_trans (t := (s.count _ _).count _ _) rfl (State.sumsOnly_trans (State.write_sumsOnly _ _ _)
      (State.sumsOnly_trans (State.noteSums_sumsOnly _ _) (State.raiseConf_sumsOnly _ _)))

/-- An FP32 element of a reduced slice, in its place. -/
theorem State.read_reduceSlice {s : State} {l : SlicePlace} (h : s.sliceBs8 l = false) (ps : Payloads) {i : Nat} (hi : i < l.count) :
    (s.reduceSlice l ps).read (l.result + 4 * i) 4 = leBytes 4 (reduceFp32 s.t7 (ps.map fun p => field p.2 (4 * i) 4)).1 := by
  have length : ∀ (f : Nat → Nat) k, ((List.range k).flatMap fun i => leBytes 4 (f i)).length = 4 * k := fun f k => by
    rw [List.length_flatMap, List.map_congr_left fun _ _ => length_leBytes _ _, List.map_const', List.length_range, List.sum_replicate, smul_eq_mul, Nat.mul_comm]
  have read := State.read_write s l.result ((List.range l.count).flatMap fun i => leBytes 4 (reduceFp32 s.t7 (ps.map fun p => field p.2 (4 * i) 4)).1)
  have piece := slice_flatMap (fun i => leBytes 4 (reduceFp32 s.t7 (ps.map fun p => field p.2 (4 * i) 4)).1) (List.range l.count)
    (fun _ _ => length_leBytes _ _) i (by rwa [List.length_range])
  rw [State.read, State.reduceSlice_mem h, ← State.read, ← State.slice_read (n := 4 * l.count) _ (by omega), ← length, read, piece, List.getElem_range]

/-- The FP32 sums of one row's contributions (09 R218, R219). -/
def rowSumOf (t7 : Bool) (td : TableDecl) (gs : List (List Byte)) : List Byte :=
  (List.range td.width).flatMap fun i => leBytes 4 (reduceFp32 t7 (gs.map fun g => field g (4 * i) 4)).1

/-- A row reduced: its FP32 sums are kept behind those of the rows before it. -/
theorem State.reduceRow_rowSums {s : State} {td : TableDecl} (h : td.gradBs8 = false) (id row : Nat) (gs : List (List Byte)) :
    (s.reduceRow id row td gs).1.conf.rowSums = s.conf.rowSums ++ [(id, row, rowSumOf s.t7 td gs)] := by
  unfold State.reduceRow
  rw [if_neg (ne_true_of_eq_false h)]
  dsimp only [State.noteSums]
  rw [List.flatMap_map]
  obtain ⟨m, e⟩ := s.putRowSum_eq id row td (rowSumOf s.t7 td gs)
  exact congrArg (fun u : State => u.conf.rowSums) e

theorem State.putRowSum_sumsOnly (s : State) (id row : Nat) (td : TableDecl) (b : List Byte) : s.sumsOnly (s.putRowSum id row td b) := by
  obtain ⟨m, e⟩ := s.putRowSum_eq id row td b
  rw [e]
  rfl

theorem State.reduceRow_sumsOnly (s : State) (id row : Nat) (td : TableDecl) (gs : List (List Byte)) : s.sumsOnly (s.reduceRow id row td gs).1 := by
  unfold State.reduceRow
  split
  · split
    · exact s.stepFault_sumsOnly _
    · exact State.sumsOnly_trans (s.putRowSum_sumsOnly _ _ _ _) (State.sumsOnly_foldl _ (fun t i => t.noteBlock_sumsOnly _ _ _) _ _)
  · exact State.sumsOnly_trans (s.putRowSum_sumsOnly _ _ _ _) (State.noteSums_sumsOnly _ _)

/-- The records of one row among those of a table, in the order of addition. -/
def rowGrads (recs : List RowRec) (row : Nat) : List (List Byte) := (recs.filter fun z => z.row == row).map (·.grad)

/-- One more row of a table reduced, its flags among those of the rows before it. -/
def reduceNext (id : Nat) (td : TableDecl) (recs : List RowRec) (a : State × AFlags) (row : Nat) : State × AFlags :=
  ((a.1.reduceRow id row td (rowGrads recs row)).1, a.2.or (a.1.reduceRow id row td (rowGrads recs row)).2)

theorem State.reduceTable_eq {s : State} {id : Nat} {td : TableDecl} (h : s.table id = some td) (ps : Payloads) :
    s.reduceTable id ps =
      let recs := ps.flatMap fun p => byBatch (rowRecs id (tabGradBytes td) p.2)
      let a := ((s.ownedRows id).filter fun r => recs.any fun z => z.row == r).foldl (reduceNext id td recs)
        ((s.count cConfContrib ps.length).count cConfAdds (recs.length * td.width), {})
      a.1.raiseConf a.2 := by
  unfold State.reduceTable
  rw [h]
  rfl

theorem State.foldl_reduceNext_sumsOnly (id : Nat) (td : TableDecl) (recs : List RowRec) (rows : List Nat) (a : State × AFlags) :
    a.1.sumsOnly (rows.foldl (reduceNext id td recs) a).1 := by
  induction rows generalizing a with
  | nil => rfl
  | cons r t ih => exact State.sumsOnly_trans (a.1.reduceRow_sumsOnly id r td _) (ih _)

/-- The sums of FP32 rows reduced one after another are kept in that order. -/
theorem State.foldl_reduceNext_rowSums {td : TableDecl} (h : td.gradBs8 = false) (id : Nat) (recs : List RowRec) (rows : List Nat) (a : State × AFlags) :
    (rows.foldl (reduceNext id td recs) a).1.conf.rowSums =
      a.1.conf.rowSums ++ rows.map fun r => (id, r, rowSumOf a.1.t7 td (rowGrads recs r)) := by
  induction rows generalizing a with
  | nil => simp
  | cons r t ih =>
    obtain ⟨-, -, t7, -⟩ := State.sumsOnly_kept (a.1.reduceRow_sumsOnly id r td (rowGrads recs r))
    rw [List.foldl_cons, ih, reduceNext, State.reduceRow_rowSums h, t7, List.append_assoc]
    rfl

theorem State.reduceTable_sumsOnly (s : State) (id : Nat) (ps : Payloads) : s.sumsOnly (s.reduceTable id ps) := by
  cases h : s.table id with
  | none =>
    have e : s.reduceTable id ps = s := by rw [State.reduceTable, h]
    rw [e]
    rfl
  | some td =>
    rw [State.reduceTable_eq h]
    exact State.sumsOnly_trans (t := (s.count _ _).count _ _) rfl
      (State.sumsOnly_trans (State.foldl_reduceNext_sumsOnly id td _ _ (_, {})) (State.raiseConf_sumsOnly _ _))

/-- The FP32 sums of a row that has contributions are kept. -/
theorem State.reduceTable_rowSums {s : State} {id : Nat} {td : TableDecl} (h : s.table id = some td) (hg : td.gradBs8 = false) (ps : Payloads) {row : Nat}
    (hr : row ∈ s.ownedRows id) {recs : List RowRec}
    (he : recs = ps.flatMap fun p => (byBatch (rowRecs id (tabGradBytes td) p.2)).filter fun z => z.row == row) (hn : recs ≠ []) :
    (id, row, rowSumOf s.t7 td (recs.map (·.grad))) ∈ (s.reduceTable id ps).conf.rowSums := by
  rw [State.reduceTable_eq h]
  dsimp only
  generalize hl : (ps.flatMap fun p => byBatch (rowRecs id (tabGradBytes td) p.2)) = l
  have hf : recs = l.filter fun z => z.row == row := by rw [he, ← hl, List.filter_flatMap]
  obtain ⟨z, hz⟩ := List.exists_mem_of_ne_nil _ hn
  rw [hf, List.mem_filter] at hz
  have sums := State.foldl_reduceNext_rowSums hg id l ((s.ownedRows id).filter fun r => l.any fun z => z.row == r)
    ((s.count cConfContrib ps.length).count cConfAdds (l.length * td.width), {})
  generalize List.foldl _ _ _ = u at sums ⊢
  obtain ⟨c, e⟩ := u.1.raiseConf_eq u.2
  rw [e, hf]
  dsimp only
  rw [sums]
  exact List.mem_append_right _ (List.mem_map.mpr ⟨row, List.mem_filter.mpr ⟨hr, List.any_eq_true.mpr ⟨z, hz⟩⟩, rfl⟩)

/-! ### The end of Reduce -/

theorem State.reduceCheck_eq (s : State) : ∃ b n c w x, s.reduceCheck = { s with bar := b, net := n, ctr := c, wd := w, st := { s.st with run := x } } := by
  unfold State.reduceCheck
  split
  · exact ⟨s.bar, s.net, s.ctr, s.wd, s.st.run, rfl⟩
  · next r hr =>
    split
    · split
      · obtain ⟨b, n, c, e⟩ := State.arrive_eq { s with
          st := { s.st with run := some { r with phase := .finite } }
          wd := some .finiteAnd } bFinite s.st.stepNo r.attempt s.conf.finite.toNat
        exact ⟨b, n, c, _, _, e⟩
      · exact ⟨s.bar, s.net, s.ctr, _, s.st.run, rfl⟩
    · exact ⟨s.bar, s.net, s.ctr, s.wd, s.st.run, rfl⟩

end Sys2Proof.Machine
end

section
/-! PROOFS. Segments of a reduction on arrival, what the last one of a slice or table completes, and re-requests (09 R213-R231). -/

namespace Sys2Proof.Machine

open Sys2Proof

/-! ### A whole slice or table -/

/-- A slice or table noted as reduced. -/
def State.noteReduced (s : State) (kind id : Nat) : State := { s with conf := { s.conf with reduced := (kind, id) :: s.conf.reduced } }

section
variable {s : State} {kind id : Nat} {reads : List AdderRead}

/-- While a contribution is missing nothing is reduced. -/
theorem State.tryReduce_waits (h : (s.contributors kind id).all (fun k => s.contributionIn kind id k) = false) : s.tryReduce kind id reads = s := by
  unfold State.tryReduce
  rw [h, Bool.and_false]
  rfl

variable (hr : (kind, id) ∉ s.conf.reduced) (hall : (s.contributors kind id).all (fun k => s.contributionIn kind id k) = true)
include hr hall

theorem State.tryReduce_whole : s.tryReduce kind id reads =
    if s.aggregateOk kind id (s.adderReads kind id reads) then
      if kind = kSlice then (s.ownSlice id).elim (s.noteReduced kind id) fun l => (s.noteReduced kind id).reduceSlice l (s.adderReads kind id reads)
      else (s.noteReduced kind id).reduceTable id (s.adderReads kind id reads)
    else s.aggregateFailed kind id (s.adderReads kind id reads) := by
  unfold State.tryReduce
  rw [hall, show s.conf.reduced.contains (kind, id) = false by simpa using hr]
  dsimp only [State.noteReduced]
  cases s.ownSlice id <;> rfl

theorem State.tryReduce_disagrees (hok : s.aggregateOk kind id (s.adderReads kind id reads) = false) :
    s.tryReduce kind id reads = s.aggregateFailed kind id (s.adderReads kind id reads) := by
  rw [State.tryReduce_whole hr hall, if_neg (ne_true_of_eq_false hok)]

variable (hok : s.aggregateOk kind id (s.adderReads kind id reads) = true)
include hok

theorem State.tryReduce_sumsOnly : (s.noteReduced kind id).sumsOnly (s.tryReduce kind id reads) := by
  rw [State.tryReduce_whole hr hall, if_pos hok]
  split
  · cases s.ownSlice id with
    | none => rfl
    | some l => exact State.reduceSlice_sumsOnly _ _ _
  · exact State.reduceTable_sumsOnly _ _ _

theorem State.tryReduce_slice {l : SlicePlace} (hk : kind = kSlice) (hl : s.ownSlice id = some l) :
    s.tryReduce kind id reads = (s.noteReduced kind id).reduceSlice l (s.adderReads kind id reads) := by
  rw [State.tryReduce_whole hr hall, if_pos hok, if_pos hk, hl]
  rfl

theorem State.tryReduce_table (hk : kind ≠ kSlice) :
    s.tryReduce kind id reads = (s.noteReduced kind id).reduceTable id (s.adderReads kind id reads) := by
  rw [State.tryReduce_whole hr hall, if_pos hok, if_neg hk]

end

/-- The adder reads contributions in ascending rank (09 R218). -/
theorem State.adderReads_ascending (s : State) (kind id : Nat) (reads : List AdderRead) :
    ((s.adderReads kind id reads).map (·.1)).Pairwise (· < ·) := by
  have names : (s.adderReads kind id reads).map (·.1) = s.contributors kind id := by
    rw [State.adderReads, List.map_map]
    exact List.map_id _
  rw [names, State.contributors]
  split
  · exact List.Pairwise.filter _ List.pairwise_lt_range
  · exact List.pairwise_lt_range

/-! ### A new segment -/

/-- A state with other memory and another failed copy, to which the checks of a contribution are the same. -/
def State.besides (s : State) (m : List Host.Cell) (l : List Seg) : State := { s with mem := m, conf := { s.conf with failed := l } }

section
variable {s : State} {x : Seg} {reads : List AdderRead}

/-- Staging beyond RXMAX is a content fault (09 R231). -/
theorem State.stage_beyond (h : s.decl.elim 0 (·.rxMax) < (s.replaced x).stagedBytes + x.payload.length) :
    s.stage x reads = (s.replaced x).stepFault .indexRange := if_pos h

variable (h : (s.replaced x).stagedBytes + x.payload.length ≤ s.decl.elim 0 (·.rxMax))
include h

/-- The segment is stored in the staging region, and only there. -/
theorem State.keepStaged_withSegment : (∃ m, (s.withSegment x).keepStaged = { s.withSegment x with mem := m }) ∧
    s.storesBut (s.withSegment x).keepStaged s.stagingArea ∧
    ∀ p, s.prog = some p → (s.withSegment x).keepStaged.read p.place.staging (s.withSegment x).stagedBytes =
      ((s.withSegment x).conf.staged ++ (s.withSegment x).conf.failed).flatMap (·.payload) :=
  State.keepStaged_eq (s := s.withSegment x) (by rw [State.stagedBytes_withSegment]; exact h)

theorem State.stage_incomplete (hi : (s.withSegment x).contributionIn x.kind x.id x.src = false) : s.stage x reads = (s.withSegment x).keepStaged := by
  obtain ⟨⟨m, e⟩, -⟩ := State.keepStaged_withSegment h
  have hi : ¬ (s.withSegment x).keepStaged.contributionIn x.kind x.id x.src = true := by rw [e]; exact ne_true_of_eq_false hi
  exact (if_neg (Nat.not_lt.mpr h)).trans (if_neg hi)

variable (hi : (s.withSegment x).contributionIn x.kind x.id x.src = true)
include hi

/-- A contribution that becomes whole is checked. -/
theorem State.stage_whole : s.stage x reads =
    if (s.withSegment x).arrivalOk x.kind x.id x.src then
      ((s.withSegment x).contributionFault x.kind x.id x.src).elim (((s.withSegment x).keepStaged.settled x.kind x.id x.src).tryReduce x.kind x.id reads).reduceCheck
        (s.withSegment x).keepStaged.stepFault
    else (s.withSegment x).keepStaged.reject x.kind x.id x.src := by
  obtain ⟨⟨m, e⟩, -⟩ := State.keepStaged_withSegment h
  have same : (s.withSegment x).keepStaged.contributionIn x.kind x.id x.src = true ∧
      (s.withSegment x).keepStaged.arrivalOk x.kind x.id x.src = (s.withSegment x).arrivalOk x.kind x.id x.src ∧
      (s.withSegment x).keepStaged.contributionFault x.kind x.id x.src = (s.withSegment x).contributionFault x.kind x.id x.src := by
    rw [e]
    exact ⟨hi, rfl, rfl⟩
  obtain ⟨whole, arrival, fault⟩ := same
  rw [← arrival, ← fault]
  refine (if_neg (Nat.not_lt.mpr h)).trans ((if_pos whole).trans ?_)
  unfold State.withSegment
  generalize State.contributionFault _ _ _ _ = o
  cases o <;> rfl

/-- A contribution that fails its arrival check for the first time is asked for again, its copy kept (09 R223). -/
theorem State.stage_asksAgain (ha : (s.withSegment x).arrivalOk x.kind x.id x.src = false) (hn : (x.kind, x.id, x.src) ∉ s.conf.retried)
    (hl : s.live = true) : ∃ t, s.stage x reads = t ∧ (x.kind, x.id, x.src) ∈ t.conf.retried ∧ t.segsOf x.kind x.id x.src = [] ∧
      t.stagedBytes = (s.withSegment x).stagedBytes ∧
      s.emits t (mkMsg 2 1 0 x.src (leBytes 4 s.st.stepNo ++ leBytes 1 s.attempt ++ leBytes 1 x.kind ++ leBytes 2 x.src ++ leBytes 4 x.id ++ zeros 4)) ∧
      s.storesBut t s.stagingArea ∧ t.st = s.st ∧ t.host = s.host := by
  obtain ⟨⟨m, e⟩, stored, -⟩ := State.keepStaged_withSegment h
  have first : ¬ ((s.withSegment x).keepStaged.count cConfCksumFail 1).conf.retried.contains (x.kind, x.id, x.src) = true := by
    rw [e]
    exact fun hc => hn (List.contains_iff_mem.mp hc)
  have again : s.stage x reads = ((s.withSegment x).keepStaged.count cConfCksumFail 1).rerequest x.kind x.id x.src := by
    rw [State.stage_whole h hi, if_neg (ne_true_of_eq_false ha)]
    exact if_neg first
  obtain ⟨empty, bytes⟩ := State.rerequest_staged ((s.withSegment x).keepStaged.count cConfCksumFail 1) x.kind x.id x.src
  have told := State.rerequest_emits (s := (s.withSegment x).keepStaged.count cConfCksumFail 1) (by rw [e]; exact hl) x.kind x.id x.src
  obtain ⟨n, c, k⟩ := State.rerequest_eq ((s.withSegment x).keepStaged.count cConfCksumFail 1) x.kind x.id x.src
  rw [e] at bytes told stored
  refine ⟨_, again, ?_⟩
  rw [e] at k empty ⊢
  refine ⟨by rw [k]; exact List.mem_cons_self, empty, bytes, told, ?_, by rw [k]; rfl, by rw [k]; rfl⟩
  rw [k]
  exact stored

/-- The second time it is a step-transient failure. -/
theorem State.stage_failsAgain (ha : (s.withSegment x).arrivalOk x.kind x.id x.src = false) (hn : (x.kind, x.id, x.src) ∈ s.conf.retried) :
    ∃ t, s.stage x reads = t ∧ t.conf = (s.withSegment x).conf ∧ s.storesBut t s.stagingArea ∧ t.st = s.st ∧ t.host = s.host := by
  obtain ⟨⟨m, e⟩, stored, -⟩ := State.keepStaged_withSegment h
  have second : ((s.withSegment x).keepStaged.count cConfCksumFail 1).conf.retried.contains (x.kind, x.id, x.src) = true := by
    rw [e]
    exact List.contains_iff_mem.mpr hn
  have fails : s.stage x reads = ((s.withSegment x).keepStaged.count cConfCksumFail 1).transient 0x03 := by
    rw [State.stage_whole h hi, if_neg (ne_true_of_eq_false ha)]
    exact if_pos second
  obtain ⟨n, c, k⟩ := State.transient_eq ((s.withSegment x).keepStaged.count cConfCksumFail 1) 0x03
  rw [e] at k fails stored
  exact ⟨_, fails.trans k, rfl, stored, rfl, rfl⟩

variable (ha : (s.withSegment x).arrivalOk x.kind x.id x.src = true)
include ha

/-- What a whole contribution holds wrong is a content fault (09 R226, R231). -/
theorem State.stage_faulty {c : Status} (hc : (s.withSegment x).contributionFault x.kind x.id x.src = some c) {r : StepRun} (hr : s.st.run = some r)
    (hf : r.fault = none) :
    ∃ t, s.stage x reads = t ∧ t.st.run = some { r with fault := some c } ∧ s.storesBut t s.stagingArea ∧ t.host = s.host := by
  obtain ⟨⟨m, e⟩, stored, -⟩ := State.keepStaged_withSegment h
  have fault : s.stage x reads = (s.withSegment x).keepStaged.stepFault c := by
    rw [State.stage_whole h hi, if_pos ha, hc]
    rfl
  rw [e] at fault stored
  obtain ⟨n, k, e'⟩ := State.stepFault_first (s := { s.withSegment x with mem := m }) hr hf c
  exact ⟨_, fault.trans e', rfl, stored, rfl⟩

variable (hc : (s.withSegment x).contributionFault x.kind x.id x.src = none)
include hc

/-- A contribution that is whole and right leaves nothing of its failed copy, and its slice or table is reduced if it is the last. -/
theorem State.stage_right : ∃ m l, s.storesBut ((s.withSegment x).besides m l) s.stagingArea ∧
    s.stage x reads = (((s.withSegment x).besides m l).tryReduce x.kind x.id reads).reduceCheck := by
  obtain ⟨⟨m, e⟩, stored, -⟩ := State.keepStaged_withSegment h
  have right : s.stage x reads = (((s.withSegment x).keepStaged.settled x.kind x.id x.src).tryReduce x.kind x.id reads).reduceCheck := by
    rw [State.stage_whole h hi, if_pos ha, hc]
    rfl
  rw [e] at right stored
  exact ⟨m, (s.withSegment x).conf.failed.filter fun y => !(y.kind == x.kind && y.id == x.id && y.src == x.src), stored, right⟩

/-- While another contribution is to come nothing is reduced. -/
theorem State.stage_waits (hall : ((s.withSegment x).contributors x.kind x.id).all (fun k => (s.withSegment x).contributionIn x.kind x.id k) = false) :
    ∃ t, s.stage x reads = t ∧ t.conf.reduced = s.conf.reduced ∧ s.storesBut t s.stagingArea ∧ t.host = s.host := by
  obtain ⟨m, l, stored, e⟩ := State.stage_right (reads := reads) h hi ha hc
  rw [State.tryReduce_waits (s := (s.withSegment x).besides m l) hall] at e
  obtain ⟨b, n, c, w, y, e'⟩ := State.reduceCheck_eq ((s.withSegment x).besides m l)
  exact ⟨_, e.trans e', rfl, stored, rfl⟩

variable (hr : (x.kind, x.id) ∉ s.conf.reduced)
  (hall : ((s.withSegment x).contributors x.kind x.id).all (fun k => (s.withSegment x).contributionIn x.kind x.id k) = true)
  {ps : Payloads} (hps : ps = (s.withSegment x).adderReads x.kind x.id reads)
include hr hall hps

/-- With the last contribution the slice or table is reduced (09 R213, R218, R219). -/
theorem State.stage_reduces (hok : (s.withSegment x).aggregateOk x.kind x.id ps = true) : ∃ t, s.stage x reads = t ∧ (x.kind, x.id) ∈ t.conf.reduced ∧
    t.host = s.host ∧
    (∀ l i, x.kind = kSlice → s.ownSlice x.id = some l → s.sliceBs8 l = false → i < l.count →
      t.read (l.result + 4 * i) 4 = leBytes 4 (reduceFp32 s.t7 (ps.map fun p => field p.2 (4 * i) 4)).1) ∧
    ∀ td row recs, x.kind ≠ kSlice → s.table x.id = some td → td.gradBs8 = false → row ∈ s.ownedRows x.id →
      recs = ps.flatMap (fun p => (byBatch (rowRecs x.id (tabGradBytes td) p.2)).filter fun z => z.row == row) → recs ≠ [] →
      (x.id, row, rowSumOf s.t7 td (recs.map (·.grad))) ∈ t.conf.rowSums := by
  obtain ⟨m, l, -, e⟩ := State.stage_right (reads := reads) h hi ha hc
  subst hps
  have sums := State.tryReduce_sumsOnly (s := (s.withSegment x).besides m l) hr hall hok
  have slice := fun k => State.tryReduce_slice (s := (s.withSegment x).besides m l) hr hall hok (l := k)
  have table := State.tryReduce_table (s := (s.withSegment x).besides m l) hr hall hok
  obtain ⟨host, -, -, reduced⟩ := State.sumsOnly_kept sums
  generalize State.tryReduce _ _ _ _ = v at *
  obtain ⟨b, n, c, w, y, e'⟩ := State.reduceCheck_eq v
  refine ⟨_, e.trans e', ?_, host, fun k i hk hl hb hlt => ?_, fun td row recs hk htd hg hrow hrecs hn => ?_⟩
  · exact reduced ▸ List.mem_cons_self
  · show v.read _ _ = _
    rw [slice k hk hl]
    exact State.read_reduceSlice (s := ((s.withSegment x).besides m l).noteReduced x.kind x.id) hb _ hlt
  · show _ ∈ v.conf.rowSums
    rw [table hk]
    exact State.reduceTable_rowSums (s := ((s.withSegment x).besides m l).noteReduced x.kind x.id) htd hg _ hrow hrecs hn

/-- If the checksums on addition disagree, the contributions that disagree are asked for again (09 R224). -/
theorem State.stage_disagrees (hok : (s.withSegment x).aggregateOk x.kind x.id ps = false) (hf : (x.kind, x.id) ∉ s.conf.aggFailed)
    (hb : ∃ p ∈ ps, (checksum p.2 != (s.withSegment x).carriedSum x.kind x.id p.1) = true) :
    ∃ t, s.stage x reads = t ∧ (x.kind, x.id) ∈ t.conf.aggFailed ∧ t.conf.reduced = s.conf.reduced ∧ s.storesBut t s.stagingArea ∧ t.host = s.host ∧
      ∀ p ∈ ps, (checksum p.2 != (s.withSegment x).carriedSum x.kind x.id p.1) = true → (x.kind, x.id, p.1) ∈ t.conf.retried := by
  obtain ⟨m, l, stored, e⟩ := State.stage_right (reads := reads) h hi ha hc
  subst hps
  have disagrees := State.tryReduce_disagrees (s := (s.withSegment x).besides m l) hr hall hok
  obtain ⟨n, c, a, b, k, noted, failed⟩ := State.aggregateFailed_eq (s := (s.withSegment x).besides m l) hf hb
  rw [disagrees.trans failed] at e
  obtain ⟨b', n', c', w, y, e'⟩ := State.reduceCheck_eq { (s.withSegment x).besides m l with
    net := n
    ctr := c
    conf := { ((s.withSegment x).besides m l).conf with
      staged := a, failed := b, retried := k, aggFailed := (x.kind, x.id) :: ((s.withSegment x).besides m l).conf.aggFailed } }
  exact ⟨_, e.trans e', List.mem_cons_self, rfl, stored, rfl, noted⟩

end

/-! ### Messages -/

section
variable {s : State} {m : Msg} (hm : s.member = true)
include hm

/-- A re-request names the contribution and gets its segments; another is only taken (09 R223). -/
theorem exec_confRerequest (ht : m.typ = 2) (ho : m.opc = 1) (hv : m.vc = 0) : exec (.confRerequest m) s = .next
    (if s.st.run.isSome && (segOf m.body).step == s.st.stepNo && (segOf m.body).attempt == s.attempt && (segOf m.body).src == s.rank then
      (s.took m).sendMsgs (s.conf.sent.filter fun c => c.dst == m.src && (segOf c.body).kind == (segOf m.body).kind && (segOf c.body).id == (segOf m.body).id)
    else s.took m) := by
  have step : exec (.confRerequest m) s = .next (confRerequest m s) := rfl
  obtain ⟨n, e⟩ := s.took_eq m
  rw [step, confRerequest, if_neg (by simp [hm, ht, ho, hv]), e]
  rfl

variable (ht : m.typ = 3) (hp : s.prog.isSome = true) {reads : List AdderRead}
include ht hp

/-- A segment of another step or attempt is discarded and counted (09 R221). -/
theorem exec_remoteAcc_stale (h : (segOf m.body).step ≠ s.st.stepNo ∨ (segOf m.body).attempt ≠ s.attempt ∨ s.st.run = none) :
    exec (.remoteAcc ⟨m, reads⟩) s = .next ((s.took m).count cConfStale 1) := by
  have step : exec (.remoteAcc ⟨m, reads⟩) s = .next (remoteAcc m reads s) := rfl
  have stale : (s.st.run.isSome && (segOf m.body).step == s.st.stepNo && (segOf m.body).attempt == s.attempt) = false := by
    rcases h with h | h | h <;> simp [h]
  obtain ⟨n, e⟩ := s.took_eq m
  rw [step, remoteAcc, if_neg (by simp [hm, ht, hp]), e]
  exact congrArg _ (if_pos (by rw [Bool.not_eq_true']; exact stale))

variable {r : StepRun} (hr : s.st.run = some r) (hs : (segOf m.body).step = s.st.stepNo) (ha : (segOf m.body).attempt = r.attempt)
include hr hs ha

/-- A segment of the attempt in progress: nothing becomes of it once the step's content has failed. -/
theorem exec_remoteAcc_current : exec (.remoteAcc ⟨m, reads⟩) s = .next
    (if r.fault.isSome then s.took m
     else if !s.segmentOk (segOf m.body) then (s.took m).stepFault .formatInvalid
     else ((s.segsOf (segOf m.body).kind (segOf m.body).id (segOf m.body).src).find? fun y => y.seg == (segOf m.body).seg).elim
       (if s.contributionIn (segOf m.body).kind (segOf m.body).id (segOf m.body).src then (s.took m).stepFault .formatInvalid
        else (s.took m).stage (segOf m.body) reads)
       fun y => if y.raw = (segOf m.body).raw then (s.took m).count cConfStale 1 else (s.took m).stepFault .formatInvalid) := by
  have step : exec (.remoteAcc ⟨m, reads⟩) s = .next (remoteAcc m reads s) := rfl
  have current : (s.st.run.isSome && (segOf m.body).step == s.st.stepNo && (segOf m.body).attempt == s.attempt) = true := by
    simp [State.attempt, hr, hs, ha]
  have faulted : (s.st.run.elim false fun r => r.fault.isSome) = r.fault.isSome := by rw [hr]; rfl
  obtain ⟨n, e⟩ := s.took_eq m
  rw [step, remoteAcc, if_neg (by simp [hm, ht, hp]), e, ← faulted]
  refine congrArg _ ((if_neg (by rw [Bool.not_eq_true', Bool.not_eq_false]; exact current)).trans ?_)
  rw [show State.segsOf { s with net := n } = s.segsOf from rfl]
  generalize List.find? _ _ = o
  cases o <;> rfl

variable (hf : r.fault = none)
include hf

/-- A segment that 09 R217 or R231 refuses is a content fault of the step. -/
theorem exec_remoteAcc_refused
    (h : s.segmentOk (segOf m.body) = false ∨
      (∃ y, (s.segsOf (segOf m.body).kind (segOf m.body).id (segOf m.body).src).find? (fun y => y.seg == (segOf m.body).seg) = some y ∧
        y.raw ≠ (segOf m.body).raw) ∨
      ((s.segsOf (segOf m.body).kind (segOf m.body).id (segOf m.body).src).find? (fun y => y.seg == (segOf m.body).seg) = none ∧
        s.contributionIn (segOf m.body).kind (segOf m.body).id (segOf m.body).src = true)) :
    exec (.remoteAcc ⟨m, reads⟩) s = .next ((s.took m).stepFault .formatInvalid) := by
  rw [exec_remoteAcc_current hm ht hp hr hs ha, hf]
  rcases h with h | ⟨y, hy, h⟩ | ⟨hn, h⟩
  · simp [h]
  · simp [hy, h]
  · simp [hn, h]

variable (hok : s.segmentOk (segOf m.body) = true)
include hok

/-- One that repeats a place with the same bytes is counted (09 R221). -/
theorem exec_remoteAcc_repeated {y : Seg}
    (hy : (s.segsOf (segOf m.body).kind (segOf m.body).id (segOf m.body).src).find? (fun y => y.seg == (segOf m.body).seg) = some y)
    (h : y.raw = (segOf m.body).raw) : exec (.remoteAcc ⟨m, reads⟩) s = .next ((s.took m).count cConfStale 1) := by
  rw [exec_remoteAcc_current hm ht hp hr hs ha, hf]
  simp [hok, hy, h]

/-- A new one of a contribution that is not whole is staged. -/
theorem exec_remoteAcc_new
    (hn : (s.segsOf (segOf m.body).kind (segOf m.body).id (segOf m.body).src).find? (fun y => y.seg == (segOf m.body).seg) = none)
    (h : s.contributionIn (segOf m.body).kind (segOf m.body).id (segOf m.body).src = false) :
    ∃ n : Net, n.sent = s.net.sent ∧ exec (.remoteAcc ⟨m, reads⟩) s = .next (State.stage { s with net := n } (segOf m.body) reads) := by
  obtain ⟨n, e⟩ := s.took_eq m
  refine ⟨n, by rw [← s.took_sent m, e], ?_⟩
  rw [exec_remoteAcc_current hm ht hp hr hs ha, hf, ← e]
  simp [hok, hn, h]

end

/-- Settles O35: a segment is judged as it arrives, staged in its place, and the last one of a slice or table has it summed or asked for again; a
re-request sends the kept copies. -/
theorem segmentsArrive : Obligations.SegmentsArrive := by
  unfold Obligations.SegmentsArrive
  rintro s m x hm rfl
  refine ⟨fun ht hp reads => ⟨exec_remoteAcc_stale hm ht hp, ?_⟩, fun ht ho hv => ?_⟩
  · rintro r u w area rfl hr hs ha rfl rfl
    refine ⟨fun hf => ?_, fun hf => ⟨fun h => ?_, fun hok y hy h => exec_remoteAcc_repeated hm ht hp hr hs ha hf hok hy h, fun hok hn hi => ?_⟩⟩
    · rw [exec_remoteAcc_current hm ht hp hr hs ha, if_pos hf]
    · obtain ⟨n, e⟩ := s.took_eq m
      obtain ⟨n', c, e'⟩ := State.stepFault_first (s := { s with net := n }) hr hf .formatInvalid
      rw [exec_remoteAcc_refused hm ht hp hr hs ha hf h, e, e']
      exact ⟨_, rfl, rfl, rfl, ⟨rfl, rfl, rfl, rfl, rfl⟩, rfl⟩
    obtain ⟨n, sent, e⟩ := exec_remoteAcc_new (reads := reads) hm ht hp hr hs ha hf hok hn hi
    have next : ∀ {P : State → Prop}, (∃ t, State.stage { s with net := n } (segOf m.body) reads = t ∧ P t) →
        ∃ t, exec (.remoteAcc ⟨m, reads⟩) s = .next t ∧ P t := fun ⟨t, ht, hP⟩ => ⟨t, by rw [e, ht], hP⟩
    refine ⟨fun beyond => next ?_, fun room => ⟨fun part => next ?_, fun whole bad => ⟨fun once => next ?_, fun twice => next ?_⟩, fun whole good =>
      ⟨fun c hc => next ?_, fun right fresh => ⟨fun waits => next ?_, fun ps hps all => ⟨?_, fun agrees => next ?_, fun differs first bad => next ?_⟩⟩⟩⟩⟩
    · obtain ⟨n', c, e'⟩ := State.stepFault_first (s := State.replaced { s with net := n } (segOf m.body)) hr hf .indexRange
      exact ⟨_, (State.stage_beyond (s := { s with net := n }) beyond).trans e', rfl, ⟨rfl, rfl, rfl, rfl, rfl⟩, rfl⟩
    · obtain ⟨⟨k, ek⟩, stored, read⟩ := State.keepStaged_withSegment (s := { s with net := n }) room
      refine ⟨_, State.stage_incomplete (s := { s with net := n }) room part, ?_, stored, ?_, ?_, read⟩ <;> rw [ek] <;> rfl
    · obtain ⟨t, et, noted, empty, bytes, told, stored, st, host⟩ :=
        State.stage_asksAgain (s := { s with net := n }) (reads := reads) room whole bad once (State.live_of_member hm)
      refine ⟨t, et, noted, empty, bytes, ?_, stored, st, host⟩
      unfold State.emits at told ⊢
      rwa [← sent]
    · exact State.stage_failsAgain (s := { s with net := n }) room whole bad twice
    · exact State.stage_faulty (s := { s with net := n }) room whole good hc hr hf
    · exact State.stage_waits (s := { s with net := n }) room whole good right waits
    · exact hps ▸ State.adderReads_ascending _ _ _ _
    · obtain ⟨t, et, reduced, host, slice, table⟩ :=
        State.stage_reduces (s := { s with net := n }) room whole good right fresh all hps agrees
      refine ⟨t, et, reduced, host, slice, fun td row recs hk htd hg hrow hrecs hne => ?_⟩
      have kept := table td row recs hk htd hg hrow hrecs hne
      simp only [rowSumOf, List.map_map] at kept
      exact kept
    · exact State.stage_disagrees (s := { s with net := n }) room whole good right fresh all hps differs first bad
  · have live : (s.took m).live = true := by
      obtain ⟨n, e⟩ := s.took_eq m
      rw [e]
      exact State.live_of_member hm
    rw [exec_confRerequest hm ht ho hv]
    refine ⟨fun hr hs ha hk => ?_, fun h => ?_⟩
    · rw [if_pos (by simp [hr, hs, ha, hk])]
      refine ⟨_, rfl, State.netOnly_trans (s.took_netOnly m) ((State.netOnly_iff _ _).mpr (State.sendMsgs_eq _ _)), fun c hc hd hkind hid => ?_⟩
      exact State.emits_of_took (State.sendMsgs_emits live (List.mem_filter.mpr ⟨hc, by simp [hd, hkind, hid]⟩))
    · rw [if_neg (by rcases h with h | h | h | h <;> simp [h])]
      exact ⟨_, rfl, s.took_netOnly m⟩

end Sys2Proof.Machine
end

section
/-! SUPPORT. The one rounding of a value into a format: to nearest, ties to even, and to an infinity from the limit on (00 R10, 02 R41-R48). -/

namespace Sys2Proof.Machine

open Sys2Proof

/-! ### Integers nearest to a rational -/

/-- An integer is nearest to a rational, the even one of two. -/
def nearestEven (y : ℚ) (k : Nat) : Prop := |(k : ℚ) - y| ≤ 1 / 2 ∧ (|(k : ℚ) - y| = 1 / 2 → k % 2 = 0)

theorem nearestEven_self (k : Nat) : nearestEven k k := by
  rw [nearestEven, sub_self, abs_zero]
  norm_num

/-- A quotient is rounded up from half a divisor on, or from beyond it if it is even. -/
theorem nearestEven_quotient {q r p : Nat} (hr : r < p) :
    nearestEven (q + (r : ℚ) / p) (if 2 * r > p ∨ (2 * r = p ∧ q % 2 = 1) then q + 1 else q) := by
  have hp : (0 : ℚ) < p := by exact_mod_cast Nat.zero_lt_of_lt hr
  have h1 : (r : ℚ) / p < 1 := (div_lt_one hp).mpr (by exact_mod_cast hr)
  have h0 : (0 : ℚ) ≤ (r : ℚ) / p := by positivity
  have up : p ≤ 2 * r ↔ (1 : ℚ) / 2 ≤ (r : ℚ) / p := by
    rw [div_le_div_iff₀ (by norm_num) hp, one_mul, mul_comm (r : ℚ)]
    exact_mod_cast Iff.rfl
  have down : 2 * r ≤ p ↔ (r : ℚ) / p ≤ 1 / 2 := by
    rw [div_le_div_iff₀ hp (by norm_num), one_mul, mul_comm (r : ℚ)]
    exact_mod_cast Iff.rfl
  unfold nearestEven
  split
  · next h =>
    have half := up.mp (by omega)
    have dist : |((q + 1 : Nat) : ℚ) - (q + (r : ℚ) / p)| = 1 - (r : ℚ) / p := by
      push_cast
      rw [abs_of_nonneg (by linarith)]
      ring
    rw [dist]
    refine ⟨by linarith, fun he => ?_⟩
    have := down.mpr (by linarith)
    omega
  · next h =>
    have half := down.mp (by omega)
    have dist : |(q : ℚ) - (q + (r : ℚ) / p)| = (r : ℚ) / p := by
      rw [abs_of_nonpos (by linarith)]
      ring
    rw [dist]
    refine ⟨half, fun he => ?_⟩
    have := up.mpr he.ge
    omega

theorem rneShift_nearestEven (n d : Nat) : nearestEven ((n : ℚ) / 2 ^ d) (rneShift n d) := by
  have quotient : (n : ℚ) / 2 ^ d = (n / 2 ^ d : Nat) + ((n % 2 ^ d : Nat) : ℚ) / (2 ^ d : Nat) := by
    have h : ((2 ^ d * (n / 2 ^ d) + n % 2 ^ d : Nat) : ℚ) = n := by rw [Nat.div_add_mod]
    push_cast at h ⊢
    field_simp
    linarith
  rw [quotient]
  exact nearestEven_quotient (Nat.mod_lt _ (by positivity))

/-- A magnitude in units of 2^q is the integer nearest to their quotient. -/
theorem inUnits_nearestEven (m : Nat) (e q : Int) : nearestEven ((m : ℚ) * 2 ^ (e - q)) (inUnits m e q) := by
  unfold inUnits
  split
  · next h =>
    obtain ⟨n, hn⟩ := Int.eq_ofNat_of_zero_le (sub_nonneg.mpr h)
    rw [hn, Int.toNat_natCast, zpow_natCast]
    simpa using nearestEven_self (m * 2 ^ n)
  · next h =>
    obtain ⟨n, hn⟩ := Int.eq_ofNat_of_zero_le (show 0 ≤ q - e by omega)
    rw [show e - q = -(n : Int) by omega, hn, Int.toNat_natCast, zpow_neg, zpow_natCast, ← div_eq_mul_inv]
    exact rneShift_nearestEven m n

section
variable {y : ℚ} {k : Nat} (h : nearestEven y k)
include h

/-- An integer bound of the rational is one of the integer nearest to it. -/
theorem nearestEven_ge {j : Nat} (hj : (j : ℚ) ≤ y) : j ≤ k := by
  by_contra hl
  have : (k : ℚ) + 1 ≤ j := by exact_mod_cast Nat.lt_of_not_le hl
  linarith [(abs_le.mp h.1).1]

theorem nearestEven_le {j : Nat} (hj : y ≤ j) : k ≤ j := by
  by_contra hl
  have : (j : ℚ) + 1 ≤ k := by exact_mod_cast Nat.lt_of_not_le hl
  linarith [(abs_le.mp h.1).2]

/-- The nearest integer reaches an even one from half a unit below it on. -/
theorem nearestEven_reaches {j : Nat} (hj : j % 2 = 0) : j ≤ k ↔ (j : ℚ) - 1 / 2 ≤ y := by
  obtain ⟨near, even⟩ := h
  constructor
  · intro hl
    have : (j : ℚ) ≤ k := by exact_mod_cast hl
    linarith [(abs_le.mp near).2]
  · intro hy
    by_contra hl
    have below : (k : ℚ) + 1 ≤ j := by exact_mod_cast Nat.lt_of_not_le hl
    have tie : (k : ℚ) - y = -(1 / 2) := by linarith [(abs_le.mp near).1]
    have next : k + 1 = j := by
      have : (k : ℚ) + 1 = j := by linarith
      exact_mod_cast this
    have := even (by rw [tie]; norm_num)
    omega

/-- No integer is nearer, and of two as near it is the even one. -/
theorem nearestEven_nearest (j : Int) : |(k : ℚ) - y| ≤ |(j : ℚ) - y| ∧ ((j : ℚ) ≠ k → |(k : ℚ) - y| = |(j : ℚ) - y| → k % 2 = 0) := by
  obtain ⟨near, even⟩ := h
  by_cases hj : (j : ℚ) = k
  · exact ⟨by rw [hj], fun hn => absurd hj hn⟩
  · have apart : (1 : ℚ) ≤ |(j : ℚ) - k| := by
      have hz : j - k ≠ 0 := fun hz => hj (by exact_mod_cast sub_eq_zero.mp hz)
      exact_mod_cast Int.one_le_abs hz
    have far : |(j : ℚ) - k| ≤ |(j : ℚ) - y| + |(k : ℚ) - y| := by
      rw [abs_sub_comm (k : ℚ) y]
      exact abs_sub_le _ _ _
    exact ⟨by linarith, fun _ ht => even (by linarith)⟩

end

/-! ### Values of codes -/

/-- A format whose exponent range is that of IEEE 754: the bias is half of it. -/
def Fmt.balanced (f : Fmt) : Prop := 1 ≤ f.fbits ∧ 1 ≤ f.bias ∧ 2 ^ f.ebits = 2 * f.bias + 2

theorem fp32_balanced : fp32.balanced := ⟨by decide, by decide, rfl⟩
theorem a48_balanced : a48.balanced := ⟨by decide, by decide, rfl⟩

theorem Fmt.emax_of_balanced {f : Fmt} (h : f.balanced) : f.emax = 2 * f.bias + 1 := by
  obtain ⟨-, -, he⟩ := h
  rw [Fmt.emax, he]
  rfl

/-- The sign of a value. -/
def signOf (neg : Bool) : ℚ := if neg then -1 else 1

theorem FVal.value_fin (neg : Bool) (m : Nat) (e : Int) : (FVal.fin neg m e).value = signOf neg * (m * 2 ^ e) := by
  rw [FVal.value, signOf, mul_assoc]

/-- The value of a finite code: a whole number of units of its exponent, fewer than twice those of the implied bit. -/
theorem Fmt.decode_finite {f : Fmt} (hf : f.balanced) {d : Nat} (h : (f.decode d).finite = true) : ∃ (neg : Bool) (m E : Nat), m < 2 * 2 ^ f.fbits ∧
    E < 2 * f.bias ∧ f.decode d = .fin neg m (1 - (f.bias : Int) - f.fbits + E) := by
  unfold Fmt.decode at h ⊢
  dsimp only at h ⊢
  have hm : d % 2 ^ f.fbits < 2 ^ f.fbits := Nat.mod_lt _ (by positivity)
  have he : d / 2 ^ f.fbits % 2 ^ f.ebits < 2 ^ f.ebits := Nat.mod_lt _ (by positivity)
  generalize d % 2 ^ f.fbits = m at h hm ⊢
  generalize hx : d / 2 ^ f.fbits % 2 ^ f.ebits = E at h he ⊢
  have emax := Fmt.emax_of_balanced hf
  obtain ⟨-, bias, ebits⟩ := hf
  split at h
  · split at h <;> simp [FVal.finite] at h
  · next hE =>
    rw [if_neg hE]
    split
    · exact ⟨d / f.signBit % 2 == 1, m, 0, by omega, by omega, by simp⟩
    · refine ⟨d / f.signBit % 2 == 1, 2 ^ f.fbits + m, E - 1, by omega, by omega, ?_⟩
      congr 1
      omega

/-- The exponent and the fraction of a code that is made of them. -/
theorem Fmt.code_fields (f : Fmt) (neg : Bool) {E M : Nat} (hE : E < 2 ^ f.ebits) (hM : M < 2 ^ f.fbits) :
    (f.zero neg + (E * 2 ^ f.fbits + M)) % 2 ^ f.fbits = M ∧ (f.zero neg + (E * 2 ^ f.fbits + M)) / 2 ^ f.fbits % 2 ^ f.ebits = E ∧
    ((f.zero neg + (E * 2 ^ f.fbits + M)) / f.signBit % 2 == 1) = neg := by
  have hp : 0 < 2 ^ f.fbits := by positivity
  have hq : 0 < 2 ^ f.ebits := by positivity
  have zero : f.zero neg = neg.toNat * 2 ^ f.ebits * 2 ^ f.fbits := by
    cases neg <;> simp [Fmt.zero, Fmt.signBit, pow_add]
  have code : f.zero neg + (E * 2 ^ f.fbits + M) = M + 2 ^ f.fbits * (E + 2 ^ f.ebits * neg.toNat) := by
    rw [zero]
    ring
  have quot : (M + 2 ^ f.fbits * (E + 2 ^ f.ebits * neg.toNat)) / 2 ^ f.fbits = E + 2 ^ f.ebits * neg.toNat := by
    rw [Nat.add_mul_div_left _ _ hp, Nat.div_eq_of_lt hM, Nat.zero_add]
  rw [code, quot, Fmt.signBit, Nat.pow_add, Nat.mul_comm (2 ^ f.ebits) (2 ^ f.fbits), ← Nat.div_div_eq_div_mul, quot, Nat.add_mul_mod_self_left,
    Nat.mod_eq_of_lt hM, Nat.add_mul_mod_self_left, Nat.mod_eq_of_lt hE, Nat.add_mul_div_left _ _ hq, Nat.div_eq_of_lt hE]
  refine ⟨rfl, rfl, ?_⟩
  cases neg <;> rfl

theorem Fmt.decode_subnormal {f : Fmt} (neg : Bool) {M : Nat} (hf : f.balanced) (hM : M < 2 ^ f.fbits) :
    f.decode (f.zero neg + M) = .fin neg M (1 - (f.bias : Int) - f.fbits) := by
  have hx := Fmt.emax_of_balanced hf
  obtain ⟨frac, expo, sign⟩ := f.code_fields neg (E := 0) (by positivity) hM
  rw [Nat.zero_mul, Nat.zero_add] at frac expo sign
  unfold Fmt.decode
  dsimp only
  rw [frac, expo, sign, if_neg (by omega), if_pos rfl]

theorem Fmt.decode_zero {f : Fmt} (hf : f.balanced) (neg : Bool) : f.decode (f.zero neg) = .fin neg 0 (1 - (f.bias : Int) - f.fbits) :=
  Fmt.decode_subnormal neg hf (M := 0) (by positivity)

theorem Fmt.decode_of_normal {f : Fmt} (neg : Bool) {E M : Nat} (hE : E + 1 < f.emax) (hM : M < 2 ^ f.fbits) :
    f.decode (f.zero neg + ((E + 1) * 2 ^ f.fbits + M)) = .fin neg (2 ^ f.fbits + M) (1 - (f.bias : Int) - f.fbits + E) := by
  have emax : f.emax = 2 ^ f.ebits - 1 := rfl
  obtain ⟨frac, expo, sign⟩ := f.code_fields neg (E := E + 1) (by omega) hM
  rw [Fmt.decode_normal (by rw [expo]; omega) (by rw [expo]; omega), frac, expo, sign]
  congr 1
  push_cast
  ring

/-- The code with `k` units at the exponent `T` above the least, before and after the carry into the next exponent, has their value. -/
theorem Fmt.decode_units {f : Fmt} (hf : f.balanced) (neg : Bool) {T k : Nat} (hk : k ≤ 2 * 2 ^ f.fbits) (hT : T = 0 ∨ 2 ^ f.fbits ≤ k)
    (h : T * 2 ^ f.fbits + k < f.emax * 2 ^ f.fbits) :
    (f.decode (f.zero neg + (T * 2 ^ f.fbits + k))).finite = true ∧
    (f.decode (f.zero neg + (T * 2 ^ f.fbits + k))).value = signOf neg * (k * 2 ^ (1 - (f.bias : Int) - f.fbits + T)) := by
  have hp : 0 < 2 ^ f.fbits := by positivity
  rcases Nat.lt_or_ge k (2 ^ f.fbits) with hl | hl
  · obtain rfl : T = 0 := by omega
    rw [Nat.zero_mul, Nat.zero_add, Fmt.decode_subnormal neg hf hl]
    exact ⟨rfl, by rw [FVal.value_fin]; simp⟩
  · rcases Nat.lt_or_ge k (2 * 2 ^ f.fbits) with hl' | hl'
    · obtain ⟨M, rfl⟩ := Nat.exists_eq_add_of_le hl
      have code : T * 2 ^ f.fbits + (2 ^ f.fbits + M) = (T + 1) * 2 ^ f.fbits + M := by ring
      have hE : T + 1 < f.emax := by
        by_contra hn
        have := Nat.mul_le_mul_right (2 ^ f.fbits) (Nat.le_of_not_lt hn)
        omega
      rw [code, Fmt.decode_of_normal neg hE (by omega)]
      exact ⟨rfl, by rw [FVal.value_fin]⟩
    · obtain rfl : k = 2 * 2 ^ f.fbits := by omega
      have code : T * 2 ^ f.fbits + 2 * 2 ^ f.fbits = (T + 1 + 1) * 2 ^ f.fbits + 0 := by ring
      have hE : T + 1 + 1 < f.emax := by
        by_contra hn
        have := Nat.mul_le_mul_right (2 ^ f.fbits) (Nat.le_of_not_lt hn)
        rw [code] at h
        omega
      rw [code, Fmt.decode_of_normal neg hE hp]
      refine ⟨rfl, ?_⟩
      rw [FVal.value_fin, show 1 - (f.bias : Int) - f.fbits + (T + 1 : Nat) = (1 - (f.bias : Int) - f.fbits + T) + 1 by push_cast; ring,
        zpow_add_one₀ (by norm_num : (2 : ℚ) ≠ 0)]
      push_cast
      ring

/-! ### The rounding -/

/-- Exponents above the least at which a magnitude m × 2^e is rounded. -/
def Fmt.steps (f : Fmt) (m : Nat) (e : Int) : Nat := (max (leadingBit m e) (1 - (f.bias : Int)) - (1 - (f.bias : Int))).toNat

/-- The magnitude in units of the last place of that exponent, rounded. -/
def Fmt.units (f : Fmt) (m : Nat) (e : Int) : Nat := inUnits m e (max (leadingBit m e) (1 - (f.bias : Int)) - f.fbits)

/-- The exponent of a unit in the last place, that many exponents above the least. -/
def Fmt.place (f : Fmt) (T : Nat) : Int := 1 - (f.bias : Int) - f.fbits + T

/-- The unit of a place in units of the least one. -/
theorem Fmt.place_value (f : Fmt) (T : Nat) : (2 : ℚ) ^ f.place T = 2 ^ T * 2 ^ (1 - (f.bias : Int) - f.fbits) := by
  rw [Fmt.place, zpow_add₀ (by norm_num), zpow_natCast, mul_comm]

/-- The limit in units of the least place. -/
theorem Fmt.limit_eq (f : Fmt) {N : Nat} (hN : f.bias = N + 1) :
    f.limit = 2 ^ (2 * N) * (4 * 2 ^ f.fbits - 1) * 2 ^ (1 - (f.bias : Int) - f.fbits) := by
  have full : (2 : ℚ) ^ (f.bias + 1) = 2 ^ (2 * N) * (4 * 2 ^ f.fbits) * 2 ^ (1 - (f.bias : Int) - f.fbits) := by
    rw [show (4 : ℚ) = 2 ^ 2 by norm_num, ← pow_add, ← pow_add, ← zpow_natCast, ← zpow_natCast, ← zpow_add₀ (by norm_num)]
    congr 1
    push_cast
    omega
  have half : (2 : ℚ) ^ ((f.bias : Int) - f.fbits - 1) = 2 ^ (2 * N) * 2 ^ (1 - (f.bias : Int) - f.fbits) := by
    rw [← zpow_natCast, ← zpow_add₀ (by norm_num)]
    congr 1
    push_cast
    omega
  rw [Fmt.limit, full, half]
  ring

theorem Fmt.round_eq (f : Fmt) (neg : Bool) {m : Nat} (hm : m ≠ 0) (e : Int) : f.round neg m e =
    if f.emax * 2 ^ f.fbits ≤ f.steps m e * 2 ^ f.fbits + f.units m e then (f.inf neg, true)
    else (f.zero neg + (f.steps m e * 2 ^ f.fbits + f.units m e), false) := if_neg hm

theorem leadingBit_bounds {m : Nat} (hm : m ≠ 0) (e : Int) : (2 : ℚ) ^ leadingBit m e ≤ m * 2 ^ e ∧ (m : ℚ) * 2 ^ e < 2 * 2 ^ leadingBit m e := by
  have he : (0 : ℚ) < 2 ^ e := by positivity
  obtain ⟨low, high⟩ := (Nat.log2_eq_iff hm).mp rfl
  have low : ((2 : ℚ) ^ m.log2) ≤ m := by exact_mod_cast low
  have high : (m : ℚ) < 2 ^ m.log2 * 2 := by exact_mod_cast (pow_succ 2 m.log2 ▸ high)
  rw [leadingBit, zpow_add₀ (by norm_num), zpow_natCast, ← mul_assoc]
  exact ⟨mul_le_mul_of_nonneg_right low he.le, mul_lt_mul_of_pos_right (by linarith) he⟩

/-- A magnitude in units of the place at which it is rounded: fewer than twice those of the implied bit, and no fewer than that above the least exponent. -/
theorem Fmt.units_spec (f : Fmt) {m : Nat} (hm : m ≠ 0) (e : Int) : ∃ y : ℚ, (m : ℚ) * 2 ^ e = y * 2 ^ f.place (f.steps m e) ∧
    nearestEven y (f.units m e) ∧ y < 2 * 2 ^ f.fbits ∧ (f.steps m e = 0 ∨ 2 ^ f.fbits ≤ y) := by
  obtain ⟨low, high⟩ := leadingBit_bounds hm e
  have place : max (leadingBit m e) (1 - (f.bias : Int)) - f.fbits = f.place (f.steps m e) := by
    unfold Fmt.place Fmt.steps
    omega
  have hu : (0 : ℚ) < 2 ^ f.place (f.steps m e) := by positivity
  have value : (m : ℚ) * 2 ^ e = m * 2 ^ (e - f.place (f.steps m e)) * 2 ^ f.place (f.steps m e) := by
    rw [mul_assoc, ← zpow_add₀ (by norm_num), sub_add_cancel]
  have top : (2 : ℚ) ^ f.fbits * 2 ^ f.place (f.steps m e) = 2 ^ max (leadingBit m e) (1 - (f.bias : Int)) := by
    rw [← place, ← zpow_natCast, ← zpow_add₀ (by norm_num)]
    congr 1
    omega
  refine ⟨_, value, by rw [← place]; exact inUnits_nearestEven _ _ _, ?_, ?_⟩
  · refine lt_of_mul_lt_mul_right ?_ hu.le
    rw [← value, mul_assoc, top]
    have : (2 : ℚ) ^ leadingBit m e ≤ 2 ^ max (leadingBit m e) (1 - (f.bias : Int)) := zpow_le_zpow_right₀ (by norm_num) (le_max_left _ _)
    linarith
  · rcases Nat.eq_zero_or_pos (f.steps m e) with h0 | h0
    · exact .inl h0
    · refine .inr (le_of_mul_le_mul_right ?_ hu)
      have lead : max (leadingBit m e) (1 - (f.bias : Int)) = leadingBit m e := by
        unfold Fmt.steps at h0
        omega
      rw [← value, top, lead]
      exact low

section
variable {f : Fmt} {y : ℚ} {k T : Nat} (near : nearestEven y k) (high : y < 2 * 2 ^ f.fbits) (low : T = 0 ∨ 2 ^ f.fbits ≤ y)
include near low

/-- Nothing on the grid of the units, nor below the implied bit, is nearer. -/
theorem nearestEven_nearest_on {z : ℚ} (hz : (∃ j : Int, z = j) ∨ (z < 2 ^ f.fbits ∧ T ≠ 0)) :
    |(k : ℚ) - y| ≤ |z - y| ∧ (z ≠ k → |(k : ℚ) - y| = |z - y| → k % 2 = 0) := by
  rcases hz with ⟨j, rfl⟩ | ⟨hz, hT⟩
  · exact nearestEven_nearest near j
  · have hy : (2 : ℚ) ^ f.fbits ≤ y := low.resolve_left hT
    have lower := (nearestEven_nearest near (2 ^ f.fbits)).1
    push_cast at lower
    rw [abs_sub_comm (2 ^ f.fbits) y, abs_of_nonneg (sub_nonneg.mpr hy)] at lower
    have strict : |(k : ℚ) - y| < |z - y| := by
      rw [abs_sub_comm z y, abs_of_nonneg (show 0 ≤ y - z by linarith)]
      linarith
    exact ⟨strict.le, fun _ he => absurd he strict.ne⟩

include high

/-- The units of a rounded magnitude. -/
theorem Fmt.units_bounds : k ≤ 2 * 2 ^ f.fbits ∧ (T = 0 ∨ 2 ^ f.fbits ≤ k) :=
  ⟨nearestEven_le near (by push_cast; exact high.le), low.imp_right fun h => nearestEven_ge near (by push_cast; exact h)⟩

/-- The code reaches the infinity exactly when the magnitude reaches the limit. -/
theorem Fmt.overflows_iff (hf : f.balanced) : f.emax * 2 ^ f.fbits ≤ T * 2 ^ f.fbits + k ↔ f.limit ≤ y * 2 ^ f.place T := by
  obtain ⟨hk, hT⟩ := Fmt.units_bounds near high low
  have emax := Fmt.emax_of_balanced hf
  obtain ⟨hfrac, hbias, -⟩ := hf
  obtain ⟨N, hN⟩ := Nat.exists_eq_add_of_le' hbias
  have hu : (0 : ℚ) < 2 ^ (1 - (f.bias : Int) - f.fbits) := by positivity
  have one : (1 : ℚ) ≤ 2 ^ f.fbits := one_le_pow₀ (by norm_num)
  have scale : (0 : ℚ) < 2 ^ (2 * N) := by positivity
  rw [f.limit_eq hN, f.place_value, ← mul_assoc, mul_le_mul_iff_left₀ hu, emax, hN]
  rcases Nat.lt_trichotomy T (2 * N + 1) with h | rfl | h
  · have small : T * 2 ^ f.fbits ≤ 2 * N * 2 ^ f.fbits := Nat.mul_le_mul_right _ (by omega)
    have hpow : (2 : ℚ) ^ T ≤ 2 ^ (2 * N) := pow_le_pow_right₀ (by norm_num) (by omega)
    have hpos : (0 : ℚ) < 2 ^ T := by positivity
    refine iff_of_false (fun hc => ?_) fun hc => ?_
    · have hp : 0 < 2 ^ f.fbits := by positivity
      nlinarith
    · nlinarith
  · have reaches := nearestEven_reaches near (j := 2 * 2 ^ f.fbits) (by omega)
    have codes : (2 * (N + 1) + 1) * 2 ^ f.fbits ≤ (2 * N + 1) * 2 ^ f.fbits + k ↔ 2 * 2 ^ f.fbits ≤ k := by
      rw [show (2 * (N + 1) + 1) * 2 ^ f.fbits = (2 * N + 1) * 2 ^ f.fbits + 2 * 2 ^ f.fbits by ring]
      exact Nat.add_le_add_iff_left
    rw [codes, reaches, pow_succ, show y * (2 ^ (2 * N) * 2) = 2 ^ (2 * N) * (2 * y) by ring, mul_le_mul_iff_right₀ scale]
    push_cast
    constructor <;> intro hc <;> linarith
  · have large : (2 * N + 2) * 2 ^ f.fbits ≤ T * 2 ^ f.fbits := Nat.mul_le_mul_right _ (by omega)
    have hpow : (2 : ℚ) ^ (2 * N + 2) ≤ 2 ^ T := pow_le_pow_right₀ (by norm_num) (by omega)
    rw [pow_add] at hpow
    have hy : (2 : ℚ) ^ f.fbits ≤ y := low.resolve_left (by omega)
    have hk' := hT.resolve_left (by omega)
    refine iff_of_true ?_ ?_
    · rw [show (2 * (N + 1) + 1) * 2 ^ f.fbits = (2 * N + 2) * 2 ^ f.fbits + 2 ^ f.fbits by ring]
      omega
    · have : (2 : ℚ) ^ f.fbits * (2 ^ (2 * N) * 2 ^ 2) ≤ y * 2 ^ T := mul_le_mul hy hpow (by positivity) (by linarith)
      nlinarith

end

theorem abs_signOf_mul (neg : Bool) (x : ℚ) : |signOf neg * x| = |x| := by cases neg <;> simp [signOf]

/-- A finite value in units of some place lies on their grid, or below the implied bit. -/
theorem Fmt.finite_on_grid {f : Fmt} (hf : f.balanced) {d : Nat} (h : (f.decode d).finite = true) (neg : Bool) (T : Nat) : ∃ z : ℚ,
    (f.decode d).value = signOf neg * (z * 2 ^ f.place T) ∧ ((∃ j : Int, z = j) ∨ (z < 2 ^ f.fbits ∧ T ≠ 0)) := by
  obtain ⟨neg', m, E, hm, -, e⟩ := Fmt.decode_finite hf h
  have sign : ∃ a : Int, |a| = m ∧ (f.decode d).value = signOf neg * (a * 2 ^ f.place E) := by
    rw [e, FVal.value_fin, Fmt.place]
    cases neg <;> cases neg'
    · exact ⟨m, by simp, by simp [signOf]⟩
    · exact ⟨-m, by simp, by simp [signOf]⟩
    · exact ⟨-m, by simp, by simp [signOf]⟩
    · exact ⟨m, by simp, by simp [signOf]⟩
  obtain ⟨a, ha, value⟩ := sign
  rcases Nat.lt_or_ge E T with hE | hE
  · obtain ⟨n, rfl⟩ := Nat.exists_eq_add_of_lt hE
    refine ⟨a / 2 ^ (n + 1), ?_, .inr ⟨?_, by omega⟩⟩
    · have : f.place (E + n + 1) = f.place E + (n + 1 : Nat) := by unfold Fmt.place; push_cast; ring
      rw [value, this, zpow_add₀ (by norm_num), zpow_natCast]
      field_simp
    · have hp : (2 : ℚ) ≤ 2 ^ (n + 1) := by
        rw [pow_succ]
        have : (1 : ℚ) ≤ 2 ^ n := one_le_pow₀ (by norm_num)
        linarith
      have ha : (a : ℚ) < 2 * 2 ^ f.fbits := by
        have : a < ((2 * 2 ^ f.fbits : Nat) : Int) := lt_of_le_of_lt (le_abs_self a) (by rw [ha]; exact_mod_cast hm)
        exact_mod_cast this
      rw [div_lt_iff₀ (by positivity)]
      have hf : (0 : ℚ) < 2 ^ f.fbits := by positivity
      nlinarith
  · obtain ⟨n, rfl⟩ := Nat.exists_eq_add_of_le hE
    refine ⟨((a * 2 ^ n : Int) : ℚ), ?_, .inl ⟨_, rfl⟩⟩
    have : f.place (T + n) = f.place T + (n : Nat) := by unfold Fmt.place; push_cast; ring
    rw [value, this, zpow_add₀ (by norm_num), zpow_natCast]
    push_cast
    ring

/-- The rounding overflows from the limit on (02 R48). -/
theorem Fmt.round_overflows {f : Fmt} (hf : f.balanced) (neg : Bool) {m : Nat} (hm : m ≠ 0) (e : Int) :
    (f.round neg m e).2 = true ↔ f.limit ≤ (m : ℚ) * 2 ^ e := by
  obtain ⟨y, value, near, high, low⟩ := f.units_spec hm e
  rw [value, ← Fmt.overflows_iff near high low hf, f.round_eq neg hm]
  split
  · next h => exact iff_of_true rfl h
  · next h => exact iff_of_false Bool.false_ne_true h

/-- Below the limit the code is finite, and of the units that are nearest. -/
theorem Fmt.round_finite {f : Fmt} (hf : f.balanced) (neg : Bool) {m : Nat} (hm : m ≠ 0) {e : Int} (h : (m : ℚ) * 2 ^ e < f.limit) :
    f.steps m e * 2 ^ f.fbits + f.units m e < f.emax * 2 ^ f.fbits ∧
    (f.round neg m e).1 = f.zero neg + (f.steps m e * 2 ^ f.fbits + f.units m e) ∧
    (f.decode (f.round neg m e).1).finite = true ∧
    (f.decode (f.round neg m e).1).value = signOf neg * (f.units m e * 2 ^ f.place (f.steps m e)) := by
  obtain ⟨y, value, near, high, low⟩ := f.units_spec hm e
  have below : f.steps m e * 2 ^ f.fbits + f.units m e < f.emax * 2 ^ f.fbits := by
    by_contra hn
    rw [value] at h
    exact absurd ((Fmt.overflows_iff near high low hf).mp (Nat.le_of_not_lt hn)) (not_le.mpr h)
  obtain ⟨hk, hT⟩ := Fmt.units_bounds near high low
  rw [f.round_eq neg hm, if_neg (Nat.not_le.mpr below)]
  exact ⟨below, rfl, Fmt.decode_units hf neg hk hT below⟩

/-- A value other than 0 is rounded once: to the nearest code, to the even one of two, and from the limit on to an infinity (00 R10, 02 R48). -/
theorem Fmt.round_roundsTo {f : Fmt} (hf : f.balanced) (neg : Bool) {m : Nat} (hm : m ≠ 0) (e : Int) :
    f.roundsTo (FVal.fin neg m e).value (f.round neg m e).1 := by
  have pos : (0 : ℚ) < m * 2 ^ e := by positivity
  have sign : (FVal.fin neg m e).value < 0 ↔ neg = true := by
    rw [FVal.value_fin]
    cases neg <;> simp [signOf] <;> linarith
  rw [Fmt.roundsTo, FVal.value_fin, abs_signOf_mul, abs_of_pos pos]
  refine ⟨fun h => ?_, fun h => ?_⟩
  · have beyond := (Fmt.round_overflows hf neg hm e).mpr h
    rw [← FVal.value_fin, show decide ((FVal.fin neg m e).value < 0) = neg by simp [sign]]
    rw [f.round_eq neg hm] at beyond ⊢
    split at beyond
    · next hc => rw [if_pos hc]
    · cases beyond
  · obtain ⟨y, value, near, high, low⟩ := f.units_spec hm e
    obtain ⟨below, code, finite, rounded⟩ := Fmt.round_finite hf neg hm h
    have emax := Fmt.emax_of_balanced hf
    obtain ⟨hfrac, hbias, hexp⟩ := id hf
    have signBit : f.signBit = (2 * f.bias + 2) * 2 ^ f.fbits := by rw [Fmt.signBit, pow_add, hexp]
    have less : f.steps m e * 2 ^ f.fbits + f.units m e < f.signBit := by
      refine lt_of_lt_of_le below ?_
      rw [signBit, emax]
      exact Nat.mul_le_mul_right _ (by omega)
    refine ⟨finite, fun hx => ?_, fun hx => ?_, fun d hd => ?_⟩
    · cases neg with
      | true => simp [signOf] at hx; linarith
      | false => rw [code]; simpa [Fmt.zero] using less
    · cases neg with
      | false => simp [signOf] at hx; linarith
      | true => rw [code]; simp only [Fmt.zero, if_true]; omega
    · obtain ⟨z, dz, grid⟩ := Fmt.finite_on_grid hf hd neg (f.steps m e)
      obtain ⟨nearest, even⟩ := nearestEven_nearest_on near low grid
      have unit : (0 : ℚ) < 2 ^ f.place (f.steps m e) := by positivity
      have dist : ∀ w : ℚ, |signOf neg * (w * 2 ^ f.place (f.steps m e)) - signOf neg * (m * 2 ^ e)| = |w - y| * 2 ^ f.place (f.steps m e) := fun w => by
        rw [value, ← mul_sub, abs_signOf_mul, ← sub_mul, abs_mul, abs_of_pos unit]
      rw [rounded, dz, dist, dist]
      refine ⟨mul_le_mul_of_nonneg_right nearest unit.le, fun hne ht => ?_⟩
      have hk : f.units m e % 2 = 0 := even (fun hz => hne (by rw [hz])) (mul_right_cancel₀ unit.ne' ht)
      obtain ⟨n, hn⟩ := Nat.exists_eq_add_of_le' hfrac
      rw [code]
      cases neg <;> simp only [Fmt.zero, signBit, hn, pow_succ, Bool.false_eq_true, if_false, if_true, ← Nat.mul_assoc] <;> omega

/-- A value that lies on the grid of its place is kept. -/
theorem Fmt.round_exact {f : Fmt} (hf : f.balanced) (neg : Bool) {m : Nat} (hm : m ≠ 0) {e : Int} (h : (m : ℚ) * 2 ^ e < f.limit)
    (hg : f.place (f.steps m e) ≤ e) :
    (f.decode (f.round neg m e).1).finite = true ∧ (f.decode (f.round neg m e).1).value = (FVal.fin neg m e).value := by
  obtain ⟨-, -, finite, value⟩ := Fmt.round_finite hf neg hm h
  have place : f.place (f.steps m e) = max (leadingBit m e) (1 - (f.bias : Int)) - f.fbits := by
    unfold Fmt.place Fmt.steps
    omega
  refine ⟨finite, ?_⟩
  rw [value, FVal.value_fin, Fmt.units, ← place]
  generalize f.place (f.steps m e) = q at hg
  obtain ⟨n, rfl⟩ := Int.le.dest hg
  rw [inUnits, if_pos hg, add_sub_cancel_left, Int.toNat_natCast, zpow_add₀ (by norm_num), zpow_natCast]
  push_cast
  ring

/-! ### Sums -/

/-- The rational that an exact value is. -/
def Dy.value (x : Dy) : ℚ := x.m * 2 ^ x.e

theorem FVal.dy_value (neg : Bool) (m : Nat) (e : Int) : (FVal.fin neg m e).dy.value = (FVal.fin neg m e).value := by
  rw [FVal.value_fin, FVal.dy, Dy.value, signOf]
  cases neg <;> simp

theorem Dy.value_shift (a : Int) (e : Int) (n : Nat) : ((a * 2 ^ n : Int) : ℚ) * 2 ^ e = a * 2 ^ (e + n) := by
  rw [zpow_add₀ (by norm_num), zpow_natCast]
  push_cast
  ring

theorem Dy.add_value (a b : Dy) : (a.add b).value = a.value + b.value := by
  unfold Dy.add
  split
  · next h => simp [Dy.value, h]
  · split
    · next h => simp [Dy.value, h]
    · split
      · next h =>
        obtain ⟨n, hn⟩ := Int.eq_ofNat_of_zero_le (sub_nonneg.mpr h)
        have shift := Dy.value_shift b.m a.e n
        rw [hn, Int.toNat_natCast]
        rw [show a.e + (n : Int) = b.e by omega] at shift
        rw [Dy.value, Dy.value, Dy.value, ← shift, Int.cast_add, add_mul]
      · next h =>
        obtain ⟨n, hn⟩ := Int.eq_ofNat_of_zero_le (show 0 ≤ a.e - b.e by omega)
        have shift := Dy.value_shift a.m b.e n
        rw [hn, Int.toNat_natCast]
        rw [show b.e + (n : Int) = a.e by omega] at shift
        rw [Dy.value, Dy.value, Dy.value, ← shift, Int.cast_add, add_mul]

/-- An exact value other than 0 is rounded once. -/
theorem Fmt.roundDy_roundsTo {f : Fmt} (hf : f.balanced) {x : Dy} (h : x.value ≠ 0) : f.roundsTo x.value (f.roundDy x).1 := by
  have hm : x.m.natAbs ≠ 0 := fun hm => h (by simp [Dy.value, Int.natAbs_eq_zero.mp hm])
  have value : (FVal.fin (decide (x.m < 0)) x.m.natAbs x.e).value = x.value := by
    rw [FVal.value_fin, Dy.value, signOf, ← mul_assoc]
    congr 1
    rcases lt_or_ge x.m 0 with hn | hn
    · simp [hn, Nat.cast_natAbs, abs_of_neg hn]
    · simp [not_lt.mpr hn, Nat.cast_natAbs, abs_of_nonneg hn]
  rw [← value]
  exact Fmt.round_roundsTo hf _ hm _

theorem Fmt.roundDy_zero (f : Fmt) {x : Dy} (h : x.value = 0) : f.roundDy x = (0, false) := by
  have hm : x.m = 0 := by exact_mod_cast (mul_eq_zero.mp h).resolve_right (by positivity)
  simp [Fmt.roundDy, Fmt.round, hm, Fmt.zero]

/-- An exact value is rounded to a sum, a zero being +0. -/
theorem Fmt.roundDy_sumsTo {f : Fmt} (hf : f.balanced) (x : Dy) : f.sumsTo x.value (f.roundDy x).1 :=
  ⟨_, fun h => by rw [f.roundDy_zero h], Fmt.roundDy_roundsTo hf, .inl rfl⟩

theorem Fmt.sumsTo_plusZero {f : Fmt} {x : ℚ} {c : Nat} (h : (x = 0 → c = 0 ∨ c = f.signBit) ∧ (x ≠ 0 → f.roundsTo x c)) : f.sumsTo x (plusZero f c) := by
  obtain ⟨zero, round⟩ := h
  unfold plusZero
  by_cases hx : x = 0
  · refine ⟨0, fun _ => rfl, fun h => absurd hx h, .inl ?_⟩
    rcases zero hx with rfl | rfl
    · exact ite_self _
    · exact if_pos rfl
  · refine ⟨c, fun h => absurd h hx, round, ?_⟩
    split
    · next h => exact .inr ⟨h, rfl⟩
    · exact .inl rfl

end Sys2Proof.Machine
end

section
/-! PROOFS. The sums of a reduction: BS8 blocks at their scale, row records by batch index, FP32 elements in turn (09 R218-R220, R226-R228). -/

namespace Sys2Proof.Machine

open Sys2Proof

/-! ### Lanes of a block -/

theorem laneAdd_fits {l : List Int} {c : List Int × Nat} {e : Nat} {t : List Int} (h : laneAdd l c e = some t) : ∀ v ∈ t, laneFits v = true := by
  unfold laneAdd at h
  dsimp only at h
  split at h
  · next hf =>
    obtain ⟨-, hf⟩ := Bool.and_eq_true_iff.mp hf
    cases h
    exact List.all_eq_true.mp hf
  · cases h

/-- Contributions are summed at a scale as long as each can be added. -/
theorem sumAt_eq_foldlM (cs : List (List Int × Nat)) (e : Nat) : sumAt cs e = cs.foldlM (fun t c => laneAdd t c e) (List.replicate 32 0) := by
  have fold : ∀ (l : List (List Int × Nat)) (a : Option (List Int)),
      l.foldl (fun a c => a.bind fun t => laneAdd t c e) a = a.bind fun t => l.foldlM (fun t c => laneAdd t c e) t := fun l => by
    induction l with
    | nil => intro a; cases a <;> rfl
    | cons c l ih => intro a; cases a <;> simp [ih]
  exact fold cs _

theorem foldlM_laneAdd_fits {e : Nat} {cs : List (List Int × Nat)} {l t : List Int} (hl : ∀ v ∈ l, laneFits v = true)
    (h : cs.foldlM (fun t c => laneAdd t c e) l = some t) : ∀ v ∈ t, laneFits v = true := by
  induction cs generalizing l with
  | nil => cases h; exact hl
  | cons c cs ih =>
    rw [List.foldlM_cons] at h
    obtain ⟨u, hu, h⟩ := Option.bind_eq_some_iff.mp h
    exact ih (laneAdd_fits hu) h

theorem laneFits_zeros : ∀ v ∈ List.replicate 32 (0 : Int), laneFits v = true := fun v hv => by rw [List.eq_of_mem_replicate hv]; decide

theorem sumAt_fits {cs : List (List Int × Nat)} {e : Nat} {t : List Int} (h : sumAt cs e = some t) : ∀ v ∈ t, laneFits v = true :=
  foldlM_laneAdd_fits laneFits_zeros (sumAt_eq_foldlM cs e ▸ h)

/-- A raise finds sums of 24-bit lanes at a larger scale (09 R227). -/
theorem raiseScale_spec {cs : List (List Int × Nat)} {fuel e e' : Nat} {t : List Int} (h : raiseScale cs fuel e = some (t, e')) :
    e < e' ∧ ∀ v ∈ t, laneFits v = true := by
  induction fuel generalizing e with
  | zero => cases h
  | succ fuel ih =>
    unfold raiseScale at h
    split at h
    · next u hu =>
      cases h
      exact ⟨Nat.lt_succ_self e, sumAt_fits hu⟩
    · obtain ⟨hl, hf⟩ := ih h
      exact ⟨by omega, hf⟩

/-- Without a raise a block's sums are those at its scale. -/
theorem BlockSum.addAll_of_sum {e : Nat} {t : List Int} (cs : List (List Int × Nat)) {l : List Int} (before : List (List Int × Nat))
    (h : cs.foldlM (fun t c => laneAdd t c e) l = some t) :
    BlockSum.addAll { sums := l, scale := e, raised := 0, raises := 0 } before cs = { sums := t, scale := e, raised := 0, raises := 0 } := by
  induction cs generalizing l before with
  | nil => cases h; rfl
  | cons c cs ih =>
    rw [List.foldlM_cons] at h
    obtain ⟨u, hu, h⟩ := Option.bind_eq_some_iff.mp h
    rw [BlockSum.addAll, BlockSum.add]
    dsimp only
    rw [hu]
    exact ih _ h

/-- Every lane is a 24-bit number, and the scale is the agreed one and what it has been raised. -/
def BlockSum.sound (e : Nat) (b : BlockSum) : Prop := (∀ v ∈ b.sums, laneFits v = true) ∧ b.scale = e + b.raised

theorem BlockSum.add_sound {e : Nat} {b : BlockSum} (h : b.sound e) (before : List (List Int × Nat)) (c : List Int × Nat) : (b.add before c).sound e := by
  obtain ⟨fits, scale⟩ := h
  unfold BlockSum.add
  split
  · next t ht => exact ⟨laneAdd_fits ht, scale⟩
  · split
    · next t e' ht =>
      obtain ⟨larger, hf⟩ := raiseScale_spec ht
      refine ⟨hf, ?_⟩
      dsimp only
      omega
    · exact ⟨fits, scale⟩

theorem BlockSum.addAll_sound {e : Nat} (cs : List (List Int × Nat)) {b : BlockSum} (h : b.sound e) (before : List (List Int × Nat)) :
    (b.addAll before cs).sound e := by
  induction cs generalizing b before with
  | nil => exact h
  | cons c cs ih => exact ih (b.add_sound h before c) _

/-! ### Row records by batch index -/

theorem insertRec_perm (c : RowRec) (l : List RowRec) : (insertRec c l).Perm (c :: l) := by
  induction l with
  | nil => exact .refl _
  | cons x t ih =>
    unfold insertRec
    split
    · exact (ih.cons x).trans (.swap c x t)
    · exact .refl _

theorem insertRec_ascending (c : RowRec) {l : List RowRec} (h : l.Pairwise fun a b => a.batch ≤ b.batch) :
    (insertRec c l).Pairwise fun a b => a.batch ≤ b.batch := by
  induction l with
  | nil => exact List.pairwise_singleton _ _
  | cons x t ih =>
    obtain ⟨least, rest⟩ := List.pairwise_cons.mp h
    unfold insertRec
    split
    · next hx =>
      refine List.pairwise_cons.mpr ⟨fun y hy => ?_, ih rest⟩
      rcases List.mem_cons.mp ((insertRec_perm c t).mem_iff.mp hy) with rfl | hy
      · exact hx
      · exact least y hy
    · next hx =>
      refine List.pairwise_cons.mpr ⟨fun y hy => ?_, h⟩
      rcases List.mem_cons.mp hy with rfl | hy
      · omega
      · have := least y hy
        omega

theorem byBatch_perm (l : List RowRec) : (byBatch l).Perm l := by
  have fold : ∀ a : List RowRec, (l.foldl (fun a r => insertRec r a) a).Perm (l ++ a) := by
    induction l with
    | nil => exact fun a => .refl _
    | cons r t ih => exact fun a => (ih _).trans (((insertRec_perm r a).append_left t).trans List.perm_middle)
  have sorted := fold []
  rwa [List.append_nil] at sorted

theorem byBatch_ascending (l : List RowRec) : (byBatch l).Pairwise fun a b => a.batch ≤ b.batch :=
  List.foldlRecOn (motive := fun a : List RowRec => a.Pairwise fun a b => a.batch ≤ b.batch) l _ List.Pairwise.nil fun _ h r _ => insertRec_ascending r h

/-! ### One addition -/

theorem FVal.eq_fin {v : FVal} (h : v.finite = true) : ∃ neg m e, v = .fin neg m e := by
  cases v with
  | fin neg m e => exact ⟨neg, m, e, rfl⟩
  | nan | inf => cases h

theorem a48_limit : (2 : ℚ) ^ 129 < a48.limit := by
  have limit : a48.limit = 2 ^ 511 * 2 - 2 ^ 473 := by
    rw [Fmt.limit, show (a48.bias : Int) - a48.fbits - 1 = (473 : Nat) from rfl, zpow_natCast, ← pow_succ]
    rfl
  have small : (2 : ℚ) ^ 129 < 2 ^ 511 := pow_lt_pow_right₀ (by norm_num) (by norm_num)
  have half : (2 : ℚ) ^ 473 < 2 ^ 511 := pow_lt_pow_right₀ (by norm_num) (by norm_num)
  rw [limit]
  generalize (2 : ℚ) ^ 511 = a, (2 : ℚ) ^ 473 = b, (2 : ℚ) ^ 129 = c at *
  linarith

/-- Every FP32 value is an A48 value. -/
theorem a48_ofVal_fp32 {x : Nat} (h : (fp32.decode x).finite = true) : (a48.decode (a48.ofVal (fp32.decode x)).1).finite = true ∧
    (a48.decode (a48.ofVal (fp32.decode x)).1).value = (fp32.decode x).value := by
  obtain ⟨neg, m, E, hm, hE, e⟩ := Fmt.decode_finite fp32_balanced h
  replace e : fp32.decode x = .fin neg m (E - 149 : Int) := by
    rw [e, show 1 - (fp32.bias : Int) - fp32.fbits + E = E - 149 by simp only [fp32]; omega]
  replace hm : m < 2 ^ 24 := hm
  replace hE : E < 254 := hE
  rw [e]
  dsimp only [Fmt.ofVal]
  rcases Nat.eq_zero_or_pos m with rfl | hpos
  · rw [Fmt.round, if_pos rfl, Fmt.decode_zero a48_balanced]
    exact ⟨rfl, by simp [FVal.value]⟩
  · have lead : Nat.log2 m < 24 := (Nat.log2_lt hpos.ne').mpr hm
    have small : (m : ℚ) * 2 ^ (E - 149 : Int) < a48.limit := by
      have hq : (m : ℚ) < 2 ^ 24 := by exact_mod_cast hm
      have he : (2 : ℚ) ^ (E - 149 : Int) ≤ 2 ^ (105 : Int) := zpow_le_zpow_right₀ (by norm_num) (by omega)
      have hp : (0 : ℚ) < 2 ^ (E - 149 : Int) := by positivity
      calc (m : ℚ) * 2 ^ (E - 149 : Int) ≤ 2 ^ 24 * 2 ^ (105 : Int) := mul_le_mul hq.le he hp.le (by positivity)
        _ = 2 ^ 129 := by norm_num
        _ < a48.limit := a48_limit
    refine Fmt.round_exact a48_balanced neg hpos.ne' small ?_
    simp only [Fmt.place, Fmt.steps, leadingBit, a48]
    omega

/-- Two A48 values added are their sum, rounded once. -/
theorem addA48_sumsTo {a b : Nat} (ha : (a48.decode a).finite = true) (hb : (a48.decode b).finite = true) :
    a48.sumsTo ((a48.decode a).value + (a48.decode b).value) (addA48 a b) := by
  obtain ⟨na, ma, ea, ea'⟩ := FVal.eq_fin ha
  obtain ⟨nb, mb, eb, eb'⟩ := FVal.eq_fin hb
  have sum : addA48 a b = (a48.roundDy ((FVal.fin na ma ea).dy.add (FVal.fin nb mb eb).dy)).1 := by
    unfold addA48
    rw [ea', eb']
    rfl
  rw [sum, ea', eb', ← FVal.dy_value, ← FVal.dy_value, ← Dy.add_value]
  exact Fmt.roundDy_sumsTo a48_balanced _

/-- Two FP32 values added in T7-exact mode are their sum, rounded once. -/
theorem addT7_sumsTo {a b : Nat} (ha : (fp32.decode a).finite = true) (hb : (fp32.decode b).finite = true) :
    fp32.sumsTo ((fp32.decode a).value + (fp32.decode b).value) (addT7 a b) := by
  obtain ⟨na, ma, ea, ea'⟩ := FVal.eq_fin ha
  obtain ⟨nb, mb, eb, eb'⟩ := FVal.eq_fin hb
  have sum : addT7 a b = plusZero fp32 (if ma = 0 ∧ mb = 0 then fp32.zero (na && nb)
      else (fp32.roundDy ((FVal.fin na ma ea).dy.add (FVal.fin nb mb eb).dy)).1) := by
    unfold addT7 t7Add
    rw [ea', eb']
    rfl
  rw [sum, ea', eb', ← FVal.dy_value, ← FVal.dy_value, ← Dy.add_value]
  refine Fmt.sumsTo_plusZero ⟨fun h0 => ?_, fun h0 => ?_⟩
  · split
    · cases na && nb
      · exact .inl rfl
      · exact .inr rfl
    · exact .inl (by rw [fp32.roundDy_zero h0])
  · split
    · next hz =>
      obtain ⟨rfl, rfl⟩ := hz
      exact absurd (by simp [Dy.add_value, FVal.dy_value, FVal.value]) h0
    · exact Fmt.roundDy_roundsTo fp32_balanced h0

/-- An output is its accumulator, rounded once. -/
theorem outputFloat_sumsTo {t7 : Bool} {f : Fmt} (hf : f.balanced) {a : Nat} (h : ((accFmt t7).decode a).finite = true) :
    f.sumsTo ((accFmt t7).decode a).value (outputFloat t7 f a).1 := by
  obtain ⟨neg, m, e, ea⟩ := FVal.eq_fin h
  have out : (outputFloat t7 f a).1 = plusZero f (f.round neg m e).1 := by
    unfold outputFloat
    rw [ea]
    rfl
  rw [out, ea]
  rcases Nat.eq_zero_or_pos m with rfl | hm
  · refine Fmt.sumsTo_plusZero ⟨fun _ => ?_, fun h0 => absurd (by simp [FVal.value]) h0⟩
    cases neg
    · exact .inl rfl
    · exact .inr rfl
  · refine Fmt.sumsTo_plusZero ⟨fun h0 => ?_, fun _ => Fmt.round_roundsTo hf neg hm.ne' e⟩
    rw [FVal.value_fin] at h0
    have : (0 : ℚ) < m * 2 ^ e := by positivity
    exact absurd (congrArg abs h0) (by rw [abs_signOf_mul, abs_of_pos this, abs_zero]; exact this.ne')

/-! ### Elements in turn -/

/-- The accumulator of a reduction after one more contribution, an FP32 code (09 R219). -/
def accNext (t7 : Bool) (a x : Nat) : Nat := if t7 then addT7 a x else addA48 a (a48.ofVal (fp32.decode x)).1

/-- The accumulator after a list of contributions. -/
def accSum (t7 : Bool) (xs : List Nat) : Nat := xs.foldl (accNext t7) 0

theorem reduceFp32_eq (t7 : Bool) (xs : List Nat) : (reduceFp32 t7 xs).1 = (outputFloat t7 fp32 (accSum t7 xs)).1 := by
  have fold := List.foldl_hom (l := xs) (init := ((0, false) : Nat × Bool)) Prod.fst (g₂ := accNext t7)
    (g₁ := fun a x => addAcc t7 a ((if t7 then x else (a48.ofVal (fp32.decode x)).1), false)) fun a x => by cases t7 <;> rfl
  unfold reduceFp32
  dsimp only
  rw [← fold]
  rfl

/-- The accumulator after the first `k` contributions. -/
def accAfter (t7 : Bool) (xs : List Nat) (k : Nat) : Nat := accSum t7 (xs.take k)

theorem accAfter_length (t7 : Bool) (xs : List Nat) : accAfter t7 xs xs.length = accSum t7 xs := by rw [accAfter, List.take_length]

theorem accAfter_succ (t7 : Bool) {xs : List Nat} {k x : Nat} (h : xs[k]? = some x) : accAfter t7 xs (k + 1) = accNext t7 (accAfter t7 xs k) x := by
  rw [accAfter, accSum, List.take_add_one, h, List.foldl_append]
  rfl

theorem accNext_sumsTo {t7 : Bool} {a x : Nat} (hx : (fp32.decode x).finite = true) (ha : ((accFmt t7).decode a).finite = true) :
    (accFmt t7).sumsTo (((accFmt t7).decode a).value + (fp32.decode x).value) (accNext t7 a x) := by
  cases t7 with
  | true => exact addT7_sumsTo ha hx
  | false =>
    obtain ⟨finite, value⟩ := a48_ofVal_fp32 hx
    have sum := addA48_sumsTo ha finite
    rw [value] at sum
    exact sum

/-! ### NaNs and infinities -/

theorem a48_decode_nan : a48.decode a48.nan = .nan := by decide +kernel
theorem a48_decode_inf (s : Bool) : a48.decode (a48.inf s) = .inf s := by cases s <;> decide +kernel
theorem fp32_decode_nan : fp32.decode (plusZero fp32 fp32.nan) = .nan := by decide +kernel
theorem fp32_decode_inf (s : Bool) : fp32.decode (plusZero fp32 (fp32.inf s)) = .inf s := by cases s <;> decide +kernel

/-- The sum of two values that are not both finite: a NaN, or the infinity that meets no other sign (02 R53). -/
def FVal.addSpecial : FVal → FVal → FVal
  | .inf a, .inf b => if a = b then .inf a else .nan
  | .inf a, .fin _ _ _ => .inf a
  | .fin _ _ _, .inf b => .inf b
  | _, _ => .nan

theorem addA48_special {a b : Nat} (h : (a48.decode a).finite = false ∨ (a48.decode b).finite = false) :
    a48.decode (addA48 a b) = (a48.decode a).addSpecial (a48.decode b) := by
  unfold addA48
  cases ha : a48.decode a with
  | nan => exact a48_decode_nan
  | inf s =>
    cases hb : a48.decode b with
    | nan => exact a48_decode_nan
    | fin => exact ha
    | inf u =>
      dsimp only [FVal.addSpecial]
      split
      · exact ha
      · exact a48_decode_nan
  | fin =>
    cases hb : a48.decode b with
    | nan => exact a48_decode_nan
    | inf => exact hb
    | fin => simp [ha, hb, FVal.finite] at h

theorem addT7_special {a b : Nat} (h : (fp32.decode a).finite = false ∨ (fp32.decode b).finite = false) :
    fp32.decode (addT7 a b) = (fp32.decode a).addSpecial (fp32.decode b) := by
  have sum : addT7 a b = plusZero fp32 (fp32.addVals (fp32.decode a) (fp32.decode b)).1 := rfl
  rw [sum]
  unfold Fmt.addVals
  dsimp only
  cases ha : fp32.decode a with
  | nan => exact fp32_decode_nan
  | inf s =>
    cases hb : fp32.decode b with
    | nan => exact fp32_decode_nan
    | fin => exact fp32_decode_inf s
    | inf u =>
      dsimp only [FVal.addSpecial]
      split
      · exact fp32_decode_inf s
      · exact fp32_decode_nan
  | fin =>
    cases hb : fp32.decode b with
    | nan => exact fp32_decode_nan
    | inf u => exact fp32_decode_inf u
    | fin => simp [ha, hb, FVal.finite] at h

/-- A NaN or an infinity among the accumulator and the contribution. -/
theorem accNext_special {t7 : Bool} {a x : Nat} (h : ((accFmt t7).decode a).finite = false ∨ (fp32.decode x).finite = false) :
    (accFmt t7).decode (accNext t7 a x) = ((accFmt t7).decode a).addSpecial (fp32.decode x) := by
  cases t7 with
  | true => exact addT7_special h
  | false =>
    have converted : ((a48.decode (a48.ofVal (fp32.decode x)).1).finite = (fp32.decode x).finite) ∧
        (a48.decode a).addSpecial (a48.decode (a48.ofVal (fp32.decode x)).1) = (a48.decode a).addSpecial (fp32.decode x) := by
      cases hx : fp32.decode x with
      | nan => exact ⟨congrArg FVal.finite a48_decode_nan, congrArg _ a48_decode_nan⟩
      | inf s => exact ⟨congrArg FVal.finite (a48_decode_inf s), congrArg _ (a48_decode_inf s)⟩
      | fin neg m e =>
        have finite := (a48_ofVal_fp32 (x := x) (by rw [hx]; rfl)).1
        rw [hx] at finite
        obtain ⟨neg', m', e', hc⟩ := FVal.eq_fin finite
        rw [hc]
        refine ⟨rfl, ?_⟩
        cases a48.decode a <;> rfl
    obtain ⟨finite, same⟩ := converted
    exact (addA48_special (by rw [finite]; exact h)).trans same

section
variable {t7 : Bool} {xs : List Nat} {a : Nat}

theorem foldl_accNext_nan (h : (accFmt t7).decode a = .nan) : (accFmt t7).decode (xs.foldl (accNext t7) a) = .nan :=
  List.foldlRecOn (motive := fun b => (accFmt t7).decode b = .nan) xs _ h fun b hb x _ => by
    rw [accNext_special (.inl (by rw [hb]; rfl)), hb]
    cases fp32.decode x <;> rfl

/-- A NaN among the contributions makes the sum a NaN. -/
theorem foldl_accNext_of_nan (h : ∃ x ∈ xs, fp32.decode x = .nan) : (accFmt t7).decode (xs.foldl (accNext t7) a) = .nan := by
  obtain ⟨x, hx, hn⟩ := h
  obtain ⟨l, r, rfl⟩ := List.append_of_mem hx
  rw [List.foldl_append, List.foldl_cons]
  apply foldl_accNext_nan
  rw [accNext_special (.inr (by rw [hn]; rfl)), hn]
  cases (accFmt t7).decode (l.foldl (accNext t7) a) <;> rfl

/-- An accumulator that is an infinity, or a NaN, meets the opposite infinity. -/
theorem foldl_accNext_opposed {s : Bool} (ha : (accFmt t7).decode a = .inf s ∨ (accFmt t7).decode a = .nan) (h : ∃ x ∈ xs, fp32.decode x = .inf !s) :
    (accFmt t7).decode (xs.foldl (accNext t7) a) = .nan := by
  induction xs generalizing a with
  | nil =>
    obtain ⟨x, hx, -⟩ := h
    cases hx
  | cons y t ih =>
    rcases ha with ha | ha
    · have next := accNext_special (t7 := t7) (a := a) (x := y) (.inl (by rw [ha]; rfl))
      rw [ha] at next
      rw [List.foldl_cons]
      by_cases hy : fp32.decode y = .inf !s
      · rw [hy] at next
        exact foldl_accNext_nan (next.trans (if_neg (by cases s <;> decide)))
      · refine ih ?_ ?_
        · rw [next]
          cases hd : fp32.decode y with
          | nan => exact .inr rfl
          | fin => exact .inl rfl
          | inf u =>
            have hu : s = u := by
              rw [hd] at hy
              revert hy
              cases s <;> cases u <;> decide
            exact .inl (if_pos hu)
        · obtain ⟨x, hx, hd⟩ := h
          rcases List.mem_cons.mp hx with rfl | hx
          · exact absurd hd hy
          · exact ⟨x, hx, hd⟩
    · exact foldl_accNext_nan ha

/-- Infinities of both signs among the contributions make the sum a NaN. -/
theorem foldl_accNext_of_infs (h : ∀ s, ∃ x ∈ xs, fp32.decode x = .inf s) : (accFmt t7).decode (xs.foldl (accNext t7) a) = .nan := by
  induction xs generalizing a with
  | nil =>
    obtain ⟨x, hx, -⟩ := h false
    cases hx
  | cons y t ih =>
    rw [List.foldl_cons]
    by_cases hy : ∃ s, fp32.decode y = .inf s
    · obtain ⟨s, hy⟩ := hy
      have next := accNext_special (t7 := t7) (a := a) (x := y) (.inr (by rw [hy]; rfl))
      rw [hy] at next
      refine foldl_accNext_opposed (s := s) ?_ ?_
      · rw [next]
        cases (accFmt t7).decode a with
        | nan => exact .inr rfl
        | fin => exact .inl rfl
        | inf u =>
          dsimp only [FVal.addSpecial]
          split
          · next hu => exact .inl (by rw [hu])
          · exact .inr rfl
      · obtain ⟨x, hx, hd⟩ := h !s
        rcases List.mem_cons.mp hx with rfl | hx
        · rw [hy] at hd
          cases s <;> cases hd
        · exact ⟨x, hx, hd⟩
    · refine ih fun s => ?_
      obtain ⟨x, hx, hd⟩ := h s
      rcases List.mem_cons.mp hx with rfl | hx
      · exact absurd ⟨s, hd⟩ hy
      · exact ⟨x, hx, hd⟩

end

/-- The output of a NaN. -/
theorem outputFloat_nan {t7 : Bool} {a : Nat} (h : (accFmt t7).decode a = .nan) : (outputFloat t7 fp32 a).1 = 0x7FC00000 := by
  unfold outputFloat
  rw [h]
  decide

/-- Settles O36: lanes stay within 24 bits and raises are accounted for, records are taken by batch index, and FP32 sums are rounded once at each addition. -/
theorem blockSums : Obligations.BlockSums := by
  unfold Obligations.BlockSums
  refine ⟨fun cs e b hb => ?_, fun l => ⟨byBatch_perm l, byBatch_ascending l⟩, fun t7 xs => ⟨⟨accAfter t7 xs, rfl, fun k x hk hx ha => ?_, fun ha => ?_⟩,
    fun h => ?_⟩⟩
  · subst hb
    obtain ⟨fits, scale⟩ := BlockSum.addAll_sound (e := e) cs (b := { sums := List.replicate 32 0, scale := e, raised := 0, raises := 0 })
      ⟨laneFits_zeros, rfl⟩ []
    exact ⟨fun t ht => BlockSum.addAll_of_sum cs [] (sumAt_eq_foldlM cs e ▸ ht), fits, scale⟩
  · rw [accAfter_succ t7 hk]
    exact accNext_sumsTo hx ha
  · rw [accAfter_length] at ha ⊢
    rw [reduceFp32_eq]
    exact outputFloat_sumsTo fp32_balanced ha
  · rw [reduceFp32_eq]
    apply outputFloat_nan
    rcases h with h | ⟨pos, neg⟩
    · exact foldl_accNext_of_nan h
    · exact foldl_accNext_of_infs fun s => by cases s <;> assumption

end Sys2Proof.Machine
end

section
/-! PROOFS. Messages cut into flits and joined again (10 R239, R244). -/

namespace Sys2Proof.Machine

open Sys2Proof

/-! ### Fields behind one another -/

/-- A field behind a piece is counted from the end of that. -/
theorem field_skip {a c : List Byte} {k : Nat} (o n : Nat) (h : a.length = k) : field (a ++ c) (k + o) n = field c o n :=
  congrArg leNat (slice_skip o n h)

/-- A number stored first is the field there. -/
theorem field_leBytes {n v : Nat} (c : List Byte) (h : v < 256 ^ n) : field (leBytes n v ++ c) 0 n = v :=
  (congrArg leNat (slice_first c (length_leBytes n v))).trans (leNat_leBytes_of_lt n v h)

/-- Bytes that do not fill their place have zeros behind them. -/
theorem fit_of_le {n : Nat} {b : List Byte} (h : b.length ≤ n) : fit n b = b ++ zeros (n - b.length) := by
  rw [fit, List.take_append, List.take_of_length_le h, zeros, zeros, List.take_replicate, Nat.min_eq_left (Nat.sub_le n _)]

/-! ### Flits -/

/-- The bytes of a flit in front of LEN. -/
def flitHead (vc ftype flags seq ack cvc ccount : Nat) : List Byte :=
  leBytes 1 (vc * 16 + ftype) ++ leBytes 1 flags ++ leBytes 2 seq ++ leBytes 2 ack ++ leBytes 1 (cvc * 16) ++ leBytes 1 ccount

theorem length_flitHead (vc ftype flags seq ack cvc ccount : Nat) : (flitHead vc ftype flags seq ack cvc ccount).length = 8 := by simp [flitHead]

theorem mkFlit_eq (vc ftype flags seq ack cvc ccount : Nat) {b : List Byte} (h : b.length ≤ 240) : ∃ rest,
    mkFlit vc ftype flags seq ack cvc ccount b = flitHead vc ftype flags seq ack cvc ccount ++ (leBytes 2 b.length ++ (zeros 2 ++ (b ++ rest))) :=
  ⟨_, by simp only [mkFlit, flitHead, fit_of_le h, List.append_assoc]; rfl⟩

/-- What a flit carries is read back from it. -/
theorem slice_mkFlit (vc ftype flags seq ack cvc ccount : Nat) {b : List Byte} (h : b.length ≤ 240) :
    slice (mkFlit vc ftype flags seq ack cvc ccount b) 12 (field (mkFlit vc ftype flags seq ack cvc ccount b) 8 2) = b := by
  obtain ⟨rest, e⟩ := mkFlit_eq vc ftype flags seq ack cvc ccount h
  have hl := length_flitHead vc ftype flags seq ack cvc ccount
  have hn : field (mkFlit vc ftype flags seq ack cvc ccount b) 8 2 = b.length := by
    rw [e, field_skip 0 2 hl, field_leBytes _ (by omega)]
  rw [hn, e, slice_skip 4 _ hl, slice_skip 2 _ (length_leBytes 2 _), slice_skip 0 _ (by simp [zeros] : (zeros 2).length = 2), slice_first rest rfl]

/-! ### Pieces -/

/-- Every piece fits a flit. -/
theorem length_le_of_mem_pieces {fuel : Nat} {b x : List Byte} (h : x ∈ pieces fuel b) : x.length ≤ 240 := by
  induction fuel generalizing b with
  | zero => cases h
  | succ fuel ih =>
    unfold pieces at h
    split at h
    · rw [List.mem_singleton.mp h]; assumption
    · rcases List.mem_cons.mp h with rfl | h
      · exact List.length_take_le ..
      · exact ih h

/-- The pieces joined are the bytes cut, where there are enough of them. -/
theorem flatten_pieces {fuel : Nat} {b : List Byte} (h : b.length ≤ 240 * fuel) (hf : 0 < fuel) : (pieces fuel b).flatten = b := by
  induction fuel generalizing b with
  | zero => cases hf
  | succ fuel ih =>
    unfold pieces
    split
    · simp
    · rw [List.flatten_cons, ih (by rw [List.length_drop]; omega) (by omega), List.take_append_drop]

/-! ### Messages -/

theorem length_msgBytes (m : Msg) : (msgBytes m).length = 16 + m.body.length := by
  simp [msgBytes, zeros]
  omega

/-- What the flits of a message carry, joined, is the message. -/
theorem flitsOf_joined {m : Msg} (h : m.body.length ≤ 65536) :
    ((flitsOf m).map fun f => slice f.flit 12 (field f.flit 8 2)).flatten = msgBytes m := by
  have hp : ((flitsOf m).map fun f => slice f.flit 12 (field f.flit 8 2)) = pieces 300 (msgBytes m) := by
    apply List.ext_getElem
    · simp [flitsOf]
    · intro i _ hi
      have hx : nth [] (pieces 300 (msgBytes m)) i = (pieces 300 (msgBytes m))[i] := by simp [nth, hi]
      simp only [flitsOf, List.getElem_map, List.getElem_range, hx]
      exact slice_mkFlit _ _ _ _ _ _ _ (length_le_of_mem_pieces (List.getElem_mem hi))
  rw [hp]
  exact flatten_pieces (by rw [length_msgBytes]; omega) (by omega)

/-- A message is read back from its bytes. -/
theorem msgOf_msgBytes {m : Msg} (ht : m.typ < 16) (ho : m.opc < 16) (hl : m.links < 8) (hs : m.src < 2 ^ 16) (hd : m.dst < 2 ^ 16)
    (hi : m.id < 2 ^ 32) (hb : m.body.length < 2 ^ 32) : msgOf m.vc (msgBytes m) = some m := by
  have hr := m.resp.toNat_le
  have ha := m.last.toNat_le
  have e : msgBytes m = leBytes 1 (m.opc * 16 + m.typ) ++ (leBytes 1 (m.links * 4 + m.last.toNat * 2 + m.resp.toNat) ++ (leBytes 2 m.dst ++
      (leBytes 2 m.src ++ (zeros 2 ++ (leBytes 4 m.body.length ++ (leBytes 4 m.id ++ m.body)))))) := by simp only [msgBytes, List.append_assoc]
  have f0 : field (msgBytes m) 0 1 = m.opc * 16 + m.typ := by rw [e, field_leBytes _ (by omega)]
  have f1 : field (msgBytes m) 1 1 = m.links * 4 + m.last.toNat * 2 + m.resp.toNat := by
    rw [e, field_skip 0 1 (length_leBytes 1 _), field_leBytes _ (by omega)]
  have f2 : field (msgBytes m) 2 2 = m.dst := by
    rw [e, field_skip 1 2 (length_leBytes 1 _), field_skip 0 2 (length_leBytes 1 _), field_leBytes _ (by omega)]
  have f4 : field (msgBytes m) 4 2 = m.src := by
    rw [e, field_skip 3 2 (length_leBytes 1 _), field_skip 2 2 (length_leBytes 1 _), field_skip 0 2 (length_leBytes 2 _), field_leBytes _ (by omega)]
  have hz : (zeros 2).length = 2 := by simp [zeros]
  have f8 : field (msgBytes m) 8 4 = m.body.length := by
    rw [e, field_skip 7 4 (length_leBytes 1 _), field_skip 6 4 (length_leBytes 1 _), field_skip 4 4 (length_leBytes 2 _),
      field_skip 2 4 (length_leBytes 2 _), field_skip 0 4 hz, field_leBytes _ (by omega)]
  have f12 : field (msgBytes m) 12 4 = m.id := by
    rw [e, field_skip 11 4 (length_leBytes 1 _), field_skip 10 4 (length_leBytes 1 _), field_skip 8 4 (length_leBytes 2 _),
      field_skip 6 4 (length_leBytes 2 _), field_skip 4 4 hz, field_skip 0 4 (length_leBytes 4 _), field_leBytes _ (by omega)]
  have hbody : (msgBytes m).drop 16 = m.body := by
    rw [msgBytes, List.drop_left' (by simp [zeros])]
  have htyp : bits (m.opc * 16 + m.typ) 0 4 = m.typ := by unfold bits; omega
  have hopc : bits (m.opc * 16 + m.typ) 4 4 = m.opc := by unfold bits; omega
  have hlinks : bits (m.links * 4 + m.last.toNat * 2 + m.resp.toNat) 2 3 = m.links := by unfold bits; omega
  have hresp : (bits (m.links * 4 + m.last.toNat * 2 + m.resp.toNat) 0 1 == 1) = m.resp := by
    cases m.resp <;> simp [bits] <;> omega
  have hlast : (bits (m.links * 4 + m.last.toNat * 2 + m.resp.toNat) 1 1 == 1) = m.last := by
    cases m.last <;> simp [bits] <;> omega
  unfold msgOf
  dsimp only
  rw [f8, if_pos ⟨by rw [length_msgBytes]; omega, length_msgBytes m⟩, f0, f1, f2, f4, f12, htyp, hopc, hlinks, hresp, hlast, hbody]

/-- Settles O45: each flit gives back its piece, the pieces are the message's bytes, and a message is read back from its bytes. -/
theorem messagesRoundTrip : Obligations.MessagesRoundTrip := by
  unfold Obligations.MessagesRoundTrip
  intro m ht ho hl hs hd hi hb
  rw [flitsOf_joined hb]
  exact msgOf_msgBytes ht ho hl hs hd hi (by omega)

end Sys2Proof.Machine
end

section
/-! SUPPORT. What a port's flits and the messages that travel change: the port's queues, the wire, the counter of discarded messages (10 R239-R243, R260). -/

namespace Sys2Proof.Machine

open Sys2Proof

/-! ### Ports and the wire -/

@[simp] theorem State.port_setPort_self (s : State) (p : Nat) (x : Port) : (s.setPort p x).port p = x := NMap.get_put_self _ _ _ _

theorem State.port_setPort_ne (s : State) {p q : Nat} (x : Port) (h : q ≠ p) : (s.setPort p x).port q = s.port q := NMap.get_put_ne _ _ _ _ _ h.symm

@[simp] theorem State.port_count (s : State) (i n q : Nat) : (s.count i n).port q = s.port q := rfl

theorem State.counter_count_self (s : State) (i n : Nat) : (s.count i n).counter i = s.counter i + BitVec.ofNat 64 n := NMap.get_set_self _ _ _ _

theorem State.counter_count_ne (s : State) {i j : Nat} (n : Nat) (h : i ≠ j) : (s.count i n).counter j = s.counter j := NMap.get_set_ne _ _ _ _ _ h

theorem cPort_ne_cRouteDiscard (p k : Nat) : cPort p k ≠ cRouteDiscard := by
  unfold cPort cRouteDiscard
  omega

theorem mem_drop_mono {α : Type} {a b c : List α} {x : α} (h : b <+: c) (hx : x ∈ b.drop a.length) : x ∈ c.drop a.length := (h.drop _).subset hx

theorem mem_drop_anti {α : Type} {a b c : List α} {x : α} (h : a <+: b) (hx : x ∈ c.drop b.length) : x ∈ c.drop a.length := by
  have e : c.drop b.length = (c.drop a.length).drop (b.length - a.length) := by rw [List.drop_drop, Nat.add_sub_cancel' h.length_le]
  exact List.mem_of_mem_drop (e ▸ hx)

/-- On the way from `s` to `t` nothing but the wire, counters and one port has changed; that port is then `x`. -/
def State.atPort (s : State) (p : Nat) (x : Port) (t : State) : Prop :=
  { t with
    ctr := s.ctr
    net := { t.net with
      ports := s.net.ports
      wire := s.net.wire } } = s ∧
  t.port p = x ∧ (∀ q, q ≠ p → t.port q = s.port q) ∧ s.net.wire <+: t.net.wire

section
variable {s t u : State} {p : Nat} {x y : Port}

theorem State.atPort_setPort (s : State) (p : Nat) (x : Port) : s.atPort p x (s.setPort p x) :=
  ⟨rfl, s.port_setPort_self p x, fun _ h => s.port_setPort_ne x h, List.prefix_refl _⟩

theorem State.atPort_refl (s : State) (p : Nat) : s.atPort p (s.port p) s := ⟨rfl, rfl, fun _ _ => rfl, List.prefix_refl _⟩

theorem State.atPort.trans (h : s.atPort p x t) (k : t.atPort p y u) : s.atPort p y u := by
  obtain ⟨hs, -, hq, hw⟩ := h
  obtain ⟨ks, kp, kq, kw⟩ := k
  have e := congrArg (fun v : State => ({ v with ctr := s.ctr, net := { v.net with ports := s.net.ports, wire := s.net.wire } } : State)) ks
  exact ⟨e.trans hs, kp, fun q n => (kq q n).trans (hq q n), hw.trans kw⟩

theorem State.atPort.count (h : s.atPort p x t) (i n : Nat) : s.atPort p x (t.count i n) := h

/-- The fields that a port's flits leave alone. -/
theorem State.atPort.same (h : s.atPort p x t) : ∃ l w c, t = { s with net := { s.net with ports := l, wire := w }, ctr := c } := by
  refine ⟨t.net.ports, t.net.wire, t.ctr, ?_⟩
  conv_rhs => rw [← h.1]

theorem State.atPort.netOnly (h : s.atPort p x t) : s.netOnly t := by
  obtain ⟨l, w, c, rfl⟩ := h.same
  rfl

/-- Only what the ports show, send and count has changed. -/
def State.linkOnly (s t : State) : Prop :=
  { t with
    net := s.net
    ctr := s.ctr
    ind := s.ind
    free := s.free } = s

theorem State.netOnly.linkOnly (h : s.netOnly t) : s.linkOnly t := by
  obtain ⟨n, c, rfl⟩ := (s.netOnly_iff t).mp h
  rfl

theorem State.linkOnly.trans (h : s.linkOnly t) (k : t.linkOnly u) : s.linkOnly u :=
  (congrArg (fun v : State => ({ v with net := s.net, ctr := s.ctr, ind := s.ind, free := s.free } : State)) k).trans h

theorem State.linkOnly.stores (h : s.linkOnly t) : s.storesSame t ∧ s.stepSame t ∧ t.host = s.host := by
  unfold State.linkOnly at h
  rw [← h]
  exact ⟨⟨rfl, rfl, rfl, rfl, rfl⟩, ⟨rfl, rfl, rfl, rfl⟩, rfl⟩

theorem State.generates_congr (hi : t.ind = s.ind) (ha : (t.port p).active = (s.port p).active) (hd : (t.port p).diagRing = (s.port p).diagRing) :
    t.generates p = s.generates p := by simp only [State.generates, hi, ha, hd]

end

/-! ### Flits on the wire -/

/-- A flit on the wire, behind an IDLE flit or not. -/
theorem State.putFlit_spec (s : State) (p : Nat) (f : List Byte) : ∃ k, s.atPort p { s.port p with sinceIdle := k } (s.putFlit p f) ∧
    (p, f) ∈ (s.putFlit p f).net.wire.drop s.net.wire.length := by
  refine ⟨_, ⟨rfl, s.port_setPort_self p _, fun q h => s.port_setPort_ne _ h, ?_⟩, ?_⟩
  · exact ⟨_, (List.append_assoc _ _ _).symm⟩
  · show (p, f) ∈ (s.net.wire ++ _ ++ [(p, f)]).drop s.net.wire.length
    rw [List.append_assoc, List.drop_left]
    exact List.mem_append_right _ (List.mem_singleton_self _)

theorem State.putFlits_spec (s : State) (p : Nat) (fs : List (List Byte)) : ∃ k, s.atPort p { s.port p with sinceIdle := k } (fs.foldl (fun s f => s.putFlit p f) s) ∧
    ∀ f ∈ fs, (p, f) ∈ (fs.foldl (fun s f => s.putFlit p f) s).net.wire.drop s.net.wire.length := by
  induction fs generalizing s with
  | nil => exact ⟨_, s.atPort_refl p, by simp⟩
  | cons f fs ih =>
    obtain ⟨k, h, hf⟩ := s.putFlit_spec p f
    obtain ⟨k', h', hfs⟩ := ih (s.putFlit p f)
    obtain ⟨-, hp, -, hw⟩ := id h
    obtain ⟨-, -, -, hw'⟩ := id h'
    refine ⟨k', ?_, fun g hg => ?_⟩
    · have := h.trans h'
      rwa [hp] at this
    · rcases List.mem_cons.mp hg with rfl | hg
      · exact mem_drop_mono hw' hf
      · exact mem_drop_anti hw (hfs g hg)

theorem State.onWire_spec (s : State) (p : Nat) (fs : List (List Byte)) : ∃ k, s.atPort p { s.port p with sinceIdle := k } (s.onWire p fs) ∧
    (s.generates p = false → ∀ f ∈ fs, (p, f) ∈ (s.onWire p fs).net.wire.drop s.net.wire.length) := by
  unfold State.onWire
  split
  · next h => exact ⟨_, s.atPort_refl p, by simp [h]⟩
  · obtain ⟨k, h, hf⟩ := s.putFlits_spec p fs
    exact ⟨k, h, fun _ => hf⟩

theorem State.idlePort_spec (s : State) (p : Nat) : ∃ k, s.atPort p { s.port p with sinceIdle := k } (s.idlePort p) := by
  unfold State.idlePort
  dsimp only
  split
  · exact ⟨_, s.atPort_refl p⟩
  · exact ⟨0, rfl, s.port_setPort_self p _, fun _ h => s.port_setPort_ne _ h, ⟨_, rfl⟩⟩

/-- Flits with IDLE behind them: only the count of flits since IDLE changes at the port. -/
theorem State.onWire_idlePort_spec (s : State) (p : Nat) (fs : List (List Byte)) :
    (∃ k, s.atPort p { s.port p with sinceIdle := k } ((s.onWire p fs).idlePort p)) ∧ ((s.onWire p fs).idlePort p).ctr = s.ctr ∧
      (s.generates p = false → ∀ f ∈ fs, (p, f) ∈ ((s.onWire p fs).idlePort p).net.wire.drop s.net.wire.length) := by
  obtain ⟨k, h, hf⟩ := s.onWire_spec p fs
  obtain ⟨k', hi⟩ := (s.onWire p fs).idlePort_spec p
  obtain ⟨-, hp, -, -⟩ := id h
  obtain ⟨-, -, -, hw⟩ := id hi
  rw [hp] at hi
  obtain ⟨n, e⟩ := s.onWire_eq p fs
  obtain ⟨n', e'⟩ := (s.onWire p fs).idlePort_eq p
  have hc : ((s.onWire p fs).idlePort p).ctr = s.ctr := by rw [e', e]
  exact ⟨⟨k', h.trans hi⟩, hc, fun g f hm => mem_drop_mono hw (hf g f hm)⟩

theorem State.sendCtrl_spec (s : State) (p : Nat) (nak : Bool) (cvc n : Nat) : (∃ k, s.atPort p { s.port p with sinceIdle := k } (s.sendCtrl p nak cvc n)) ∧
    (s.sendCtrl p nak cvc n).ctr = s.ctr ∧
    (s.generates p = false → (p, mkFlit 0 2 (if nak then 4 else 0) 0 (s.port p).rxSeq cvc n []) ∈ (s.sendCtrl p nak cvc n).net.wire.drop s.net.wire.length) := by
  obtain ⟨h, hc, hf⟩ := s.onWire_idlePort_spec p [mkFlit 0 2 (if nak then 4 else 0) 0 (s.port p).ack cvc n []]
  exact ⟨h, hc, fun g => hf g _ (List.mem_singleton_self _)⟩

/-- A replay puts every unacknowledged flit on the wire with the ACK of now, and counts once where there is one. -/
theorem State.replayPort_spec (s : State) (p : Nat) : (∃ k, s.atPort p { s.port p with sinceIdle := k } (s.replayPort p)) ∧
    (∀ i, i ≠ cPort p 0 → (s.replayPort p).counter i = s.counter i) ∧
    (s.replayPort p).counter (cPort p 0) = s.counter (cPort p 0) + (if (s.port p).replay ≠ [] then 1 else 0) ∧
    (s.generates p = false → ∀ e ∈ (s.port p).replay, (p, stampFlit e.2.flit e.1 (s.port p).rxSeq) ∈ (s.replayPort p).net.wire.drop s.net.wire.length) := by
  unfold State.replayPort
  dsimp only
  split
  · next h => exact ⟨⟨_, s.atPort_refl p⟩, fun _ _ => rfl, by simp [h], by simp [h]⟩
  · next h =>
    obtain ⟨⟨k, hp⟩, hc, hf⟩ := (s.count (cPort p 0) 1).onWire_idlePort_spec p ((s.port p).replay.map fun e => stampFlit e.2.flit e.1 (s.port p).ack)
    refine ⟨⟨k, ((s.atPort_refl p).count _ 1).trans hp⟩, fun i hi => ?_, ?_, fun g e he => hf g _ (List.mem_map_of_mem he)⟩
    · rw [State.counter, hc]
      exact s.counter_count_ne 1 hi.symm
    · have counted := s.counter_count_self (cPort p 0) 1
      rw [State.counter] at counted ⊢
      rw [hc, counted]
      simp

/-! ### A port that sends -/

/-- On the way from `x` to `y` a port has sent flits or been given some: nothing is acknowledged, and its receiver stays as it is. -/
def Port.sends (x y : Port) : Prop :=
  { y with
    txSeq := x.txSeq
    replay := x.replay
    txq := x.txq
    turn := x.turn
    sinceIdle := x.sinceIdle
    credits := x.credits } = x ∧ x.replay <+: y.replay

theorem Port.sends_refl (x : Port) : x.sends x := ⟨rfl, List.prefix_refl _⟩

theorem Port.sends_trans {x y z : Port} (h : x.sends y) (k : y.sends z) : x.sends z :=
  ⟨(congrArg (fun v : Port => ({ v with txSeq := x.txSeq, replay := x.replay, txq := x.txq, turn := x.turn, sinceIdle := x.sinceIdle, credits := x.credits } : Port)) k.1).trans h.1,
    h.2.trans k.2⟩

/-- What a port that sends keeps. -/
theorem Port.sends.same {x y : Port} (h : x.sends y) :
    ∃ a b c d e f, y = { x with txSeq := a, replay := b, txq := c, turn := d, sinceIdle := e, credits := f } := by
  refine ⟨y.txSeq, y.replay, y.txq, y.turn, y.sinceIdle, y.credits, ?_⟩
  conv_rhs => rw [← h.1]

theorem Port.pump_sends (x : Port) (l : List (List Byte)) (n : Nat) : x.sends (x.pump l n).1 := by
  induction n generalizing x l with
  | zero => exact x.sends_refl
  | succ n ih =>
    unfold Port.pump
    split
    · exact x.sends_refl
    · split
      · exact x.sends_refl
      · refine Port.sends_trans ?_ (ih _ _)
        exact ⟨rfl, ⟨_, rfl⟩⟩

theorem State.pumpPort_spec (s : State) (p : Nat) : ∃ y, (s.port p).sends y ∧ s.atPort p y (s.pumpPort p) ∧ (s.pumpPort p).ctr = s.ctr := by
  obtain ⟨n, e⟩ := s.pumpPort_eq p
  suffices ∃ y, (s.port p).sends y ∧ s.atPort p y (s.pumpPort p) by
    obtain ⟨y, hy, h⟩ := this
    exact ⟨y, hy, h, by rw [e]⟩
  unfold State.pumpPort
  dsimp only
  split
  · obtain ⟨⟨k, h⟩, -⟩ := (s.setPort p ((s.port p).pump [] ((s.port p).txq.length + 1)).1).onWire_idlePort_spec p ((s.port p).pump [] ((s.port p).txq.length + 1)).2
    refine ⟨_, ?_, (s.atPort_setPort p _).trans h⟩
    rw [State.port_setPort_self]
    exact Port.sends_trans ((s.port p).pump_sends _ _) ⟨rfl, List.prefix_refl _⟩
  · exact ⟨_, Port.sends_refl _, s.atPort_refl p⟩

/-- Flits that are added to a port's queue and sent as far as they may be. -/
theorem State.queue_pumpPort_spec (s : State) (p : Nat) (l : List TxFlit) :
    ∃ y, (s.port p).sends y ∧ s.atPort p y ((s.setPort p { s.port p with txq := (s.port p).txq ++ l }).pumpPort p) ∧
      ((s.setPort p { s.port p with txq := (s.port p).txq ++ l }).pumpPort p).ctr = s.ctr := by
  obtain ⟨y, hy, h, hc⟩ := (s.setPort p { s.port p with txq := (s.port p).txq ++ l }).pumpPort_spec p
  rw [State.port_setPort_self] at hy
  refine ⟨y, Port.sends_trans ?_ hy, (s.atPort_setPort p _).trans h, hc⟩
  exact ⟨rfl, List.prefix_refl _⟩

/-! ### Messages that travel -/

/-- On the way from `s` to `t` messages have been sent, carried or kept: only the network side and the count of discarded messages change, usable ports
have sent, and every other port is as it was. -/
def State.conveys (s t : State) : Prop :=
  s.netOnly t ∧ t.net.dup = s.net.dup ∧ t.net.dropped = s.net.dropped ∧ s.net.wire <+: t.net.wire ∧
  (∀ i, i ≠ cRouteDiscard → t.counter i = s.counter i) ∧
  ∀ q, (s.port q).sends (t.port q) ∧ ((s.port q).usable = false → t.port q = s.port q)

theorem State.conveys_refl (s : State) : s.conveys s := ⟨rfl, rfl, rfl, List.prefix_refl _, fun _ _ => rfl, fun _ => ⟨Port.sends_refl _, fun _ => rfl⟩⟩

theorem State.conveys.trans {s t u : State} (h : s.conveys t) (k : t.conveys u) : s.conveys u := by
  obtain ⟨hn, hd, hr, hw, hc, hp⟩ := h
  obtain ⟨kn, kd, kr, kw, kc, kp⟩ := k
  refine ⟨State.netOnly_trans hn kn, kd.trans hd, kr.trans hr, hw.trans kw, fun i hi => (kc i hi).trans (hc i hi), fun q => ?_⟩
  obtain ⟨ha, hb⟩ := hp q
  obtain ⟨ka, kb⟩ := kp q
  exact ⟨Port.sends_trans ha ka, fun hu => (kb (hb hu ▸ hu)).trans (hb hu)⟩

theorem State.conveys_foldl {α : Type} {f : State → α → State} (h : ∀ (s : State) (x : α), s.conveys (f s x)) (l : List α) (s : State) : s.conveys (l.foldl f s) :=
  List.foldlRecOn (motive := s.conveys) l f s.conveys_refl fun _ ht x _ => ht.trans (h _ x)

/-- What a record of the network side changes: no port, no counter, nothing on the wire. -/
theorem State.conveys_net (s : State) {n : Net} (hp : n.ports = s.net.ports) (hd : n.dup = s.net.dup) (hr : n.dropped = s.net.dropped)
    (hw : n.wire = s.net.wire) : s.conveys { s with net := n } :=
  ⟨rfl, hd, hr, hw ▸ List.prefix_refl _, fun _ _ => rfl, fun q => by
    have : (State.port { s with net := n } q) = s.port q := by simp only [State.port, hp]
    rw [this]
    exact ⟨Port.sends_refl _, fun _ => rfl⟩⟩

theorem State.conveys_count (s : State) (n : Nat) : s.conveys (s.count cRouteDiscard n) :=
  ⟨rfl, rfl, rfl, List.prefix_refl _, fun _ hi => s.counter_count_ne n hi.symm, fun _ => ⟨Port.sends_refl _, fun _ => rfl⟩⟩

theorem State.number_conveys (s : State) (m : Msg) : s.conveys (s.number m).2 := s.conveys_net rfl rfl rfl rfl

theorem State.deliverOwn_conveys (s : State) (m : Msg) : s.conveys (s.deliverOwn m) := s.conveys_net rfl rfl rfl rfl

theorem State.toPort_conveys (s : State) {p : Nat} (m : Msg) (hu : (s.port p).usable = true) : s.conveys (s.toPort p m) := by
  obtain ⟨y, hy, h, hc⟩ := s.queue_pumpPort_spec p (flitsOf m)
  have hs : s.netOnly (s.toPort p m) := h.netOnly
  obtain ⟨l, w, c, e⟩ := h.same
  obtain ⟨-, hp, hq, hw⟩ := h
  refine ⟨hs, by rw [State.toPort, e], by rw [State.toPort, e], hw, fun i _ => ?_, fun q => ?_⟩
  · exact congrArg (fun c : Counters => c.live.get 0 i) hc
  · by_cases hqp : q = p
    · subst hqp
      exact ⟨hp ▸ hy, fun h => by simp [hu] at h⟩
    · have : (s.toPort p m).port q = s.port q := hq q hqp
      rw [this]
      exact ⟨Port.sends_refl _, fun _ => rfl⟩

/-- A route leads to a usable port. -/
theorem State.usable_of_routePort {s : State} {r p : Nat} (h : s.routePort r = some p) : (s.port p).usable = true := by
  unfold State.routePort at h
  split at h
  · dsimp only at h
    split at h
    · cases h
    · split at h
      · cases h
        assumption
      · split at h
        · cases h
          assumption
        · cases h
  · cases h

theorem State.carry_conveys (s : State) (m : Msg) : s.conveys (s.carry m) := by
  unfold State.carry
  split
  · next p h => exact s.toPort_conveys m (State.usable_of_routePort h)
  · exact (s.conveys_net (n := { s.net with unrouted := s.net.unrouted ++ [m] }) rfl rfl rfl rfl).trans (State.conveys_count _ 1)

theorem State.report_conveys (s : State) (cls cause status suspect port last : Nat) : s.conveys (s.report cls cause status suspect port last) := by
  unfold State.report
  split
  · refine State.conveys_foldl (fun t r => ?_) _ s
    dsimp only
    split
    · exact (t.number_conveys _).trans (State.deliverOwn_conveys _ _)
    · exact (t.number_conveys _).trans (State.carry_conveys _ _)
  · exact s.conveys_refl

theorem State.transmit_conveys (s : State) (m : Msg) : s.conveys (s.transmit m) := by
  unfold State.transmit
  split
  · exact (s.conveys_count 1).trans (State.report_conveys _ _ _ _ _ _ _)
  · exact s.carry_conveys m

theorem State.send_conveys (s : State) (m : Msg) : s.conveys (s.send m) := by
  unfold State.send
  dsimp only
  split
  · split
    · exact (s.number_conveys m).trans (State.deliverOwn_conveys _ _)
    · exact (s.number_conveys m).trans (State.transmit_conveys _ _)
  · exact s.conveys_refl

theorem State.sendAway_conveys (s : State) (m : Msg) : s.conveys (s.sendAway m) := by
  unfold State.sendAway
  dsimp only
  split
  · exact (s.number_conveys m).trans (State.transmit_conveys _ _)
  · exact s.conveys_refl

theorem State.sendAll_conveys (s : State) (l : List Nat) (m : Nat → Msg) : s.conveys (s.sendAll l m) := State.conveys_foldl (fun t r => t.send_conveys (m r)) l s

theorem State.resend_conveys (s : State) (m : Msg) : s.conveys (s.resend m) := by
  unfold State.resend
  dsimp only
  split
  · exact s.transmit_conveys m
  · exact s.send_conveys m

theorem State.retryUnrouted_conveys (s : State) : s.conveys s.retryUnrouted :=
  (s.conveys_net (n := { s.net with unrouted := [] }) rfl rfl rfl rfl).trans (State.conveys_foldl (fun t m => t.resend_conveys m) _ _)

theorem State.lostMessage_conveys (s : State) (m : Msg) : s.conveys (s.lostMessage m) := by
  have told : s.conveys (if s.isSource m then s else s.send (lossReport m false)) := by
    split
    · exact s.conveys_refl
    · exact s.send_conveys _
  unfold State.lostMessage
  dsimp only
  generalize (if s.isSource m then s else s.send (lossReport m false)) = t at told ⊢
  split
  · exact told.trans (t.report_conveys _ _ _ _ _ _)
  · split
    · exact told.trans (t.resend_conveys _)
    · exact told

theorem State.forward_conveys (s : State) (m : Msg) : s.conveys (s.forward m) := by
  unfold State.forward
  split
  · exact (s.conveys_count 1).trans (State.lostMessage_conveys _ _)
  · exact s.transmit_conveys m

end Sys2Proof.Machine
end

section
/-! PROOFS. Ports that train, and ports that go DOWN (10 R236-R242, R254-R256). -/

namespace Sys2Proof.Machine

open Sys2Proof

/-! ### A port goes DOWN -/

/-- The flits of a port are lost: its queues are emptied, and messages travel. -/
theorem State.loseFlits_conveys (s : State) (p : Nat) :
    ((s.setPort p { s.port p with replay := [], txq := [], asm := [], owed := [] }).count (cPort p 2) (s.port p).replay.length).conveys (s.loseFlits p) :=
  (State.conveys_foldl (fun t m => t.lostMessage_conveys m) _ _).trans (State.conveys_foldl (fun t m => t.forward_conveys m) _ _)

/-- A port that goes DOWN has nothing to send and no width, and nothing but the network side and what is shown of it changes. -/
theorem State.portDown_spec (s : State) (p : Nat) : ((s.portDown p).port p).st = .down ∧ ((s.portDown p).port p).width = 0 ∧
    ((s.portDown p).port p).replay = [] ∧ ((s.portDown p).port p).txq = [] ∧ s.storesSame (s.portDown p) ∧ s.stepSame (s.portDown p) ∧ (s.portDown p).host = s.host := by
  unfold State.portDown
  dsimp only
  generalize hu : ({ s.setPort p _ with ind := _ } : State) = u
  have hc := (u.loseFlits_conveys p).trans ((u.loseFlits p).report_conveys 2 0x05 0 (s.port p).nbrPos p (s.port p).nbrState)
  obtain ⟨hn, -, -, -, -, hp⟩ := hc
  obtain ⟨-, hp⟩ := hp p
  have hup : u.port p = { s.port p with st := .down, width := 0, active := 0, retraining := false, tries := 0, checked := false } := by
    subst hu
    exact s.port_setPort_self p _
  rw [State.port_count, State.port_setPort_self, hup] at hp
  rw [hp rfl]
  have hl : s.linkOnly u := by
    subst hu
    rfl
  have he : u.linkOnly ((u.setPort p { u.port p with replay := [], txq := [], asm := [], owed := [] }).count (cPort p 2) (u.port p).replay.length) := rfl
  exact ⟨rfl, rfl, rfl, rfl, ((hl.trans he).trans hn.linkOnly).stores⟩

/-! ### A port comes UP -/

theorem widthFor_eq_zero_iff (n : Nat) : widthFor n = 0 ↔ n < 8 := by
  unfold widthFor
  split <;> [skip; split <;> [skip; split <;> [skip; split <;> [skip; split]]]] <;> omega

theorem State.adaptLanes_eq (s : State) (p : Nat) : ∃ i f, s.adaptLanes p = { s with ind := i, free := f } :=
  List.foldlRecOn (motive := fun t : State => ∃ i f, t = { s with ind := i, free := f }) _ _ ⟨s.ind, s.free, rfl⟩ fun _ ⟨_, _, e⟩ _ _ => e ▸ ⟨_, _, rfl⟩

/-- A HEARTBEAT is sent on its port alone. -/
theorem State.heartbeatOn_spec (s : State) (p : Nat) : ∃ y, (s.port p).sends y ∧ s.atPort p y (s.heartbeatOn p) ∧ (s.heartbeatOn p).ctr = s.ctr := s.queue_pumpPort_spec p _

/-- Without messages that found no port UP none is sent again. -/
theorem State.retryUnrouted_nil {s : State} (h : s.net.unrouted = []) (q : Nat) : s.retryUnrouted.port q = s.port q := by
  unfold State.retryUnrouted
  rw [h]
  rfl

/-- A port that has come up as `y` resumes what it has not had acknowledged if it retrains, sends a HEARTBEAT, and messages without a route are sent. -/
theorem State.resume_spec (s : State) (p : Nat) (again : Bool) :
    (s.port p).sends ((((if again then s.replayPort p else s).heartbeatOn p).retryUnrouted).port p) ∧
    (((if again then s.replayPort p else s).heartbeatOn p).retryUnrouted).counter (cPort p 0) =
      s.counter (cPort p 0) + (if again = true ∧ (s.port p).replay ≠ [] then 1 else 0) ∧
    (s.net.unrouted = [] → ∀ q, q ≠ p → (((if again then s.replayPort p else s).heartbeatOn p).retryUnrouted).port q = s.port q) ∧
    s.netOnly (((if again then s.replayPort p else s).heartbeatOn p).retryUnrouted) := by
  have replayed : ∃ k, s.atPort p { s.port p with sinceIdle := k } (if again then s.replayPort p else s) ∧
      (if again then s.replayPort p else s).counter (cPort p 0) = s.counter (cPort p 0) + (if again = true ∧ (s.port p).replay ≠ [] then 1 else 0) := by
    cases again with
    | false => exact ⟨_, s.atPort_refl p, by simp⟩
    | true =>
      obtain ⟨⟨k, h⟩, -, hc, -⟩ := s.replayPort_spec p
      exact ⟨k, h, by simpa using hc⟩
  obtain ⟨k, hr, hc⟩ := replayed
  generalize (if again then s.replayPort p else s) = t at hr hc ⊢
  obtain ⟨y, hy, hb, hbc⟩ := t.heartbeatOn_spec p
  obtain ⟨kn, -, -, -, kc, kp⟩ := (t.heartbeatOn p).retryUnrouted_conveys
  have hs : (s.port p).sends { s.port p with sinceIdle := k } := ⟨rfl, List.prefix_refl _⟩
  have hu := hr.trans hb
  obtain ⟨l, w, c, e⟩ := hu.same
  obtain ⟨-, hrp, -, -⟩ := hr
  obtain ⟨-, hbp, hbq, -⟩ := id hu
  obtain ⟨kp', -⟩ := kp p
  refine ⟨?_, ?_, fun hn q hq => ?_, State.netOnly_trans hu.netOnly kn⟩
  · exact Port.sends_trans hs (Port.sends_trans (hrp ▸ hy) (hbp ▸ kp'))
  · rw [kc _ (cPort_ne_cRouteDiscard p 0), State.counter, hbc]
    exact hc
  · rw [State.retryUnrouted_nil (by rw [e]; exact hn), hbq q hq]

/-- The port as a training that ends with lanes enough brings it UP. -/
def State.trainedPort (s : State) (p : Nat) (r : LaneTest) : Port :=
  let x := s.port p
  let y := if x.retraining then x else { x with rxSeq := 65535, txSeq := 0, replay := [], asm := [], nakSent := false }
  { y with
    owed := []
    st := .up
    passed := lanesPassing r
    width := widthFor (passCount (lanesPassing r))
    active := lowestLanes (lanesPassing r) (widthFor (passCount (lanesPassing r)))
    adv := s.presetCredits p
    credits := y.creditsFrom r.credits
    reason := 0
    tries := 0
    retraining := false }

theorem State.trainedPort_rxSeq (s : State) (p : Nat) (r : LaneTest) :
    (s.trainedPort p r).rxSeq = if (s.port p).retraining then (s.port p).rxSeq else 65535 := by
  unfold State.trainedPort
  dsimp only
  split <;> rfl

theorem State.trainedPort_replay {s : State} {p : Nat} (h : (s.port p).retraining = true) (r : LaneTest) : (s.trainedPort p r).replay = (s.port p).replay := by
  simp [State.trainedPort, h]

/-- A module whose port has come up, before the port sends. -/
def State.portTrained (s : State) (p : Nat) (r : LaneTest) : State :=
  ((s.setPort p (s.trainedPort p r)).setLanes p (lanesPassing r) (lowestLanes (lanesPassing r) (widthFor (passCount (lanesPassing r))))).adaptLanes p

theorem State.portTrained_eq (s : State) (p : Nat) (r : LaneTest) : ∃ i f, s.portTrained p r = { s.setPort p (s.trainedPort p r) with ind := i, free := f } := by
  obtain ⟨i, f, e⟩ :=
    ((s.setPort p (s.trainedPort p r)).setLanes p (lanesPassing r) (lowestLanes (lanesPassing r) (widthFor (passCount (lanesPassing r))))).adaptLanes_eq p
  exact ⟨i, f, e⟩

section
variable {s : State} {p : Nat} {r : LaneTest}

theorem portTrainingComplete_up (ht : s.trains = true) (hst : (s.port p).st = .training) (hc : (s.port p).checked = true)
    (hw : 8 ≤ passCount (lanesPassing r)) : portTrainingComplete p r s =
      ((if (s.port p).retraining then (s.portTrained p r).replayPort p else s.portTrained p r).heartbeatOn p).retryUnrouted := by
  have hw : widthFor (passCount (lanesPassing r)) ≠ 0 := fun h => by
    have := (widthFor_eq_zero_iff _).mp h
    omega
  unfold portTrainingComplete
  dsimp only
  rw [if_pos ⟨ht, hst, hc⟩, if_neg hw]
  rfl

theorem portTrainingComplete_down (ht : s.trains = true) (hst : (s.port p).st = .training) (hc : (s.port p).checked = true)
    (hw : passCount (lanesPassing r) < 8) : portTrainingComplete p r s = s.setPort p { s.port p with st := .down, checked := false } := by
  unfold portTrainingComplete
  dsimp only
  rw [if_pos ⟨ht, hst, hc⟩, if_pos ((widthFor_eq_zero_iff _).mpr hw)]

/-- A port that comes UP has sent since, and a retraining has replayed. -/
theorem portTrainingComplete_spec (ht : s.trains = true) (hst : (s.port p).st = .training) (hc : (s.port p).checked = true) (hw : 8 ≤ passCount (lanesPassing r)) :
    (s.trainedPort p r).sends ((portTrainingComplete p r s).port p) ∧
    (portTrainingComplete p r s).counter (cPort p 0) = s.counter (cPort p 0) + (if (s.port p).retraining = true ∧ (s.port p).replay ≠ [] then 1 else 0) ∧
    (s.net.unrouted = [] → ∀ q, q ≠ p → (portTrainingComplete p r s).port q = s.port q) ∧
    s.storesSame (portTrainingComplete p r s) ∧ s.stepSame (portTrainingComplete p r s) ∧ (portTrainingComplete p r s).host = s.host := by
  rw [portTrainingComplete_up ht hst hc hw]
  obtain ⟨hs, hk, hq, hn⟩ := (s.portTrained p r).resume_spec p (s.port p).retraining
  obtain ⟨i, f, e⟩ := s.portTrained_eq p r
  have hport : ∀ q, (s.portTrained p r).port q = (s.setPort p (s.trainedPort p r)).port q := fun q => by rw [e]
  have hctr : (s.portTrained p r).counter (cPort p 0) = s.counter (cPort p 0) := by rw [e]; rfl
  have hun : (s.portTrained p r).net.unrouted = s.net.unrouted := by rw [e]; rfl
  rw [hport p, State.port_setPort_self] at hs hk
  have hl : s.linkOnly (s.portTrained p r) := by rw [e]; rfl
  refine ⟨hs, ?_, fun h q hqp => ?_, (hl.trans hn.linkOnly).stores⟩
  · rw [hk, hctr]
    by_cases h : (s.port p).retraining = true
    · rw [State.trainedPort_replay h]
    · simp [h]
  · rw [hq (hun ▸ h) q hqp, hport q, s.port_setPort_ne _ hqp]

end

/-! ### The check of an identity frame -/

/-- A setting of a port changes nothing but that port. -/
theorem State.setPort_others (s : State) (p : Nat) (x : Port) : (∀ q, q ≠ p → (s.setPort p x).port q = s.port q) ∧ s.netOnly (s.setPort p x) :=
  ⟨fun _ h => s.port_setPort_ne x h, rfl⟩

section
variable {s : State} {p : Nat} {copies : List (List Byte)} {f : List Byte}

theorem portTrainingCheck_untaken (ht : s.trains = true) (hst : (s.port p).st = .training) (hf : takenFrame copies = none) :
    portTrainingCheck p copies s = s.setPort p { s.port p with identSent := s.identityFrame p } := by
  simp [portTrainingCheck, ht, hst, hf]

/-- A module with the identity frame that a port has taken, for link.ident to show. -/
def State.keepFrame (s : State) (p : Nat) (f : List Byte) : State := { s with ind := { s.ind with ident := s.ind.ident.set [] p f } }

/-- A port that holds for a reason of 10 R256. -/
def State.heldPort (s : State) (p r : Nat) (f : List Byte) : Port :=
  { s.port p with
    identSent := s.identityFrame p
    st := .held
    reason := r
    checked := false
    lastBad := some f }

/-- A taken frame that keeps the checks. -/
theorem portTrainingCheck_kept (ht : s.trains = true) (hst : (s.port p).st = .training) (hf : takenFrame copies = some f) (hr : s.frameReason p f = none) :
    portTrainingCheck p copies s = (s.keepFrame p f).setPort p
      { s.port p with
        identSent := s.identityFrame p
        checked := true
        ylver := min 0x32 (field f 5 1)
        rate224 := decide (0x30 ≤ min 0x32 (field f 5 1))
        nbrPos := bits (field f 0 2) 0 14
        lastBad := none } := by
  unfold portTrainingCheck
  dsimp only
  rw [if_pos ⟨ht, hst⟩, hf]
  dsimp only
  rw [show State.frameReason { s with ind := { s.ind with ident := s.ind.ident.set [] p f } } p f = none from hr]
  exact rfl

/-- A taken frame that breaks a check: the port is HELD with the reason, unless the event that tells of it for the first time has to wait. -/
theorem portTrainingCheck_held (ht : s.trains = true) (hst : (s.port p).st = .training) (hf : takenFrame copies = some f) {r : Nat}
    (hr : s.frameReason p f = some r) : portTrainingCheck p copies s =
      if (s.port p).lastBad = some f then (s.keepFrame p f).setPort p (s.heldPort p r f)
      else if s.holdFull then s.keepFrame p f
      else ((s.keepFrame p f).setPort p (s.heldPort p r f)).post evCableMismatch
        (leBytes 1 p ++ leBytes 1 r ++ leBytes 2 (bits (field f 0 2) 0 14) ++ leBytes 1 (field f 2 1)) := by
  unfold portTrainingCheck
  dsimp only
  rw [if_pos ⟨ht, hst⟩, hf]
  dsimp only
  rw [show State.frameReason { s with ind := { s.ind with ident := s.ind.ident.set [] p f } } p f = some r from hr]
  exact rfl

theorem portTrainingCheck_waits (ht : s.trains = true) (hst : (s.port p).st = .training) (hf : takenFrame copies = some f)
    (hr : (s.frameReason p f).isSome = true) (hb : (s.port p).lastBad ≠ some f) (hh : s.holdFull = true) :
    portTrainingCheck p copies s = s.keepFrame p f := by
  obtain ⟨r, hr⟩ := Option.isSome_iff_exists.mp hr
  rw [portTrainingCheck_held ht hst hf hr, if_neg hb, if_pos hh]

/-- A taken frame is kept, and the port is as its check leaves it; an event may tell of it. -/
theorem portTrainingCheck_taken (ht : s.trains = true) (hst : (s.port p).st = .training) (hf : takenFrame copies = some f)
    (hh : (s.frameReason p f).isSome = true → (s.port p).lastBad ≠ some f → s.holdFull = false) :
    ∃ (x : Port) (h : HostSide), portTrainingCheck p copies s = { (s.keepFrame p f).setPort p x with host := h } ∧
      x.identSent = s.identityFrame p ∧
      (s.frameReason p f = none → x.st = .training ∧ x.checked = true ∧ x.rate224 = decide (0x30 ≤ min 0x32 (field f 5 1)) ∧ x.nbrPos = bits (field f 0 2) 0 14 ∧
        x.ylver = min 0x32 (field f 5 1)) ∧
      ∀ r, s.frameReason p f = some r → x.st = .held ∧ x.reason = r := by
  cases hr : s.frameReason p f with
  | none => exact ⟨_, s.host, portTrainingCheck_kept ht hst hf hr, rfl, fun _ => ⟨hst, rfl, rfl, rfl, rfl⟩, nofun⟩
  | some r =>
    rw [portTrainingCheck_held ht hst hf hr]
    split
    · exact ⟨_, s.host, rfl, rfl, nofun, fun _ h => ⟨rfl, Option.some.inj h⟩⟩
    · next hb =>
      rw [if_neg (by simp [hh (by simp [hr]) hb])]
      obtain ⟨h, e⟩ := ((s.keepFrame p f).setPort p (s.heldPort p r f)).post_eq evCableMismatch
        (leBytes 1 p ++ leBytes 1 r ++ leBytes 2 (bits (field f 0 2) 0 14) ++ leBytes 1 (field f 2 1))
      exact ⟨_, h, e, rfl, nofun, fun _ h => ⟨rfl, Option.some.inj h⟩⟩

end

/-! ### The obligation -/

/-- Settles O41: each command is a setting of its port, but for a port that comes UP, which sends, and one that goes DOWN, whose messages travel. -/
theorem portsTrain : Obligations.PortsTrain := by
  unfold Obligations.PortsTrain
  intro s p
  refine ⟨fun h => ?_, fun ht hd hst => ?_, fun copies r h => ?_, fun copies f ht hst hf hr hb hh => congrArg Host.Outcome.next (portTrainingCheck_waits ht hst hf hr hb hh),
    fun copies ht hst hh => ?_, fun ht hst r n hn => ?_, fun ht hst => ?_, fun h => ?_, fun ht hr hst => ?_⟩
  · refine congrArg Host.Outcome.next (if_neg fun ⟨ht, hd, hst⟩ => ?_)
    rcases h with h | h | h
    · simp [h] at ht
    · simp [h] at hd
    · exact hst.elim h.1 h.2
  · exact ⟨_, congrArg Host.Outcome.next (if_pos ⟨ht, hd, hst⟩), s.port_setPort_self p _, (s.setPort_others p _).1, rfl⟩
  · have off : ¬ (s.trains = true ∧ (s.port p).st = .training) := fun ⟨ht, hst⟩ => h.elim (fun h => by simp [h] at ht) fun h => h hst
    exact ⟨congrArg Host.Outcome.next (if_neg off), congrArg Host.Outcome.next (if_neg fun ⟨ht, hst, _⟩ => off ⟨ht, hst⟩), congrArg Host.Outcome.next (if_neg off)⟩
  · cases hf : takenFrame copies with
    | none =>
      obtain ⟨hq, hn⟩ := s.setPort_others p { s.port p with identSent := s.identityFrame p }
      obtain ⟨hs, hk, -⟩ := hn.linkOnly.stores
      exact ⟨_, congrArg Host.Outcome.next (portTrainingCheck_untaken ht hst hf), by rw [State.port_setPort_self], hq, hs, hk,
        fun _ => ⟨s.port_setPort_self p _, hn⟩, fun _ h => by cases h⟩
    | some f =>
      obtain ⟨x, h, e, hi, hnone, hsome⟩ := portTrainingCheck_taken ht hst hf (hh f hf)
      have hx : (State.port { (s.keepFrame p f).setPort p x with host := h } p) = x := (s.keepFrame p f).port_setPort_self p x
      refine ⟨_, congrArg Host.Outcome.next e, by rw [hx]; exact hi, (s.setPort_others p x).1, ⟨rfl, rfl, rfl, rfl, rfl⟩, ⟨rfl, rfl, rfl, rfl⟩,
        fun h => (by cases h), fun g hg => ?_⟩
      cases hg
      refine ⟨NMap.get_set_self _ _ _ _, fun hr => ?_, fun r hr => by rw [hx]; exact hsome r hr⟩
      obtain ⟨h1, h2, h3, h4, h5⟩ := hnone hr
      rw [hx]
      exact ⟨h1, h2, h3.trans (decide_eq_decide.mpr (by omega)), h4, h5⟩
  · subst hn
    refine ⟨fun hc => congrArg Host.Outcome.next (if_neg fun ⟨_, _, h⟩ => by simp [hc] at h), fun hc hw => ?_, fun hc hw => ?_⟩
    · obtain ⟨hs, hctr, hq, hstores, hstep, hh⟩ := portTrainingComplete_spec ht hst hc hw
      obtain ⟨a, b, c, d, i, g, e⟩ := hs.same
      obtain ⟨-, hpre⟩ := hs
      exact ⟨_, rfl, by rw [e]; rfl, by rw [e]; rfl, by rw [e]; rfl, by rw [e]; rfl, by rw [e]; rfl, hctr, by rw [e]; exact s.trainedPort_rxSeq p r,
        fun h => State.trainedPort_replay h r ▸ hpre, hq, hstores, hstep, hh⟩
    · exact ⟨_, congrArg Host.Outcome.next (portTrainingComplete_down ht hst hc hw), s.port_setPort_self p _, s.setPort_others p _⟩
  · exact ⟨_, congrArg Host.Outcome.next (if_pos ⟨ht, hst⟩), s.port_setPort_self p _, s.setPort_others p _⟩
  · refine congrArg Host.Outcome.next (if_neg fun ⟨ht, hr, hst⟩ => ?_)
    rcases h with h | h | h
    · simp [h] at ht
    · simp [h] at hr
    · exact hst h
  · exact ⟨_, congrArg Host.Outcome.next (if_pos ⟨ht, hr, hst⟩), s.portDown_spec p⟩

end Sys2Proof.Machine
end

section
/-! PROOFS. Flits that arrive, lanes that drop and ports that are silent (10 R236-R247, R262). -/

namespace Sys2Proof.Machine

open Sys2Proof

/-! ### Codewords (10 R236) -/

theorem nodup_foldl_contains (l a : List Nat) (h : a.Nodup) : (l.foldl (fun a x => if a.contains x then a else x :: a) a).Nodup := by
  refine List.foldlRecOn (motive := List.Nodup) l _ h fun b hb x _ => ?_
  split
  · exact hb
  · next hx => exact List.nodup_cons.mpr ⟨by simpa using hx, hb⟩

theorem nodup_distinct (l : List Nat) : (distinct l).Nodup := List.nodup_reverse.mpr (nodup_foldl_contains l [] List.nodup_nil)

/-- The wrong symbols of a codeword are those of its 560 that the list names. -/
theorem codewordCorrects_eq (wrong : List Nat) : codewordCorrects wrong = decide (((List.range 560).filter fun i => wrong.contains i).length ≤ 30) := by
  have same : (distinct (wrong.filter (· < codewordSymbols))).Perm ((List.range 560).filter fun i => wrong.contains i) := by
    refine (List.perm_ext_iff_of_nodup (nodup_distinct _) (List.nodup_range.filter _)).mpr fun i => ?_
    simp only [mem_distinct, codewordSymbols, List.mem_filter, List.mem_range, List.contains_iff_mem]
    exact and_comm.trans (and_congr_left' decide_eq_true_iff)
  unfold codewordCorrects
  rw [same.length_eq]
  rfl

theorem flitCorrected_eq (f : List Byte) (wrong : List (List Nat)) :
    flitCorrected ⟨f, wrong⟩ = wrong.all fun l => decide (((List.range 560).filter fun i => l.contains i).length ≤ 30) :=
  congrArg (List.all wrong) (funext codewordCorrects_eq)

/-! ### Flits that are not taken -/

/-- A NAK goes, and nothing else changes. -/
theorem State.nakFlit_spec (s : State) (p : Nat) : (∃ k, s.atPort p { s.port p with nakSent := true, sinceIdle := k } (s.nakFlit p)) ∧ (s.nakFlit p).ctr = s.ctr ∧
    (s.generates p = false → (p, mkFlit 0 2 4 0 (s.port p).rxSeq 0 0 []) ∈ (s.nakFlit p).net.wire.drop s.net.wire.length) := by
  have hx := s.port_setPort_self p { s.port p with nakSent := true }
  obtain ⟨⟨k, h⟩, hc, hf⟩ := (s.setPort p { s.port p with nakSent := true }).sendCtrl_spec p true 0 0
  rw [hx] at h hf
  refine ⟨⟨k, (s.atPort_setPort p _).trans h⟩, hc, fun hg => hf (hg ▸ State.generates_congr rfl ?_ ?_)⟩ <;> rw [hx]

/-! ### What a good flit acknowledges and returns -/

/-- A port as a flit's acknowledgement and its credit leave it. -/
def Port.returned (x : Port) (f : List Byte) : Port :=
  { x with
    replay := x.replay.drop (ackedCount x.replay (field f 4 2))
    tries := if ackedCount x.replay (field f 4 2) = 0 then x.tries else 0
    credits := setNth x.credits (bits (field f 6 1) 4 4) (nth 0 x.credits (bits (field f 6 1) 4 4) + field f 7 1) }

theorem State.flitReturns_cases (s : State) (p : Nat) (f : List Byte) : s.flitReturns p f =
    if bits (field f 1 1) 2 1 = 1 ∧ ((s.port p).returned f).replay ≠ [] then
      if 8 ≤ ((s.port p).returned f).tries then (s.setPort p ((s.port p).returned f)).retrain p
      else ((s.setPort p ((s.port p).returned f)).setPort p { (s.port p).returned f with tries := ((s.port p).returned f).tries + 1 }).replayPort p
    else (s.setPort p ((s.port p).returned f)).pumpPort p := rfl

/-- A port that starts to retrain. -/
def Port.retrained (x : Port) : Port :=
  { x with
    retraining := true
    width := 0
    active := 0
    tries := 0
    st := .training
    checked := false }

theorem State.retrain_spec (s : State) (p : Nat) : s.atPort p (s.port p).retrained (s.retrain p) ∧ (s.retrain p).counter (cPort p 1) = s.counter (cPort p 1) + 1 := by
  have h := s.atPort_setPort p { s.port p with retraining := true, width := 0, active := 0, tries := 0 }
  have k := (s.setPort p { s.port p with retraining := true, width := 0, active := 0, tries := 0 }).atPort_setPort p
    { State.port (s.setPort p { s.port p with retraining := true, width := 0, active := 0, tries := 0 }) p with st := .training, checked := false }
  have hk := (h.trans k).count (cPort p 1) 1
  rw [State.port_setPort_self] at hk
  refine ⟨?_, State.counter_count_self _ _ _⟩
  unfold State.retrain State.startTraining
  dsimp only
  rw [State.port_setPort_self]
  exact hk

section
variable (s : State) (p : Nat) (f : List Byte)

/-- A NAK after eight tries retrains the port. -/
theorem State.flitReturns_retrains (hn : bits (field f 1 1) 2 1 = 1) (hl : ((s.port p).returned f).replay ≠ []) (ht : 8 ≤ ((s.port p).returned f).tries) :
    s.atPort p ((s.port p).returned f).retrained (s.flitReturns p f) ∧ (s.flitReturns p f).counter (cPort p 1) = s.counter (cPort p 1) + 1 := by
  rw [State.flitReturns_cases, if_pos ⟨hn, hl⟩, if_pos ht]
  obtain ⟨h, hc⟩ := (s.setPort p ((s.port p).returned f)).retrain_spec p
  rw [State.port_setPort_self] at h
  exact ⟨(s.atPort_setPort p _).trans h, hc⟩

/-- A NAK short of that has the rest sent again. -/
theorem State.flitReturns_replays (hn : bits (field f 1 1) 2 1 = 1) (hl : ((s.port p).returned f).replay ≠ []) (ht : ((s.port p).returned f).tries < 8) :
    (∃ j k, s.atPort p { (s.port p).returned f with tries := j, sinceIdle := k } (s.flitReturns p f)) ∧
    (s.flitReturns p f).counter (cPort p 0) = s.counter (cPort p 0) + 1 ∧
    (s.generates p = false → ∀ e ∈ ((s.port p).returned f).replay,
      (p, stampFlit e.2.flit e.1 (s.port p).rxSeq) ∈ (s.flitReturns p f).net.wire.drop s.net.wire.length) := by
  rw [State.flitReturns_cases, if_pos ⟨hn, hl⟩, if_neg (by omega)]
  have hx := (s.setPort p ((s.port p).returned f)).port_setPort_self p { (s.port p).returned f with tries := ((s.port p).returned f).tries + 1 }
  obtain ⟨⟨k, h⟩, -, hc, hw⟩ :=
    ((s.setPort p ((s.port p).returned f)).setPort p { (s.port p).returned f with tries := ((s.port p).returned f).tries + 1 }).replayPort_spec p
  rw [hx] at h hc hw
  refine ⟨⟨_, k, ((s.atPort_setPort p _).trans (State.atPort_setPort _ p _)).trans h⟩, ?_, fun hg => hw (hg ▸ State.generates_congr rfl ?_ ?_)⟩
  · rwa [if_pos hl] at hc
  all_goals rw [hx]; rfl

/-- What a flit returns changes its port alone: the receiver stays, and what it does not acknowledge stays to be sent again. -/
theorem State.flitReturns_spec : ∃ z, s.atPort p z (s.flitReturns p f) ∧ z.rxSeq = (s.port p).rxSeq ∧ ((s.port p).returned f).replay <+: z.replay := by
  by_cases hn : bits (field f 1 1) 2 1 = 1 ∧ ((s.port p).returned f).replay ≠ []
  · by_cases ht : 8 ≤ ((s.port p).returned f).tries
    · exact ⟨_, (s.flitReturns_retrains p f hn.1 hn.2 ht).1, rfl, List.prefix_refl _⟩
    · obtain ⟨⟨j, k, h⟩, -⟩ := s.flitReturns_replays p f hn.1 hn.2 (by omega)
      exact ⟨_, h, rfl, List.prefix_refl _⟩
  · rw [State.flitReturns_cases, if_neg hn]
    obtain ⟨y, hy, h, -⟩ := (s.setPort p ((s.port p).returned f)).pumpPort_spec p
    rw [State.port_setPort_self] at hy
    refine ⟨y, (s.atPort_setPort p _).trans h, ?_, hy.2⟩
    obtain ⟨a, b, c, d, e, g, rfl⟩ := hy.same
    rfl

/-- A port that DIAG drains is tested, and no other change is made. -/
theorem State.drainPort_spec : ∃ st w, s.atPort p { s.port p with st := st, width := w } (s.drainPort p) ∧ (s.drainPort p).ctr = s.ctr ∧
    (st = (s.port p).st ∨ st = .diag) := by
  unfold State.drainPort
  dsimp only
  split
  · exact ⟨_, _, s.atPort_setPort p _, rfl, .inr rfl⟩
  · exact ⟨_, _, s.atPort_refl p, rfl, .inl rfl⟩

theorem State.returnCredit_spec (vc : Nat) : ∃ z, s.atPort p z (s.returnCredit p vc) ∧ z.rxSeq = (s.port p).rxSeq := by
  unfold State.returnCredit
  dsimp only
  split
  · obtain ⟨⟨k, h⟩, -⟩ := s.sendCtrl_spec p false vc 1
    exact ⟨_, h, rfl⟩
  · exact ⟨_, s.atPort_setPort p _, rfl⟩

end

/-! ### A message arrives -/

/-- Ports have at most sent, and neither the host side nor a store has changed. -/
def State.takesIn (s t : State) : Prop := (∀ q, (s.port q).sends (t.port q)) ∧ t.host = s.host ∧ s.storesSame t

theorem State.takesIn_refl (s : State) : s.takesIn s := ⟨fun _ => Port.sends_refl _, rfl, rfl, rfl, rfl, rfl, rfl⟩

/-- A record of a MSGID leaves the ports alone, whether the message is delivered or counted. -/
theorem State.takesIn_recorded (s : State) (d : NMap DupRec) (l : List Msg) (m : Msg) (i k : Nat) :
    s.takesIn (State.deliverOwn { s with net := { s.net with dup := d, dropped := l } } m) ∧
    s.takesIn (State.count { s with net := { s.net with dup := d, dropped := l } } i k) :=
  ⟨⟨fun _ => Port.sends_refl _, rfl, rfl, rfl, rfl, rfl, rfl⟩, ⟨fun _ => Port.sends_refl _, rfl, rfl, rfl, rfl, rfl, rfl⟩⟩

theorem State.conveys.takesIn {s t : State} (h : s.conveys t) : s.takesIn t := by
  obtain ⟨hn, -, -, -, -, hp⟩ := h
  obtain ⟨hs, -, hh⟩ := hn.linkOnly.stores
  exact ⟨fun q => (hp q).1, hh, hs⟩

theorem State.stepFault_takesIn (s : State) (x : Status) : s.takesIn (s.stepFault x) := by
  cases hr : s.st.run with
  | none => rw [State.stepFault_later (.inl hr)]; exact s.takesIn_refl
  | some r =>
    cases hf : r.fault with
    | some y => rw [State.stepFault_later (.inr ⟨r, hr, by simp [hf]⟩)]; exact s.takesIn_refl
    | none =>
      have h := (State.report_conveys { s with st := { s.st with run := some { r with fault := some x } } } 3 0x07 x.code s.ms.position 0xFF 0xFF).takesIn
      simp only [State.stepFault, hr, hf]
      exact h

theorem State.takesIn.ite {s t u : State} (h : s.takesIn t) (k : s.takesIn u) {c : Prop} {_ : Decidable c} : s.takesIn (if c then t else u) := by
  by_cases hc : c
  · rwa [if_pos hc]
  · rwa [if_neg hc]

/-- A message that arrives is delivered, sent onward or lost, or is a content fault. -/
theorem State.messageIn_takesIn (s : State) (vc : Nat) (b : List Byte) : s.takesIn (s.messageIn vc b) := by
  have own : ∀ m, s.takesIn (s.deliverOwn m) := fun m => (s.deliverOwn_conveys m).takesIn
  have onward : ∀ m, s.takesIn (s.forward m) := fun m => (s.forward_conveys m).takesIn
  have lost : ∀ m, s.takesIn ((s.count cRouteDiscard 1).lostMessage m) := fun m => ((s.conveys_count 1).trans (State.lostMessage_conveys _ m)).takesIn
  unfold State.messageIn
  split
  · exact s.takesIn_refl
  · refine .ite (.ite (own _) (s.stepFault_takesIn _)) (.ite (.ite (.ite ?_ ?_) (s.stepFault_takesIn _)) (.ite (.ite (lost _) (onward _)) s.takesIn_refl))
    · exact (s.takesIn_recorded _ _ _ cDup 1).1
    · exact (s.takesIn_recorded _ _ default cDup 1).2

/-- The inbox behind the MSGID check of 10 R245, at every outcome of the check. -/
theorem State.inbox_of_accept (s : State) (m : Msg) (k : Nat) (r : Bool × DupRec) (again : Bool) (l : List Msg) :
    (if (r.1 || again) = true then State.deliverOwn { s with net := { s.net with dup := s.net.dup.set DupRec.fresh k r.2, dropped := l } } m
      else State.count { s with net := { s.net with dup := s.net.dup.set DupRec.fresh k r.2, dropped := l } } cDup 1).net.inbox =
    s.net.inbox ++ if (r.1 || again) = true then [m] else [] := by
  by_cases h : (r.1 || again) = true
  · rw [if_pos h, if_pos h]
    rfl
  · rw [if_neg h, if_neg h, List.append_nil]
    rfl

/-- A message to this rank is delivered if its MSGID is new or it comes again after its discard. -/
theorem State.messageIn_inbox {s : State} {vc : Nat} {b : List Byte} {m : Msg} (hm : msgOf vc b = some m) (ht : m.typ ≠ 7) (hr : s.mach.rank = some m.dst)
    (hj : s.member = true ∨ joinMsg m = true) (hh : headerReservedOk s.spareRank b = true) (ha : msgAllowed m = true) :
    (s.messageIn vc b).net.inbox = s.net.inbox ++ if ((s.net.dup.get DupRec.fresh (m.src * 16 + vc)).accept m.id).1 || s.comesAgain m then [m] else [] := by
  have addressed : s.addressed m = true := by simpa [State.addressed, hr] using hj
  unfold State.messageIn
  generalize DupRec.accept = accept
  rw [hm]
  dsimp only
  rw [if_neg ht, if_pos addressed, if_pos (by simp [hh, ha])]
  exact s.inbox_of_accept m _ _ _ _

/-! ### A DATA flit -/

section
variable (s : State) (p : Nat) (f : List Byte)

/-- The receiver of a port as a DATA flit in order leaves it. -/
def Port.received (x : Port) (f : List Byte) (rest : List Byte) : Port :=
  { x with
    rxSeq := field f 2 2
    nakSent := false
    asm := x.asm.set [] (flitVc f) rest }

/-- A DATA flit that ends its message hands it on; one that does not is kept. -/
theorem State.dataFlit_cases : ∃ rest got, s.dataFlit p f =
    (if bits (field f 1 1) 1 1 = 1 then (s.setPort p ((s.port p).received f rest)).messageIn (flitVc f) got else s.setPort p ((s.port p).received f rest)).returnCredit p
      (flitVc f) ∧ (bits (field f 1 1) 0 1 = 1 → got = slice f 12 (field f 8 2)) := by
  refine ⟨_, _, rfl, fun h => ?_⟩
  rw [if_pos h]
  rfl

theorem State.dataFlit_spec : ((s.dataFlit p f).port p).rxSeq = field f 2 2 ∧ s.storesSame (s.dataFlit p f) ∧ (s.dataFlit p f).host = s.host := by
  obtain ⟨rest, got, e, -⟩ := s.dataFlit_cases p f
  rw [e]
  have taken : (s.setPort p ((s.port p).received f rest)).takesIn (if bits (field f 1 1) 1 1 = 1 then
      (s.setPort p ((s.port p).received f rest)).messageIn (flitVc f) got else s.setPort p ((s.port p).received f rest)) := by
    split
    · exact State.messageIn_takesIn _ _ _
    · exact State.takesIn_refl _
  generalize (if bits (field f 1 1) 1 1 = 1 then
      (s.setPort p ((s.port p).received f rest)).messageIn (flitVc f) got else s.setPort p ((s.port p).received f rest)) = u at taken ⊢
  obtain ⟨hp, hh, hm, hn, hs, hf, hg⟩ := taken
  obtain ⟨z, hz, hrx⟩ := u.returnCredit_spec p (flitVc f)
  obtain ⟨⟨km, kn, ks, kf, kg⟩, -, kh⟩ := hz.netOnly.linkOnly.stores
  have sent := hp p
  rw [State.port_setPort_self] at sent
  obtain ⟨a, b, c, d, i, g, er⟩ := sent.same
  refine ⟨?_, ⟨km.trans hm, kn.trans hn, ks.trans hs, kf.trans hf, kg.trans hg⟩, kh.trans hh⟩
  obtain ⟨-, hzp, -⟩ := hz
  rw [hzp, hrx, er]
  rfl

theorem State.dataFlit_inbox : ∃ rest, (bits (field f 1 1) 1 1 ≠ 1 → (s.dataFlit p f).net.inbox = s.net.inbox) ∧
    (bits (field f 1 1) 1 1 = 1 → bits (field f 1 1) 0 1 = 1 →
      (s.dataFlit p f).net.inbox = ((s.setPort p ((s.port p).received f rest)).messageIn (flitVc f) (slice f 12 (field f 8 2))).net.inbox) := by
  obtain ⟨rest, got, e, hg⟩ := s.dataFlit_cases p f
  have kept : ∀ u : State, (u.returnCredit p (flitVc f)).net.inbox = u.net.inbox := fun u => by
    obtain ⟨z, hz, -⟩ := u.returnCredit_spec p (flitVc f)
    obtain ⟨l, w, c, e⟩ := hz.same
    rw [e]
  refine ⟨rest, fun h => ?_, fun h h' => ?_⟩
  · rw [e, if_neg h, kept]
    rfl
  · rw [e, if_pos h, kept, hg h']

end

/-! ### FLIT_RECEIVE -/

section
variable {s : State} {p : Nat} {f : List Byte} {corrected : Bool}

theorem flitReceive_nak (ht : s.trains = true) (hu : (s.port p).st = .up) (h : (corrected && flitOk f) = false ∨
    (bits (field f 0 1) 0 4 = 1 ∧ field f 2 2 ≠ ((s.port p).rxSeq + 1) % 65536 ∧ (s.port p).nakSent = false)) : flitReceive p f corrected s = s.nakFlit p := by
  unfold flitReceive
  dsimp only
  rw [if_pos ⟨ht, hu⟩]
  split
  · rfl
  · next hg =>
    obtain h | ⟨h1, h2, h3⟩ := h
    · exact absurd h hg
    · rw [if_pos ⟨h1, h2⟩, if_neg (by simp [h3])]

theorem flitReceive_late (ht : s.trains = true) (hu : (s.port p).st = .up) (hg : (corrected && flitOk f) = true) (hd : bits (field f 0 1) 0 4 = 1)
    (hq : field f 2 2 ≠ ((s.port p).rxSeq + 1) % 65536) (hn : (s.port p).nakSent = true) : flitReceive p f corrected s = s := by
  unfold flitReceive
  dsimp only
  rw [if_pos ⟨ht, hu⟩, if_neg (by simp [hg]), if_pos ⟨hd, hq⟩, if_pos hn]

theorem flitReceive_data (ht : s.trains = true) (hu : (s.port p).st = .up) (hg : (corrected && flitOk f) = true) (hd : bits (field f 0 1) 0 4 = 1)
    (hq : field f 2 2 = ((s.port p).rxSeq + 1) % 65536) : flitReceive p f corrected s = ((s.flitReturns p f).dataFlit p f).drainPort p := by
  unfold flitReceive
  dsimp only
  rw [if_pos ⟨ht, hu⟩, if_neg (by simp [hg]), if_neg (fun h => h.2 hq), if_pos hd]

theorem flitReceive_other (ht : s.trains = true) (hu : (s.port p).st = .up) (hg : (corrected && flitOk f) = true) (hd : bits (field f 0 1) 0 4 ≠ 1) :
    flitReceive p f corrected s = (s.flitReturns p f).drainPort p := by
  unfold flitReceive
  dsimp only
  rw [if_pos ⟨ht, hu⟩, if_neg (by simp [hg]), if_neg (fun h => hd h.1), if_neg hd]

/-- A DATA flit in sequence is taken, and what it ends is delivered. -/
theorem flitReceive_data_spec (ht : s.trains = true) (hu : (s.port p).st = .up) (hg : (corrected && flitOk f) = true) (hd : bits (field f 0 1) 0 4 = 1)
    (hq : field f 2 2 = ((s.port p).rxSeq + 1) % 65536) : ((flitReceive p f corrected s).port p).rxSeq = field f 2 2 ∧
      s.storesSame (flitReceive p f corrected s) ∧ (flitReceive p f corrected s).host = s.host ∧
      (bits (field f 1 1) 1 1 = 0 → (flitReceive p f corrected s).net.inbox = s.net.inbox) ∧
      ∀ m, bits (field f 1 1) 0 2 = 3 → msgOf (flitVc f) (slice f 12 (field f 8 2)) = some m → m.typ ≠ 7 → s.mach.rank = some m.dst →
        s.member = true ∨ joinMsg m = true → headerReservedOk s.spareRank (slice f 12 (field f 8 2)) = true → msgAllowed m = true →
        (flitReceive p f corrected s).net.inbox = s.net.inbox ++
          if ((s.net.dup.get DupRec.fresh (m.src * 16 + flitVc f)).accept m.id).1 || s.comesAgain m then [m] else [] := by
  rw [flitReceive_data ht hu hg hd hq]
  obtain ⟨z, hz, -⟩ := s.flitReturns_spec p f
  obtain ⟨l, w, c, e⟩ := hz.same
  obtain ⟨⟨hm, hn, hs, hf, hpr⟩, -, hh⟩ := hz.netOnly.linkOnly.stores
  obtain ⟨hrx, ⟨km, kn, ks, kf, kpr⟩, kh⟩ := (s.flitReturns p f).dataFlit_spec p f
  obtain ⟨rest, hi, hi'⟩ := (s.flitReturns p f).dataFlit_inbox p f
  obtain ⟨st, wd, hdr, -, -⟩ := ((s.flitReturns p f).dataFlit p f).drainPort_spec p
  obtain ⟨⟨jm, jn, js, jf, jpr⟩, -, jh⟩ := hdr.netOnly.linkOnly.stores
  have drained : (((s.flitReturns p f).dataFlit p f).drainPort p).net.inbox = ((s.flitReturns p f).dataFlit p f).net.inbox := by
    obtain ⟨l, w, c, e⟩ := hdr.same
    rw [e]
  have returned : (s.flitReturns p f).net.inbox = s.net.inbox := by rw [e]
  obtain ⟨-, hport, -⟩ := hdr
  refine ⟨by rw [hport]; exact hrx, ⟨jm.trans (km.trans hm), jn.trans (kn.trans hn), js.trans (ks.trans hs), jf.trans (kf.trans hf), jpr.trans (kpr.trans hpr)⟩,
    jh.trans (kh.trans hh), fun h => ?_, fun m h hmsg ht hr hj hres ha => ?_⟩
  · rw [drained, hi (by omega), returned]
  · have both : bits (field f 1 1) 1 1 = 1 ∧ bits (field f 1 1) 0 1 = 1 := by
      unfold bits at h ⊢
      omega
    rw [drained, hi' both.1 both.2]
    have key := State.messageIn_inbox (s := (s.flitReturns p f).setPort p (((s.flitReturns p f).port p).received f rest)) hmsg ht (by rw [e]; exact hr)
      (by rw [e]; exact hj) (by rw [e]; exact hres) ha
    rw [key, e]
    rfl

/-- Another flit delivers nothing; what it does not acknowledge stays, and its NAK has that sent again or retrains the port. -/
theorem flitReceive_other_spec (ht : s.trains = true) (hu : (s.port p).st = .up) (hg : (corrected && flitOk f) = true) (hd : bits (field f 0 1) 0 4 ≠ 1) :
    ((flitReceive p f corrected s).port p).rxSeq = (s.port p).rxSeq ∧ (flitReceive p f corrected s).net.inbox = s.net.inbox ∧
      s.storesSame (flitReceive p f corrected s) ∧ s.stepSame (flitReceive p f corrected s) ∧ (flitReceive p f corrected s).host = s.host ∧
      ((s.port p).returned f).replay <+: ((flitReceive p f corrected s).port p).replay ∧
      (bits (field f 1 1) 2 1 = 1 → ((s.port p).returned f).replay ≠ [] →
        (((s.port p).returned f).tries < 8 → ((flitReceive p f corrected s).port p).st ≠ .training ∧
          (flitReceive p f corrected s).counter (cPort p 0) = s.counter (cPort p 0) + 1 ∧
          (s.generates p = false → ∀ e ∈ ((s.port p).returned f).replay,
            (p, stampFlit e.2.flit e.1 (s.port p).rxSeq) ∈ (flitReceive p f corrected s).net.wire.drop s.net.wire.length)) ∧
        (8 ≤ ((s.port p).returned f).tries → ((flitReceive p f corrected s).port p).st = .training ∧ ((flitReceive p f corrected s).port p).retraining = true ∧
          ((flitReceive p f corrected s).port p).replay = ((s.port p).returned f).replay ∧
          (flitReceive p f corrected s).counter (cPort p 1) = s.counter (cPort p 1) + 1)) := by
  rw [flitReceive_other ht hu hg hd]
  obtain ⟨z, hz, hrx, hrep⟩ := s.flitReturns_spec p f
  obtain ⟨st, wd, hdr, hctr, hst⟩ := (s.flitReturns p f).drainPort_spec p
  have hall := hz.trans hdr
  obtain ⟨hs, hk, hh⟩ := hall.netOnly.linkOnly.stores
  have inbox : ((s.flitReturns p f).drainPort p).net.inbox = s.net.inbox := by
    obtain ⟨l, w, c, e⟩ := hall.same
    rw [e]
  obtain ⟨-, hport, -, hwire⟩ := hdr
  obtain ⟨-, hzp, -, -⟩ := hz
  refine ⟨by rw [hport, hzp]; exact hrx, inbox, hs, hk, hh, by rw [hport, hzp]; exact hrep, fun hn hl => ⟨fun h8 => ?_, fun h8 => ?_⟩⟩
  · obtain ⟨⟨j, k, hp⟩, hc, hw⟩ := s.flitReturns_replays p f hn hl h8
    obtain ⟨-, hp, -, -⟩ := hp
    refine ⟨?_, by rw [State.counter, hctr]; exact hc, fun hgen e he => mem_drop_mono hwire (hw hgen e he)⟩
    rw [hport]
    rcases hst with rfl | rfl
    · rw [hp]
      show (s.port p).st ≠ _
      simp [hu]
    · simp
  · obtain ⟨hp, hc⟩ := s.flitReturns_retrains p f hn hl h8
    obtain ⟨-, hp, -, -⟩ := hp
    have still : (s.flitReturns p f).drainPort p = s.flitReturns p f := if_neg fun h => by
      rw [hp] at h
      exact PortState.noConfusion h.2.1
    rw [still, hp]
    exact ⟨rfl, rfl, rfl, hc⟩

/-- A try is counted from the first flit that an acknowledgement does not cover. -/
theorem Port.returned_tries (x : Port) (f : List Byte) : ((x.returned f).tries < 8 ↔ ackedCount x.replay (field f 4 2) ≠ 0 ∨ x.tries < 8) := by
  unfold Port.returned
  dsimp only
  split
  · next h => simp [h]
  · next h => simp [h]

end

/-! ### Lanes that drop -/

section
variable {s : State} {p : Nat} {passing : BitVec 24} {left : BitVec 24} {w : Nat}

/-- The port on the lanes that are left. -/
def State.lanesLeft (s : State) (p : Nat) (left : BitVec 24) (w : Nat) : State :=
  (s.setPort p { s.port p with passed := left, width := w, active := lowestLanes left w }).setLanes p left (lowestLanes left w)

theorem laneDrop_down (ht : s.trains = true) (hu : (s.port p).st = .up) (hl : left = (s.port p).passed &&& passing) (hw : w = widthFor (passCount left))
    (h : w = 0) : laneDrop p passing s = s.portDown p := by
  subst hl hw
  unfold laneDrop
  dsimp only
  rw [if_pos ⟨ht, hu⟩, if_pos h]

theorem laneDrop_waits (ht : s.trains = true) (hu : (s.port p).st = .up) (hl : left = (s.port p).passed &&& passing) (hw : w = widthFor (passCount left))
    (h : w ≠ 0) (hwd : w ≠ (s.port p).width) (hf : s.holdFull = true) : laneDrop p passing s = s := by
  subst hl hw
  unfold laneDrop
  dsimp only
  rw [if_pos ⟨ht, hu⟩, if_neg h, if_pos ⟨hwd, hf⟩]

theorem laneDrop_narrows (ht : s.trains = true) (hu : (s.port p).st = .up) (hl : left = (s.port p).passed &&& passing) (hw : w = widthFor (passCount left))
    (h : w ≠ 0) (hf : w = (s.port p).width ∨ s.holdFull = false) : laneDrop p passing s =
      if w = (s.port p).width then (if lowestLanes left w = (s.port p).active then s.lanesLeft p left w else (s.lanesLeft p left w).replayPort p)
      else (if lowestLanes left w = (s.port p).active then s.lanesLeft p left w else (s.lanesLeft p left w).replayPort p).post evLinkDegraded
        (leBytes 1 p ++ leBytes 1 (s.port p).width ++ leBytes 1 w) := by
  have now : ¬ (w ≠ (s.port p).width ∧ s.holdFull = true) := fun ⟨h1, h2⟩ => hf.elim h1 fun h3 => by simp [h3] at h2
  subst hl hw
  unfold laneDrop
  dsimp only
  rw [if_pos ⟨ht, hu⟩, if_neg h, if_neg now]
  rfl

/-- What the port on other lanes sends again. -/
theorem State.lanesLeft_spec (s : State) (p : Nat) (left : BitVec 24) (w : Nat) : ∃ u : State,
    (if lowestLanes left w = (s.port p).active then s.lanesLeft p left w else (s.lanesLeft p left w).replayPort p) = u ∧
    (∃ k, u.port p = { s.port p with passed := left, width := w, active := lowestLanes left w, sinceIdle := k }) ∧ (∀ q, q ≠ p → u.port q = s.port q) ∧
    u.counter (cPort p 0) = s.counter (cPort p 0) + (if lowestLanes left w ≠ (s.port p).active ∧ (s.port p).replay ≠ [] then 1 else 0) ∧ s.linkOnly u := by
  have hx : (s.lanesLeft p left w).port p = { s.port p with passed := left, width := w, active := lowestLanes left w } := s.port_setPort_self p _
  have hq : ∀ q, q ≠ p → (s.lanesLeft p left w).port q = s.port q := fun q h => s.port_setPort_ne _ h
  refine ⟨_, rfl, ?_⟩
  split
  · next h => exact ⟨⟨_, hx⟩, hq, by simp [h, State.lanesLeft, State.setLanes], rfl⟩
  · next h =>
    obtain ⟨⟨k, hp⟩, -, hc, -⟩ := (s.lanesLeft p left w).replayPort_spec p
    have hn := hp.netOnly.linkOnly
    obtain ⟨-, hp, hpq, -⟩ := hp
    rw [hx] at hp hc
    refine ⟨⟨k, hp⟩, fun q h => (hpq q h).trans (hq q h), ?_, State.linkOnly.trans (show s.linkOnly (s.lanesLeft p left w) from rfl) hn⟩
    rw [hc]
    simp [h, State.lanesLeft, State.setLanes]

/-- Lanes enough keep the port UP at the width that they allow. -/
theorem laneDrop_narrows_spec (ht : s.trains = true) (hu : (s.port p).st = .up) (hl : left = (s.port p).passed &&& passing) (hw : w = widthFor (passCount left))
    (h : w ≠ 0) (hf : w = (s.port p).width ∨ s.holdFull = false) :
    (w ≠ (s.port p).width → (laneDrop p passing s).tells evLinkDegraded (leBytes 1 p ++ leBytes 1 (s.port p).width ++ leBytes 1 w)) ∧
    (laneDrop p passing s).counter (cPort p 0) = s.counter (cPort p 0) + (if lowestLanes left w ≠ (s.port p).active ∧ (s.port p).replay ≠ [] then 1 else 0) ∧
    (∃ k, (laneDrop p passing s).port p = { s.port p with passed := left, width := w, active := lowestLanes left w, sinceIdle := k }) ∧
    (∀ q, q ≠ p → (laneDrop p passing s).port q = s.port q) ∧ s.storesSame (laneDrop p passing s) ∧ s.stepSame (laneDrop p passing s) := by
  obtain ⟨u, e, hp, hq, hc, hs⟩ := s.lanesLeft_spec p left w
  rw [laneDrop_narrows ht hu hl hw h hf, e]
  obtain ⟨⟨h1, h2, h3, h4, h5⟩, ⟨h6, h7, h8, h9⟩, -⟩ := hs.stores
  split
  · next hwd => exact ⟨fun hne => absurd hwd hne, hc, hp, hq, ⟨h1, h2, h3, h4, h5⟩, ⟨h6, h7, h8, h9⟩⟩
  · have htell := u.post_tells evLinkDegraded (leBytes 1 p ++ leBytes 1 (s.port p).width ++ leBytes 1 w)
    obtain ⟨x, ex⟩ := u.post_eq evLinkDegraded (leBytes 1 p ++ leBytes 1 (s.port p).width ++ leBytes 1 w)
    rw [ex] at htell ⊢
    exact ⟨fun _ => htell, hc, hp, hq, ⟨h1, h2, h3, h4, h5⟩, ⟨h6, h7, h8, h9⟩⟩

end

/-! ### The obligation -/

/-- Settles O42: a flit is not taken, and its port answers with a NAK; or it returns what it carries, and its data joins a message. -/
theorem flitsArrive : Obligations.FlitsArrive := by
  unfold Obligations.FlitsArrive
  intro s p f wrong corrected passing hcor
  rw [← flitCorrected_eq f wrong] at hcor
  subst hcor
  refine ⟨fun h => ?_, fun ht hu => ⟨fun h => ?_, fun hg hd hq hn => congrArg Host.Outcome.next (flitReceive_late ht hu hg hd hq hn),
    fun hg hd hq => ⟨_, rfl, flitReceive_data_spec ht hu hg hd hq⟩, fun hg hd => ?_, fun left w hl hw => ⟨?_, ?_, ?_⟩, ?_⟩⟩
  · have off : ¬ (s.trains = true ∧ (s.port p).st = .up) := fun ⟨ht, hu⟩ => h.elim (fun h => by simp [h] at ht) fun h => h hu
    exact ⟨congrArg Host.Outcome.next (if_neg off), congrArg Host.Outcome.next (if_neg off), congrArg Host.Outcome.next (if_neg off)⟩
  · obtain ⟨⟨k, hp⟩, hc, hf⟩ := s.nakFlit_spec p
    obtain ⟨l, w, c, e⟩ := hp.same
    obtain ⟨-, hx, hq, -⟩ := hp
    refine ⟨_, congrArg Host.Outcome.next (flitReceive_nak ht hu h), hf, ?_, by rw [hx], by rw [hx], by rw [hx], by rw [hx], hq, by rw [e]⟩
    rw [e] at hc ⊢
    cases hc
    rfl
  · obtain ⟨hrx, hi, hs, hk, hh, hrep, hnak⟩ := flitReceive_other_spec ht hu hg hd
    refine ⟨_, rfl, hrx, hi, hs, hk, hh, hrep, fun l hl hn hne => ?_⟩
    subst hl
    obtain ⟨again, retrains⟩ := hnak hn hne
    refine ⟨fun h => again (((s.port p).returned_tries f).mpr h), fun h0 h8 => retrains ?_⟩
    exact Nat.le_of_not_lt fun h => (((s.port p).returned_tries f).mp h).elim (fun k => k h0) (by omega)
  · exact fun h hwd hf => congrArg Host.Outcome.next (laneDrop_waits ht hu hl hw h hwd hf)
  · intro h hf
    obtain ⟨htell, hc, ⟨k, hp⟩, hq, hs, hk⟩ := laneDrop_narrows_spec ht hu hl hw h hf
    exact ⟨_, rfl, htell, hc, by rw [hp]; exact hu, by rw [hp], by rw [hp], by rw [hp], by rw [hp], hq, hs, hk⟩
  · exact fun h => ⟨_, congrArg Host.Outcome.next (laneDrop_down ht hu hl hw h), s.portDown_spec p⟩
  · exact ⟨_, congrArg Host.Outcome.next (if_pos ⟨ht, hu⟩), s.portDown_spec p⟩

end Sys2Proof.Machine
end

section
/-! PROOFS. DIAG: PRBS tests, their end, and margin reads (10 R265, R266, 13 R343). -/

namespace Sys2Proof.Machine

open Sys2Proof

/-! ### Lane registers -/

/-- Entries set one after another hold what they were set to. -/
theorem NMap.get_foldl_set {α : Type} [DecidableEq α] (d : α) (m : NMap α) (base : Nat) (v : Nat → α) {n k : Nat} (hk : k < n) :
    ((List.range n).foldl (fun m i => m.set d (base + i) (v i)) m).get d (base + k) = v k := by
  induction n with
  | zero => omega
  | succ n ih =>
    rw [List.range_succ, List.foldl_append, List.foldl_cons, List.foldl_nil]
    by_cases h : k = n
    · subst h
      exact NMap.get_set_self _ _ _ _
    · rw [NMap.get_set_ne _ _ _ _ _ (by omega)]
      exact ih (by omega)

/-- An indirect write changes lane registers only. -/
theorem State.indStore_eq (s : State) (a : Nat) (v : W32) : ∃ i, s.indStore a v = { s with ind := i } ∧ (v = 0 → i.err = s.ind.err) := by
  unfold State.indStore
  split
  · exact ⟨_, rfl, fun h => by subst h; rfl⟩
  · exact ⟨_, rfl, fun _ => rfl⟩
  · exact ⟨s.ind, rfl, fun _ => rfl⟩

/-- The pattern controls are lane registers; the error counts stay where no checker is turned on. -/
theorem State.setPattern_eq (s : State) (p : Nat) (v : W32) : ∃ i, s.setPattern p v = { s with ind := i } ∧ (v = 0 → i.err = s.ind.err) := by
  refine List.foldlRecOn (motive := fun t : State => ∃ i, t = { s with ind := i } ∧ (v = 0 → i.err = s.ind.err)) _ _ ⟨s.ind, rfl, fun _ => rfl⟩ ?_
  rintro t ⟨i, rfl, hi⟩ k -
  obtain ⟨j, e, hj⟩ := State.indStore_eq { s with ind := i } (p * 0x100000 + 0x10000 + k * 0x1000) v
  exact ⟨j, e, fun h => (hj h).trans (hi h)⟩

/-- The counts of a test stand in the lane registers. -/
theorem State.setLaneCounts_eq (s : State) (p : Nat) (lanes : List LaneReading) : ∃ i, s.setLaneCounts p lanes = { s with ind := i } ∧
    ∀ k < 24, i.err.get 0 (24 * p + k) = BitVec.ofNat 48 (nth default lanes k).errors := by
  have folded : ∀ n, ∃ b, (List.range n).foldl (fun (s : State) i =>
      { s with ind := { s.ind with
        err := s.ind.err.set 0 (24 * p + i) (BitVec.ofNat 48 (nth default lanes i).errors)
        bits := s.ind.bits.set 0 (24 * p + i) (BitVec.ofNat 48 (nth default lanes i).bits) } }) s =
      { s with ind := { s.ind with
        err := (List.range n).foldl (fun m i => m.set 0 (24 * p + i) (BitVec.ofNat 48 (nth default lanes i).errors)) s.ind.err
        bits := b } } := fun n => by
    induction n with
    | zero => exact ⟨s.ind.bits, rfl⟩
    | succ n ih =>
      obtain ⟨b, e⟩ := ih
      rw [List.range_succ, List.foldl_append, e, List.foldl_append]
      exact ⟨_, rfl⟩
  obtain ⟨b, e⟩ := folded 24
  exact ⟨_, e, fun k hk => NMap.get_foldl_set (0 : BitVec 48) _ _ (fun i => BitVec.ofNat 48 (nth default lanes i).errors) hk⟩

/-- The eye figures of a port's lanes, in the form of lane.eye (15 R377). -/
def State.setEyes (s : State) (p : Nat) (lanes : List LaneReading) : State :=
  (List.range 24).foldl (fun s i =>
    let r : LaneReading := nth default lanes i
    { s with ind := { s.ind with eye := s.ind.eye.set 0 (24 * p + i) (BitVec.ofNat 32 (r.eyeMv % 65536 * 65536 + r.eyeUi % 65536)) } }) s

theorem State.setEyes_eq (s : State) (p : Nat) (lanes : List LaneReading) : ∃ i, s.setEyes p lanes = { s with ind := i } ∧
    ∀ k < 24, i.eye.get 0 (24 * p + k) = BitVec.ofNat 32 ((nth default lanes k).eyeMv % 65536 * 65536 + (nth default lanes k).eyeUi % 65536) := by
  have folded : ∀ n, (List.range n).foldl (fun (s : State) i =>
      { s with ind := { s.ind with
        eye := s.ind.eye.set 0 (24 * p + i) (BitVec.ofNat 32 ((nth default lanes i).eyeMv % 65536 * 65536 + (nth default lanes i).eyeUi % 65536)) } }) s =
      { s with ind := { s.ind with
        eye := (List.range n).foldl (fun m i =>
          m.set 0 (24 * p + i) (BitVec.ofNat 32 ((nth default lanes i).eyeMv % 65536 * 65536 + (nth default lanes i).eyeUi % 65536))) s.ind.eye } } := fun n => by
    induction n with
    | zero => rfl
    | succ n ih => rw [List.range_succ, List.foldl_append, ih, List.foldl_append]; rfl
  exact ⟨_, folded 24, fun k hk =>
    NMap.get_foldl_set (0 : W32) _ _ (fun i => BitVec.ofNat 32 ((nth default lanes i).eyeMv % 65536 * 65536 + (nth default lanes i).eyeUi % 65536)) hk⟩

/-! ### Lane records and their buffer -/

theorem length_laneRecord (r : LaneReading) (b : Bool) : (laneRecord r b).length = 32 := by simp [laneRecord, zeros]

/-- The 24 lane records of a port fill 768 bytes. -/
theorem length_laneRecords (f : Nat → LaneReading) (g : Nat → Bool) : ((List.range 24).flatMap fun i => laneRecord (f i) (g i)).length = 768 := by
  rw [List.length_flatMap]
  simp only [length_laneRecord]
  rfl

section
variable {s u : State} {n a : Nat} {b : List Byte} {c x : Cpl} {i : IndRegs}

/-- A result that its buffer takes is put there. -/
theorem State.writeBuffer_of_takes (h : s.bufferTakes a b.length = true) : s.writeBuffer a b = some (s.putBuffer a b) := if_pos h

theorem State.writeBuffer_of_not (h : s.bufferTakes a b.length = false) : s.writeBuffer a b = none := if_neg (by simp [h])

theorem State.putBuffer_eq (s : State) (a : Nat) (b : List Byte) : ∃ h m, s.putBuffer a b = { s with host := h, mem := m } := by
  unfold State.putBuffer
  split
  · exact ⟨_, s.mem, rfl⟩
  · exact ⟨s.host, _, rfl⟩

/-- A command's result in its buffer outlives the command's completion. -/
theorem State.delivers_complete (s : State) (n a : Nat) (b : List Byte) (c : Cpl) : s.delivers ((s.putBuffer a b).complete n c) a b := by
  obtain ⟨h, m, e⟩ := (s.putBuffer a b).complete_eq n c
  refine State.delivers_kept (s.putBuffer_delivers a b).1 (fun x => ?_) fun w hw => State.complete_out n c hw
  rw [e]

/-- A result put into its buffer, and its command completed: only the host side and memory have changed. -/
theorem State.putBuffer_complete_hostOnly (s : State) (n a : Nat) (b : List Byte) (c : Cpl) :
    s.hostOnly { (s.putBuffer a b).complete n c with mem := s.mem } := by
  obtain ⟨-, hst⟩ := (s.putBuffer a b).complete_hostOnly n c
  obtain ⟨h, m, e⟩ := (s.putBuffer a b).complete_eq n c
  obtain ⟨h', m', e'⟩ := s.putBuffer_eq a b
  rw [e] at hst ⊢
  rw [e'] at hst ⊢
  exact ⟨rfl, hst⟩

end

/-! ### PRBS tests -/

section
variable {s : State} {n : Nat} {d : List Byte}

/-- A command of the ring whose own condition does not hold stays where it is. -/
theorem State.command_held {op : Nat} {also : List Byte → Bool} (h : s.takes n op d) (ha : also d = false) (run : State → List Byte → State) :
    s.command n op also run = s := by
  obtain ⟨hu, -⟩ := h
  rcases hu with ⟨⟨rest, hq⟩, hc⟩ | ⟨⟨i, hb⟩, -, -⟩
  · exact State.command_stays_queued (State.canDequeue_idle s n hc) hq (.inr (.inr ha))
  · exact State.command_stays_busy hb (.inr (.inr (.inr (.inl ha))))

theorem diagPrbsTest_waits (h : s.takes n 0x0E d) (hw : s.testing = true ∨ ((s.port (field d 17 1)).st = .training ∧ s.ms.st ≠ .ready)) :
    diagPrbsTest n s = s := by
  refine State.command_held h ?_ _
  rcases hw with hw | ⟨hp, hr⟩
  · simp [hw]
  · simp [hp, hr]

/-- The state in which a test starts: the command taken up, generators and checkers running. -/
theorem diagPrbsTest_runs (h : s.takes n 0x0E d) (h1 : field d 16 1 = 1) (ht : s.testing = false)
    (hw : (s.port (field d 17 1)).st ≠ .training ∨ s.ms.st = .ready) : ∃ x i, s.takenUp n = { s with host := x } ∧ diagPrbsTest n s =
      if (s.port (field d 17 1)).st = .absent then (s.takenUp n).complete n { status := .indexRange }
      else if (s.port (field d 17 1)).st = .up ∧ s.ms.st ≠ .ready ∧ s.canDrain (field d 17 1) = false then (s.takenUp n).complete n { status := .resourceShort }
      else if (s.port (field d 17 1)).st = .up ∧ s.ms.st ≠ .ready then
        ((State.setPort { s with host := x, ind := i } (field d 17 1) { s.port (field d 17 1) with diagRing := some n }).moveWaiting (field d 17 1)).drainPort (field d 17 1)
      else State.setPort { s with host := x, ind := i } (field d 17 1) { s.port (field d 17 1) with st := .diag, diagRing := some n, width := 0, checked := false } := by
  obtain ⟨x, e⟩ := s.takenUp_eq n
  obtain ⟨i, ei, -⟩ := State.setPattern_eq { s with host := x } (field d 17 1) 0
  obtain ⟨j, ej, -⟩ := State.setPattern_eq { s with host := x, ind := i } (field d 17 1) (0xC0000000#32 ||| (BitVec.ofNat 32 (field d 18 1) <<< 28))
  refine ⟨x, j, e, ?_⟩
  have ok : (field d 16 1 == 1 && !s.testing && !((s.port (field d 17 1)).st == .training && s.ms.st != .ready)) = true := by
    rcases hw with hw | hw <;> simp [h1, ht, hw]
  unfold diagPrbsTest
  rw [State.command_takes s n 0x0E d _ _ h ok, e]
  dsimp only
  rw [ei, ej]
  rfl

theorem upNext_of_takes {op : Nat} (h : s.takes n op d) : s.upNext n d := h.1

/-- The ring of a command taken up while nothing but ports and lane registers has changed. -/
theorem State.busy_of_takenUp {x : HostSide} {t : State} (h : s.takes n 0x0E d) (e : s.takenUp n = { s with host := x }) (ht : t.host = x) :
    (t.ring n).busy = some (s.nextIndex n, d) := by
  rw [← s.takenUp_busy n d (upNext_of_takes h), e]
  simp only [State.ring, ht]

/-- An UP port that drains keeps its queue from then on, and is tested at once when it has nothing to send or to be acknowledged. -/
theorem State.drain_spec (u : State) (p : Nat) (x : Port) (hx : x.diagRing.isSome = true) (hu : x.st = .up) :
    (x.txq = [] → ((((u.setPort p x).moveWaiting p).drainPort p).port p).diagRing = x.diagRing ∧
      ((((u.setPort p x).moveWaiting p).drainPort p).port p).st = if x.replay = [] then .diag else .up) ∧
    u.linkOnly (((u.setPort p x).moveWaiting p).drainPort p) := by
  have moved := State.conveys_foldl (fun t m => t.forward_conveys m) x.waiting ((u.setPort p x).setPort p { x with txq := x.txq.filter fun f => !x.waiting.contains f.msg })
  have em : (u.setPort p x).moveWaiting p =
      x.waiting.foldl State.forward ((u.setPort p x).setPort p { x with txq := x.txq.filter fun f => !x.waiting.contains f.msg }) := by
    unfold State.moveWaiting
    dsimp only
    rw [State.port_setPort_self]
  obtain ⟨hn, -, -, -, -, hp⟩ := em ▸ moved
  obtain ⟨-, hp⟩ := hp p
  rw [State.port_setPort_self] at hp
  have hport := hp (by simp [Port.usable, hx])
  obtain ⟨st, w, hd, -, -⟩ := ((u.setPort p x).moveWaiting p).drainPort_spec p
  have hl : u.linkOnly ((u.setPort p x).setPort p { x with txq := x.txq.filter fun f => !x.waiting.contains f.msg }) := rfl
  refine ⟨fun hq => ?_, (hl.trans hn.linkOnly).trans hd.netOnly.linkOnly⟩
  unfold State.drainPort
  dsimp only
  rw [hport, hq]
  by_cases hr : x.replay = []
  · rw [if_pos ⟨hx, hu, hr, rfl⟩, if_pos hr, State.port_setPort_self]
    exact ⟨rfl, rfl⟩
  · rw [if_neg (fun h => hr h.2.2.1), if_neg hr, hport]
    exact ⟨rfl, hu⟩

end

/-! ### Margin reads -/

section
variable {s : State} {n : Nat} {d : List Byte} {lanes : List LaneReading}

/-- The 24 lane records of a margin read. -/
def State.marginRecords (s : State) (p : Nat) (lanes : List LaneReading) : List Byte :=
  (List.range 24).flatMap fun i => laneRecord { (nth default lanes i : LaneReading) with
    errors := (s.ind.err.get 0 (24 * p + i)).toNat, bits := (s.ind.bits.get 0 (24 * p + i)).toNat } ((s.port p).active.getLsbD i)

/-- A margin read of a port that the order code has sets the eyes, and its records go to the buffer. -/
theorem diagMarginRead_delivers (h : s.takes n 0x0E d) (h2 : field d 16 1 = 2) (hp : (s.port (field d 17 1)).st ≠ .absent)
    (hb : s.bufferTakes (field d 24 8) 768 = true) : diagMarginRead n lanes s =
      (((s.takenUp n).setEyes (field d 17 1) lanes).putBuffer (field d 24 8)
        (((s.takenUp n).setEyes (field d 17 1) lanes).marginRecords (field d 17 1) lanes)).complete n { status := .ok, info := 768 } := by
  obtain ⟨x, e⟩ := s.takenUp_eq n
  obtain ⟨i, ei, -⟩ := State.setEyes_eq { s with host := x } (field d 17 1) lanes
  have buffered := State.writeBuffer_of_takes (s := { s with host := x, ind := i }) (a := field d 24 8)
    (b := State.marginRecords { s with host := x, ind := i } (field d 17 1) lanes) (by rw [State.marginRecords, length_laneRecords]; exact hb)
  unfold diagMarginRead
  rw [State.command_takes s n 0x0E d _ _ h (by simp [h2]), e, ei]
  unfold State.setEyes at ei
  dsimp only at ei ⊢
  rw [if_neg hp, ei]
  exact congrArg (fun o : Option State => (match o with
    | some t => t.complete n { status := .ok, info := 768 }
    | none => State.complete { s with host := x, ind := i } n { status := .indexRange })) buffered

theorem diagMarginRead_refused (h : s.takes n 0x0E d) (h2 : field d 16 1 = 2)
    (hp : (s.port (field d 17 1)).st = .absent ∨ s.bufferTakes (field d 24 8) 768 = false) : ∃ i,
    diagMarginRead n lanes s = State.complete { s.takenUp n with ind := i } n { status := .indexRange } := by
  obtain ⟨x, e⟩ := s.takenUp_eq n
  obtain ⟨i, ei, -⟩ := State.setEyes_eq { s with host := x } (field d 17 1) lanes
  unfold diagMarginRead
  rw [State.command_takes s n 0x0E d _ _ h (by simp [h2]), e]
  by_cases ha : (s.port (field d 17 1)).st = .absent
  · exact ⟨s.ind, if_pos ha⟩
  · have hb := hp.resolve_left ha
    have refused := State.writeBuffer_of_not (s := { s with host := x, ind := i }) (a := field d 24 8)
      (b := State.marginRecords { s with host := x, ind := i } (field d 17 1) lanes) (by rw [State.marginRecords, length_laneRecords]; exact hb)
    unfold State.setEyes at ei
    dsimp only at ei ⊢
    rw [if_neg ha, ei]
    exact ⟨i, congrArg (fun o : Option State => (match o with
      | some t => t.complete n { status := .ok, info := 768 }
      | none => State.complete { s with host := x, ind := i } n { status := .indexRange })) refused⟩

/-- A margin read that its buffer takes is answered, and changes lane registers, the buffer and the host side only. -/
theorem diagMarginRead_delivers_spec (h : s.takes n 0x0E d) (h2 : field d 16 1 = 2) (hp : (s.port (field d 17 1)).st ≠ .absent)
    (hb : s.bufferTakes (field d 24 8) 768 = true) : ∃ b, s.answered n d { status := .ok, info := 768 } (diagMarginRead n lanes s) ∧ b.length = 768 ∧
      s.delivers (diagMarginRead n lanes s) (field d 24 8) b ∧ s.hostOnly { diagMarginRead n lanes s with ind := s.ind, mem := s.mem } ∧
      ∀ i < 24, (diagMarginRead n lanes s).ind.eye.get 0 (24 * field d 17 1 + i) =
        BitVec.ofNat 32 ((nth default lanes i).eyeMv % 65536 * 65536 + (nth default lanes i).eyeUi % 65536) := by
  rw [diagMarginRead_delivers h h2 hp hb]
  obtain ⟨x, e⟩ := s.takenUp_eq n
  obtain ⟨i, ei, hi⟩ := State.setEyes_eq { s with host := x } (field d 17 1) lanes
  have he : (s.takenUp n).setEyes (field d 17 1) lanes = { s with host := x, ind := i } := by rw [e, ei]
  generalize hr : ((s.takenUp n).setEyes (field d 17 1) lanes).marginRecords (field d 17 1) lanes = b
  have hl : b.length = 768 := by rw [← hr, State.marginRecords, length_laneRecords]
  have hring : (((s.takenUp n).setEyes (field d 17 1) lanes).putBuffer (field d 24 8) b).ring n = (s.takenUp n).ring n := by
    rw [((State.putBuffer_delivers _ _ b).2 n), he, e]
  refine ⟨b, s.answered_complete _ n d _ h.1 hring, hl, ?_⟩
  rw [he]
  obtain ⟨hf, hst⟩ := State.putBuffer_complete_hostOnly { s with host := x, ind := i } n (field d 24 8) b { status := .ok, info := 768 }
  have kept := State.delivers_complete { s with host := x, ind := i } n (field d 24 8) b { status := .ok, info := 768 }
  obtain ⟨h', m, ec⟩ := (State.putBuffer { s with host := x, ind := i } (field d 24 8) b).complete_eq n { status := .ok, info := 768 }
  obtain ⟨h'', m', ep⟩ := State.putBuffer_eq { s with host := x, ind := i } (field d 24 8) b
  refine ⟨kept, ⟨?_, hst⟩, ?_⟩
  · rw [ec, ep]
  · rw [ec, ep]
    exact hi

end

/-! ### The end of a test -/

section
variable {s : State} {n p i : Nat} {e : List Byte} {lanes : List LaneReading}

/-- A port whose test ends trains where the map describes it, and is DOWN elsewhere; nothing else changes. -/
theorem State.untest_spec (u : State) (p : Nat) (x : Port) : ∃ t, (if (u.setPort p { x with diagRing := none, st := .down, checked := false, active := 0 }).describes p then
      (u.setPort p { x with diagRing := none, st := .down, checked := false, active := 0 }).startTraining p
      else u.setPort p { x with diagRing := none, st := .down, checked := false, active := 0 }) = t ∧
    (t.port p).diagRing = none ∧ (t.port p).st = (if u.describes p then .training else .down) ∧ (∀ q, q ≠ p → t.port q = u.port q) ∧ { t with net := u.net } = u := by
  refine ⟨_, rfl, ?_⟩
  have hdesc : (u.setPort p { x with diagRing := none, st := .down, checked := false, active := 0 }).describes p = u.describes p := rfl
  rw [hdesc]
  have hq : ∀ q, q ≠ p → (u.setPort p { x with diagRing := none, st := .down, checked := false, active := 0 }).port q = u.port q := fun q h => u.port_setPort_ne _ h
  cases u.describes p with
  | false => exact ⟨by rw [if_neg (by decide), State.port_setPort_self], by rw [if_neg (by decide), State.port_setPort_self]; rfl, hq, rfl⟩
  | true =>
    unfold State.startTraining
    rw [if_pos rfl, State.port_setPort_self]
    exact ⟨by rw [State.port_setPort_self], by rw [State.port_setPort_self]; rfl, fun q h => (State.port_setPort_ne _ _ h).trans (hq q h), rfl⟩

/-- The end of a test keeps its counts, gives the port back and puts 24 lane records into the buffer of its command. -/
theorem diagTestEnd_runs (lanes : List LaneReading) (hl : s.live = true) (hst : (s.port p).st = .diag) (hd : (s.port p).diagRing = some n)
    (hb : (s.ring n).busy = some (i, e)) : ∃ (u : State) (b : List Byte), b.length = 768 ∧
      (u.port p).diagRing = none ∧ (u.port p).st = (if s.describes p then .training else .down) ∧ (∀ q, q ≠ p → u.port q = s.port q) ∧
      { u with net := s.net, ind := s.ind } = s ∧ (∀ k < 24, u.ind.err.get 0 (24 * p + k) = BitVec.ofNat 48 (nth default lanes k).errors) ∧
      (s.bufferTakes (field e 24 8) 768 = true → diagTestEnd p lanes s = (u.putBuffer (field e 24 8) b).complete n { status := .ok, info := 768 }) ∧
      (s.bufferTakes (field e 24 8) 768 = false → diagTestEnd p lanes s = u.complete n { status := .indexRange }) := by
  obtain ⟨j, ej, hj⟩ := s.setLaneCounts_eq p lanes
  obtain ⟨k, ek, hk⟩ := State.setPattern_eq { s with ind := j } p 0
  obtain ⟨u, eu, hdu, hsu, hqu, hu⟩ := State.untest_spec { s with ind := k } p (s.port p)
  have hlen := length_laneRecords (fun i => { (nth default lanes i : LaneReading) with eyeMv := 0, eyeUi := 0 }) fun i => (s.port p).active.getLsbD i
  have same : { u with net := s.net, ind := s.ind } = s := congrArg (fun v : State => ({ v with ind := s.ind } : State)) hu
  have hind : u.ind = k := congrArg State.ind hu
  have htakes : u.bufferTakes (field e 24 8) 768 = s.bufferTakes (field e 24 8) 768 := by
    rw [← same]
    rfl
  refine ⟨u, _, hlen, hdu, hsu, hqu, same, fun q hq => ?_, fun h => ?_, fun h => ?_⟩
  · rw [hind, hk rfl]
    exact hj q hq
  · have buffered := State.writeBuffer_of_takes (s := u) (a := field e 24 8) (by rw [hlen, htakes]; exact h)
    unfold diagTestEnd
    dsimp only
    rw [hd]
    dsimp only
    rw [if_pos ⟨hl, hst⟩, hb]
    dsimp only
    rw [ej, ek, eu, buffered]
  · have refused := State.writeBuffer_of_not (s := u) (a := field e 24 8) (by rw [hlen, htakes]; exact h)
    unfold diagTestEnd
    dsimp only
    rw [hd]
    dsimp only
    rw [if_pos ⟨hl, hst⟩, hb]
    dsimp only
    rw [ej, ek, eu, refused]

end

/-! ### The obligation -/

/-- Settles O22: a test is taken up, refused or ended on the state with its lane registers set, and a margin read sets only those. -/
theorem portTests : Obligations.PortTests := by
  unfold Obligations.PortTests
  intro s n d lanes
  refine ⟨fun h _ hw => congrArg Host.Outcome.next (diagPrbsTest_waits h hw), fun h h1 ht y hy hw => ?_, fun h h2 => ⟨fun hp hb => ?_, fun hr => ?_⟩,
    fun p i e hl hst hd hb => ?_⟩
  · subst hy
    obtain ⟨x, i, e, hrun⟩ := diagPrbsTest_runs h h1 ht hw
    refine ⟨fun ha hu => ?_, fun hu hr hc => ?_, fun hu hr hc => ?_, fun ha => ?_⟩
    · have notUp : ¬ ((s.port (field d 17 1)).st = .up ∧ s.ms.st ≠ .ready) := fun ⟨h1, h2⟩ => hu.elim (fun h => h h1) h2
      rw [if_neg ha, if_neg (fun h => notUp ⟨h.1, h.2.1⟩), if_neg notUp] at hrun
      have hport := State.port_setPort_self { s with host := x, ind := i } (field d 17 1)
        { s.port (field d 17 1) with st := .diag, diagRing := some n, width := 0, checked := false }
      exact ⟨_, congrArg Host.Outcome.next hrun, State.busy_of_takenUp h e rfl, by rw [hport], by rw [hport], by rw [hport],
        fun q hq => State.port_setPort_ne _ _ hq, ⟨rfl, rfl, rfl, rfl, rfl⟩, ⟨rfl, rfl, rfl, rfl⟩⟩
    · rw [if_neg (by simp [hu]), if_neg (by simp [hc]), if_pos ⟨hu, hr⟩] at hrun
      obtain ⟨hq, hn⟩ := State.drain_spec { s with host := x, ind := i } (field d 17 1) { s.port (field d 17 1) with diagRing := some n } rfl hu
      obtain ⟨⟨h1, h2, h3, h4, h5⟩, ⟨h6, h7, h8, h9⟩, hh⟩ := hn.stores
      exact ⟨_, congrArg Host.Outcome.next hrun, State.busy_of_takenUp h e hh, ⟨h1, h2, h3, h4, h5⟩, ⟨h6, h7, h8, h9⟩, hq⟩
    · rw [if_neg (by simp [hu]), if_pos ⟨hu, hr, hc⟩] at hrun
      obtain ⟨ha, ho⟩ := State.takenUp_complete h { status := .resourceShort }
      exact ⟨_, congrArg Host.Outcome.next hrun, ha, ho⟩
    · rw [if_pos ha] at hrun
      obtain ⟨ha, ho⟩ := State.takenUp_complete h { status := .indexRange }
      exact ⟨_, congrArg Host.Outcome.next hrun, ha, ho⟩
  · obtain ⟨b, ha, hl, hd, hh, he⟩ := diagMarginRead_delivers_spec (lanes := lanes) h h2 hp hb
    exact ⟨_, b, rfl, ha, hl, hd, hh, he⟩
  · obtain ⟨i, e⟩ := diagMarginRead_refused (lanes := lanes) h h2 hr
    obtain ⟨x, ex⟩ := s.takenUp_eq n
    refine ⟨_, congrArg Host.Outcome.next e, s.answered_complete _ n d _ h.1 rfl, ?_⟩
    obtain ⟨hf, hst⟩ := State.complete_hostOnly { s.takenUp n with ind := i } n { status := .indexRange }
    obtain ⟨x', m, ec⟩ := State.complete_eq { s.takenUp n with ind := i } n { status := .indexRange }
    rw [ec, ex] at hst ⊢
    exact ⟨rfl, hst⟩
  · obtain ⟨u, b, hlen, hdu, hsu, hqu, same, herr, htaken, hrefused⟩ := diagTestEnd_runs lanes hl hst hd hb
    have hring : u.ring n = s.ring n := by
      rw [← same]
    have busy : (s.ring n).busy.isSome = true := by simp [hb]
    have hstep : s.stepSame u ∧ s.storesSame u := by
      unfold State.stepSame State.storesSame
      rw [← same]
      exact ⟨⟨rfl, rfl, rfl, rfl⟩, rfl, rfl, rfl, rfl, rfl⟩
    obtain ⟨⟨k1, k2, k3, k4⟩, h1, h2, h3, h4, h5⟩ := hstep
    have hbyte : ∀ a, u.byte a = s.byte a := fun a => by
      rw [← same]
    refine ⟨fun h => ?_, fun h => ?_⟩
    · obtain ⟨x, m, ec⟩ := (u.putBuffer (field e 24 8) b).complete_eq n { status := .ok, info := 768 }
      obtain ⟨x', m', ep⟩ := u.putBuffer_eq (field e 24 8) b
      obtain ⟨d1, d2, d3⟩ := u.delivers_complete n (field e 24 8) b { status := .ok, info := 768 }
      have ended := State.complete_ended (s := s) (t := u.putBuffer (field e 24 8) b) (c := { status := .ok, info := 768 })
        (((u.putBuffer_delivers (field e 24 8) b).2 n).trans hring) busy
      refine ⟨_, b, congrArg Host.Outcome.next (htaken h), ended, hlen, ⟨d1, d2, fun a ha => (d3 a ha).trans (hbyte a)⟩, ?_⟩
      rw [ec, ep]
      exact ⟨hdu, hsu, hqu, herr, k1, k2, k3, k4⟩
    · obtain ⟨x, m, ec⟩ := u.complete_eq n { status := .indexRange }
      refine ⟨_, congrArg Host.Outcome.next (hrefused h), State.complete_ended hring busy, ?_⟩
      rw [ec]
      exact ⟨hdu, hsu, ⟨h1, h2, h3, h4, h5⟩, k1, k2, k3, k4⟩

end Sys2Proof.Machine
end

section
/-! PROOFS. Boot: straps, the boot ROM, the stages of the firmware and their failures (16 R391-R394, R402, 17 R418). -/

namespace Sys2Proof.Machine

open Sys2Proof

/-! ### What was deferred while the module was in ROM (15 R370, R383) -/

/-- The configuration registers that rings and events are taken up from have parity that agrees. -/
def State.cfgOk (s : State) : Prop := ∀ x ∈ s.regs.tableRegs ++ s.regs.evRegs, x.2.ok = true

/-- On the way from `s` to `t` rings or events have been taken up: only the host side has changed, or the module has halted over the parity of a
configuration register. -/
def State.takesUpTo (s t : State) : Prop :=
  (∃ x a b c d, t = { s with host := x, ms := { s.ms with st := a, halt := b, stage := c, detail := d } } ∧ (a = s.ms.st ∨ a = .halted)) ∧
  (s.cfgOk → ∃ x, t = { s with host := x })

theorem State.takesUpTo_host {s t : State} (h : ∃ x, t = { s with host := x }) : s.takesUpTo t := by
  obtain ⟨x, rfl⟩ := h
  exact ⟨⟨x, _, _, _, _, rfl, .inl rfl⟩, fun _ => ⟨x, rfl⟩⟩

theorem State.takesUpTo.trans {s t u : State} (h : s.takesUpTo t) (k : t.takesUpTo u) : s.takesUpTo u := by
  obtain ⟨⟨x, a, b, c, d, rfl, ha⟩, hok⟩ := h
  obtain ⟨⟨x', a', b', c', d', rfl, ha'⟩, kok⟩ := k
  refine ⟨⟨x', a', b', c', d', rfl, ha'.elim (fun e => ha.imp (fun h => e.trans h) fun h => e.trans h) .inr⟩, fun ok => ?_⟩
  obtain ⟨y, e⟩ := kok ok
  obtain ⟨z, e'⟩ := hok ok
  rw [e, e']
  exact ⟨y, rfl⟩

/-- A configuration parity failure halts a module that runs. -/
theorem State.parityHalt_eq (s : State) (offset space : Nat) :
    ∃ x a b c d, s.parityHalt offset space = { s with host := x, ms := { s.ms with st := a, halt := b, stage := c, detail := d } } ∧ (a = s.ms.st ∨ a = .halted) := by
  unfold State.parityHalt
  split
  · next hl =>
    obtain ⟨x, e⟩ := s.post_eq evCfgParity (leBytes 4 offset ++ leBytes 1 space)
    rw [e]
    obtain ⟨y, e'⟩ := State.halt_eq { s with host := x } 0x1 0x30 hl
    rw [e']
    exact ⟨_, _, _, _, _, rfl, .inr rfl⟩
  · exact ⟨s.host, _, _, _, _, rfl, .inl rfl⟩

/-- What reads configuration registers acts, or the module halts over the first whose parity disagrees. -/
theorem State.reading_takesUpTo {s : State} {l : List (Nat × RwReg)} {f : State → State} (hl : ∀ x ∈ l, x ∈ s.regs.tableRegs ++ s.regs.evRegs)
    (hf : s.takesUpTo (f s)) : s.takesUpTo (s.reading l f) := by
  unfold State.reading
  split
  · next x hx =>
    refine ⟨s.parityHalt_eq x.1 0, fun ok => ?_⟩
    split at hx
    · have bad := List.find?_some hx
      simp [ok x (hl x (List.mem_of_find?_eq_some hx))] at bad
    · cases hx
  · exact hf

theorem State.takeUp_takesUpTo (s : State) (table : List (List Byte)) : s.takesUpTo (s.takeUp table) :=
  State.reading_takesUpTo (fun _ h => h) (State.takesUpTo_host (s.takeAll_eq table))

/-- Rings are taken up if rings.ctl enables them, once its parity is found in order. -/
theorem State.reading_takeUp_takesUpTo (s : State) (table : List (List Byte)) :
    s.takesUpTo (s.reading [(0x01000, s.regs.ringsCtl)] fun s => if s.regs.ringsCtl.val.getLsbD 31 then s.takeUp table else s) := by
  refine State.reading_takesUpTo (fun x h => ?_) ?_
  · cases List.mem_singleton.mp h
    exact List.mem_append_left _ (List.mem_cons_self ..)
  · split
    · exact s.takeUp_takesUpTo table
    · exact State.takesUpTo_host ⟨s.host, rfl⟩

theorem State.applyDeferred_takesUpTo (s : State) : s.takesUpTo s.applyDeferred := by
  have cleared : s.takesUpTo { s with host := { s.host with deferred := [] } } := State.takesUpTo_host ⟨_, rfl⟩
  refine List.foldlRecOn (motive := s.takesUpTo) s.host.deferred _ cleared fun t ht d _ => ht.trans ?_
  split
  · exact t.reading_takeUp_takesUpTo _
  · exact State.reading_takesUpTo (fun _ h => List.mem_append_right _ h) (State.takesUpTo_host t.takeEvents_eq)
  · exact State.reading_takesUpTo (fun _ h => List.mem_append_left _ h) (State.takesUpTo_host (t.takeRing_eq _ _ _))
  · exact State.takesUpTo_host ⟨_, rfl⟩

/-! ### The boot ROM (16 R391) -/

/-- What the boot ROM leaves alone behind its first check. -/
def State.romKeeps (s t : State) : Prop :=
  t.pwr = s.pwr ∧ t.regs = s.regs ∧ t.mem = s.mem ∧ t.sermem = s.sermem ∧ t.fuse.vendorKey = s.fuse.vendorKey ∧ t.ms.position = s.ms.position ∧
  t.ms.keyed = s.ms.keyed ∧ t.ms.fwRestart = s.ms.fwRestart

/-- The boot ROM has come to its end: firmware starts, or the module is in RECOVERY or HALTED. -/
def State.romEnds (s t : State) : Prop := s.romKeeps t ∧ (t.ms.st = .rom ∨ t.ms.st = .recovery ∨ t.ms.st = .halted)

section
variable {s t u : State}

theorem State.romKeeps.trans (h : s.romKeeps t) (k : t.romKeeps u) : s.romKeeps u := by
  obtain ⟨h1, h2, h3, h4, h5, h6, h7, h8⟩ := h
  obtain ⟨k1, k2, k3, k4, k5, k6, k7, k8⟩ := k
  exact ⟨k1.trans h1, k2.trans h2, k3.trans h3, k4.trans h4, k5.trans h5, k6.trans h6, k7.trans h7, k8.trans h8⟩

theorem State.romEnds.behind (h : s.romKeeps t) (k : t.romEnds u) : s.romEnds u := ⟨h.trans k.1, k.2⟩

theorem State.romEnds.ite (h : s.romEnds t) (k : s.romEnds u) {c : Prop} {_ : Decidable c} : s.romEnds (if c then t else u) := by
  by_cases hc : c
  · rwa [if_pos hc]
  · rwa [if_neg hc]

/-- A failed boot check of a module in ROM halts it with the reason and the stage and CAUSE in DETAIL. -/
theorem State.bootHalt_eq (h : s.ms.st = .rom) (reason stage cause : Nat) : ∃ x, s.bootHalt reason stage cause =
    { s with host := x, ms := { s.ms with st := .halted, halt := reason, stage := 0xF0, detail := stage * 2 ^ 16 + cause, claimed := none } } := by
  unfold State.bootHalt State.enter
  rw [if_neg (by simp [h, MState.enters])]
  obtain ⟨x, e⟩ := State.post_eq { s with ms := { s.ms with st := .halted, halt := reason, stage := 0xF0, detail := stage * 2 ^ 16 + cause, claimed := none } } evState
    (leBytes 1 s.ms.st.code ++ leBytes 1 MState.halted.code)
  exact ⟨x, e⟩

theorem State.bootHalt_romEnds (h : s.ms.st = .rom) (reason stage cause : Nat) : s.romEnds (s.bootHalt reason stage cause) := by
  obtain ⟨x, e⟩ := State.bootHalt_eq h reason stage cause
  rw [e]
  exact ⟨⟨rfl, rfl, rfl, rfl, rfl, rfl, rfl, rfl⟩, .inr (.inr rfl)⟩

/-- The check of the owner claims at most an owner slot. -/
theorem State.checkOwner_keeps (h : s.checkOwner = some t) : s.romKeeps t ∧ t.ms.st = s.ms.st := by
  have claimed : ∀ i x, some (s.claim i x) = some t → s.romKeeps t ∧ t.ms.st = s.ms.st := fun i x e => by
    cases e
    exact ⟨⟨rfl, rfl, rfl, rfl, rfl, rfl, rfl, rfl⟩, rfl⟩
  have same : some s = some t → s.romKeeps t ∧ t.ms.st = s.ms.st := fun e => by
    cases e
    exact ⟨⟨rfl, rfl, rfl, rfl, rfl, rfl, rfl, rfl⟩, rfl⟩
  unfold State.checkOwner at h
  dsimp only at h
  repeat' split at h
  · cases h
  · exact claimed _ _ h
  · cases h
  · exact same h
  · cases h
  · cases h
  · cases h
  · exact same h
  · exact claimed _ _ h
  · cases h

/-- A module that leaves ROM for RECOVERY takes up what was deferred. -/
theorem State.recovers (h : s.ms.st = .rom) : s.romEnds (s.enter .recovery).applyDeferred := by
  have hst := s.enter_st_eq .recovery (by rw [h]; rfl)
  obtain ⟨x, a, e⟩ := s.enter_eq .recovery
  obtain ⟨⟨y, a', b, c, d, e', ha⟩, -⟩ := (s.enter .recovery).applyDeferred_takesUpTo
  rw [e', hst] at *
  rw [e]
  exact ⟨⟨rfl, rfl, rfl, rfl, rfl, rfl, rfl, rfl⟩, ha.elim (fun h => .inr (.inl h)) fun h => .inr (.inr h)⟩

end

/-- A module whose ROM has read the serial memory. -/
def State.romRead (s : State) : State := { s with sermem := s.nor, ms := { s.ms with stage := 0x02, detail := 0 } }

/-- A module behind a header that passes: its identity key is derived (16 R404). -/
def State.romKeyed (s : State) : State := { s with sermem := s.nor, ms := { s.ms with stage := 0x02, detail := 0, keyed := true } }

/-- A header that fails halts the module. -/
theorem State.bootRom_unread {s : State} (h : s.headerOk = false) : s.bootRom = s.romRead.bootHalt 0x5 0x02 0x0001 := if_pos h

/-- Behind a header that passes the identity key is derived, and the ROM comes to its end. -/
theorem State.bootRom_read {s : State} (h : s.headerOk = true) (hst : s.ms.st = .rom) :
    s.romKeyed.romEnds s.bootRom := by
  have hh : ¬ State.headerOk { s with sermem := s.nor, ms := { s.ms with stage := 0x02, detail := 0 } } = false := by
    rw [show State.headerOk { s with sermem := s.nor, ms := { s.ms with stage := 0x02, detail := 0 } } = s.headerOk from rfl, h]
    decide
  unfold State.bootRom State.romKeyed
  dsimp only
  rw [if_neg hh]
  generalize hk : ({ s with sermem := s.nor, ms := { s.ms with stage := 0x02, detail := 0, keyed := true } } : State) = k
  have hks : k.ms.st = .rom := by
    rw [← hk]
    exact hst
  have halts := fun reason stage cause => k.bootHalt_romEnds hks reason stage cause
  refine .ite (halts _ _ _) ?_
  split
  · exact halts _ _ _
  · next t ht =>
    obtain ⟨kept, hts⟩ := State.checkOwner_keeps ht
    have hts := hts.trans hks
    have halts := fun reason stage cause => State.romEnds.behind kept (t.bootHalt_romEnds hts reason stage cause)
    refine .ite (halts _ _ _) (.ite (halts _ _ _) (.ite (halts _ _ _) (.ite (halts _ _ _) ?_)))
    split
    · exact halts _ _ _
    · refine .ite (halts _ _ _) (.ite (halts _ _ _) ?_)
      split
      · refine State.romEnds.behind (kept.trans ?_) (State.recovers ?_)
        · exact ⟨rfl, rfl, rfl, rfl, rfl, rfl, rfl, rfl⟩
        · exact hts
      · exact State.romEnds.behind kept ⟨⟨rfl, rfl, rfl, rfl, rfl, rfl, rfl, rfl⟩, .inl hts⟩

/-- What the boot ROM leaves, started in ROM: what it reads is the serial memory, and the header decides on the identity key. -/
theorem State.bootRom_spec {s : State} (hst : s.ms.st = .rom) :
    s.bootRom.pwr = s.pwr ∧ s.bootRom.regs = s.regs ∧ s.bootRom.mem = s.mem ∧ s.bootRom.sermem = s.nor ∧ s.bootRom.fuse.vendorKey = s.fuse.vendorKey ∧
    s.bootRom.ms.position = s.ms.position ∧ s.bootRom.ms.fwRestart = s.ms.fwRestart ∧
    (s.bootRom.ms.st = .rom ∨ s.bootRom.ms.st = .recovery ∨ s.bootRom.ms.st = .halted) ∧
    (s.headerOk = false → s.bootRom.ms.st = .halted ∧ s.bootRom.ms.halt = 0x5 ∧ s.bootRom.ms.detail = 0x020001) ∧
    (s.headerOk = true → s.bootRom.ms.keyed = true) := by
  cases h : s.headerOk with
  | false =>
    obtain ⟨x, e⟩ := State.bootHalt_eq (s := s.romRead) hst 0x5 0x02 0x0001
    rw [State.bootRom_unread h, e]
    exact ⟨rfl, rfl, rfl, rfl, rfl, rfl, rfl, .inr (.inr rfl), fun _ => ⟨rfl, rfl, rfl⟩, nofun⟩
  | true =>
    obtain ⟨⟨h1, h2, h3, h4, h5, h6, h7, h8⟩, he⟩ := State.bootRom_read h hst
    exact ⟨h1, h2, h3, h4, h5, h6, h8, he, nofun, fun _ => h7⟩

theorem State.bootFrom_booted (s : State) (straps : BitVec 14) : s.booted straps (s.bootFrom straps) ∧
    (s.bootFrom straps).pwr = { s.pwr with straps := straps, waitPll := false } := by
  obtain ⟨h1, -, -, h4, h5, h6, -, h8, h9, h10⟩ := State.bootRom_spec (s := { s with
    pwr := { s.pwr with straps := straps, waitPll := false }
    ms := { s.ms with st := .rom, position := straps.toNat, stage := 0x01, detail := 0 } }) rfl
  exact ⟨⟨congrArg Pwr.straps h1, h6, h4, h5, h8, h9, h10⟩, h1⟩

/-- RECOVERY_RESTART boots again, with BAR0's registers and device memory kept. -/
theorem recoveryRestart_spec {s : State} (ho : s.on = true) (hst : s.ms.st = .recovery) (hf : s.ms.fwRestart = true) :
    (recoveryRestart s).sermem = s.nor ∧ (recoveryRestart s).ms.fwRestart = false ∧ (recoveryRestart s).regs = s.regs ∧ (recoveryRestart s).mem = s.mem := by
  have hrom := s.enter_st_eq .rom (by rw [hst]; rfl)
  unfold recoveryRestart
  rw [if_pos ⟨ho, hst, hf⟩]
  obtain ⟨-, h2, h3, h4, -, -, h7, -⟩ := State.bootRom_spec
    (s := { s.enter .rom with ms := { (s.enter .rom).ms with fwRestart := false, retake := true, stage := 0x01, detail := 0 } }) hrom
  exact ⟨h4.trans (s.enter_nor .rom), h7, h2.trans (s.enter_regs .rom), h3.trans (s.enter_mem .rom)⟩

/-! ### The stages of the firmware (16 R392) -/

theorem NMap.get_map {α : Type} (d : α) (f : Nat → α → α) (m : NMap α) (a : Nat) (h : f a d = d) :
    NMap.get d (m.map fun e => (e.1, f e.1 e.2)) a = f a (NMap.get d m a) := by
  induction m with
  | nil => exact h.symm
  | cons e m ih =>
    obtain ⟨k, v⟩ := e
    simp only [List.map_cons, NMap.get]
    split
    · next hk => rw [hk]
    · exact ih

/-- The ports that the map describes train from the entry of LINKS on. -/
theorem State.startPorts_port (s : State) (p : Nat) (hd : s.describes p = true) (ha : (s.port p).st ≠ .absent) : (s.startPorts.port p).st = .training := by
  have hp : s.startPorts.port p = if s.describes p = true ∧ (s.port p).st ≠ .absent then { s.port p with st := .training } else s.port p :=
    NMap.get_map _ (fun k (x : Port) => if s.describes k = true ∧ x.st ≠ .absent then { x with st := .training } else x) _ _
      (if_neg (by simp [Port.reset]))
  rw [hp, if_pos ⟨hd, ha⟩]

/-- The registers and gauges of flash take the values that its translation layer has kept. -/
theorem State.loadBlocks_spec (s : State) : s.storesSame s.loadBlocks ∧ s.loadBlocks.ms = s.ms ∧ ∀ b, s.tier.blocks = some b →
    s.loadBlocks.ind.flashGood = b.good ∧ s.loadBlocks.ind.flashSpare = b.spare ∧ s.loadBlocks.ind.flashPeAvg = b.peAvg ∧
    s.loadBlocks.ind.flashPeMax = b.peMax ∧ s.loadBlocks.counter cFlashSpare = b.spare.setWidth 64 ∧ s.loadBlocks.counter cFlashPe = b.peAvg.setWidth 64 := by
  unfold State.loadBlocks
  cases hb : s.tier.blocks with
  | none => exact ⟨⟨rfl, rfl, rfl, rfl, rfl⟩, rfl, nofun⟩
  | some b =>
    refine ⟨⟨rfl, rfl, rfl, rfl, rfl⟩, rfl, fun c hc => ?_⟩
    cases hc
    exact ⟨rfl, rfl, rfl, rfl, (NMap.get_set_ne _ _ _ _ _ (by decide)).trans (NMap.get_set_self _ _ _ _), NMap.get_set_self _ _ _ _⟩

section
variable {s : State}

theorem firmwareStageDone_dram (ho : s.on = true) (hst : s.ms.st = .rom) (hr : s.ms.fwRun = some 0x07) (ok : Bool) (n : Nat) (bad : List (Nat × List Nat))
    (table : List (List Byte)) : firmwareStageDone ok n bad table s =
      if ok then { s with ms := { s.ms with stage := 0x08, detail := 0, fwRun := some 0x08, claimed := none }
                          ind := { s.ind with lpddrTrain := BitVec.ofNat 32 (2 ^ 31 + n % 2 ^ 8) } }
      else State.bootHalt { s with tier := { s.tier with dramFault := true } } 0x2 0x07 0x0021 := by
  unfold firmwareStageDone
  rw [if_pos ⟨ho, hst⟩, hr]
  rfl

theorem firmwareStageDone_flash (ho : s.on = true) (hst : s.ms.st = .rom) (hr : s.ms.fwRun = some 0x08) (ok : Bool) (n : Nat) (bad : List (Nat × List Nat))
    (table : List (List Byte)) : firmwareStageDone ok n bad table s =
      if ok then State.loadBlocks { s with ms := { s.ms with stage := 0x09, detail := 0, fwRun := some 0x09 } }
      else State.bootHalt { s with tier := { s.tier with flashFault := true } } 0x2 0x08 0x0022 := by
  unfold firmwareStageDone
  rw [if_pos ⟨ho, hst⟩, hr]
  rfl

theorem firmwareStageDone_hbm (ho : s.on = true) (hst : s.ms.st = .rom) (hr : s.ms.fwRun = some 0x09) (ok : Bool) (n : Nat) (bad : List (Nat × List Nat))
    (table : List (List Byte)) : firmwareStageDone ok n bad table s =
      if ok = true ∧ bad.all (fun b => decide (b.2.length ≤ 2)) = true then
        State.startPorts { s with
          ms := { s.ms with stage := 0x0A, detail := 0, fwRun := some 0x0A }
          ind := { s.ind with spares := assignSpares bad s.tier.worn }
          tier := { s.tier with worn := [] } }
      else State.bootHalt { s with tier := { s.tier with trainFail := true } } 0x6 0x09 0x0020 := by
  unfold firmwareStageDone
  rw [if_pos ⟨ho, hst⟩, hr]
  rfl

/-- A stage that fails halts the module with its reason, and the tiers keep what it has set. -/
theorem State.bootHalt_tier (hst : s.ms.st = .rom) (x : Tiers) (reason stage cause : Nat) :
    (State.bootHalt { s with tier := x } reason stage cause).ms.st = .halted ∧ (State.bootHalt { s with tier := x } reason stage cause).ms.halt = reason ∧
      (State.bootHalt { s with tier := x } reason stage cause).tier = x := by
  obtain ⟨y, e⟩ := State.bootHalt_eq (s := { s with tier := x }) hst reason stage cause
  rw [e]
  exact ⟨rfl, rfl, rfl⟩

end

/-- Behind LINKS the module is READY, and has taken up what was deferred. -/
theorem firmwareStageDone_links {s : State} (ho : s.on = true) (hst : s.ms.st = .rom) (hr : s.ms.fwRun = some 0x0A) (hok : s.cfgOk) (ok : Bool) (n : Nat)
    (bad : List (Nat × List Nat)) (table : List (List Byte)) : ∃ t, firmwareStageDone ok n bad table s = t ∧ t.ms.st = .ready ∧ t.ms.stage = 0x0B ∧
      t.ms.fwRun = none ∧ t.mem = s.mem ∧ ∀ p, t.port p = s.port p := by
  unfold firmwareStageDone
  rw [if_pos ⟨ho, hst⟩, hr]
  dsimp only
  generalize hu : ({ s with fuse := _, ms := { s.ms with stage := 0x0B, fwRun := none, retake := false } } : State) = u
  have hus : u.ms.st = .rom := by rw [← hu]; exact hst
  have hready := u.enter_st_eq .ready (by rw [hus]; rfl)
  obtain ⟨x, a, e⟩ := u.enter_eq .ready
  have hdef := (u.enter .ready).applyDeferred_takesUpTo
  have taken : (u.enter .ready).takesUpTo (if s.ms.retake then
      (u.enter .ready).applyDeferred.reading [(0x01000, (u.enter .ready).applyDeferred.regs.ringsCtl)] fun s => if s.regs.ringsCtl.val.getLsbD 31 then s.takeUp table else s
      else (u.enter .ready).applyDeferred) := by
    split
    · exact hdef.trans (State.reading_takeUp_takesUpTo _ table)
    · exact hdef
  obtain ⟨y, e'⟩ := taken.2 (by rw [State.cfgOk, State.enter_regs, ← hu]; exact hok)
  refine ⟨_, rfl, ?_⟩
  rw [e']
  refine ⟨hready, ?_⟩
  rw [e, ← hu]
  exact ⟨rfl, rfl, rfl, fun _ => rfl⟩

/-! ### The obligation -/

/-- Settles O7: the ROM's tree of checks ends in ROM, RECOVERY or HALTED on what it keeps, and each stage of the firmware is a record of the next. -/
theorem bootRuns : Obligations.BootRuns := by
  unfold Obligations.BootRuns
  refine ⟨fun s straps => ⟨fun hg hp => ?_, fun ho hw => ?_, fun ho hst hf => ⟨_, rfl, recoveryRestart_spec ho hst hf⟩⟩, fun s n bad table ho hst => ?_⟩
  · obtain ⟨hb, hpw⟩ := State.bootFrom_booted { s with pwr := { s.pwr with perst := false, straps := straps } } straps
    refine ⟨_, congrArg Host.Outcome.next ((if_pos hp).trans (if_pos hg)), congrArg Pwr.perst hpw, hb⟩
  · obtain ⟨hb, hpw⟩ := s.bootFrom_booted straps
    exact ⟨_, congrArg Host.Outcome.next (if_pos (by simp [ho, hw])), congrArg Pwr.waitPll hpw, hb⟩
  · refine ⟨fun h => ?_, fun h => ?_, fun h hb => ?_, fun h hok ok => firmwareStageDone_links ho hst h hok ok n bad table |>.imp fun _ ht => ?_, fun h => ?_, fun h => ?_,
      fun h ok hok => ?_⟩
    · exact ⟨_, congrArg Host.Outcome.next (firmwareStageDone_dram ho hst h true n bad table), rfl, rfl, rfl, rfl, rfl, rfl, rfl, rfl⟩
    · obtain ⟨hs, hm, hb⟩ := State.loadBlocks_spec { s with ms := { s.ms with stage := 0x09, detail := 0, fwRun := some 0x09 } }
      exact ⟨_, congrArg Host.Outcome.next (firmwareStageDone_flash ho hst h true n bad table), congrArg ModState.stage hm, congrArg ModState.fwRun hm, hs, hb⟩
    · exact ⟨_, congrArg Host.Outcome.next ((firmwareStageDone_hbm ho hst h true n bad table).trans (if_pos ⟨rfl, hb⟩)), rfl, rfl, ⟨rfl, rfl, rfl, rfl, rfl⟩,
        fun p hd ha => State.startPorts_port _ p hd ha⟩
    · exact ⟨congrArg Host.Outcome.next ht.1, ht.2⟩
    · obtain ⟨h1, h2, h3⟩ := State.bootHalt_tier hst { s.tier with dramFault := true } 0x2 0x07 0x0021
      exact ⟨_, congrArg Host.Outcome.next (firmwareStageDone_dram ho hst h false n bad table), h1, h2, congrArg Tiers.dramFault h3⟩
    · obtain ⟨h1, h2, h3⟩ := State.bootHalt_tier hst { s.tier with flashFault := true } 0x2 0x08 0x0022
      exact ⟨_, congrArg Host.Outcome.next (firmwareStageDone_flash ho hst h false n bad table), h1, h2, congrArg Tiers.flashFault h3⟩
    · obtain ⟨h1, h2, h3⟩ := State.bootHalt_tier hst { s.tier with trainFail := true } 0x6 0x09 0x0020
      have failed : ¬ (ok = true ∧ bad.all (fun b => decide (b.2.length ≤ 2)) = true) := fun ⟨h1, h2⟩ => hok.elim (fun h => by simp [h] at h1) fun h => by simp [h] at h2
      exact ⟨_, congrArg Host.Outcome.next ((firmwareStageDone_hbm ho hst h ok n bad table).trans (if_neg failed)), h1, h2, congrArg Tiers.trainFail h3⟩

end Sys2Proof.Machine
end

section
/-! PROOFS. JOIN, its traffic and the FLOOR barrier; QUIESCE (10 R245, R250, R257, R261, R264, 11 R280, R290, 13 R343). -/

namespace Sys2Proof.Machine

open Sys2Proof

/-! ### Arriving at the FLOOR barrier -/

/-- What gathers at a barrier is sent on: beyond the barriers only what sending changes has changed. -/
theorem State.gatherBarrier_conveys (s : State) (kind : Nat) : ∃ b, State.conveys { s with bar := b } (s.gatherBarrier kind) := by
  unfold State.gatherBarrier
  dsimp only
  split
  · exact ⟨s.bar, s.conveys_refl⟩
  · split
    · refine ⟨(s.setBarrier kind { s.barrier kind with up := true }).bar, ?_⟩
      split
      · exact State.send_conveys (s.setBarrier kind { s.barrier kind with up := true }) _
      · exact State.send_conveys (s.setBarrier kind { s.barrier kind with up := true }) _
    · exact ⟨s.bar, s.conveys_refl⟩

theorem State.arrive_conveys (s : State) (kind step attempt value : Nat) : ∃ b, State.conveys { s with bar := b } (s.arrive kind step attempt value) :=
  State.gatherBarrier_conveys (s.setBarrier kind { s.barrier kind with own := some (step, attempt, value), up := false }) kind

theorem State.arrive_goesOn (s : State) (kind step attempt value : Nat) : s.goesOn (s.arrive kind step attempt value) := by
  have h := State.gatherBarrier_copies (s.setBarrier kind { s.barrier kind with own := some (step, attempt, value), up := false }) kind
  exact State.goesOn_trans (State.goesOn_of_same rfl rfl) h.2.1

/-- A module that forms the machine arrives at the FLOOR barrier at most. -/
theorem State.tryForm_spec (s : State) : (∃ b n c, s.tryForm = { s with bar := b, net := n, ctr := c }) ∧ s.goesOn s.tryForm ∧ s.tryForm.net.dup = s.net.dup := by
  unfold State.tryForm
  split
  · obtain ⟨b, -, hd, -⟩ := s.arrive_conveys bFloor 0 0 s.levels
    exact ⟨s.arrive_eq bFloor 0 0 s.levels, s.arrive_goesOn bFloor 0 0 s.levels, hd⟩
  · exact ⟨⟨s.bar, s.net, s.ctr, rfl⟩, s.goesOn_refl, rfl⟩

/-- The members form the feature floor again. -/
theorem State.formFloor_spec (s : State) : (∃ b n c, s.formFloor = { s with bar := b, net := n, ctr := c }) ∧ (s.formFloor.barrier 3).own = some (0, 0, s.levels) :=
  ⟨s.arrive_eq bFloor 0 0 s.levels, s.arrive_own (by decide) 0 0 s.levels⟩

/-! ### JOIN -/

/-- The module as JOIN leaves it before it is made known. -/
def State.joins (s : State) (ring : Nat) : State :=
  { s with
    mach := { s.mach with
      ranks := if s.mach.ranks = [] then s.ms.map.elim [] (·.ranks) else s.mach.ranks
      joinRing := some ring
      joinSeen := insertOnce s.ms.position s.mach.joinSeen
      rank := (List.range (if s.mach.ranks = [] then s.ms.map.elim [] (·.ranks) else s.mach.ranks).length).find? fun r =>
        nth 0 (if s.mach.ranks = [] then s.ms.map.elim [] (·.ranks) else s.mach.ranks) r == s.ms.position }
    net := { s.net with
      msgid := []
      dup := []
      dropped := [] } }

section
variable {s : State} {n : Nat} {d : List Byte}

theorem join_eq (h : s.takes n 0x01 d) : join n s =
    (((s.takenUp n).joins n).sendAll ((s.takenUp n).joins n).others (joinNotice s.ms.position)).tryForm := by
  obtain ⟨x, e⟩ := s.takenUp_eq n
  unfold join
  rw [State.command_takes s n 0x01 d _ _ h rfl, e]
  rfl

/-- JOIN tells every other rank of itself, and is in progress. -/
theorem join_spec (h : s.takes n 0x01 d) : (∃ x b m c, join n s = { s.joins n with host := x, bar := b, net := m, ctr := c }) ∧ (join n s).net.dup = [] ∧
    ∀ r < (s.joins n).mach.ranks.length, some r ≠ (s.joins n).mach.rank → s.emits (join n s) (joinNotice s.ms.position r) := by
  rw [join_eq h]
  obtain ⟨x, e⟩ := s.takenUp_eq n
  have hl : ((s.takenUp n).joins n).live = true := by
    rw [e]
    exact (State.live_of_upNext h.1 : s.live = true)
  have hu : (s.takenUp n).joins n = { s.joins n with host := x } := by rw [e]; rfl
  obtain ⟨m, c, es⟩ := ((s.takenUp n).joins n).sendAll_eq ((s.takenUp n).joins n).others (joinNotice s.ms.position)
  obtain ⟨-, hd, -⟩ := ((s.takenUp n).joins n).sendAll_conveys ((s.takenUp n).joins n).others (joinNotice s.ms.position)
  obtain ⟨⟨b, m', c', ef⟩, hg, hd'⟩ := (((s.takenUp n).joins n).sendAll ((s.takenUp n).joins n).others (joinNotice s.ms.position)).tryForm_spec
  refine ⟨⟨x, b, m', c', by rw [ef, es, hu]⟩, hd'.trans (hd.trans (by rw [hu]; rfl)), fun r hr hne => ?_⟩
  have mem : r ∈ ((s.takenUp n).joins n).others := by
    rw [hu]
    exact List.mem_filter.mpr ⟨List.mem_range.mpr hr, by simpa using hne⟩
  have sent := State.emits_goesOn (State.sendAll_emits (m := joinNotice s.ms.position) hl mem) hg
  rw [hu] at sent ⊢
  exact sent

end

/-- JOIN_TIMEOUT of a JOIN in progress. -/
theorem joinTimeout_spec {s : State} {n i : Nat} {d : List Byte} (hl : s.live = true) (hst : s.ms.st = .ready) (hj : s.mach.joinRing = some n)
    (hb : (s.ring n).busy = some (i, d)) : s.ended n { status := .timeout } (joinTimeout s) ∧ (joinTimeout s).mach.rank = none ∧
      (joinTimeout s).mach.joinRing = none ∧ (joinTimeout s).ms.st = .ready ∧ s.storesSame (joinTimeout s) ∧ s.stepSame (joinTimeout s) := by
  unfold joinTimeout State.dropJoin
  rw [if_pos (by simp [hl, hst]), hj]
  dsimp only
  generalize hu : ({ s.setBarrier bFloor Barrier.none_ with mach := _ } : State) = u
  have hring : u.ring n = s.ring n := by rw [← hu]; rfl
  have hms : (u.complete n { status := .timeout }).ms = u.ms := u.complete_ms n _ (by rw [← hu]; exact fun h => by simp [State.setBarrier, hst] at h)
  obtain ⟨x, a, e⟩ := u.complete_eq n { status := .timeout }
  refine ⟨State.complete_ended hring (by simp [hb]), ?_⟩
  rw [e] at hms ⊢
  subst hu
  exact ⟨rfl, rfl, (congrArg ModState.st hms).trans hst, ⟨rfl, rfl, rfl, rfl, rfl⟩, rfl, rfl, rfl, rfl⟩

/-! ### JOIN traffic -/

/-- The module whose JOIN traffic has been taken from the inbox, and which has or has not left. -/
def State.joinHeard (s : State) (pos : Nat) (left : Bool) : State :=
  { s with
    net := { s.net with
      inbox := s.net.inbox.filter fun m => !(m.typ == 1 && m.opc == 4 && field m.body 8 2 == pos && m.resp == left) }
    mach := if left then s.mach else { s.mach with joinSeen := insertOnce pos s.mach.joinSeen } }

section
variable {s : State} {pos : Nat}

/-- In READY and without a JOIN the module learns the ranks section. -/
theorem joinTraffic_ready (i : JoinInfo) (hl : s.live = true) (hst : s.ms.st = .ready) (hm : s.ms.map.isSome = true) (hj : s.mach.joinRing = none) :
    joinTraffic pos (some i) false s =
      { s.joinHeard pos false with mach := { (s.joinHeard pos false).mach with ranks := i.ranks, formed := true } } := by
  have hnm : s.member = false := by simp [State.member, hst]
  have hnm' : (s.joinHeard pos false).member = false := hnm
  have hj' : (s.joinHeard pos false).mach.joinRing = none := hj
  unfold joinTraffic
  rw [if_neg (by simp [hl, hst, hm])]
  show (if (s.joinHeard pos false).member then _ else ((s.joinHeard pos false).learn i).tryForm) = _
  rw [hnm', if_neg (by decide)]
  have learned : (s.joinHeard pos false).learn i = { s.joinHeard pos false with mach := { (s.joinHeard pos false).mach with ranks := i.ranks, formed := true } } := by
    unfold State.learn
    simp only [hj', Option.isSome_none, Bool.false_and, Bool.false_eq_true, if_false]
  rw [learned]
  exact if_neg (by simp [hj'])

/-- The rank of the module at a position, or the mark of a spare. -/
def State.joinerRank (s : State) (pos : Nat) : Nat := ((List.range s.ranks).find? fun r => nth 0 s.mach.ranks r == pos).getD s.spareRank

/-- The message state kept for a module starts afresh as it joins (10 R245). -/
def State.afresh (s : State) (pos : Nat) : State :=
  { s with
    mach := { s.mach with joining := if s.joinerRank pos = s.spareRank ∧ s.mach.rank = some 0 then some pos else none }
    net := { s.net with
      msgid := s.net.msgid.filter fun e => e.1 / 16 != s.joinerRank pos
      dup := s.net.dup.filter fun e => e.1 / 16 != s.joinerRank pos
      dropped := s.net.dropped.filter fun m => m.src != s.joinerRank pos } }

/-- Rank 0 answers a module that joins, and a member arrives at the FLOOR barrier with its levels. -/
theorem State.welcome1_spec (hb : (s.barrier bFloor).own = none) (hp : s.ms.position ≠ pos) :
    (∃ b n c, s.welcome1 pos = { s.afresh pos with bar := b, net := n, ctr := c }) ∧ ((s.welcome1 pos).barrier 3).own = some (0, 0, s.levels) := by
  have e : s.welcome1 pos = State.formFloor (if (s.afresh pos).mach.rank = some 0 then (s.afresh pos).send ((s.afresh pos).welcome (s.joinerRank pos)) else s.afresh pos) :=
    if_neg (by rw [hb]; simpa using hp)
  obtain ⟨n, c, es⟩ : ∃ n c, (if (s.afresh pos).mach.rank = some 0 then (s.afresh pos).send ((s.afresh pos).welcome (s.joinerRank pos)) else s.afresh pos) =
      { s.afresh pos with net := n, ctr := c } := by
    split
    · exact State.send_eq _ _
    · exact ⟨(s.afresh pos).net, (s.afresh pos).ctr, rfl⟩
  rw [e, es]
  obtain ⟨⟨b, n', c', ef⟩, own⟩ := State.formFloor_spec { s.afresh pos with net := n, ctr := c }
  exact ⟨⟨b, n', c', ef⟩, own⟩

/-- A member of a formed machine meets a module that joins. -/
theorem joinTraffic_member (i : Option JoinInfo) (hm : s.member = true) (hmap : s.ms.map.isSome = true) (hf : s.mach.formed = true)
    (hb : (s.barrier 3).own = none) (hp : s.ms.position ≠ pos) : ∃ j b n c, joinTraffic pos i false s =
      { s with mach := { (s.joinHeard pos false).mach with joining := j }, bar := b, net := n, ctr := c } ∧
      ((joinTraffic pos i false s).barrier 3).own = some (0, 0, s.levels) := by
  have e : joinTraffic pos i false s = (s.joinHeard pos false).welcome1 pos := by
    unfold joinTraffic
    rw [if_neg (by simp [hm, hmap])]
    exact (if_pos hm).trans (if_pos hf)
  rw [e]
  obtain ⟨⟨b, n, c, ew⟩, own⟩ := State.welcome1_spec (s := s.joinHeard pos false) hb hp
  exact ⟨_, b, n, c, ew, own⟩

/-- A spare has left: the members form the floor again. -/
theorem joinTraffic_left (i : Option JoinInfo) (hm : s.member = true) (hmap : s.ms.map.isSome = true) (hp : pos ∉ s.mach.ranks) :
    ∃ v b n c, joinTraffic pos i true s =
      { s with mach := { s.mach with joinSeen := s.mach.joinSeen.filter (· != pos) }, recov := v, bar := b, net := n, ctr := c } ∧
      ((joinTraffic pos i true s).barrier 3).own = some (0, 0, s.levels) := by
  have e : joinTraffic pos i true s = (s.joinHeard pos true).spareGone pos := by
    unfold joinTraffic
    rw [if_neg (by simp [hm, hmap])]
    have gone : ((s.joinHeard pos true).member && !(s.joinHeard pos true).mach.ranks.contains pos) = true := by
      rw [show (s.joinHeard pos true).member = true from hm, show (s.joinHeard pos true).mach.ranks = s.mach.ranks from rfl]
      simpa using hp
    exact (if_pos rfl).trans (if_pos gone)
  rw [e]
  obtain ⟨⟨b, n, c, ef⟩, own⟩ := State.formFloor_spec { s.joinHeard pos true with
    mach := { (s.joinHeard pos true).mach with joinSeen := (s.joinHeard pos true).mach.joinSeen.filter (· != pos) }
    recov := { (s.joinHeard pos true).recov with noSpare := (s.joinHeard pos true).recov.noSpare || pos / 8 == (s.joinHeard pos true).ms.position / 8 } }
  exact ⟨_, b, n, c, ef, own⟩

end

/-! ### The release of the FLOOR barrier -/

section
variable {s : State} {m : Msg} {a b v : Nat}

/-- The release ends this module's wait and passes down the tree. -/
theorem State.barrierIn_floor (ho : s.on = true) (hm : s.member = true ∨ s.ms.st = .ready) (ht : m.typ = 6) (hopc : m.opc = 3) (hr : m.resp = true)
    (hown : (s.barrier 3).own = some (a, b, v)) (hup : (s.barrier 3).up = true) (ha : field m.body 0 4 = a) (hb : field m.body 4 1 = b) :
    ∃ l n c, s.barrierIn bFloor m = (some (field m.body 8 8), { s with bar := l, net := n, ctr := c, mach := { s.mach with joining := none } }) := by
  obtain ⟨n, e⟩ := s.took_eq m
  have guard : (s.on && (s.member || s.ms.st == .ready) && m.typ == 6 && m.opc == bFloor) = true := by
    rcases hm with hm | hm <;> simp [ho, hm, ht, hopc, bFloor]
  have own : ((s.took m).barrier bFloor).own = some (a, b, v) := by rw [e]; exact hown
  have up : ((s.took m).barrier bFloor).up = true := by rw [e]; exact hup
  unfold State.barrierIn
  rw [if_pos guard]
  dsimp only
  rw [if_pos hr]
  unfold State.release
  simp only [own]
  rw [if_pos ⟨ha, hb, up⟩]
  dsimp only
  rw [e]
  obtain ⟨n', c', e'⟩ := State.sendAll_eq ({ State.setBarrier { s with net := n } bFloor
    { Barrier.none_ with kids := (State.barrier { s with net := n } bFloor).kids.filter fun k => !(k.2.1 == a && k.2.2.1 == b) } with
      mach := { s.mach with joining := none } } : State) (State.below { s with net := n } bFloor) fun r => mkMsg 6 bFloor 0 r m.body (resp := true)
  exact ⟨_, n', c', congrArg (Prod.mk (some (field m.body 8 8))) e'⟩

/-- A module whose FLOOR barrier is released, with the floor set. -/
def State.floorSet (s : State) (w : W32) (l : List Barrier) (n : Net) (c : Counters) : State :=
  { s with bar := l, net := n, ctr := c, mach := { s.mach with joining := none, floor := w, formed := true } }

theorem barrierFloor_released (ho : s.on = true) (hm : s.member = true ∨ s.ms.st = .ready) (ht : m.typ = 6) (hopc : m.opc = 3) (hr : m.resp = true)
    (hown : (s.barrier 3).own = some (a, b, v)) (hup : (s.barrier 3).up = true) (ha : field m.body 0 4 = a) (hb : field m.body 4 1 = b) :
    (s.holdFull = true → floorWord (field m.body 8 8) ≠ s.mach.floor → barrierFloor m s = s) ∧
    (s.holdFull = false ∨ floorWord (field m.body 8 8) = s.mach.floor → ∃ l n c x, (∀ k, State.ring { s with host := x } k = s.ring k) ∧
      (s.mach.joinRing = none → barrierFloor m s = { s.floorSet (floorWord (field m.body 8 8)) l n c with host := x }) ∧
      ∀ k, s.mach.joinRing = some k → barrierFloor m s =
        (State.complete { s.floorSet (floorWord (field m.body 8 8)) l n c with
          host := x
          mach := { (s.floorSet (floorWord (field m.body 8 8)) l n c).mach with joinRing := none } } k
          { status := .ok, info := s.joinInfo }).enter .joined) := by
  obtain ⟨l, n, c, e⟩ := State.barrierIn_floor ho hm ht hopc hr hown hup ha hb
  refine ⟨fun hf hw => ?_, fun hw => ?_⟩
  · unfold barrierFloor
    rw [e]
    exact if_pos ⟨hw, hf⟩
  · have now : ¬ (floorWord (field m.body 8 8) ≠ s.mach.floor ∧ s.holdFull = true) := fun ⟨h1, h2⟩ => hw.elim (fun h => by simp [h] at h2) h1
    obtain ⟨x, ex, hring⟩ : ∃ x, (if floorWord (field m.body 8 8) = s.mach.floor then s.floorSet (floorWord (field m.body 8 8)) l n c
        else (s.floorSet (floorWord (field m.body 8 8)) l n c).post evFloor (leBytes 4 (floorWord (field m.body 8 8)).toNat ++ leBytes 4 s.mach.floor.toNat)) =
          { s.floorSet (floorWord (field m.body 8 8)) l n c with host := x } ∧ ∀ k, State.ring { s with host := x } k = s.ring k := by
      split
      · exact ⟨s.host, rfl, fun _ => rfl⟩
      · have hr := State.post_rings (s.floorSet (floorWord (field m.body 8 8)) l n c) evFloor
          (leBytes 4 (floorWord (field m.body 8 8)).toNat ++ leBytes 4 s.mach.floor.toNat)
        obtain ⟨x, ex⟩ := (s.floorSet (floorWord (field m.body 8 8)) l n c).post_eq evFloor
          (leBytes 4 (floorWord (field m.body 8 8)).toNat ++ leBytes 4 s.mach.floor.toNat)
        rw [ex] at hr ⊢
        exact ⟨x, rfl, fun k => by rw [State.ring, hr]; rfl⟩
    refine ⟨l, n, c, x, hring, fun hj => ?_, fun k hj => ?_⟩
    · unfold barrierFloor
      rw [e]
      dsimp only
      rw [if_neg now]
      unfold State.floorSet at ex
      dsimp only at ex ⊢
      rw [ex]
      simp only [hj, State.floorSet]
    · unfold barrierFloor
      rw [e]
      dsimp only
      rw [if_neg now]
      unfold State.floorSet at ex
      dsimp only at ex ⊢
      rw [ex]
      simp only [hj, State.floorSet]
      rfl

/-- In READY the release ends a JOIN in progress. -/
theorem barrierFloor_joins {k i : Nat} {d : List Byte} (ho : s.on = true) (hm : s.member = true ∨ s.ms.st = .ready) (ht : m.typ = 6) (hopc : m.opc = 3)
    (hr : m.resp = true) (hown : (s.barrier 3).own = some (a, b, v)) (hup : (s.barrier 3).up = true) (ha : field m.body 0 4 = a) (hb : field m.body 4 1 = b)
    (hw : s.holdFull = false ∨ floorWord (field m.body 8 8) = s.mach.floor) (hst : s.ms.st = .ready) (hj : s.mach.joinRing = some k)
    (hbusy : (s.ring k).busy = some (i, d)) :
    ∃ t, barrierFloor m s = t ∧ s.ended k { status := .ok, info := s.joinInfo } t ∧ t.ms.st = .joined ∧ ∃ x y l p c, t =
      { s with host := x, ms := y, bar := l, net := p, ctr := c, mach := { s.mach with joining := none, floor := floorWord (field m.body 8 8), formed := true, joinRing := none } } := by
  obtain ⟨l, p, c, x, hring, -, joined⟩ := (barrierFloor_released ho hm ht hopc hr hown hup ha hb).2 hw
  obtain ⟨u, hu⟩ : ∃ u : State, u = { s.floorSet (floorWord (field m.body 8 8)) l p c with
      host := x
      mach := { (s.floorSet (floorWord (field m.body 8 8)) l p c).mach with joinRing := none } } := ⟨_, rfl⟩
  have ur : u.ring k = s.ring k := by rw [hu]; exact hring k
  have ums : u.ms = s.ms := by rw [hu]; rfl
  have cms : (u.complete k { status := .ok, info := s.joinInfo }).ms = s.ms := (u.complete_ms k _ (by rw [ums, hst]; decide)).trans ums
  have ended : s.ended k { status := .ok, info := s.joinInfo } (u.complete k { status := .ok, info := s.joinInfo }) :=
    State.complete_ended ur (by rw [hbusy]; rfl)
  have eq := joined k hj
  rw [← hu] at eq
  refine ⟨_, eq, State.ended_goesOn ended (State.enter_goesOn _ _), State.enter_st_eq _ _ (by rw [cms, hst]; rfl), ?_⟩
  obtain ⟨x', y, e⟩ := (u.complete k { status := .ok, info := s.joinInfo }).enter_eq .joined
  obtain ⟨x'', y', e'⟩ := u.complete_eq k { status := .ok, info := s.joinInfo }
  rw [e, e', hu]
  exact ⟨_, _, _, _, _, rfl⟩

end

/-! ### QUIESCE -/

/-- The states from which a module may quiesce. -/
theorem legal_quiesce {m : MState} (h : legal 0x0F m = .accept) : m ≠ .running ∧ m.enters .quiesced = true := by
  cases m <;> revert h <;> decide

/-- A folded run of steps that change only what sending changes. -/
theorem State.netOnly_foldl {α : Type} {f : State → α → State} (h : ∀ (s : State) (x : α), s.netOnly (f s x)) (l : List α) (s : State) :
    s.netOnly (l.foldl f s) :=
  List.foldlRecOn (motive := s.netOnly) l f rfl fun _ ht x _ => State.netOnly_trans ht (h _ x)

/-- SUBSTITUTE toward the members and the spare changes nothing but what sending changes. -/
theorem State.sendSubstitute_netOnly (s : State) (rank pos : Nat) : s.netOnly (s.sendSubstitute rank pos) := by
  unfold State.sendSubstitute
  dsimp only
  obtain ⟨n, c, e⟩ := s.sendAll_eq (s.liveRanks.filter (· != rank) ++ (if s.mach.rank = some rank then [] else [rank])) fun r =>
    controlMsg r s.lossFigures.1 s.lossFigures.2.1 cSubstitute rank pos s.lossFigures.2.2
  rw [e]
  obtain ⟨away, -⟩ := State.sendAway_conveys { s with net := n, ctr := c, mach := { s.mach with ranks := setNth s.mach.ranks rank pos } }
    (controlMsg rank s.lossFigures.1 s.lossFigures.2.1 cSubstitute rank pos s.lossFigures.2.2)
  obtain ⟨n', c', e'⟩ := (State.netOnly_iff _ _).mp away
  rw [e']
  exact (State.netOnly_iff _ _).mpr ⟨n', c', rfl⟩

/-- Handing a rank over leaves it at the spare's position. -/
theorem State.handRank_netOnly (s : State) (rank pos : Nat) :
    State.netOnly { s with mach := { s.mach with ranks := setNth s.mach.ranks rank pos } } (s.handRank rank pos) := by
  obtain ⟨n, c, e⟩ := (State.netOnly_iff _ _).mp (s.sendSubstitute_netOnly rank pos)
  unfold State.handRank
  dsimp only
  rw [e]
  refine State.netOnly_trans (t := { s with net := n, ctr := c, mach := { s.mach with ranks := setNth s.mach.ranks rank pos } })
    ((State.netOnly_iff _ _).mpr ⟨n, c, rfl⟩) (State.netOnly_foldl (fun t o => ?_) _ _)
  exact State.netOnly_trans (t := t.count cPullBytes _) ((State.netOnly_iff _ _).mpr ⟨t.net, _, rfl⟩)
    (State.netOnly_foldl (fun t m => (t.sendAway_conveys m).1) _ _)

/-- A module that leaves completes its QUIESCE and holds no rank. -/
theorem State.leaveMachine_spec {s u : State} {n : Nat} {d : List Byte} (h : s.takes n 0x0F d) (hr : u.ring n = (s.takenUp n).ring n) (hm : u.ms = s.ms) :
    s.answered n d { status := .ok } (u.leaveMachine n) ∧ (u.leaveMachine n).ms.st = .quiesced ∧
      ∃ x y v, u.leaveMachine n = { u with host := x, ms := y, mach := { u.mach with rank := none }, recov := v } := by
  obtain ⟨hrun, henters⟩ := legal_quiesce h.2.2.2.1
  have hms : (u.complete n { status := .ok }).ms = s.ms := (u.complete_ms n _ (by rwa [hm])).trans hm
  have hst := (u.complete n { status := .ok }).enter_st_eq .quiesced (by rwa [hms])
  obtain ⟨posted, idle⟩ := State.answered_complete s u n d { status := .ok } h.1 hr
  have on := (u.complete n { status := .ok }).enter_goesOn .quiesced
  obtain ⟨x, a, e⟩ := u.complete_eq n { status := .ok }
  obtain ⟨x', b, e'⟩ := (u.complete n { status := .ok }).enter_eq .quiesced
  refine ⟨⟨on.2.1 _ _ posted, on.1 n idle⟩, hst, x', { (u.complete n { status := .ok }).ms with st := b }, { u.recov with subst := false }, ?_⟩
  unfold State.leaveMachine
  dsimp only
  rw [e', e]

section
variable {s : State} {n : Nat} {d : List Byte} {v : Survey}

/-- A module without a rank leaves at once. -/
theorem quiesce_spare (h : s.takes n 0x0F d) (hr : s.mach.rank = none) :
    s.answered n d { status := .ok } (quiesce n v s) ∧ (quiesce n v s).ms.st = .quiesced ∧
      ∃ x y r m c, quiesce n v s = { s with host := x, ms := y, mach := { s.mach with rank := none }, recov := r, net := m, ctr := c } := by
  obtain ⟨x, e⟩ := s.takenUp_eq n
  have told : (s.takenUp n).netOnly (if (s.takenUp n).member then (s.takenUp n).sendAll (List.range (s.takenUp n).ranks) (leaveNotice (s.takenUp n).ms.position)
      else s.takenUp n) := by
    split
    · exact ((s.takenUp n).sendAll_conveys _ _).1
    · rfl
  have eq : quiesce n v s = (if (s.takenUp n).member then (s.takenUp n).sendAll (List.range (s.takenUp n).ranks) (leaveNotice (s.takenUp n).ms.position)
      else s.takenUp n).leaveMachine n := by
    unfold quiesce
    rw [State.command_takes s n 0x0F d _ _ h rfl, e]
    simp only [hr]
  obtain ⟨m, c, et⟩ := (State.netOnly_iff _ _).mp told
  rw [eq, et]
  obtain ⟨ans, hst, x', y, r, el⟩ := State.leaveMachine_spec (u := { s.takenUp n with net := m, ctr := c }) h rfl (by rw [e])
  exact ⟨ans, hst, x', y, r, m, c, el.trans (by rw [e])⟩

/-- QUIESCE of a module with a rank reads the recovery register. -/
theorem quiesce_ranked {r : Nat} (h : s.takes n 0x0F d) (hr : s.mach.rank = some r) : quiesce n v s =
    (s.takenUp n).readingRecovery fun t => match s.eligible v r with
      | none => t.complete n { status := .resourceShort }
      | some pos => (t.handRank r pos).leaveMachine n := by
  obtain ⟨x, e⟩ := s.takenUp_eq n
  unfold quiesce
  rw [State.command_takes s n 0x0F d _ _ h rfl, e]
  simp only [hr]
  unfold State.readingRecovery State.reading
  split <;> rfl

theorem State.readingRecovery_ok {s : State} (f : State → State) (h : s.regs.recovery.ok = true) : s.readingRecovery f = f s := by
  unfold State.readingRecovery State.reading
  simp [h]

theorem State.readingRecovery_halts {s : State} (f : State → State) (hl : s.live = true) (h : s.regs.recovery.ok = false) :
    s.haltedFor 0x1 (s.readingRecovery f) := by
  have e : s.readingRecovery f = s.parityHalt 0x00190 0 := by
    unfold State.readingRecovery State.reading
    simp [h, hl]
  rw [e]
  exact State.haltedFor_parityHalt _ _ hl

/-- A recovery register whose parity disagrees halts the module. -/
theorem quiesce_halts {r : Nat} (h : s.takes n 0x0F d) (hr : s.mach.rank = some r) (hp : s.regs.recovery.ok = false) : s.haltedFor 0x1 (quiesce n v s) := by
  obtain ⟨x, e⟩ := s.takenUp_eq n
  rw [quiesce_ranked h hr, e]
  have live : s.live = true := State.live_of_upNext h.1
  exact State.readingRecovery_halts (s := { s with host := x }) _ live hp

/-- An active module without a spare stays. -/
theorem quiesce_short {r : Nat} (h : s.takes n 0x0F d) (hr : s.mach.rank = some r) (hp : s.regs.recovery.ok = true) (he : s.eligible v r = none) :
    s.answered n d { status := .resourceShort } (quiesce n v s) ∧ s.hostOnly (quiesce n v s) := by
  obtain ⟨x, e⟩ := s.takenUp_eq n
  rw [quiesce_ranked h hr, State.readingRecovery_ok _ (by rw [e]; exact hp), he]
  exact State.takenUp_complete h _

/-- An active module with an eligible spare hands its rank over. -/
theorem quiesce_active {r p : Nat} (h : s.takes n 0x0F d) (hr : s.mach.rank = some r) (hp : s.regs.recovery.ok = true) (he : s.eligible v r = some p) :
    s.answered n d { status := .ok } (quiesce n v s) ∧ (quiesce n v s).ms.st = .quiesced ∧ ∃ x y w m c, quiesce n v s =
      { s with host := x, ms := y, mach := { s.mach with rank := none, ranks := setNth s.mach.ranks r p }, recov := w, net := m, ctr := c } := by
  obtain ⟨x, e⟩ := s.takenUp_eq n
  obtain ⟨m, c, eh⟩ := (State.netOnly_iff _ _).mp ((s.takenUp n).handRank_netOnly r p)
  rw [quiesce_ranked h hr, State.readingRecovery_ok _ (by rw [e]; exact hp), he]
  dsimp only
  obtain ⟨ans, hst, x', y, w, el⟩ := State.leaveMachine_spec (u := (s.takenUp n).handRank r p) h (by rw [eh]) (by rw [eh, e])
  exact ⟨ans, hst, x', y, w, m, c, el.trans (by rw [eh, e])⟩

end

/-- Settles O19: each case is the equation of the instruction in that case, from which the unchanged stores are read off. -/
theorem joinAndLeave : Obligations.JoinAndLeave := by
  unfold Obligations.JoinAndLeave
  refine ⟨fun s => ⟨fun n d l h hl => ?_, fun hlive hst n i d hj hb => ?_, fun pos i hlive hst hmap hj => ?_, fun pos i hm hmap => ⟨fun hf hb hp => ?_, fun hp => ?_⟩,
    fun m a b v ho hm ht hopc hr hown hup ha hb => ⟨fun hfull hw => ?_, fun hw => ⟨fun hj => ?_, fun n i d hst hj hbusy => ?_⟩⟩⟩,
    fun s n d v h => ⟨fun hr => ?_, fun r p hr hok he => ?_, fun r hr hok => ?_, fun r hr hok he => ?_⟩⟩
  · obtain ⟨⟨x, b, m, c, e⟩, hd, told⟩ := join_spec h
    refine ⟨_, rfl, ?_⟩
    subst hl
    rw [e] at hd told ⊢
    exact ⟨rfl, rfl, rfl, mem_insertOnce _ _, hd, ⟨rfl, rfl, rfl, rfl, rfl⟩, ⟨rfl, rfl, rfl, rfl⟩, told⟩
  · exact ⟨_, rfl, joinTimeout_spec hlive hst hj hb⟩
  · refine ⟨_, rfl, ?_⟩
    rw [joinTraffic_ready i hlive hst hmap hj]
    exact ⟨mem_insertOnce _ _, rfl, rfl, rfl, ⟨rfl, rfl, rfl, rfl, rfl⟩, ⟨rfl, rfl, rfl, rfl⟩⟩
  · obtain ⟨j, b, n, c, e, own⟩ := joinTraffic_member i hm hmap hf hb hp
    refine ⟨_, rfl, ?_, own, ?_⟩ <;> rw [e]
    · exact mem_insertOnce _ _
    · exact ⟨rfl, ⟨rfl, rfl, rfl, rfl, rfl⟩, ⟨rfl, rfl, rfl, rfl⟩⟩
  · obtain ⟨v, b, n, c, e, own⟩ := joinTraffic_left i hm hmap hp
    refine ⟨_, rfl, ?_, own, ?_⟩ <;> rw [e]
    exact ⟨⟨rfl, rfl, rfl, rfl, rfl⟩, ⟨rfl, rfl, rfl, rfl⟩⟩
  · exact congrArg _ ((barrierFloor_released ho hm ht hopc hr hown hup ha hb).1 hfull hw)
  · obtain ⟨l, n, c, x, -, alone, -⟩ := (barrierFloor_released ho hm ht hopc hr hown hup ha hb).2 hw
    refine ⟨_, rfl, ?_⟩
    rw [alone hj]
    exact ⟨rfl, rfl, rfl, rfl, ⟨rfl, rfl, rfl, rfl, rfl⟩, ⟨rfl, rfl, rfl, rfl⟩⟩
  · obtain ⟨t, e, ended, hst', frame⟩ := barrierFloor_joins ho hm ht hopc hr hown hup ha hb hw hst hj hbusy
    obtain ⟨x, y, l, p, c, rfl⟩ := frame
    refine ⟨_, congrArg Host.Outcome.next e, rfl, rfl, rfl, rfl, hst', ⟨rfl, rfl, rfl, rfl, rfl⟩, ⟨rfl, rfl, rfl, rfl⟩, ended⟩
  · obtain ⟨ans, hst, x, y, w, m, c, e⟩ := quiesce_spare (v := v) h hr
    refine ⟨_, rfl, ans, hst, ?_⟩
    rw [e]
    exact ⟨rfl, ⟨rfl, rfl, rfl, rfl, rfl⟩, ⟨rfl, rfl, rfl, rfl⟩⟩
  · obtain ⟨ans, hst, x, y, w, m, c, e⟩ := quiesce_active h hr hok he
    refine ⟨_, rfl, ans, hst, ?_⟩
    rw [e]
    exact ⟨rfl, rfl, ⟨rfl, rfl, rfl, rfl, rfl⟩, ⟨rfl, rfl, rfl, rfl⟩⟩
  · exact ⟨_, rfl, quiesce_halts h hr hok⟩
  · exact ⟨_, rfl, quiesce_short h hr hok he⟩

end Sys2Proof.Machine
end

section
/-! PROOFS. SUBSTITUTE: the rank's new position on a member and on the spare (11 R274, R279, R281, R283, R289, R291). -/

namespace Sys2Proof.Machine

open Sys2Proof

/-! ### What a substitution leaves in place -/

/-- On the way from `s` to `t` the module has kept its place in the machine, its program, its stores beside memory, its levels and the step. -/
structure State.stands (s t : State) : Prop where
  mach : t.mach = s.mach
  prog : t.prog = s.prog
  nor : t.nor = s.nor
  fuse : t.fuse = s.fuse
  fw : t.ms.fw = s.ms.fw
  stepNo : t.st.stepNo = s.st.stepNo

theorem State.stands_refl (s : State) : s.stands s := ⟨rfl, rfl, rfl, rfl, rfl, rfl⟩

theorem State.stands.trans {s t u : State} (h : s.stands t) (k : t.stands u) : s.stands u :=
  ⟨k.mach.trans h.mach, k.prog.trans h.prog, k.nor.trans h.nor, k.fuse.trans h.fuse, k.fw.trans h.fw, k.stepNo.trans h.stepNo⟩

theorem State.stands_of_netOnly {s t : State} (h : s.netOnly t) : s.stands t := by
  obtain ⟨n, c, rfl⟩ := (State.netOnly_iff s t).mp h
  exact ⟨rfl, rfl, rfl, rfl, rfl, rfl⟩

theorem State.stands_of_boundary {s t : State} (h : s.boundary t) : s.stands t := by
  rw [← h.1]
  exact ⟨rfl, rfl, rfl, rfl, rfl, rfl⟩

theorem State.stands_foldl {α : Type} {f : State → α → State} (h : ∀ (s : State) (x : α), s.stands (f s x)) (l : List α) (s : State) : s.stands (l.foldl f s) :=
  List.foldlRecOn (motive := s.stands) l f s.stands_refl fun _ ht x _ => ht.trans (h _ x)

/-! ### Migrations undone -/

/-- `x` differs from `y` in what a migration that is undone changes. -/
structure StepState.undone (y x : StepState) : Prop where
  stepNo : x.stepNo = y.stepNo
  run : x.run = y.run
  evals : x.evals = y.evals

/-- Migrations that are undone change the state of the step only. -/
theorem State.undoFrom_eq (s : State) (owners : List Nat) : ∃ x, s.undoFrom owners = { s with st := x } ∧ s.st.undone x := by
  have fold : ∀ {α : Type} (f : State → α → State) (_ : ∀ (s : State) (e : α), ∃ x, f s e = { s with st := x } ∧ s.st.undone x) (l : List α) (s : State),
      ∃ x, l.foldl f s = { s with st := x } ∧ s.st.undone x := fun f hf l s =>
    List.foldlRecOn (motive := fun t : State => ∃ x, t = { s with st := x } ∧ s.st.undone x) l f ⟨s.st, rfl, rfl, rfl, rfl⟩ fun t ⟨x, ht, hx⟩ e _ => by
      obtain ⟨y, ey, hy⟩ := hf t e
      subst ht
      exact ⟨y, ey, hy.stepNo.trans hx.stepNo, hy.run.trans hx.run, hy.evals.trans hx.evals⟩
  unfold State.undoFrom
  dsimp only
  obtain ⟨x, ex, hx⟩ := fold (fun (s : State) (e : Nat × Nat) => s.forgetRow e.1) (fun s e => ⟨_, rfl, rfl, rfl, rfl⟩) (s.st.landed.filter fun e => owners.contains e.2) s
  rw [ex]
  obtain ⟨y, ey, hy⟩ := fold (fun (s : State) (e : Nat × Nat × Nat) => { s with st := { s.st with migMap := s.mapWith s.st.migMap e.1 e.2.1 } })
    (fun s e => ⟨_, rfl, rfl, rfl, rfl⟩) (s.st.installed.filter fun e => owners.contains e.2.1) { s with st := x }
  rw [ey]
  exact ⟨_, rfl, hy.stepNo.trans hx.stepNo, hy.run.trans hx.run, hy.evals.trans hx.evals⟩

/-- A MIGRATE of this module that is undone completes; beside the step's state only what completing and sending change has changed. -/
theorem State.undoMine_eq (s : State) (a : Act) : ∃ x y n c w v, s.undoMine a =
    { s with host := x, ms := { s.ms with st := y }, net := n, ctr := c, mir := { s.mir with waiting := w }, st := v } ∧ s.st.undone v := by
  unfold State.undoMine
  dsimp only
  generalize hu : State.mk _ _ _ _ _ _ _ _ _ _ _ _ _ _ _ _ _ _ _ _ _ _ _ _ _ _ = u
  obtain ⟨n, c, e⟩ := u.freeRoom_eq u.others
  obtain ⟨x, y, e'⟩ := (u.freeRoom u.others).complete_eq a.ring { status := .peerLost, step := s.st.stepNo }
  rw [e', e, ← hu]
  exact ⟨x, y, n, c, _, _, rfl, rfl, rfl, rfl⟩

theorem State.undoMigrations_stands (s : State) (rank : Nat) : s.stands (s.undoMigrations rank) := by
  obtain ⟨x, e, hx⟩ := s.undoFrom_eq (s.brokenMigrations rank)
  rw [State.undoMigrations, e]
  exact ⟨rfl, rfl, rfl, rfl, rfl, hx.stepNo⟩

theorem State.undoMine_stands (s : State) (a : Act) : s.stands (s.undoMine a) := by
  obtain ⟨x, y, n, c, w, v, e, hv⟩ := s.undoMine_eq a
  rw [e]
  exact ⟨rfl, rfl, rfl, rfl, rfl, hv.stepNo⟩

theorem State.endMigrate_stands (s : State) : s.stands s.endMigrate := by
  unfold State.endMigrate
  split
  · exact s.stands_refl
  · next a _ =>
    have copied := s.copyWith_copies (s.leaveRows (s.moving a.payload)).carriedBytes [] [(a.ring, (s.moving a.payload).length, s.st.stepNo)]
    exact (State.stands.trans (t := s.write s.tailRegion.base (s.leaveRows (s.moving a.payload)).carriedBytes) ⟨rfl, rfl, rfl, rfl, rfl, rfl⟩
      (State.stands_of_boundary (State.boundary_of_copies copied)))

theorem State.settleMigrate_stands (s : State) (rank : Nat) : s.stands (s.settleMigrate rank) := by
  unfold State.settleMigrate
  split
  · exact s.stands_refl
  · split
    · exact s.undoMine_stands _
    · have waits : s.stands { s with st := { s.st with installWait := s.st.installWait.filter (· != rank) } } := ⟨rfl, rfl, rfl, rfl, rfl, rfl⟩
      dsimp only
      split
      · exact waits.trans (State.endMigrate_stands _)
      · exact waits

/-! ### A member -/

theorem State.dropReplicas_stands (s : State) (rank : Nat) : s.stands (s.dropReplicas rank) := by
  unfold State.dropReplicas
  split <;> exact ⟨rfl, rfl, rfl, rfl, rfl, rfl⟩

theorem State.sends_stands (s : State) (l : List Msg) : s.stands (l.foldl State.send s) :=
  State.stands_foldl (fun t m => State.stands_of_netOnly (t.send_conveys m).1) l s

/-- The part of a module that has lost a sled-mate reaches the spare. -/
theorem State.reaches_stands (u : State) (rank j : Nat) : u.stands
    (let s := { u with recov := { u.recov with exposed := true, exposedAt := some rank, noSpare := true } }
    if s.mir.acks.any fun a => a.part == j && !a.acked then s.sendPart 3 j
    else (partMsgs 3 s.st.stepNo s.attempt j s.rank rank []).foldl State.send s) := by
  have exposed : u.stands { u with recov := { u.recov with exposed := true, exposedAt := some rank, noSpare := true } } := ⟨rfl, rfl, rfl, rfl, rfl, rfl⟩
  dsimp only
  split
  · exact exposed.trans (State.stands_of_boundary (State.boundary_of_copies (State.sendPart_copies _ _ _)))
  · exact exposed.trans (State.sends_stands _ _)

theorem State.handOver_stands (s : State) (rank : Nat) (planned : Bool) : s.stands (s.handOver rank planned) := by
  unfold State.handOver
  dsimp only
  split
  · exact s.stands_refl
  · next j _ =>
    have stored : s.stands s.storeCarried := ⟨rfl, rfl, rfl, rfl, rfl, rfl⟩
    have parts : ∀ n, s.stands (if planned then s.storeCarried else (s.storeCarried.ownPartMsgs rank j).foldl State.send (s.storeCarried.count cPullBytes n)) := fun n => by
      split
      · exact stored
      · exact stored.trans (State.stands.trans (t := s.storeCarried.count cPullBytes n) ⟨rfl, rfl, rfl, rfl, rfl, rfl⟩ (State.sends_stands _ _))
    exact (parts _).trans (State.reaches_stands _ rank j)

theorem State.memberSubstitutes_stands (s : State) (rank : Nat) (planned : Bool) : s.stands (s.memberSubstitutes rank planned) := by
  unfold State.memberSubstitutes
  split
  · exact s.stands_refl
  · exact (((s.undoMigrations_stands rank).trans (State.settleMigrate_stands _ rank)).trans (State.dropReplicas_stands _ rank)).trans
      (State.handOver_stands _ rank planned)

theorem State.sendHome_stands (s : State) (c : Nat) (only : Option Nat) : s.stands (s.sendHome c only) := by
  refine State.stands_foldl (fun t e => ?_) _ s
  dsimp only
  split
  · split
    · exact State.stands_of_netOnly (t.send_conveys _).1
    · exact t.stands_refl
  · exact t.stands_refl

theorem State.remindHash_stands (s : State) (r : Nat) : s.stands (s.remindHash r) := by
  refine State.stands_foldl (fun t h => ?_) _ s
  split
  · dsimp only
    refine State.stands.trans (State.stands.trans (State.stands_of_netOnly (t.send_conveys (hashMsg r h.step 4 [])).1) ?_) (State.sendHome_stands _ _ _)
    split
    · exact State.stands_of_netOnly (State.send_conveys _ _).1
    · exact State.stands_refl _
  · exact t.stands_refl

/-! ### The end of a SUBSTITUTE -/

/-- Arriving at another barrier leaves the FLOOR barrier. -/
theorem State.setBarrier_floor (s : State) {kind : Nat} (h : kind ≠ 3) (b : Barrier) : (s.setBarrier kind b).barrier 3 = s.barrier 3 := by
  simp [State.barrier, State.setBarrier, h.symm]

theorem State.gatherBarrier_floor (s : State) {kind : Nat} (h : kind ≠ 3) : (s.gatherBarrier kind).barrier 3 = s.barrier 3 := by
  have sent : ∀ (b : Barrier) (m : Msg), ((s.setBarrier kind b).send m).barrier 3 = s.barrier 3 := fun b m => by
    obtain ⟨n, c, e⟩ := (s.setBarrier kind b).send_eq m
    rw [e]
    exact s.setBarrier_floor h b
  unfold State.gatherBarrier
  dsimp only
  split
  · rfl
  · split
    · split <;> exact sent _ _
    · rfl

theorem State.arrive_floor (s : State) {kind : Nat} (h : kind ≠ 3) (step attempt value : Nat) : (s.arrive kind step attempt value).barrier 3 = s.barrier 3 :=
  (State.gatherBarrier_floor _ h).trans (s.setBarrier_floor h _)

theorem State.tryBegin_floor (s : State) : s.tryBegin.barrier 3 = s.barrier 3 := by
  have started : s.arriveStart.barrier 3 = s.barrier 3 := by
    unfold State.arriveStart
    split
    · rfl
    · split
      · exact State.arrive_floor { s with wd := some .stepStart } (by decide) _ _ _
      · rfl
  refine Eq.trans ?_ started
  unfold State.tryBegin State.tryWindow
  split
  · exact State.arrive_floor (State.mk _ _ _ _ _ _ _ _ _ _ _ _ _ _ _ _ _ _ _ _ _ _ _ _ _ _) (by decide) _ _ _
  · rfl

/-- The end of a SUBSTITUTE: it is told and answered, and the members form the floor. -/
def State.substituted (u : State) (m : Msg) (old : Nat) : State :=
  ((u.postSubstituted (field m.body 6 2) old (field m.body 8 2) (field m.body 10 4) (field m.body 0 4)).answerControl m).formFloor.retryUnrouted.tryBegin

theorem State.substituted_spec (u : State) (m : Msg) (old : Nat) : (∃ x b n c w v, u.substituted m old =
      { u with host := x, bar := b, net := n, ctr := c, wd := w, st := { u.st with windowShut := v } }) ∧
    (u.substituted m old).tells evSubstituted (leBytes 2 (field m.body 6 2) ++ leBytes 2 old ++ leBytes 2 (field m.body 8 2) ++ zeros 2 ++
      leBytes 4 (field m.body 10 4) ++ leBytes 4 (field m.body 0 4)) ∧
    ((u.substituted m old).barrier 3).own = some (0, 0, u.levels) := by
  unfold State.substituted
  have told := u.post_tells evSubstituted (leBytes 2 (field m.body 6 2) ++ leBytes 2 old ++ leBytes 2 (field m.body 8 2) ++ zeros 2 ++
      leBytes 4 (field m.body 10 4) ++ leBytes 4 (field m.body 0 4))
  obtain ⟨x, e⟩ := u.post_eq evSubstituted (leBytes 2 (field m.body 6 2) ++ leBytes 2 old ++ leBytes 2 (field m.body 8 2) ++ zeros 2 ++
      leBytes 4 (field m.body 10 4) ++ leBytes 4 (field m.body 0 4))
  unfold State.postSubstituted
  rw [e] at told ⊢
  obtain ⟨⟨n, c, e1⟩, -⟩ := State.answerControl_spec { u with host := x } m
  rw [e1]
  obtain ⟨⟨b, n2, c2, e2⟩, own⟩ := State.formFloor_spec { u with host := x, net := n, ctr := c }
  rw [e2] at own ⊢
  obtain ⟨n3, c3, e3⟩ := (State.netOnly_iff _ _).mp (State.retryUnrouted_conveys { u with host := x, net := n2, ctr := c2, bar := b }).1
  rw [e3]
  have floor := State.tryBegin_floor { u with host := x, net := n3, ctr := c3, bar := b }
  obtain ⟨b', n4, c4, w, v, e4⟩ := State.tryBegin_eq { u with host := x, net := n3, ctr := c3, bar := b }
  rw [e4] at floor ⊢
  exact ⟨⟨x, b', n4, c4, w, v, rfl⟩, told, (congrArg Barrier.own floor).trans own⟩

/-! ### The spare -/

/-- Zeros stored leave no byte but zero where they go, whatever their order. -/
theorem State.byte_writeAll_zero {l : List (Nat × List Byte)} {a : Nat} (hz : ∀ w ∈ l, ∀ b ∈ w.2, b = 0) (s : State)
    (h : s.byte a = 0 ∨ ∃ w ∈ l, w.1 ≤ a ∧ a < w.1 + w.2.length) : (s.writeAll l).byte a = 0 := by
  induction l generalizing s with
  | nil => exact h.elim id fun ⟨w, hw, _⟩ => absurd hw List.not_mem_nil
  | cons w l ih =>
    refine ih (fun x hx => hz x (List.mem_cons_of_mem w hx)) (s.write w.1 w.2) ?_
    by_cases inside : w.1 ≤ a ∧ a < w.1 + w.2.length
    · left
      have stored := s.byte_write_inside w.1 w.2 (a - w.1) (by omega)
      rw [Nat.add_sub_cancel' inside.1] at stored
      exact stored.trans (hz w List.mem_cons_self _ (List.getElem_mem _))
    · rw [State.byte_write_outside _ _ _ _ (by omega)]
      refine h.imp id fun ⟨x, hx, hin⟩ => ⟨x, (List.mem_cons.mp hx).resolve_left fun e => inside (e ▸ hin), hin⟩

/-- Bytes that no run of a list covers stay. -/
theorem State.byte_writeAll_outside {l : List (Nat × List Byte)} {a : Nat} (s : State) (h : ∀ w ∈ l, a < w.1 ∨ w.1 + w.2.length ≤ a) :
    (s.writeAll l).byte a = s.byte a := by
  induction l generalizing s with
  | nil => rfl
  | cons w l ih => exact (ih (s.write w.1 w.2) fun x hx => h x (List.mem_cons_of_mem w hx)).trans (s.byte_write_outside _ _ _ (h w List.mem_cons_self))

/-- The mirror regions of a module. -/
def State.mirrorRegions (s : State) : List Region := (s.holders s.rank).map fun o => { base := s.mirrorBase o, len := s.heldLen ((s.partHeld o).getD 0) }

/-- Clearing the mirror regions stores zeros in each. -/
theorem State.clearMirrors_eq (s : State) : s.clearMirrors = s.writeAll (s.mirrorRegions.map fun x => (x.base, zeros x.len)) := by
  have fold : ∀ (l : List Nat) (t : State), (∃ m, t = { s with mem := m }) →
      l.foldl (fun s o => s.write (s.mirrorBase o) (zeros (s.heldLen ((s.partHeld o).getD 0)))) t =
        t.writeAll (l.map fun o => (s.mirrorBase o, zeros (s.heldLen ((s.partHeld o).getD 0)))) := by
    intro l
    induction l with
    | nil => exact fun t _ => rfl
    | cons o l ih =>
      rintro t ⟨m, rfl⟩
      exact ih _ ⟨_, rfl⟩
  unfold State.clearMirrors State.mirrorRegions
  rw [fold _ s ⟨s.mem, rfl⟩, List.map_map]
  rfl

/-- The loader's placement for a rank. -/
def Program.placeOf (p : Program) (rank : Nat) : Placement := ((p.spares.find? fun e => e.1 == rank).map (·.2)).getD p.place

/-- The program with the loader's placement for a rank in force. -/
def Program.placed (p : Program) (rank : Nat) : Program :=
  { p with place := p.placeOf rank, shared := ((p.placeOf rank).partTable, ownerTable p.decl) :: p.shared.drop 1 }

theorem State.placeRank_some {s : State} {p : Program} (h : s.prog = some p) (rank : Nat) :
    s.placeRank rank = State.write { s with prog := some (p.placed rank) } (p.placeOf rank).partTable (ownerTable p.decl) := by
  unfold State.placeRank
  rw [h]
  rfl

theorem State.placeRank_eq (s : State) (rank : Nat) : ∃ m q, s.placeRank rank = { s with mem := m, prog := q } := by
  unfold State.placeRank
  split
  · exact ⟨s.mem, s.prog, rfl⟩
  · exact ⟨_, _, rfl⟩

/-- The spare with the rank and the step that it takes, its mirror regions not cleared yet. -/
def State.ranked (s : State) (rank step attempt committed : Nat) : State :=
  { s with
    mach := { s.mach with rank := some rank }
    net := { s.net with
      msgid := []
      dup := []
      dropped := [] }
    recov := { s.recov with
      subst := true
      remirror := true
      noSpare := true }
    st := { s.st with
      stepNo := step
      committed := some committed
      completed := some committed
      lastAttempt := if attempt = 0 then none else some (step, (attempt + 255) % 256)
      owedReplays := if s.st.lastAttempt.elim false fun x => x.1 == step then s.st.owedReplays else 0 } }

/-- The pulls of every part of a rank's image. -/
def State.rankPulls (s : State) (rank : Nat) : List Pull := (List.range (s.holders rank).length).map fun j => {
  owner := rank
  part := j
  holder := nth 0 (s.holders rank) j
  again := false
  repair := false
  fin := false }

section
variable (s : State) (rank step attempt committed : Nat)

/-- The spare that takes a rank, placed, with its mirror regions still to be cleared. -/
def State.placedAt : State := ((s.undoMigrations rank).placeRank rank).ranked rank step attempt committed

theorem State.placedAt_eq : ∃ m q x, s.placedAt rank step attempt committed =
    State.ranked { s with mem := m, prog := q, st := x } rank step attempt committed := by
  obtain ⟨x, e, -⟩ := s.undoFrom_eq (s.brokenMigrations rank)
  obtain ⟨m, q, e'⟩ := (s.undoMigrations rank).placeRank_eq rank
  rw [State.placedAt, e', State.undoMigrations, e]
  exact ⟨m, q, x, rfl⟩

/-- The spare that takes a rank: placed, its mirror regions cleared, every part of the rank's image asked for. -/
theorem State.takeRank_eq : ∃ n c, s.takeRank rank step attempt committed = { s.placedAt rank step attempt committed with
    mem := ((s.placedAt rank step attempt committed).writeAll ((s.placedAt rank step attempt committed).mirrorRegions.map fun x => (x.base, zeros x.len))).mem
    mir := { (s.placedAt rank step attempt committed).mir with held := [], pulls := s.rankPulls rank }
    net := n
    ctr := c } := by
  have cleared := (s.placedAt rank step attempt committed).clearMirrors_eq
  rw [State.writeAll_eq] at cleared
  have pulls : (s.placedAt rank step attempt committed).rankPulls rank = s.rankPulls rank := by
    obtain ⟨m, q, x, e⟩ := s.placedAt_eq rank step attempt committed
    rw [e]
    rfl
  have eq : s.takeRank rank step attempt committed =
      (List.range ((s.placedAt rank step attempt committed).clearMirrors.holders rank).length).foldl
        (fun t j => t.askPull j (nth 0 ((s.placedAt rank step attempt committed).clearMirrors.holders rank) j))
        { (s.placedAt rank step attempt committed).clearMirrors with mir := { (s.placedAt rank step attempt committed).clearMirrors.mir with
          held := [], pulls := (s.placedAt rank step attempt committed).clearMirrors.rankPulls rank } } := rfl
  generalize s.placedAt rank step attempt committed = v at cleared pulls eq ⊢
  have asked : ∀ (l : List Nat) (t : State) (h : Nat → Nat), t.netOnly (l.foldl (fun t j => t.askPull j (h j)) t) := fun l t h =>
    State.netOnly_foldl (fun t j => (t.send_conveys _).1) l t
  rw [cleared] at eq
  obtain ⟨n, c, e⟩ := (State.netOnly_iff _ _).mp (asked _ _ _)
  refine ⟨n, c, (eq.trans e).trans ?_⟩
  rw [← pulls]
  rfl

variable {s rank step attempt committed}

/-- The spare's memory: the owner table at its place, then zeros in the mirror regions, and nothing else. -/
theorem State.takeRank_memory {p : Program} {ms : List Region} {t : State} (hp : s.prog = some p) (ht : t.mem = (s.takeRank rank step attempt committed).mem)
    (hms : ms = (s.takeRank rank step attempt committed).mirrorRegions) :
    s.outside t ({ base := (p.placeOf rank).partTable, len := (ownerTable p.decl).length } :: ms) ∧ (∀ x ∈ ms, ∀ i < x.len, t.byte (x.base + i) = 0) ∧
      ((∀ x ∈ ms, overlaps x { base := (p.placeOf rank).partTable, len := (ownerTable p.decl).length } = false) →
        t.read (p.placeOf rank).partTable (ownerTable p.decl).length = ownerTable p.decl) := by
  obtain ⟨n, c, e⟩ := s.takeRank_eq rank step attempt committed
  have hv : (s.placedAt rank step attempt committed).mem = (s.write (p.placeOf rank).partTable (ownerTable p.decl)).mem := by
    obtain ⟨x, e, -⟩ := s.undoFrom_eq (s.brokenMigrations rank)
    rw [State.placedAt, State.undoMigrations, e, State.placeRank_some (s := { s with st := x }) hp]
    rfl
  have regions : ms = (s.placedAt rank step attempt committed).mirrorRegions := by rw [hms, e]; rfl
  have mem : t.mem = ((s.write (p.placeOf rank).partTable (ownerTable p.decl)).writeAll (ms.map fun x => (x.base, zeros x.len))).mem := by
    rw [ht, e, regions]
    exact State.writeAll_mem_congr hv
  have byte : ∀ a, t.byte a = ((s.write (p.placeOf rank).partTable (ownerTable p.decl)).writeAll (ms.map fun x => (x.base, zeros x.len))).byte a :=
    fun a => by rw [State.byte, mem]
  refine ⟨fun a ha => ?_, fun x hx i hi => ?_, fun hd => ?_⟩
  · rw [byte, State.byte_writeAll_outside _ fun w hw => ?_]
    · exact State.byte_write_outside _ _ _ _ (ha _ List.mem_cons_self)
    · obtain ⟨x, hx, rfl⟩ := List.mem_map.mp hw
      simpa [zeros] using ha x (List.mem_cons_of_mem _ hx)
  · rw [byte]
    refine State.byte_writeAll_zero (fun w hw b hb => ?_) _ (.inr ⟨(x.base, zeros x.len), List.mem_map.mpr ⟨x, hx, rfl⟩, by simp, by simp [zeros, hi]⟩)
    obtain ⟨y, -, rfl⟩ := List.mem_map.mp hw
    exact List.eq_of_mem_replicate hb
  · rw [State.read, mem]
    refine (State.read_writeAll_disjoint fun w hw => ?_).trans (State.read_write _ _ _)
    obtain ⟨x, hx, rfl⟩ := List.mem_map.mp hw
    have apart := overlaps_eq_false.mp (hd x hx)
    dsimp only at apart
    rw [overlaps_eq_false]
    simp only [zeros, List.length_replicate]
    omega

end

/-! ### SUBSTITUTE -/

section
variable {s : State} {m : Msg} (h : s.control cSubstitute m = true)
include h

/-- A module named as moved away halts. -/
theorem substitute_moved (hr : s.mach.rank = some (field m.body 6 2)) (hp : s.ms.position ≠ field m.body 8 2) : s.haltedFor 0x8 (substitute m s) := by
  obtain ⟨n, e⟩ := s.took_eq m
  have live : s.live = true := State.live_of_member (State.control_iff h).1
  have eq : substitute m s = (s.took m).halt 0x8 0x37 := by
    unfold substitute
    rw [if_neg (by simp [h])]
    exact if_pos ⟨hr, hp⟩
  rw [eq, e]
  exact State.haltedFor_halt (s := { s with net := n }) 0x8 0x37 live

/-- While the hold for events is full, and before the ABORT has come, it waits. -/
theorem substitute_waits (hk : s.mach.rank ≠ some (field m.body 6 2) ∨ s.ms.position = field m.body 8 2)
    (hw : s.holdFull = true ∨ (s.mach.rank = none ∧ s.ms.position = field m.body 8 2 ∧ s.abortFirst m = true)) : substitute m s = s := by
  unfold substitute
  rw [if_neg (by simp [h])]
  have waits : (s.holdFull || ((s.mach.rank.isNone && s.ms.position == field m.body 8 2) && s.abortFirst m)) = true := by
    rcases hw with hw | ⟨hr, hp, ha⟩
    · simp [hw]
    · simp [hr, hp, ha]
  exact (if_neg (by tauto)).trans (if_pos waits)

section
variable (hk : s.mach.rank ≠ some (field m.body 6 2) ∨ s.ms.position = field m.body 8 2) (hf : s.holdFull = false)
  (ha : s.mach.rank = none → s.ms.position = field m.body 8 2 → s.abortFirst m = false)
include hk hf ha

/-- Otherwise it is taken. -/
theorem substitute_taken : substitute m s = (
    if (s.took m).ranks ≤ field m.body 6 2 ∨ nth 0 s.mach.ranks (field m.body 6 2) = field m.body 8 2 then (s.took m).answerControl m
    else
      let t := if (s.took m).begunAttempt.isNone then (s.took m).tellSpare m else s.took m
      let t := (t.installRank (field m.body 6 2) (field m.body 8 2)).count cSubstitutions 1
      State.substituted (if s.mach.rank.isNone && s.ms.position == field m.body 8 2 then
        t.takeRank (field m.body 6 2) (field m.body 0 4) (field m.body 4 1) (field m.body 10 4)
        else (t.memberSubstitutes (field m.body 6 2) (m.src == field m.body 6 2)).remindHash (field m.body 6 2)) m (nth 0 s.mach.ranks (field m.body 6 2))) := by
  have goes : ¬ (s.holdFull || ((s.mach.rank.isNone && s.ms.position == field m.body 8 2) && s.abortFirst m)) = true := by
    cases hr : s.mach.rank with
    | none =>
      by_cases hp : s.ms.position = field m.body 8 2
      · simp [hf, ha hr hp]
      · simp [hf, hp]
    | some r => simp [hf]
  unfold substitute
  rw [if_neg (by simp [h])]
  exact (if_neg (by tauto)).trans (if_neg goes)

/-- A rank beyond the machine's, or one already there, is only answered. -/
theorem substitute_answers (hn : s.ranks ≤ field m.body 6 2 ∨ nth 0 s.mach.ranks (field m.body 6 2) = field m.body 8 2) :
    s.netOnly (substitute m s) ∧ s.emits (substitute m s) (controlMsg m.src (field m.body 0 4) (field m.body 4 1) cAck s.rank 0 0) := by
  obtain ⟨n, e⟩ := s.took_eq m
  have live : s.live = true := State.live_of_member (State.control_iff h).1
  have sent := s.took_sent m
  rw [substitute_taken h hk hf ha, if_pos (by rw [e]; exact hn)]
  rw [e] at sent ⊢
  obtain ⟨⟨n', c, e'⟩, -, told⟩ := State.answerControl_spec { s with net := n } m
  refine ⟨?_, State.emits_of_goesOn (State.goesOn_of_same (t := { s with net := n }) rfl sent) (told live)⟩
  rw [e']
  exact (State.netOnly_iff _ _).mpr ⟨n', c, rfl⟩

/-- Otherwise the rank's new position is installed. -/
theorem substitute_installs (hlt : field m.body 6 2 < s.ranks) (hne : nth 0 s.mach.ranks (field m.body 6 2) ≠ field m.body 8 2) : ∃ n c u,
    u = State.installRank { s with net := n, ctr := c } (field m.body 6 2) (field m.body 8 2) ∧ ∃ c',
    substitute m s = State.substituted (if s.mach.rank.isNone && s.ms.position == field m.body 8 2 then
        State.takeRank { u with ctr := c' } (field m.body 6 2) (field m.body 0 4) (field m.body 4 1) (field m.body 10 4)
        else (State.memberSubstitutes { u with ctr := c' } (field m.body 6 2) (m.src == field m.body 6 2)).remindHash (field m.body 6 2)) m
        (nth 0 s.mach.ranks (field m.body 6 2)) := by
  obtain ⟨n, e⟩ := s.took_eq m
  rw [substitute_taken h hk hf ha, if_neg (by rw [e]; exact fun hx => hx.elim (fun hx => absurd hlt (Nat.not_lt.mpr hx)) hne)]
  obtain ⟨n', c, e'⟩ : ∃ n c, (if (s.took m).begunAttempt.isNone then (s.took m).tellSpare m else s.took m) = { s with net := n, ctr := c } := by
    rw [e]
    split
    · exact State.tellSpare_eq { s with net := n } m
    · exact ⟨n, s.ctr, rfl⟩
  dsimp only
  rw [e']
  exact ⟨n', c, _, rfl, _, rfl⟩

end

end

/-- A rank's new position installed: the ranks section, the FLOOR barrier, the event, and the stores beside memory. -/
def State.installed (s : State) (m : Msg) (t : State) : Prop :=
  nth 0 t.mach.ranks (field m.body 6 2) = field m.body 8 2 ∧ (∀ j, j ≠ field m.body 6 2 → nth 0 t.mach.ranks j = nth 0 s.mach.ranks j) ∧
  (t.barrier 3).own = some (0, 0, s.levels) ∧
  t.tells evSubstituted (leBytes 2 (field m.body 6 2) ++ leBytes 2 (nth 0 s.mach.ranks (field m.body 6 2)) ++ leBytes 2 (field m.body 8 2) ++ zeros 2 ++
    leBytes 4 (field m.body 10 4) ++ leBytes 4 (field m.body 0 4)) ∧ t.nor = s.nor ∧ t.fuse = s.fuse

/-- The end of a SUBSTITUTE shows the new position, on a member and on the spare. -/
theorem State.substituted_installed {s v : State} {m : Msg} (hlt : field m.body 6 2 < s.ranks)
    (hr : v.mach.ranks = setNth s.mach.ranks (field m.body 6 2) (field m.body 8 2)) (hn : v.nor = s.nor) (hu : v.fuse = s.fuse) (hw : v.ms.fw = s.ms.fw) :
    s.installed m (v.substituted m (nth 0 s.mach.ranks (field m.body 6 2))) := by
  have spec := v.substituted_spec m (nth 0 s.mach.ranks (field m.body 6 2))
  unfold State.installed
  generalize v.substituted m (nth 0 s.mach.ranks (field m.body 6 2)) = t at spec ⊢
  obtain ⟨⟨x, b, n, c, w, y, e⟩, told, own⟩ := spec
  have ranks : t.mach.ranks = setNth s.mach.ranks (field m.body 6 2) (field m.body 8 2) := by rw [e]; exact hr
  have levels : v.levels = s.levels := by unfold State.levels; rw [hw]
  refine ⟨?_, fun j hj => ?_, levels ▸ own, told, ?_, ?_⟩
  · rw [ranks]
    exact nth_setNth_self 0 hlt _
  · rw [ranks]
    exact nth_setNth_ne 0 _ (Ne.symm hj) _
  · rw [e]
    exact hn
  · rw [e]
    exact hu

/-- The mirror regions of rank `k`, as the spare that takes it has them. -/
theorem State.mirrorRegions_of_rank {s : State} {k : Nat} (h : s.mach.rank = some k) :
    s.mirrorRegions = (s.holders k).map fun o => { base := s.mirrorBase o, len := s.heldLen ((s.partHeld o).getD 0) } := by
  rw [State.mirrorRegions, State.rank, h]
  rfl

/-- What the spare that takes a rank shows. -/
theorem State.takeRank_shows {u t : State} {rank step attempt committed : Nat} {x : HostSide} {b : List Barrier} {n : Net} {c : Counters} {w : Option WaitPoint} {y : Bool}
    (h : t = { u.takeRank rank step attempt committed with
      host := x, bar := b, net := n, ctr := c, wd := w, st := { (u.takeRank rank step attempt committed).st with windowShut := y } }) :
    t.mach.rank = some rank ∧ t.st.stepNo = step ∧ t.st.committed = some committed ∧
      t.mir.pulls.map (fun p => (p.owner, p.part)) = (List.range (t.holders rank).length).map (fun j => (rank, j)) ∧ t.recov.subst = true ∧ t.recov.remirror = true ∧
      ∀ p, u.prog = some p → t.prog = some (p.placed rank) := by
  obtain ⟨m', c', e⟩ := u.takeRank_eq rank step attempt committed
  obtain ⟨mm, q, z, ep⟩ := u.placedAt_eq rank step attempt committed
  have prog : ∀ p, u.prog = some p → (u.placedAt rank step attempt committed).prog = some (p.placed rank) := fun p hp => by
    obtain ⟨z, ez, -⟩ := u.undoFrom_eq (u.brokenMigrations rank)
    rw [State.placedAt, State.undoMigrations, ez, State.placeRank_some (s := { u with st := z }) hp]
    rfl
  rw [h, e]
  refine ⟨?_, ?_, ?_, ?_, ?_, ?_, prog⟩ <;> rw [ep]
  · rfl
  · rfl
  · rfl
  · show (u.rankPulls rank).map _ = _
    rw [State.rankPulls, List.map_map]
    rfl
  · rfl
  · rfl

section
variable {s : State} {m : Msg} (h : s.control cSubstitute m = true)
  (hk : s.mach.rank ≠ some (field m.body 6 2) ∨ s.ms.position = field m.body 8 2) (hf : s.holdFull = false)
  (ha : s.mach.rank = none → s.ms.position = field m.body 8 2 → s.abortFirst m = false)
  (hlt : field m.body 6 2 < s.ranks) (hne : nth 0 s.mach.ranks (field m.body 6 2) ≠ field m.body 8 2)
include h hk hf ha hlt hne

/-- On another member the module keeps its own rank, its step and its program. -/
theorem substitute_member (hm : s.mach.rank.isSome = true ∨ s.ms.position ≠ field m.body 8 2) : s.installed m (substitute m s) ∧
    (substitute m s).mach.rank = s.mach.rank ∧ (substitute m s).st.stepNo = s.st.stepNo ∧ (substitute m s).prog = s.prog := by
  obtain ⟨n, c, u, hu, c', e⟩ := substitute_installs h hk hf ha hlt hne
  have other : ¬ (s.mach.rank.isNone && s.ms.position == field m.body 8 2) = true := by
    rcases hm with hm | hm
    · obtain ⟨r, hr⟩ := Option.isSome_iff_exists.mp hm
      simp [hr]
    · simp [hm]
  rw [if_neg other] at e
  have stands := (State.memberSubstitutes_stands { u with ctr := c' } (field m.body 6 2) (m.src == field m.body 6 2)).trans
    (State.remindHash_stands _ (field m.body 6 2))
  rw [e]
  generalize (State.memberSubstitutes { u with ctr := c' } _ _).remindHash _ = v at stands
  obtain ⟨hmach, hprog, hnor, hfuse, hfw, hstep⟩ := stands
  refine ⟨State.substituted_installed hlt (by rw [hmach, hu]; rfl) (by rw [hnor, hu]; rfl) (by rw [hfuse, hu]; rfl) (by rw [hfw, hu]; rfl), ?_⟩
  obtain ⟨⟨x, b, n', k, w, y, e'⟩, -⟩ := v.substituted_spec m (nth 0 s.mach.ranks (field m.body 6 2))
  rw [e']
  refine ⟨(congrArg Mach.rank hmach).trans ?_, hstep.trans ?_, hprog.trans ?_⟩ <;> rw [hu] <;> rfl

/-- The spare takes the rank. -/
theorem substitute_spare (hr : s.mach.rank = none) (hp : s.ms.position = field m.body 8 2) : s.installed m (substitute m s) ∧
    (substitute m s).mach.rank = some (field m.body 6 2) ∧ (substitute m s).st.stepNo = field m.body 0 4 ∧
    (substitute m s).st.committed = some (field m.body 10 4) ∧
    (substitute m s).mir.pulls.map (fun p => (p.owner, p.part)) = (List.range ((substitute m s).holders (field m.body 6 2)).length).map (fun j => (field m.body 6 2, j)) ∧
    (substitute m s).recov.subst = true ∧ (substitute m s).recov.remirror = true ∧
    ∀ (p : Program) (ms : List Region), s.prog = some p → ms = (substitute m s).mirrorRegions →
      (substitute m s).prog = some (p.placed (field m.body 6 2)) ∧
      s.outside (substitute m s) ({ base := (p.placeOf (field m.body 6 2)).partTable, len := (ownerTable p.decl).length } :: ms) ∧
      (∀ x ∈ ms, ∀ i < x.len, (substitute m s).byte (x.base + i) = 0) ∧
      ((∀ x ∈ ms, overlaps x { base := (p.placeOf (field m.body 6 2)).partTable, len := (ownerTable p.decl).length } = false) →
        (substitute m s).read (p.placeOf (field m.body 6 2)).partTable (ownerTable p.decl).length = ownerTable p.decl) := by
  obtain ⟨n, c, u, hu, c', e⟩ := substitute_installs h hk hf ha hlt hne
  rw [if_pos (by simp [hr, hp])] at e
  generalize hv : State.takeRank { u with ctr := c' } (field m.body 6 2) (field m.body 0 4) (field m.body 4 1) (field m.body 10 4) = v at e
  have frame : v.mach.ranks = setNth s.mach.ranks (field m.body 6 2) (field m.body 8 2) ∧ v.nor = s.nor ∧ v.fuse = s.fuse ∧ v.ms.fw = s.ms.fw := by
    obtain ⟨m', k, et⟩ := State.takeRank_eq { u with ctr := c' } (field m.body 6 2) (field m.body 0 4) (field m.body 4 1) (field m.body 10 4)
    obtain ⟨mm, q, z, ep⟩ := State.placedAt_eq { u with ctr := c' } (field m.body 6 2) (field m.body 0 4) (field m.body 4 1) (field m.body 10 4)
    rw [← hv, et]
    refine ⟨?_, ?_, ?_, ?_⟩ <;> rw [ep, hu] <;> rfl
  obtain ⟨hranks, hnor, hfuse, hfw⟩ := frame
  obtain ⟨⟨x, b, n', k, w, y, e'⟩, -⟩ := v.substituted_spec m (nth 0 s.mach.ranks (field m.body 6 2))
  have eq : substitute m s = { v with host := x, bar := b, net := n', ctr := k, wd := w, st := { v.st with windowShut := y } } := e.trans e'
  obtain ⟨hrank, hstep, hcom, hpulls, hsub, hrem, hprog⟩ := State.takeRank_shows (u := { u with ctr := c' }) (t := substitute m s) (by rw [eq, ← hv])
  have uprog : u.prog = s.prog := by rw [hu]; rfl
  have umem : u.mem = s.mem := by rw [hu]; rfl
  refine ⟨e ▸ State.substituted_installed hlt hranks hnor hfuse hfw, hrank, hstep, hcom, hpulls, hsub, hrem, fun p ms hs hms => ⟨hprog p (uprog.trans hs), ?_⟩⟩
  obtain ⟨out, zero, table⟩ := State.takeRank_memory (s := { u with ctr := c' }) (t := substitute m s) (uprog.trans hs) (by rw [eq, ← hv])
    (show ms = (State.takeRank { u with ctr := c' } (field m.body 6 2) (field m.body 0 4) (field m.body 4 1) (field m.body 10 4)).mirrorRegions by
      rw [hms, eq, hv]; rfl)
  refine ⟨fun a hx => (out a hx).trans ?_, zero, table⟩
  show u.byte a = s.byte a
  rw [State.byte, umem]

end

end Sys2Proof.Machine
end

section
/-! PROOFS. FALLBACK: what is in progress ends with PEER_LOST (11 R286, R287, R289), and the statement of SUBSTITUTE and FALLBACK. -/

namespace Sys2Proof.Machine

open Sys2Proof

/-! ### The FLOOR barrier stays as a boundary goes on -/

theorem State.bar_foldl {α : Type} {f : State → α → State} (h : ∀ (s : State) (x : α), (f s x).bar = s.bar) (l : List α) (s : State) : (l.foldl f s).bar = s.bar :=
  List.foldlRecOn (motive := fun t : State => t.bar = s.bar) l f rfl fun t ht x _ => (h t x).trans ht

theorem State.floor_of_bar {s t : State} (h : t.bar = s.bar) : t.barrier 3 = s.barrier 3 := by
  rw [State.barrier, h]

theorem State.bar_of_netOnly {s t : State} (h : s.netOnly t) : t.bar = s.bar := by
  obtain ⟨n, c, rfl⟩ := (State.netOnly_iff s t).mp h
  rfl

theorem State.bar_of_placesOnly {s t : State} (h : s.placesOnly t) : t.bar = s.bar := by
  obtain ⟨m, c, x, a, rfl⟩ := (State.placesOnly_iff s t).mp h
  rfl

theorem State.send_bar (s : State) (m : Msg) : (s.send m).bar = s.bar := State.bar_of_netOnly (s.send_conveys m).1

theorem State.tellSpareAll_bar (s : State) (l : List Msg) : (s.tellSpareAll l).bar = s.bar := by
  obtain ⟨n, c, e⟩ := s.tellSpareAll_eq l
  rw [e]

theorem State.sendMsgs_bar (s : State) (l : List Msg) : (s.sendMsgs l).bar = s.bar := State.bar_foldl State.send_bar l s

theorem State.stream_bar (s : State) (opc : Nat) (runs : List (Nat × List Byte)) : (s.stream opc runs).bar = s.bar := by
  obtain ⟨n, c, k, e, -⟩ := s.stream_eq opc runs
  rw [e]

theorem State.tellMoved_bar (s : State) (ring : Nat) : (s.tellMoved ring).bar = s.bar := by
  unfold State.tellMoved
  dsimp only
  generalize hrs : Option.elim _ _ _ = rs
  have left : (s.leaveRows rs).bar = s.bar := State.bar_foldl (fun t r => by
    unfold State.installEntry
    dsimp only
    split <;> rfl) rs s
  refine (State.tellSpareAll_bar _ _).trans ((State.bar_foldl (fun t o => ?_) _ _).trans left)
  exact State.bar_foldl State.send_bar _ t

theorem State.finishWaiting_bar (s : State) (x : Nat × Nat × Nat) : (s.finishWaiting x).bar = s.bar := by
  unfold State.finishWaiting
  dsimp only
  refine (State.complete_bar _ _ _).trans ?_
  have entered : (if ((s.ring x.1).busy).elim 0 (fun b => descOp b.2) = 0x02 then s.enter .loaded else s).bar = s.bar := by
    split
    · obtain ⟨h, y, e⟩ := s.enter_eq .loaded
      rw [e]
    · rfl
  split
  · exact (State.tellMoved_bar _ _).trans entered
  · exact entered

theorem State.finishCopies_floor (s : State) : s.finishCopies.barrier 3 = s.barrier 3 := by
  unfold State.finishCopies
  split
  · dsimp only
    refine (State.tryBegin_floor _).trans (State.floor_of_bar ((State.bar_foldl State.finishWaiting_bar _ _).trans ?_))
    refine (State.bar_of_netOnly (State.sendAll_conveys _ _ _).1).trans ((State.bar_of_netOnly (State.sendAll_conveys _ _ _).1).trans rfl)
  · rfl

theorem State.copyWith_floor (s : State) (carried : List Byte) (touched : List Region) (w : List (Nat × Nat × Nat)) :
    (s.copyWith carried touched w).barrier 3 = s.barrier 3 := by
  unfold State.copyWith
  dsimp only
  exact (State.finishCopies_floor _).trans (State.floor_of_bar (State.stream_bar _ _ _))

theorem State.copyBoundary_floor (s : State) (touched : List Region) (w : List (Nat × Nat × Nat)) : (s.copyBoundary touched w).barrier 3 = s.barrier 3 := by
  unfold State.copyBoundary
  split
  · exact State.finishCopies_floor _
  · exact s.copyWith_floor _ _ _

theorem State.appliedAct_floor (s : State) (a : Act) (touched : List Region) (info : Nat) : (s.appliedAct a touched info).barrier 3 = s.barrier 3 :=
  State.copyBoundary_floor _ _ _

theorem State.turnIngest_floor (s : State) (a : Act) : (s.turnIngest a).barrier 3 = s.barrier 3 := by
  unfold State.turnIngest
  split
  · exact State.floor_of_bar (State.complete_bar _ _ _)
  · next r hr =>
    obtain ⟨m, c, e⟩ := State.applyIngest_eq hr
    exact (State.appliedAct_floor _ _ _ _).trans ((State.floor_of_bar r.1.startRunning_bar).trans (by rw [e]))

theorem State.turnMigrate_floor (s : State) (a : Act) : (s.turnMigrate a).barrier 3 = s.barrier 3 := by
  unfold State.turnMigrate
  split
  · exact State.floor_of_bar (State.complete_bar _ _ _)
  · dsimp only
    split
    · exact (State.appliedAct_floor _ _ _ _).trans (State.floor_of_bar (State.startRunning_bar (s.takeOff a)))
    · rw [State.sendMoves_eq]
      exact State.floor_of_bar (State.sendMsgs_bar _ _)

@[simp] theorem State.freeSlots_bar (s : State) (t : Nat) (l : List Nat) : (s.freeSlots t l).bar = s.bar := rfl

@[simp] theorem State.dropScales_bar (s : State) (k : Nat) : (s.dropScales k).bar = s.bar := rfl

theorem State.restage_bar (s : State) : s.restage.bar = s.bar := State.bar_of_placesOnly s.restage_placesOnly

theorem State.flipRow_bar (s : State) (t : TableDecl) (tab row slot : Nat) : (s.flipRow t tab row slot).bar = s.bar := by
  unfold State.flipRow
  dsimp only
  split <;> simp only [State.dropScales_bar, State.freeSlots_bar, State.write_bar, State.setDir_bar]

theorem State.putRows_bar (s : State) (a : Act) (t : TableDecl) : (s.putRows a t).1.bar = s.bar := by
  have flipped := State.bar_foldl (f := fun (u : State) (x : Nat × Nat) => u.flipRow t a.table x.1 x.2) (fun u x => u.flipRow_bar t a.table x.1 x.2) a.staged s
  have written := State.bar_foldl (f := fun (u : State) (i : Nat) => u.write (u.localSlot a.table (a.first + i)) (a.newRow (tabRowBytes t) i))
    (fun u i => u.write_bar _ _) (List.range a.count) s
  unfold State.putRows
  split
  · exact (State.restage_bar _).trans ((State.count_bar _ _ _).trans flipped)
  · exact (State.count_bar _ _ _).trans written

theorem State.turnReplace_floor (s : State) (a : Act) : (s.turnReplace a).barrier 3 = s.barrier 3 := by
  unfold State.turnReplace
  split
  · exact State.floor_of_bar (State.complete_bar _ _ _)
  · split
    · exact (State.appliedAct_floor _ _ _ _).trans (State.floor_of_bar ((State.putRows_bar _ _ _).trans s.startRunning_bar))
    · exact State.floor_of_bar ((State.complete_bar _ _ _).trans ((State.restage_bar _).trans (s.freeSlots_bar _ _)))

theorem State.turn_floor (s : State) (a : Act) : (s.turn a).barrier 3 = s.barrier 3 := by
  unfold State.turn
  split
  · exact State.turnIngest_floor (s.takeOff a) a
  · exact s.turnMigrate_floor a
  · exact State.turnReplace_floor (s.takeOff a) a

theorem State.applyDue_floor (s : State) (n : Nat) : (s.applyDue n).barrier 3 = s.barrier 3 := by
  induction n generalizing s with
  | zero => rfl
  | succ n ih =>
    unfold State.applyDue
    split
    · rfl
    · split
      · rfl
      · split
        · rfl
        · exact (ih _).trans (s.turn_floor _)

theorem State.applyIdle_floor (s : State) : s.applyIdle.barrier 3 = s.barrier 3 := by
  unfold State.applyIdle
  split
  · exact s.applyDue_floor _
  · rfl

theorem State.restoreRetained_floor (s : State) (attempt : Nat) : (s.restoreRetained attempt).barrier 3 = s.barrier 3 := by
  obtain ⟨g, c, e⟩ := (State.coresOnly_iff _ _).mp (s.dropWork_coresOnly false)
  obtain ⟨m, e'⟩ := State.writeBack_eq (s.dropWork false)
  have dropped : ((s.dropWork false).writeBack.dropArrivals attempt).barrier 3 = (s.dropWork false).writeBack.barrier 3 := by
    simp only [State.dropArrivals, List.foldl_cons, List.foldl_nil]
    rw [State.setBarrier_floor _ (by decide), State.setBarrier_floor _ (by decide), State.setBarrier_floor _ (by decide), State.setBarrier_floor _ (by decide)]
  refine Eq.trans ?_ (dropped.trans (State.floor_of_bar (by rw [e', e])))
  rfl

/-! ### What goes on under FALLBACK -/

/-- On the way from `s` to `t` commands have ended under FALLBACK: the step number, the serial memory, the mode and the FLOOR barrier stay. -/
structure State.falls (s t : State) : Prop where
  goesOn : s.goesOn t
  nor : t.nor = s.nor
  stepNo : t.st.stepNo = s.st.stepNo
  fallback : t.recov.fallback = s.recov.fallback
  remirror : t.recov.remirror = s.recov.remirror
  floor : t.barrier 3 = s.barrier 3

theorem State.falls_refl (s : State) : s.falls s := ⟨s.goesOn_refl, rfl, rfl, rfl, rfl, rfl⟩

theorem State.falls.trans {s t u : State} (h : s.falls t) (k : t.falls u) : s.falls u :=
  ⟨State.goesOn_trans h.goesOn k.goesOn, k.nor.trans h.nor, k.stepNo.trans h.stepNo, k.fallback.trans h.fallback, k.remirror.trans h.remirror, k.floor.trans h.floor⟩

theorem State.complete_falls (s : State) (n : Nat) (c : Cpl) : s.falls (s.complete n c) := by
  have hg := s.complete_goesOn n c
  obtain ⟨x, y, e⟩ := s.complete_eq n c
  rw [e] at hg ⊢
  exact ⟨hg, rfl, rfl, rfl, rfl, rfl⟩

/-- Completions of a list of commands. -/
theorem State.complete_foldl_falls {α : Type} (n : α → Nat) (c : α → Cpl) (l : List α) (s : State) :
    s.falls (l.foldl (fun s x => s.complete (n x) (c x)) s) ∧ ∃ x y, l.foldl (fun s x => s.complete (n x) (c x)) s = { s with host := x, ms := { s.ms with st := y } } :=
  List.foldlRecOn (motive := fun t : State => s.falls t ∧ ∃ x y, t = { s with host := x, ms := { s.ms with st := y } }) l _ ⟨s.falls_refl, s.host, s.ms.st, rfl⟩
    fun t ⟨ht, x, y, e⟩ a _ => by
      refine ⟨ht.trans (t.complete_falls _ _), ?_⟩
      obtain ⟨x', y', e'⟩ := t.complete_eq (n a) (c a)
      rw [e', e]
      exact ⟨x', y', rfl⟩

/-! ### The step in progress -/

/-- Under FALLBACK a STEP that waited is refused. -/
theorem State.startStep_lost {s : State} (h : s.recov.fallback = true) (w : WaitingStep) :
    ∃ x y, s.startStep w = { s with host := x, ms := { s.ms with st := y } } := by
  unfold State.startStep
  split
  · exact ⟨s.host, s.ms.st, rfl⟩
  · rw [if_pos h]
    exact s.complete_eq _ _

/-- Under FALLBACK no STEP that waited starts. -/
theorem State.nextSteps_lost {s : State} (h : s.recov.fallback = true) (n : Nat) :
    ∃ x y l, s.nextSteps n = { s with host := x, ms := { s.ms with st := y }, st := { s.st with waiting := l } } := by
  induction n generalizing s with
  | zero => exact ⟨s.host, s.ms.st, s.st.waiting, rfl⟩
  | succ n ih =>
    unfold State.nextSteps
    split
    · next w l _ _ =>
      obtain ⟨x, y, e⟩ := State.startStep_lost (s := { s with st := { s.st with waiting := l } }) h w
      rw [e]
      obtain ⟨x', y', l', e'⟩ := ih (s := { s with host := x, ms := { s.ms with st := y }, st := { s.st with waiting := l } }) h
      exact ⟨x', y', l', e'⟩
    · exact ⟨s.host, s.ms.st, s.st.waiting, rfl⟩

/-- The module with its step in progress gone. -/
def State.stepGone (s : State) (last : Option (Nat × Nat)) : State :=
  { s with
    st := { s.st with
      run := none
      owedReplays := 0
      lastAttempt := last }
    tier := { s.tier with ueBursts := [] }
    recov := { s.recov with replays := 0 } }

/-- Under FALLBACK a step that is dropped leaves no step in progress. -/
theorem State.dropStep_lost {s : State} (h : s.recov.fallback = true) (r : StepRun) (last : Option (Nat × Nat)) (c : Cpl) :
    s.falls (s.dropStep r last c) ∧ (s.dropStep r last c).st.run = none ∧ ((s.ring r.ring).busy.isSome = true → s.ended r.ring c (s.dropStep r last c)) := by
  obtain ⟨hnor, hstep, -, hg, -, -, hended⟩ := s.dropStep_spec r last c
  have eq : s.dropStep r last c = ((s.stepGone last).complete r.ring c).applyIdle.followOn := rfl
  obtain ⟨x, y, e⟩ := (s.stepGone last).complete_eq r.ring c
  have idle := ((s.stepGone last).complete r.ring c).applyIdle_boundary
  have floor := ((s.stepGone last).complete r.ring c).applyIdle_floor.trans (State.floor_of_bar ((s.stepGone last).complete_bar r.ring c))
  generalize (s.stepGone last).complete r.ring c = v at e idle floor eq
  have kept : v.applyIdle.recov.fallback = s.recov.fallback ∧ v.applyIdle.recov.remirror = s.recov.remirror ∧ v.applyIdle.st.run = none := by
    have hrecov : (v.applyIdle.boundaryAs v).recov = v.recov := congrArg State.recov idle.1
    obtain ⟨-, -, -, -, hrun⟩ := State.boundary_kept idle
    rw [show v.applyIdle.recov = v.recov from hrecov, hrun, e]
    exact ⟨rfl, rfl, rfl⟩
  obtain ⟨hf, hm, hr⟩ := kept
  obtain ⟨x', y', l, e'⟩ := State.nextSteps_lost (hf.trans h) v.applyIdle.st.waiting.length
  have done : s.dropStep r last c = { v.applyIdle with host := x', ms := { v.applyIdle.ms with st := y' }, st := { v.applyIdle.st with waiting := l } } := eq.trans e'
  refine ⟨⟨hg, hnor, hstep, ?_, ?_, ?_⟩, ?_, hended⟩ <;> rw [done]
  · exact hf
  · exact hm
  · exact floor
  · exact hr

/-! ### EVALs in progress -/

/-- The end of an EVAL while no step is in progress. -/
theorem State.endEval_lost {s : State} (h : s.st.run = none) (ring : Nat) (c : Cpl) : s.falls (s.endEval ring c) ∧ (s.endEval ring c).st.run = none ∧
    (s.endEval ring c).st.evals.map (·.ring) = (s.st.evals.filter fun e => e.ring != ring).map (·.ring) ∧
    ((s.ring ring).busy.isSome = true → s.ended ring c (s.endEval ring c)) := by
  rw [State.endEval_eq]
  obtain ⟨g, k, e⟩ := s.evalDropped_eq ring
  generalize s.evalDropped ring = t at e
  have dropped : s.falls t := by
    rw [e]
    exact ⟨State.goesOn_of_same rfl rfl, rfl, rfl, rfl, rfl, rfl⟩
  have ended : (s.ring ring).busy.isSome = true → s.ended ring c (t.complete ring c) := State.complete_ended (by rw [e])
  have completed := t.complete_falls ring c
  obtain ⟨x, y, e'⟩ := t.complete_eq ring c
  generalize t.complete ring c = u at e' ended completed
  obtain ⟨⟨hh, -, -, -⟩, hst⟩ := u.startEval_spec
  obtain ⟨m, g', c', l, es⟩ := u.startEval_eq
  have hu : u.st.run = none ∧ u.st.evals = s.st.evals.filter fun e => e.ring != ring := by
    rw [e', e]
    exact ⟨h, rfl⟩
  have prepared : u.startEval.tryPrepared = u.startEval := by
    unfold State.tryPrepared
    rw [show u.startEval.st.run = none by rw [hst]; exact hu.1]
  have started : u.falls u.startEval := by
    have hg : u.goesOn u.startEval := State.goesOn_of_same hh (by rw [es])
    rw [es] at hg ⊢
    exact ⟨hg, rfl, rfl, rfl, rfl, rfl⟩
  rw [prepared]
  refine ⟨(dropped.trans completed).trans started, ?_, ?_, fun hb => State.ended_goesOn (ended hb) started.goesOn⟩
  · rw [hst]
    exact hu.1
  · rw [hst, ← hu.2]
    exact firstBegun_rings _ _

/-- Every EVAL of a list that holds all those in progress has ended. -/
theorem State.endEvals_lost (c : EvalRun → Cpl) (l : List EvalRun) {s : State} (h : s.st.run = none) (hl : ∀ x ∈ s.st.evals.map (·.ring), x ∈ l.map (·.ring)) :
    s.falls (l.foldl (fun s e => s.endEval e.ring (c e)) s) ∧ (l.foldl (fun s e => s.endEval e.ring (c e)) s).st.run = none ∧
    (l.foldl (fun s e => s.endEval e.ring (c e)) s).st.evals = [] := by
  induction l generalizing s with
  | nil => exact ⟨s.falls_refl, h, List.map_eq_nil_iff.mp (List.eq_nil_iff_forall_not_mem.mpr fun x hx => List.not_mem_nil (hl x hx))⟩
  | cons e l ih =>
    obtain ⟨hf, hr, he, -⟩ := State.endEval_lost h e.ring (c e)
    obtain ⟨kf, kr, ke⟩ := ih hr fun x hx => by
      rw [he] at hx
      obtain ⟨y, hy, rfl⟩ := List.mem_map.mp hx
      obtain ⟨hy, hne⟩ := List.mem_filter.mp hy
      exact (List.mem_cons.mp (hl y.ring (List.mem_map.mpr ⟨y, hy, rfl⟩))).resolve_left (by simpa using hne)
    exact ⟨hf.trans kf, kr, ke⟩

/-! ### What waits for a lost holder -/

theorem State.undoFrom_falls (s : State) (owners : List Nat) : s.falls (s.undoFrom owners) ∧ (s.undoFrom owners).st.run = s.st.run ∧
    (s.undoFrom owners).st.evals = s.st.evals := by
  obtain ⟨x, e, hx⟩ := s.undoFrom_eq owners
  rw [e]
  exact ⟨⟨State.goesOn_of_same rfl rfl, rfl, hx.stepNo, rfl, rfl, rfl⟩, hx.run, hx.evals⟩

theorem State.undoMine_goesOn (s : State) (a : Act) : s.goesOn (s.undoMine a) := by
  unfold State.undoMine
  dsimp only
  generalize hu : State.mk _ _ _ _ _ _ _ _ _ _ _ _ _ _ _ _ _ _ _ _ _ _ _ _ _ _ = u
  refine State.goesOn_trans (t := u) (State.goesOn_of_same (by rw [← hu]; rfl) (by rw [← hu]; rfl)) (State.goesOn_trans ?_ (State.complete_goesOn _ _ _))
  exact (State.sendMoves_copies u u.others fun o m hm => by rw [List.mem_singleton.mp hm]; exact show 1 ≠ 5 by decide).2.1

theorem State.undoMine_falls (s : State) (a : Act) : s.falls (s.undoMine a) ∧ (s.undoMine a).st.run = s.st.run ∧ (s.undoMine a).st.evals = s.st.evals := by
  have hg := s.undoMine_goesOn a
  obtain ⟨x, y, n, c, w, v, e, hv⟩ := s.undoMine_eq a
  rw [e] at hg ⊢
  exact ⟨⟨hg, rfl, hv.stepNo, rfl, rfl, rfl⟩, hv.run, hv.evals⟩

/-- The module with nothing awaited any more. -/
def State.awaitsNone (s : State) : State :=
  { s with
    mir := { s.mir with waiting := [], acks := [], out := [] }
    st := { s.st with
      applied := s.st.applied.map fun (a : Act) => { a with waitAck := false }
      eddyAcks := []
      refreshWait := [] } }

/-- The commands that waited complete. -/
theorem State.endWaiting_eq (s : State) : ∃ u : State, s.falls u ∧ u.st.run = s.st.run ∧ u.st.evals = s.st.evals ∧
    (s.st.reserving = none → s.st.applied = [] → u.mir = s.mir ∧ u.host = s.host) ∧
    s.endWaiting = u.mir.waiting.foldl (fun t x => t.complete x.1 { status := .peerLost, step := x.2.2 }) u.awaitsNone := by
  unfold State.endWaiting
  split
  · obtain ⟨hf, hr, he⟩ := s.undoFrom_falls (List.range s.ranks)
    refine ⟨s.undoFrom (List.range s.ranks), hf, hr, he, fun _ _ => ?_, rfl⟩
    obtain ⟨x, e, -⟩ := s.undoFrom_eq (List.range s.ranks)
    rw [e]
    exact ⟨rfl, rfl⟩
  · next a ha =>
    obtain ⟨hf, hr, he⟩ := s.undoMine_falls a
    obtain ⟨kf, kr, ke⟩ := (s.undoMine a).undoFrom_falls (List.range (s.undoMine a).ranks)
    refine ⟨_, hf.trans kf, kr.trans hr, ke.trans he, fun h1 h2 => ?_, rfl⟩
    rw [h1, h2] at ha
    cases ha

theorem State.awaitsNone_falls (s : State) : s.falls s.awaitsNone := ⟨State.goesOn_of_same rfl rfl, rfl, rfl, rfl, rfl, rfl⟩

theorem State.endWaiting_spec (s : State) : s.falls s.endWaiting ∧ s.endWaiting.st.run = s.st.run ∧ s.endWaiting.st.evals = s.st.evals ∧ s.endWaiting.mir.waiting = [] := by
  obtain ⟨u, hf, hr, he, -, e⟩ := s.endWaiting_eq
  obtain ⟨kf, x, y, ek⟩ := u.awaitsNone.complete_foldl_falls (fun x : Nat × Nat × Nat => x.1) (fun x => { status := .peerLost, step := x.2.2 }) u.mir.waiting
  rw [e]
  refine ⟨(hf.trans u.awaitsNone_falls).trans kf, ?_⟩
  rw [ek]
  exact ⟨hr, he, rfl⟩

/-- A command that alone waited for a holder completes. -/
theorem State.endWaiting_ended {s : State} {w : Nat × Nat × Nat} (hr : s.st.reserving = none) (ha : s.st.applied = []) (hw : s.mir.waiting = [w])
    (hb : (s.ring w.1).busy.isSome = true) : s.ended w.1 { status := .peerLost, step := w.2.2 } s.endWaiting := by
  obtain ⟨u, -, -, -, same, e⟩ := s.endWaiting_eq
  obtain ⟨hm, hh⟩ := same hr ha
  rw [e, hm, hw]
  exact State.complete_ended (show u.ring w.1 = s.ring w.1 by rw [State.ring, hh]) hb

/-! ### FALLBACK -/

/-- A member as FALLBACK finds it taken up: the mode in force, nothing awaited at the FLOOR barrier. -/
def State.fallen (s : State) (n : Net) (c : Counters) : State :=
  State.setBarrier { s with net := n, ctr := c, recov := { s.recov with fallback := true, remirror := false } } bFloor Barrier.none_

/-- The step in progress, dropped. -/
def State.loseStep (s : State) : State :=
  match s.st.run with
  | none => s
  | some r => (s.restoreRetained r.attempt).dropStep r (s.usedAttempt r) {
      status := .peerLost
      info := if r.exec then 1 else r.epoch
      step := s.st.stepNo
      replays := r.replays }

theorem State.loseStep_spec {s : State} (h : s.recov.fallback = true) : s.falls s.loseStep ∧ s.loseStep.st.run = none ∧
    ∀ r, s.st.run = some r → (s.ring r.ring).busy.isSome = true →
      s.ended r.ring { status := .peerLost, info := if r.exec then 1 else r.epoch, step := s.st.stepNo, replays := r.replays } s.loseStep := by
  unfold State.loseStep
  split
  · next hr => exact ⟨s.falls_refl, hr, fun r hr' => by rw [hr] at hr'; cases hr'⟩
  · next r hr =>
    have floor := s.restoreRetained_floor r.attempt
    obtain ⟨g, c, b, e, hh, k, o, ev, -⟩ := s.restoreRetained_eq r.attempt
    have ring : (s.restoreRetained r.attempt).ring r.ring = s.ring r.ring := by rw [ev]
    have restored : s.falls (s.restoreRetained r.attempt) := by
      rw [ev] at floor ⊢
      exact ⟨State.goesOn_of_same rfl rfl, rfl, rfl, rfl, rfl, floor⟩
    obtain ⟨hf, hrun, hend⟩ := State.dropStep_lost (restored.fallback.trans h) r (s.usedAttempt r)
      { status := .peerLost, info := if r.exec then 1 else r.epoch, step := s.st.stepNo, replays := r.replays }
    refine ⟨restored.trans hf, hrun, fun r' hr' hb => ?_⟩
    rw [hr] at hr'
    cases hr'
    exact State.ended_of_ring ring (hend (by rwa [ring]))

section
variable {s : State} {m : Msg} (h : s.control cFallback m = true)
include h

theorem fallback_eq : ∃ n c, fallback m s =
    ((s.fallen n c).loseStep.st.evals.foldl (fun s e => s.endEval e.ring { status := .peerLost, info := e.info, step := e.pinned })
      (s.fallen n c).loseStep).endWaiting.answerControl m := by
  obtain ⟨n, e⟩ := s.took_eq m
  obtain ⟨n', c, e'⟩ := (s.took m).tellSpare_eq m
  have shape : (s.took m).tellSpare m = { s with net := n', ctr := c } := by rw [e', e]
  refine ⟨n', (State.count { s with net := n', ctr := c } cFallbacks 1).ctr, ?_⟩
  unfold fallback
  rw [if_neg (by simp [h]), shape]
  rfl

/-- FALLBACK is in force, and nothing is in progress. -/
theorem fallback_spec : (fallback m s).recov.fallback = true ∧ (fallback m s).st.run = none ∧ (fallback m s).st.evals = [] ∧
    (fallback m s).st.stepNo = s.st.stepNo ∧ (fallback m s).nor = s.nor ∧ (fallback m s).mir.waiting = [] ∧ (fallback m s).recov.remirror = false ∧
    ((fallback m s).barrier 3).own = none ∧
    (∀ r, s.st.run = some r → (s.ring r.ring).busy.isSome = true →
      s.ended r.ring { status := .peerLost, info := if r.exec then 1 else r.epoch, step := s.st.stepNo, replays := r.replays } (fallback m s)) ∧
    (∀ e, s.st.run = none → s.st.evals = [e] → (s.ring e.ring).busy.isSome = true → s.ended e.ring { status := .peerLost, info := e.info, step := e.pinned } (fallback m s)) ∧
    ∀ w, s.st.run = none → s.st.evals = [] → s.st.reserving = none → s.st.applied = [] → s.mir.waiting = [w] → (s.ring w.1).busy.isSome = true →
      s.ended w.1 { status := .peerLost, step := w.2.2 } (fallback m s) := by
  obtain ⟨n, c, eq⟩ := fallback_eq h
  rw [eq]
  obtain ⟨lost, lostRun, stepEnds⟩ := State.loseStep_spec (s := s.fallen n c) rfl
  have idle : s.st.run = none → (s.fallen n c).loseStep = s.fallen n c := fun hr => by
    unfold State.loseStep
    rw [show (s.fallen n c).st.run = none from hr]
  generalize (s.fallen n c).loseStep = u at lost lostRun stepEnds idle
  obtain ⟨evalled, noRun, noEvals⟩ := State.endEvals_lost (fun e => { status := .peerLost, info := e.info, step := e.pinned }) u.st.evals lostRun fun _ hx => hx
  have one : ∀ e, u.st.evals = [e] → (u.ring e.ring).busy.isSome = true → u.ended e.ring { status := .peerLost, info := e.info, step := e.pinned }
      (u.st.evals.foldl (fun s e => s.endEval e.ring { status := .peerLost, info := e.info, step := e.pinned }) u) := fun e he hb => by
    obtain ⟨-, -, -, ends⟩ := State.endEval_lost lostRun e.ring { status := .peerLost, info := e.info, step := e.pinned }
    rw [he]
    exact ends hb
  have noneEval : u.st.evals = [] → u.st.evals.foldl (fun s e => s.endEval e.ring { status := .peerLost, info := e.info, step := e.pinned }) u = u := fun he => by rw [he]; rfl
  generalize u.st.evals.foldl (fun s e => s.endEval e.ring { status := .peerLost, info := e.info, step := e.pinned }) u = v at evalled noRun noEvals one noneEval
  obtain ⟨waited, waitRun, waitEvals, noWait⟩ := v.endWaiting_spec
  obtain ⟨⟨n', c', ea⟩, answered, -⟩ := v.endWaiting.answerControl_spec m
  have all := (lost.trans evalled).trans waited
  have kept : (v.endWaiting.answerControl m).recov = v.endWaiting.recov ∧ (v.endWaiting.answerControl m).st = v.endWaiting.st ∧
      (v.endWaiting.answerControl m).nor = v.endWaiting.nor ∧ (v.endWaiting.answerControl m).mir = v.endWaiting.mir ∧
      (v.endWaiting.answerControl m).bar = v.endWaiting.bar := by
    rw [ea]
    exact ⟨rfl, rfl, rfl, rfl, rfl⟩
  obtain ⟨hrecov, hst, hnor, hmir, hbar⟩ := kept
  refine ⟨?_, ?_, ?_, ?_, ?_, ?_, ?_, ?_, fun r hr hb => ?_, fun e hr he hb => ?_, fun w hr he hres happ hw hb => ?_⟩
  · rw [hrecov]
    exact all.fallback
  · rw [hst]
    exact waitRun.trans noRun
  · rw [hst]
    exact waitEvals.trans noEvals
  · rw [hst]
    exact all.stepNo
  · rw [hnor]
    exact all.nor
  · rw [hmir]
    exact noWait
  · rw [hrecov]
    exact all.remirror
  · rw [State.floor_of_bar hbar, all.floor]
    exact congrArg Barrier.own (State.barrier_setBarrier _ (by decide) Barrier.none_)
  · exact State.ended_goesOn (State.ended_goesOn (stepEnds r hr hb) (evalled.trans waited).goesOn) answered
  · have hu := idle hr
    subst hu
    exact State.ended_goesOn (State.ended_goesOn (one e he hb) waited.goesOn) answered
  · have hu := idle hr
    subst hu
    have hv := noneEval he
    subst hv
    exact State.ended_goesOn (State.endWaiting_ended (s := s.fallen n c) hres happ hw hb) answered

end

/-- Settles O40: SUBSTITUTE by what it finds the module to be, FALLBACK by what it ends. -/
theorem substitution : Obligations.Substitution := by
  unfold Obligations.Substitution
  refine fun s m => ⟨fun k pos h hk hpos => ?_, fun h => ?_, fun w h hr he hres happ hw hb => ?_⟩
  · subst hk hpos
    refine ⟨fun hr hp => ⟨_, rfl, substitute_moved h hr hp⟩, fun hk hw => congrArg Host.Outcome.next (substitute_waits h hk hw), fun hf ha => ⟨fun hk hn => ?_, fun hk hlt hne => ?_⟩⟩
    · exact ⟨_, rfl, substitute_answers h hk hf ha hn⟩
    · by_cases spare : s.mach.rank = none ∧ s.ms.position = field m.body 8 2
      · obtain ⟨hr, hp⟩ := spare
        obtain ⟨⟨i1, i2, i3, i4, i5, i6⟩, hrank, hstep, hcom, hpulls, hsub, hrem, placed⟩ := substitute_spare h hk hf ha hlt hne hr hp
        refine ⟨_, rfl, i1, i2, i3, i4, i5, i6, fun hm => ?_, fun _ _ => ⟨hrank, hstep, hcom, hpulls, hsub, hrem, fun p place ms hs hplace hms => ?_⟩⟩
        · rw [hr] at hm
          exact absurd hp (hm.resolve_left (by decide))
        · rw [← State.mirrorRegions_of_rank hrank] at hms
          obtain ⟨hprog, rest⟩ := placed p ms hs hms
          subst hplace
          exact ⟨by rw [hprog]; rfl, rest⟩
      · have hm : s.mach.rank.isSome = true ∨ s.ms.position ≠ field m.body 8 2 := by
          by_cases hr : s.mach.rank = none
          · exact .inr fun hp => spare ⟨hr, hp⟩
          · exact .inl (Option.isSome_iff_ne_none.mpr hr)
        obtain ⟨⟨i1, i2, i3, i4, i5, i6⟩, hkept⟩ := substitute_member h hk hf ha hlt hne hm
        exact ⟨_, rfl, i1, i2, i3, i4, i5, i6, fun _ => hkept, fun hr hp => absurd ⟨hr, hp⟩ spare⟩
  · obtain ⟨h1, h2, h3, h4, h5, h6, h7, h8, h9, h10, -⟩ := fallback_spec h
    exact ⟨_, rfl, h1, h2, h3, h4, h5, h6, h7, h8, h9, h10⟩
  · obtain ⟨-, -, -, -, -, -, -, -, -, -, h11⟩ := fallback_spec h
    exact ⟨_, rfl, h11 w hr he hres happ hw hb⟩

end Sys2Proof.Machine
end
